-- ==== Sys2Proof/Word.lean ====
section
/-! DEFINITION. The word types and the sparse-table type that every other file builds on. -/

namespace Sys2Proof

/-- One byte. -/
abbrev Byte := BitVec 8

/-- One register word (R6: registers are 32 bits wide). -/
abbrev W32 := BitVec 32

/-- A 32-byte header held whole, byte offset 0 in bits 7..0 (R7), so that reserved bits survive: a waybill (R111),
a hop record (R114) or an attach header (R69). -/
abbrev Header := BitVec 256

/-- A sparse table: (key, value) pairs, keys strictly rising, no entry equal to the table's default value.
What an unlisted key reads as is an argument of the read. -/
abbrev Tab (α : Type) := List (Nat × α)

end Sys2Proof
end

