-- ==== Sys2Proof/Types.lean ====
section
/-! DEFINITION. The data that commands carry and that State holds: names, messages, frames, accesses. No semantics. -/

namespace Sys2Proof

/-- How an item that a step receives comes to it: `waiting` takes the oldest one that waits for this step in the
block's own state (nothing waits: the step changes nothing); `given` is one presented from outside. -/
inductive Arrive (α : Type) where
  | waiting
  | given (x : α)
deriving DecidableEq, Repr

/-- An attach message (R64): header, payload, CRC-32C. -/
structure AttachMsg where
  hdr : Header
  payload : List Byte
  crc : W32
deriving DecidableEq, Repr

/-- A frame (R108): waybill, payload, end-to-end CRC-32C and the tail word of its last cell (R115). `poison` names the 64-byte parts of
the payload that an FPUT took from store words marked uncorrectable (R340, assumption 64). -/
structure Frame where
  wb : Header
  payload : List Byte
  crc : W32
  tail : W32
  poison : List Nat := []
deriving DecidableEq, Repr

/-- A cell in a slot of a port: the header bits of its two blocks, and its 64 bytes (R435). -/
structure TxCell where
  h0 : Bool
  h1 : Bool
  data : BitVec 512
deriving DecidableEq, Repr

/-- What a port's transmitter is told, in order: to send a cell; to fill its free slots with a cell, or to be off; to send free slots until
every lane has begun an encrypted group (R451, R452); and to drive lane 0 with the wake signal (R454). -/
inductive LineItem where
  | cell (c : TxCell)
  | fill (c : Option TxCell)
  | secure
  | wake
deriving DecidableEq, Repr

/-- An uncorrectable codeword (R438): its lane, and how many in a row it makes there. -/
structure BadCodeword where
  lane : Nat
  run : Nat
deriving DecidableEq, Repr

/-- What a lane loses (R447): its signal, the lock of its CDR, of its codewords, or of its markers. -/
inductive LostLock where
  | signal
  | cdr
  | codeword
  | marker
deriving DecidableEq, Repr

/-- A loss on a lane of a port. -/
structure LaneLoss where
  lane : Nat
  what : LostLock
deriving DecidableEq, Repr

/-- What else befalls a frame while its cells reach the switch core (R122, codes 3 to 5); an invalid cell (R435) is one of `link`. -/
inductive IngressFlaw where
  | clean
  | bufEcc
  | link
  | length
deriving DecidableEq, Repr

/-- A source and admission point: an end-point block, or the node requester with the RTE admission stage (R153, R166). -/
inductive Point where
  | ep (n : Nat)
  | rte
deriving DecidableEq, Repr

/-- The two kinds of series (R153). -/
inductive SKind where
  | ordered
  | sched
deriving DecidableEq, Repr

/-- What the decoder of R375 finds in one codeword read. `wrong` is what 7 or more symbols in error may come to: the decoder takes a wrong
line, whose ciphertext it holds, for good or for corrected. -/
inductive EccOutcome where
  | good
  | correctable
  | uncorrectable
  | wrong (cipher : BitVec 512) (corrected : Bool)
deriving DecidableEq, Repr

/-- The error that a read of an array's store meets (R340): one that is corrected, or a word that is not. -/
inductive StoreEcc where
  | corrected
  | uncorrectable (word : Nat)
deriving DecidableEq, Repr

/-- The word that it names is one of the 131,072 that a store has (R315). -/
def storeEccWord : StoreEcc → Bool
  | .corrected => true
  | .uncorrectable w => decide (w < 131072)

/-- The four frame classes, coded as in CLASS_PLEN (R111). -/
inductive FClass where
  | req
  | sched
  | rsp
  | ctrl
deriving DecidableEq, Repr

/-- The operation of one memory access at a channel. -/
inductive MemOp where
  | load
  | store
  | atomic
  | reduce
deriving DecidableEq, Repr

/-- Where the answer to an access or a call goes: to the source of the request whose waybill is kept, `dup` when the
request is a duplicate executed again (R168), or nowhere. -/
inductive Back where
  | notify (tally : Nat)
  | request (point : Point) (wb : Header) (dup : Bool)
  | nowhere
deriving DecidableEq, Repr

/-- One access to stacked memory on its way to its channel (R211). It lies within one 256-byte granule. -/
structure MemAcc where
  op : MemOp
  off : BitVec 52
  len : Nat
  subop : Byte
  dtype : Byte
  data : List Byte
  sched : Bool
  back : Back
  poison : List Nat := []
deriving DecidableEq, Repr

/-- One access to the tally aperture (R271): `off` is the offset from the aperture's start. -/
structure TlyAcc where
  op : MemOp
  off : BitVec 24
  len : Nat
  subop : Byte
  dtype : Byte
  data : List Byte
  src : BitVec 12
  back : Back
deriving DecidableEq, Repr

/-- One call to a service (R349): its payload, header first. -/
structure SvcCallIn where
  svc : Nat
  payload : List Byte
  back : Back
deriving DecidableEq, Repr

/-- A voucher offered in an INSTALLER OPEN (R464); `sigOk` is the verdict on its signature under the vendor key. -/
structure Voucher where
  fingerprint : BitVec 384
  key : BitVec 776
  sig : BitVec 768
  sigOk : Bool
deriving DecidableEq, Repr

/-- What a FUSE_ID names (R480): a word of the disabled-unit map, the SVN, a trim word, or anything else. -/
inductive FuseItem where
  | mapWord (k : Nat)
  | svn
  | trim (k : Nat)
  | other
deriving DecidableEq, Repr

/-- The parts that a wake event may need (R418); `relocked` says how the relock of a quiet port ends (R454). -/
inductive WakePart where
  | port (n : Nat) (relocked : Bool)
  | group (g : Nat)
  | node
deriving DecidableEq, Repr

/-- Who holds a bound or held collective member: a descriptor slot of an end-point block, or a binding entry of an
array group (R339). -/
inductive Binder where
  | ep (n slot : Nat)
  | cb (g e : Nat)
deriving DecidableEq, Repr

/-- What the reads of one heartbeat at one roster host returned (R399): the roster's 64-byte lines by their number. The read of a line that is
not there failed. -/
structure RosterRead where
  lines : Tab (Option (BitVec 512))
deriving DecidableEq, Repr

/-- How a CAS of a view word ended (R400): it changed the word, found another, or failed as an access. -/
inductive CasEnd where
  | won
  | lost
  | failed
deriving DecidableEq, Repr

/-- How the transport part of a shard-group operation ended (R407). -/
inductive EcEnd where
  | done
  | transport
  | poison
deriving DecidableEq, Repr

/-- A strip read from the relay mailbox (R405). -/
structure RelayStrip where
  slot : Nat
  sender : Nat
  stripe : Nat
  data : List Byte
deriving DecidableEq, Repr

end Sys2Proof
end

