-- ==== Sys2Proof/Syntax.lean ====
section
/-! DEFINITION. The commands of the block: one constructor for each row of spec/opcode_table.json, in the table's order,
with the operands that the rule of the row names. A session command carries its session number, a message or a frame is
carried whole, and a measured quantity is carried as the number that the device measures. -/

namespace Sys2Proof

inductive Instr where
  /-- POWER_UP, R487. Input reaches range; boot ROM verifies the NEXT slot, firmware loads settings, advances INCARN, runs the power-up scrub and forms the FNID. -/
  | powerUp (sigA : Bool) (sigB : Bool)
  /-- RESET_N, R487. RESET_N held low for at least 10 µs causes a full reset that runs the power-up and reset sequence. -/
  | resetN (sigA : Bool) (sigB : Bool)
  /-- VIN_WARN, R413. Input out of the operating range but within limits for 1 ms writes a PWR_VIN record. -/
  | vinWarn (above : Bool) (mv : BitVec 16)
  /-- INPUT_SHUTDOWN, R413. Input below 19.5 V or above 28.5 V for 100 µs: ledger entry, ports stopped, stacks in self-refresh, regulators off. -/
  | inputShutdown (above : Bool) (mv : BitVec 16) (written : Nat)
  /-- INPUT_RESTORED, R413. Input returns to the operating range after a shutdown and the module restarts as a power-up. -/
  | inputRestored (mv : BitVec 16) (sigs : Bool × Bool)
  /-- WATCHDOG_RESTART, R478. Mahel firmware stops servicing the watchdog for 1 s; Mahel alone restarts into its slot and sessions close. -/
  | watchdogRestart
  /-- OPEN, R463. Client OPEN received; within session limits Mahel sends ACCEPT and the session enters PROVING. -/
  | openSession (sess : Nat) (role : Byte) (credId : BitVec 64) (nonce : BitVec 384) (epub : BitVec 776) (voucher : Option Voucher) (ip : W32) (tcp : BitVec 16) (now : Nat)
  /-- PROVE, R465. Client PROVE is verified against the credential of ROLE; the session opens or closes with a recorded failure. -/
  | prove (sess : Nat) (sigOk : Bool) (now : Nat)
  /-- PROVE_TIMEOUT, R465. No PROVE within 5 s closes the session and records the failure. -/
  | proveTimeout (sess : Nat) (now : Nat)
  /-- SESSION_IDLE_TIMEOUT, R465. 300 s without a command closes the session. -/
  | sessionIdleTimeout (sess : Nat)
  /-- SESSION_MESSAGE_ERROR, R462. A message with LEN above 2,048, a tag failure or an unknown MTYPE closes the session. -/
  | sessionMessageError (sess : Nat) (now : Nat)
  /-- READ, R491. Mahel READ command returns COUNT register words in ascending offset, each read with its own side effects. -/
  | read (sess : Nat) (off : W32) (count : BitVec 16)
  /-- WRITE, R492. Mahel WRITE command to a register with no row of its own, judged for format, RECOVERY and role, then carried out with read-back and one ledger entry. -/
  | write (sess : Nat) (off : W32) (value : W32)
  /-- STORE, R468. Mahel STORE snapshots all settings and starts writing them to the inactive bank. -/
  | storeSettings (sess : Nat)
  /-- STORE_DONE, R468. Bank write completes and the new bank becomes active. -/
  | storeDone
  /-- LEDGER_READ, R472. Returns HEAD_SEQ, a signed head and up to 15 stored entries. -/
  | ledgerRead (sess : Nat) (first : BitVec 64) (count : BitVec 16) (nonce : BitVec 384)
  /-- LEDGER_FLUSH, R473. A queued ledger entry is written to the store with its SEQ and PREV. -/
  | ledgerFlush
  /-- LEDGER_LOST, R473. Once queue space returns after device events were lost, one LOST entry records the number. -/
  | ledgerLost
  /-- FW_WRITE, R476. Writes image data into the slot that is not running and sets it to WRITING. -/
  | fwWrite (sess : Nat) (off : W32) (len : BitVec 16) (data : List Byte)
  /-- FW_VERIFY, R476. Checks the slot's format, signature and SVN and sets it VALID or INVALID. -/
  | fwVerify (sess : Nat) (sigOk : Bool)
  /-- FW_ACTIVATE, R476. Sets NEXT to a VALID slot so that it runs in TRIAL at the next full reset. -/
  | fwActivate (sess : Nat)
  /-- FW_CONFIRM, R476. Ends TRIAL and burns SVN_FUSE up to the running image's SVN. -/
  | fwConfirm (sess : Nat)
  /-- TRIAL_EXPIRY, R476. TRIAL_S passes without confirm; NEXT returns to the earlier slot and an MGT_FW record is written. -/
  | trialExpiry
  /-- FW_IMAGE_COPY, R476. Copies a service image of the running firmware into stacked memory. -/
  | fwImageCopy (sess : Nat) (index : BitVec 16) (off : BitVec 64)
  /-- ENROLL, R466. Adds or removes a peer fingerprint or an OPERATOR or INSTALLER credential. -/
  | enroll (sess : Nat) (kind : Byte) (action : Byte) (key : BitVec 776)
  /-- FULL_RESET, R487. Mahel FULL_RESET command replies and then performs a full reset. -/
  | fullReset (sess : Nat) (sigA : Bool) (sigB : Bool)
  /-- FUSE, R480. MAKER burns an allowed fuse change, refusing others with FORMAT. -/
  | fuse (sess : Nat) (id : BitVec 16) (item : FuseItem) (value : W32)
  /-- TAP_UNLOCK, R482. Requires DRAINED, performs the scrub steps and sets TAP_OPEN until the next full reset. -/
  | tapUnlock (sess : Nat)
  /-- CLOSE, R465. Closes the session. -/
  | closeSession (sess : Nat)
  /-- ROLL, R485. ROLL received on CHAIN_IN: address adopted and forwarded on the first after reset, compared on later ones. -/
  | roll (msg : BitVec 128) (crc : W32)
  /-- CHAIN_HEAD_TIMEOUT, R485. No CHAIN_IN signal 50 ms after the chain PHY starts; the module becomes head at address 0. -/
  | chainHeadTimeout
  /-- HEAD_ROLL_SEND, R485. The head sends ROLL with ADDR 0 every 100 ms. -/
  | headRollSend
  /-- ROLL_CALL_TIMEOUT, R485. No address adopted 500 ms after chain PHY start and no pin sets ERR_CAUSE 6. -/
  | rollCallTimeout
  /-- GLB_TOPOLOGY_WRITE, R23. Write to GLB_TOPOLOGY: ignored and ledgered while LOCKED, otherwise sets TOPO_ERR, re-evaluates the FNID and reloads the plane maps on a PLANES_M1 change. -/
  | glbTopologyWrite (sess : Nat) (value : W32)
  /-- GLB_FNID_PIN_WRITE, R31. Write to GLB_FNID_PIN, refused while LOCKED, re-evaluates the FNID. -/
  | glbFnidPinWrite (sess : Nat) (value : W32)
  /-- GLB_RACK_ID_WRITE, R34. Write to GLB_RACK_ID, refused while LOCKED, re-evaluates the FNID. -/
  | glbRackIdWrite (sess : Nat) (value : W32)
  /-- EP_SRC_FNID_WRITE, R36. Write to EP[n]_SRC_FNID, ignored and ledgered when bit 11 is set or contexts are held. -/
  | epSrcFnidWrite (sess : Nat) (n : Nat) (value : W32)
  /-- WIN_WRITE, R43. EP_WIN_CTL WRITE checks the staged window entry, commits it and sends a steering update when called for. -/
  | winWrite (sess : Nat) (n : Nat) (index : BitVec 10)
  /-- WIN_READ, R44. EP_WIN_CTL READ copies the window entry into the staging words. -/
  | winRead (sess : Nat) (n : Nat) (index : BitVec 10)
  /-- WIN_INVALIDATE, R44. EP_WIN_CTL INVALIDATE clears VALID, cancels unstarted descriptors with WIN_INVALID and sends a steering update. -/
  | winInvalidate (sess : Nat) (n : Nat) (index : BitVec 10)
  /-- STEER_TIMEOUT, R44. No steering acknowledgement within 100 µs of an INVALIDATE's update: BUSY clears, STEER_TIMEOUT set, fault record written. -/
  | steerTimeout (n : Nat)
  /-- RTE_PLANE_ARM, R60. ARM latches the commit tick and arms a plane-map commit. -/
  | rtePlaneArm (sess : Nat)
  /-- RTE_PLANE_CANCEL, R60. CANCEL disarms a pending plane-map commit. -/
  | rtePlaneCancel (sess : Nat) (alsoArm : Bool)
  /-- LOAD, R79. Attach LOAD message received: format-checked, tolled, and given a context and frame or refused. -/
  | load (n : Nat) (msg : AttachMsg)
  /-- STORE_MSG, R79. Attach STORE message received: format-checked, tolled, and sent as a frame or refused; a flagged one is held. -/
  | storeMsg (n : Nat) (msg : AttachMsg)
  /-- ATOMIC, R79. Attach ATOMIC message received: format-checked, tolled, and sent as a frame or refused. -/
  | atomic (n : Nat) (msg : AttachMsg)
  /-- REDUCE, R79. Attach REDUCE message received: format-checked, tolled, and sent as a frame or refused. -/
  | reduce (n : Nat) (msg : AttachMsg)
  /-- SVC_CALL, R79. Attach SVC_CALL message received: format-checked, tolled, and sent as a frame to the service aperture or refused. -/
  | svcCall (n : Nat) (msg : AttachMsg)
  /-- RSP, R81. Controller RSP to a delivery or to a host access is matched by DTAG and passed to the source, ring or cairn. -/
  | rsp (n : Nat) (msg : AttachMsg)
  /-- HELLO, R76. HELLO received: in WAIT_HELLO starts STEERING, in READY causes an attach reset and STEERING. -/
  | hello (n : Nat) (msg : AttachMsg)
  /-- STEERING_PASS, R76. Once EP_SRC_FNID is set in STEERING, the block sends READY, STEER_MAP and a STEER_WIN per valid window. -/
  | steeringPass (n : Nat)
  /-- STEERING_TIMEOUT, R76. No STEER_ACK for the last SEQ within 1 ms of READY returns the block to WAIT_HELLO. -/
  | steeringTimeout (n : Nat)
  /-- STEER_ACK, R78. STEER_ACK settles pending acknowledgements up to its SEQ and, in STEERING, enters READY. -/
  | steerAck (n : Nat) (msg : AttachMsg)
  /-- DOORBELL_SQ_TAIL, R89. SQ_TAIL doorbell checked and applied, or halts the ring with cause 1. -/
  | doorbellSqTail (n : Nat) (msg : AttachMsg)
  /-- DOORBELL_CQ_HEAD, R89. CQ_HEAD doorbell checked and applied, releasing a CQ stall, or halts the ring with cause 2. -/
  | doorbellCqHead (n : Nat) (msg : AttachMsg)
  /-- RING_CFG_ENABLE, R88. RING_CFG enable checked, makes the ring ACTIVE with indices 0, and answered by RING_ACK. -/
  | ringCfgEnable (n : Nat) (msg : AttachMsg)
  /-- RING_CFG_DISABLE, R88. RING_CFG disable takes effect once fetched descriptors complete, then RING_ACK. -/
  | ringCfgDisable (n : Nat) (msg : AttachMsg)
  /-- RING_CFG_RESET, R88. RING_CFG reset takes effect once fetched descriptors complete, zeroing indices, then RING_ACK. -/
  | ringCfgReset (n : Nat) (msg : AttachMsg)
  /-- RING_QUIESCED, R88. The last fetched descriptor of a ring being reset or disabled completes and the action takes effect with RING_ACK. -/
  | ringQuiesced (n : Nat) (r : Nat)
  /-- FLOW, R67. FLOW message received turns the block's A-REQ or A-RSP sending off or on. -/
  | flow (n : Nat) (msg : AttachMsg)
  /-- DLV_TIMEOUT, R82. A delivery unanswered within DLV_TIMEOUT_US frees its slot, returns REMOTE to the source and writes DLV_TIMEOUT. -/
  | dlvTimeout (n : Nat) (slot : Nat)
  /-- CONTEXT_GRANT, R85. A freed context is given round robin to a waiting direct request or ring frame, which is then issued. -/
  | contextGrant (p : Point)
  /-- DESCRIPTOR_FETCH, R90. When the fetch conditions hold, the block fetches the next descriptor of an ACTIVE ring. -/
  | descriptorFetch (n : Nat) (r : Nat)
  /-- KERNEL_START_TIMEOUT, R102. No cairn confirmation within KS_TIMEOUT_US completes the KERNEL_START with TIMEOUT and halts the ring with cause 3. -/
  | kernelStartTimeout (n : Nat) (r : Nat)
  /-- FRAME_INGRESS, R119. Cell 0 of a frame reaches the switch core; checks run, the egress is chosen and cut-through forwarding begins or the frame is discarded. -/
  | frameIngress (port : Nat) (src : Arrive Frame) (hop : Header) (flaw : IngressFlaw) (cyc : Nat)
  /-- FRAME_EGRESS, R118. At a frame boundary the egress picks the next frame by class priority and sends it, freeing its cells. -/
  | frameEgress (port : Nat) (cyc : Nat)
  /-- FLOW_FRAME, R141. A FLOW frame or hop record received on a TRUNK link updates the peer's class OFF state. -/
  | flowFrame (port : Nat) (wb : Option Header) (hop : Header)
  /-- FLOW_REPEAT, R141. Each side repeats its OFF state at least every 1,024 cycles. -/
  | flowRepeat (port : Nat)
  /-- AUDIT_PASS, R137. After GAP_MS the auditor starts a pass over every cell, checking counts and orphans. -/
  | auditPass
  /-- POOL_CLASS_CFG_WRITE, R129. Write of a class pool size, refused and ledgered if the sizes exceed the buffer. -/
  | poolClassCfgWrite (sess : Nat) (c : Nat) (value : W32)
  /-- POOL_THRESH_WRITE, R130. Write of pool thresholds, refused and ledgered if out of order. -/
  | poolThreshWrite (sess : Nat) (c : Nat) (value : W32)
  /-- POOL_PORT_LIMIT_WRITE, R131. Write of per-ingress limits, refused and ledgered if XON_PORT exceeds XOFF_PORT. -/
  | poolPortLimitWrite (sess : Nat) (c : Nat) (value : W32)
  /-- MCAST_WRITE, R147. SWC_MCAST_CTL WRITE checks and commits a mask-table entry. -/
  | mcastWrite (sess : Nat) (index : BitVec 12)
  /-- MCAST_READ, R147. SWC_MCAST_CTL READ copies a mask-table entry to the staging words. -/
  | mcastRead (sess : Nat) (index : BitVec 12)
  /-- SWC_MIRROR_CTL_WRITE, R150. Write to the mirror control enables the mirror or sets CFG_ERR, or changes allowed fields. -/
  | swcMirrorCtlWrite (sess : Nat) (value : W32)
  /-- RTE_DEST_WRITE, R163. Write to RTE_DEST, refused and ledgered if LEAF or PORT is out of range. -/
  | rteDestWrite (sess : Nat) (f : Nat) (value : W32)
  /-- RTE_TRUNK_EN_WRITE, R164. Write to RTE_TRUNK_EN; a cleared bit removes the port from every path set and discards its queue. -/
  | rteTrunkEnWrite (sess : Nat) (k : Nat) (value : W32)
  /-- RETX_CFG_WRITE, R177. Write to EP_RETX_CFG or RTE_RETX_CFG, refused and ledgered if HOLD_MS is too short. -/
  | retxCfgWrite (sess : Nat) (p : Point) (value : W32)
  /-- REACH, R165. A MEMBER REACH received at a leaf updates that spine's reach within 2 µs if its ANNO is newer. -/
  | reach (port : Nat) (src : Arrive Frame)
  /-- REACH_ANNOUNCE, R165. A spine announces its reach within 10 µs of a change and at least every 1 ms. -/
  | reachAnnounce
  /-- ATTACH, R397. MEMBER ATTACH received; a spine forwards it and a new origin or INCARN is a new admission that resets receive state. -/
  | attach (port : Nat) (src : Arrive Frame)
  /-- DETACH, R397. MEMBER DETACH received and forwarded. -/
  | detach (port : Nat) (src : Arrive Frame)
  /-- LEAVING, R397. MEMBER LEAVING received; it informs and changes no path. -/
  | leaving (port : Nat) (src : Arrive Frame)
  /-- ATTACH_RESEND, R397. Each leaf resends the ATTACH or DETACH of every EDGE port at least every 10 ms. -/
  | attachResend
  /-- LEAVING_SEND, R397. A draining module sends LEAVING to its TRUNK peers every 1 ms. -/
  | leavingSend
  /-- FRAME_ADMIT, R167. A REQ or SCHED frame reaching its admission point is admitted, held, answered as a duplicate or discarded. -/
  | frameAdmit (port : Nat) (src : Arrive Frame) (straddles : Bool)
  /-- GAP_NACK, R169. A series holding frames with E stalled for GAP_US sends RSP_NACK GAP. -/
  | gapNack (p : Point) (src : BitVec 12)
  /-- RSP_ACK, R158. RSP_ACK received at a source is matched and completes or holds its context. -/
  | rspAck (p : Point) (src : Arrive Frame)
  /-- RSP_DATA, R158. RSP_DATA received at a source is matched and completes or holds its context with data. -/
  | rspData (p : Point) (src : Arrive Frame)
  /-- RSP_NACK, R173. RSP_NACK received: resend at once, at the next expiry, or complete with REMOTE by REASON. -/
  | rspNack (p : Point) (src : Arrive Frame)
  /-- RETX_TIMER, R174. A context's retransmission timer expires; the frame is resent or the context completes with TIMEOUT. -/
  | retxTimer (p : Point) (ctx : Nat)
  /-- CONTEXT_LIFE_EXPIRY, R175. A context ISSUED beyond its life limit completes with TIMEOUT. -/
  | contextLifeExpiry (p : Point) (ctx : Nat)
  /-- SERIES_HOLD_RELEASE, R175. HOLD_MS after the previous generation change, frames of the new generation may be sent. -/
  | seriesHoldRelease (p : Point) (dst : BitVec 12) (kind : SKind)
  /-- DEDUP_HOLD_EXPIRY, R179. A DONE dedup entry is freed HOLD_MS after it became DONE. -/
  | dedupHoldExpiry (p : Point) (src : BitVec 12) (kind : SKind) (seq : BitVec 24)
  /-- RTE_CMAP_CTL_WRITE, R185. Write to the congestion map control enables maps or sets CFG_ERR. -/
  | rteCmapCtlWrite (sess : Nat) (value : W32)
  /-- CMAP_PERIOD, R185. At each PERIOD_US the module writes a congestion map in three steps. -/
  | cmapPeriod (written : Bool)
  /-- FLAG_RELEASE, R199. A held flagged direct request is released when earlier requests are DONE and seals end, and is tolled again. -/
  | flagRelease (n : Nat)
  /-- CAIRN_REPORT, R202. When its conditions hold, a block writes DONE[p] for the next cairn point to the cairn line. -/
  | cairnReport (n : Nat) (r : Nat)
  /-- CAIRN_POLL, R203. A waiting block rereads the cairn line every POLL_NS and confirms the point or withholds the flag. -/
  | cairnPoll (n : Nat) (r : Nat)
  /-- CAIRN_WAIT_TIMEOUT, R203. A point unconfirmed within KS_TIMEOUT_US of the report ends the wait. -/
  | cairnWaitTimeout (n : Nat) (r : Nat)
  /-- SEAL_RESEND, R205. A pending SEAL is resent every BASE_US and abandoned after RETX_MAX + 1 sends. -/
  | sealResend (p : Point) (dst : BitVec 12) (kind : SKind)
  /-- SEAL, R205. A SEAL received at an admission point adopts a newer GEN, is ignored or is discarded. -/
  | sealFrame (port : Nat) (src : Arrive Frame)
  /-- SEALED_SEND, R205. Once consumers answer every older-generation frame, the admission point answers SEALED. -/
  | sealedSend (p : Point) (src : BitVec 12) (kind : SKind)
  /-- SEALED, R205. A SEALED received at the source ends the seal if it echoes the newest GEN. -/
  | sealed (p : Point) (src : Arrive Frame)
  /-- COMBINE_WRITEBACK, R212. A combining entry untouched for 64 cycles is written back to DRAM. -/
  | combineWriteback (chan : Nat) (line : Nat)
  /-- CHANNEL_ACCESS, R211. A memory access reaches its channel and is applied or served through the combining buffer. -/
  | channelAccess (chan : Nat) (src : Arrive MemAcc) (ecc : List Nat)
  /-- TICK_BOUNDARY, R232. At each local boundary the module drops late items, flushes SCHED frames, advances the tick, commits and starts the new tick. -/
  | tickBoundary
  /-- SYNC_SEND, R216. Every 1,024 cycles the module sends a SYNC beacon on each carrier. -/
  | syncSend (carrier : Nat) (phase : W32)
  /-- SYNC, R218. SYNC beacon received: ERR measured, TRIM and phase corrected, upstream and sync state updated. -/
  | sync (carrier : Nat) (frame : Frame) (own : W32)
  /-- DELAY_REQ_SEND, R218. A side sends a DELAY_REQ every 65,536 cycles, or 1,024 in ACQUIRE. -/
  | delayReqSend (carrier : Nat) (t1 : Nat)
  /-- DELAY_REQ, R218. DELAY_REQ received and answered with DELAY_RSP carrying TURN. -/
  | delayReq (carrier : Nat) (frame : Frame) (turn : W32)
  /-- DELAY_RSP, R218. DELAY_RSP received gives a one-way delay sample. -/
  | delayRsp (carrier : Nat) (frame : Frame) (t4 : Nat)
  /-- DELAY_RSP_ABANDON, R218. A DELAY_RSP not received within 8,192 cycles is abandoned. -/
  | delayRspAbandon (carrier : Nat)
  /-- UPSTREAM_TIMEOUT, R220. No SYNC from the upstream for 8,192 cycles: new upstream or HOLDOVER. -/
  | upstreamTimeout (silent : List Nat)
  /-- ACQUIRE_MASTER_TIMEOUT, R220. At chain address 0, 8,192 cycles in ACQUIRE without a forced master make the module MASTER class 1. -/
  | acquireMasterTimeout
  /-- HOLDOVER_EXPIRY, R220. HOLDOVER_US elapsed: promotion to MASTER, extended holdover, or ACQUIRE. -/
  | holdoverExpiry (silent : List Nat)
  /-- HOLDOVER_LIMIT_EXPIRY, R220. 2 × HOLDOVER_US from entry to HOLDOVER sends the module to ACQUIRE. -/
  | holdoverLimitExpiry
  /-- TICK_SYNC_CFG_WRITE, R222. Write to TICK_SYNC_CFG; MASTER_FORCE 1 makes the module MASTER class 2. -/
  | tickSyncCfgWrite (sess : Nat) (value : W32)
  /-- ITIN_OP_WRITE, R228. TICK_ITIN_CTL WRITE stores a stage entry from DATA. -/
  | itinOpWrite (sess : Nat) (index : BitVec 16)
  /-- ITIN_OP_READ_STAGE, R228. TICK_ITIN_CTL READ copies a stage entry into DATA. -/
  | itinOpReadStage (sess : Nat) (index : BitVec 16)
  /-- ITIN_OP_READ_ACTIVE, R228. TICK_ITIN_CTL READ active copies an active entry into DATA. -/
  | itinOpReadActive (sess : Nat) (index : BitVec 16)
  /-- ITIN_ARM, R228. ARM latches commit tick, step and LOAD_STEP and starts checking the stage. -/
  | itinArm (sess : Nat) (loadStep : Bool)
  /-- ITIN_CHECK_DONE, R228. The stage check ends: PENDING set, or refused with STATUS and ITIN_REFUSED. -/
  | itinCheckDone
  /-- ITIN_CANCEL, R228. CANCEL disarms a pending itinerary commit. -/
  | itinCancel (sess : Nat) (alsoArm : Bool)
  /-- SCHED_RELEASE, R231. At a bound XFER entry's START a held scheduled descriptor is released. -/
  | schedRelease (e : Nat)
  /-- XFER_END, R231. At an XFER entry's END the block starts no further frame of the descriptor. -/
  | xferEnd (e : Nat)
  /-- REFRESH_WINDOW, R229. A REFRESH entry's window starts and the named channels refresh. -/
  | refreshWindow (e : Nat)
  /-- FORCED_REFRESH, R229. Pending refreshes reach 8 and the channel refreshes at once, writing FORCED_REFRESH. -/
  | forcedRefresh (chan : Nat)
  /-- AUTO_REFRESH, R383. A stack with no REFRESH entry refreshes itself at the interval for its CLASS_NEED. -/
  | autoRefresh (stack : Nat)
  /-- STACK_TEMP_SAMPLE, R383. Each 1 ms the stack temperature is sampled and CLASS_NEED updated, with MEM_HOT records. -/
  | stackTempSample (stack : Nat) (temp : Byte)
  /-- TALLY_ACCESS, R271. An access to a tally's fields is applied as one indivisible update, or answered FORMAT or UNBACKED. -/
  | tallyAccess (src : Arrive TlyAcc)
  /-- COL_GRP_WRITE, R278. COL_GRP_CTL WRITE checks a group entry and commits it with its derived mask. -/
  | colGrpWrite (sess : Nat) (index : BitVec 12)
  /-- COL_GRP_READ, R278. COL_GRP_CTL READ copies a group entry into the staging words. -/
  | colGrpRead (sess : Nat) (index : BitVec 12)
  /-- COL_GRP_INVALIDATE, R278. COL_GRP_CTL INVALIDATE clears the group and its mask entry unless LIVE. -/
  | colGrpInvalidate (sess : Nat) (index : BitVec 12)
  /-- COL_MEMBER_WRITE, R277. Write to COL_MEMBER, refused and ledgered within the rank range of a VALID group. -/
  | colMemberWrite (sess : Nat) (i : Nat) (value : W32)
  /-- COL_HOLD_TIMEOUT, R284. A held COLLECTIVE not taken by its slot within KS_TIMEOUT_US completes LATE. -/
  | colHoldTimeout (b : Binder)
  /-- COL_OCCURRENCE_START, R285. At a COL entry's START the next CHUNKS ordinals are released to member blocks. -/
  | colOccurrenceStart (e : Nat)
  /-- UP, R287. UP chunk received at a level-1 home buffer is combined and, when complete, sent as PART. -/
  | up (port : Nat) (src : Arrive Frame)
  /-- PART, R287. PART fragment received at the root spine is combined and, when complete, rounded and sent DOWN. -/
  | part (port : Nat) (src : Arrive Frame)
  /-- DOWN, R295. DOWN chunk received is multicast to members or delivered, tally incremented and delivery reported. -/
  | down (port : Nat) (src : Arrive Frame)
  /-- XCHG, R295. XCHG chunk received at the destination rank is delivered and counted on its tally. -/
  | xchg (port : Nat) (src : Arrive Frame)
  /-- ACK, R291. Delivery report received ends the chunk's home buffer once every member has reported. -/
  | ack (port : Nat) (src : Arrive Frame)
  /-- FAULT, R300. FAULT received at level 3 aborts the instance. -/
  | colFault (port : Nat) (src : Arrive Frame)
  /-- ABORT, R301. ABORT received: a leaf marks the slot ABORTED, completes descriptors and forwards; a spine clears and acknowledges. -/
  | abort (port : Nat) (src : Arrive Frame)
  /-- ABORT_ACK, R301. ABORT_ACK received ends the resends of ABORT to that peer. -/
  | abortAck (port : Nat) (src : Arrive Frame)
  /-- DOWN_REPEAT, R291. Level 3 repeats DOWN every BASE_US to leaves or ports that have not reported. -/
  | downRepeat (slot : Nat) (ordinal : Nat)
  /-- ABORT_RESEND, R301. ABORT is resent every BASE_US and abandoned with COL_ABANDON after RETX_MAX + 1 sends. -/
  | abortResend (slot : Nat) (peer : BitVec 12)
  /-- ARR_LOAD, R332. ARR_LOAD_CTL LOAD checks an image and loads it when the array is idle. -/
  | arrLoad (sess : Nat) (array : BitVec 10)
  /-- ARR_UNLOAD, R332. ARR_LOAD_CTL UNLOAD removes a resident program unless absent or running. -/
  | arrUnload (sess : Nat) (array : BitVec 10)
  /-- ARR_LOAD_DONE, R333. A load finishes writing and verifying and the program becomes resident, or fails VERIFY. -/
  | arrLoadDone (readBackOk : Bool)
  /-- ARRAY_ENTRY_START, R334. At an ARRAY entry's START the program runs in TICK mode or completes LATE with a cause. -/
  | arrayEntryStart (e : Nat)
  /-- ARRAY_STREAM_ACCESS, R325. A stream access issues at its scheduled program cycle and takes channel slots or misses. -/
  | arrayStreamAccess (array : Nat) (stream : Nat) (ecc : List Nat)
  /-- ARRAY_RUN_END, R335. A run ends and writes its completion record, amax records and tally increment. -/
  | arrayRunEnd (array : Nat)
  /-- ARRAY_RUN_HALT, R335. A TICK run not ended by END is halted and completes LATE. -/
  | arrayRunHalt (array : Nat)
  /-- ARRAY_SLOT_ECC, R340. An uncorrectable slot error freezes the array, ends its run with POISON and marks it FAILED. -/
  | arraySlotEcc (array : Nat)
  /-- ARR_CB_WRITE, R339. ARR_CB_CTL WRITE checks a binding entry and hands it to the collective slot rules. -/
  | arrCbWrite (sess : Nat) (group : BitVec 4) (entry : BitVec 4)
  /-- ARR_CB_READ, R339. ARR_CB_CTL READ copies a binding entry into the staging words. -/
  | arrCbRead (sess : Nat) (group : BitVec 4) (entry : BitVec 4)
  /-- SVC_TAB_WRITE, R345. SVC_TAB_CTL WRITE checks a service entry, loads its image, initialises state and makes it ACTIVE. -/
  | svcTabWrite (sess : Nat) (index : BitVec 4)
  /-- SVC_TAB_READ, R345. SVC_TAB_CTL READ copies a service entry into the staging words. -/
  | svcTabRead (sess : Nat) (index : BitVec 4)
  /-- SVC_TAB_DRAIN, R346. SVC_TAB_CTL DRAIN puts an ACTIVE service into DRAINING. -/
  | svcTabDrain (sess : Nat) (index : BitVec 4)
  /-- SVC_DRAIN_DONE, R346. Queued calls and pending steps finish, TPOOL writes its header, and the service becomes DISABLED. -/
  | svcDrainDone (svc : Nat)
  /-- SVC_DISPATCH, R347. A queued call starts on a free array of the service. -/
  | svcDispatch
  /-- SVC_STARVE, R347. A call waiting 1 ms for an array writes SVC_STARVE. -/
  | svcStarve (svc : Nat)
  /-- LOOKUP, R358. LOOKUP returns the handle of a committed key and sets REF. -/
  | lookup (src : Arrive SvcCallIn)
  /-- TPOOL_READ, R358. READ returns block data under a valid committed handle, or STALE. -/
  | tpoolRead (src : Arrive SvcCallIn)
  /-- PUT_BEGIN, R358. PUT_BEGIN takes a free or evicted slot, zero-fills it and opens it. -/
  | putBegin (src : Arrive SvcCallIn)
  /-- PUT_DATA, R358. PUT_DATA writes into an OPEN slot. -/
  | putData (src : Arrive SvcCallIn)
  /-- PUT_COMMIT, R358. PUT_COMMIT makes the slot COMMITTED and frees the older block of the key. -/
  | putCommit (src : Arrive SvcCallIn)
  /-- PUT_ABORT, R358. PUT_ABORT returns an OPEN slot to FREE. -/
  | putAbort (src : Arrive SvcCallIn)
  /-- DELETE, R358. DELETE frees the key's committed slot, or answers MISS. -/
  | delete (src : Arrive SvcCallIn)
  /-- POOLED, R359. POOLED computes a weighted sum of committed rows per element. -/
  | pooled (src : Arrive SvcCallIn)
  /-- PUT_TIMEOUT, R358. An OPEN slot older than PUT_TIMEOUT_MS returns to FREE. -/
  | putTimeout (svc : Nat) (slot : Nat)
  /-- OPT_STEP, R365. OPT_STEP call starts or queues a step, or answers BUSY. -/
  | optStep (src : Arrive SvcCallIn)
  /-- OPT_TRIGGER, R365. A STORE to the trigger address starts a step, or writes SVC_OVERRUN. -/
  | optTrigger (svc : Nat) (src : Arrive Back)
  /-- OPT_STEP_DONE, R366. Once a step's writes land it writes the parameter block, increments its tally and posts a broadcast entry. -/
  | optStepDone (svc : Nat)
  /-- TENANT_SCRUB, R386. SCRUB in MEM_TENANT_CTL checks its conditions and starts a scrub with GEN advanced. -/
  | tenantScrub (sess : Nat)
  /-- TENANT_SCRUB_DONE, R387. Every line is rewritten under the new GEN; BUSY clears and the scrub is ledgered. -/
  | tenantScrubDone
  /-- PATROL_SCRUB_READ, R381. The scrubber reads the next line of a channel and corrects or poisons it. -/
  | patrolScrubRead (chan : Nat) (ecc : Nat)
  /-- SCRUB_LAG, R381. A channel pass overrunning PASS_H adds to LAG and writes MEM_SCRUB_LAG. -/
  | scrubLag (chan : Nat)
  /-- FAULT_MOVE, R391. Mahel moves an end-point record into the device fault queue within 100 µs. -/
  | faultMove (n : Nat)
  /-- GLB_FLT_DATA_READ, R393. The first read of GLB_FLT_DATA[0] shows the oldest unread record and freezes it against merges. -/
  | glbFltDataRead (sess : Nat)
  /-- POP, R393. POP removes the shown fault record. -/
  | pop (sess : Nat) (value : W32)
  /-- ROSTER_HEARTBEAT, R399. Every HB_US the module writes its roster word and reads member and view words. -/
  | rosterHeartbeat (wrote0 : Bool) (wrote1 : Bool) (read0 : RosterRead) (read1 : RosterRead) (cas : List (Nat × CasEnd))
  /-- EC_WRITE, R406. MEM_EC_CTL WRITE checks and stores a shard-group entry. -/
  | ecWrite (sess : Nat) (entry : BitVec 3)
  /-- ENCODE, R407. MEM_EC_CTL ENCODE starts computing parity strips over the stripes. -/
  | encode (sess : Nat) (entry : BitVec 3)
  /-- REBUILD, R407. MEM_EC_CTL REBUILD starts rebuilding a STALE rank from eight live ranks. -/
  | rebuild (sess : Nat) (rank : BitVec 4) (entry : BitVec 3)
  /-- EC_ABORT, R406. ABORT ends the running shard-group operation with ABORTED. -/
  | ecAbort (sess : Nat)
  /-- EC_OP_DONE, R407. A rank's sends and writes finish; STATUS set, tally incremented, and a rebuild marks the rank LIVE. -/
  | ecOpDone (how : EcEnd) (cas : CasEnd)
  /-- RELAY_POLL, R405. Every 2 µs the receiver polls its mailbox and reads READY strips. -/
  | relayPoll (entry : Nat) (control : BitVec 512) (strips : List RelayStrip)
  /-- GLB_DRAIN_CTL_WRITE, R410. Write to GLB_DRAIN_CTL requests or ends a drain. -/
  | glbDrainCtlWrite (sess : Nat) (value : W32)
  /-- PORT_P1_ENTRY, R417. An idle port within tolerance enters P1. -/
  | portP1Entry (n : Nat)
  /-- QUIET_ENTRY, R454. An idle EDGE port allowed P3 sends QUIET cells on all lanes. -/
  | quietEntry (n : Nat)
  /-- QUIET, R454. The controller's QUIET answer turns both transmitters off. -/
  | quiet (n : Nat)
  /-- QUIET_TIMEOUT, R454. No QUIET answer within 2 µs leaves the port in TRAFFIC. -/
  | quietTimeout (n : Nat)
  /-- GROUP_P2_ENTRY, R417. An idle array group enters P2 with store and slots in retention. -/
  | groupP2Entry (g : Nat) (cyc : Nat)
  /-- NODE_P3_ENTRY, R417. An idle node enters P3 with stacks in self-refresh after combining write-back. -/
  | nodeP3Entry
  /-- NODE_P4_ENTRY, R417. A node idle in P3 parks in P4. -/
  | nodeP4Entry
  /-- WAKE, R418. An event needing a part in a low state wakes it and waits until P0. -/
  | wake (what : WakePart)
  /-- GROUP_PREWAKE, R418. The power controller wakes a gated group 3,125 cycles before an ARRAY entry's START. -/
  | groupPrewake (e : Nat)
  /-- PWR_LTR_WRITE, R419. Write to a latency tolerance; a lower value makes the part leave for an allowed state. -/
  | pwrLtrWrite (sess : Nat) (port : Option Nat) (value : W32)
  /-- CAP_PWM_PERIOD, R423. Each CAP_PWM period sets the hardware cap from the measured duty. -/
  | capPwmPeriod (high : Nat) (period : Nat)
  /-- CAP_PWM_LOSS, R423. No CAP_PWM edge for 1 ms sets the hardware cap to 1,400 W. -/
  | capPwmLoss
  /-- CAP_ALERT_N, R426. CAP_ALERT_N falling triggers a fast clock cut. -/
  | capAlertN
  /-- POWER_SAMPLE, R424. Every 5 µs input voltage and current are sampled; a sample over cap plus margin triggers a fast cut. -/
  | powerSample (mv : BitVec 16) (ma : Nat)
  /-- POWER_SETTLE, R426. Every 100 µs the mean draw moves the throttle level up or down. -/
  | powerSettle (meanW : Nat)
  /-- DIE_TEMP_SAMPLE, R431. Each 1 ms the die is sampled and the thermal level, records and trips follow. -/
  | dieTempSample (temp : Byte)
  /-- PORT_CFG_WRITE, R446. Write of PERS sends the port to RESET or DISABLED with cause ADMIN. -/
  | portCfgWrite (sess : Nat) (n : Nat) (value : W32)
  /-- RESTART, R446. RESTART sends the port to RESET with cause ADMIN. -/
  | restart (sess : Nat) (n : Nat)
  /-- PORT_RESET_EXIT, R447. When no hold condition applies a port in RESET loads lane entries and enters SIGNAL. -/
  | portResetExit (n : Nat)
  /-- PORT_HOLD, R447. A hold condition arising returns a port partway through bring-up to RESET. -/
  | portHold (n : Nat)
  /-- LANES_LOCKED, R447. All four lanes detect signal and lock; the port enters ALIGN. -/
  | lanesLocked (n : Nat)
  /-- SIGNAL_TIMEOUT, R447. No lock within 10 ms sends the port to FAULT with cause SIGNAL. -/
  | signalTimeout (n : Nat)
  /-- ALIGN_DONE, R448. Deskew, TRAIN and RTT checks pass and the port enters QUALIFY. -/
  | alignDone (n : Nat) (skewPs : Nat) (order : List Nat)
  /-- ALIGN_TIMEOUT, R448. ALIGN not met within 2 ms, or a check fails, sends the port to FAULT. -/
  | alignTimeout (n : Nat)
  /-- TRAIN, R447. TRAIN cell received; in TRAFFIC it sends the port to RESET with cause PEER. -/
  | train (n : Nat) (cell : TxCell)
  /-- LOOP_REQ, R448. LOOP_REQ received and answered with LOOP_RSP. -/
  | loopReq (n : Nat) (cell : TxCell) (turn : W32)
  /-- LOOP_RSP, R448. LOOP_RSP received gives an RTT sample. -/
  | loopRsp (n : Nat) (cell : TxCell) (t4 : BitVec 64)
  /-- LOOP_REPEAT, R448. In TRAFFIC a port repeats one LOOP exchange every 65,536 cycles. -/
  | loopRepeat (n : Nat) (t1 : BitVec 64)
  /-- QUALIFY_WINDOW_END, R449. The 1 ms window ends; QUALIFY passes to AUTH or TRAFFIC or fails, and in TRAFFIC DEGRADE is judged. -/
  | qualifyWindowEnd (n : Nat) (corrected : List Nat) (symbols : List Nat)
  /-- AUTH_HELLO, R450. A peer's HELLO message is assembled from AUTH cells. -/
  | authHello (n : Nat) (hello : List Byte)
  /-- AUTH_SIG, R451. A peer's SIG is verified; the peer is accepted and keys derived, or the port faults with AUTH or RACK. -/
  | authSig (n : Nat) (sig : BitVec 768) (sigOk : Bool)
  /-- AUTH_TIMEOUT, R447. AUTH not completed within 20 ms sends the port to FAULT with cause AUTH. -/
  | authTimeout (n : Nat)
  /-- MARK, R452. Marker received: group tag checked, and the first ENC marker moves AUTH to TRAFFIC. -/
  | mark (n : Nat) (lane : Nat) (cell : TxCell) (tagOk : Bool) (hadUncorrectable : Bool) (nowUs : Nat)
  /-- MARKER_LOCK_LOSS, R447. A lane losing marker lock in TRAFFIC sends the port to FAULT with cause LOCK. -/
  | markerLockLoss (n : Nat) (loss : LaneLoss)
  /-- FAULT_RECOVERY_TIMER, R447. 100 ms in FAULT returns the port to RESET. -/
  | faultRecoveryTimer (n : Nat)
  /-- FEC_UNCORRECTABLE, R438. An uncorrectable codeword stomps data cells LINK, discards control cells and writes LANE_UNCORR. -/
  | fecUncorrectable (word : BadCodeword)
  /-- LANE_WAKE_DETECT, R454. Wake signalling on lane 0 starts a relock to TRAFFIC, or FAULT with cause WAKE. -/
  | laneWakeDetect (n : Nat) (relocked : Bool)
  /-- LANE_PROFILE_WRITE, R444. Write to LANE_PROFILE selects a board profile and sets TABLE_ERR if unusable. -/
  | laneProfileWrite (sess : Nat) (value : W32)
  /-- EYE_SCAN_START, R445. START begins an eye scan on a lane. -/
  | eyeScanStart (sess : Nat) (value : W32)
  /-- EYE_SCAN_ABORT, R445. ABORT ends the running eye scan. -/
  | eyeScanAbort (sess : Nat)
  /-- EYE_SCAN_DONE, R445. The scan compares its symbols and reports ERRS, or aborts on loss of lock. -/
  | eyeScanDone (errs : Nat) (lost : Bool)
  /-- CAP_ALERT_N_RELEASE, R423. The rack deasserts CAP_ALERT_N and ALERT in PWR_CAP_STAT clears. -/
  | capAlertNRelease
  /-- AUDIT_PASS_END, R139. The leaked-buffer auditor finishes a pass over every cell, advances PASS_CNT, clears ACTIVE and begins the GAP_MS pause. -/
  | auditPassEnd
  /-- ARRAY_STORE_ECC, R340. An array store read meets an ECC error: a corrected one adds to CORR, an uncorrectable one is used as read, marks the run POISON with cause 6, sets POISON in TICK_REPRO_STAT and writes ARR_STORE_ECC. -/
  | arrayStoreEcc (array : Nat) (ecc : StoreEcc)
  /-- TEST_ACCESS_INSTRUCTION, R482. An IEEE 1149.1 instruction shifted in on TCK, TMS and TDI acts as IDCODE or BYPASS, or in full only while TAP_OPEN is 1. -/
  | testAccessInstruction (ir : BitVec 10)
deriving DecidableEq, Repr

end Sys2Proof
end

