-- ==== Sys2Proof/Config.lean ====
section
/-! DEFINITION. What an implementation fixes, and the free values: opaque constants that nothing in Lean can evaluate. -/

namespace Sys2Proof

/-- A fresh value for the `n`-th use of State's counter: times since power-up, nonces and the like (assumption 5). -/
opaque Config.freeBits : Nat → BitVec 64

/-- An ECDSA P-384 signature r ‖ s by the module's identity key over a message (R463, R472). The spec names the
algorithm; the private key is fused and never read (assumption 6). -/
opaque Config.signature : List Byte → BitVec 768

/-- The K and S values of a session, from the transcript hash (R463), and of a link, from the two hellos (R451). -/
opaque Config.sessionKeys : BitVec 384 → BitVec 576

/-- The fresh octets of a nonce or an ephemeral public key (R463, R450): the counter's value and the byte's place. -/
opaque Config.freeOctet : Nat → Nat → BitVec 8

/-- The state of a lane's scrambler at a bring-up, which R437 does not give; how many free slots a port fills before its next item, and how
long it drives the wake signal: each by the value of State's counter at that bring-up (assumption 68). -/
opaque Config.scramblerStart : Nat → Nat → BitVec 58
opaque Config.fillSlots : Nat → Nat → Nat

/-- Byte `i` of the service image `k` of a firmware image, and the service image's length (R476), by the firmware image's BODY_HASH: the
spec does not give where service images lie in the body (assumption 7). -/
opaque Config.serviceImage : List (BitVec 8) → Nat → Nat → BitVec 8
opaque Config.serviceImageLen : List (BitVec 8) → Nat → BitVec 32

/-- What changes with time only, by the count of readings so far: how far a trial has run (R479), and the chain's signals (R486), CHAIN_IN
in bit 0 and CHAIN_OUT in bit 1 (assumption 5). -/
opaque Config.trialSeconds : Nat → Nat
opaque Config.chainSignal : Nat → BitVec 2

/-- Where in its receiver's memory a strip that comes over a plane is put, by the group's GID, the sender's rank and the stripe (R405): the spec
does not give it (assumption 38). -/
opaque Config.stripPlace : Nat → Nat → Nat → BitVec 64

/-- The code of the IDCODE instruction: R482 gives none, and all ones is BYPASS (assumption 42). -/
opaque Config.idcodeFree : BitVec 10
def Config.idcodeIr : BitVec 10 := if Config.idcodeFree = 0x3FF then 0 else Config.idcodeFree

end Sys2Proof
end

