-- ==== Sys2Proof/Machine/Bytes.lean ====
section
/-! DEFINITION. Bytes, byte order (R7: little-endian), CRC-32C (R64), saturating counters (R9) and bit counting. -/

namespace Sys2Proof.Machine

open Sys2Proof

/-- The number that bytes spell, the first byte the least significant (R7). -/
def leNat : List Byte → Nat
  | [] => 0
  | b :: bs => b.toNat + 256 * leNat bs

/-- The `n` low bytes of a number, the least significant first (R7). -/
def leBytes : Nat → Nat → List Byte
  | 0, _ => []
  | n + 1, x => BitVec.ofNat 8 x :: leBytes n (x / 256)

/-- The number that bytes spell, the first byte the most significant. -/
def beNat (bs : List Byte) : Nat := leNat bs.reverse

/-- The `n` low bytes of a number, the most significant first. -/
def beBytes (n x : Nat) : List Byte := (leBytes n x).reverse

/-- The bytes of a bit vector, little-endian. -/
def bvBytes {w : Nat} (x : BitVec w) : List Byte := leBytes (w / 8) x.toNat

/-- `n` bytes of the list from offset `off`; bytes past its end are 0. -/
def slice (bs : List Byte) (off n : Nat) : List Byte :=
  let part := (bs.drop off).take n
  part ++ List.replicate (n - part.length) 0

/-- The little-endian field of `n` bytes at `off`. -/
def fieldNat (bs : List Byte) (off n : Nat) : Nat := leNat ((bs.drop off).take n)

/-- `n` zero bytes. -/
def zeros (n : Nat) : List Byte := List.replicate n 0

/-- The list with `new` laid over it from offset `off`, its length kept. -/
def overlay (old : List Byte) (off : Nat) (new : List Byte) : List Byte :=
  (old.take off ++ new ++ old.drop (off + new.length)).take old.length

/-- Cut a list into pieces of `n` elements; the last may be short. `fuel` bounds the number of pieces. -/
def chunks {α : Type} (n : Nat) : Nat → List α → List (List α)
  | 0, _ => []
  | fuel + 1, l => if l.isEmpty then [] else l.take n :: chunks n fuel (l.drop n)

/-- A header with the field of `n` bytes at byte offset `off` replaced. -/
def hdrPut (h : Header) (off n : Nat) (x : Nat) : Header :=
  let mask : Nat := (2 ^ (8 * n) - 1) * 2 ^ (8 * off)
  (h &&& ~~~(BitVec.ofNat 256 mask)) ||| (BitVec.ofNat 256 ((x % 2 ^ (8 * n)) * 2 ^ (8 * off)))

/-- Bits `lo` and up of a vector, `n` of them. -/
def bitsOf {w : Nat} (x : BitVec w) (lo n : Nat) : BitVec n := x.extractLsb' lo n

/-- One bit of a vector. -/
def bitAt {w : Nat} (x : BitVec w) (i : Nat) : Bool := x.getLsbD i

/-- The vector with `n` bits from `lo` replaced by the low bits of `y`. -/
def putBits {w : Nat} (x : BitVec w) (lo n : Nat) (y : Nat) : BitVec w :=
  (x &&& ~~~(BitVec.ofNat w ((2 ^ n - 1) * 2 ^ lo))) ||| (BitVec.ofNat w ((y % 2 ^ n) * 2 ^ lo))

/-- A word of register fields, each with its lowest bit. -/
def pack : List (Nat × Nat) → W32
  | [] => 0
  | (lo, x) :: t => BitVec.ofNat 32 (x * 2 ^ lo) ||| pack t

/-- 1 or 0. -/
def ofB (b : Bool) : Nat := if b then 1 else 0

/-- A counter advanced by `n`, saturating at its largest value (R9). -/
def satAdd {w : Nat} (x : BitVec w) (n : Nat) : BitVec w :=
  BitVec.ofNat w (min (x.toNat + n) (2 ^ w - 1))

/-- The set bits of a vector, ascending. -/
def setBits {w : Nat} (x : BitVec w) : List Nat := (List.range w).filter fun i => x.getLsbD i

/-- The number of set bits. -/
def popcount {w : Nat} (x : BitVec w) : Nat := (setBits x).length

/-- The vector with the bits of a list set. -/
def ofBits (w : Nat) (l : List Nat) : BitVec w := l.foldl (fun x i => x ||| BitVec.ofNat w (2 ^ i)) 0

/-- One byte through the CRC-32C register: reflected, polynomial 0x1EDC6F41 (R64). -/
def crcByte (c : W32) (b : Byte) : W32 :=
  let step (x : W32) : W32 := if x.getLsbD 0 then (x >>> 1) ^^^ 0x82F63B78 else x >>> 1
  step (step (step (step (step (step (step (step (c ^^^ b.zeroExtend 32))))))))

/-- CRC-32C with initial value and final XOR 0xFFFF_FFFF (R64). -/
def crc32c (bs : List Byte) : W32 := (bs.foldl crcByte 0xFFFF_FFFF) ^^^ 0xFFFF_FFFF

/-- Round `n` up to a multiple of `m`. -/
def roundUp (n m : Nat) : Nat := (n + m - 1) / m * m

end Sys2Proof.Machine
end

