-- ==== Sys2Proof/Machine/Frames.lean ====
section
/-! DEFINITION. Waybills, frames, hop records and attach messages: their fields, how they are built and checked, and the
address hashes. -/

namespace Sys2Proof.Machine

open Sys2Proof

/-! ## The waybill (R111) -/

def wbType (h : Header) : Byte := bitsOf h 0 8
def wbClass (h : Header) : Nat := (bitsOf h 14 2).toNat
def wbPlen (h : Header) : Nat := (bitsOf h 8 4).toNat
def wbFlag (h : Header) : Bool := bitAt h 16
def wbMcast (h : Header) : Bool := bitAt h 17
def wbRetx (h : Header) : Bool := bitAt h 18
def wbVary (h : Header) : Bool := bitAt h 19
def wbPlane (h : Header) : BitVec 4 := bitsOf h 24 4
def wbSrc (h : Header) : BitVec 12 := bitsOf h 32 12
def wbDst (h : Header) : BitVec 12 := bitsOf h 48 12
def wbAddr (h : Header) : BitVec 64 := bitsOf h 64 64
def wbSeq (h : Header) : BitVec 24 := bitsOf h 128 24
def wbTag (h : Header) : BitVec 24 := bitsOf h 152 24
def wbLength (h : Header) : Nat := (bitsOf h 176 9).toNat
def wbSubop (h : Header) : Byte := bitsOf h 192 8
def wbDtype (h : Header) : Byte := bitsOf h 200 8
def wbGroup (h : Header) : Nat := (bitsOf h 208 12).toNat
def wbHchk (h : Header) : W32 := bitsOf h 224 32

/-- One byte of a header. -/
def hdrByte (h : Header) (off : Nat) : Byte := bitsOf h (8 * off) 8

/-- The CRC-32C over bytes 0-27 of a header (HCHK of R111, HOP_CHK of R114). -/
def hdrCheck (h : Header) : W32 := crc32c (leBytes 28 h.toNat)

/-- The header with its last four bytes set to the check over the others. -/
def sealHdr (h : Header) : Header := hdrPut h 28 4 (hdrCheck h).toNat

/-- A class from its code (R111). -/
def classOf (c : Nat) : FClass :=
  match c with
  | 0 => .req
  | 1 => .sched
  | 2 => .rsp
  | _ => .ctrl

/-- The code of a class (R111). -/
def classCode (c : FClass) : Nat :=
  match c with
  | .req => 0
  | .sched => 1
  | .rsp => 2
  | .ctrl => 3

/-- The class of a frame type (R112); none for an unknown type. -/
def typeClass (t : Byte) : Option FClass :=
  if t = 0x01 ∨ t = 0x02 ∨ t = 0x03 ∨ t = 0x04 ∨ t = 0x05 then some .req
  else if t = 0x10 ∨ t = 0x11 ∨ t = 0x12 then some .rsp
  else if t = 0x20 ∨ t = 0x21 then some .sched
  else if t = 0x30 ∨ t = 0x31 ∨ t = 0x32 ∨ t = 0x3F then some .ctrl
  else none

/-- The fields from which a waybill is built; what a source leaves undefined is 0 (R113). -/
structure WbFields where
  type : Byte
  cls : FClass
  plen : Nat := 0
  flags : Nat := 0
  plane : Nat := 0
  src : Nat := 0
  dst : Nat := 0
  addr : Nat := 0
  seq : Nat := 0
  tag : Nat := 0
  length : Nat := 0
  subop : Nat := 0
  dtype : Nat := 0
  group : Nat := 0

/-- A waybill with its HCHK (R111). -/
def mkWb (f : WbFields) : Header :=
  sealHdr (BitVec.ofNat 256 (f.type.toNat + (classCode f.cls * 64 + f.plen) * 2 ^ 8 + f.flags * 2 ^ 16 + f.plane * 2 ^ 24
    + f.src * 2 ^ 32 + f.dst * 2 ^ 48 + f.addr * 2 ^ 64 + f.seq * 2 ^ 128 + f.tag * 2 ^ 152 + f.length * 2 ^ 176
    + f.subop * 2 ^ 192 + f.dtype * 2 ^ 200 + f.group * 2 ^ 208))

/-- The end-to-end CRC-32C of a frame (R110): waybill bytes 0-31, then the payload. -/
def frameCrc (wb : Header) (payload : List Byte) : W32 := crc32c (bvBytes wb ++ payload)

/-- A payload padded with zeros to the 32-byte step. -/
def pad32 (bs : List Byte) : List Byte := bs ++ zeros (roundUp bs.length 32 - bs.length)

/-- A frame as its source builds it: CRC computed, tail word 0 (R110, R115). -/
def mkFrame (wb : Header) (payload : List Byte) : Frame := ⟨wb, payload, frameCrc wb payload, 0, []⟩

/-- The cells a frame occupies (R108): 1 + k, k the payload and 8 bytes in 64-byte cells. -/
def frameCells (f : Frame) : Nat := 1 + (f.payload.length + 8 + 63) / 64

def tailStomped (f : Frame) : Bool := bitAt f.tail 31

/-- Whether a consumer finds the frame's tail word and CRC good (R123). -/
def frameGood (f : Frame) : Bool := !tailStomped f && decide (f.crc = frameCrc f.wb f.payload)

/-- The copy of a frame that a source resends (R174): RETX 1, HCHK and CRC anew. -/
def resendOf (f : Frame) : Frame :=
  { mkFrame (sealHdr (f.wb ||| BitVec.ofNat 256 (2 ^ 18))) f.payload with poison := f.poison }

/-- The series generation and count of a SEQ (R154). -/
def seqGen (s : BitVec 24) : BitVec 4 := bitsOf s 20 4
def seqCount (s : BitVec 24) : BitVec 20 := bitsOf s 0 20
def mkSeq (g : BitVec 4) (c : BitVec 20) : BitVec 24 := g ++ c

/-- COUNT `a` precedes COUNT `b` (R154). -/
def countPrecedes (a b : BitVec 20) : Bool := decide (1 ≤ (b - a).toNat) && decide ((b - a).toNat ≤ 2 ^ 19 - 1)

/-- Generation `g` is newer than `h` (R154). -/
def genNewer (g h : BitVec 4) : Bool := decide (1 ≤ (g - h).toNat) && decide ((g - h).toNat ≤ 7)

/-- Generation `g` is older than `h` (R154). -/
def genOlder (g h : BitVec 4) : Bool := decide (8 ≤ (g - h).toNat)

/-- The kind of series that a frame's class puts it in (R153): 0 ORDERED, 1 SCHED. -/
def wbKind (h : Header) : Nat := if wbClass h = 1 then 1 else 0

def kindCode (k : SKind) : Nat := match k with | .ordered => 0 | .sched => 1

/-- The key of a series or a receive state: the other end's FNID and the kind. -/
def seriesKey (fnid : BitVec 12) (kind : Nat) : Nat := fnid.toNat * 2 + kind

/-- The key of a dedup entry (R178): SRC_FNID, kind and SEQ. -/
def dedupKey (src : BitVec 12) (kind : Nat) (seq : BitVec 24) : Nat := seriesKey src kind * 2 ^ 24 + seq.toNat

/-- The key of the entry that a frame takes. -/
def wbDedupKey (h : Header) : Nat := dedupKey (wbSrc h) (wbKind h) (wbSeq h)

/-- A response waybill (R172): source and destination exchanged, PLANE, SEQ and TAG echoed. `rflags` is byte 9. -/
def respWb (req : Header) (type : Byte) (status : Byte) (rflags : Nat) (length : Nat) : Header :=
  mkWb { type := type, cls := .rsp, plen := if type = 0x11 then (length + 31) / 32 else 0, plane := (wbPlane req).toNat
         src := (wbDst req).toNat, dst := (wbSrc req).toNat, addr := status.toNat + rflags * 2 ^ 8
         seq := (wbSeq req).toNat, tag := (wbTag req).toNat, length := length }

/-- The fields of a response (R172). -/
def rspStatus (h : Header) : Byte := hdrByte h 8
def rspReason (h : Header) : Nat := (bitsOf h 72 4).toNat
def rspBySeq (h : Header) : Bool := bitAt h 76
def rspKind (h : Header) : Nat := ofB (bitAt h 78)

/-- Byte 9 of a response: REASON, BY_SEQ, DUP and KIND (R172). -/
def rflagsOf (reason : Nat) (bySeq dup : Bool) (kind : Nat) : Nat :=
  reason + ofB bySeq * 16 + ofB dup * 32 + kind * 64

/-! ## The hop record (R114) -/

def hopHops (h : Header) : Nat := (hdrByte h 0).toNat
def hopXoff (h : Header) : Byte := hdrByte h 1
def hopMask (h : Header) : BitVec 64 := bitsOf h 32 64
def hopGood (h : Header) : Bool := decide (bitsOf h 224 32 = hdrCheck h)

/-- A hop record with its HOP_CHK. -/
def mkHop (hops : Nat) (xoff : Nat) (qdepth : Nat) (mask : Nat) : Header :=
  sealHdr (BitVec.ofNat 256 (min hops 255 + xoff * 2 ^ 8 + (min qdepth 65535) * 2 ^ 16 + mask * 2 ^ 32))

/-! ## Fabric addresses (R26, R58, R63) -/

def addrFnid (a : BitVec 64) : BitVec 12 := bitsOf a 52 12
def addrOff (a : BitVec 64) : Nat := (bitsOf a 0 52).toNat

/-- A fabric address from its parts (R26). -/
def mkAddr (fnid : BitVec 12) (off : Nat) : BitVec 64 := BitVec.ofNat 64 (fnid.toNat * 2 ^ 52 + off % 2 ^ 52)

/-- The six-bit hash of an FNID and an offset (R58). -/
def planeHash (fnid : BitVec 12) (off : Nat) : Nat :=
  let v := fnid.toNat * 2 ^ 46 + off / 64
  (List.range 10).foldl (fun h k => h ^^^ (v / 2 ^ (6 * k) % 64)) 0

/-- The plane of a fabric address under a plane map (R58). -/
def planeOf (map : BitVec 256) (fnid : BitVec 12) (off : Nat) : Nat :=
  if bitAt fnid 11 then (bitsOf fnid 7 4).toNat else (bitsOf map (4 * planeHash fnid off) 4).toNat

/-- The channel that holds an offset (R63). -/
def channelOf (off : Nat) : Nat :=
  let x := off / 256
  let q := x / 384
  let r := x % 384
  let f := (q % 2 ^ 9) ^^^ (q / 2 ^ 9 % 2 ^ 9) ^^^ (q / 2 ^ 18 % 2 ^ 5)
  (r + f % 384) % 384

/-- The byte address within the channel (R63). -/
def localOf (off : Nat) : Nat := off / 256 / 384 * 256 + off % 256

/-- The offset whose channel and local byte address are given: the inverse of R63. -/
def offOfLocal (chan loc : Nat) : Nat :=
  let q := loc / 256
  let f := (q % 2 ^ 9) ^^^ (q / 2 ^ 9 % 2 ^ 9) ^^^ (q / 2 ^ 18 % 2 ^ 5)
  (q * 384 + (chan + 384 - f % 384) % 384) * 256 + loc % 256

/-- The stacked-memory region, the tally aperture and the service aperture of a module (R27). -/
inductive Region where
  | stacked
  | tally
  | service
  | unbacked
deriving DecidableEq, Repr

def stackedSize : Nat := 0x90_0000_0000
def tallyBase : Nat := 0x8_0000_0000_0000
def serviceBase : Nat := 0xC_0000_0000_0000

def regionOf (off : Nat) : Region :=
  if off < stackedSize then .stacked
  else if tallyBase ≤ off ∧ off < tallyBase + 0x100_0000 then .tally
  else if serviceBase ≤ off ∧ off < serviceBase + 0x100_0000_0000 then .service
  else .unbacked

/-- The node port that serves an offset of this module (R14). -/
def nodePortOf (off : Nat) : Nat :=
  match regionOf off with
  | .stacked => 64 + 2 * (channelOf off / 16) + channelOf off % 2
  | _ => 126

/-- The lines that an extent touches. -/
def linesOf (addr len : Nat) : List Nat :=
  if len = 0 then [] else (List.range ((addr + len - 1) / 64 - addr / 64 + 1)).map (· + addr / 64)

/-- Whether two extents share a line. -/
def sameLine (a1 n1 a2 n2 : Nat) : Bool :=
  decide (0 < n1) && decide (0 < n2) && decide (a1 / 64 ≤ (a2 + n2 - 1) / 64) && decide (a2 / 64 ≤ (a1 + n1 - 1) / 64)

/-- Whether an extent lies in one aligned 256-byte granule. -/
def oneGranule (off len : Nat) : Bool := decide (0 < len) && decide (off / 256 = (off + len - 1) / 256)

/-! ## Operations and element types (R73) -/

/-- The size in bytes of an element type 0x0-0x6 of R73. -/
def dtypeSize (t : Byte) : Nat :=
  if t = 0 ∨ t = 1 ∨ t = 4 then 4 else if t = 2 ∨ t = 3 then 8 else if t = 5 ∨ t = 6 then 2 else 0

/-- An atomic's SUBOP and DTYPE are ones that R73 gives. -/
def atomicOk (subop dtype : Byte) : Bool := decide ((subop &&& 0x7F).toNat ≤ 7) && decide (dtype.toNat ≤ 4)

/-- A reduce's SUBOP and DTYPE are ones that R73 gives. -/
def reduceOk (subop dtype : Byte) : Bool :=
  (decide (subop = 0) || decide (subop = 4) || decide (subop = 5)) && decide (dtype.toNat ≤ 6)

def fetches (subop : Byte) : Bool := bitAt subop 7

/-! ## Attach messages (R69-R71, R77) -/

def msgOpcode (m : AttachMsg) : Byte := hdrByte m.hdr 0
def msgChan (m : AttachMsg) : Nat := (bitsOf m.hdr 14 2).toNat
def msgPlen (m : AttachMsg) : Nat := (bitsOf m.hdr 8 4).toNat
def msgTag (m : AttachMsg) : BitVec 24 := bitsOf m.hdr 16 24
def msgEpoch (m : AttachMsg) : Byte := hdrByte m.hdr 5
def msgWindow (m : AttachMsg) : BitVec 10 := bitsOf m.hdr 48 10
def msgOffset (m : AttachMsg) : Nat := (bitsOf m.hdr 64 52).toNat
def msgLength (m : AttachMsg) : Nat := (bitsOf m.hdr 128 16).toNat
def msgSubop (m : AttachMsg) : Byte := hdrByte m.hdr 18
def msgDtype (m : AttachMsg) : Byte := hdrByte m.hdr 19
def msgFlag (m : AttachMsg) : Bool := bitAt m.hdr 160
def msgStatus (m : AttachMsg) : Byte := hdrByte m.hdr 5

/-- A header field of `n` bytes at `off`. -/
def hdrField (h : Header) (off n : Nat) : Nat := h.toNat / 2 ^ (8 * off) % 2 ^ (8 * n)

/-- The CRC of a message is good (R64, R66). -/
def msgCrcOk (m : AttachMsg) : Bool := decide (m.crc = crc32c (bvBytes m.hdr ++ m.payload))

/-- A message with its CRC (R64). -/
def mkMsg (hdr : Header) (payload : List Byte) : AttachMsg := ⟨hdr, payload, crc32c (bvBytes hdr ++ payload)⟩

/-- A message header: opcode, channel and PLEN (R69), and fields as (byte offset, value). -/
def mkHdr (opcode chan plen : Nat) (fields : List (Nat × Nat)) : Header :=
  BitVec.ofNat 256 (opcode + (chan * 64 + plen) * 2 ^ 8 + (fields.map fun f => f.2 * 2 ^ (8 * f.1)).sum)

/-- Whether every header bit that `used` does not name is 0; `used` lists (byte offset, bytes). -/
def reservedZero (h : Header) (used : List (Nat × Nat)) : Bool :=
  let mask : Nat := used.foldl (fun m u => m ||| (2 ^ (8 * u.2) - 1) * 2 ^ (8 * u.1)) 0
  decide (h &&& ~~~(BitVec.ofNat 256 mask) = 0)

end Sys2Proof.Machine
end

