-- ==== Sys2Proof/Machine/Sha.lean ====
section
/-! DEFINITION. SHA-384, which the spec names for fingerprints, credential identifiers, the ledger chain and firmware images (R451, R463,
R471, R475) and leaves to its standard, FIPS 180-4 (PRESUMED, assumption 12). -/

namespace Sys2Proof.Machine

open Sys2Proof

/-! ## Constants: fractional bits of roots of primes -/

/-- The largest x with x^k ≤ v, its `n` low bits still to be chosen above `x`. -/
def rootFrom (k v : Nat) : Nat → Nat → Nat
  | 0, x => x
  | n + 1, x => rootFrom k v n (if (x + 2 ^ n) ^ k ≤ v then x + 2 ^ n else x)

/-- The first 64 bits behind the point of the k-th root of a prime below 512. -/
def rootBits (k q : Nat) : BitVec 64 := BitVec.ofNat 64 (rootFrom k (q * 2 ^ (64 * k)) 67 0)

/-- The first 80 primes. -/
def shaPrimes : List Nat :=
  [2, 3, 5, 7, 11, 13, 17, 19, 23, 29, 31, 37, 41, 43, 47, 53, 59, 61, 67, 71]
    ++ [73, 79, 83, 89, 97, 101, 103, 107, 109, 113, 127, 131, 137, 139, 149, 151, 157, 163, 167, 173]
    ++ [179, 181, 191, 193, 197, 199, 211, 223, 227, 229, 233, 239, 241, 251, 257, 263, 269, 271, 277, 281]
    ++ [283, 293, 307, 311, 313, 317, 331, 337, 347, 349, 353, 359, 367, 373, 379, 383, 389, 397, 401, 409]

/-! ## The compression -/

/-- A word's rotations to the right, added bit by bit. -/
def rotSum (l : List Nat) (x : BitVec 64) : BitVec 64 := l.foldl (fun y n => y ^^^ x.rotateRight n) 0

/-- Bit by bit, the second where the first is 1, else the third. -/
def pickBits (x y z : BitVec 64) : BitVec 64 := z ^^^ (x &&& (y ^^^ z))
/-- Bit by bit, the value that two of three share. -/
def majBits (x y z : BitVec 64) : BitVec 64 := pickBits (x ^^^ y) z x

/-- The chain of a block: the last four words of each of its two recurrences, newest first, and the 16 schedule words to come. -/
structure ShaChain where
  hi : List (BitVec 64)
  lo : List (BitVec 64)
  next : List (BitVec 64)

/-- One step, for the prime `q`. -/
def shaStep (c : ShaChain) (q : Nat) : ShaChain :=
  let a (i : Nat) : BitVec 64 := c.hi.getD i 0
  let e (i : Nat) : BitVec 64 := c.lo.getD i 0
  let w (i : Nat) : BitVec 64 := c.next.getD i 0
  let t := w 0 + rootBits 3 q + e 3 + pickBits (e 0) (e 1) (e 2) + rotSum [14, 18, 41] (e 0)
  { hi := (t + majBits (a 0) (a 1) (a 2) + rotSum [28, 34, 39] (a 0)) :: c.hi.take 3
    lo := (a 3 + t) :: c.lo.take 3
    next := c.next.drop 1 ++ [w 0 + w 9 + (rotSum [1, 8] (w 1) ^^^ w 1 >>> 7) + (rotSum [19, 61] (w 14) ^^^ w 14 >>> 6)] }

/-- The hash after one more block of 128 bytes. -/
def shaBlock (h : List (BitVec 64)) (blk : List Byte) : List (BitVec 64) :=
  let words := (chunks 8 16 blk).map fun b => BitVec.ofNat 64 (beNat b)
  let c := shaPrimes.foldl shaStep ⟨h.take 4, h.drop 4, words⟩
  List.zipWith (· + ·) h (c.hi ++ c.lo)

/-- The 48 bytes of the SHA-384 of a message: padded with a 1 bit, zeros and its length in bits to whole blocks, from a start that the
ninth to sixteenth primes give, and cut to six words. -/
def sha384 (m : List Byte) : List Byte :=
  let tail := beBytes 16 (8 * m.length)
  let body := m ++ [0x80]
  let p := body ++ zeros (roundUp (body.length + 16) 128 - body.length - 16) ++ tail
  let start := ((shaPrimes.drop 8).take 8).map (rootBits 2)
  ((chunks 128 p.length p).foldl shaBlock start).take 6 |>.flatMap fun x => beBytes 8 x.toNat

/-- The digest as a bit vector, its first byte in bits 7..0. -/
def sha384v (m : List Byte) : BitVec 384 := BitVec.ofNat 384 (leNat (sha384 m))

end Sys2Proof.Machine
end

