-- ==== Sys2Proof/Machine/State.lean ====
section
/-! DEFINITION. The state of one HQX-M24 module: every register, table, queue, buffer and pin the spec names, as plain
data, and the queue of commands that wait. Each field's comment names the rule that gives it. A field's default is its
reset value: the Reset column's where the spec prints one, else the value that notes/assumptions names (entry 1). -/

namespace Sys2Proof.Machine

open Sys2Proof

/-- The block stops with no fault: whatever goes wrong is an error code, a fault record or a port state that the spec
describes, and the command's effect. No command raises one. -/
inductive Fault where
deriving DecidableEq, Repr

/-- Why a command has no outcome. -/
inductive Refusal where
  /-- The command has no meaning yet; raised by Dispatch only. Safe. -/
  | notModelled (mnemonic : String)
  /-- The command names a unit the part does not have (port 64, ring 64 ...); raised by every command that carries such
  a number, so a sender that keeps to WellFormed never sees it. Safe: the part has no such unit to act. -/
  | noSuchUnit (unit : String)
  /-- An IEEE 1149.1 instruction other than BYPASS and IDCODE shifted in while TAP_OPEN is 1: the spec says that it acts
  in full and not what it does (R482); raised by TEST_ACCESS_INSTRUCTION. Safe. -/
  | testInstruction
deriving DecidableEq, Repr

/-! ## Fault records (R103, R391) -/

structure FaultRec where
  kind : Byte
  severity : BitVec 2
  code : Byte := 0
  port : Byte := 0xFF
  count : BitVec 16 := 1
  key : BitVec 16 := 0
  tick : BitVec 64 := 0
  detail : BitVec 64 := 0
  src : BitVec 12 := 0xFFF
deriving DecidableEq, Repr

/-! ## Sources and admission points (chapter 05) -/

/-- One piece of a transfer: at most one 256-byte granule of its target (R97). `got` is what a COPY has loaded of it, since its
source may lie in two granules (R79). -/
structure Piece where
  target : BitVec 64 := 0
  second : BitVec 64 := 0
  local_ : BitVec 64 := 0
  len : Nat := 0
  flagged : Bool := false
  got : List Byte := []
deriving DecidableEq, Repr

/-- What a context works for. -/
inductive CtxOwner where
  | direct (ctag : BitVec 24) (ord : Nat) (opcode : Byte) (win : BitVec 10)
  | desc (slot : Nat) (piece : Piece) (second : Bool)
  | call (slot : Nat)
  | chunk (slot ordinal frag : Nat)
  | notify (tally : Nat)
  | stream (array stream access : Nat)
  | strip (op : Nat)
  | other
deriving DecidableEq, Repr

inductive CtxState where
  | free
  | issued
  | held
  | done
deriving DecidableEq, Repr

/-- A context (R84): the frame it keeps (R174), the attempt number, and the answer while it is HELD or DONE. -/
structure Ctx where
  st : CtxState := .free
  gen : BitVec 6 := 0
  frame : Frame := ⟨0, [], 0, 0, []⟩
  owner : CtxOwner := .other
  port : Nat := 0
  attempt : Nat := 0
  atExpiry : Bool := false
  status : Byte := 0
  data : List Byte := []
  silent : Bool := false
  issuedAt : Nat := 0
deriving DecidableEq, Repr

/-- What a new REQ or SCHED frame of a source is built from. -/
structure NewFrame where
  type : Byte
  src : BitVec 12
  addr : BitVec 64
  length : Nat
  payload : List Byte := []
  subop : Byte := 0
  dtype : Byte := 0
  flags : Nat := 0
  port : Nat
  owner : CtxOwner
  group : Nat := 0
  poison : List Nat := []
deriving DecidableEq, Repr

/-- A pending seal (R205): sends that carried the newest GEN. -/
structure SealWait where
  gen : BitVec 4
  sends : Nat
deriving DecidableEq, Repr

/-- A series at its source (R153, R154). `timers` counts the generation changes less than HOLD_MS ago, the full reset
among them (R175); frames are held back while it is 2 or more. -/
structure Series where
  gen : BitVec 4 := 0
  count : BitVec 20 := 0
  timers : Nat := 1
  sealing : Option SealWait := none
deriving DecidableEq, Repr

/-- A frame held for reorder (R167), with the pool cells it keeps and the ingress they are charged to (R128). -/
structure HeldFrame where
  frame : Frame
  inPort : Nat
  cells : List Nat
deriving DecidableEq, Repr

/-- The receive state of one source and kind (R166), with what R205 and R206 keep beside it. `unanswered` lists the
SEQs admitted and not yet answered by their consumer. -/
structure RxState where
  g : BitVec 4 := 0
  e : BitVec 20 := 0
  d : BitVec 20 := 0
  held : List HeldFrame := []
  unanswered : List (BitVec 24) := []
  eOld : BitVec 20 := 0
  freed : BitVec 16 := 0
  sealed : Option Header := none
deriving DecidableEq, Repr

/-- A dedup entry (R178); absent entries are `none` in the table. `long` marks an answer of more than 8 bytes, which is
produced again (R353). -/
structure Dedup where
  done : Bool
  status : Byte
  isData : Bool
  long : Bool
  result : List Byte
deriving DecidableEq, Repr

/-- What a source and its admission point keep: one for each end-point block and one for the RTE. `waiting` holds, oldest
first, the frames of the source's own units that it may not send yet (R85, R155, R156, R175). -/
structure Rel where
  ctxs : Tab Ctx := []
  waiting : List NewFrame := []
  freshCtx : Nat := 0
  freedCtx : List Nat := []
  issueClock : Nat := 0
  series : Tab Series := []
  rx : Tab RxState := []
  dedup : Tab (Option Dedup) := []
  retxCfg : W32 := 0x08514032
  retx : BitVec 16 := 0
  timeout : BitVec 8 := 0
  seriesReset : BitVec 8 := 0
  nackTx : BitVec 8 := 0
  dupRx : BitVec 8 := 0
  lateDisc : BitVec 8 := 0
  fullNack : BitVec 8 := 0
  sealFail : BitVec 6 := 0
  flagWithheld : BitVec 6 := 0
  answersIn : List Frame := []
deriving DecidableEq, Repr

/-! ## End-point blocks (chapters 02, 03, 06) -/

inductive AttachState where
  | down
  | waitHello
  | steering
  | ready
deriving DecidableEq, Repr

/-- A direct request received and not yet issued (R85); `ord` is its place in the order of receipt, `held` marks a
flagged one that waits under R199. -/
structure DirectReq where
  msg : AttachMsg
  addr : BitVec 64
  win : BitVec 10
  ord : Nat
  held : Bool
deriving DecidableEq, Repr

/-- What one of the block's own host accesses is for (R65, R97, R202, R405); `gone` once its descriptor is over, and where a command brings its
result. -/
inductive HostUse where
  | fetch (ring : Nat) (index : W32)
  | source (slot : Nat) (piece : Piece) (got : List Byte)
  | result (slot : Nat) (bytes : Nat)
  | cpl (ring : Nat) (index : W32) (notify : Bool)
  | cairnWrite (ring point : Nat)
  | cairnRead (ring point : Nat)
  | chunkRead (slot ordinal rank : Nat) (got : List Byte)
  | callRead (slot : Nat) (got : List Byte) (len : Nat)
  | callWrite (slot : Nat)
  | relayClaim (op slot : Nat)
  | relayStore (op : Nat)
  | relayReady (op : Nat)
  | gone
deriving DecidableEq, Repr

/-- What a delivery serves: a remote request, a collective chunk, or a host access. -/
inductive DlvUse where
  | remote (wb : Header) (dup : Bool)
  | chunk (slot ordinal rank frag : Nat) (wb : Option Header)
  | host (h : HostUse)
deriving DecidableEq, Repr

/-- A DLV message (R70, R72), before a slot gives it its DTAG. `ring` is the ring that an access of the block's own serves (R82), else 64,
and `worst` the status of the parts of its fragment that have failed (R295). -/
structure Delivery where
  use : DlvUse
  opcode : Byte
  addr : BitVec 52
  len : Nat
  subop : Byte := 0
  dtype : Byte := 0
  flag : Bool := false
  payload : List Byte := []
  ring : Nat := 64
  worst : Byte := 0
deriving DecidableEq, Repr

/-- A delivery slot (R82): its generation and the delivery outstanding in it. -/
structure DlvSlot where
  gen : BitVec 6 := 0
  busy : Option Delivery := none
deriving DecidableEq, Repr

inductive RingState where
  | disabled
  | active
  | halted
deriving DecidableEq, Repr

/-- A cairn point of a ring (R200): its number, the descriptor's index, and how far it has come. -/
structure CairnPoint where
  num : Nat
  index : W32
  slot : Option Nat
  kernelStart : Bool
  ownsFlag : Bool
  reported : Bool := false
  answered : Bool := false
  reading : Bool := false
  confirmed : Bool := false
deriving DecidableEq, Repr

/-- A manifest ring (R87, R93). `closing` is the reset (true) or disable that waits for the ring's descriptors, with its message, and
`closeNext` those that came behind it (R88). `failed` has, for each write that ended in TIMEOUT or REMOTE, the first point whose report
covers it (R204), and `usedSeries` each series its frames went into, with the first point whose report waits for its seals (R202). -/
structure Ring where
  state : RingState := .disabled
  cause : BitVec 3 := 0
  cqStall : Bool := false
  logSize : BitVec 5 := 0
  planeSet : BitVec 16 := 0
  sqBase : BitVec 64 := 0
  cqBase : BitVec 64 := 0
  head : W32 := 0
  tail : W32 := 0
  cqHead : W32 := 0
  closing : Option Bool := none
  closeMsg : Header := 0
  closeNext : List (Bool × Header) := []
  fetching : Bool := false
  points : List CairnPoint := []
  pointCount : Nat := 0
  reportedTo : Nat := 0
  failed : List Nat := []
  usedSeries : List (Nat × Nat) := []
deriving DecidableEq, Repr

/-- How a scheduled descriptor stands (R231). -/
inductive SchedState where
  | unscheduled
  | held
  | released (entry : Nat)
  | ended
deriving DecidableEq, Repr

/-- How far the current key or row of a SERVICE descriptor has come (R356). -/
inductive CallStage where
  | readKeys
  | readWeights
  | first
  | firstOut
  | readData
  | frag
  | fragOut
  | writeData
  | commit
  | commitOut
  | abort
  | abortOut
  | writeResult
deriving DecidableEq, Repr

/-- The key or row of a SERVICE descriptor whose calls run (R356): `frag` is the fragment, `scode` the SCODE of its first
failing call. -/
structure CallRow where
  stage : CallStage := .readKeys
  frag : Nat := 0
  handle : W32 := 0
  restarted : Bool := false
  begun : Bool := false
  ends : Bool := false
  bad : Bool := false
  scode : Byte := 0
  keys : List Byte := []
  weights : List Byte := []
  data : List Byte := []
  bytes : Nat := 0
deriving DecidableEq, Repr

/-- An on-chip descriptor (R90): the descriptor's bytes, its resolved addresses (R50), how far into its extent the block
has come (`cursor`), the pieces whose source is being read, those read and not yet issued, and its totals. `started` says that its
turn has come in the ring's order of starts (R98), `begun` that its data transfer has begun (R44), and `covers` is the first point of the
ring whose report covers it (R202). -/
structure Desc where
  ring : Nat
  index : W32
  raw : BitVec 512
  addrA : BitVec 64 := 0
  addrB : BitVec 64 := 0
  winA : BitVec 10 := 0
  winB : Option (BitVec 10) := none
  cursor : Nat := 0
  reading : Nat := 0
  ready : List (Piece × List Byte) := []
  inflight : Nat := 0
  writing : Nat := 0
  sources : List Piece := []
  started : Bool := false
  begun : Bool := false
  status : Byte := 0
  bytes : Nat := 0
  sched : SchedState := .unscheduled
  schedPut : Bool := false
  point : Option Nat := none
  covers : Nat := 1
  flagSent : Bool := false
  row : Nat := 0
  call : CallRow := {}
deriving DecidableEq, Repr

/-- An end-point block. `mapWait` is the SEQ of the newest plane map sent and not yet acknowledged (R104); `refusals` the refused direct
requests whose RSP waits for an earlier one to the same line (R193), with their status; `aRsp` the buffer of the controller's answers that
wait while the port's RSP class is OFF (R67). `directSeries` lists each series that direct requests went into, with the order number of the
first (R199); `rspWait` the A-RSP messages not yet sent and the context each one frees (R67, R84); `sent` the messages sent to the
controller, oldest first (the model's own), and `sendWait` those that wait for the port to leave P3 (R418). -/
structure Ep where
  srcFnid : BitVec 12 := 0xFFF
  win : Tab (BitVec 128) := []
  winBusy : Bool := false
  winStatus : BitVec 3 := 0
  winIndex : BitVec 10 := 0
  winData : BitVec 128 := 0
  steerTimeout : Tab Bool := []
  steerPend : Tab (Option (BitVec 16)) := []
  winWait : Option (BitVec 16) := none
  mapWait : Option (BitVec 16) := none
  tollCode : BitVec 4 := 0
  tollWin : BitVec 10 := 0
  tollFail : BitVec 18 := 0
  attach : AttachState := .down
  offReqTx : Bool := false
  offRspTx : Bool := false
  offReqRx : Bool := false
  offRspRx : Bool := false
  dlvMax : BitVec 13 := 0
  lateRsp : BitVec 5 := 0
  crcErr : BitVec 8 := 0
  steerSeq : BitVec 16 := 0
  readySent : Bool := false
  incarn : W32 := 0
  aReq : List DirectReq := []
  refusals : List (DirectReq × Byte) := []
  aRsp : List AttachMsg := []
  reqCount : Nat := 0
  directSeries : List (Nat × Nat) := []
  rel : Rel := {}
  minFree : BitVec 13 := 0x1000
  turn : Nat := 0
  dlvSlots : Tab DlvSlot := []
  dlvQueue : List Delivery := []
  ksTimeoutUs : BitVec 16 := 1000
  dlvTimeoutUs : BitVec 16 := 200
  rings : Tab Ring := []
  descs : Tab (Option Desc) := []
  faults : List FaultRec := []
  faultOverflow : Bool := false
  faultLost : BitVec 15 := 0
  pollNs : BitVec 16 := 500
  rspWait : List (AttachMsg × Option Nat) := []
  sent : List AttachMsg := []
  sendWait : List AttachMsg := []
deriving DecidableEq, Repr

/-! ## Switch core and buffer pool (chapter 04) -/

/-- A frame copy in an egress queue: the hop record it arrived with, its cells and the ingress they are charged to. -/
structure QFrame where
  frame : Frame
  hop : Header
  inPort : Nat
  cells : List Nat
deriving DecidableEq, Repr

/-- The switch core. `inbound` holds, by ingress port, the frames that units of this module sent and the MCAST_MASK each
carries there (0 for unicast); `nodeIn` what leaves by a node port, with its ingress and cells; `trunkOut` and `flowOut` what
leaves by a TRUNK port (the model's own). -/
structure Swc where
  queues : Tab (List QFrame) := []
  deficit : Tab Nat := []
  ptr : Tab Nat := []
  peerOff : Tab Bool := []
  portErr : Tab W32 := []
  noRoute : BitVec 16 := 0
  poolDrop : BitVec 16 := 0
  inbound : Tab (List (Frame × BitVec 64)) := []
  nodeIn : Tab (List (Frame × Nat × List Nat)) := []
  trunkOut : Tab (List (Frame × Header)) := []
  flowOut : Tab (List (Header × Header)) := []
  flowDue : Tab Bool := []
  mcast : Tab (BitVec 96) := []
  mcastData : BitVec 96 := 0
  mcastStatus : BitVec 2 := 0
  mcastIndex : BitVec 12 := 0
  mirrorCtl : W32 := 0x00140000
  mirrorSel : W32 := 0
  mirrorPorts : BitVec 128 := 0
  mirrorBase : BitVec 64 := 0
  mirrorProd : W32 := 0
  mirrorCons : W32 := 0
  mirrorCfgErr : Bool := false
  mirrorLost : BitVec 24 := 0
  mirrorSeen : Nat := 0
  mirrorLast : Option (BitVec 64 × Nat) := none
deriving DecidableEq, Repr

/-- The packet buffer. `charge` keeps for each ALLOC cell the ingress and class it is charged to, as 1 + 4 * port + class (R128). -/
structure Pool where
  alloc : List Nat := []
  charge : Tab Nat := []
  freeLen : Tab Nat := []
  nextBank : Nat := 0
  held : Tab Nat := []
  classCfg : Tab W32 := []
  thresh : Tab W32 := []
  portLimit : Tab W32 := []
  xoff : Tab Bool := []
  warn : Tab Bool := []
  portOff : Tab Bool := []
  auditEn : Bool := true
  auditReclaim : Bool := false
  auditGapMs : BitVec 16 := 100
  passCnt : BitVec 16 := 0
  auditActive : Bool := false
  auditBank : BitVec 6 := 0
  dfree : Bool := false
  leak : Bool := false
  countMismatch : Bool := false
  lastCell : BitVec 22 := 0
  dfreeCnt : BitVec 16 := 0
  leakCnt : BitVec 16 := 0
deriving DecidableEq, Repr

/-! ## Routing (chapters 02, 05) -/

/-- The accelerator announcement last seen for an FNID (R397): origin leaf slot, port and attach incarnation. -/
structure Origin where
  leaf : BitVec 6
  port : BitVec 6
  incarn : W32
  attached : Bool
deriving DecidableEq, Repr

/-- What one congestion-map period has counted at a logical port (R186). -/
structure CmapPort where
  cellsOut : Nat := 0
  qmax : Tab Nat := []
  discard : Nat := 0
  stomp : Nat := 0
  /-- The classes that the period has seen OFF at this egress, and those that it has never seen ON. -/
  seenOff : List Nat := []
  stillOff : List Nat := []
deriving DecidableEq, Repr

structure Rte where
  part : Tab W32 := []
  partDrop : W32 := 0
  planeMap : BitVec 256 := 0
  planeStage : BitVec 256 := 0
  planePending : Bool := false
  planeLatched : BitVec 64 := 0
  planeCommit : BitVec 64 := 0
  dest : Tab W32 := []
  trunkEn : BitVec 64 := 0xFFFF_FFFF_FFFF_FFFF
  rel : Rel := {}
  reachOf : Tab (Option (BitVec 64 × W32)) := []
  anno : W32 := 0
  reachSent : BitVec 64 := 0
  origins : Tab (Option Origin) := []
  cmapEn : Bool := false
  cmapCfgErr : Bool := false
  cmapPeriodUs : BitVec 16 := 1000
  cmapBase : BitVec 64 := 0
  cmapCount : BitVec 64 := 0
  cmapPorts : Tab CmapPort := []
  cmapStart : BitVec 64 := 0
  cmapRetx : Nat := 0
  cmapTimeout : Nat := 0
  cmapPeriods : Nat := 0
deriving DecidableEq, Repr

/-! ## Tick unit and itinerary (chapter 07) -/

inductive SyncState where
  | acquire
  | locked
  | holdover
  | master
deriving DecidableEq, Repr

/-- A beacon carrier (R216): external ports 0-63, 0x40 CHAIN_IN, 0x41 CHAIN_OUT. -/
structure Carrier where
  heard : Bool := false
  sync : Option (BitVec 256) := none
  src : BitVec 12 := 0xFFF
  samples : List Nat := []
  reqOut : Option Nat := none
  higher : Nat := 0
deriving DecidableEq, Repr

structure TickUnit where
  now : BitVec 64 := 0
  step : BitVec 64 := 0
  nowHi : W32 := 0
  stepHi : W32 := 0
  state : SyncState := .acquire
  stratum : BitVec 5 := 31
  upstream : Byte := 0xFF
  err : BitVec 16 := 0
  mclass : BitVec 2 := 0
  trim : Int := 0
  phase : Int := 0
  carriers : Tab Carrier := []
  goodSyncs : Nat := 0
  forcedSeen : Bool := false
  takeFrom : Option (BitVec 64) := none
  beaconsOut : List (Nat × Frame) := []
  data : BitVec 128 := 0
  stage : Tab (BitVec 128) := []
  active : List (BitVec 128) := []
  /-- The stage as the last commit copied it, whole; `active` is its entries up to the first NONE. -/
  activeAll : Tab (BitVec 128) := []
  cfg0 : W32 := 15625
  cfg1 : W32 := 448
  act0 : W32 := 15625
  act1 : W32 := 448
  tc : BitVec 64 := 0
  commit : BitVec 64 := 0
  stepSet : BitVec 64 := 0
  checking : Bool := false
  pending : Bool := false
  status : BitVec 4 := 0
  failIdx : BitVec 16 := 0
  loadStep : Bool := false
  index : BitVec 16 := 0
  latchedTick : BitVec 64 := 0
  latchedStep : BitVec 64 := 0
  latchedLoad : Bool := false
  started : List Nat := []
  finished : List Nat := []
  mismatch : Bool := false
  lateCnt : BitVec 16 := 0
  flushCnt : BitVec 16 := 0
  varyCnt : W32 := 0
  repro : Byte := 0
deriving DecidableEq, Repr

/-! ## Stacked memory (chapters 06, 12) -/

/-- A combining-buffer entry (R211): the line's index in the stacked-memory region, its bytes, and its marks. -/
structure CombEntry where
  line : Nat
  data : BitVec 512
  dirty : Bool
  poison : Bool
deriving DecidableEq, Repr

inductive StackState where
  | init
  | active
  | selfRefresh
  | scrub
deriving DecidableEq, Repr

structure Stack where
  state : StackState := .init
  classNeed : BitVec 2 := 0
  peak : Byte := 0
  temp : Byte := 0
  hotSamples : Nat := 0
deriving DecidableEq, Repr

structure Channel where
  comb : List CombEntry := []
  queue : List MemAcc := []
  corr : BitVec 16 := 0
  uncorr : BitVec 16 := 0
  scrubPtr : BitVec 25 := 0
  passDone : Bool := false
  pendingRefresh : Nat := 0
deriving DecidableEq, Repr

/-- A shard-group operation in progress (R407). -/
structure EcOp where
  rebuild : Bool
  entry : Nat
  rank : Nat
  vepoch : W32
  /-- Which operation of this module it is; the stripe that it sends, the ranks still to get its strip, the accesses of the strip that are out,
  and the mailbox slot that it claimed; and the stripe up to which it has written. -/
  num : Nat := 0
  sendAt : Nat := 0
  sendTo : List Nat := []
  sendOut : Nat := 0
  slot : Nat := 0
  written : Nat := 0
deriving DecidableEq, Repr

/-- Stacked memory. `cells` holds the plaintext that reads return, by byte; `words` the codewords stored in DRAM, those of a scrubbed line apart
(R372); `poison` the poisoned lines; and `errs` how many symbols of a line's codeword in DRAM are in error (R375). -/
structure Mem where
  cells : List Host.Cell := []
  words : Tab (Option (BitVec 576)) := []
  poison : List Nat := []
  errs : Tab Nat := []
  channels : Tab Channel := []
  errValid : Bool := false
  errByScrub : Bool := false
  errChannel : BitVec 9 := 0
  errLine : BitVec 25 := 0
  scrubEn : Bool := true
  passH : BitVec 16 := 24
  passCnt : BitVec 16 := 0
  lag : BitVec 16 := 0
  stackOf : Tab Stack := []
  tenantBusy : Bool := false
  tenantStatus : BitVec 3 := 0
  gen : W32 := 0
  ecEntries : Tab (BitVec 384) := []
  ecData : BitVec 384 := 0
  ecStatus : BitVec 3 := 0
  ecRank : BitVec 4 := 0
  ecEntry : BitVec 3 := 0
  ecRate : Byte := 50
  stripesDone : BitVec 25 := 0
  ecOp : Option EcOp := none
  ecIn : Tab (List Byte) := []
  ecCount : Nat := 0
deriving DecidableEq, Repr

/-! ## Tallies and collectives (chapter 09) -/

structure Tally where
  count : BitVec 64 := 0
  thresh : BitVec 64 := 0
  notify : BitVec 64 := 0
  ctl : W32 := 0
  owner : BitVec 12 := 0
deriving DecidableEq, Repr

structure Tly where
  tallies : Tab Tally := []
  queue : List TlyAcc := []
  notifyQ : List (Nat × BitVec 64 × Bool × BitVec 64) := []
  fireCnt : BitVec 16 := 0
  notifyErrCnt : BitVec 16 := 0
deriving DecidableEq, Repr

/-- An amax record (R260). -/
structure Amax where
  amax : W32 := 0
  flags : Byte := 0
  ovfCnt : W32 := 0
  nanCnt : W32 := 0
deriving DecidableEq, Repr

/-- An exact accumulator (R262). -/
structure Exact where
  value : Int := 0
  terms : BitVec 64 := 0
  nan : Bool := false
  pinf : Bool := false
  ninf : Bool := false
  snan : Bool := false
  negz : Bool := false
deriving DecidableEq, Repr

/-- A member bound to, or held for, an instance (R284). -/
structure Member where
  binder : Binder
  rank : Nat
  raw : BitVec 512
  status : Byte := 0
  bytes : Nat := 0
deriving DecidableEq, Repr

/-- A released chunk of an instance that has not ended (R286, R291): its ordinal, its occurrence's itinerary entry, the
level-1 contributions by rank and the level-3 fragments by leaf and FRAG, both in order of arrival; what of its PART and DOWN
has been sent and acknowledged; and for each local member, by rank, what has been read, received, delivered and reported. -/
structure Chunk where
  ordinal : Nat
  entry : Nat
  started : List Nat := []
  ups : List (Nat × List Byte) := []
  parts : List (Nat × Nat × List Byte) := []
  hdr : Option (BitVec 256) := none
  redop : Nat := 0
  dtype : Nat := 0
  partSent : Nat := 0
  partAcked : Nat := 0
  downSent : Bool := false
  down : List Byte := []
  downTo : Option Nat := none
  downAcked : Nat := 0
  got : List (Nat × Nat) := []
  outst : Tab Nat := []
  failed : List Nat := []
  reported : List Nat := []
  leaves : List Nat := []
  sent : List Nat := []
deriving DecidableEq, Repr

inductive SlotState where
  | free
  | live
  | complete
  | aborted
deriving DecidableEq, Repr

/-- A slot of the collective engine (R284). `unproved` has, at a spine, the ordinals from a to below b of each occurrence of earlier ticks that no
PART has named, and whether the occurrence has counted as dropped (R299, assumption 24). -/
structure ColSlot where
  colId : BitVec 16 := 0
  epoch : BitVec 8 := 0
  state : SlotState := .free
  dropRun : BitVec 4 := 0
  chunksDone : BitVec 20 := 0
  lastRank : BitVec 12 := 0xFFF
  chunksDropped : BitVec 20 := 0
  missRank : BitVec 12 := 0xFFF
  lastLeaf : BitVec 6 := 0x3F
  missLeaf : BitVec 6 := 0x3F
  lastCnt : BitVec 8 := 0
  cursor : Nat := 0
  map : BitVec 256 := 0
  amax : Amax := {}
  first : Option (BitVec 512) := none
  bound : List Member := []
  chunks : List Chunk := []
  anyDropped : Bool := false
  group : Option (BitVec 12) := none
  aborts : Tab Nat := []
  released : List (Nat × Nat) := []
  next : Nat := 0
  unproved : List (Nat × Nat × Bool) := []
  hdr : Option (BitVec 256) := none
  redop : Nat := 0
  dtype : Nat := 0
deriving DecidableEq, Repr

/-- ABORTs sent for an instance that its slot no longer holds, to a peer that has not acknowledged them (R301). -/
structure OldAbort where
  slot : Nat
  peer : BitVec 12
  colId : BitVec 16
  epoch : BitVec 8
  redop : Nat
  dtype : Nat
  sends : Nat
deriving DecidableEq, Repr

/-- `grpLocal` and `grpLeaves` are what a WRITE of a group derives and keeps (R278): the local ranks, each with its external port or 64,
and the leaf slots that hold members. -/
structure Col where
  groups : Tab (BitVec 64) := []
  grpMask : Tab (BitVec 64) := []
  grpLocal : Tab (List (Nat × Nat)) := []
  grpLeaves : Tab (List Nat) := []
  grpData : BitVec 64 := 0
  grpStatus : BitVec 3 := 0
  grpIndex : BitVec 12 := 0
  members : Tab (BitVec 16) := []
  slots : Tab ColSlot := []
  held : List Member := []
  slotSel : BitVec 11 := 0
  abortLimit : BitVec 4 := 4
  aborts : BitVec 12 := 0
  slotErr : BitVec 8 := 0
  cb : Tab (BitVec 512) := []
  inbox : Tab (List HeldFrame) := []
  oldAborts : List OldAbort := []
deriving DecidableEq, Repr

/-! ## Compute arrays (chapter 10) -/

/-- A cell (R310): registers V0-V7 as one 256-bit value (Vk in bits 32k+31..32k), accumulators, BUS latch, drivers. -/
structure Cell where
  v : BitVec 256 := 0
  acc0 : W32 := 0
  acc1 : W32 := 0
  bus : W32 := 0
  outN : W32 := 0
  outE : W32 := 0
  outS : W32 := 0
  outW : W32 := 0
deriving DecidableEq, Repr

/-- A result that has issued and is not yet written (R313): the end of which program cycle writes it, and where. -/
structure PendingWrite where
  at_ : Nat
  cell : Nat
  dst : Nat
  mask : W32
  value : W32
deriving DecidableEq, Repr

/-- A resident program (R330, R333). -/
structure Prog where
  hdr : BitVec 512
  phases : List (BitVec 256)
  streams : List (BitVec 256)
  convs : List (BitVec 256)
  run : W32 := 0
deriving DecidableEq, Repr

/-- READ or FGET data on its way to the store (R325): the program cycle of its first row; and of a READ with slots its channel and first
slot (R326). -/
structure StoreFill where
  at_ : Nat
  granule : Nat
  data : List Byte
  bad : List Nat
  chan : Nat := 0
  slot : Option Nat := none
deriving DecidableEq, Repr

/-- An FGET whose data has not arrived (R327, R328): the access, the program cycle in which its first row is due, and its granule. -/
structure PendingGet where
  stream : Nat
  index : Nat
  due : Nat
  granule : Nat
deriving DecidableEq, Repr

structure Run where
  prog : BitVec 16
  service : Bool
  entry : Nat := 0
  startCyc : Nat := 0
  tick : BitVec 64 := 0
  cyc : Nat := 0
  cells : Tab Cell := []
  xa : Tab Exact := []
  writes : List PendingWrite := []
  fills : List StoreFill := []
  amax : Tab Amax := []
  flags : Byte := 0
  miss : W32 := 0
  next : Tab Nat := []
  open_ : Nat := 0
  status : Byte := 0
  cause : Byte := 0
  halted : Bool := false
  cut : Bool := false
  step : BitVec 64 := 0
  flagged : List NewFrame := []
  gets : List PendingGet := []
deriving DecidableEq, Repr

structure Arr where
  store : Tab (BitVec 1024) := []
  badWords : List Nat := []
  slots : Tab (BitVec 64) := []
  dir : List Prog := []
  failed : Bool := false
  lastProg : BitVec 16 := 0
  run : Option Run := none
deriving DecidableEq, Repr

structure ArrUnit where
  map : BitVec 864 := 0
  arrays : Tab Arr := []
  loadAddr : BitVec 64 := 0
  loadProg : W32 := 0
  loadBusy : Option (Nat × Prog × List Byte) := none
  loadStatus : BitVec 4 := 0
  loadArray : BitVec 10 := 0
  sel : BitVec 10 := 0
  corr : BitVec 16 := 0
  uncorr : BitVec 16 := 0
  ucode : BitVec 16 := 0
  slotsTaken : Tab Nat := []
  /-- The first slots of this tick's WRITE and REDUCE accesses, by channel. -/
  writeSlots : Tab (List Nat) := []
  forcedOver : Tab Nat := []
  cbData : BitVec 512 := 0
  cbStatus : BitVec 3 := 0
  cbGroup : BitVec 4 := 0
  cbEntry : BitVec 4 := 0
deriving DecidableEq, Repr

/-! ## Services (chapter 11) -/

inductive SvcState where
  | empty
  | active
  | draining
  | disabled
  | failed
deriving DecidableEq, Repr

inductive PoolSlotState where
  | free
  | openPut
  | committed
deriving DecidableEq, Repr

/-- A tensor-pool slot (R358). -/
structure PoolSlot where
  state : PoolSlotState := .free
  gen : Byte := 0
  pin : Bool := false
  ref : Bool := false
  replace : Bool := false
  key : BitVec 64 := 0
  sawCommit : Bool := false
deriving DecidableEq, Repr

/-- The index that a drained tensor pool left behind its data (R346, R361). -/
structure SavedPool where
  blkLog : Byte
  rdtype : Byte
  nblocks : W32
  slots : Tab PoolSlot
deriving DecidableEq, Repr

structure Svc where
  entry : BitVec 512 := 0
  state : SvcState := .empty
  calls : BitVec 16 := 0
  errs : BitVec 16 := 0
  evict : BitVec 6 := 0
  slots : Tab PoolSlot := []
  hand : Nat := 0
  stepRunning : Bool := false
  stepPending : Bool := false
  stepBlock : List Byte := []
  stepBad : Bool := false
  stepArray : Option Nat := none
  lostArrays : BitVec 64 := 0
deriving DecidableEq, Repr

/-- A WRITE of a service entry whose image the load unit loads (R331, R345): the array it loads now and those still to come. -/
structure SvcLoad where
  index : Nat
  entry : BitVec 512
  current : Option Nat
  left : List Nat
deriving DecidableEq, Repr

/-- `saved` holds the indexes of drained pools by their STATE_BASE, since the spec gives an index no layout in memory. `running` holds the
dispatched calls that have not been applied, in dispatch order, each with its array; none when that array has failed (R347, R352). -/
structure SvcUnit where
  svcs : Tab Svc := []
  saved : Tab (Option SavedPool) := []
  data : BitVec 512 := 0
  busy : Bool := false
  status : BitVec 3 := 0
  index : BitVec 4 := 0
  sel : BitVec 4 := 0
  queue : List SvcCallIn := []
  triggers : List (Nat × Back) := []
  running : List (SvcCallIn × Option Nat) := []
  loading : Option SvcLoad := none
deriving DecidableEq, Repr

/-! ## Power (chapter 14) -/

/-- Power. `portRest` holds what each port had sent, attach messages and items of its line, when it entered P1: it is in P1 while it has sent
no more (R417, R418). -/
structure Pwr where
  ltrPort : Tab (BitVec 24) := []
  ltrNode : BitVec 24 := 0
  idleCfg : W32 := 0x08646464
  node : BitVec 3 := 0
  gated : BitVec 12 := 0
  portState : Tab (BitVec 2) := []
  portRest : Tab (Nat × Nat) := []
  cutLevel : BitVec 4 := 12
  margin : Byte := 10
  swCapW : BitVec 11 := 1400
  hwCapW : Nat := 1400
  capUnmet : Bool := false
  alert : Bool := false
  pwmOk : Bool := false
  level : Nat := 0
  topSettles : Nat := 0
  vinMv : BitVec 16 := 0
  pinW : BitVec 16 := 0
  energy : BitVec 64 := 0
  energyFrac : Nat := 0
  energyHi : W32 := 0
  peakW : BitVec 11 := 0
  dur : BitVec 13 := 0
  excCnt : Byte := 0
  excursion : Option (Nat × Nat) := none
  dieTemp : Byte := 0
  diePeak : Byte := 0
  dieHot : Nat := 0
  thermLevel : BitVec 5 := 0
  tripped : Bool := false
  powered : Bool := true
deriving DecidableEq, Repr

/-! ## Lanes and ports (chapter 15) -/

inductive PortState where
  | disabled
  | reset
  | signal
  | align
  | qualify
  | auth
  | traffic
  | fault
deriving DecidableEq, Repr

/-- A lane. `group` is GROUP of the last marker seen in ALIGN (R448). -/
structure Lane where
  sigDet : Bool := false
  cdrLock : Bool := false
  cwLock : Bool := false
  markLock : Bool := false
  logical : BitVec 2 := 0
  uncorr : Byte := 0
  corr : BitVec 24 := 0
  sym : W32 := 0
  loaded : BitVec 64 := 0
  group : Option (BitVec 62) := none
deriving DecidableEq, Repr

/-- A port. `samples` are the RTTs measured in ALIGN, `peerTrain` PERS and VERSION of the peer's latest TRAIN, `windowErrs` the
uncorrectable codewords of the current window (R449), `skipAt` when the last unchecked group arrived, in µs (R452). `line` lists what its
transmitter has been told since it went on, each with the number of attach messages that its block had sent before (R436), `encFrom` how
many of these came before the peer was accepted (R451), `msgFrom` how many attach messages its block had sent before then, and `bringup`
State's counter then (the model's own). -/
structure Port where
  state : PortState := .disabled
  quiet : Bool := false
  quieting : Bool := false
  enc : Bool := false
  cause : BitVec 4 := 0
  downCnt : Byte := 0
  peerFnid : BitVec 12 := 0xFFF
  authSkip : BitVec 16 := 0
  rtt : BitVec 16 := 0
  samples : List Nat := []
  peerTrain : Option (Byte × Byte) := none
  peerHello : Option (List Byte) := none
  ownHello : List Byte := []
  peerOk : Bool := false
  keys : Option (BitVec 576) := none
  peerPrint : BitVec 384 := 0
  skipAt : Option Nat := none
  windowErrs : Nat := 0
  line : List (Nat × LineItem) := []
  encFrom : Option Nat := none
  msgFrom : Nat := 0
  bringup : Nat := 0
deriving DecidableEq, Repr

/-- Lanes, ports and the eye scan. `eyeCut` is what ERRS shows if the scan that runs ends early, a free value (R445, assumption 5). -/
structure LaneUnit where
  lanes : Tab Lane := []
  ports : Tab Port := []
  uncorrMax : Byte := 4
  symMax : BitVec 16 := 16
  eyeCtl : W32 := 0
  eyeLane : Byte := 0
  eyeBusy : Bool := false
  eyeAborted : Bool := false
  eyeErrs : BitVec 30 := 0
  eyeCut : BitVec 30 := 0
deriving DecidableEq, Repr

/-! ## Management (chapters 13, 16, 17) -/

/-- A credential (R463): the first 8 bytes of the SHA-384 of its public key, and the key. -/
structure Cred where
  id : BitVec 64
  key : BitVec 776
deriving DecidableEq, Repr

/-- The body of a profile, bytes 16 to 2,063 (R443): 256 lanes of TX_MAIN 64 and every other field 0. -/
def shippedLanes : List Byte := (List.replicate 256 [0, 0, 0, 0, 0, 0x10, 0, 0]).flatten

/-- The board profile a part is shipped with: PROFILE_ID 0 and VERSION 0, with its CRC-32C. DESIGN CHOICE (assumption 40). -/
def shippedProfile : List Byte := [0, 0, 0, 0, 0xF2, 0x07, 0xF6, 0x44, 0, 0, 0, 0, 0, 0, 0, 0] ++ shippedLanes

/-- Every setting that a STORE saves (R467, R468), at the shipped values of R469. -/
structure Nv where
  topology : W32 := 0
  fnidPin : W32 := 0
  rackId : W32 := 0
  syncCfg : W32 := 0x400003E8
  profileId : BitVec 16 := 0
  pers : Tab (BitVec 2) := []
  ipAddr : W32 := 0
  ipMask : W32 := 0
  ipGw : W32 := 0
  roleCfg : W32 := 600
  profiles : List (List Byte) := [shippedProfile]
  operators : List Cred := []
  installers : List Cred := []
  peers : List (BitVec 384) := []
deriving DecidableEq, Repr

/-- A settings bank (R468): a snapshot under a sequence number. -/
structure Bank where
  nv : Nv
  seq : Nat
deriving DecidableEq, Repr

inductive SessState where
  | proving
  | open_
deriving DecidableEq, Repr

structure Session where
  state : SessState
  role : Byte
  credId : BitVec 64
  voucher : Option Voucher
  th : BitVec 384
  keys : BitVec 576
  ip : W32
  tcp : BitVec 16
  inCount : BitVec 64 := 0
  outCount : BitVec 64 := 0
deriving DecidableEq, Repr

/-- A ledger entry before it is stored (R471, R513). -/
structure LedgerEntry where
  tick : BitVec 64
  uptime : BitVec 64
  type : Byte
  role : Byte
  result : Byte
  credId : BitVec 64
  detail : BitVec 352
deriving DecidableEq, Repr

/-- A message of Mahel to a session (R463, R466): MTYPE as sent, the RESULT of a reply, and the bytes that follow. -/
structure Reply where
  sess : Nat
  mtype : Byte
  result : Option Byte
  body : List Byte
deriving DecidableEq, Repr

/-- A firmware slot (R475). `confirmed` says that its image has been confirmed since it was written (R476). -/
structure FwSlot where
  state : BitVec 2 := 0
  image : Tab Byte := []
  confirmed : Bool := false
deriving DecidableEq, Repr

/-- Fused items (R480): the private half of the identity key and the memory key are never read out, and the vendor's key checks
firmware signatures (assumptions 4, 6 and 11). -/
structure Fuses where
  idKey : BitVec 384
  memKey : BitVec 512
  vendorKey : BitVec 776
  map : BitVec 864
  svn : BitVec 6
  testLock : Bool
  mac : BitVec 48
  idPub : BitVec 776
  makers : List Cred
  trims : Tab W32
deriving DecidableEq, Repr

/-- A fixed IPv4 address, mask and gateway of the management port (R461). -/
structure Net where
  addr : W32
  mask : W32
  gw : W32
deriving DecidableEq, Repr

/-- Mahel. `net` is the address in use, none while DHCPv4 gives it (R461), and `trial` says that a trial runs (R476). The model's own are
`replies` and `wire`, what Mahel has sent to sessions as messages and as bytes; `looks`, the count of readings of what changes with time
only; and `earlierB`, the slot to which a trial's end turns back. -/
structure Mgt where
  nv : Nv := {}
  net : Option Net := none
  bank0 : Option Bank := none
  bank1 : Option Bank := none
  activeBank : Bool := false
  storing : Option Nv := none
  empty : Bool := false
  wear0 : Nat := 0
  wear1 : Nat := 0
  sessions : Tab (Option Session) := []
  failures : Tab (List Nat) := []
  replies : List Reply := []
  wire : List (Nat × List Byte) := []
  looks : Nat := 0
  queue : List LedgerEntry := []
  store : List (BitVec 1024) := []
  headSeq : BitVec 64 := 0
  headHi : W32 := 0
  lost : Byte := 0
  lostWaiting : Nat := 0
  overwritten : Nat := 0
  slotA : FwSlot := {}
  slotB : FwSlot := {}
  runB : Bool := false
  nextB : Bool := false
  trial : Bool := false
  earlierB : Bool := false
  recovery : Bool := false
  trialLeft : BitVec 16 := 0
  claimed : Bool := false
  tapOpen : Bool := false
  tapIr : BitVec 10 := 0x3FF
  head : Bool := false
  adopted : Bool := false
  inSig : Bool := false
  outSig : Bool := false
  mismatch : BitVec 12 := 0
  addr : BitVec 11 := 0x7FF
  rackSeen : Option (BitVec 16) := none
  rollOut : List (BitVec 128 × W32) := []
  incarn : Byte := 0
  tdo : List (BitVec 32) := []
deriving DecidableEq, Repr

/-- Roster tracking of one member module (R399). -/
structure MemberTrack where
  hb0 : Option W32 := none
  still0 : Nat := 0
  hb1 : Option W32 := none
  still1 : Nat := 0
  incarn : Option Byte := none
  suspect : Bool := false
  /-- The groups to which it is STALE-DUE, each with the VEPOCH adopted then. -/
  due : List (Nat × W32) := []
deriving DecidableEq, Repr

structure Glb where
  step : BitVec 4 := 0
  scrubHold : Bool := false
  locked : Bool := false
  fnidValid : Bool := false
  fnidPinned : Bool := false
  fnidErr : Bool := false
  errCause : BitVec 3 := 0
  fnid : BitVec 12 := 0xFFF
  drainReq : Bool := false
  faults : List FaultRec := []
  shown : Bool := false
  notifyEn : Bool := false
  notifySev : BitVec 2 := 2
  notifyTally : BitVec 16 := 0
  overflow : Bool := false
  fatal : Bool := false
  lost : BitVec 16 := 0
  membEn : Bool := false
  membMiss : BitVec 4 := 4
  membHbUs : BitVec 16 := 500
  rosterCfg : Tab W32 := []
  rosterAddr : Tab (BitVec 64) := []
  isolated : Bool := false
  hostOk : BitVec 2 := 0
  views : BitVec 16 := 0
  hb : W32 := 0
  missed : Nat := 0
  tracks : Tab MemberTrack := []
  viewWords : Tab (BitVec 64) := []
deriving DecidableEq, Repr

/-! ## The whole state -/

/-- The whole module. The model's own fields are `pending`, the queue of commands; `freeCount`, which counts the free
values taken; and `attachBuf`, the size in bytes of a block's A-REQ buffer and of its A-RSP buffer, which R67 does not give. -/
structure State where
  pending : List Instr
  glb : Glb
  eps : Tab Ep
  swc : Swc
  pool : Pool
  rte : Rte
  tick : TickUnit
  mem : Mem
  tly : Tly
  col : Col
  arr : ArrUnit
  svc : SvcUnit
  pwr : Pwr
  lanes : LaneUnit
  mgt : Mgt
  fuses : Fuses
  freeCount : Nat
  attachBuf : Nat
deriving DecidableEq, Repr

/-- A disabled-unit map with 800 enabled arrays, 1 bit each (R16, R307): the first 67 of groups 0 to 7 and the first 66
of groups 8 to 11. DESIGN CHOICE (assumption 3): the spec gives the numbers, not which arrays. -/
def shippedMap : BitVec 864 :=
  BitVec.ofNat 864 (((List.range 12).map fun g => (2 ^ (if g < 8 then 67 else 66) - 1) * 2 ^ (72 * g)).sum)

/-- The SHA-384 of no bytes: BODY_HASH of an image with an empty body. -/
def emptyHash : List Byte :=
  [0x38, 0xB0, 0x60, 0xA7, 0x51, 0xAC, 0x96, 0x38, 0x4C, 0xD9, 0x32, 0x7E, 0xB1, 0xB1, 0xE3, 0x6A, 0x21, 0xFD, 0xB7, 0x11, 0x14, 0xBE, 0x07, 0x43] ++
  [0x4C, 0x0C, 0xC7, 0xBF, 0x63, 0xF6, 0xE1, 0xDA, 0x27, 0x4E, 0xDE, 0xBF, 0xE7, 0x6F, 0x65, 0xFB, 0xD5, 0x1A, 0xD2, 0xF1, 0x48, 0x98, 0xB9, 0x5B]

/-- The image both slots hold at shipment, header bytes that are not 0 only (R475): MAGIC, VERSION 3.0.0 and the hash of an
empty body. DESIGN CHOICE (assumption 3). -/
def shippedImage : Tab Byte :=
  [(0, 0x1E), (1, 0xF1), (2, 0xD0), (3, 0xA7), (7, 0x03)] ++ ((List.range 48).map (· + 16)).zip emptyHash

/-- The fuses of a part as shipped (R480). DESIGN CHOICE where the spec gives no value (assumption 3). -/
def shippedFuses : Fuses where
  idKey := 0
  memKey := 0
  vendorKey := 0
  map := shippedMap
  svn := 0
  testLock := true
  mac := 0
  idPub := 0
  makers := []
  trims := []

/-- The module right after reset: every register at its Reset column, every queue and table empty, and what the spec
gives no value for at the value that assumption 1 names. -/
def State.reset : State where
  pending := []
  glb := {}
  eps := []
  swc := {}
  pool := {}
  rte := {}
  tick := {}
  mem := {}
  tly := {}
  col := {}
  arr := { map := shippedMap }
  svc := {}
  pwr := {}
  lanes := {}
  mgt := { slotA := ⟨2, shippedImage, true⟩, slotB := ⟨2, shippedImage, true⟩ }
  fuses := shippedFuses
  freeCount := 0
  attachBuf := 0x40000

end Sys2Proof.Machine
end

