-- ==== Sys2Proof/Machine/Tab.lean ====
section
/-! DEFINITION. Sparse tables: reading, writing and their canonical form (keys strictly rising, no entry equal to what
an unlisted key reads as). Memory is such a table of bytes. -/

namespace Sys2Proof.Machine

open Sys2Proof

/-- The entry of key `k`; `d` is what an unlisted key reads as. -/
def tabGet {α : Type} (d : α) : Tab α → Nat → α
  | [], _ => d
  | (i, v) :: t, k => if k = i then v else tabGet d t k

/-- The table with an entry for key `k`, in its place. -/
def tabPut {α : Type} : Tab α → Nat → α → Tab α
  | [], k, x => [(k, x)]
  | (i, v) :: t, k, x =>
    if k < i then (k, x) :: (i, v) :: t
    else if k = i then (k, x) :: t
    else (i, v) :: tabPut t k x

/-- The table without an entry for key `k`. -/
def tabDel {α : Type} (t : Tab α) (k : Nat) : Tab α := t.filter fun e => decide (e.1 ≠ k)

/-- The table with key `k` holding `x`, and no other entry of that key. Writing the default removes the entry. -/
def tabSet {α : Type} [DecidableEq α] (d : α) (t : Tab α) (k : Nat) (x : α) : Tab α :=
  if x = d then tabDel t k else tabPut (tabDel t k) k x

/-- The table with `f` applied to the entry of key `k`. -/
def tabMod {α : Type} [DecidableEq α] (d : α) (t : Tab α) (k : Nat) (f : α → α) : Tab α :=
  tabSet d t k (f (tabGet d t k))

/-- Every key of the table is above `lo`, the keys rise strictly, and no entry is the default. -/
def tabAbove {α : Type} [DecidableEq α] (d : α) (lo : Nat) : Tab α → Bool
  | [] => true
  | (i, v) :: t => decide (lo ≤ i) && decide (v ≠ d) && tabAbove d (i + 1) t

/-- The canonical form of a table. -/
def tabWf {α : Type} [DecidableEq α] (d : α) (t : Tab α) : Bool := tabAbove d 0 t

/-- The table without its entries of the keys from `lo` up to `hi`, `hi` excluded. -/
def tabClear {α : Type} (t : Tab α) (lo hi : Nat) : Tab α :=
  t.filter fun e => !(decide (lo ≤ e.1) && decide (e.1 < hi))

/-- Element `i` of a list, or `d` past its end. -/
def nth {α : Type} (d : α) (l : List α) (i : Nat) : α := l.getD i d

/-- The list with `f` applied to its element `i`; unchanged past its end. -/
def nthMod {α : Type} : List α → Nat → (α → α) → List α
  | [], _, _ => []
  | x :: t, 0, f => f x :: t
  | x :: t, i + 1, f => x :: nthMod t i f

/-- The list without its element `i`. -/
def nthDel {α : Type} (l : List α) (i : Nat) : List α := l.eraseIdx i

/-- The position of the first element that satisfies `p`. -/
def findPos {α : Type} (p : α → Bool) (l : List α) : Option Nat := l.findIdx? p

/-- The position of the last element that satisfies `p`. -/
def findLastPos {α : Type} (p : α → Bool) (l : List α) : Option Nat :=
  match l.reverse.findIdx? p with
  | none => none
  | some i => some (l.length - 1 - i)

end Sys2Proof.Machine
end

