-- ==== Sys2Proof/Machine/Ops.lean ====
section
/-! DEFINITION. The operations that every family shares: access to the parts of the state, the topology, the ledger queue,
fault records and tally updates. -/

namespace Sys2Proof.Machine

open Sys2Proof

/-! ## Parts of the state -/

def modGlb (f : Glb → Glb) (s : State) : State := { s with glb := f s.glb }
def modSwc (f : Swc → Swc) (s : State) : State := { s with swc := f s.swc }
def modPool (f : Pool → Pool) (s : State) : State := { s with pool := f s.pool }
def modRte (f : Rte → Rte) (s : State) : State := { s with rte := f s.rte }
def modTick (f : TickUnit → TickUnit) (s : State) : State := { s with tick := f s.tick }
def modMem (f : Mem → Mem) (s : State) : State := { s with mem := f s.mem }
def modTly (f : Tly → Tly) (s : State) : State := { s with tly := f s.tly }
def modCol (f : Col → Col) (s : State) : State := { s with col := f s.col }
def modArr (f : ArrUnit → ArrUnit) (s : State) : State := { s with arr := f s.arr }
def modSvc (f : SvcUnit → SvcUnit) (s : State) : State := { s with svc := f s.svc }
def modPwr (f : Pwr → Pwr) (s : State) : State := { s with pwr := f s.pwr }
def modLanes (f : LaneUnit → LaneUnit) (s : State) : State := { s with lanes := f s.lanes }
def modMgt (f : Mgt → Mgt) (s : State) : State := { s with mgt := f s.mgt }
def modNv (f : Nv → Nv) (s : State) : State := modMgt (fun m => { m with nv := f m.nv }) s

def epOf (s : State) (n : Nat) : Ep := tabGet {} s.eps n
def modEp (n : Nat) (f : Ep → Ep) (s : State) : State := { s with eps := tabMod {} s.eps n f }
def relOf (s : State) (p : Point) : Rel := match p with | .ep n => (epOf s n).rel | .rte => s.rte.rel
def modRel (p : Point) (f : Rel → Rel) (s : State) : State :=
  match p with
  | .ep n => modEp n (fun e => { e with rel := f e.rel }) s
  | .rte => modRte (fun r => { r with rel := f r.rel }) s
def ringOf (s : State) (n r : Nat) : Ring := tabGet {} (epOf s n).rings r
def modRing (n r : Nat) (f : Ring → Ring) (s : State) : State :=
  modEp n (fun e => { e with rings := tabMod {} e.rings r f }) s
def descOf (s : State) (n i : Nat) : Option Desc := tabGet none (epOf s n).descs i
def setDesc (n i : Nat) (d : Option Desc) (s : State) : State :=
  modEp n (fun e => { e with descs := tabSet none e.descs i d }) s
def modDesc (n i : Nat) (f : Desc → Desc) (s : State) : State :=
  modEp n (fun e => { e with descs := tabMod none e.descs i (Option.map f) }) s
def portOf (s : State) (n : Nat) : Port := tabGet {} s.lanes.ports n
def modPort (n : Nat) (f : Port → Port) (s : State) : State :=
  modLanes (fun l => { l with ports := tabMod {} l.ports n f }) s
def chanOf (s : State) (c : Nat) : Channel := tabGet {} s.mem.channels c
def modChan (c : Nat) (f : Channel → Channel) (s : State) : State :=
  modMem (fun m => { m with channels := tabMod {} m.channels c f }) s
def stackOfN (s : State) (k : Nat) : Stack := tabGet {} s.mem.stackOf k
def modStack (k : Nat) (f : Stack → Stack) (s : State) : State :=
  modMem (fun m => { m with stackOf := tabMod {} m.stackOf k f }) s
def slotOf (s : State) (k : Nat) : ColSlot := tabGet {} s.col.slots k
def modSlot (k : Nat) (f : ColSlot → ColSlot) (s : State) : State :=
  modCol (fun c => { c with slots := tabMod {} c.slots k f }) s
def arrOf (s : State) (a : Nat) : Arr := tabGet {} s.arr.arrays a
def modArray (a : Nat) (f : Arr → Arr) (s : State) : State :=
  modArr (fun u => { u with arrays := tabMod {} u.arrays a f }) s
def svcOf (s : State) (k : Nat) : Svc := tabGet {} s.svc.svcs k
def modSvcN (k : Nat) (f : Svc → Svc) (s : State) : State :=
  modSvc (fun u => { u with svcs := tabMod {} u.svcs k f }) s

/-- Apply a state change for each element of a list, in order. -/
def forEach {α : Type} (l : List α) (f : α → State → State) (s : State) : State := l.foldl (fun t x => f x t) s

/-! ## Outcomes -/

abbrev Out := Host.Outcome State Fault Refusal

/-- What no command but a burn changes: the commands that wait, the fuses (R460, R480), and the size of the A-REQ buffers. -/
def keepFixed (s t : State) : State := { t with pending := s.pending, fuses := s.fuses, attachBuf := s.attachBuf }

/-- The outcome of a command whose effect gives `t`: a module whose regulators are off does nothing (R413). -/
def live (s t : State) : Out := .next (if s.pwr.powered then keepFixed s t else s)

/-- The same for a command that may burn a fuse. -/
def liveFuses (s t : State) : Out := .next (if s.pwr.powered then { keepFixed s t with fuses := t.fuses } else s)

/-- The same for a command that names a unit, which must exist. -/
def liveIf (ok : Bool) (unit : String) (s t : State) : Out := if ok then live s t else .refused (.noSuchUnit unit)

/-- The core clock runs: it stops in P4 everywhere but in Mahel, the tick unit and the ports' wake detectors (R415). -/
def coreRuns (s : State) : Bool := s.pwr.powered && decide (s.pwr.node ≠ 4)

/-- The outcome of a command that the core clock serves. In P4 it waits outside, and a WAKE comes first (R418; assumption 74). -/
def coreLive (s t : State) : Out := .next (if coreRuns s then keepFixed s t else s)
def coreIf (ok : Bool) (unit : String) (s t : State) : Out := if ok then coreLive s t else .refused (.noSuchUnit unit)

/-- Port `n` leaves P1 (R418). -/
def unrest (n : Nat) (s : State) : State :=
  if tabGet 0 s.pwr.portState n = 1 then modPwr (fun p => { p with portState := tabSet 0 p.portState n 0 }) s else s

/-- The outcome of a command that brings something to port `n`: it wakes the port from P1, and waits outside while the port is quiet (R418). -/
def portLive (n : Nat) (f : State → State) (s : State) : Out :=
  .next (if coreRuns s && !(portOf s n).quiet then keepFixed s (f (unrest n s)) else s)
def portIf (ok : Bool) (unit : String) (n : Nat) (f : State → State) (s : State) : Out :=
  if ok then portLive n f s else .refused (.noSuchUnit unit)

/-! ## Topology (R22, R28, R30) -/

def roleOf (s : State) : Nat := (bitsOf s.mgt.nv.topology 30 2).toNat
def planeIdx (s : State) : Nat := (bitsOf s.mgt.nv.topology 26 4).toNat
def planesM1 (s : State) : Nat := (bitsOf s.mgt.nv.topology 22 4).toNat
def leavesM1 (s : State) : Nat := (bitsOf s.mgt.nv.topology 16 6).toNat
def spinesM1 (s : State) : Nat := (bitsOf s.mgt.nv.topology 11 5).toNat
def singleStage (s : State) : Bool := decide (roleOf s = 0)
def isLeaf (s : State) : Bool := decide (roleOf s = 1)
def isSpine (s : State) : Bool := decide (roleOf s = 2)
def myFnid (s : State) : BitVec 12 := s.glb.fnid
/-- This module's slot in its plane (R28). -/
def mySlot (s : State) : Nat := (bitsOf (myFnid s) 0 7).toNat
/-- The FNID of the module in a slot of this plane (R28, R30). -/
def slotFnid (s : State) (slot : Nat) : BitVec 12 := BitVec.ofNat 12 (0x800 + planeIdx s * 128 + slot)

/-- The constraints on a topology value (R23). -/
def topoValid (v : W32) : Bool :=
  let role := (bitsOf v 30 2).toNat
  let plane := (bitsOf v 26 4).toNat
  let pm1 := (bitsOf v 22 4).toNat
  let l := (bitsOf v 16 6).toNat + 1
  let sp := (bitsOf v 11 5).toNat + 1
  decide (role ≠ 3) && decide (plane ≤ pm1) &&
    (if role = 0 then decide (l = 1) && decide (sp = 1)
     else (decide (sp = 1) || decide (sp = 2) || decide (sp = 4) || decide (sp = 8) || decide (sp = 16) || decide (sp = 32))
       && decide (2 ≤ l) && decide (l * 32 / sp ≤ 64))

/-- TOPO_ERR: the current value breaks R23. -/
def topoErr (s : State) : Bool := !topoValid s.mgt.nv.topology

/-- The plane map at reset: entry i holds i mod (PLANES_M1 + 1) (R59). -/
def resetMap (pm1 : Nat) : BitVec 256 :=
  BitVec.ofNat 256 ((List.range 64).map fun i => i % (pm1 + 1) * 2 ^ (4 * i)).sum

/-- The plane of an address under the active map (R58). -/
def planeAt (s : State) (fnid : BitVec 12) (off : Nat) : Nat := planeOf s.rte.planeMap fnid off

/-- The partition mask of an FNID (R54, R56). -/
def partMask (s : State) (f : BitVec 12) : BitVec 16 :=
  let w := tabGet 0 s.rte.part (f.toNat / 2)
  if bitAt f 0 then bitsOf w 16 16 else bitsOf w 0 16

/-- Two FNIDs' masks share a bit. -/
def partShare (s : State) (a b : BitVec 12) : Bool := decide (partMask s a &&& partMask s b ≠ 0)

/-- An FNID that is never assigned (R28): 0xFE0 to 0xFFF. -/
def fnidUnassigned (f : BitVec 12) : Bool := decide (0xFE0 ≤ f.toNat)

/-- A module's FNID (R28). -/
def fnidModule (f : BitVec 12) : Bool := decide (0x800 ≤ f.toNat) && decide (f.toNat ≤ 0xFDF)

/-- The personality of a port (R446): 0 DISABLED, 1 EDGE, 2 TRUNK. -/
def persOf (s : State) (n : Nat) : Nat := (tabGet 0 s.mgt.nv.pers n).toNat
def isEdge (s : State) (n : Nat) : Bool := decide (n < 64) && decide (persOf s n = 1)
def isTrunk (s : State) (n : Nat) : Bool := decide (n < 64) && decide (persOf s n = 2)

/-- An EDGE port in its traffic state: its end-point block is active (R15). -/
def epActive (s : State) (n : Nat) : Bool := isEdge s n && decide ((portOf s n).state = .traffic)

/-! ## Free values -/

/-- A fresh free value, and the state with the counter advanced. -/
def takeFree (s : State) : BitVec 64 × State := (Config.freeBits s.freeCount, { s with freeCount := s.freeCount + 1 })

/-- `n` bytes that the spec does not give. -/
def freeByteList : Nat → State → List Byte × State
  | 0, s => ([], s)
  | n + 1, s =>
    let (v, s) := takeFree s
    let (bs, s) := freeByteList n s
    (bitsOf v 0 8 :: bs, s)

/-- A fresh NONCE of 48 octets, and a fresh EPUB: 0x04 and the coordinates of a point, in SEC 1 uncompressed form (R450, R463). -/
def freshKeyBytes (k : Nat) : List Byte :=
  (List.range 48).map (Config.freeOctet k) ++ [4] ++ (List.range 96).map fun i => Config.freeOctet k (48 + i)

/-! ## The ledger (R471, R473, R513) -/

/-- The DETAIL bytes of an entry (R513), from fields given as (offset, width, value). -/
def detailOf (l : List (Nat × Nat × Nat)) : BitVec 352 :=
  BitVec.ofNat 352 (l.map fun f => f.2.2 % 2 ^ (8 * f.2.1) * 2 ^ (8 * f.1)).sum

/-- The first 80 bytes of an entry once it has its SEQ (R471). -/
def ledgerHead (seq : Nat) (e : LedgerEntry) : List Byte :=
  leBytes 8 seq ++ bvBytes e.tick ++ bvBytes e.uptime ++ [e.type, e.role, e.result, 0] ++ bvBytes e.credId ++ bvBytes e.detail

/-- Write the oldest waiting entry to the store with its SEQ and PREV (R471, R473). When the store holds 6,144 entries
the oldest is overwritten. -/
def ledgerStoreOne (s : State) : State :=
  match s.mgt.queue with
  | [] => s
  | e :: rest =>
    let seq := s.mgt.headSeq + 1
    let prev := match s.mgt.store.getLast? with
      | none => zeros 48
      | some b => if s.mgt.headSeq = 0 then zeros 48 else sha384 (bvBytes b)
    let stored : BitVec 1024 := BitVec.ofNat 1024 (leNat (ledgerHead seq.toNat e ++ prev))
    let full := decide (6144 ≤ s.mgt.store.length)
    modMgt (fun m => { m with
      queue := rest
      store := (if full then m.store.drop 1 else m.store) ++ [stored]
      headSeq := seq
      overwritten := m.overwritten + ofB full }) s

/-- An entry with its TICK and UPTIME_US as the event occurs (R473); the uptime is a free value (assumption 5). -/
def ledgerEntry (s : State) (type role result : Nat) (cred : BitVec 64) (detail : BitVec 352) : LedgerEntry × State :=
  let (u, s) := takeFree s
  ({ tick := s.tick.now, uptime := u, type := BitVec.ofNat 8 type, role := BitVec.ofNat 8 role
     result := BitVec.ofNat 8 result, credId := cred, detail := detail }, s)

/-- A device event's entry: counted in LOST when the queue of 256 is full (R473). -/
def ledgerDevice (type result : Nat) (detail : BitVec 352) (s : State) : State :=
  if 256 ≤ s.mgt.queue.length then
    modMgt (fun m => { m with lost := satAdd m.lost 1, lostWaiting := m.lostWaiting + 1 }) s
  else
    let (e, s) := ledgerEntry s type 0 result 0 detail
    modMgt (fun m => { m with queue := m.queue ++ [e] }) s

/-- A session command's entry: it waits until the queue has room, while the oldest entries reach the store (R473). -/
def ledgerSession (type role result : Nat) (cred : BitVec 64) (detail : BitVec 352) (s : State) : State :=
  let s := if 256 ≤ s.mgt.queue.length then ledgerStoreOne s else s
  let (e, s) := ledgerEntry s type role result cred detail
  modMgt (fun m => { m with queue := m.queue ++ [e] }) s

/-! ## Tally updates (R273) -/

def tlyEn (t : Tally) : Bool := bitAt t.ctl 31
def tlyMode (t : Tally) : Nat := (bitsOf t.ctl 29 2).toNat
def tlyFired (t : Tally) : Bool := bitAt t.ctl 28
def tlyStep (t : Tally) : Nat := (bitsOf t.ctl 0 16).toNat

/-- What follows an update of a tally: FIRED clears while COUNT is below THRESH, and otherwise an enabled tally that has
not fired fires. The Bool says whether it fired. -/
def tallySettle (t : Tally) : Tally × Bool :=
  if t.count < t.thresh then ({ t with ctl := putBits t.ctl 28 1 0 }, false)
  else if tlyEn t && !tlyFired t then
    if tlyStep t = 0 then ({ t with ctl := putBits t.ctl 28 1 1 }, true)
    else
      let n := (t.count.toNat - t.thresh.toNat) / tlyStep t + 1
      let th := t.thresh.toNat + n * tlyStep t
      if 2 ^ 64 - 1 < th then ({ t with thresh := BitVec.ofNat 64 (2 ^ 64 - 1), ctl := putBits t.ctl 28 1 1 }, true)
      else ({ t with thresh := BitVec.ofNat 64 th }, true)
  else (t, false)

/-- Apply one indivisible update to a tally. A firing counts in FIRE_CNT and leaves a notify with the notifier under
MODE: (tally, target, ADD, COUNT). -/
def tallyUpdate (i : Nat) (f : Tally → Tally) (s : State) : State :=
  let (t, fired) := tallySettle (f (tabGet {} s.tly.tallies i))
  let note := if fired && decide (tlyMode t = 1 ∨ tlyMode t = 2) then [(i, t.notify, decide (tlyMode t = 2), t.count)] else []
  modTly (fun u => { u with
    tallies := tabSet {} u.tallies i t
    fireCnt := satAdd u.fireCnt (ofB fired)
    notifyQ := u.notifyQ ++ note }) s

/-- An on-die increment of COUNT (R272). -/
def tallyInc (i : Nat) (s : State) : State := tallyUpdate i (fun t => { t with count := t.count + 1 }) s

/-! ## Fault records (R103-R105, R391-R394) -/

/-- A record's 32 bytes (R103). -/
def faultBytes (f : FaultRec) : List Byte :=
  [f.kind, f.severity.zeroExtend 8, f.code, f.port] ++ bvBytes f.count ++ bvBytes f.key ++ bvBytes f.tick ++ bvBytes f.detail
    ++ leBytes 2 f.src.toNat ++ zeros 6

/-- The severities of R103. -/
def sevInfo : BitVec 2 := 0
def sevWarn : BitVec 2 := 1
def sevError : BitVec 2 := 2
def sevFatal : BitVec 2 := 3

/-- `new` merged into `old` (R105): counts added, the higher severity, the rest of the first occurrence. -/
def mergeRec (old new : FaultRec) : FaultRec :=
  { old with count := satAdd old.count new.count.toNat, severity := if old.severity < new.severity then new.severity else old.severity }

/-- Write a fault into an end-point block's queue of 64 records (R105). -/
def epFault (n : Nat) (kind : Byte) (sev : BitVec 2) (code : Byte) (key detail : Nat) (src : BitVec 12) (s : State) : State :=
  let r : FaultRec := { kind := kind, severity := sev, code := code, port := BitVec.ofNat 8 n, key := BitVec.ofNat 16 key
                        tick := s.tick.now, detail := BitVec.ofNat 64 detail, src := src }
  let e := epOf s n
  match findPos (fun o => decide (o.kind = r.kind) && decide (o.key = r.key)) e.faults with
  | some i => modEp n (fun e => { e with faults := nthMod e.faults i (mergeRec · r) }) s
  | none =>
    if 64 ≤ e.faults.length then modEp n (fun e => { e with faultOverflow := true, faultLost := satAdd e.faultLost 1 }) s
    else modEp n (fun e => { e with faults := e.faults ++ [r] }) s

/-- The ledger copy and the FATAL flag that a record's severity calls for (R394). -/
def faultEscalate (r : FaultRec) (s : State) : State :=
  let s := if sevError ≤ r.severity then ledgerDevice 7 0 (BitVec.ofNat 352 (leNat (faultBytes r))) s else s
  if r.severity = sevFatal then modGlb (fun g => { g with fatal := true }) s else s

/-- What a new record at or above NOTIFY_SEV does (R393). -/
def faultNotify (r : FaultRec) (s : State) : State :=
  if s.glb.notifyEn && decide (s.glb.notifySev ≤ r.severity) then tallyInc s.glb.notifyTally.toNat s else s

/-- Merge into the record at position `i`. A merge that raises the record to ERROR or FATAL escalates it. -/
def devMerge (i : Nat) (r : FaultRec) (s : State) : State :=
  match s.glb.faults[i]? with
  | none => s
  | some o =>
    let m := mergeRec o r
    let s := modGlb (fun g => { g with faults := nthMod g.faults i (fun _ => m) }) s
    if o.severity < m.severity then faultEscalate m s else s

/-- Offer a record to the device fault queue of 1,024 (R392). The shown record, the oldest, takes no merge. -/
def devRecord (r : FaultRec) (s : State) : State :=
  let skip := ofB s.glb.shown
  let open_ := s.glb.faults.drop skip
  match findPos (fun o => decide (o.kind = r.kind) && decide (o.key = r.key)) open_ with
  | some i => devMerge (i + skip) r s
  | none =>
    if s.glb.faults.length < 1024 then
      faultNotify r (faultEscalate r (modGlb (fun g => { g with faults := g.faults ++ [r] }) s))
    else
      match findLastPos (fun o => decide (o.kind = r.kind)) open_ with
      | some i =>
        let s := devMerge (i + skip) r s
        modGlb (fun g => { g with faults := nthMod g.faults (i + skip) (fun o => { o with key := 0xFFFF }) }) s
      | none =>
        match (if sevError ≤ r.severity then findLastPos (fun o => decide (o.severity ≤ sevWarn)) open_ else none) with
        | some i =>
          let gone := ((open_[i]?).map fun o => o.count.toNat).getD 0
          faultNotify r (faultEscalate r (modGlb (fun g => { g with
            faults := nthDel g.faults (i + skip) ++ [r], overflow := true, lost := satAdd g.lost gone }) s))
        | none => modGlb (fun g => { g with overflow := true, lost := satAdd g.lost r.count.toNat }) s

/-- A device fault: its kind, severity, code, logical port (0xFF none), key and detail. -/
def devFault (kind : Byte) (sev : BitVec 2) (code : Byte) (port key detail : Nat) (src : BitVec 12) (s : State) : State :=
  devRecord { kind := kind, severity := sev, code := code, port := BitVec.ofNat 8 port, key := BitVec.ofNat 16 key
              tick := s.tick.now, detail := BitVec.ofNat 64 detail, src := src } s

/-- A device fault with no port, code or source. -/
def devFault0 (kind : Byte) (sev : BitVec 2) (key detail : Nat) (s : State) : State :=
  devFault kind sev 0 0xFF key detail 0xFFF s

/-! ## Reproducibility (R236, R238) -/

/-- Set a bit of TICK_REPRO_STAT, numbered from its bit 24. -/
def setRepro (i : Nat) (s : State) : State := modTick (fun t => { t with repro := t.repro ||| BitVec.ofNat 8 (2 ^ i) }) s

/-- A VARY frame or result lands at a consumer of this module (R236). -/
def noteVary (vary : Bool) (s : State) : State :=
  if vary then setRepro 6 (modTick (fun t => { t with varyCnt := satAdd t.varyCnt 1 }) s) else s

end Sys2Proof.Machine
end

