-- ==== Sys2Proof/Machine/PoolOps.lean ====
section
/-! DEFINITION. The packet buffer: cells, charges and thresholds (R127-R136). -/

namespace Sys2Proof.Machine

open Sys2Proof

/-- The values that the pool registers reset to, by class code (R129, R130, R131). -/
def poolCfgReset (c : Nat) : W32 := if c = 1 then 0xC0000 else if c = 3 then 0x20000 else 0x110000
def poolThreshReset (c : Nat) : W32 :=
  if c = 3 then BitVec.ofNat 32 (98 * 2 ^ 20 + 82 * 2 ^ 10 + 66) else BitVec.ofNat 32 (130 * 2 ^ 20 + 98 * 2 ^ 10 + 66)
def poolLimitReset : W32 := 0x01000080

def poolCfg (s : State) (c : Nat) : W32 := tabGet (poolCfgReset c) s.pool.classCfg c
def poolSize (s : State) (c : Nat) : Nat := (bitsOf (poolCfg s c) 0 22).toNat
def poolThresh (s : State) (c : Nat) : W32 := tabGet (poolThreshReset c) s.pool.thresh c
def poolLimit (s : State) (c : Nat) : W32 := tabGet poolLimitReset s.pool.portLimit c

/-- The key of a port and a class. -/
def pcKey (port c : Nat) : Nat := port * 4 + c

/-- Cells charged to a class (R128). -/
def classHeld (s : State) (c : Nat) : Nat := (s.pool.held.filterMap fun e => if e.1 % 4 = c then some e.2 else none).sum

/-- FREE of a class pool: SIZE minus the cells held, or 0 (R132). -/
def classFree (s : State) (c : Nat) : Nat := poolSize s c - classHeld s c

/-- The cells of a port and class (R128). -/
def portHeld (s : State) (port c : Nat) : Nat := tabGet 0 s.pool.held (pcKey port c)

/-- An ingress is OFF for a class (R133). -/
def ingressOff (s : State) (port c : Nat) : Bool :=
  tabGet false s.pool.xoff c || tabGet false s.pool.portOff (pcKey port c)

/-- The OFF bits of the four classes at an ingress (R114, R141). -/
def xoffBits (s : State) (port : Nat) : Nat :=
  ((List.range 4).map fun c => ofB (ingressOff s port c) * 2 ^ c).sum

/-- Pool-wide OFF and WARN of a class (R133). -/
def settleClass (c : Nat) (s : State) : State :=
  let free := classFree s c
  let th := poolThresh s c
  let xoff := if free < (bitsOf th 0 10).toNat * 1024 then true
    else if (bitsOf th 10 10).toNat * 1024 ≤ free then false else tabGet false s.pool.xoff c
  let warn := decide (free < (bitsOf th 20 10).toNat * 1024)
  let rose := warn && !tabGet false s.pool.warn c
  let s := modPool (fun p => { p with xoff := tabSet false p.xoff c xoff, warn := tabSet false p.warn c warn }) s
  if rose then devFault 0x25 sevInfo 0 0xFF c 0 0xFFF s else s

/-- OFF of an ingress for its own count (R133). -/
def settlePort (c port : Nat) (s : State) : State :=
  let lim := poolLimit s c
  let own := portHeld s port c
  let off := if (bitsOf lim 16 16).toNat * 64 ≤ own then true
    else if own ≤ (bitsOf lim 0 16).toNat * 64 then false else tabGet false s.pool.portOff (pcKey port c)
  modPool (fun p => { p with portOff := tabSet false p.portOff (pcKey port c) off }) s

/-- A change of an ingress' state makes a FLOW frame due on a TRUNK port (R141). -/
def noteFlow (f : State → State) (s : State) : State :=
  let t := f s
  let changed := (List.range 64).filter fun p => isTrunk t p && decide (xoffBits s p ≠ xoffBits t p)
  modSwc (fun w => { w with flowDue := changed.foldl (fun d p => tabSet false d p true) w.flowDue }) t

/-- Apply the thresholds after a change of the cells of a port and class (R133). -/
def poolSettle (port c : Nat) (s : State) : State := noteFlow (fun s => settlePort c port (settleClass c s)) s

/-- Apply changed thresholds of a class to every ingress (R133). -/
def poolRecheck (c : Nat) (s : State) : State := noteFlow (fun s => forEach (List.range 128) (settlePort c) (settleClass c s)) s

/-- The cells of a bank that are ALLOC. -/
def bankAlloc (s : State) (b : Nat) : List Nat := s.pool.alloc.filter fun x => decide (x / 65536 = b)

/-- The lowest cell of a bank that is FREE; `fuel` bounds the search. The spec does not give the order of a free list
(assumption 15). -/
def lowestFree (used : List Nat) : Nat → Nat → Nat
  | 0, x => x
  | fuel + 1, x => if used.contains x then lowestFree used fuel (x + 1) else x

/-- The bank that the next cell comes from: the next one in rotation that has a free cell (R127). -/
def nextBankOf (s : State) : Option Nat :=
  ((List.range 48).map fun k => (s.pool.nextBank + k) % 48).find? fun b => decide ((bankAlloc s b).length < 65536)

/-- Take one cell for a class and ingress; none when the class pool or the buffer has no free cell. -/
def takeCell (port c : Nat) (s : State) : Option Nat × State :=
  if classFree s c = 0 then (none, s)
  else match nextBankOf s with
    | none => (none, s)
    | some b =>
      let used := bankAlloc s b
      let x := lowestFree used used.length (b * 65536)
      (some x, modPool (fun p => { p with
        alloc := p.alloc ++ [x]
        charge := tabSet 0 p.charge x (pcKey port c + 1)
        freeLen := tabMod 65536 p.freeLen b (· - 1)
        nextBank := (b + 1) % 48
        held := tabMod 0 p.held (pcKey port c) (· + 1) }) s)

/-- Take up to `n` cells; the list is shorter than `n` when the pool empties (R135). -/
def takeCells (port c : Nat) : Nat → State → List Nat × State
  | 0, s => ([], s)
  | n + 1, s =>
    match takeCell port c s with
    | (none, s) => ([], s)
    | (some x, s) =>
      let (xs, s) := takeCells port c n s
      (x :: xs, s)

/-- Free one cell of a port and class: a cell whose state is already FREE is a double free (R136). -/
def freeCell (port c : Nat) (x : Nat) (s : State) : State :=
  if s.pool.alloc.contains x then
    modPool (fun p => { p with
      alloc := p.alloc.erase x
      charge := tabSet 0 p.charge x 0
      freeLen := tabMod 65536 p.freeLen (x / 65536) (· + 1)
      held := tabMod 0 p.held (pcKey port c) (· - 1) }) s
  else
    devFault 0x27 sevError 0 0xFF (x / 65536) x 0xFFF (modPool (fun p => { p with
      dfree := true, lastCell := BitVec.ofNat 22 x, dfreeCnt := satAdd p.dfreeCnt 1 }) s)

/-- Free cells and apply the thresholds. -/
def freeCells (port c : Nat) (cells : List Nat) (s : State) : State :=
  if cells.isEmpty then s else poolSettle port c (forEach cells (freeCell port c) s)

end Sys2Proof.Machine
end

