-- ==== Sys2Proof/Machine/RelOps.lean ====
section
/-! DEFINITION. Sources: contexts, series and the sending of frames (R84, R153-R158, R174, R175, R205). -/

namespace Sys2Proof.Machine

open Sys2Proof

/-! ## Contexts (R84, R157) -/

/-- Contexts not in state FREE. -/
def ctxsUsed (r : Rel) : Nat := (r.ctxs.filter fun e => decide (e.2.st ≠ .free)).length

/-- FREE of a source: its 4,096 contexts less those in use (R86). -/
def ctxsFree (r : Rel) : Nat := 4096 - ctxsUsed r

/-- The head of the free list: contexts 0-4,095 in order after reset, then those returned (R84). -/
def ctxHead (r : Rel) : Option Nat := if r.freshCtx < 4096 then some r.freshCtx else r.freedCtx.head?

def ctxPop (r : Rel) : Rel :=
  if r.freshCtx < 4096 then { r with freshCtx := r.freshCtx + 1 } else { r with freedCtx := r.freedCtx.drop 1 }

/-- The port bits of a source's tags: n for an end-point block, 0 for the node requester (R84, R157). -/
def pointPort (p : Point) : Nat := match p with | .ep n => n | .rte => 0

/-- The tag of a context: generation, port, context number (R84). -/
def tagOf (p : Point) (i : Nat) (gen : BitVec 6) : BitVec 24 :=
  BitVec.ofNat 24 (gen.toNat * 2 ^ 18 + pointPort p * 2 ^ 12 + i)

def ctxOf (s : State) (p : Point) (i : Nat) : Ctx := tabGet {} (relOf s p).ctxs i
def modCtx (p : Point) (i : Nat) (f : Ctx → Ctx) (s : State) : State :=
  modRel p (fun r => { r with ctxs := tabMod {} r.ctxs i f }) s

/-- ISSUED or HELD: not yet DONE. -/
def ctxOpen (c : Ctx) : Bool := decide (c.st = .issued) || decide (c.st = .held)

/-- The key of the series that a context's frame belongs to. -/
def ctxSeries (c : Ctx) : Nat := seriesKey (wbDst c.frame.wb) (wbKind c.frame.wb)

/-- Return a context to FREE: its generation advances and it goes to the tail of the list (R84). -/
def freeCtx (p : Point) (i : Nat) (s : State) : State :=
  modRel p (fun r => { r with
    ctxs := tabMod {} r.ctxs i (fun c => { gen := c.gen + 1 })
    freedCtx := r.freedCtx ++ [i] }) s

/-! ## RETX_CFG (R177) -/

def retxHold (c : W32) : Nat := max 1 (bitsOf c 24 8).toNat
def retxMax (c : W32) : Nat := (bitsOf c 20 4).toNat
def retxGap (c : W32) : Nat := max 1 (bitsOf c 12 8).toNat
def retxBase (c : W32) : Nat := max 1 (bitsOf c 0 12).toNat

/-! ## Sending -/

/-- A frame enters the switch core from a unit of this module: it waits at its ingress for FRAME_INGRESS. -/
def emitFrame (port : Nat) (f : Frame) (s : State) : State :=
  modSwc (fun w => { w with inbound := tabMod [] w.inbound port (· ++ [(f, 0)]) }) s

/-- The same for a multicast frame, whose cells carry the ports it is for (R117, R294). -/
def emitMcast (port : Nat) (f : Frame) (mask : BitVec 64) (s : State) : State :=
  modSwc (fun w => { w with inbound := tabMod [] w.inbound port (· ++ [(f, mask)]) }) s

/-- The kind of series of a new frame (R153). -/
def newKind (f : NewFrame) : Nat := if typeClass f.type = some .sched then 1 else 0

/-- COUNT `c` of a series' generation `g` may be sent (R155): no context of that generation not yet DONE lies 2,048 or more behind. -/
def inWindow (r : Rel) (key : Nat) (g : BitVec 4) (c : BitVec 20) : Bool :=
  r.ctxs.all fun e => !(ctxOpen e.2 && decide (ctxSeries e.2 = key) && decide (seqGen (wbSeq e.2.frame.wb) = g) && decide (2048 ≤ (c - seqCount (wbSeq e.2.frame.wb)).toNat))

/-- A line that a new ORDERED request would touch has an earlier LOAD of this source not yet DONE (R156). -/
def loadPending (r : Rel) (addr : BitVec 64) (len : Nat) : Bool :=
  r.ctxs.any fun e => ctxOpen e.2 && decide (wbType e.2.frame.wb = 0x01) &&
    sameLine (wbAddr e.2.frame.wb).toNat (wbLength e.2.frame.wb) addr.toNat len

/-- The unit that sends is there: an end-point block holds contexts only while its port is EDGE (R15). -/
def pointActive (s : State) (p : Point) : Bool := match p with | .ep n => isEdge s n | .rte => true

/-- A source may send this frame now: it is active (R15), a context is free (R85), the series is not held (R175), its window has room (R155),
no earlier LOAD holds the line (R156), and the ingress is ON for the class (R133). -/
def canSend (s : State) (p : Point) (f : NewFrame) : Bool :=
  let r := relOf s p
  let key := seriesKey (addrFnid f.addr) (newKind f)
  let se := tabGet {} r.series key
  pointActive s p && (ctxHead r).isSome && decide (se.timers < 2) && inWindow r key se.gen se.count
    && !(decide ((newKind f) = 0) && loadPending r f.addr f.length) && !ingressOff s f.port (newKind f)

/-- An ATOMIC or REDUCE whose SUBOP is ADD on a floating-point type depends on arrival order (R236). -/
def varies (type subop dtype : Byte) : Bool :=
  (decide (type = 0x03) || decide (type = 0x04)) && decide (subop &&& 0x7F = 0) && decide (4 ≤ dtype.toNat) && decide (dtype.toNat ≤ 6)

/-- The waybill of a new frame (R111, R113). -/
def newWb (s : State) (f : NewFrame) (seq : BitVec 24) (tag : BitVec 24) : Header :=
  mkWb { type := f.type, cls := (typeClass f.type).getD .req
         plen := if f.type = 0x01 then 0 else if f.type = 0x03 then 1 else (f.length + 31) / 32
         flags := f.flags ||| 8 * ofB (varies f.type f.subop f.dtype), plane := planeIdx s, src := f.src.toNat, dst := (addrFnid f.addr).toNat, addr := f.addr.toNat
         seq := seq.toNat, tag := tag.toNat, length := f.length, subop := f.subop.toNat, dtype := f.dtype.toNat
         group := f.group }

/-- Record the lowest number of free contexts (R86). -/
def noteMinFree (p : Point) (s : State) : State :=
  match p with
  | .ep n => modEp n (fun e => { e with minFree := BitVec.ofNat 13 (min e.minFree.toNat (ctxsFree e.rel)) }) s
  | .rte => s

/-- Send a new frame in a context of the source (R84, R154). No context free: nothing is sent. -/
def sendNew (p : Point) (f : NewFrame) (s : State) : State :=
  let r := relOf s p
  match ctxHead r with
  | none => s
  | some i =>
    let key := seriesKey (addrFnid f.addr) (newKind f)
    let se := tabGet {} r.series key
    let c := tabGet {} r.ctxs i
    let wb := newWb s f (mkSeq se.gen se.count) (tagOf p i c.gen)
    let fr := { mkFrame wb f.payload with poison := f.poison }
    let s := modRel p (fun r =>
      let r := ctxPop r
      { r with
        series := tabMod {} r.series key (fun x => { x with count := x.count + 1 })
        issueClock := r.issueClock + 1
        ctxs := tabSet {} r.ctxs i { st := .issued, gen := c.gen, frame := fr, owner := f.owner, port := f.port
                                     issuedAt := r.issueClock } }) s
    emitFrame f.port fr (noteMinFree p s)

/-- Send a frame of one of the source's own units, behind those that wait already. -/
def sendOrWait (p : Point) (f : NewFrame) (s : State) : State :=
  if (relOf s p).waiting.isEmpty && canSend s p f then sendNew p f s
  else modRel p (fun r => { r with waiting := r.waiting ++ [f] }) s

/-- Send a response or another frame of no series: it enters the switch core at a port. -/
def sendLoose (port : Nat) (wb : Header) (payload : List Byte) (s : State) : State := emitFrame port (mkFrame wb payload) s

/-! ## Resending and flushing (R174, R175, R205) -/

/-- The SEAL of a series (R206). -/
def sealWb (s : State) (p : Point) (key : Nat) (gen : BitVec 4) : Header :=
  let src := match p with | .ep n => (epOf s n).srcFnid | .rte => myFnid s
  mkWb { type := 0x32, cls := .ctrl, plane := planeIdx s, src := src.toNat, dst := key / 2
         addr := 0x01 + key % 2 * 2 ^ 8 + gen.toNat * 2 ^ 16 }

/-- The ingress port of a source's own control frames: its own port, or 127 for the node requester (R14). -/
def ctrlPort (p : Point) : Nat := match p with | .ep n => n | .rte => 127

/-- Send the SEAL of a series' newest generation and count the send (R205). -/
def sendSeal (p : Point) (key : Nat) (s : State) : State :=
  let se := tabGet {} (relOf s p).series key
  let sends := match se.sealing with | some w => if w.gen = se.gen then w.sends else 0 | none => 0
  let s := sendLoose (ctrlPort p) (sealWb s p key se.gen) [] s
  modRel p (fun r => { r with series := tabMod {} r.series key (fun x => { x with sealing := some ⟨se.gen, sends + 1⟩ }) }) s

/-- The kinds of R181: an end-point block's, or the node requester's. -/
def relFault (p : Point) (epKind rteKind : Byte) (sev : BitVec 2) (code : Byte) (key detail : Nat) (src : BitVec 12) (s : State) : State :=
  match p with
  | .ep n => epFault n epKind sev code key detail src s
  | .rte => devFault rteKind sev code 0xFF key detail src s

/-- Resend a context's frame as attempt `attempt` (R174). -/
def resendCtx (p : Point) (i attempt : Nat) (s : State) : State :=
  let c := ctxOf s p i
  let s := modCtx p i (fun c => { c with attempt := attempt, atExpiry := false }) s
  let s := modRel p (fun r => { r with retx := satAdd r.retx 1 }) s
  let s := modRte (fun r => { r with cmapRetx := r.cmapRetx + ofB r.cmapEn }) s
  emitFrame c.port (resendOf c.frame) s

/-- Advance a series' generation (R175 steps 2-4), and seal it (R205). -/
def bumpSeries (p : Point) (key : Nat) (s : State) : State :=
  let s := modRel p (fun r => { r with
    series := tabMod {} r.series key (fun x => { x with gen := x.gen + 1, count := 0, timers := x.timers + 1 })
    seriesReset := satAdd r.seriesReset 1 }) s
  let s := relFault p 0x0A 0x31 sevWarn 0 (key / 2) 0 0xFFF s
  sendSeal p key s

/-- A context completes with TIMEOUT: counted (R182, R186). -/
def countTimeout (p : Point) (s : State) : State :=
  let s := modRel p (fun r => { r with timeout := satAdd r.timeout 1 }) s
  modRte (fun r => { r with cmapTimeout := r.cmapTimeout + ofB r.cmapEn }) s

end Sys2Proof.Machine
end

