-- ==== Sys2Proof/Machine/TickOps.lean ====
section
/-! DEFINITION. The itinerary's entries and the tick's parameters (R224-R230, R234), the changes of the sync state, and the node's wake. -/

namespace Sys2Proof.Machine

open Sys2Proof

/-! ## Entries (R225, R226) -/

def entKind (e : BitVec 128) : Nat := (bitsOf e 124 4).toNat
def entTick (e : BitVec 128) : Nat := (bitsOf e 108 12).toNat
def entStart (e : BitVec 128) : Nat := (bitsOf e 84 24).toNat
def entEnd (e : BitVec 128) : Nat := (bitsOf e 60 24).toNat
def entPort (e : BitVec 128) : Nat := (bitsOf e 54 6).toNat
def entRing (e : BitVec 128) : Nat := (bitsOf e 48 6).toNat
def entSlot (e : BitVec 128) : Nat := (bitsOf e 32 16).toNat
def entArray (e : BitVec 128) : Nat := (bitsOf e 50 10).toNat
def entProg (e : BitVec 128) : Nat := (bitsOf e 34 16).toNat
def entStack (e : BitVec 128) : Nat := (bitsOf e 55 5).toNat
def entChans (e : BitVec 128) : BitVec 16 := bitsOf e 39 16

def kindXfer : Nat := 1
def kindCol : Nat := 2
def kindArray : Nat := 3
def kindRefresh : Nat := 4

/-! ## Configuration (R228) -/

def cfgPeriod (c0 : W32) : Nat := (bitsOf c0 0 24).toNat
def cfgTemp (c0 : W32) : Nat := (bitsOf c0 30 2).toNat
def cfgCycle (c1 : W32) : Nat := (bitsOf c1 16 12).toNat
def cfgGuard (c1 : W32) : Nat := (bitsOf c1 0 12).toNat
def actPeriod (s : State) : Nat := cfgPeriod s.tick.act0
def actGuard (s : State) : Nat := cfgGuard s.tick.act1

/-- The tick index within the cycle (R227). A tick counted before `tc`, which a count taken from an upstream can give, has its index modulo
2^64 first: DESIGN CHOICE (assumption 70). -/
def tickIndex (s : State) : Nat := (s.tick.now - s.tick.tc).toNat % (cfgCycle s.tick.act1 + 1)

/-- USABLE (R224). -/
def usable (period : Nat) : Nat := period * 99996 / 100000 - 16

/-- Entry `e` of the active itinerary, when it is active in this tick (R227). -/
def entryNow (s : State) (e : Nat) : Option (BitVec 128) :=
  match s.tick.active[e]? with
  | some x => if entTick x = tickIndex s then some x else none
  | none => none

/-- The indices of the entries of this tick. -/
def entriesNow (s : State) : List Nat := (List.range s.tick.active.length).filter fun e => (entryNow s e).isSome

/-- The module starts itinerary entries: not in ACQUIRE (R220), and not while its period differs from its upstream's (R230). -/
def mayStart (s : State) : Bool := decide (s.tick.state ≠ .acquire) && !s.tick.mismatch

/-- Run `f` at the START of entry `e` of a KIND: once, in its tick, where entries start. -/
def startEntry (e kind : Nat) (f : BitVec 128 → State → State) (s : State) : State :=
  match entryNow s e with
  | none => s
  | some x =>
    if entKind x ≠ kind ∨ s.tick.started.contains e ∨ !mayStart s then s
    else f x (modTick (fun t => { t with started := t.started ++ [e] }) s)

/-- One scheduled item is dropped (R234, R238). -/
def dropItem (kind : Nat) (s : State) : State :=
  devFault0 0x47 sevInfo kind 0 (setRepro 7 (modTick (fun t => { t with lateCnt := satAdd t.lateCnt 1 }) s))

/-! ## Changes of the sync state (R220, R235, R238), and the end of sleep -/

/-- Change the sync state, with its fault record and SYNC_LOSS. LOCKED to MASTER, by MASTER_FORCE, is no loss of lock: DESIGN CHOICE
(assumption 70). A tick count that waits for the next boundary is given up in ACQUIRE and MASTER alone. -/
def enterSync (new : SyncState) (promoted : Bool) (s : State) : State :=
  let old := s.tick.state
  let key := s.tick.upstream.toNat
  let s := if (old = .locked ∨ old = .master) ∧ (new = .holdover ∨ new = .acquire) then setRepro 5 s else s
  let s := modTick (fun t => { t with state := new, goodSyncs := 0
                                      takeFrom := if new = .acquire ∨ new = .master then none else t.takeFrom
                                      carriers := t.carriers.map fun e => (e.1, { e.2 with higher := 0 }) }) s
  match new with
  | .acquire => devFault0 0x41 sevError key 0 (modTick (fun t => { t with upstream := 0xFF, stratum := 31, mclass := 0, forcedSeen := false }) s)
  | .holdover => devFault0 0x40 sevWarn key 0 s
  | .master =>
    let s := modTick (fun t => { t with upstream := 0xFF, stratum := 0, mismatch := false }) s
    if promoted then devFault0 0x42 sevWarn 0 0 s else s
  | .locked => s

/-- Become master of a class (R215). -/
def becomeMaster (cls : Nat) (promoted : Bool) (s : State) : State :=
  modTick (fun t => { t with mclass := BitVec.ofNat 2 cls }) (enterSync .master promoted s)

/-- MASTER_FORCE (R222). -/
def masterForce (s : State) : Bool := bitAt s.mgt.nv.syncCfg 31

/-- MASTER_FORCE is 1: the module is the master of class 2 (R215, R222). A master whose bit is cleared has class 1 at chain address 0, else
class 0. DEDUCED (assumption 32). -/
def applyForce (s : State) : State :=
  let forced := decide (s.tick.state = .master) && decide (s.tick.mclass = 2)
  if masterForce s then (if forced then s else becomeMaster 2 false s)
  else if forced then modTick (fun t => { t with mclass := if s.mgt.adopted ∧ s.mgt.addr = 0 then 1 else 0 }) s
  else s

/-- The node leaves P3 or P4; leaving P4 sets the tick unit to ACQUIRE and SYNC_LOSS (R418-R420). A tripped module stays parked (R431). -/
def wakeNode (s : State) : State :=
  if s.pwr.node.toNat < 3 ∨ s.pwr.tripped then s
  else
    let was := s.pwr.node
    let s := modMem (fun m => { m with stackOf := m.stackOf.map fun x => (x.1, if x.2.state = .selfRefresh then { x.2 with state := .active } else x.2) })
      (modPwr (fun p => { p with node := 0 }) s)
    if was = 4 then applyForce (setRepro 5 (enterSync .acquire false s)) else s

end Sys2Proof.Machine
end

