-- ==== Sys2Proof/Machine/DlvOps.lean ====
section
/-! DEFINITION. Messages to an attach controller, and deliveries: what an end-point block hands to its controller (R65, R70-R72,
R76, R77, R82). -/

namespace Sys2Proof.Machine

open Sys2Proof

/-! ## Messages to the controller -/

/-- Send a message; in DOWN the block sends nothing (R76). The message wakes the port from P1, and in P3 it waits for the port (R418). -/
def epSend (n : Nat) (m : AttachMsg) (s : State) : State :=
  if (epOf s n).attach = .down then s
  else if (portOf s n).quiet then modEp n (fun e => { e with sendWait := e.sendWait ++ [m] }) s
  else unrest n (modEp n (fun e => { e with sent := e.sent ++ [m] }) s)

/-- What waited for the port is sent. -/
def wakePump (n : Nat) (s : State) : State := modEp n (fun e => { e with sent := e.sent ++ e.sendWait, sendWait := [] }) s

/-- A control message (R77). -/
def ctlMsg (opcode : Nat) (fields : List (Nat × Nat)) : AttachMsg := mkMsg (mkHdr opcode 2 0 fields) []

/-! ## Deliveries (R70, R82) -/

def dlvIsHost (d : Delivery) : Bool := match d.use with | .host _ => true | _ => false

/-- Deliveries outstanding, for host accesses or for others. -/
def dlvOut (e : Ep) (host : Bool) : Nat :=
  (e.dlvSlots.filter fun x => match x.2.busy with | some d => dlvIsHost d == host | none => false).length

/-- DLV_MAX bounds the deliveries outstanding, and holds 8 of them for the block's own host accesses (R82). Host accesses use those 8
and no others: DEDUCED (assumption 50). -/
def dlvRoom (e : Ep) (host : Bool) : Bool :=
  if host then decide (dlvOut e true < 8) else decide (dlvOut e false < e.dlvMax.toNat - 8)

/-- The lowest delivery slot that is free. R82 does not say which free slot a delivery takes: DESIGN CHOICE (assumption 50). -/
def freeSlot (e : Ep) : Option Nat :=
  (List.range e.dlvMax.toNat).find? fun i => (tabGet {} e.dlvSlots i).busy.isNone

/-- The DTAG of a slot (R70). -/
def dtagOf (n slot : Nat) (gen : BitVec 6) : Nat := gen.toNat * 2 ^ 18 + n * 2 ^ 12 + slot

/-- The SRC_FNID that a delivery carries (R70): the block itself is 0xFFF. -/
def dlvSrc (d : Delivery) : BitVec 12 :=
  match d.use with
  | .remote wb _ => wbSrc wb
  | _ => 0xFFF

/-- A DLV message (R70, R72). -/
def dlvMsg (n slot : Nat) (gen : BitVec 6) (d : Delivery) : AttachMsg :=
  let pl := if d.opcode = 0x41 then [] else pad32 d.payload
  mkMsg (mkHdr d.opcode.toNat 0 (pl.length / 32) [(2, dtagOf n slot gen), (6, (dlvSrc d).toNat), (8, d.addr.toNat),
    (16, d.len), (18, d.subop.toNat), (19, d.dtype.toNat), (20, ofB d.flag)]) pl

/-- The occurrence of this tick that released ordinal `j`. -/
def ordEntry (x : ColSlot) (j : Nat) : Option Nat :=
  if j < x.cursor then ((x.released.filter fun r => decide (r.2 ≤ j)).getLast?).map (·.1) else none

/-- Chunk work of instances is served in ascending (START of the occurrence that released the chunk, COL_ID) (R298). -/
def chunkPrio (s : State) (k j : Nat) : Nat :=
  let x := slotOf s k
  let startOf (e : Nat) : Nat := ((s.tick.active[e]?).map entStart).getD 0
  let start := match x.chunks.find? fun c => decide (c.ordinal = j) with
    | some c => startOf c.entry
    | none => match ordEntry x j with | some e => startOf e | none => 0
  start * 2 ^ 16 + x.colId.toNat

/-- The chunk that a delivery serves: its slot and ordinal. -/
def dlvChunk (d : Delivery) : Option (Nat × Nat) :=
  match d.use with | .chunk k j _ _ _ => some (k, j) | .host (.chunkRead k j _ _) => some (k, j) | _ => none

/-- A delivery that waits in front of position `i` touches a line of the one there: they go in order (R191). -/
def dlvBehind (q : List Delivery) (i : Nat) : Bool :=
  match q[i]? with
  | none => false
  | some d => (q.take i).any fun x => sameLine x.addr.toNat x.len d.addr.toNat d.len

/-- The delivery to hand over next: the first that has room, or, where that is chunk work, the chunk work served first (R298), of that which
no delivery to its lines precedes. -/
def nextDlv (s : State) (n : Nat) : Option Nat :=
  let e := epOf s n
  let room (d : Delivery) : Bool := dlvRoom e (dlvIsHost d)
  match findPos room e.dlvQueue with
  | none => none
  | some i =>
    match (e.dlvQueue[i]?).bind dlvChunk with
    | none => some i
    | some _ =>
      let work := e.dlvQueue.zipIdx.filterMap fun q => if room q.1 && !dlvBehind e.dlvQueue q.2 then (dlvChunk q.1).map fun c => (chunkPrio s c.1 c.2, q.2) else none
      some (work.foldl (fun b x => if x.1 < b.1 then x else b) (work.headD (0, i))).2

/-- Hand one waiting delivery to the controller. -/
def pumpDlvOne (n : Nat) (s : State) : State :=
  let e := epOf s n
  if e.attach ≠ .ready ∨ e.offReqRx then s
  else match nextDlv s n with
    | none => s
    | some i => match e.dlvQueue[i]?, freeSlot e with
      | some d, some k =>
        let g := (tabGet {} e.dlvSlots k).gen
        let s := modEp n (fun e => { e with dlvQueue := nthDel e.dlvQueue i, dlvSlots := tabSet {} e.dlvSlots k ⟨g, some d⟩ }) s
        epSend n (dlvMsg n k g d) s
      | _, _ => s

/-- Hand waiting deliveries to the controller while there is room; `fuel` bounds the number. -/
def pumpDlvN (n : Nat) : Nat → State → State
  | 0, s => s
  | fuel + 1, s => pumpDlvN n fuel (pumpDlvOne n s)

def pumpDlv (n : Nat) (s : State) : State := pumpDlvN n (epOf s n).dlvQueue.length s

/-- The ring that one of the block's own host accesses serves, 64 for none (R82). -/
def useRing (s : State) (n : Nat) (h : HostUse) : Nat :=
  let ofDesc (i : Nat) : Nat := ((descOf s n i).map (·.ring)).getD 64
  match h with
  | .fetch r _ | .cpl r _ _ | .cairnWrite r _ | .cairnRead r _ => r
  | .source i _ _ | .result i _ | .callRead i _ _ | .callWrite i => ofDesc i
  | .chunkRead k _ r _ =>
    match (slotOf s k).bound.find? fun m => decide (m.rank = r) with
    | some m => (match m.binder with | .ep _ i => ofDesc i | .cb _ _ => 64)
    | none => 64
  | .relayClaim _ _ | .relayStore _ | .relayReady _ | .gone => 64

/-- Queue one of the block's own host accesses (R97). -/
def hostAccess (n : Nat) (h : HostUse) (opcode : Byte) (addr len : Nat) (payload : List Byte) (s : State) : State :=
  pumpDlv n (modEp n (fun e => { e with dlvQueue := e.dlvQueue ++
    [{ use := .host h, opcode := opcode, addr := BitVec.ofNat 52 addr, len := len, payload := payload, ring := useRing s n h }] }) s)

/-- A fetching CAS of eight bytes by the block (R72, R73). -/
def hostCas (n : Nat) (h : HostUse) (addr new old : Nat) (s : State) : State :=
  pumpDlv n (modEp n (fun e => { e with dlvQueue := e.dlvQueue ++
    [{ use := .host h, opcode := 0x43, addr := BitVec.ofNat 52 addr, len := 8, subop := 0x87, dtype := 2, payload := leBytes 8 new ++ leBytes 8 old
       ring := 64 }] }) s)

/-- Free a slot: its generation advances (R82). -/
def freeDlvSlot (n slot : Nat) (s : State) : State :=
  modEp n (fun e => { e with dlvSlots := tabMod {} e.dlvSlots slot fun x => ⟨x.gen + 1, none⟩ }) s

end Sys2Proof.Machine
end

