-- ==== Sys2Proof/Machine/AdmitOps.lean ====
section
/-! DEFINITION. Admission points: receive states, dedup, answers to requests, and the consumers that admitted frames go
to (R166-R172, R176, R178, R179, R344). -/

namespace Sys2Proof.Machine

open Sys2Proof

/-! ## Answers (R172, R178) -/

/-- The port through which the answer to a request enters the switch core: the unit that answered it (R14). -/
def answerPort (p : Point) (wb : Header) : Nat :=
  match p with
  | .ep n => n
  | .rte => if wbType wb = 0x21 then 124 + (wbAddr wb).toNat % 2 else nodePortOf (addrOff (wbAddr wb))

/-- D of a receive state: the COUNT of the oldest frame of the current generation that its consumer has not answered, or
E (R166). -/
def rxSettle (x : RxState) : RxState :=
  match x.unanswered.find? fun q => decide (seqGen q = x.g) with
  | some q => { x with d := seqCount q }
  | none => { x with d := x.e }

def rxOf (s : State) (p : Point) (key : Nat) : RxState := tabGet {} (relOf s p).rx key
def modRx (p : Point) (key : Nat) (f : RxState → RxState) (s : State) : State :=
  modRel p (fun r => { r with rx := tabMod {} r.rx key f }) s

/-- The bytes that an RSP_DATA of a saved result carries: the old value of an atomic, or a reply word (R178). -/
def savedLen (wb : Header) : Nat := if wbType wb = 0x03 then dtypeSize (wbDtype wb) else 8

/-- Send RSP_ACK, or RSP_DATA when there is data (R172). -/
def respond (p : Point) (wb : Header) (status : Byte) (data : Option (List Byte)) (dup : Bool) (s : State) : State :=
  let fl := rflagsOf 0 false dup (wbKind wb)
  match data with
  | none => sendLoose (answerPort p wb) (respWb wb 0x10 status fl 0) [] s
  | some d => sendLoose (answerPort p wb) (respWb wb 0x11 status fl d.length) (pad32 d) s

/-- Send RSP_NACK with a REASON and count it (R172, R183). -/
def sendNack (p : Point) (wb : Header) (reason : Nat) (status : Byte) (dup : Bool) (s : State) : State :=
  let s := modRel p (fun r => { r with
    nackTx := satAdd r.nackTx 1, fullNack := satAdd r.fullNack (ofB (decide (reason = 2) || decide (reason = 4))) }) s
  sendLoose (answerPort p wb) (respWb wb 0x12 status (rflagsOf reason false dup (wbKind wb)) 0) [] s

/-- A notify completed with a nonzero status (R274). -/
def notifyFailed (t : Nat) (s : State) : State :=
  let s := modTly (fun u => { u with notifyErrCnt := satAdd u.notifyErrCnt 1
                                     tallies := tabMod {} u.tallies t (fun y => { y with ctl := putBits y.ctl 27 1 1 }) }) s
  devFault0 0x58 sevWarn t 0 s

/-- A consumer answers an admitted request: its dedup entry becomes DONE and keeps `saved`, D follows, and the response
leaves (R166, R172, R178). -/
def answer (b : Back) (status : Byte) (data : Option (List Byte)) (saved : List Byte) (s : State) : State :=
  match b with
  | .nowhere => s
  | .notify t => if status = 0 then s else notifyFailed t s
  | .request p wb dup =>
    let s := if dup then s else
      let s := modRel p (fun r => { r with dedup := tabMod none r.dedup (wbDedupKey wb) (Option.map fun _ =>
        { done := true, status := status, isData := data.isSome, long := decide (8 < (data.getD []).length), result := slice saved 0 8 }) }) s
      modRx p (seriesKey (wbSrc wb) (wbKind wb)) (fun x => rxSettle { x with unanswered := x.unanswered.erase (wbSeq wb) }) s
    respond p wb status data dup s

/-- A consumer drops an admitted request without an answer (R289, R299): its dedup entry becomes DONE with LATE, so that it ages as R179
gives, and D follows. DEDUCED (assumption 60). -/
def settleRequest (p : Point) (wb : Header) (s : State) : State :=
  let s := modRel p (fun r => { r with dedup := tabMod none r.dedup (wbDedupKey wb) (Option.map fun _ =>
    { done := true, status := 0x11, isData := false, long := false, result := [] }) }) s
  if (rxOf s p (seriesKey (wbSrc wb) (wbKind wb))).unanswered.contains (wbSeq wb) then
    modRx p (seriesKey (wbSrc wb) (wbKind wb)) (fun x => rxSettle { x with unanswered := x.unanswered.erase (wbSeq wb) }) s
  else s

/-! ## Consumers -/

/-- Whether a frame needs a dedup entry (R167, R178). -/
def needsDedup (wb : Header) : Bool :=
  let t := wbType wb
  decide (t = 0x03) || decide (t = 0x04) || decide (t = 0x05) || decide (t = 0x21)

/-- The operation of a request frame. -/
def memOpOf (t : Byte) : MemOp :=
  if t = 0x01 then .load else if t = 0x03 then .atomic else if t = 0x04 then .reduce else .store

/-- The service entry whose region holds an offset (R343, R344). -/
def svcAt (s : State) (off : Nat) : Option Nat :=
  (List.range 16).find? fun k =>
    let e := (svcOf s k).entry
    decide (bitsOf e 0 8 ≠ 0) && decide ((bitsOf e 24 8).toNat = (off - serviceBase) / 2 ^ 32)

def svcKind (s : State) (k : Nat) : Nat := (bitsOf (svcOf s k).entry 0 8).toNat

/-- A reply word (R351). -/
def replyWord (scode info handle : Nat) : List Byte := leBytes 1 scode ++ leBytes 1 info ++ zeros 2 ++ leBytes 4 handle

/-- Count an answered call of a service (R348). -/
def countCall (k : Nat) (bad : Bool) (s : State) : State :=
  modSvcN k (fun v => { v with calls := satAdd v.calls 1, errs := satAdd v.errs (ofB bad) }) s

/-- Answer a call with a reply word, which its dedup entry keeps (R351, R353). -/
def replyCall (k : Nat) (b : Back) (status : Byte) (scode info handle : Nat) (s : State) : State :=
  let w := replyWord scode info handle
  answer b status (some w) w (countCall k (decide (scode ≠ 0) || decide (status ≠ 0)) s)

/-- The SCODE that a service's state gives a call at its admission (R346, R347): DRAINING, FAILED, or none. -/
def stateScode (x : SvcState) : Option Nat :=
  match x with
  | .draining => some 8
  | .disabled => some 8
  | .failed => some 9
  | _ => none

/-- A request addressed to this module goes to the unit behind its node port (R14, R27, R344). -/
def consumeNode (wb : Header) (payload : List Byte) (poison : List Nat) (dup : Bool) (s : State) : State :=
  let b : Back := .request .rte wb dup
  let t := wbType wb
  let off := addrOff (wbAddr wb)
  let len := wbLength wb
  let data := payload.take len
  match regionOf off with
  | .stacked =>
    if t = 0x05 then answer b 0x10 none [] s
    else modChan (channelOf off) (fun c => { c with queue := c.queue ++
      [{ op := memOpOf t, off := BitVec.ofNat 52 off, len := len, subop := wbSubop wb, dtype := wbDtype wb
         data := if t = 0x03 then payload else data, sched := decide (t = 0x20), back := b, poison := poison }] }) s
  | .tally =>
    modTly (fun u => { u with queue := u.queue ++
      [{ op := if t = 0x05 then .atomic else memOpOf t, off := BitVec.ofNat 24 (off - tallyBase), len := if t = 0x05 then 0 else len
         subop := wbSubop wb, dtype := wbDtype wb, data := if t = 0x03 then payload else data, src := wbSrc wb, back := b }] }) s
  | .service =>
    match svcAt s off with
    | none => answer b 0x13 none [] s
    | some k =>
      let ro := off % 2 ^ 32
      if t = 0x05 ∧ ro < 0x100 ∧ len < 32 then answer b 0x10 none [] (countCall k true s)
      else if t = 0x05 ∧ ro < 0x100 then
        match stateScode (svcOf s k).state with
        | some c => replyCall k b 0 c 0 0 s
        | none => modSvc (fun u => { u with queue := u.queue ++ [⟨k, data, b⟩] }) s
      else if (t = 0x02 ∨ t = 0x20) ∧ ro = 0x100 ∧ len = 8 ∧ svcKind s k = 2 then
        modSvc (fun u => { u with triggers := u.triggers ++ [(k, b)] }) s
      else answer b 0x10 none [] s
  | .unbacked => answer b 0x13 none [] s

/-- The DLV opcode that carries a request type (R72). -/
def dlvOpcode (t : Byte) : Byte :=
  if t = 0x01 then 0x41 else if t = 0x03 then 0x43 else if t = 0x04 then 0x44 else 0x42

/-- A request admitted at an end-point block becomes a delivery, handed to the controller when it has room (R81, R82, R191); a call,
and any request while the attach state is not READY, ends with REMOTE at its source. -/
def consumeEp (n : Nat) (wb : Header) (payload : List Byte) (dup : Bool) (s : State) : State :=
  let t := wbType wb
  if t = 0x05 ∨ (epOf s n).attach ≠ .ready then answer (.request (.ep n) wb dup) 0x14 none [] s
  else
    let d : Delivery :=
      { use := .remote wb dup, opcode := dlvOpcode t, addr := bitsOf (wbAddr wb) 0 52, len := wbLength wb
        subop := wbSubop wb, dtype := wbDtype wb, flag := wbFlag wb, payload := payload }
    pumpDlv n (modEp n (fun e => { e with dlvQueue := e.dlvQueue ++ [d] }) s)

/-- CKIND of a COL_CHUNK (R289). -/
def fCkind (h : Header) : Nat := addrOff (wbAddr h) / 2 ^ 48 % 16

/-- The point at which a frame that waits at a port was admitted. -/
def portPoint (port : Nat) : Point := if port < 64 then .ep port else .rte

/-- A COL_CHUNK is discarded: its cells are free, and it is counted in LATE_DISC (R289). -/
def colDiscard (port : Nat) (h : HeldFrame) (s : State) : State :=
  let s := freeCells h.inPort (wbClass h.frame.wb) h.cells s
  let s := modRel (portPoint port) (fun r => { r with lateDisc := satAdd r.lateDisc 1 }) s
  if wbMcast h.frame.wb then s else settleRequest (portPoint port) h.frame.wb s

/-- A COL_CHUNK waits for the collective engine; one of a CKIND that R289 does not list is discarded. -/
def toEngine (port : Nat) (h : HeldFrame) (s : State) : State :=
  if fCkind h.frame.wb = 0 ∨ 8 < fCkind h.frame.wb then colDiscard port h s
  else modCol (fun c => { c with inbox := tabMod [] c.inbox port (· ++ [h]) }) s

/-- Hand an admitted frame to its consumer. A COL_CHUNK waits for the collective engine at the port it came to, with its
cells (R286, R292); every other frame's cells are free once it is admitted. -/
def consume (p : Point) (port : Nat) (h : HeldFrame) (dup : Bool) (s : State) : State :=
  let f := h.frame
  if wbType f.wb = 0x21 then toEngine port h s
  else
    let s := freeCells h.inPort (wbClass f.wb) h.cells s
    match p with
    | .ep n => consumeEp n f.wb f.payload dup s
    | .rte => consumeNode f.wb f.payload f.poison dup s

/-! ## Receive states (R166-R170) -/

/-- The dedup entries of a point, and how many it may hold (R178). -/
def dedupUsed (s : State) (p : Point) : Nat := (relOf s p).dedup.length
def dedupMax (p : Point) : Nat := match p with | .ep _ => 8192 | .rte => 65536

/-- Frames held for reorder at a point, and how many it may hold (R167). -/
def heldCount (s : State) (p : Point) : Nat := ((relOf s p).rx.map fun e => e.2.held.length).sum
def heldMax (p : Point) : Nat := match p with | .ep _ => 2048 | .rte => 16384

/-- Free held frames without response. -/
def dropHeld (held : List HeldFrame) (s : State) : State :=
  forEach held (fun h => freeCells h.inPort (wbClass h.frame.wb) h.cells) s

/-- Free the dedup entries of a series (R179). -/
def dropDedup (p : Point) (key : Nat) (s : State) : State :=
  modRel p (fun r => { r with dedup := tabClear r.dedup (key * 2 ^ 24) ((key + 1) * 2 ^ 24) }) s

/-- Adopt a newer generation (R167 row 2, R205, R179). -/
def adoptGen (p : Point) (key : Nat) (g : BitVec 4) (s : State) : State :=
  let x := rxOf s p key
  let s := dropDedup p key (dropHeld x.held s)
  modRx p key (fun x => { x with g := g, e := 0, d := 0, held := [], eOld := if key % 2 = 1 then 0 else x.e
                                 freed := BitVec.ofNat 16 x.held.length }) s

/-- Free the DONE entries that an admitted COUNT has passed (R179): those 2,048 to 2^19 - 1 behind it. -/
def ageDedup (p : Point) (key : Nat) (count : BitVec 20) (s : State) : State :=
  modRel p (fun r => { r with dedup := r.dedup.filter fun e =>
    !(decide (e.1 / 2 ^ 24 = key) && (match e.2 with | some d => d.done | none => false)
      && decide (2048 ≤ (count - BitVec.ofNat 20 e.1).toNat) && decide ((count - BitVec.ofNat 20 e.1).toNat ≤ 2 ^ 19 - 1)) }) s

/-- Admit one frame: a dedup entry where it needs one, its cells freed, and its consumer (R166, R178). -/
def admitFrame (p : Point) (port : Nat) (h : HeldFrame) (s : State) : State :=
  let wb := h.frame.wb
  let key := seriesKey (wbSrc wb) (wbKind wb)
  let s := ageDedup p key (seqCount (wbSeq wb)) s
  let s := if needsDedup wb then
      modRel p (fun r => { r with dedup := tabSet none r.dedup (wbDedupKey wb) (some ⟨false, 0, false, false, []⟩) }) s else s
  let s := modRx p key (fun x => rxSettle { x with unanswered := x.unanswered ++ [wbSeq wb] }) s
  consume p port h false s

/-- Whether a frame may be admitted: a dedup entry is free where it needs one (R167). -/
def dedupRoom (s : State) (p : Point) (wb : Header) : Bool :=
  !needsDedup wb || decide (dedupUsed s p < dedupMax p)

/-- A call finds the dispatch queue of 4,096 full and waits (R354). -/
def svcQueueFull (s : State) (port : Nat) (wb : Header) : Bool :=
  decide (64 ≤ port) && decide (wbType wb = 0x05) && decide (regionOf (addrOff (wbAddr wb)) = .service) && decide (4096 ≤ s.svc.queue.length)

/-- Admit held frames while one has COUNT = E (R167 row 3). `fuel` is the number held. -/
def admitHeld (p : Point) (port : Nat) (key : Nat) : Nat → State → State
  | 0, s => s
  | fuel + 1, s =>
    let x := rxOf s p key
    match x.held.find? fun h => decide (seqCount (wbSeq h.frame.wb) = x.e) with
    | none => s
    | some h =>
      if dedupRoom s p h.frame.wb && !svcQueueFull s port h.frame.wb then
        let s := modRx p key (fun x => { x with e := x.e + 1, held := x.held.erase h }) s
        admitHeld p port key fuel (admitFrame p port h s)
      else s

/-- The port by which a held frame reaches its consumer. -/
def framePort (p : Point) (wb : Header) : Nat :=
  match p with
  | .ep n => n
  | .rte => if wbType wb = 0x21 then 124 + (wbAddr wb).toNat % 2 else nodePortOf (addrOff (wbAddr wb))

/-- Retry held frames that a missing dedup entry or a full dispatch queue kept (R167, R354): whenever an entry or a place frees. -/
def retryHeld (p : Point) (s : State) : State :=
  forEach ((relOf s p).rx) (fun e s =>
    match e.2.held.find? fun h => decide (seqCount (wbSeq h.frame.wb) = e.2.e) with
    | none => s
    | some h => admitHeld p (framePort p h.frame.wb) e.1 e.2.held.length s) s

/-- Forget an FNID at a point (R176): receive states, held frames and dedup entries. The entries freed may let held frames of other
series in (R167). -/
def forgetFnid (p : Point) (f : BitVec 12) (s : State) : State :=
  retryHeld p (forEach [seriesKey f 0, seriesKey f 1] (fun key s =>
    let s := dropDedup p key (dropHeld (rxOf s p key).held s)
    modRx p key (fun _ => {}) s) s)

/-- Every admission point of the module forgets an FNID (R176). -/
def admissionReset (f : BitVec 12) (s : State) : State :=
  forgetFnid .rte f (forEach (List.range 64) (fun n => forgetFnid (.ep n) f) s)

/-- A duplicate (R168). `ordered` is false for a SCHED frame, which never sends DEDUP_MISS (R170). -/
def answerDuplicate (p : Point) (port : Nat) (f : Frame) (s : State) : State :=
  let wb := f.wb
  let t := wbType wb
  let x := rxOf s p (seriesKey (wbSrc wb) (wbKind wb))
  let s := modRel p (fun r => { r with dupRx := satAdd r.dupRx 1 }) s
  if t = 0x01 then consume p port ⟨f, 0, []⟩ true s
  else if t = 0x02 then
    if countPrecedes (seqCount (wbSeq wb)) x.d then respond p wb 0 none true s else s
  else match tabGet none (relOf s p).dedup (wbDedupKey wb) with
    | some e =>
      if e.done then
        if t = 0x05 ∧ e.long then consume p port ⟨f, 0, []⟩ true s
        else respond p wb e.status (if e.isData then some (e.result.take (savedLen wb)) else none) true s
      else s
    | none =>
      relFault p 0x0C 0x33 sevError 0x14 (wbSrc wb).toNat (wbAddr wb).toNat (wbSrc wb) (sendNack p wb 5 0x14 true s)

end Sys2Proof.Machine
end

