-- ==== Sys2Proof/Machine/Aes.lean ====
section
/-! DEFINITION. The ciphers that the spec takes from standards: AES-256 (FIPS 197), AES-256-XTS (IEEE 1619) for lines of memory (R373, R374), and
AES-256-GCM (SP 800-38D) for links and sessions (R452, R462). -/

namespace Sys2Proof.Machine

open Sys2Proof

/-! ## AES-256 -/

/-- Rows of 32 entries of the S-box and of its inverse, the first entry in the lowest byte. -/
def aesRow (inverse : Bool) (k : Nat) : Nat :=
  match inverse, k with
  | false, 0 => 0xc072a49cafa2d4adf04759fa7dc982ca76abd7fe2b670130c56f6bf27b777c63
  | false, 1 => 0x75b227ebe28012079a059618c323c7041531d871f1e5a534ccf73f362693fdb7
  | false, 2 => 0xcf584c4a39becb6a5bb1fc20ed00d153842fe329b3d63b52a05a6e1b1a2c8309
  | false, 3 => 0xd2f3ff1021dab6bcf5389d928f40a351a89f3c507f02f94585334d43fbaaefd0
  | false, 4 => 0xdb0b5ede14b8ee4688902a22dc4f816073195d643d7ea7c41744975fec130ccd
  | false, 5 => 0x08ae7a65eaf4566ca94ed58d6d37c8e779e4959162acd3c25c2406490a3a32e0
  | false, 6 => 0x9e1dc186b95735610ef6034866b53e708a8bbd4b1f74dde8c6b4a61c2e2578ba
  | false, _ => 0x16bb54b00f2d99416842e6bf0d89a18cdf2855cee9871e9b948ed9691198f8e1
  | true, 0 => 0xcbe9dec444438e3487ff2f9b8239e37cfbd7f3819ea340bf38a53630d56a0952
  | true, 1 => 0x25d18b6d49a25b76b224d92866a12e084ec3fa420b954cee3d23c2a632947b54
  | true, 2 => 0x849d8da75746155edab9edfd5048706c92b6655dcc5ca4d41698688664f6f872
  | true, 3 => 0x6b8a130103bdafc1020f3fca8f1e2cd00645b3b80558e4f70ad3bc8c00abd890
  | true, 4 => 0x6edf751ce837f9e28535ade72274ac9673e6b4f0cecff297eadc674f4111913a
  | true, 5 => 0xf45acd78fec0db9a2079d2c64b3e56fc1bbe18aa0e62b76f89c5291d711af147
  | true, 6 => 0xef9cc9939f7ae52d0d4ab519a97f51605fec8027591012b131c7078833a8dd1f
  | true, _ => 0x7d0c2155631469e126d677ba7e042b17619953833cbbebc8b0f52aae4d3be0a0

/-- SubBytes of one byte, or its inverse. -/
def aesSub (inverse : Bool) (b : Byte) : Byte := BitVec.ofNat 8 (aesRow inverse (b.toNat / 32) / 2 ^ (8 * (b.toNat % 32)))

/-- Twice an element of the field of x^8 + x^4 + x^3 + x + 1. -/
def aesDouble (a : Byte) : Byte := if bitAt a 7 then (a <<< 1) ^^^ 0x1B else a <<< 1

/-- XOR of byte lists. -/
def xorList (a b : List Byte) : List Byte := List.zipWith (· ^^^ ·) a b

/-- The word after those of `ws`, the latest first, in the key expansion of AES-256; `i` is its index. -/
def aesNextWord (ws : List (List Byte)) (i : Nat) : List (List Byte) :=
  let last := ws.headD []
  let t := if i % 8 = 0 then
      xorList ((last.drop 1 ++ last.take 1).map (aesSub false)) [BitVec.ofNat 8 (2 ^ (i / 8 - 1)), 0, 0, 0]
    else if i % 8 = 4 then last.map (aesSub false) else last
  xorList (ws.getD 7 []) t :: ws

/-- The 15 round keys. -/
def aesKeys (key : List Byte) : List (List Byte) :=
  let ws := (List.range 52).foldl (fun ws i => aesNextWord ws (i + 8)) (chunks 4 8 key).reverse
  chunks 16 15 ws.reverse.flatten

/-- ShiftRows: byte i is byte 5 i modulo 16, and its inverse byte 13 i. -/
def aesShift (step : Nat) (x : List Byte) : List Byte := (List.range 16).map fun i => x.getD (step * i % 16) 0

/-- MixColumns of a column. -/
def aesMixColumn (c : List Byte) : List Byte :=
  (List.range 4).map fun i =>
    let a := c.getD i 0
    let b := c.getD ((i + 1) % 4) 0
    aesDouble a ^^^ (aesDouble b ^^^ b) ^^^ c.getD ((i + 2) % 4) 0 ^^^ c.getD ((i + 3) % 4) 0
def aesMix (x : List Byte) : List Byte := (chunks 4 4 x).flatMap aesMixColumn

/-- InvMixColumns: the fourth power of MixColumns is the identity. -/
def aesUnmix (x : List Byte) : List Byte := aesMix (aesMix (aesMix x))

def aesRound (x rk : List Byte) : List Byte := xorList (aesMix (aesShift 5 (x.map (aesSub false)))) rk
def aesUnround (x rk : List Byte) : List Byte := (aesShift 13 (aesUnmix (xorList x rk))).map (aesSub true)

/-- Encryption of a block of 16 bytes under the round keys. -/
def aesEncrypt (rks : List (List Byte)) (x : List Byte) : List Byte :=
  let x := (rks.drop 1).take 13 |>.foldl aesRound (xorList x (rks.headD []))
  xorList (aesShift 5 (x.map (aesSub false))) (rks.getD 14 [])

/-- Its inverse. -/
def aesDecrypt (rks : List (List Byte)) (x : List Byte) : List Byte :=
  let x := (aesShift 13 (xorList x (rks.getD 14 []))).map (aesSub true)
  xorList (((rks.drop 1).take 13).reverse.foldl aesUnround x) (rks.headD [])

/-! ## AES-256-XTS (R373) -/

/-- A tweak times α. -/
def xtsNext (t : BitVec 128) : BitVec 128 := if bitAt t 127 then (t <<< 1) ^^^ 0x87 else t <<< 1

/-- The blocks of a data unit, each under its tweak. -/
def xtsBlocks (f : List Byte → List Byte) : BitVec 128 → List (List Byte) → List Byte
  | _, [] => []
  | t, b :: bs => xorList (f (xorList b (bvBytes t))) (bvBytes t) ++ xtsBlocks f (xtsNext t) bs

/-- A line under the memory key: Key1 is the lower half of its bytes, and Key2 the upper. -/
def xtsLine (f : List (List Byte) → List Byte → List Byte) (key : BitVec 512) (tweak : BitVec 128) (line : List Byte) : List Byte :=
  let t := aesEncrypt (aesKeys ((bvBytes key).drop 32)) (bvBytes tweak)
  xtsBlocks (f (aesKeys ((bvBytes key).take 32))) (BitVec.ofNat 128 (leNat t)) (chunks 16 4 line)
def xtsEncrypt (key : BitVec 512) (tweak : BitVec 128) (line : List Byte) : List Byte := xtsLine aesEncrypt key tweak line
def xtsDecrypt (key : BitVec 512) (tweak : BitVec 128) (cipher : List Byte) : List Byte := xtsLine aesDecrypt key tweak cipher

/-! ## AES-256-GCM (R452, R462) -/

/-- Counter block `n` of an IV of 12 bytes. -/
def gcmBlock (iv : List Byte) (n : Nat) : List Byte := iv ++ beBytes 4 n

/-- Bytes 64 k to 64 k + 63 of the key stream. -/
def gcmStream (key : BitVec 256) (iv : List Byte) (k : Nat) : BitVec 512 :=
  let rks := aesKeys (bvBytes key)
  BitVec.ofNat 512 (leNat ((List.range 4).flatMap fun i => aesEncrypt rks (gcmBlock iv (4 * k + i + 2))))

/-- x × y in GCM's field, whose bit 127 is the first, over `n` bits of x from its first on. -/
def gcmMulBits : Nat → BitVec 128 → BitVec 128 → BitVec 128
  | 0, _, _ => 0
  | n + 1, x, y =>
    (if bitAt x 127 then y else 0) ^^^ gcmMulBits n (x <<< 1) (if bitAt y 0 then (y >>> 1) ^^^ (0xE1 <<< 120) else y >>> 1)
def gcmMul (x y : BitVec 128) : BitVec 128 := gcmMulBits 128 x y

/-- GHASH of bytes, filled up with zeros to whole blocks. -/
def ghash (h : BitVec 128) (x : BitVec 128) (bs : List Byte) : BitVec 128 :=
  (chunks 16 (bs.length + 1) bs).foldl (fun y b => gcmMul (y ^^^ BitVec.ofNat 128 (beNat (b ++ zeros (16 - b.length)))) h) x

/-- The tag of 16 bytes over additional data and ciphertext. -/
def gcmTag (key : BitVec 256) (iv aad cipher : List Byte) : BitVec 128 :=
  let rks := aesKeys (bvBytes key)
  let h : BitVec 128 := BitVec.ofNat 128 (beNat (aesEncrypt rks (zeros 16)))
  let y := ghash h (ghash h (ghash h 0 aad) cipher) (beBytes 8 (8 * aad.length) ++ beBytes 8 (8 * cipher.length))
  BitVec.ofNat 128 (leNat (xorList (beBytes 16 y.toNat) (aesEncrypt rks (gcmBlock iv 1))))

end Sys2Proof.Machine
end

