-- ==== Sys2Proof/Machine/Ecc.lean ====
section
/-! DEFINITION. The field GF(2^8) of x^8 + x^4 + x^3 + x^2 + 1, and the Reed-Solomon code RS(72,64) of a memory line over it (R375, R377). -/

namespace Sys2Proof.Machine

open Sys2Proof

/-! ## The field (R375, R404) -/

/-- Twice an element of the field. -/
def gfDouble (a : Byte) : Byte := if bitAt a 7 then (a <<< 1) ^^^ 0x1D else a <<< 1

/-- a × b, over the bits of b from bit 0 up; `n` bits are left. -/
def gfMulBits : Nat → Byte → Byte → Byte
  | 0, _, _ => 0
  | n + 1, a, b => (if bitAt b 0 then a else 0) ^^^ gfMulBits n (gfDouble a) (b >>> 1)
def gfMul (a b : Byte) : Byte := gfMulBits 8 a b

/-- g^n. -/
def gfPow : Nat → Byte
  | 0 => 1
  | n + 1 => gfDouble (gfPow n)

def xorBytes (a b : List Byte) : List Byte := List.zipWith (· ^^^ ·) a b
def scaleBytes (k : Byte) (a : List Byte) : List Byte := a.map (gfMul k)

/-! ## The code of a line (R375) -/

/-- A polynomial, highest power first, times (x + r). -/
def polyByRoot (p : List Byte) (r : Byte) : List Byte := xorBytes (p ++ [0]) (0 :: scaleBytes r p)

/-- The generator polynomial without its leading 1. R375 does not give its roots: g^0 to g^7. PRESUMED (assumption 63). -/
def rsGen : List Byte := ((List.range 8).foldl (fun p i => polyByRoot p (gfPow i)) [1]).drop 1

/-- One step of the division: the remainder takes in a data symbol. -/
def rsStep (r : List Byte) (b : Byte) : List Byte := xorBytes (r.drop 1 ++ [0]) (scaleBytes (b ^^^ r.headD 0) rsGen)

/-- The 8 check bytes of 64 bytes. -/
def rsCheck (data : List Byte) : List Byte := data.foldl rsStep (zeros 8)

/-- The 72-byte codeword of a line's ciphertext; that of a poisoned line has each check byte inverted (R377). -/
def lineCodeword (cipher : List Byte) (poison : Bool) : List Byte :=
  cipher ++ if poison then (rsCheck cipher).map (~~~ ·) else rsCheck cipher

/-- What the decoder makes of a codeword with `n` symbols in error: none from 7 up, where R375 gives no guarantee. -/
def rsFinding (n : Nat) : Option EccOutcome :=
  if n = 0 then some .good else if n ≤ 2 then some .correctable else if n ≤ 6 then some .uncorrectable else none

end Sys2Proof.Machine
end

