-- ==== Sys2Proof/Machine/Fp.lean ====
section
/-! DEFINITION. Number formats and arithmetic (R240-R268): values, rounding, operations, conversions, the amax record and
the exact accumulator. -/

namespace Sys2Proof.Machine

open Sys2Proof

/-! ## Formats (R240, R241) -/

/-- A floating-point value: NaN with its sign, whether it signals and its fraction aligned to 23 bits; infinity; or the
finite number (-1)^neg · m · 2^e. -/
inductive FVal where
  | nan (neg signals : Bool) (frac : Nat)
  | inf (neg : Bool)
  | fin (neg : Bool) (m : Nat) (e : Int)
deriving DecidableEq, Repr

/-- Exponent and fraction widths of a format (R240). -/
structure Fmt where
  eb : Nat
  fb : Nat
deriving DecidableEq, Repr

/-- The format of a DTYPE 0x4-0x8 (R240). -/
def fmtOf (dtype : Nat) : Fmt :=
  match dtype with
  | 5 => ⟨8, 7⟩
  | 6 => ⟨5, 10⟩
  | 7 => ⟨4, 3⟩
  | 8 => ⟨5, 2⟩
  | _ => ⟨8, 23⟩

/-- Bytes of an element of a DTYPE 0x0-0x8. -/
def elemSize (dtype : Nat) : Nat :=
  match dtype with
  | 2 => 8
  | 3 => 8
  | 5 => 2
  | 6 => 2
  | 7 => 1
  | 8 => 1
  | _ => 4

def Fmt.bias (f : Fmt) : Int := 2 ^ (f.eb - 1) - 1
/-- The encoding of +infinity. -/
def Fmt.infBits (f : Fmt) : Nat := (2 ^ f.eb - 1) * 2 ^ f.fb
def Fmt.signBit (f : Fmt) : Nat := 2 ^ (f.eb + f.fb)
/-- The canonical quiet NaN (R241). -/
def Fmt.qnan (f : Fmt) : Nat := f.infBits + 2 ^ (f.fb - 1)
/-- The exponent of the smallest normal. -/
def Fmt.emin (f : Fmt) : Int := 1 - f.bias

/-- The value that bits denote (R240). -/
def decodeF (f : Fmt) (x : Nat) : FVal :=
  let neg := decide (x / f.signBit % 2 = 1)
  let ex := x / 2 ^ f.fb % 2 ^ f.eb
  let fr := x % 2 ^ f.fb
  if ex = 2 ^ f.eb - 1 then
    if fr = 0 then .inf neg else .nan neg (decide (fr < 2 ^ (f.fb - 1))) (fr * 2 ^ (23 - f.fb))
  else if ex = 0 then .fin neg fr (f.emin - f.fb)
  else .fin neg (fr + 2 ^ f.fb) (ex - f.bias - f.fb)

/-! ## Flags (R249) -/

def flInvalid : Nat := 1
def flDivzero : Nat := 2
def flOverflow : Nat := 4
def flUnderflow : Nat := 8
def flInexact : Nat := 16
def flNanIn : Nat := 32

/-- How a conversion rounds (R250). -/
inductive RMode where
  | rne
  | rtz
  | sr (draw : W32)
deriving DecidableEq, Repr

/-- Whether the magnitude with integer part `lo` and `rem` of `2^shift` left goes up (R252, R254). -/
def roundsUp (mode : RMode) (lo rem shift : Nat) : Bool :=
  match mode with
  | .rne => decide (2 ^ shift < 2 * rem) || (decide (2 ^ shift = 2 * rem) && decide (lo % 2 = 1))
  | .rtz => false
  | .sr draw => decide (2 ^ 32 ≤ (if 32 ≤ shift then rem / 2 ^ (shift - 32) else rem * 2 ^ (32 - shift)) + draw.toNat)

/-- Round a positive magnitude m · 2^e into a format: the encoding without sign, and the flags (R249, R252, R254). Tininess
is judged after rounding with an unbounded exponent. -/
def roundMag (f : Fmt) (mode : RMode) (m : Nat) (e : Int) : Nat × Nat :=
  if m = 0 then (0, 0)
  else
    let top : Int := Nat.log2 m + e
    let q : Int := max (top - f.fb) (f.emin - f.fb)
    let sh : Int := q - e
    let shift := sh.toNat
    let lo := if sh ≤ 0 then m * 2 ^ (-sh).toNat else m / 2 ^ shift
    let rem := if sh ≤ 0 then 0 else m % 2 ^ shift
    let up := roundsUp mode lo rem shift
    let enc (x : Nat) : Nat := (q + f.fb + f.bias).toNat * 2 ^ f.fb + x - 2 ^ f.fb
    let beyond := decide (f.infBits ≤ enc lo) || (decide (enc lo = f.infBits - 1) && decide (rem ≠ 0))
    let bits := enc (lo + ofB up)
    let ushift := Nat.log2 m - f.fb
    let uLo := m / 2 ^ ushift
    let uUp := roundsUp mode uLo (m % 2 ^ ushift) ushift
    let tiny := decide (top < f.emin) && !(decide (top + 1 = f.emin) && decide (uLo + ofB uUp = 2 ^ (f.fb + 1)))
    if f.infBits ≤ bits ∨ (mode = .rtz ∧ beyond = true) then
      match mode with
      | .rtz => (f.infBits - 1, flOverflow + flInexact)
      | _ => (f.infBits, flOverflow + flInexact)
    else
      (bits, (if rem = 0 then 0 else flInexact) + (if tiny && decide (rem ≠ 0) then flUnderflow else 0))

/-- The encoding of a NaN in a format: quiet, with as many of its fraction bits as fit (R245, R253). -/
def nanBits (f : Fmt) (neg : Bool) (frac : Nat) : Nat :=
  let fr := frac / 2 ^ (23 - f.fb)
  ofB neg * f.signBit + f.infBits + (if fr / 2 ^ (f.fb - 1) % 2 = 1 then fr else fr + 2 ^ (f.fb - 1))

/-- Round a value into a format: a NaN keeps its payload, an infinity its sign. -/
def encodeF (f : Fmt) (mode : RMode) (x : FVal) : Nat × Nat :=
  match x with
  | .nan neg sig frac => (nanBits f neg frac, if sig then flInvalid else 0)
  | .inf neg => (ofB neg * f.signBit + f.infBits, 0)
  | .fin neg m e =>
    let (b, fl) := roundMag f mode m e
    (ofB neg * f.signBit + b, fl)

def f32 : Fmt := ⟨8, 23⟩
def dec32 (x : W32) : FVal := decodeF f32 x.toNat

def isNan (x : FVal) : Bool := match x with | .nan _ _ _ => true | _ => false
def isSnan (x : FVal) : Bool := match x with | .nan _ s _ => s | _ => false
def isZeroF (x : FVal) : Bool := match x with | .fin _ m _ => decide (m = 0) | _ => false
def negF (x : FVal) : FVal := match x with | .nan n s f => .nan (!n) s f | .inf n => .inf (!n) | .fin n m e => .fin (!n) m e

/-- Signed mantissa. -/
def sgn (neg : Bool) (m : Nat) : Int := if neg then -(m : Int) else m

/-! ## Exact products and sums (R243, R244) -/

/-- The exact product of two non-NaN values; none for 0 × infinity. -/
def mulExact (a b : FVal) : Option FVal :=
  match a, b with
  | .fin n1 m1 e1, .fin n2 m2 e2 => some (.fin (n1 != n2) (m1 * m2) (e1 + e2))
  | .inf n1, .inf n2 => some (.inf (n1 != n2))
  | .inf n1, .fin n2 m _ => if m = 0 then none else some (.inf (n1 != n2))
  | .fin n1 m _, .inf n2 => if m = 0 then none else some (.inf (n1 != n2))
  | _, _ => none

/-- The exact sum of two non-NaN values; none for infinity minus infinity. A zero sum is +0 unless both are -0. -/
def addExact (a b : FVal) : Option FVal :=
  match a, b with
  | .fin n1 m1 e1, .fin n2 m2 e2 =>
    let e := min e1 e2
    let v : Int := sgn n1 m1 * 2 ^ (e1 - e).toNat + sgn n2 m2 * 2 ^ (e2 - e).toNat
    if v = 0 then some (.fin (n1 && n2) 0 0) else some (.fin (decide (v < 0)) v.natAbs e)
  | .inf n1, .inf n2 => if n1 = n2 then some (.inf n1) else none
  | .inf n1, .fin _ _ _ => some (.inf n1)
  | .fin _ _ _, .inf n2 => some (.inf n2)
  | _, _ => none

/-- The NaN result of an operation: the first NaN operand, quiet (R245). -/
def firstNan (l : List FVal) : Option FVal := l.find? isNan

/-- The NaN operand rule around an operation (R245): `r` is the exact result of an operation without NaN operands. -/
def withNan (f : Fmt) (ops : List FVal) (r : Option FVal) : Nat × Nat :=
  let sig := if ops.any isSnan then flInvalid else 0
  match firstNan ops with
  | some (.nan n _ fr) => (nanBits f n fr, sig)
  | _ => match r with
    | none => (f.qnan, flInvalid)
    | some v => encodeF f .rne v

/-- a + b in a format, RNE. -/
def fadd (f : Fmt) (a b : FVal) : Nat × Nat := withNan f [a, b] (addExact a b)

/-- a × b in a format, RNE. -/
def fmul (f : Fmt) (a b : FVal) : Nat × Nat := withNan f [a, b] (mulExact a b)

/-- a × b + c with one rounding (R243). -/
def ffma (f : Fmt) (a b c : FVal) : Nat × Nat :=
  withNan f [a, b, c] (match mulExact a b with | none => none | some p => addExact p c)

/-- The integer square root, bit by bit from bit `k`. -/
def isqrt (m : Nat) : Nat → Nat → Nat
  | 0, r => if (r + 1) * (r + 1) ≤ m then r + 1 else r
  | k + 1, r => isqrt m k (if (r + 2 ^ (k + 1)) * (r + 2 ^ (k + 1)) ≤ m then r + 2 ^ (k + 1) else r)

/-- a / b in a format, RNE: 0 / 0 and infinity / infinity are invalid, a finite nonzero value over 0 raises DIVZERO. -/
def fdiv (f : Fmt) (a b : FVal) : Nat × Nat :=
  match a, b with
  | .fin n1 m1 e1, .fin n2 m2 e2 =>
    if m2 = 0 then if m1 = 0 then (f.qnan, flInvalid) else (ofB (n1 != n2) * f.signBit + f.infBits, flDivzero)
    else
      let k := 320 + Nat.log2 m2
      let x := m1 * 2 ^ k
      encodeF f .rne (.fin (n1 != n2) (2 * (x / m2) + ofB (decide (x % m2 ≠ 0))) (e1 - e2 - k - 1))
  | .fin n1 _ _, .inf n2 => (ofB (n1 != n2) * f.signBit, 0)
  | .inf n1, .fin n2 _ _ => (ofB (n1 != n2) * f.signBit + f.infBits, 0)
  | _, _ => withNan f [a, b] none

/-- The square root in a format, RNE: a negative nonzero operand is invalid, and -0 gives -0. -/
def fsqrt (f : Fmt) (a : FVal) : Nat × Nat :=
  match a with
  | .fin neg m e =>
    if m = 0 then (ofB neg * f.signBit, 0)
    else if neg then (f.qnan, flInvalid)
    else
      let odd := e % 2 ≠ 0
      let m2 := (if odd then 2 * m else m) * 2 ^ 128
      let e2 := (if odd then e - 1 else e) - 128
      let r := isqrt m2 (Nat.log2 m2 / 2 + 1) 0
      encodeF f .rne (.fin false (2 * r + ofB (decide (r * r ≠ m2))) (e2 / 2 - 1))
  | .inf neg => if neg then (f.qnan, flInvalid) else (f.infBits, 0)
  | .nan n s fr => (nanBits f n fr, if s then flInvalid else 0)

/-- a < b for non-NaN values; `zeros` puts -0 below +0 (R246, R247). -/
def fltLt (zeros : Bool) (a b : FVal) : Bool :=
  match a, b with
  | .inf n1, .inf n2 => n1 && !n2
  | .inf n1, _ => n1
  | _, .inf n2 => !n2
  | .fin n1 m1 e1, .fin n2 m2 e2 =>
    let e := min e1 e2
    let x : Int := sgn n1 m1 * 2 ^ (e1 - e).toNat
    let y : Int := sgn n2 m2 * 2 ^ (e2 - e).toNat
    decide (x < y) || (zeros && decide (x = y) && decide (x = 0) && n1 && !n2)
  | _, _ => false

/-- MIN or MAX of two encodings (R247): a NaN operand gives the canonical quiet NaN. -/
def fminmax (f : Fmt) (isMax : Bool) (x y : Nat) : Nat × Nat :=
  let a := decodeF f x
  let b := decodeF f y
  if isNan a || isNan b then (f.qnan, if isSnan a || isSnan b then flInvalid else 0)
  else (if isMax then (if fltLt true a b then y else x) else (if fltLt true b a then y else x), 0)

/-! ## Memory-side operations (R73, R245, R247, R248, R266) -/

/-- Interpret bits as signed when the type is S32 or S64. -/
def intVal (dtype size x : Nat) : Int :=
  if (dtype = 1 ∨ dtype = 3) ∧ 2 ^ (8 * size - 1) ≤ x then (x : Int) - 2 ^ (8 * size) else x

/-- One element operation of R73: `old` is the stored value, `x` the operand, `cmp` the compare value of CAS. -/
def elemOp (subop dtype : Nat) (old x cmp : Nat) : Nat :=
  let size := elemSize dtype
  let op := subop % 128
  match op with
  | 1 => old &&& x
  | 2 => old ||| x
  | 3 => old ^^^ x
  | 6 => x
  | 7 => if old = cmp then x else old
  | _ =>
    if 4 ≤ dtype then
      let f := fmtOf dtype
      if op = 0 then (fadd f (decodeF f old) (decodeF f x)).1 else (fminmax f (decide (op = 5)) old x).1
    else if op = 0 then (old + x) % 2 ^ (8 * size)
    else
      let a := intVal dtype size old
      let b := intVal dtype size x
      if op = 4 then (if b < a then x else old) else (if a < b then x else old)

/-- Apply an element operation over `n` elements held in bytes. -/
def elemsOp (subop dtype : Nat) (old x : List Byte) : List Byte :=
  let sz := elemSize dtype
  let a := chunks sz (old.length / sz) old
  let b := chunks sz (x.length / sz) x
  (a.zip b).flatMap fun p => leBytes sz (elemOp subop dtype (leNat p.1) (leNat p.2) 0)

/-! ## Conversions (R250-R257) -/

def specDtype (s : BitVec 16) : Nat := (bitsOf s 12 4).toNat
def specRmode (s : BitVec 16) : Nat := (bitsOf s 10 2).toNat
def specScale (s : BitVec 16) : Nat := (bitsOf s 8 2).toNat

/-- A conversion specifier is well formed (R250). -/
def specOk (s : BitVec 16) : Bool :=
  decide (4 ≤ specDtype s) && decide (specDtype s ≤ 8) && decide (specRmode s ≠ 3) && decide (specScale s ≠ 3)
    && decide (bitsOf s 0 8 = 0) && (decide (specScale s ≠ 2) || decide (7 ≤ specDtype s))

/-- A stream scale is a positive, finite, normal FP32 value (R257). -/
def scaleOk (x : W32) : Bool :=
  let ex := (bitsOf x 23 8).toNat
  !bitAt x 31 && decide (1 ≤ ex) && decide (ex ≤ 254)

/-- One word absorbed by the draw function (R255). -/
def drawAbsorb (h : W32 × W32) (w : W32) : W32 × W32 :=
  let h0 := (h.1 ^^^ w) * 0x8F2B61C5
  let h0 := h0 ^^^ (h0 >>> 15)
  let h1 := (h.2 + w) * 0x3C6EF1A9
  let h1 := h1 ^^^ (h1 >>> 13)
  let h0 := h0 + h1.rotateLeft 11
  (h0, h1 ^^^ h0.rotateLeft 7)

/-- One finishing round (R255). -/
def drawFinish (h : W32 × W32) : W32 × W32 :=
  let h0 := (h.1 ^^^ (h.1 >>> 16)) * 0xA53D2E67
  let h1 := (h.2 ^^^ (h.2 >>> 14)) * 0x7B15C9D3
  let h0 := h0 + h1
  (h0, h1 + h0.rotateLeft 19)

/-- DRAW (R255). -/
def drawOf (seed step index : BitVec 64) : W32 :=
  let h : W32 × W32 := (bitsOf seed 0 32 ^^^ 0x6A1F3C85, bitsOf seed 32 32 ^^^ 0x2E97D4B3)
  let h := [bitsOf index 0 32, bitsOf index 32 32, bitsOf step 0 32, bitsOf step 32 32].foldl drawAbsorb h
  let h := drawFinish (drawFinish (drawFinish (drawFinish h)))
  h.1 ^^^ h.2

/-- The rounding mode of a specifier for one element (R250, R256). -/
def modeOf (spec : BitVec 16) (seed step index : BitVec 64) : RMode :=
  match specRmode spec with
  | 1 => .rtz
  | 2 => .sr (drawOf seed step index)
  | _ => .rne

/-- Convert a value into a format (R251-R253): a NaN raises NAN_IN, a signalling one INVALID too. -/
def convertF (f : Fmt) (mode : RMode) (x : FVal) : Nat × Nat :=
  match x with
  | .nan n s fr => (nanBits f n fr, flNanIn + if s then flInvalid else 0)
  | _ => encodeF f mode x

/-- The magnitude of a value as AMAX holds it: FP32, rounded toward zero (R261); none for a NaN. -/
def amaxMag (x : FVal) : Option Nat :=
  match x with
  | .nan _ _ _ => none
  | .inf _ => some f32.infBits
  | .fin _ m e => some (roundMag f32 .rtz m e).1

/-- An amax record after one element (R260, R261): `x` the source before any scale, `bits` and `fl` the result. -/
def amaxAdd (r : Amax) (f : Fmt) (x : FVal) (bits fl : Nat) : Amax :=
  let mag := bits % f.signBit
  let finite := match x with | .fin _ _ _ => true | _ => false
  { amax := match amaxMag x with | some m => if r.amax.toNat < m then BitVec.ofNat 32 m else r.amax | none => r.amax
    flags := r.flags ||| BitVec.ofNat 8 fl
    ovfCnt := satAdd r.ovfCnt (ofB (finite && (decide (mag = f.infBits) || (decide (mag = f.infBits - 1) && decide (fl / flOverflow % 2 = 1)))))
    nanCnt := satAdd r.nanCnt (ofB (decide (f.infBits < mag))) }

/-- Merge an amax record into another: the larger AMAX, the OR of FLAGS, the sum of the counts. -/
def amaxMerge (a b : Amax) : Amax :=
  { amax := if a.amax < b.amax then b.amax else a.amax, flags := a.flags ||| b.flags
    ovfCnt := satAdd a.ovfCnt b.ovfCnt.toNat, nanCnt := satAdd a.nanCnt b.nanCnt.toNat }

/-- The 16 bytes of an amax record (R260). -/
def amaxBytes (r : Amax) : List Byte := bvBytes r.amax ++ [r.flags, 0, 0, 0] ++ bvBytes r.ovfCnt ++ bvBytes r.nanCnt

/-- Convert one element under a specifier with SCALE none or stream scale (R252, R257). -/
def convertElem (spec : BitVec 16) (scaleF : W32) (seed step index : BitVec 64) (x : FVal) : Nat × Nat :=
  let f := fmtOf (specDtype spec)
  let mode := modeOf spec seed step index
  if specScale spec = 1 then
    match x with
    | .fin _ _ _ => convertF f mode ((mulExact x (dec32 scaleF)).getD x)
    | _ => convertF f mode x
  else convertF f mode x

/-- The block exponent of R259: the smallest e, at least -127, with BAMAX at most MAXF · 2^e. -/
def blockExp (f : Fmt) (l : List FVal) : Int :=
  let maxF := decodeF f (f.infBits - 1)
  let big := l.foldl (fun (b : FVal) x => match x with
    | .fin _ m e => if fltLt false b (.fin false m e) then .fin false m e else b
    | _ => b) (.fin false 0 0)
  match big, maxF with
  | .fin _ m e, .fin _ mx ex =>
    if m = 0 then -127
    else
      let e0 : Int := (Nat.log2 m + e) - (Nat.log2 mx + ex)
      let fits (k : Int) : Bool := !fltLt false (.fin false mx (ex + k)) (.fin false m e)
      max (-127) (if fits (e0 - 1) then e0 - 1 else if fits e0 then e0 else e0 + 1)
  | _, _ => -127

/-- Multiply by a power of two. -/
def scale2 (x : FVal) (k : Int) : FVal := match x with | .fin n m e => .fin n m (e + k) | y => y

/-- The value of element `q` under an E8 scale byte (R258), in FP32. -/
def decodeE8 (f : Fmt) (scale : Byte) (q : Nat) : W32 :=
  if scale = 0xFF then BitVec.ofNat 32 f32.qnan
  else BitVec.ofNat 32 (encodeF f32 .rne (scale2 (decodeF f q) ((scale.toNat : Int) - 127))).1

/-! ## The exact accumulator (R262-R264) -/

/-- CLEAR. -/
def exactClear : Exact := { negz := true }

/-- ADD of a term (R263); VALUE is held at weight 2^-298. -/
def exactAdd (a : Exact) (t : FVal) : Exact :=
  let a := { a with terms := satAdd a.terms 1
                    negz := a.negz && (match t with | .fin true 0 _ => true | _ => false) }
  match t with
  | .fin n m e =>
    let k := e + 298
    { a with value := a.value + (if 0 ≤ k then sgn n m * 2 ^ k.toNat else sgn n m / 2 ^ (-k).toNat) }
  | .inf n => if n then { a with ninf := true } else { a with pinf := true }
  | .nan _ s _ => { a with nan := true, snan := a.snan || s }

/-- MERGE (R263). -/
def exactMerge (a b : Exact) : Exact :=
  { value := a.value + b.value, terms := satAdd a.terms b.terms.toNat, nan := a.nan || b.nan, pinf := a.pinf || b.pinf
    ninf := a.ninf || b.ninf, snan := a.snan || b.snan, negz := a.negz && b.negz }

/-- The value that an accumulator holds, and the flags that R264 adds before rounding. -/
def exactVal (a : Exact) : FVal × Nat :=
  if a.nan || (a.pinf && a.ninf) then
    (.nan false false (2 ^ 22), (if a.snan || (a.pinf && a.ninf) then flInvalid else 0) + (if a.nan then flNanIn else 0))
  else if a.pinf then (.inf false, 0)
  else if a.ninf then (.inf true, 0)
  else if a.value = 0 then (.fin (a.negz && decide (0 < a.terms.toNat)) 0 0, 0)
  else (.fin (decide (a.value < 0)) a.value.natAbs (-298), 0)

/-- The SIDE byte (R262). -/
def exactSide (a : Exact) : Nat := ofB a.nan + 2 * ofB a.pinf + 4 * ofB a.ninf + 8 * ofB a.snan + 16 * ofB a.negz

/-- The 40-byte narrow form (R293): VALUE without its low 149 bits. -/
def narrowBytes (a : Exact) : List Byte :=
  leBytes 38 ((a.value / 2 ^ 149) % 2 ^ 304).toNat ++ [BitVec.ofNat 8 (exactSide a), 0]

/-- Widen a 40-byte partial (R293): TERMS is set to 1. -/
def widenNarrow (bs : List Byte) : Exact :=
  let v := fieldNat bs 0 38
  let side := fieldNat bs 38 1
  { value := (if 2 ^ 303 ≤ v then (v : Int) - 2 ^ 304 else (v : Int)) * 2 ^ 149, terms := 1
    nan := side.testBit 0, pinf := side.testBit 1, ninf := side.testBit 2, snan := side.testBit 3, negz := side.testBit 4 }

/-- The 96 bytes of an accumulator (R262). -/
def exactBytes (a : Exact) : List Byte :=
  leBytes 80 (a.value % 2 ^ 640).toNat ++ bvBytes a.terms ++ [BitVec.ofNat 8 (exactSide a)] ++ zeros 7

/-- An accumulator from its 96 bytes (R262). -/
def exactOfBytes (bs : List Byte) : Exact :=
  let v := fieldNat bs 0 80
  let side := fieldNat bs 88 1
  { value := (if 2 ^ 639 ≤ v then (v : Int) - 2 ^ 640 else (v : Int)), terms := BitVec.ofNat 64 (fieldNat bs 80 8)
    nan := side.testBit 0, pinf := side.testBit 1, ninf := side.testBit 2, snan := side.testBit 3, negz := side.testBit 4 }

/-- Round an accumulator under a specifier (R264). -/
def exactRound (spec : BitVec 16) (scaleF : W32) (seed step index : BitVec 64) (a : Exact) : Nat × Nat :=
  let (v, fl) := exactVal a
  match v with
  | .nan _ _ _ => ((fmtOf (specDtype spec)).qnan, fl)
  | _ => let (b, f2) := convertElem spec scaleF seed step index v; (b, fl ||| f2)

end Sys2Proof.Machine
end

