-- ==== Sys2Proof/Machine/MemOps.lean ====
section
/-! DEFINITION. Stacked memory: lines, the combining buffers, poison, and the application of accesses (R195, R211, R212,
R372-R378, R385). Memory holds the plaintext that reads return beside the codeword of the ciphertext in DRAM. A line is named by
its index in the stacked-memory region. -/

namespace Sys2Proof.Machine

open Sys2Proof

/-- The channel of a line, and its line index within the channel (R371). -/
def lineChan (l : Nat) : Nat := channelOf (l * 64)
def lineLocal (l : Nat) : Nat := localOf (l * 64) / 64

/-- The tweak of a line (R374). -/
def memTweak (s : State) (l : Nat) : BitVec 128 :=
  BitVec.ofNat 128 (s.mem.gen.toNat * 2 ^ 96 + lineChan l / 16 * 2 ^ 35 + lineChan l % 16 * 2 ^ 31 + lineLocal l)

/-- 64 free octets: a ciphertext as read, with symbols of it in error (assumption 5). -/
def freeCipher (s : State) : BitVec 512 := BitVec.ofNat 512 (leNat ((List.range 64).map (Config.freeOctet s.freeCount)))

/-- The decoder's finding for a codeword with `n` symbols in error (R375). From 7 on, which of the findings it makes, and of what line, are
free values (assumption 5). -/
def judgeEcc (n : Nat) (s : State) : EccOutcome × State :=
  match rsFinding n with
  | some o => (o, s)
  | none =>
    let cipher := freeCipher s
    let (v, s) := takeFree s
    (match v.toNat % 3 with | 0 => .uncorrectable | 1 => .wrong cipher true | _ => .wrong cipher false, s)

/-- Symbols of lines' codewords go wrong in DRAM: `ecc` says how many of each. -/
def noteErrs (ls ecc : List Nat) (s : State) : State :=
  forEach (ls.zip ecc) (fun x => modMem fun m => { m with errs := tabMod 0 m.errs x.1 (max x.2) }) s

/-! ## Lines in DRAM -/

/-- The 64 bytes of a line in DRAM. -/
def dramLine (m : Mem) (l : Nat) : List Byte := (List.range 64).map fun i => tabGet 0 m.cells (l * 64 + i)

/-- Store bytes from an address up. -/
def cellsPut : List Host.Cell → Nat → List Byte → List Host.Cell
  | c, _, [] => c
  | c, a, b :: bs => cellsPut (tabSet 0 c a b) (a + 1) bs

/-- The codeword of a ciphertext, as a value. -/
def storedWord (cipher : List Byte) (poison : Bool) : BitVec 576 := BitVec.ofNat 576 (leNat (lineCodeword cipher poison))

/-- Write a line to DRAM, poisoned or not: it is encrypted and then encoded (R372). -/
def dramStore (l : Nat) (data : List Byte) (poison : Bool) (s : State) : State :=
  let word := storedWord (xtsEncrypt s.fuses.memKey (memTweak s l) data) poison
  modMem (fun m => { m with
    cells := cellsPut m.cells (l * 64) data
    words := tabSet none m.words l (some word)
    poison := if poison then (if m.poison.contains l then m.poison else m.poison ++ [l]) else m.poison.filter (· ≠ l)
    errs := tabSet 0 m.errs l 0 }) s

/-- The codeword that DRAM holds for a line: what was stored, or that of the zeros of the last scrub (R387). -/
def dramWord (s : State) (l : Nat) : BitVec 576 :=
  (tabGet none s.mem.words l).getD (storedWord (xtsEncrypt s.fuses.memKey (memTweak s l) (zeros 64)) false)

/-! ## Combining buffers (R211, R212) -/

def combFind (c : Channel) (l : Nat) : Option CombEntry := c.comb.find? fun e => decide (e.line = l)

/-- Write an entry back to DRAM (R212); a poisoned entry stores the poison pattern again (R377). -/
def writeBack (e : CombEntry) (s : State) : State :=
  if e.dirty then dramStore e.line (bvBytes e.data) e.poison s else s

/-- Write back every entry of a channel. -/
def drainChannel (c : Nat) (s : State) : State :=
  let l := (chanOf s c).comb
  modChan c (fun ch => { ch with comb := [] }) (forEach l writeBack s)

/-- Place an entry as the most recently used; the least recently used of 32 is evicted for a new line (R212). -/
def combPlace (c : Nat) (e : CombEntry) (s : State) : State :=
  let rest := (chanOf s c).comb.filter fun x => decide (x.line ≠ e.line)
  match rest with
  | [] => modChan c (fun ch => { ch with comb := [e] }) s
  | old :: more =>
    if 32 ≤ rest.length then modChan c (fun ch => { ch with comb := more ++ [e] }) (writeBack old s)
    else modChan c (fun ch => { ch with comb := rest ++ [e] }) s

/-- What a line holds as an access sees it: the entry, or DRAM; and whether it is poisoned. -/
def lineNow (s : State) (l : Nat) : List Byte × Bool :=
  match combFind (chanOf s (lineChan l)) l with
  | some e => (bvBytes e.data, e.poison)
  | none => (dramLine s.mem l, s.mem.poison.contains l)

def lineWord (data : List Byte) : BitVec 512 := BitVec.ofNat 512 (leNat data)

/-- A read finds a correctable error, and `data` in the line (R376). -/
def corrected (l : Nat) (data : List Byte) (s : State) : State :=
  let c := lineChan l
  let s := modChan c (fun ch => { ch with corr := satAdd ch.corr 1 }) s
  combPlace c ⟨l, lineWord data, true, false⟩ (devFault0 0x80 sevInfo c (lineLocal l) s)

/-- A DRAM read of a line: its codeword is decoded, and what is found is handled (R372, R376, R377). A line already poisoned is no new error.
What a wrong codeword without findings holds, DRAM holds from now on (DEDUCED, assumption 63). -/
def eccFound (l : Nat) (byScrub : Bool) (s : State) : State :=
  let c := lineChan l
  if s.mem.poison.contains l then s
  else
    let (o, s) := judgeEcc (tabGet 0 s.mem.errs l) s
    match o with
    | .good => s
    | .wrong cipher false => dramStore l (xtsDecrypt s.fuses.memKey (memTweak s l) (bvBytes cipher)) false s
    | .wrong cipher true => corrected l (xtsDecrypt s.fuses.memKey (memTweak s l) (bvBytes cipher)) s
    | .correctable => corrected l (dramLine s.mem l) s
    | .uncorrectable =>
      let s := modChan c (fun ch => { ch with uncorr := satAdd ch.uncorr 1 }) s
      let word := storedWord (bvBytes (freeCipher s)) true
      let s := modMem (fun m => { m with poison := m.poison ++ [l], words := tabSet none m.words l (some word), errs := tabSet 0 m.errs l 0 })
        { s with freeCount := s.freeCount + 1 }
      let s := if s.mem.errValid then s else modMem (fun m => { m with
        errValid := true, errByScrub := byScrub, errChannel := BitVec.ofNat 9 c, errLine := BitVec.ofNat 25 (lineLocal l) }) s
      devFault0 0x81 sevError c (lineLocal l) s

/-- Read a line for an access: an entry serves it, else DRAM (R211, R212). -/
def lineLoad (l : Nat) (s : State) : (List Byte × Bool) × State :=
  let c := lineChan l
  match combFind (chanOf s c) l with
  | some e => ((bvBytes e.data, e.poison), combPlace c e s)
  | none =>
    let s := eccFound l false s
    (lineNow s l, s)

/-- Write a line through the combining buffer (R212, R378): `f` gives the new bytes. A poisoned line takes only a whole-line
store, which clears the poison. The Bool says that the write was not applied. -/
def lineStore (l : Nat) (whole : Bool) (f : List Byte → List Byte) (s : State) : Bool × State :=
  let c := lineChan l
  let ((data, poison), s) := lineLoad l s
  if poison && !whole then (true, combPlace c ⟨l, lineWord data, ((combFind (chanOf s c) l).map (·.dirty)).getD false, true⟩ s)
  else (false, combPlace c ⟨l, lineWord (f data), true, false⟩ s)

/-! ## Extents -/

/-- The line `l`'s part of the extent of `len` bytes at `off`: where it begins in the line, in the extent, and its length. -/
def linePart (off len l : Nat) : Nat × Nat × Nat :=
  let a := max off (l * 64)
  let b := min (off + len) (l * 64 + 64)
  (a - l * 64, a - off, b - a)

/-- Read an extent line by line; the Bool says that a line was poisoned. -/
def memRead : List Nat → Nat → Nat → State → (List Byte × Bool) × State
  | [], _, _, s => (([], false), s)
  | l :: ls, off, len, s =>
    let ((d, p), s) := lineLoad l s
    let (i, _, n) := linePart off len l
    let ((ds, q), s) := memRead ls off len s
    ((slice d i n ++ ds, p || q), s)

/-- Write an extent line by line (R195): `g` gives the new part of a line from its old part and the data for it. -/
def memWrite : List Nat → Nat → Nat → List Byte → Bool → (List Byte → List Byte → List Byte) → State → Bool × State
  | [], _, _, _, _, _, s => (false, s)
  | l :: ls, off, len, data, isStore, g, s =>
    let (i, k, n) := linePart off len l
    let (p, s) := lineStore l (isStore && decide (n = 64)) (fun old => overlay old i (g (slice old i n) (slice data k n))) s
    let (q, s) := memWrite ls off len data isStore g s
    (p || q, s)

/-- Write a whole line poisoned (R340, R378). -/
def linePoisoned (l : Nat) (data : List Byte) (s : State) : State := combPlace (lineChan l) ⟨l, lineWord data, true, true⟩ s

/-- A POISON answer sets its bit and writes its record (R378). -/
def notePoison (c : Nat) (l : Nat) (s : State) : State := devFault0 0x82 sevWarn c l (setRepro 0 s)

/-- A POISON answer to an access of an extent: the record names the first poisoned line and its channel (R390). -/
def notePoisonIn (ls : List Nat) (s : State) : State :=
  match ls.find? fun l => (lineNow s l).2 with
  | some l => notePoison (lineChan l) (lineLocal l) s
  | none => s

/-- No stacked-memory request is served: a scrub runs (R387), or a thermal trip has parked the stacks (R431). -/
def memClosed (s : State) : Bool := s.mem.tenantBusy || decide (3 ≤ s.pwr.node.toNat)

/-- Reads and writes that units of the module make themselves, as one step (assumption 20). They wake the node (R418). One that is not served
has no data and changes nothing, and its unit takes it as it takes a POISON answer (assumption 72). -/
def dieRead (off len : Nat) (s : State) : (List Byte × Bool) × State :=
  let s := wakeNode s
  if memClosed s then ((zeros len, true), s)
  else
    let (r, s) := memRead (linesOf off len) off len s
    (r, if r.2 then notePoisonIn (linesOf off len) s else s)
def dieWrite (off : Nat) (data : List Byte) (s : State) : Bool × State :=
  let s := wakeNode s
  if memClosed s then (true, s)
  else
    let (p, s) := memWrite (linesOf off data.length) off data.length data true (fun _ new => new) s
    (p, if p then notePoisonIn (linesOf off data.length) s else s)

/-- Peek at bytes as accesses see them, with no effect. -/
def memPeek (s : State) (off len : Nat) : List Byte :=
  (List.range len).map fun i => nth 0 (lineNow s ((off + i) / 64)).1 ((off + i) % 64)

/-! ## Accesses at a channel -/

/-- The element operations of R73 over a part of a line. -/
def reducePart (subop dtype : Byte) (old new : List Byte) : List Byte := elemsOp subop.toNat dtype.toNat old new

/-- An access is well formed for its channel (R72, R73, R79). -/
def accOk (a : MemAcc) : Bool :=
  decide (1 ≤ a.len) && decide (a.len ≤ 256) && oneGranule a.off.toNat a.len && (match a.op with
    | .atomic => atomicOk a.subop a.dtype && decide (a.len = dtypeSize a.dtype) && decide (a.off.toNat % max 1 a.len = 0)
    | .reduce => reduceOk a.subop a.dtype && decide (a.len % max 1 (dtypeSize a.dtype) = 0)
        && decide (a.off.toNat % max 1 (dtypeSize a.dtype) = 0)
    | _ => decide (a.subop = 0) && decide (a.dtype = 0))

def backVary (b : Back) : Bool := match b with | .request _ wb _ => wbVary wb | _ => false

/-- Apply one access at its channel and answer it (R188, R211, R378, R385, R387). -/
def applyAccess (a : MemAcc) (s : State) : State :=
  let off := a.off.toNat
  let ls := linesOf off a.len
  if s.mem.tenantBusy then answer a.back 0x13 none [] s
  else if !accOk a then answer a.back 0x10 none [] s
  else
    let bad (s : State) : State := answer a.back 0x15 none [] (notePoisonIn ls s)
    match a.op with
    | .load =>
      let ((d, p), s) := memRead ls off a.len s
      if p then bad s else answer a.back 0 (some d) [] s
    | .store =>
      let (p, s) := memWrite ls off a.len a.data true (fun _ new => new) s
      let s := forEach a.poison (fun k s => linePoisoned (off / 64 + k) (lineNow s (off / 64 + k)).1 s) s
      if p then bad s else answer a.back 0 none [] s
    | .reduce =>
      let (p, s) := memWrite ls off a.len a.data false (reducePart a.subop a.dtype) s
      if p then bad s else answer a.back 0 none [] (noteVary (backVary a.back) s)
    | .atomic =>
      let ((old, p0), s) := memRead ls off a.len s
      let new := leBytes a.len (elemOp (a.subop &&& 0x7F).toNat a.dtype.toNat (leNat old) (fieldNat a.data 0 a.len) (fieldNat a.data 8 a.len))
      let (p, s) := memWrite ls off a.len new false (fun _ n => n) s
      if p || p0 then bad s
      else answer a.back 0 (if fetches a.subop then some old else none) old (noteVary (backVary a.back) s)

end Sys2Proof.Machine
end

