-- ==== Sys2Proof/Machine/EpOps.lean ====
section
/-! DEFINITION. An end-point block and its controller: messages sent, deliveries, the toll, and direct requests (R46-R51,
R65-R82, R193, R198, R199). -/

namespace Sys2Proof.Machine

open Sys2Proof

/-! ## Messages to the controller -/

/-- Send the A-RSP messages that wait, unless the controller has turned A-RSP off, and free their contexts (R67, R84). -/
def flushRsp (n : Nat) (s : State) : State :=
  if (epOf s n).offRspRx then s
  else
    let l := (epOf s n).rspWait
    let s := modEp n (fun e => { e with rspWait := [] }) s
    forEach l (fun m s => match m.2 with
      | some i => freeCtx (.ep n) i (epSend n m.1 s)
      | none => epSend n m.1 s) s

/-- Answer a controller's request (R71): `ctx` is the context that becomes FREE once the message is sent. -/
def rspToCtl (n : Nat) (ctag : BitVec 24) (status : Byte) (data : List Byte) (ctx : Option Nat) (s : State) : State :=
  let pl := pad32 data
  let m := mkMsg (mkHdr 0xC1 1 (pl.length / 32) [(2, ctag.toNat), (5, status.toNat)]) pl
  flushRsp n (modEp n (fun e => { e with rspWait := e.rspWait ++ [(m, ctx)] }) s)

/-- The bytes of waiting requests in the A-REQ buffer. -/
def aReqBytes (e : Ep) : Nat := (e.aReq.map fun r => 36 + r.msg.payload.length).sum

/-- The bytes of waiting answers in the A-RSP buffer. -/
def aRspBytes (e : Ep) : Nat := (e.aRsp.map fun m => 36 + m.payload.length).sum

/-- The OFF bit of a channel with a buffer of `size` bytes: set below 64 KiB of free buffer, clear above 128 KiB (R67). -/
def offNext (size used : Nat) (off : Bool) : Bool :=
  if off then !decide (0x20000 < size - used) else decide (size - used < 0x10000)

/-- Turn the controller's A-REQ and A-RSP off and on (R67). -/
def flowCheck (n : Nat) (s : State) : State :=
  let e := epOf s n
  let q := offNext s.attachBuf (aReqBytes e) e.offReqTx
  let r := offNext s.attachBuf (aRspBytes e) e.offRspTx
  if q = e.offReqTx ∧ r = e.offRspTx then s
  else epSend n (ctlMsg 0x28 [(2, ofB q + 2 * ofB r)]) (modEp n (fun e => { e with offReqTx := q, offRspTx := r }) s)

/-! ## Steering updates (R78) -/

/-- Updates go out in READY, and in STEERING once READY has been sent. -/
def steerActive (e : Ep) : Bool := decide (e.attach = .ready) || (decide (e.attach = .steering) && e.readySent)

/-- The SEQ of the last update sent. -/
def lastSteer (e : Ep) : BitVec 16 := e.steerSeq - 1

/-- Send one steering message with the next SEQ. -/
def sendSteer (n : Nat) (mk : Nat → AttachMsg) (s : State) : State :=
  let q := (epOf s n).steerSeq
  epSend n (mk q.toNat) (modEp n (fun e => { e with steerSeq := q + 1 }) s)

def winOf (s : State) (n : Nat) (i : BitVec 10) : BitVec 128 := tabGet 0 (epOf s n).win i.toNat
def winValid (w : BitVec 128) : Bool := bitAt w 127
def winClass (w : BitVec 128) : Nat := (bitsOf w 125 2).toNat
def winFnid (w : BitVec 128) : BitVec 12 := bitsOf w 96 12
def winEpoch (w : BitVec 128) : Byte := bitsOf w 108 8
def winSize (w : BitVec 128) : Nat := (bitsOf w 40 40).toNat
def winBase (w : BitVec 128) : Nat := (bitsOf w 0 40).toNat
def winMask (w : BitVec 128) : BitVec 16 := bitsOf w 80 16

/-- STEER_WIN of a window (R77). -/
def steerWinMsg (i : BitVec 10) (w : BitVec 128) (seq : Nat) : AttachMsg :=
  ctlMsg 0x25 [(2, seq), (4, i.toNat), (6, (winEpoch w).toNat), (7, ofB (winValid w)), (8, (winFnid w).toNat), (16, winBase w)]

/-- STEER_MAP with the active plane map (R77). -/
def steerMapMsg (map : BitVec 256) (seq : Nat) : AttachMsg := mkMsg (mkHdr 0x26 2 1 [(2, seq)]) (bvBytes map)

/-- Each block sends the new map when R78 calls for it (R59, R61), and waits for its acknowledgement (R104). -/
def steerMapAll (s : State) : State :=
  forEach (List.range 64) (fun n s =>
    if steerActive (epOf s n) then
      modEp n (fun e => { e with mapWait := some (lastSteer e) }) (sendSteer n (steerMapMsg s.rte.planeMap) s)
    else s) s

/-! ## The toll (R46-R51) -/

/-- The rights that an operation needs (R47), as bits of a window entry. -/
def rightsOf (op : MemOp) (svc : Bool) (subop : Byte) : List Nat :=
  if svc then [122]
  else match op with
    | .load => [121]
    | .store => [122]
    | .atomic => if fetches subop then [123, 121] else [123]
    | .reduce => [124]

/-- The first own-plane line at or after line `l` toward an FNID, within `fuel` lines (R97). -/
def nextOwn (s : State) (fnid : BitVec 12) : Nat → Nat → Option Nat
  | 0, _ => none
  | fuel + 1, l => if planeAt s fnid (l * 64) = planeIdx s then some l else nextOwn s fnid fuel (l + 1)

/-- The line at or after `l` and below `endL` that this plane moves. 128 lines in a row meet every hash value. -/
def ownLine (s : State) (fnid : BitVec 12) (l endL : Nat) : Option Nat :=
  match nextOwn s fnid (min 128 (endL - l)) l with
  | some x => if x < endL then some x else none
  | none => none

/-- Checks 1-5 of R46. `scheduled` says that a descriptor the itinerary schedules makes the request. -/
def tollFirst (s : State) (n : Nat) (w : BitVec 128) (epoch : Byte) (rights : List Nat) (scheduled : Bool) : Byte :=
  if (epOf s n).srcFnid = 0xFFF then 0x8
  else if !winValid w then 0x1
  else if epoch ≠ winEpoch w then 0x2
  else if winClass w = 1 ∧ !scheduled then 0x9
  else if !(rights.all fun b => bitAt w b) then 0x3
  else 0

/-- The stamped offset of R48: base and offset. -/
def stampOff (w : BitVec 128) (off : Nat) : Nat := winBase w * 4096 + off

/-- The toll (R46): the code of the first check that fails, or 0. `whole` is a direct request, whose every line is checked;
a descriptor's lines are those of its own plane (R97), and one that moves nothing has none. -/
def tollCode (s : State) (n : Nat) (w : BitVec 128) (epoch : Byte) (rights : List Nat) (scheduled whole : Bool) (off len : Nat) : Byte :=
  let c := tollFirst s n w epoch rights scheduled
  if c ≠ 0 then c
  else if winSize w * 4096 < off + len then 0x4
  else
    let f := winFnid w
    let a := stampOff w off
    let denied := if whole then (linesOf a len).any fun l => !bitAt (winMask w) (planeAt s f (l * 64))
      else decide (0 < len) && (ownLine s f (a / 64) ((a + len + 63) / 64)).isSome && !bitAt (winMask w) (planeIdx s)
    if denied then 0x5
    else if whole && (linesOf a len).any fun l => decide (planeAt s f (l * 64) ≠ planeIdx s) then 0x6
    else if !partShare s (epOf s n).srcFnid f then 0x7
    else 0

/-- The fabric address that a passing request is stamped with (R48). -/
def stampAddr (w : BitVec 128) (off : Nat) : BitVec 64 := mkAddr (winFnid w) (stampOff w off)

/-- What a failed toll leaves (R49, R51): a TOLL record and TOLL_STAT. -/
def tollFailed (n : Nat) (win : BitVec 10) (code : Byte) (off : Nat) (s : State) : State :=
  let src := (epOf s n).srcFnid
  let s := modEp n (fun e => { e with tollCode := bitsOf code 0 4, tollWin := win, tollFail := satAdd e.tollFail 1 }) s
  epFault n 0x01 sevWarn code win.toNat off src s

/-! ## Direct requests (R79, R85, R193, R198, R199) -/

/-- A FORMAT record (R75, R103): `detail` is the tag of a message or the address of a descriptor. -/
def formatFault (n key detail : Nat) (s : State) : State := epFault n 0x02 sevWarn 0x10 key detail (epOf s n).srcFnid s

/-- The tag that a malformed message leaves in its record: A-REQ and A-RSP messages carry one (R70, R71), A-CTL messages none. -/
def msgDetail (m : AttachMsg) : Nat := if msgChan m = 2 then 0 else (msgTag m).toNat

/-- The operation of a direct request's opcode (R72); none for an unknown one. -/
def reqOp (op : Byte) : Option MemOp :=
  if op = 0x01 then some .load else if op = 0x02 then some .store else if op = 0x03 then some .atomic
  else if op = 0x04 then some .reduce else if op = 0x05 then some .store else none

/-- The reserved fields of an A-REQ header are 0 (R69, R70). -/
def aReqReserved (h : Header) : Bool :=
  decide (bitsOf h 12 2 = 0) && decide (bitsOf h 58 6 = 0) && decide (bitsOf h 116 12 = 0) && decide (bitsOf h 161 95 = 0)

/-- A direct request is well formed (R72, R73, R75, R79). -/
def reqFormatOk (m : AttachMsg) : Bool :=
  let op := msgOpcode m
  let len := msgLength m
  let off := msgOffset m
  let sz := dtypeSize (msgDtype m)
  (reqOp op).isSome && decide (msgChan m = 0) && aReqReserved m.hdr && decide (m.payload.length = 32 * msgPlen m)
    && decide (1 ≤ len) && decide (len ≤ 256)
    && decide (msgPlen m = if op = 0x01 then 0 else if op = 0x03 then 1 else (len + 31) / 32)
    && oneGranule off len
    && (if op = 0x03 then atomicOk (msgSubop m) (msgDtype m) && decide (len = sz) && decide (off % max 1 sz = 0)
        else if op = 0x04 then reduceOk (msgSubop m) (msgDtype m) && decide (len % max 1 sz = 0) && decide (off % max 1 sz = 0)
        else decide (msgSubop m = 0) && decide (msgDtype m = 0))

/-- The toll of a direct request. -/
def tollDirect (s : State) (n : Nat) (m : AttachMsg) : Byte :=
  let op := (reqOp (msgOpcode m)).getD .load
  tollCode s n (winOf s n (msgWindow m)) (msgEpoch m) (rightsOf op (decide (msgOpcode m = 0x05)) (msgSubop m)) false true
    (msgOffset m) (msgLength m)

/-- FLAG takes effect on a STORE, an ATOMIC and a REDUCE (R198). -/
def reqFlagged (m : AttachMsg) : Bool :=
  msgFlag m && (decide (msgOpcode m = 0x02) || decide (msgOpcode m = 0x03) || decide (msgOpcode m = 0x04))

/-- The frame of a direct request (R80). -/
def directFrame (s : State) (n : Nat) (r : DirectReq) : NewFrame :=
  let m := r.msg
  { type := msgOpcode m, src := (epOf s n).srcFnid, addr := r.addr, length := msgLength m, payload := m.payload
    subop := msgSubop m, dtype := msgDtype m, flags := ofB (reqFlagged m), port := n
    owner := .direct (msgTag m) r.ord (msgOpcode m) r.win }

/-- The order number of a context of a direct request. -/
def ctxDirect (c : Ctx) : Option Nat := match c.owner with | .direct _ o _ _ => some o | _ => none

/-- The two conditions of R199 for the request of order number `ord`. -/
def flagMayGo (s : State) (n : Nat) (ord : Nat) : Bool :=
  let e := epOf s n
  (e.rel.ctxs.all fun c => !(ctxOpen c.2 && (match ctxDirect c.2 with | some o => decide (o < ord) | none => false)))
    && (e.aReq.all fun r => decide (ord ≤ r.ord))
    && (e.directSeries.all fun x => !(decide (x.2 < ord) && (tabGet {} e.rel.series x.1).sealing.isSome))

/-- A held flagged request earlier than `r` covers one of its lines (R198). -/
def lineHeld (e : Ep) (r : DirectReq) : Bool :=
  e.aReq.any fun q => q.held && decide (q.ord < r.ord) && sameLine q.addr.toNat (msgLength q.msg) r.addr.toNat (msgLength r.msg)

/-- Two direct requests touch one line. -/
def reqSameLine (q r : DirectReq) : Bool :=
  sameLine q.addr.toNat (msgLength q.msg) r.addr.toNat (msgLength r.msg)

/-- A request received earlier that still waits touches one of `r`'s lines: requests to one line leave in order (R190). -/
def lineBlocked (e : Ep) (r : DirectReq) : Bool := e.aReq.any fun q => decide (q.ord < r.ord) && reqSameLine q r

/-- A direct request to one of `r`'s lines, received earlier, has not been answered (R193). -/
def lineUnanswered (e : Ep) (r : DirectReq) : Bool :=
  lineBlocked e r || (e.refusals.any fun x => decide (x.1.ord < r.ord) && reqSameLine x.1 r)
    || e.rel.ctxs.any fun c => ctxOpen c.2 && (match ctxDirect c.2 with | some o => decide (o < r.ord) | none => false)
        && sameLine (wbAddr c.2.frame.wb).toNat (wbLength c.2.frame.wb) r.addr.toNat (msgLength r.msg)

/-- Send a direct request, and remember its series (R199). -/
def sendDirect (n : Nat) (r : DirectReq) (s : State) : State :=
  let f := directFrame s n r
  let key := seriesKey (addrFnid r.addr) 0
  let s := modEp n (fun e => { e with
    aReq := e.aReq.filter fun q => decide (q.ord ≠ r.ord)
    directSeries := if e.directSeries.any (fun x => decide (x.1 = key)) then e.directSeries else e.directSeries ++ [(key, r.ord)] }) s
  flowCheck n (sendNew (.ep n) f s)

/-- The first waiting direct request that may be sent: requests leave in the order received, a held flagged one and those behind it
to one line apart (R85, R190, R198). -/
def nextDirect (s : State) (n : Nat) : Option DirectReq :=
  let e := epOf s n
  match e.aReq.find? fun r => !r.held && !lineBlocked e r with
  | some r => if canSend s (.ep n) (directFrame s n r) then some r else none
  | none => none

/-- Refuse a direct request with a status (R49, R75). -/
def refuseDirect (n : Nat) (m : AttachMsg) (status : Byte) (s : State) : State := rspToCtl n (msgTag m) status [] none s

/-- What a block does with any message before its meaning: DOWN accepts nothing, a bad CRC is counted and recorded, and a
state that accepts only HELLO discards the rest with a FORMAT record (R66, R76). R76 gives STEERING no list: it takes HELLO, STEER_ACK and
FLOW, and discards the rest in the same way. DEDUCED (assumption 50). `ok` is the meaning. -/
def receive (n : Nat) (m : AttachMsg) (states : List AttachState) (ok : State → State) (s : State) : State :=
  let e := epOf s n
  if e.attach = .down then s
  else if !msgCrcOk m then
    epFault n 0x06 sevWarn 0 0 0 e.srcFnid (modEp n (fun e => { e with crcErr := satAdd e.crcErr 1 }) s)
  else if states.contains e.attach then ok s
  else formatFault n 0xFFFF (msgDetail m) s

/-- A direct request that fails the toll is answered with its code (R49), behind earlier requests to its line (R193). Codes 0x8, 0x1 and
0x2 leave it no line: no entry of its window resolves it. DEDUCED (assumption 50). -/
def refuseTolled (n : Nat) (r : DirectReq) (code : Byte) (s : State) : State :=
  if code ≠ 0x8 ∧ code ≠ 0x1 ∧ code ≠ 0x2 ∧ lineUnanswered (epOf s n) r then
    modEp n (fun e => { e with reqCount := r.ord + 1, refusals := e.refusals ++ [(r, code)] }) s
  else refuseDirect n r.msg code s

/-- A direct request received in READY (R75, R79, R80, R85, R199). One that is malformed has no line and is answered at once, as those are
that no window resolves: DESIGN CHOICE (assumption 50). -/
def recvDirect (n : Nat) (m : AttachMsg) (s : State) : State :=
  if !reqFormatOk m then refuseDirect n m 0x10 (formatFault n 0xFFFF (msgTag m).toNat s)
  else
    let code := tollDirect s n m
    let ord := (epOf s n).reqCount
    let r : DirectReq := { msg := m, addr := stampAddr (winOf s n (msgWindow m)) (msgOffset m), win := msgWindow m
                           ord := ord, held := false }
    if code ≠ 0 then refuseTolled n r code (tollFailed n (msgWindow m) code (msgOffset m) s)
    else
      let s := modEp n (fun e => { e with reqCount := ord + 1 }) s
      if reqFlagged m && !flagMayGo s n ord then
        flowCheck n (modEp n (fun e => { e with aReq := e.aReq ++ [{ r with held := true }] }) s)
      else if ((epOf s n).aReq.all fun q => q.held) && !lineHeld (epOf s n) r && canSend s (.ep n) (directFrame s n r) then
        sendDirect n r s
      else flowCheck n (modEp n (fun e => { e with aReq := e.aReq ++ [r] }) s)

end Sys2Proof.Machine
end

