-- ==== Sys2Proof/Machine/RingOps.lean ====
section
/-! DEFINITION. Manifest rings: descriptors, their pieces, completions, the cairn (R87-R102, R197-R204). -/

namespace Sys2Proof.Machine

open Sys2Proof

/-! ## Descriptor fields (R94) -/

def dField (d : BitVec 512) (off n : Nat) : Nat := d.toNat / 2 ^ (8 * off) % 2 ^ (8 * n)
def dOpcode (d : BitVec 512) : Byte := bitsOf d 0 8
def dFlag (d : BitVec 512) : Bool := bitAt d 8
def dFence (d : BitVec 512) : Bool := bitAt d 9
def dSched (d : BitVec 512) : Bool := bitAt d 10
def dNotify (d : BitVec 512) : Bool := bitAt d 11
def dSubop (d : BitVec 512) : Byte := bitsOf d 16 8
def dDtype (d : BitVec 512) : Byte := bitsOf d 24 8
def dWinA (d : BitVec 512) : BitVec 10 := bitsOf d 32 10
def dEpochA (d : BitVec 512) : Byte := bitsOf d 48 8
def dEpochB (d : BitVec 512) : Byte := bitsOf d 56 8
def dWinB (d : BitVec 512) : BitVec 10 := bitsOf d 64 10
def dLength (d : BitVec 512) : Nat := dField d 12 4
def dOffsetA (d : BitVec 512) : Nat := dField d 16 8
def dAddrB (d : BitVec 512) : Nat := dField d 24 8
def dSlot (d : BitVec 512) : Nat := dField d 48 4

/-- A descriptor that moves data through windows (R95). -/
def dMoves (d : BitVec 512) : Bool := decide (1 ≤ (dOpcode d).toNat) && decide ((dOpcode d).toNat ≤ 5)
def isPut (d : BitVec 512) : Bool := decide (dOpcode d = 1)
def isGet (d : BitVec 512) : Bool := decide (dOpcode d = 2)
def isCopy (d : BitVec 512) : Bool := decide (dOpcode d = 3)
def isAtomic (d : BitVec 512) : Bool := decide (dOpcode d = 4)
def isReduce (d : BitVec 512) : Bool := decide (dOpcode d = 5)
def isKernelStart (d : BitVec 512) : Bool := decide (dOpcode d = 6)
def isCollective (d : BitVec 512) : Bool := decide (dOpcode d = 0x10)
def isService (d : BitVec 512) : Bool := decide (dOpcode d = 0x11)

/-- A cairn point (R200): a KERNEL_START, or a PUT, COPY, ATOMIC or REDUCE with FLAG, by opcode and flags alone. -/
def isPoint (d : BitVec 512) : Bool :=
  isKernelStart d || (dFlag d && (isPut d || isCopy d || isAtomic d || isReduce d))

/-- A descriptor whose FLAG takes effect (R198). -/
def hasFlagLine (d : BitVec 512) : Bool := isPoint d && !isKernelStart d

/-! ## FORMAT checks of R96 for the descriptors of R95 -/

def descFormatOk (s : State) (n : Nat) (d : BitVec 512) : Bool :=
  let op := dOpcode d
  let len := dLength d
  let sz := dtypeSize (dDtype d)
  let a := dAddrB d
  let fa := winFnid (winOf s n (dWinA d))
  let fb := winFnid (winOf s n (dWinB d))
  decide (1 ≤ op.toNat) && decide (op.toNat ≤ 7) && decide (bitsOf d 12 4 = 0) && decide (bitsOf d 42 6 = 0)
    && decide (dField d 10 2 = 0) && decide (dField d 52 12 = 0)
    && (isCopy d || (decide (dEpochB d = 0) && decide (dField d 8 2 = 0))) && decide (bitsOf d 74 6 = 0)
    && decide (dOffsetA d < 2 ^ 52) && decide (a < 2 ^ 52) && decide (dSlot d < if dSched d then 65536 else 1)
    && (if isAtomic d then atomicOk (dSubop d) (dDtype d) && decide (len = sz) && decide (dOffsetA d % max 1 sz = 0)
          && (!fetches (dSubop d) || (decide (a % max 1 sz = 0) && decide (a + sz ≤ 2 ^ 52)))
        else if isReduce d then reduceOk (dSubop d) (dDtype d) && decide (len ≤ 0x4000_0000)
          && decide (len % max 1 sz = 0) && decide (dOffsetA d % max 1 sz = 0) && decide (a % max 1 sz = 0) && decide (a + len ≤ 2 ^ 52)
        else decide (dSubop d = 0) && decide (dDtype d = 0)
          && (if isKernelStart d || decide (op = 7) then decide (len = 0)
              else decide (1 ≤ len) && decide (len ≤ 0x4000_0000) && (isCopy d || decide (a + len ≤ 2 ^ 52))))
    && (!isCopy d || (fnidModule fa && fnidModule fb && decide (bitsOf fa 7 4 = bitsOf fb 7 4)))

/-- The rights that a descriptor needs on WIN_A (R47). A KERNEL_START and a NOP are no operation of R47's and need none. -/
def descRights (d : BitVec 512) : List Nat :=
  if !dMoves d then []
  else if isGet d || isCopy d then [121]
  else if isAtomic d then rightsOf .atomic false (dSubop d)
  else if isReduce d then [124] else [122]

/-! ## Pieces (R97) -/

/-- The address that fixes a descriptor's lines: WIN_B's for a COPY, else WIN_A's. -/
def descTarget (d : Desc) : BitVec 64 := if isCopy d.raw then d.addrB else d.addrA

/-- The offset in the extent at which the flagged line begins (R98): the last line of the extent. An ATOMIC is one frame. -/
def flagStart (d : Desc) : Nat :=
  let a := addrOff (descTarget d)
  if isAtomic d.raw then 0 else (a + dLength d.raw - 1) / 64 * 64 - min a ((a + dLength d.raw - 1) / 64 * 64)

/-- This plane holds the flagged line. An extent of no byte has no last line. -/
def ownsFlagLine (s : State) (d : Desc) : Bool :=
  let a := addrOff (descTarget d)
  decide (0 < dLength d.raw) && decide (planeAt s (addrFnid (descTarget d)) ((a + dLength d.raw - 1) / 64 * 64) = planeIdx s)

/-- How many lines in a row from `l`, at most `k`, are of this plane. -/
def ownRun (s : State) (fnid : BitVec 12) : Nat → Nat → Nat
  | 0, _ => 0
  | k + 1, l => if planeAt s fnid (l * 64) = planeIdx s then 1 + ownRun s fnid k (l + 1) else 0

/-- The next piece at or after `cursor` and below `stop`, and the cursor behind it (R97): own-plane lines in a row within
one granule of the target. -/
def pieceAt (s : State) (d : Desc) (cursor stop : Nat) : Option (Piece × Nat) :=
  let t := descTarget d
  let f := addrFnid t
  let a := addrOff t
  match ownLine s f ((a + cursor) / 64) ((a + stop + 63) / 64) with
  | none => none
  | some l =>
    let start := max (a + cursor) (l * 64)
    let gran := (start / 256 + 1) * 256
    let run := (l + ownRun s f ((gran - l * 64) / 64) l) * 64
    let fin := min (min (a + stop) run) gran
    if fin ≤ start then none
    else some ({ target := mkAddr f start, second := mkAddr (addrFnid d.addrA) (addrOff d.addrA + (start - a))
                 local_ := BitVec.ofNat 64 (dAddrB d.raw + (start - a)), len := fin - start }, fin - a)

/-- The next piece a descriptor may start: its flagged line only once its point is confirmed. -/
def nextPiece (s : State) (d : Desc) (flagOk : Bool) : Option (Piece × Nat) :=
  if !dMoves d.raw then none
  else if hasFlagLine d.raw then
    match (if d.cursor < flagStart d then pieceAt s d d.cursor (flagStart d) else none) with
    | some x => some x
    | none =>
      if flagOk && ownsFlagLine s d && !d.flagSent then
        match pieceAt s d (flagStart d) (dLength d.raw) with
        | some x => some ({ x.1 with flagged := true }, x.2)
        | none => none
      else none
  else pieceAt s d d.cursor (dLength d.raw)

/-! ## Completion (R99, R100) -/

/-- The index of descriptor `i` within a ring. -/
def ringIdx (r : Ring) (i : W32) : Nat := i.toNat % 2 ^ r.logSize.toNat

/-- The payload of a CPL_UPDATE (R100). -/
def cplPayload (s : State) (status : Byte) (bytes : Nat) (index : W32) : List Byte :=
  leBytes 2 (2 ^ planeIdx s) ++ leBytes 2 (if status = 0 then 0 else 2 ^ planeIdx s) ++ [status] ++ zeros 3 ++ leBytes 4 bytes
    ++ bvBytes index

/-- Send the CPL_UPDATE of descriptor `index` (R100). -/
def sendCpl (n r : Nat) (index : W32) (status : Byte) (bytes : Nat) (notify : Bool) (s : State) : State :=
  let g := ringOf s n r
  hostAccess n (.cpl r index notify) 0x48 (g.cqBase.toNat + ringIdx g index * 16) 16 (cplPayload s status bytes index) s

/-- A descriptor finishes on this plane: its slot is freed and its CPL_UPDATE leaves (R100). -/
def finishDesc (n i : Nat) (s : State) : State :=
  match descOf s n i with
  | none => s
  | some d =>
    let s := setDesc n i none s
    let s := modRing n d.ring (fun g => { g with points := g.points.map fun p => if p.slot = some i then { p with slot := none } else p }) s
    sendCpl n d.ring d.index d.status d.bytes (dNotify d.raw) s

/-- The larger status (R96, R99). -/
def maxStatus (a b : Byte) : Byte := if a < b then b else a

/-- Descriptor `a` comes before `b` in index order, modulo 2^32. -/
def idxBefore (a b : W32) : Bool := decide (a ≠ b) && decide ((b - a).toNat < 2 ^ 31)

/-- The point that a descriptor in slot `i` forms. -/
def pointOf (g : Ring) (i : Nat) : Option CairnPoint := g.points.find? fun p => decide (p.slot = some i)

/-- Every earlier descriptor of the ring has completed on this plane (R98 FENCE, R102). -/
def earlierDone (s : State) (n r : Nat) (index : W32) : Bool :=
  (epOf s n).descs.all fun e => match e.2 with
    | some d => !(decide (d.ring = r) && idxBefore d.index index)
    | none => true

/-- All frames of a descriptor have been issued and their contexts are DONE, the flagged line's apart when `butFlag`. -/
def framesDone (s : State) (d : Desc) (butFlag : Bool) : Bool :=
  (nextPiece s d (!butFlag)).isNone && decide (d.reading = 0) && d.ready.isEmpty && decide (d.inflight = 0)

/-- A data descriptor is complete on this plane. -/
def descComplete (s : State) (n : Nat) (i : Nat) (d : Desc) : Bool :=
  let p := pointOf (ringOf s n d.ring) i
  framesDone s d false && decide (d.writing = 0)
    && (match p with
        | none => true
        | some p => if p.ownsFlag then d.flagSent else p.answered || p.confirmed)

/-- Every earlier descriptor of the ring has started: they start in index order (R98). One held for its itinerary slot has had its
turn, since R231 gives held descriptors an order of their own. DEDUCED (assumption 51). -/
def earlierStarted (s : State) (n r : Nat) (index : W32) : Bool :=
  (epOf s n).descs.all fun e => match e.2 with
    | some d => !(decide (d.ring = r) && idxBefore d.index index) || d.started
    | none => true

/-- A descriptor's turn to start has come: those before it have started, and its FENCE is met (R98). -/
def mayStartDesc (s : State) (n : Nat) (d : Desc) : Bool :=
  earlierStarted s n d.ring d.index && (!dFence d.raw || earlierDone s n d.ring d.index)

/-- A descriptor that has started and is not held for its itinerary slot (R98). -/
def mayEnd (d : Desc) : Bool := d.started && decide (d.sched ≠ .held)

/-- May a descriptor start frames: it may end, and its entry has not ended (R231). -/
def mayMove (d : Desc) : Bool := mayEnd d && decide (d.sched ≠ .ended)

/-! ## Host accesses of descriptors -/

/-- Bytes from `addr` to the end of its 256-byte granule, at most `len` (R79). -/
def granPart (addr len : Nat) : Nat := min len (256 - addr % 256)

/-- Read the local source of a piece: the next access, cut at granules (R79, R97). -/
def readSource (n i : Nat) (p : Piece) (got : List Byte) (s : State) : State :=
  let a := p.local_.toNat + got.length
  hostAccess n (.source i p got) 0x41 a (granPart a (p.len - got.length)) [] s

/-- Write local results, cut at granules; each access is counted in `writing` (R97). -/
def writeResult (n i : Nat) (addr : Nat) : Nat → List Byte → State → State
  | 0, _, s => s
  | fuel + 1, data, s =>
    if data.isEmpty then s
    else
      let k := granPart addr data.length
      let s := modDesc n i (fun d => { d with writing := d.writing + 1 }) s
      let s := hostAccess n (.result i k) 0x42 addr k (data.take k) s
      writeResult n i (addr + k) fuel (data.drop k) s

/-! ## Accesses that outlive their descriptor -/

/-- An access of descriptor slot `i`'s own. -/
def servesDescSlot (i : Nat) (u : DlvUse) : Bool :=
  match u with
  | .host (.source j _ _) | .host (.result j _) | .host (.callRead j _ _) | .host (.callWrite j) => decide (j = i)
  | _ => false

/-- The accesses of descriptor slot `i` serve it no more; a timeout still halts their ring (R82). -/
def orphanHost (n i : Nat) (s : State) : State :=
  let orphan (d : Delivery) : Delivery := if servesDescSlot i d.use then { d with use := .host .gone } else d
  modEp n (fun e => { e with
    dlvQueue := e.dlvQueue.map orphan
    dlvSlots := e.dlvSlots.map fun x => (x.1, { x.2 with busy := x.2.busy.map orphan }) }) s

/-! ## Driving a descriptor -/

/-- A descriptor reads its source from the accelerator's memory (R95). -/
def needsSource (d : BitVec 512) : Bool := isPut d || isReduce d

/-- Let a data descriptor, a KERNEL_START or a NOP start when its turn has come. -/
def tryStart (n i : Nat) (s : State) : State :=
  match descOf s n i with
  | none => s
  | some d =>
    if d.started || isCollective d.raw || isService d.raw || !mayStartDesc s n d then s
    else modDesc n i (fun d => { d with started := true }) s

/-- Start reading or queue the next pieces of a descriptor, at most 8 at a time; `fuel` bounds them. A PUT's or a REDUCE's data transfer has
begun once the block asks for its first source data, as R44 does not define: DESIGN CHOICE (assumption 39). -/
def startPieces (n i : Nat) : Nat → State → State
  | 0, s => s
  | fuel + 1, s =>
    match descOf s n i with
    | none => s
    | some d =>
      let flagOk := match pointOf (ringOf s n d.ring) i with | some p => p.confirmed | none => false
      if !mayMove d ∨ 8 ≤ d.reading + d.ready.length then s
      else match nextPiece s d flagOk with
        | none => s
        | some (p, c) =>
          let s := modDesc n i (fun d => { d with cursor := c, flagSent := d.flagSent || p.flagged }) s
          let s := if needsSource d.raw then
              readSource n i p [] (modDesc n i (fun d => { d with reading := d.reading + 1, sources := d.sources ++ [p], begun := true }) s)
            else modDesc n i (fun d => { d with ready := d.ready ++ [(p, [])] }) s
          startPieces n i fuel s

/-- Nothing is left of a descriptor on this plane: a NOP has nothing, and a KERNEL_START waits for its point (R95, R102). -/
def nothingLeft (s : State) (n i : Nat) (d : Desc) : Bool :=
  if dMoves d.raw then descComplete s n i d
  else if isKernelStart d.raw then (match pointOf (ringOf s n d.ring) i with | some p => p.confirmed | none => true)
  else decide (dOpcode d.raw = 7)

/-- Complete a descriptor of which nothing is left. -/
def checkDesc (n i : Nat) (s : State) : State :=
  match descOf s n i with
  | none => s
  | some d => if mayEnd d && nothingLeft s n i d then finishDesc n i s else s

/-- Move each descriptor of the block on as far as it can go without a context: start, read, and complete what is done. -/
def ringPass (n : Nat) (s : State) : State :=
  forEach ((epOf s n).descs.map fun e => e.1) (fun i s => checkDesc n i (startPieces n i 8 (tryStart n i s))) s

def ringPasses (n : Nat) : Nat → State → State
  | 0, s => s
  | fuel + 1, s => ringPasses n fuel (ringPass n s)

/-- Pass over the descriptors until none can follow from another's start or completion: each pass settles one at least. -/
def ringWork (n : Nat) (s : State) : State := ringPasses n ((epOf s n).descs.length + 1) s

/-- A COPY still loads this piece from WIN_A. -/
def copyLoads (d : Desc) (p : Piece) (data : List Byte) : Bool := isCopy d.raw && decide (data.length < p.len)

/-- The frame of a ready piece: a COPY first loads from WIN_A, one frame for each granule of its source, and its data comes back as a
store piece (R79, R95, R97). -/
def pieceFrame (s : State) (n i : Nat) (d : Desc) (p : Piece) (data : List Byte) : NewFrame :=
  let copying := copyLoads d p data
  let loads := isGet d.raw || copying
  let src := p.second + BitVec.ofNat 64 data.length
  { type := if loads then 0x01 else if isAtomic d.raw then 0x03 else if isReduce d.raw then 0x04
      else if d.schedPut then 0x20 else 0x02
    src := (epOf s n).srcFnid
    addr := if copying then src else p.target
    length := if copying then granPart src.toNat (p.len - data.length) else p.len
    payload := if loads then [] else if isAtomic d.raw then
        pad32 (leBytes 8 (dField d.raw 32 8) ++ (if dSubop d.raw &&& 0x7F = 7 then leBytes 8 (dField d.raw 40 8) else zeros 8))
      else pad32 data
    subop := if isAtomic d.raw || isReduce d.raw then dSubop d.raw else 0
    dtype := if isAtomic d.raw || isReduce d.raw then dDtype d.raw else 0
    flags := ofB (p.flagged && !loads)
    port := n
    owner := .desc i { p with got := if copying then data else [] } (isCopy d.raw && !copying) }

/-! ## Order to one line (R190, R192, R197, R198) -/

/-- The accesses of a descriptor that its block has not sent yet, as (address, length): what is not cut, the pieces that are read or
ready, and of a COPY whose loads are under way the loads that follow and the stores. -/
def unsentOf (s : State) (n i : Nat) (d : Desc) : List (Nat × Nat) :=
  let tgt (p : Piece) : Nat × Nat := (p.target.toNat, p.len)
  let left := dLength d.raw - d.cursor
  let cut := (d.sources.map tgt) ++ (d.ready.flatMap fun x =>
    tgt x.1 :: (if copyLoads d x.1 x.2 then [((x.1.second + BitVec.ofNat 64 x.2.length).toNat, x.1.len - x.2.length)] else []))
  let copying := if isCopy d.raw then (epOf s n).rel.ctxs.flatMap fun c => match c.2.owner with
      | .desc j p false =>
        let got := p.got.length + wbLength c.2.frame.wb
        if ctxOpen c.2 && decide (j = i) then [tgt p, ((p.second + BitVec.ofNat 64 got).toNat, p.len - got)] else []
      | _ => []
    else []
  ((descTarget d).toNat + d.cursor, left) :: ((if isCopy d.raw then [(d.addrA.toNat + d.cursor, left)] else []) ++ cut ++ copying)

/-- A REQ frame of descriptor `d` waits for an earlier descriptor of its ring that has yet to access one of its lines. SCHED frames keep
no order (R192). -/
def lineWaits (s : State) (n : Nat) (d : Desc) (f : NewFrame) : Bool :=
  decide (newKind f = 0) && (epOf s n).descs.any fun e => match e.2 with
    | some x => decide (x.ring = d.ring) && idxBefore x.index d.index && dMoves x.raw && !x.schedPut
        && (unsentOf s n e.1 x).any fun u => sameLine u.1 u.2 f.addr.toNat f.length
    | none => false

/-- A piece with data goes into the list of the ready ones in ascending address order (R97). -/
def insertPiece (x : Piece × List Byte) : List (Piece × List Byte) → List (Piece × List Byte)
  | [] => [x]
  | y :: l => if x.1.target.toNat < y.1.target.toNat then x :: y :: l else y :: insertPiece x l

/-- The data of an earlier piece of the descriptor is still being read, or loaded (R97). -/
def pieceBehind (s : State) (n i : Nat) (d : Desc) (p : Piece) : Bool :=
  (d.sources.any fun q => decide (q.target.toNat < p.target.toNat))
    || (isCopy d.raw && (epOf s n).rel.ctxs.any fun c => match c.2.owner with
        | .desc j q false => ctxOpen c.2 && decide (j = i) && decide (q.target.toNat < p.target.toNat)
        | _ => false)

/-- The first ready piece of a descriptor that may be sent now. -/
def descNext (s : State) (n i : Nat) : Option (Desc × Piece × List Byte) :=
  match descOf s n i with
  | none => none
  | some d =>
    if !mayMove d then none
    else match d.ready with
      | [] => none
      | (p, data) :: _ =>
        let f := pieceFrame s n i d p data
        if canSend s (.ep n) f && !lineWaits s n d f && (copyLoads d p data || !pieceBehind s n i d p) then some (d, p, data) else none

/-- Send the first ready piece of descriptor `i` (R85). -/
def sendPiece (n i : Nat) (d : Desc) (p : Piece) (data : List Byte) (s : State) : State :=
  let f := pieceFrame s n i d p data
  let key := seriesKey (addrFnid f.addr) (newKind f)
  let s := modDesc n i (fun d => { d with ready := d.ready.drop 1, inflight := d.inflight + 1, begun := true }) s
  let s := modRing n d.ring (fun g => { g with
    usedSeries := if g.usedSeries.any (fun x => decide (x.1 = key)) then g.usedSeries else g.usedSeries ++ [(key, d.covers)] }) s
  ringWork n (sendNew (.ep n) f s)

/-! ## Ring states (R88, R91) -/

/-- A ring enters HALTED; one already HALTED keeps its first cause. A fetch that is out stays so until it is answered or times out. -/
def haltRing (n r cause : Nat) (s : State) : State :=
  if (ringOf s n r).state = .active then
    modRing n r (fun g => { g with state := .halted, cause := BitVec.ofNat 3 cause, cqStall := false }) s
  else s

/-- The code of a ring state (R93). -/
def ringCode (x : RingState) : Nat := match x with | .disabled => 0 | .active => 1 | .halted => 2

/-- RING_ACK (R77). -/
def ringAck (n ring result : Nat) (s : State) : State :=
  let st := if ring < 64 then ringCode (ringOf s n ring).state else 0
  epSend n (ctlMsg 0x24 [(2, ring), (3, result), (4, st)]) s

/-- No fetched descriptor of the ring is left, and none is being fetched: one that is counts as fetched. DEDUCED (assumption 51). -/
def ringQuiet (s : State) (n r : Nat) : Bool :=
  !(ringOf s n r).fetching && (epOf s n).descs.all fun e => match e.2 with | some d => decide (d.ring ≠ r) | none => true

/-- A ring as RING_CFG enable or reset leaves it (R88, R91, R200): ACTIVE, the indices and the cairn count 0. -/
def freshRing (h : Header) : Ring :=
  { state := .active, logSize := BitVec.ofNat 5 (hdrField h 4 1), planeSet := bitsOf h 48 16, sqBase := bitsOf h 64 64, cqBase := bitsOf h 128 64 }

/-- What a reset or a disable leaves of a ring (R88, R91). A reset takes the bases of its message; a disable keeps the indices. -/
def closedRing (isReset : Bool) (g : Ring) : Ring :=
  let x := if isReset then freshRing g.closeMsg
    else { logSize := g.logSize, planeSet := g.planeSet, sqBase := g.sqBase, cqBase := g.cqBase, head := g.head, tail := g.tail, cqHead := g.cqHead }
  match g.closeNext with
  | [] => x
  | (b, h) :: rest => { x with closing := some b, closeMsg := h, closeNext := rest }

/-- The resets and disables that wait take effect one after another once the ring is quiet, and a RING_ACK follows each (R88). -/
def closeRingN (n r : Nat) : Nat → State → State
  | 0, s => s
  | fuel + 1, s =>
    match (ringOf s n r).closing with
    | none => s
    | some isReset =>
      if !ringQuiet s n r then s
      else closeRingN n r fuel (ringAck n r 0 (modRing n r (closedRing isReset) s))

def closeRing (n r : Nat) (s : State) : State := closeRingN n r ((ringOf s n r).closeNext.length + 1) s

/-! ## The cairn (R200-R204) -/

/-- The address of the cairn line (R201). -/
def cairnAddr (g : Ring) : Nat := g.cqBase.toNat + 2 ^ g.logSize.toNat * 16

/-- A ring whose PLANE_SET names only this plane has no exchange (R202). -/
def soloRing (s : State) (g : Ring) : Bool := decide (g.planeSet = BitVec.ofNat 16 (2 ^ planeIdx s))

/-- ERR of a report of this point (R204): a write that it, or an earlier report, covers ended in TIMEOUT or REMOTE. -/
def pointErr (g : Ring) (p : CairnPoint) : Bool := g.failed.any fun f => decide (f ≤ p.num)

/-- The conditions of R202 for the next point. -/
def mayReport (s : State) (n r : Nat) (p : CairnPoint) : Bool :=
  let g := ringOf s n r
  decide (g.reportedTo + 1 = p.num)
    && ((epOf s n).descs.all fun e => match e.2 with
        | some d => !(decide (d.ring = r) && decide (d.covers ≤ p.num) && decide (p.slot ≠ some e.1) && dMoves d.raw) || framesDone s d false
        | none => true)
    && (!p.kernelStart || earlierDone s n r p.index)
    && (match p.slot with
        | some i => (match descOf s n i with | some d => p.kernelStart || framesDone s d true | none => true)
        | none => true)
    && (g.usedSeries.all fun x => !(decide (x.2 ≤ p.num) && (tabGet {} (epOf s n).rel.series x.1).sealing.isSome))

def modPoint (n r k : Nat) (f : CairnPoint → CairnPoint) (s : State) : State :=
  modRing n r (fun g => { g with points := g.points.map fun p => if p.num = k then f p else p }) s

/-- Forget the points that nothing waits on any more. -/
def prunePoints (n r : Nat) (s : State) : State :=
  modRing n r (fun g => { g with points := g.points.filter fun p => !(p.reported && p.slot.isNone) }) s

/-- The flagged line of a descriptor is withheld: it completes with STATUS 0x12 on this plane (R204). A line that is not sent is itself no
write that ended in TIMEOUT, and sets no ERR: DESIGN CHOICE (assumption 71). -/
def withholdFlag (n i : Nat) (s : State) : State :=
  let s := modEp n (fun e => { e with rel := { e.rel with flagWithheld := satAdd e.rel.flagWithheld 1 } }) s
  finishDesc n i (modDesc n i (fun d => { d with status := 0x12 }) s)

/-- A point is confirmed (R203): a KERNEL_START completes, a flagged line may be sent. -/
def confirmPoint (n r : Nat) (p : CairnPoint) (s : State) : State :=
  ringWork n (modPoint n r p.num (fun p => { p with confirmed := true }) s)

/-- A point of a ring without exchange counts as confirmed when it would have been reported (R202), and a flagged line is
withheld when the report would carry ERR (R204). -/
def soloPoint (n r : Nat) (p : CairnPoint) (s : State) : State :=
  let g := ringOf s n r
  let s := modRing n r (fun g => { g with reportedTo := p.num }) s
  let s := modPoint n r p.num (fun p => { p with reported := true, answered := true }) s
  match p.slot with
  | some i => if !p.kernelStart && p.ownsFlag && pointErr g p then withholdFlag n i s else confirmPoint n r p s
  | none => s

/-- Report a point (R202): write DONE[p] by a 4-byte DLV_STORE. -/
def reportPoint (n r : Nat) (p : CairnPoint) (s : State) : State :=
  let g := ringOf s n r
  let word := p.num % 2 ^ 31 + ofB (pointErr g p) * 2 ^ 31
  let s := modRing n r (fun g => { g with reportedTo := p.num }) s
  let s := modPoint n r p.num (fun p => { p with reported := true }) s
  hostAccess n (.cairnWrite r p.num) 0x42 (cairnAddr g + 4 * planeIdx s) 4 (leBytes 4 word) s

/-- Whether a point waits for confirmation: a KERNEL_START, or a flagged line that this plane holds (R203). -/
def pointWaits (p : CairnPoint) : Bool := p.slot.isSome && p.reported && !p.confirmed && (p.kernelStart || p.ownsFlag)

/-- The report of a point has been answered. -/
def reportAnswered (n r k : Nat) (ok : Bool) (s : State) : State :=
  let s := modPoint n r k (fun p => { p with answered := true }) s
  match (ringOf s n r).points.find? fun p => decide (p.num = k) with
  | none => s
  | some p => match p.slot with
    | none => prunePoints n r s
    | some i =>
      if p.kernelStart then s
      else if p.ownsFlag then
        if !ok || pointErr (ringOf s n r) p then prunePoints n r (withholdFlag n i s) else s
      else prunePoints n r (ringWork n s)

/-- One word of a cairn line (R201). -/
def cairnWord (line : List Byte) (q : Nat) : Nat := fieldNat line (4 * q) 4

/-- What a read of the cairn line decides for one waiting point (R203, R204). -/
def judgePoint (n r : Nat) (line : List Byte) (p : CairnPoint) (s : State) : State :=
  let planes := setBits (ringOf s n r).planeSet
  let err := planes.any fun q => decide (2 ^ 31 ≤ cairnWord line q)
  let ok := planes.all fun q => decide ((cairnWord line q % 2 ^ 31 + 2 ^ 31 - p.num % 2 ^ 31) % 2 ^ 31 < 2 ^ 30)
  match p.slot with
  | none => s
  | some i =>
    if !p.kernelStart && err then withholdFlag n i s
    else if ok then confirmPoint n r p s else s

/-- The answer to a read of the cairn line. -/
def cairnRead (n r : Nat) (ok : Bool) (line : List Byte) (s : State) : State :=
  let waiting := (ringOf s n r).points.filter fun p => pointWaits p && p.answered
  let s := modRing n r (fun g => { g with points := g.points.map fun p => { p with reading := false } }) s
  let s := if ok then forEach waiting (judgePoint n r line) s
    else forEach waiting (fun p s => match p.slot with
      | some i => if p.kernelStart then s else withholdFlag n i s
      | none => s) s
  prunePoints n r s

end Sys2Proof.Machine
end

