-- ==== Sys2Proof/Machine/ColOps.lean ====
section
/-! DEFINITION. Collectives: groups, instances, chunks, arithmetic, delivery and abort (R276-R301, R339). -/

namespace Sys2Proof.Machine

open Sys2Proof

/-! ## The COLLECTIVE descriptor (R280, R281) -/

def cOp (d : BitVec 512) : Nat := dField d 2 1
def cDtype (d : BitVec 512) : Nat := dField d 3 1
def cEpoch (d : BitVec 512) : Nat := dField d 7 1
def cColId (d : BitVec 512) : Nat := dField d 8 2
def cGroup (d : BitVec 512) : Nat := dField d 10 2 % 4096
def cLength (d : BitVec 512) : Nat := dField d 12 4
def cSend (d : BitVec 512) : Nat := dField d 16 8
def cRecv (d : BitVec 512) : Nat := dField d 24 8
def cTally (d : BitVec 512) : Nat := dField d 32 2
def cSpec (d : BitVec 512) : BitVec 16 := bitsOf d 272 16
def cScale (d : BitVec 512) : W32 := bitsOf d 288 32
def cSeed (d : BitVec 512) : BitVec 64 := bitsOf d 320 64
def cRedop (d : BitVec 512) : Nat := dField d 48 1
def cMode (d : BitVec 512) : Nat := dField d 49 1 % 4
def cRoot (d : BitVec 512) : Nat := dField d 50 2

/-- ALL_REDUCE, REDUCE_SCATTER and REDUCE (R281). -/
def opReduces (op : Nat) : Bool := decide (op = 1) || decide (op = 2) || decide (op = 5)
/-- The modes of R265. -/
def modeFast : Nat := 0
def modeTree : Nat := 1
def modeExact : Nat := 2
/-- EXACT accumulation is in use: a floating-point ADD in EXACT mode (R265, R292). -/
def usesExact (mode redop dtype : Nat) : Bool := decide (mode = 2) && decide (redop = 0) && decide (4 ≤ dtype)

/-- The chunk size C of R283. -/
def chunkSize (mode : Nat) : Nat := if mode = modeExact then 128 else 256

/-- The output type (R281). -/
def outType (spec : BitVec 16) (dtype : Nat) : Nat := if spec = 0 then dtype else specDtype spec

/-- The size in bytes of the chunk space (R283). -/
def chunkSpace (d : BitVec 512) (g : Nat) : Nat :=
  if cOp d = 3 then g * cLength d else if cOp d = 6 then g * g * cLength d else cLength d

/-- The number of chunks of the chunk space: one empty chunk for BARRIER. -/
def chunkCount (d : BitVec 512) (g : Nat) : Nat :=
  if cOp d = 7 then 1 else (chunkSpace d g + chunkSize (cMode d) - 1) / chunkSize (cMode d)

/-! ## Groups and members (R276, R277) -/

def grpOf (s : State) (g : Nat) : BitVec 64 := tabGet 0 s.col.groups g
def grpValid (e : BitVec 64) : Bool := bitAt e 63
def grpSize (e : BitVec 64) : Nat := (bitsOf e 48 12).toNat + 1
def grpBase (e : BitVec 64) : Nat := (bitsOf e 32 16).toNat
def grpSpines (e : BitVec 64) : BitVec 32 := bitsOf e 0 32

/-- The member entry of rank `r`, its FNID and its SUB. -/
def memberOf (s : State) (e : BitVec 64) (r : Nat) : BitVec 16 := tabGet 0 s.col.members (grpBase e + r)
def memFnid (m : BitVec 16) : BitVec 12 := bitsOf m 0 12
def memSub (m : BitVec 16) : Nat := (bitsOf m 12 4).toNat

/-- RTE_DEST (R163). -/
def destOf (s : State) (f : BitVec 12) : W32 := tabGet 0 s.rte.dest f.toNat
def destValid (w : W32) : Bool := bitAt w 31
def destLeaf (w : W32) : Nat := (bitsOf w 16 6).toNat
def destPort (w : W32) : Nat := (bitsOf w 0 6).toNat

/-- The leaf slot that holds a member: its FNID's slot for an array group, else the LEAF of its RTE_DEST entry. -/
def memberLeaf (s : State) (m : BitVec 16) : Option Nat :=
  if memSub m = 0 then (if destValid (destOf s (memFnid m)) then some (destLeaf (destOf s (memFnid m))) else none)
  else some (bitsOf (memFnid m) 0 7).toNat

/-- A member is local to this leaf or single-stage module. -/
def memberLocal (s : State) (m : BitVec 16) : Bool :=
  if memSub m = 0 then destValid (destOf s (memFnid m)) && (singleStage s || decide (destLeaf (destOf s (memFnid m)) = mySlot s))
  else decide (memFnid m = myFnid s)

/-- The local members that a committed group derives (R278): the ranks, ascending, each with its external port, or 64 for an array
group. -/
def deriveLocal (s : State) (g : BitVec 64) : List (Nat × Nat) :=
  ((List.range (grpSize g)).filter fun r => memberLocal s (memberOf s g r)).map fun r =>
    (r, if memSub (memberOf s g r) = 0 then destPort (destOf s (memFnid (memberOf s g r))) else 64)

/-- The leaf slots that hold members of a group that commits. -/
def deriveLeaves (s : State) (g : BitVec 64) : List Nat :=
  (List.range (leavesM1 s + 1)).filter fun l => (List.range (grpSize g)).any fun r => decide (memberLeaf s (memberOf s g r) = some l)

/-- The mask entry that a committed group derives (R278). -/
def grpMaskOf (s : State) (g : BitVec 64) : BitVec 64 :=
  if isSpine s then ofBits 64 (deriveLeaves s g) else ofBits 64 ((deriveLocal s g).map (·.2))

/-- The ranks of group `g` local to this module, and its member leaves, as its WRITE derived them (R278). -/
def localRanks (s : State) (g : Nat) : List Nat := (tabGet [] s.col.grpLocal g).map (·.1)
def memberLeaves (s : State) (g : Nat) : List Nat := tabGet [] s.col.grpLeaves g

/-- The external port of a local rank; 64 for none. -/
def rankPort (s : State) (g r : Nat) : Nat := (((tabGet [] s.col.grpLocal g).find? fun x => decide (x.1 = r)).map (·.2)).getD 64

/-! ## Instances and chunks (R283, R284, R288) -/

/-- How many of the first `n` chunks belong to a plane. -/
def planeChunks (map : BitVec 256) (plane n : Nat) : Nat :=
  let own := (List.range 64).filter fun i => decide ((bitsOf map (4 * i) 4).toNat = plane)
  n / 64 * own.length + (own.filter fun i => decide (i < n % 64)).length

/-- The chunk-space index of ordinal `j` of a plane. -/
def chunkOfOrdinal (map : BitVec 256) (plane j : Nat) : Nat :=
  let own := (List.range 64).filter fun i => decide ((bitsOf map (4 * i) 4).toNat = plane)
  j / max 1 own.length * 64 + own.getD (j % max 1 own.length) 0

/-- The ordinal of chunk `k` on its plane. -/
def ordinalOfChunk (map : BitVec 256) (plane k : Nat) : Nat := planeChunks map plane k

def colSlotOf (id : Nat) : Nat := id % 2048

/-- Epoch `e` is newer than `b` (R284). -/
def epochNewer (e b : BitVec 8) : Bool := decide (1 ≤ (e - b).toNat) && decide ((e - b).toNat ≤ 127)

/-- The slot holds the instance. -/
def slotHolds (x : ColSlot) (id : Nat) (epoch : BitVec 8) : Bool :=
  decide (x.state ≠ .free) && decide (x.colId.toNat = id) && decide (x.epoch = epoch)

/-- The number of chunks of the plane, from the first descriptor bound (R284). -/
def slotCount (s : State) (x : ColSlot) : Option Nat :=
  x.first.map fun d => planeChunks x.map (planeIdx s) (chunkCount d (grpSize (grpOf s (cGroup d))))

def chunkAt (x : ColSlot) (j : Nat) : Option Chunk := x.chunks.find? fun c => decide (c.ordinal = j)
def modChunk (k j : Nat) (f : Chunk → Chunk) (s : State) : State :=
  modSlot k (fun x => { x with chunks := x.chunks.map fun c => if c.ordinal = j then f c else c }) s

/-- The root spine of ordinal `j` (R288). -/
def rootSpine (g : BitVec 64) (id j : Nat) : Nat :=
  let bits := setBits (grpSpines g)
  bits.getD ((id + j) % max 1 bits.length) 0

/-- The FNID of a spine of this plane (R28). -/
def spineFnid (s : State) (i : Nat) : BitVec 12 := slotFnid s (leavesM1 s + 1 + i)

/-- The node port of the home buffer of ordinal `j` of slot `k` (R286). -/
def homePort (k j : Nat) : Nat :=
  let n := k * 6 + j % 6
  64 + 2 * (n % 24) + (n / 24 % 16) % 2

/-- The ranks that contribute to chunk `c` (R287 step 1). -/
def contributors (d : BitVec 512) (g k : Nat) : List Nat :=
  if opReduces (cOp d) ∨ cOp d = 7 then List.range g
  else if cOp d = 3 then [k * chunkSize (cMode d) / max 1 (cLength d)]
  else if cOp d = 4 then [cRoot d]
  else if cOp d = 6 then [k * chunkSize (cMode d) % max 1 (g * cLength d) / max 1 (cLength d)]
  else []

/-- The ranks that receive chunk `k` (R287 step 4). -/
def receivers (d : BitVec 512) (g k : Nat) : List Nat :=
  if cOp d = 2 then [k * chunkSize (cMode d) / max 1 (cLength d / g)]
  else if cOp d = 5 then [cRoot d]
  else if cOp d = 6 then [k * chunkSize (cMode d) / max 1 (g * cLength d)]
  else List.range g

/-- DOWN is unicast to one rank (R287). -/
def downUnicast (op : Nat) : Bool := decide (op = 2) || decide (op = 5)

/-- The bytes of chunk `k` in the chunk space. -/
def chunkLen (d : BitVec 512) (g k : Nat) : Nat :=
  if cOp d = 7 then 0 else min (chunkSize (cMode d)) (chunkSpace d g - k * chunkSize (cMode d))

/-- Where a member reads its part of chunk `k` (R281): its own chunk of the send buffer. -/
def sendOff (d : BitVec 512) (g k : Nat) : Nat :=
  let a := k * chunkSize (cMode d)
  if cOp d = 3 then a % max 1 (cLength d)
  else if cOp d = 6 then a / max 1 (g * cLength d) * cLength d + a % max 1 (cLength d)
  else a

/-- Where rank `r` writes chunk `k` (R295): scaled to the output type, its segment's start taken off for REDUCE_SCATTER. -/
def recvOff (d : BitVec 512) (g r k : Nat) : Nat :=
  let a := k * chunkSize (cMode d)
  let a := if cOp d = 2 then a - r * (cLength d / g) else if cOp d = 6 then a % max 1 (g * cLength d) else a
  a / max 1 (elemSize (cDtype d)) * elemSize (outType (cSpec d) (cDtype d))

/-! ## Arithmetic (R292-R294) -/

/-- Widen the elements of a contribution to FP32 (R251). -/
def widen32 (dtype : Nat) (bs : List Byte) : List Byte :=
  let sz := elemSize dtype
  (chunks sz (bs.length / max 1 sz) bs).flatMap fun e => leBytes 4 (encodeF f32 .rne (decodeF (fmtOf dtype) (leNat e))).1

/-- The level-1 partial of contributions in order (R292). -/
def combine1 (op redop mode dtype : Nat) (l : List (List Byte)) : List Byte :=
  match l with
  | [] => []
  | first :: rest =>
    if !opReduces op then first
    else if dtype < 4 then rest.foldl (fun acc x => elemsOp redop dtype acc x) first
    else if usesExact mode redop dtype then
      let sz := elemSize dtype
      (List.range (first.length / sz)).flatMap fun i =>
        narrowBytes (l.foldl (fun a x => exactAdd a (decodeF (fmtOf dtype) (fieldNat x (i * sz) sz))) exactClear)
    else rest.foldl (fun acc x => elemsOp redop 4 acc (widen32 dtype x)) (widen32 dtype first)

/-- The level-3 combination of partials in order (R292). -/
def combine3 (op redop mode dtype : Nat) (l : List (List Byte)) : List Byte :=
  match l with
  | [] => []
  | first :: rest =>
    if !opReduces op then first
    else if usesExact mode redop dtype then
      (List.range (first.length / 40)).flatMap fun i =>
        narrowBytes (rest.foldl (fun a x => exactMerge a (widenNarrow (slice x (i * 40) 40))) (widenNarrow (slice first (i * 40) 40)))
    else rest.foldl (fun acc x => elemsOp redop (if dtype < 4 then dtype else 4) acc x) first

/-- Round the combined chunk (R294): the DOWN payload and the slot's amax record. -/
def roundDown (op redop mode dtype : Nat) (spec : BitVec 16) (scaleF : W32) (seed step : BitVec 64) (first : Nat) (bs : List Byte) (am : Amax) :
    List Byte × Amax :=
  if !opReduces op ∨ dtype < 4 then (bs, am)
  else
    let spec := if spec = 0 then BitVec.ofNat 16 (dtype * 4096) else spec
    let f := fmtOf (specDtype spec)
    let ex := usesExact mode redop dtype
    let w := if ex then 40 else 4
    (List.range (bs.length / w)).foldl (fun acc i =>
      let idx := BitVec.ofNat 64 (first + i)
      let e := slice bs (i * w) w
      let a := widenNarrow e
      let x := if ex then (exactVal a).1 else decodeF f32 (leNat e)
      let r := if ex then exactRound spec scaleF seed step idx a else convertElem spec scaleF seed step idx x
      (acc.1 ++ leBytes (elemSize (specDtype spec)) r.1, amaxAdd acc.2 f x r.1 r.2)) ([], am)

/-- The bytes of a level-1 partial of `elems` elements. -/
def partialLen (op redop mode dtype elems : Nat) : Nat :=
  if !opReduces op ∨ dtype < 4 then elems * elemSize dtype else if usesExact mode redop dtype then elems * 40 else elems * 4

/-! ## COL_CHUNK frames (R289, R290) -/

def ckUp : Nat := 1
def ckPart : Nat := 2
def ckDown : Nat := 3
def ckXchg : Nat := 4
def ckAck : Nat := 5
def ckFault : Nat := 6
def ckAbort : Nat := 7
def ckAbortAck : Nat := 8

def fColId (h : Header) : Nat := addrOff (wbAddr h) / 2 ^ 32 % 2 ^ 16
def fEpoch (h : Header) : BitVec 8 := BitVec.ofNat 8 (addrOff (wbAddr h) / 2 ^ 24)
def fFrag (h : Header) : Nat := addrOff (wbAddr h) / 2 ^ 20 % 16
def fOrd (h : Header) : Nat := addrOff (wbAddr h) % 2 ^ 20

def colAddr (dst : BitVec 12) (ck id : Nat) (epoch : BitVec 8) (frag j : Nat) : BitVec 64 :=
  mkAddr dst (ck * 2 ^ 48 + id * 2 ^ 32 + epoch.toNat * 2 ^ 24 + frag * 2 ^ 20 + j)

/-- VARY on PART and DOWN (R289). -/
def colVary (redop mode dtype op : Nat) : Nat := if opReduces op ∧ mode = 0 ∧ redop = 0 ∧ 4 ≤ dtype then 8 else 0

/-- A unicast COL_CHUNK of a source (R289). -/
def colFrame (src dst : BitVec 12) (ck : Nat) (x : ColSlot) (slot frag j flags redop dtype port : Nat) (payload : List Byte) : NewFrame :=
  { type := 0x21, src := src, addr := colAddr dst ck x.colId.toNat x.epoch frag j, length := payload.length, payload := pad32 payload
    subop := BitVec.ofNat 8 redop, dtype := BitVec.ofNat 8 dtype, flags := flags, port := port, owner := .chunk slot j frag }

/-- The entry that released a chunk has ended: none of its frames may start (R285). -/
def entryOver (s : State) (e : Nat) : Bool := s.tick.finished.contains e

/-- No frame of ordinal `j` may start any more: its occurrence has ended, or was in an earlier tick (R285). -/
def ordOver (s : State) (x : ColSlot) (j : Nat) : Bool := match ordEntry x j with | some e => entryOver s e | none => true

/-- REDOP and the input type of an instance (R289), from the first bound descriptor or, at a spine, from a PART. A spine that has seen
neither sends 0: DESIGN CHOICE (assumption 24). -/
def slotForm (x : ColSlot) : Nat × Nat := match x.first with | some d => (cRedop d, cDtype d) | none => (x.redop, x.dtype)

/-! ## Completion of members (R296) -/

/-- Finish a member: the CPL_UPDATE of its descriptor, or the update of R100 applied at CPL_ADDR (R339). -/
def completeMember (m : Member) (status : Byte) (s : State) : State :=
  match m.binder with
  | .ep n i => finishDesc n i (modDesc n i (fun d => { d with status := maxStatus d.status status, bytes := m.bytes }) s)
  | .cb g e =>
    let a := dField m.raw 52 8
    let ((old, _), s) := dieRead a 16 s
    let plane := 2 ^ planeIdx s
    let st := max (fieldNat old 4 1) status.toNat
    let new := leBytes 2 (fieldNat old 0 2 ||| plane) ++ leBytes 2 (fieldNat old 2 2 ||| if status = 0 then 0 else plane)
      ++ leBytes 1 st ++ slice old 5 3 ++ leBytes 4 (fieldNat old 8 4 + m.bytes) ++ leBytes 4 (g * 16 + e)
    modArr (fun u => u) (modCol (fun c => { c with cb := tabSet 0 c.cb (g * 16 + e) 0 }) (dieWrite a new s).2)

/-- The status of a member when its instance ends (R296). -/
def memberStatus (x : ColSlot) (m : Member) : Byte :=
  maxStatus m.status (if x.anyDropped then 0x11 else 0)

/-- A LIVE slot becomes COMPLETE when every chunk of the plane is released and has ended (R284), and its members complete. -/
def checkSlot (k : Nat) (s : State) : State :=
  let x := slotOf s k
  match slotCount s x with
  | none => s
  | some n =>
    if x.state = .live ∧ n ≤ x.cursor ∧ x.chunks.isEmpty then
      let s := modSlot k (fun x => { x with state := .complete, bound := [] }) s
      forEach x.bound (fun m s => completeMember m (memberStatus x m) s) s
    else s

/-! ## Abort (R300, R301) -/

/-- Free the frames of an instance that wait for the engine (R299, R301). -/
def dropInbox (sel : Header → Bool) (s : State) : State :=
  let gone := s.col.inbox.flatMap fun e => (e.2.filter fun h => sel h.frame.wb).map fun h => (e.1, h)
  let s := modCol (fun c => { c with inbox := (c.inbox.map fun e => (e.1, e.2.filter fun h => !sel h.frame.wb)).filter fun e => !e.2.isEmpty }) s
  forEach gone (fun x s =>
    let s := freeCells x.2.inPort (wbClass x.2.frame.wb) x.2.cells s
    if wbMcast x.2.frame.wb then s else settleRequest (portPoint x.1) x.2.frame.wb s) s

/-- Every source and admission point. -/
def allPoints (s : State) : List Point := .rte :: s.eps.map fun e => .ep e.1

/-- Whether a context or a waiting frame serves a chunk of slot `k`. -/
def servesSlot (k : Nat) (o : CtxOwner) : Bool := match o with | .chunk j _ _ => decide (j = k) | _ => false

/-- Contexts of an instance that is over go on for their own sake, and what waits to be sent is forgotten. -/
def disownChunks (k : Nat) (s : State) : State :=
  forEach (allPoints s) (fun p s => modRel p (fun r => { r with
    ctxs := r.ctxs.map fun e => (e.1, if servesSlot k e.2.owner then { e.2 with owner := .other } else e.2)
    waiting := r.waiting.filter fun f => !servesSlot k f.owner }) s) s

/-- The deliveries for chunks of slot `k` that a controller has when the chunks are over: the first of each frame answers it, and the others
answer nothing. `seen` has the frames met so far. -/
def disownSlots (k : Nat) : List Header → Tab DlvSlot → Tab DlvSlot
  | _, [] => []
  | seen, x :: l =>
    let put (u : DlvUse) : Nat × DlvSlot := (x.1, { x.2 with busy := x.2.busy.map fun d => { d with use := u } })
    match (x.2.busy.map (·.use) : Option DlvUse) with
    | some (.chunk j _ _ _ (some h)) =>
      if j ≠ k then x :: disownSlots k seen l
      else if seen.contains h then put (.host .gone) :: disownSlots k seen l
      else put (.remote h false) :: disownSlots k (h :: seen) l
    | some (.chunk j _ _ _ none) | some (.host (.chunkRead j _ _ _)) => (if j = k then put (.host .gone) else x) :: disownSlots k seen l
    | _ => x :: disownSlots k seen l

/-- The unicast frames whose fragments deliveries for chunks of slot `k` bring. -/
def chunkWb (k : Nat) (d : Delivery) : Option Header :=
  match d.use with | .chunk j _ _ _ (some h) => if j = k then some h else none | _ => none

/-- A delivery not yet with the controller serves a chunk of slot `k`. -/
def servesChunk (k : Nat) (u : DlvUse) : Bool :=
  match u with
  | .chunk j _ _ _ _ => decide (j = k)
  | .host (.chunkRead j _ _ _) => decide (j = k)
  | _ => false

/-- Forget the deliveries of slot `k`'s chunks that wait, and disown those that a controller has (R299). -/
def dropDeliveries (k : Nat) (s : State) : State :=
  forEach (s.eps.map (·.1)) (fun n s =>
    let out := ((epOf s n).dlvSlots.filterMap fun x => x.2.busy).filterMap (chunkWb k)
    let gone := (((epOf s n).dlvQueue.filterMap (chunkWb k)).eraseDups).filter fun h => !out.contains h
    let s := modEp n (fun e => { e with
      dlvQueue := e.dlvQueue.filter fun d => !servesChunk k d.use
      dlvSlots := disownSlots k [] e.dlvSlots }) s
    forEach gone (settleRequest (.ep n)) s) s

def ofInstance (x : ColSlot) (h : Header) : Bool := decide (fColId h = x.colId.toNat) && decide (fEpoch h = x.epoch)

/-- Mark a slot ABORTED, clear its buffers, and complete its members with ABORT (R301). -/
def clearAborted (k : Nat) (s : State) : State :=
  let x := slotOf s k
  let s := dropDeliveries k (disownChunks k (modSlot k (fun x => { x with state := .aborted, chunks := [], bound := [] }) s))
  let s := dropInbox (fun h => ofInstance x h && decide (fCkind h ≤ 4)) s
  forEach x.bound (fun m s => completeMember m 0x16 s) s

/-- Send ABORT, FAULT, ACK or ABORT_ACK of instance `x` from the collective engine (R286, R289). An ACK belongs to its chunk. -/
def engineSendFor (x : ColSlot) (k ck : Nat) (dst : BitVec 12) (j : Nat) (s : State) : State :=
  sendOrWait .rte { colFrame (myFnid s) dst ck x k 0 j 0 (slotForm x).1 (slotForm x).2 (124 + j % 2) [] with
    owner := if ck = ckAck then .chunk k j 0 else .other } s
def engineSend (k ck : Nat) (dst : BitVec 12) (j : Nat) (s : State) : State := engineSendFor (slotOf s k) k ck dst j s

/-- Send ABORT to a peer and count the send (R301). -/
def sendAbort (k : Nat) (peer : BitVec 12) (s : State) : State :=
  let s := engineSend k ckAbort peer 0 s
  modSlot k (fun x => { x with aborts := tabMod 0 x.aborts peer.toNat (· + 1) }) s

/-- The leaves that a spine's ABORT goes to: those of the group, or all when no PART has named it (assumption 24). -/
def abortLeaves (s : State) (x : ColSlot) : List Nat :=
  match x.group with
  | some g => memberLeaves s g.toNat
  | none => List.range (leavesM1 s + 1)

/-- Level 3 aborts an instance (R300, R301): cause 1 DROP_RUN, 2 mismatch, 3 FAULT. -/
def abortSlot (k cause : Nat) (s : State) : State :=
  if (slotOf s k).state ≠ .live then s
  else
    let s := modCol (fun c => { c with aborts := satAdd c.aborts 1 }) s
    let s := devFault0 0x53 sevError k cause s
    let x := slotOf s k
    let s := clearAborted k s
    if singleStage s then s else forEach (abortLeaves s x) (fun l s => sendAbort k (slotFnid s l) s) s

/-- The spines in SPINE_MASK of the slot's group. -/
def groupSpines (s : State) (x : ColSlot) : List Nat :=
  match x.first with
  | some d => setBits (grpSpines (grpOf s (cGroup d)))
  | none => match x.group with | some g => setBits (grpSpines (grpOf s g.toNat)) | none => []

/-- Report a level-2 fault to level 3 (R300): on-die in single stage, else FAULT to every spine. -/
def level2Fault (k : Nat) (s : State) : State :=
  if (slotOf s k).state ≠ .live then s
  else if singleStage s then abortSlot k 3 s
  else forEach (groupSpines s (slotOf s k)) (fun i s => engineSend k ckFault (spineFnid s i) 0 s) s

/-- Every instance to which a member of end-point block `n` is bound has a level-2 fault (R300). -/
def epLevel2 (n : Nat) (s : State) : State :=
  forEach (List.range 2048) (fun k s =>
    if (slotOf s k).bound.any fun m => match m.binder with | .ep a _ => decide (a = n) | _ => false then level2Fault k s else s) s

/-- The same for array group `g` (R339). -/
def cbLevel2 (g : Nat) (s : State) : State :=
  forEach (List.range 2048) (fun k s =>
    if (slotOf s k).bound.any fun m => match m.binder with | .cb a _ => decide (a = g) | _ => false then level2Fault k s else s) s

/-! ## The end of a chunk (R291) -/

/-- What the first bound descriptor says of chunk `j`: the descriptor, the group, its size and the chunk-space index. -/
def chunkView (s : State) (x : ColSlot) (j : Nat) : Option (BitVec 512 × BitVec 64 × Nat × Nat) :=
  x.first.map fun d =>
    let g := grpOf s (cGroup d)
    (d, g, grpSize g, chunkOfOrdinal x.map (planeIdx s) j)

/-- The chunk has ended at this leaf or single-stage module. -/
def chunkOver (s : State) (x : ColSlot) (c : Chunk) : Bool :=
  match chunkView s x c.ordinal with
  | none => false
  | some (d, g, n, k) =>
    let loc := localRanks s (cGroup d)
    let ups := (contributors d n k).filter loc.contains
    let downs := (receivers d n k).filter loc.contains
    let delivered := downs.all fun r => c.reported.contains r
    if cOp d = 6 then (ups.all fun r => c.sent.contains r) && delivered
    else if singleStage s then
      c.downSent && delivered
        && (!downUnicast (cOp d) || (downs.all fun r => decide (memSub (memberOf s g r) ≠ 0))
            || decide ((c.down.length + 255) / 256 ≤ c.downAcked))
    else (ups.isEmpty || (decide (0 < c.partSent) && decide (c.partSent ≤ c.partAcked))) && delivered

/-- The chunk's level-1 work has ended here, so that ordinal j + 6 may enter (R286, R291). -/
def level1Over (s : State) (x : ColSlot) (j : Nat) : Bool :=
  match chunkAt x j with
  | none => decide (j < x.cursor)
  | some c =>
    if singleStage s then false
    else match chunkView s x j with
      | none => false
      | some (d, _, n, k) =>
        let ups := (contributors d n k).filter (localRanks s (cGroup d)).contains
        ups.isEmpty || (decide (0 < c.partSent) && decide (c.partSent ≤ c.partAcked))

/-- Ordinal `j` may enter level 1 (R286). -/
def mayEnter (s : State) (x : ColSlot) (j : Nat) : Bool := decide (j < 6) || level1Over s x (j - 6)

/-! ## Delivery (R295) -/

/-- The member of rank `r` bound in the slot. -/
def memberAt (x : ColSlot) (r : Nat) : Option Member := x.bound.find? fun m => decide (m.rank = r)
def modMember (k r : Nat) (f : Member → Member) (s : State) : State :=
  modSlot k (fun x => { x with bound := x.bound.map fun m => if m.rank = r then f m else m }) s

/-- The DOWN or XCHG bytes of chunk `k` in the output type. -/
def downLen (d : BitVec 512) (g k : Nat) : Nat :=
  chunkLen d g k / max 1 (elemSize (cDtype d)) * elemSize (outType (cSpec d) (cDtype d))

/-- Send the leaf's ACK once every local member has reported (R291). -/
def leafReports (k j : Nat) (s : State) : State :=
  let x := slotOf s k
  if singleStage s then s
  else match chunkView s x j with
    | none => s
    | some (d, g, n, kk) =>
      if downUnicast (cOp d) ∨ cOp d = 6 ∨ ordOver s x j = true then s
      else
        let all := match chunkAt x j with
          | none => decide (j < x.cursor)
          | some c => ((receivers d n kk).filter (localRanks s (cGroup d)).contains).all fun r => c.reported.contains r
        if all then engineSend k ckAck (spineFnid s (rootSpine g x.colId.toNat j)) j s else s

/-- Remove a chunk that has ended and count it (R302). -/
def endChunk (k j : Nat) (s : State) : State :=
  modSlot k (fun x => { x with chunks := x.chunks.filter fun c => decide (c.ordinal ≠ j), chunksDone := satAdd x.chunksDone 1 }) s

/-- Rank `r` has delivered chunk `j`, all DLV_STOREs answered: its tally is incremented unless the delivery failed, and it
reports (R295). -/
def reportRank (k j r : Nat) (s : State) : State :=
  let x := slotOf s k
  match chunkAt x j, memberAt x r with
  | some c, some m =>
    if c.reported.contains r then leafReports k j s
    else
      let s := if c.failed.contains r then s else tallyInc (cTally m.raw) s
      let s := modChunk k j (fun c => { c with reported := c.reported ++ [r] }) s
      leafReports k j s
  | _, _ => s

/-- The pieces of a write of `data` at `addr`, cut at 256-byte granules. -/
def granCuts (addr : Nat) : Nat → List Byte → List (Nat × List Byte)
  | 0, _ => []
  | fuel + 1, data =>
    if data.isEmpty then []
    else
      let k := granPart addr data.length
      (addr, data.take k) :: granCuts (addr + k) fuel (data.drop k)

/-- Whether rank `r` has received every fragment of chunk `j`. -/
def fragsIn (c : Chunk) (r total : Nat) : Bool :=
  (List.range (max 1 ((total + 255) / 256))).all fun f => c.got.contains (r, f)

/-- The delivery of chunk `j` to rank `r` has failed with a status (R295). -/
def failRank (k j r : Nat) (status : Byte) (s : State) : State :=
  modChunk k j (fun c => { c with failed := c.failed ++ [r] }) (modMember k r (fun m => { m with status := maxStatus m.status status }) s)

/-- Deliver fragment `frag` of chunk `j` to rank `r` (R295). A fragment already taken is reported again. `wb` is the unicast
frame to answer once the fragment is delivered. A block that is not READY ends its stores at once with REMOTE (R82). -/
def deliverFrag (k j r frag : Nat) (payload : List Byte) (wb : Option Header) (s : State) : State :=
  let x := slotOf s k
  match chunkAt x j, memberAt x r, chunkView s x j with
  | some c, some m, some (d, _, n, kk) =>
    let done (st : Byte) (s : State) : State := match wb with
      | some h => answer (.request (match m.binder with | .ep a _ => .ep a | _ => .rte) h false) st none [] s
      | none => s
    if c.got.contains (r, frag) then done 0 (if c.reported.contains r then leafReports k j s else s)
    else
      let addr := cRecv m.raw + recvOff d n r kk + frag * 256
      let s := modChunk k j (fun c => { c with got := c.got ++ [(r, frag)] }) s
      match m.binder with
      | .ep a _ =>
        let cuts := granCuts addr 3 payload
        let off := decide ((epOf s a).attach ≠ .ready) && !cuts.isEmpty
        if cuts.isEmpty || off then
          let s := if off then failRank k j r 0x14 s else s
          let c2 := (chunkAt (slotOf s k) j).getD c
          done (if off then 0x14 else 0) (if fragsIn c2 r (downLen d n kk) && decide (tabGet 0 c2.outst r = 0) then reportRank k j r s else s)
        else
          let s := modChunk k j (fun c => { c with outst := tabMod 0 c.outst r (· + cuts.length) }) s
          let ring := match m.binder with | .ep _ i => ((descOf s a i).map (·.ring)).getD 64 | .cb _ _ => 64
          let ds : List Delivery := cuts.map fun q =>
            { use := .chunk k j r frag wb, opcode := 0x42, addr := BitVec.ofNat 52 q.1, len := q.2.length, payload := q.2, ring := ring }
          pumpDlv a (modEp a (fun e => { e with dlvQueue := e.dlvQueue ++ ds }) s)
      | .cb _ _ =>
        let (bad, s) := dieWrite addr payload s
        let s := if bad then failRank k j r 0x15 s
          else modMember k r (fun m => { m with bytes := m.bytes + payload.length }) s
        let c2 := (chunkAt (slotOf s k) j).getD c
        done 0 (if fragsIn c2 r (downLen d n kk) then reportRank k j r s else s)
  | _, _, _ => s

/-- A DLV_STORE of a chunk is answered (R295). -/
def chunkStored (k j r : Nat) (status : Byte) (len : Nat) (s : State) : State :=
  let x := slotOf s k
  match chunkAt x j, chunkView s x j with
  | some c, some (d, _, n, kk) =>
    let s := if status = 0 then modMember k r (fun m => { m with bytes := m.bytes + len }) s
      else failRank k j r status s
    let s := modChunk k j (fun c => { c with outst := tabMod 0 c.outst r (· - 1) }) s
    if tabGet 0 c.outst r = 1 ∧ fragsIn c r (downLen d n kk) then reportRank k j r s else s
  | _, _ => s

/-! ## Level 3 (R287, R294) -/

/-- Send the DOWN of a chunk (R294, R287 step 4). -/
def sendDown (k j : Nat) (op redop mode dtype outDt group dest : Nat) (s : State) : State :=
  let x := slotOf s k
  let c := (chunkAt x j).getD { ordinal := j, entry := 0 }
  let frags := chunks 256 17 c.down
  let frags := if frags.isEmpty then [[]] else frags
  let port := 124 + j % 2
  let fl := colVary redop mode dtype op
  let g := grpOf s group
  if entryOver s c.entry then s
  else if downUnicast op then
    let m := memberOf s g dest
    if singleStage s ∧ memSub m ≠ 0 then
      (frags.zipIdx).foldl (fun s q => deliverFrag k j dest q.2 q.1 none s) s
    else (frags.zipIdx).foldl (fun s q =>
      sendOrWait .rte (colFrame (myFnid s) (memFnid m) ckDown x k q.2 j fl redop outDt port q.1) s) s
  else
    let wb (f : Nat) (len : Nat) : Header := mkWb { type := 0x21, cls := .sched, plen := (len + 31) / 32, flags := 2 + fl, plane := planeIdx s
                                                    src := (myFnid s).toNat, dst := 0xFFF
                                                    addr := (colAddr 0xFFF ckDown x.colId.toNat x.epoch f j).toNat, length := len
                                                    subop := redop, dtype := outDt, group := if singleStage s then 0 else group }
    (frags.zipIdx).foldl (fun s q =>
      let s := emitMcast port (mkFrame (wb q.2 q.1.length) (pad32 q.1)) (if singleStage s then tabGet 0 s.col.grpMask group else 0) s
      if singleStage s then
        forEach ((localRanks s group).filter fun r => decide (memSub (memberOf s g r) ≠ 0)) (fun r s => deliverFrag k j r q.2 q.1 none s) s
      else s) s

/-- Round the combined chunk `bs` and send it DOWN. -/
def finishLevel3 (k j : Nat) (op redop mode dtype : Nat) (spec : BitVec 16) (scaleF : W32) (seed : BitVec 64) (group dest kk : Nat)
    (bs : List Byte) (s : State) : State :=
  let x := slotOf s k
  let first := kk * chunkSize mode / max 1 (elemSize dtype)
  let (down, am) := roundDown op redop mode dtype spec scaleF seed s.tick.step first bs x.amax
  let s := modSlot k (fun x => { x with amax := am }) s
  let s := modChunk k j (fun c => { c with down := down, downSent := true, downTo := if downUnicast op then some dest else none }) s
  sendDown k j op redop mode dtype (outType spec dtype) group dest s

/-! ## Level 1 (R287, R292) -/

/-- LAST_RANK and LAST_CNT (R302). -/
def noteLast (r : Nat) (x : ColSlot) : ColSlot :=
  let rk := BitVec.ofNat 12 r
  { x with lastRank := rk, lastCnt := if x.lastRank = rk then satAdd x.lastCnt 1 else 1 }

/-- The header of a PART (R290). -/
def partHdr (d : BitVec 512) (dest kk elems : Nat) : List Byte :=
  leBytes 1 (cOp d) ++ leBytes 1 (cMode d) ++ bvBytes (cSpec d) ++ bvBytes (cScale d) ++ bvBytes (cSeed d) ++ leBytes 2 (cGroup d)
    ++ leBytes 2 dest ++ leBytes 4 kk ++ leBytes 2 elems ++ zeros 6

/-- A floating-point ADD in TREE mode, whose additions are in ascending order (R265, R292). -/
def usesTree (op mode redop dtype : Nat) : Bool := opReduces op && decide (mode = modeTree) && decide (redop = 0) && decide (4 ≤ dtype)

/-- The contributions in the order in which level 1 adds them (R292): by rank in TREE mode, else by arrival. -/
def upsInOrder (d : BitVec 512) (need : List Nat) (c : Chunk) : List (List Byte) :=
  if usesTree (cOp d) (cMode d) (cRedop d) (cDtype d) then need.filterMap fun r => (c.ups.find? fun u => decide (u.1 = r)).map (·.2)
  else c.ups.map (·.2)

/-- When every local contribution is in, pass the chunk up: PART to the root spine, or level 3 on this module. -/
def level1Check (k j : Nat) (s : State) : State :=
  let x := slotOf s k
  match chunkAt x j, chunkView s x j with
  | some c, some (d, g, n, kk) =>
    let need := (contributors d n kk).filter (localRanks s (cGroup d)).contains
    let isIn := need.all fun r => c.ups.any fun u => decide (u.1 = r)
    if need.isEmpty || !isIn || c.downSent || decide (0 < c.partSent) || entryOver s c.entry then s
    else
      let s := modSlot k (noteLast ((c.ups.getLast?.map (·.1)).getD 0)) s
      let bs := combine1 (cOp d) (cRedop d) (cMode d) (cDtype d) (upsInOrder d need c)
      let dest := if cOp d = 2 then (receivers d n kk).headD 0 else if cOp d = 5 then cRoot d else 0
      if singleStage s then finishLevel3 k j (cOp d) (cRedop d) (cMode d) (cDtype d) (cSpec d) (cScale d) (cSeed d) (cGroup d) dest kk bs s
      else
        let hdr := partHdr d dest kk (chunkLen d n kk / max 1 (elemSize (cDtype d)))
        let frags := chunks 224 17 bs
        let frags := if frags.isEmpty then [[]] else frags
        let s := modChunk k j (fun c => { c with partSent := frags.length }) s
        let fl := colVary (cRedop d) (cMode d) (cDtype d) (cOp d)
        (frags.zipIdx).foldl (fun s q => sendOrWait .rte
          (colFrame (myFnid s) (spineFnid s (rootSpine g x.colId.toNat j)) ckPart x k q.2 j fl (cRedop d) (cDtype d) (124 + j % 2) (hdr ++ q.1)) s) s
  | _, _ => s

/-- Add the contribution of rank `r` to the home buffer. -/
def contribute (k j r : Nat) (bs : List Byte) (s : State) : State :=
  let s := modChunk k j (fun c => if c.ups.any (fun u => decide (u.1 = r)) then c else { c with ups := c.ups ++ [(r, bs)] }) s
  level1Check k j s

/-- In TREE mode a contribution waits until those of all lower local ranks are in (R292). -/
def inTurn (s : State) (x : ColSlot) (c : Chunk) (r : Nat) : Bool :=
  match chunkView s x c.ordinal with
  | none => false
  | some (d, _, n, kk) =>
    !usesTree (cOp d) (cMode d) (cRedop d) (cDtype d) ||
      ((contributors d n kk).filter fun q => decide (q < r) && (localRanks s (cGroup d)).contains q).all fun q => c.ups.any fun u => decide (u.1 = q)

/-! ## A member's part in a chunk (R285, R287) -/

/-- Rank `r`'s contribution `bs` to chunk `j` leaves its end-point block `n`: UP to its module, or XCHG to its destination. -/
def sendContribution (n k j r : Nat) (bs : List Byte) (s : State) : State :=
  let x := slotOf s k
  match chunkAt x j, chunkView s x j with
  | some c, some (d, g, gn, kk) =>
    if entryOver s c.entry then s
    else
      let src := (epOf s n).srcFnid
      if cOp d = 6 then
        let dst := (receivers d gn kk).headD 0
        sendOrWait (.ep n) { colFrame src (memFnid (memberOf s g dst)) ckXchg x k 0 kk 0 0 (cDtype d) n bs with owner := .chunk k j r } s
      else sendOrWait (.ep n) (colFrame src (myFnid s) ckUp x k 0 j 0 (cRedop d) (cDtype d) n bs) s
  | _, _ => s

/-- Read on with a member's send data, cut at granules (R287 step 1). -/
def readChunk (n k j r addr len : Nat) (got : List Byte) (s : State) : State :=
  if len ≤ got.length then sendContribution n k j r got s
  else hostAccess n (.chunkRead k j r got) 0x41 (addr + got.length) (granPart (addr + got.length) (len - got.length)) [] s

/-- Start the part of rank `r` in chunk `j`, once. -/
def startRank (k j r : Nat) (s : State) : State :=
  let x := slotOf s k
  match chunkAt x j, memberAt x r, chunkView s x j with
  | some c, some m, some (d, _, n, kk) =>
    if c.started.contains r || !(contributors d n kk).contains r || !mayEnter s x j || entryOver s c.entry then s
    else
      let s := modChunk k j (fun c => { c with started := c.started ++ [r] }) s
      let addr := cSend m.raw + sendOff d n kk
      let len := chunkLen d n kk
      match m.binder with
      | .ep a _ => readChunk a k j r addr len [] s
      | .cb _ _ =>
        let ((bs, p), s) := dieRead addr len s
        if p then modMember k r (fun m => { m with status := maxStatus m.status 0x15 }) s
        else if cOp d = 6 then
          let dst := (receivers d n kk).headD 0
          let dm := memberOf s (grpOf s (cGroup d)) dst
          if memFnid dm = myFnid s then modChunk k j (fun c => { c with sent := c.sent ++ [r] }) (deliverFrag k j dst 0 bs none s)
          else sendOrWait .rte { colFrame (myFnid s) (memFnid dm) ckXchg x k 0 kk 0 0 (cDtype d) (124 + kk % 2) bs with owner := .chunk k j r } s
        else contribute k j r bs s
  | _, _, _ => s

/-- Start what may start in every released chunk, and end those that are over; `fuel` bounds the rounds. -/
def colRun (k : Nat) : Nat → State → State
  | 0, s => checkSlot k s
  | fuel + 1, s =>
    let x := slotOf s k
    if x.state ≠ .live then s
    else
      let s := forEach x.chunks (fun c s => forEach (x.bound.map (·.rank)) (fun r s => startRank k c.ordinal r s) s) s
      let x := slotOf s k
      match x.chunks.find? (chunkOver s x) with
      | some c => colRun k fuel (endChunk k c.ordinal s)
      | none => checkSlot k s

def colWork (k : Nat) (s : State) : State := if isSpine s then s else colRun k ((slotOf s k).chunks.length + 1) s

/-! ## Binding (R284, R296) -/

/-- The fields that must agree with the first descriptor bound (R284). -/
def sameInstance (a b : BitVec 512) : Bool :=
  decide (cOp a = cOp b) && decide (cDtype a = cDtype b) && decide (cLength a = cLength b) && decide (cGroup a = cGroup b)
    && decide (cRedop a = cRedop b) && decide (cMode a = cMode b) && decide (cSpec a = cSpec b) && decide (cScale a = cScale b)
    && decide (cSeed a = cSeed b) && decide (cRoot a = cRoot b)

/-- Bind a member to its LIVE slot. -/
def bindMember (m : Member) (s : State) : State :=
  let k := colSlotOf (cColId m.raw)
  let x := slotOf s k
  match x.first with
  | some d =>
    if !sameInstance d m.raw then level2Fault k (completeMember m 0x10 s)
    else if slotCount s x = some 0 then completeMember m 0 s
    else colWork k (modSlot k (fun x => { x with bound := x.bound ++ [m] }) s)
  | none =>
    let s := modSlot k (fun x => { x with first := some m.raw, group := some (BitVec.ofNat 12 (cGroup m.raw)) }) s
    let n := (slotCount s (slotOf s k)).getD 0
    let s := modSlot k (fun x => { x with cursor := min x.cursor n, chunks := x.chunks.filter fun c => decide (c.ordinal < n) }) s
    if n = 0 then completeMember m 0 s
    else colWork k (modSlot k (fun x => { x with bound := x.bound ++ [m] }) s)

/-- Handle a descriptor that passed its checks, by the state of its slot (R284). -/
def offerMember (m : Member) (s : State) : State :=
  let id := cColId m.raw
  let ep := BitVec.ofNat 8 (cEpoch m.raw)
  let x := slotOf s (colSlotOf id)
  if slotHolds x id ep then
    match x.state with
    | .live => bindMember m s
    | .complete => completeMember m 0x11 s
    | _ => completeMember m 0x16 s
  else if x.state ≠ .free ∧ x.colId.toNat = id ∧ epochNewer x.epoch ep then completeMember m 0x11 s
  else modCol (fun c => { c with held := c.held ++ [m] }) s

/-- A COL entry's COL_ID, COL_EPOCH and CHUNKS (R226). -/
def entColId (e : BitVec 128) : Nat := (bitsOf e 44 16).toNat
def entEpoch (e : BitVec 128) : BitVec 8 := bitsOf e 36 8
def entChunks (e : BitVec 128) : Nat := (bitsOf e 28 8).toNat

/-- A COL entry of a new tick meets its slot (R284). A spine's slot follows its itinerary whatever it holds (assumption 24). -/
def colEntry (e : BitVec 128) (s : State) : State :=
  let id := entColId e
  let ep := entEpoch e
  let k := colSlotOf id
  let x := slotOf s k
  let takes := decide (x.state = .free) ||
    ((decide (x.state ≠ .live) || isSpine s) && (decide (x.colId.toNat ≠ id) || epochNewer ep x.epoch))
  if slotHolds x id ep then s
  else if takes then
    let s := dropInbox (fun h => decide (colSlotOf (fColId h) = k) && !(decide (fColId h = id) && decide (fEpoch h = ep))) s
    let old := x.aborts.map fun a => (⟨k, BitVec.ofNat 12 a.1, x.colId, x.epoch, (slotForm x).1, (slotForm x).2, a.2⟩ : OldAbort)
    let s := modCol (fun c => { c with oldAborts := c.oldAborts ++ old }) s
    let s := modSlot k (fun _ => { colId := BitVec.ofNat 16 id, epoch := ep, state := .live, map := s.rte.planeMap }) s
    let mine := s.col.held.filter fun m => decide (cColId m.raw = id) && decide (cEpoch m.raw = ep.toNat)
    let s := modCol (fun c => { c with held := c.held.filter fun m => !(decide (cColId m.raw = id) && decide (cEpoch m.raw = ep.toNat)) }) s
    forEach mine bindMember s
  else devFault0 0x52 sevError k 0 (modCol (fun c => { c with slotErr := satAdd c.slotErr 1 }) s)

/-! ## Completion of contexts that carry COL_CHUNK frames -/

/-- A unicast COL_CHUNK of chunk `j` has its answer: a PART or a DOWN is acknowledged, an XCHG is sent (R291). -/
def chunkAnswered (k j frag ck : Nat) (s : State) : State :=
  let s := if ck = ckPart then modChunk k j (fun c => { c with partAcked := c.partAcked + 1 }) s
    else if ck = ckDown then modChunk k j (fun c => { c with downAcked := c.downAcked + 1 }) s
    else if ck = ckXchg then modChunk k j (fun c => { c with sent := c.sent ++ [frag] }) s
    else s
  if isSpine s then
    match chunkAt (slotOf s k) j with
    | some c => if ck = ckDown ∧ c.downTo.isSome ∧ max 1 ((c.down.length + 255) / 256) ≤ c.downAcked then endChunk k j s else s
    | none => s
  else colWork k s

/-! ## Checks at fetch (R282) -/

/-- Step 1: FORMAT. `limit` bounds the buffers; `cb` is a binding entry (R339). -/
def colFormatOk (s : State) (d : BitVec 512) (limit : Nat) (cb : Bool) : Bool :=
  let op := cOp d
  let dt := cDtype d
  let red := opReduces op
  let isz := elemSize dt
  let osz := elemSize (outType (cSpec d) dt)
  let n := grpSize (grpOf s (cGroup d))
  let b := cLength d
  let sendLen := if op = 7 then 0 else if op = 6 then n * b else b
  let recvLen := if op = 7 then 0 else if op = 3 ∨ op = 6 then n * b else if op = 2 then b / n / max 1 isz * osz else b / max 1 isz * osz
  decide (bitsOf d 12 4 = 0) && !dSched d && decide (dField d 4 2 < 1024) && decide (dField d 10 2 < 4096) && decide (dField d 49 1 < 4)
    && (if cb then decide (dField d 60 4 = 0) && decide (bitsOf d 8 4 = 0) && decide (dField d 4 3 = 0) && decide (dField d 52 8 % 16 = 0)
          && decide (dField d 52 8 + 16 ≤ limit)
        else decide (dField d 52 12 = 0))
    && decide (1 ≤ op) && decide (op ≤ 7) && decide (dt ≤ 8) && decide (cSend d < 2 ^ 52) && decide (cRecv d < 2 ^ 52)
    && (if red then decide (cRedop d ≤ 5) && (decide (dt < 4) || decide (cRedop d = 0) || decide (4 ≤ cRedop d))
        else decide (cRedop d = 0) && decide (cMode d = 0) && decide (cSpec d = 0))
    && decide (cMode d ≠ 3) && (decide (cMode d ≠ 2) || decide (dt = 4) || decide (dt = 5))
    && (if cSpec d = 0 then decide (cScale d = 0)
        else specOk (cSpec d) && decide (specScale (cSpec d) ≠ 2) && decide (4 ≤ dt)
          && (if specScale (cSpec d) = 1 then scaleOk (cScale d) else decide (cScale d = 0)))
    && (if op = 4 ∨ op = 5 then true else decide (cRoot d = 0))
    && (if op = 7 then decide (b = 0) else if op = 2 then decide (b % (n * chunkSize (cMode d)) = 0)
        else if op = 3 ∨ op = 6 then decide (b % chunkSize (cMode d) = 0) else decide (b % max 1 isz = 0))
    && decide (chunkCount d n ≤ 2 ^ 20)
    && decide (cSend d + sendLen ≤ limit) && decide (cRecv d + recvLen ≤ limit)
    && decide (cSend d % max 1 isz = 0) && decide (cRecv d % max 1 osz = 0)

/-- Step 3: the group is VALID, the source is a rank with the right SUB, and ROOT is a rank. Gives the rank. -/
def colRank (s : State) (d : BitVec 512) (fnid : BitVec 12) (sub : Nat) : Option Nat :=
  let g := grpOf s (cGroup d)
  if !grpValid g ∨ grpSize g ≤ cRoot d then none
  else (List.range (grpSize g)).find? fun r => decide (memberOf s g r = BitVec.ofNat 16 (sub * 4096 + fnid.toNat))

/-- The rights that a COLLECTIVE needs on WIN_A (R281). -/
def colRights (d : BitVec 512) : List Nat := if opReduces (cOp d) ∧ cRedop d = 0 then [124] else [122]

end Sys2Proof.Machine
end

