-- ==== Sys2Proof/Machine/CallOps.lean ====
section
/-! DEFINITION. SERVICE descriptors: the calls that an end-point block makes of one (R355, R356). A block takes the keys or
rows of a descriptor one after another. -/

namespace Sys2Proof.Machine

open Sys2Proof

/-! ## The SERVICE descriptor (R355) -/

def vSop (d : BitVec 512) : Nat := dField d 2 1
def vCount (d : BitVec 512) : Nat := dField d 8 4
def vLength (d : BitVec 512) : Nat := dField d 12 4
def vOffset (d : BitVec 512) : Nat := dField d 16 8
def vAddrB (d : BitVec 512) : Nat := dField d 24 8
def vKeys (d : BitVec 512) : Nat := dField d 32 8
def vAux (d : BitVec 512) : Nat := dField d 40 8
def vResult (d : BitVec 512) : Nat := dField d 48 8
def vBlkOff (d : BitVec 512) : Nat := dField d 56 4
def vOdtype (d : BitVec 512) : Nat := dField d 60 1
def vCflags (d : BitVec 512) : Nat := dField d 61 1

def sopGet : Nat := 0x01
def sopRead : Nat := 0x02
def sopPut : Nat := 0x03
def sopPutData : Nat := 0x04
def sopCommit : Nat := 0x05
def sopAbort : Nat := 0x06
def sopDelete : Nat := 0x07
def sopPooled : Nat := 0x08
def sopOpt : Nat := 0x10

/-- Rows of a descriptor: OPT_STEP makes one call (R356). -/
def vRows (d : BitVec 512) : Nat := if vSop d = sopOpt then 1 else vCount d

/-- The FORMAT checks at fetch (R355). SCHED has no effect on a SERVICE descriptor. -/
def svcFormatOk (s : State) (n : Nat) (d : BitVec 512) : Bool :=
  let sop := vSop d
  let data := decide (sop = sopGet) || decide (sop = sopPut) || decide (sop = sopPooled)
  let c := vCount d
  let len := vLength d
  (data || decide (sop = sopDelete) || decide (sop = sopOpt))
    && decide (bitsOf d 12 4 = 0) && decide (dField d 3 1 = 0) && decide (dField d 4 2 < 1024) && decide (dField d 7 1 = 0) && decide (dField d 62 2 = 0)
    && (if sop = sopOpt then decide (c = 0) else decide (1 ≤ c) && decide (c ≤ 65536))
    && (if data then decide (32 ≤ len) && decide (len ≤ 65536) && decide (len % 32 = 0) else decide (len = 0))
    && decide (vBlkOff d % 32 = 0)
    && (if sop = sopPooled then decide (vOdtype d = 4) || decide (vOdtype d = 5) else decide (vOdtype d = 0) && decide (vAux d = 0))
    && (if sop = sopPut then decide (vCflags d < 4) else decide (vCflags d = 0))
    && decide (vOffset d < 2 ^ 52) && decide (vAddrB d + c * len ≤ 2 ^ 52) && decide (vKeys d + c * (if sop = sopPooled then 128 else 8) ≤ 2 ^ 52)
    && decide (vAux d + (if sop = sopPooled then c * 64 else 0) ≤ 2 ^ 52) && decide (vResult d + c ≤ 2 ^ 52)
    && fnidModule (winFnid (winOf s n (dWinA d)))

/-! ## Calls (R349, R356) -/

/-- A call's payload: the header of R349 and the inline data. -/
def callPayload (sop cflags dlen boff key : Nat) (handle : W32) (odtype : Nat) (inline : List Byte) : List Byte :=
  leBytes 1 sop ++ leBytes 1 cflags ++ leBytes 2 dlen ++ leBytes 4 boff ++ leBytes 8 key ++ bvBytes handle ++ leBytes 1 odtype ++ zeros 11 ++ inline

/-- The fragment size of a SOP's data, and the number of fragments of a row. -/
def fragSize (d : BitVec 512) : Nat := if vSop d = sopPut then 224 else 256
def fragLen (d : BitVec 512) (j : Nat) : Nat := min (fragSize d) (vLength d - fragSize d * j)
def fragCount (d : BitVec 512) : Nat := (vLength d + fragSize d - 1) / fragSize d

/-- The call that a stage of a row sends. -/
def stageCall (d : Desc) : List Byte :=
  let c := d.call
  let r := d.raw
  let key := fieldNat c.keys 0 8
  let boff := vBlkOff r + fragSize r * c.frag
  match c.stage with
  | .frag =>
    if vSop r = sopGet then callPayload sopRead 0 (fragLen r c.frag) boff 0 c.handle 0 []
    else if vSop r = sopPut then callPayload sopPutData 0 (fragLen r c.frag) boff 0 c.handle 0 c.data
    else callPayload sopPooled 0 (fragLen r c.frag) boff 0 0 (vOdtype r) (slice c.keys 0 128 ++ slice c.weights 0 64)
  | .commit => callPayload sopCommit 0 0 0 0 c.handle 0 []
  | .abort => callPayload sopAbort 0 0 0 0 c.handle 0 []
  | _ =>
    if vSop r = sopOpt then callPayload sopOpt 0 0 0 0 0 0 []
    else if vSop r = sopPut then callPayload sopPut (vCflags r) 0 0 key 0 0 []
    else callPayload (vSop r) 0 0 0 key 0 0 []

/-- The SVC_CALL frame of a stage. -/
def callFrame (s : State) (n i : Nat) (d : Desc) : NewFrame :=
  let pl := stageCall d
  { type := 0x05, src := (epOf s n).srcFnid, addr := d.addrA, length := pl.length, payload := pad32 pl, port := n, owner := .call i }

/-- The local extent that a stage reads: its address and length. -/
def stageRead (d : Desc) : Nat × Nat :=
  let r := d.raw
  match d.call.stage with
  | .readWeights => (vAux r + d.row * 64, 64)
  | .readData => (vAddrB r + d.row * vLength r + fragSize r * d.call.frag, fragLen r d.call.frag)
  | _ => if vSop r = sopPooled then (vKeys r + d.row * 128, 128) else (vKeys r + d.row * 8, 8)

def modCall (n i : Nat) (f : CallRow → CallRow) (s : State) : State := modDesc n i (fun d => { d with call := f d.call }) s

/-- The stage that follows a failure: PUT_ABORT for a slot that was begun, else the row's result (R356). -/
def failStage (c : CallRow) : CallRow := { c with bad := true, stage := if c.begun then .abort else .writeResult }

/-- The stage that follows a call's data fragment. -/
def afterFrag (d : BitVec 512) (c : CallRow) : CallRow :=
  let c := { c with frag := c.frag + 1 }
  if c.frag < fragCount d then { c with stage := if vSop d = sopPut then .readData else .frag }
  else { c with stage := if vSop d = sopPut then .commit else .writeResult }

/-- Write data at an address in the accelerator's memory, one access for each granule. -/
def callWriteOut (n i addr : Nat) (data : List Byte) (s : State) : State :=
  let cuts := granCuts addr 3 data
  forEach cuts (fun q s => hostAccess n (.callWrite i) 0x42 q.1 q.2.length q.2 s)
    (modDesc n i (fun d => { d with writing := d.writing + cuts.length }) s)

/-- The row after the current one; none is left when a host access has ended the descriptor. -/
def nextRow (d : Desc) : Nat := if d.call.ends then vRows d.raw else d.row + 1

/-- Drive the current row of a SERVICE descriptor from its stage. -/
def driveCall (n i : Nat) (s : State) : State :=
  match descOf s n i with
  | none => s
  | some d =>
    if vRows d.raw ≤ d.row then finishDesc n i s
    else
      let send (next : CallStage) : State :=
        sendOrWait (.ep n) (callFrame s n i d) (modCall n i (fun c => { c with stage := next }) s)
      let readIt : State :=
        let (a, l) := stageRead d
        hostAccess n (.callRead i [] l) 0x41 a (granPart a l) [] s
      match d.call.stage with
      | .readKeys => if vSop d.raw = sopOpt then send .firstOut else readIt
      | .readWeights => readIt
      | .first => send .firstOut
      | .readData => readIt
      | .frag => send .fragOut
      | .commit => send .commitOut
      | .abort => send .abortOut
      | .writeData => callWriteOut n i (vAddrB d.raw + d.row * vLength d.raw + fragSize d.raw * d.call.frag) d.call.data s
      | .writeResult =>
        if vResult d.raw = 0 then
          let s := modDesc n i (fun d => { d with bytes := d.bytes + (if d.call.bad then 0 else d.call.bytes), row := nextRow d, call := {} }) s
          match descOf s n i with
          | none => s
          | some d => if vRows d.raw ≤ d.row then finishDesc n i s
            else if vSop d.raw = sopOpt then s else
              let (a, l) := stageRead d
              hostAccess n (.callRead i [] l) 0x41 a (granPart a l) [] s
        else callWriteOut n i (vResult d.raw + d.row) [d.call.scode] s
      | _ => s

/-- A read for a row has all its bytes. -/
def callReadDone (n i : Nat) (bs : List Byte) (s : State) : State :=
  match descOf s n i with
  | none => s
  | some d =>
    let next (c : CallRow) : CallRow := match c.stage with
      | .readKeys => { c with keys := bs, stage := if vSop d.raw = sopPooled then .readWeights else .first }
      | .readWeights => { c with weights := bs, stage := .frag }
      | .readData => { c with data := bs, stage := .frag }
      | _ => c
    driveCall n i (modCall n i next s)

/-- An access of a write for a row has been answered: after the last one, its data or its result byte is written. -/
def callWriteDone (n i : Nat) (s : State) : State :=
  let s := modDesc n i (fun d => { d with writing := d.writing - 1 }) s
  match descOf s n i with
  | none => s
  | some d =>
    if d.writing ≠ 0 then s else
    match d.call.stage with
    | .writeData => driveCall n i (modCall n i (fun c => afterFrag d.raw { c with bytes := c.bytes + c.data.length }) s)
    | .writeResult =>
      driveCall n i (modDesc n i (fun d => { d with bytes := d.bytes + (if d.call.bad then 0 else d.call.bytes), row := nextRow d, call := {} }) s)
    | _ => s

/-- A host access of a SERVICE descriptor failed: the descriptor ends with the status, after a PUT_ABORT of an open slot and its row's result
byte. -/
def callHostFailed (n i : Nat) (status : Byte) (s : State) : State :=
  match descOf s n i with
  | none => s
  | some d =>
    let s := modDesc n i (fun d => { d with status := maxStatus d.status status }) s
    if d.call.begun ∧ d.call.stage ≠ .writeResult then
      driveCall n i (modCall n i (fun c => failStage { c with ends := true }) s)
    else finishDesc n i (orphanHost n i s)

/-- The answer to a call (R351, R356): `status` is the transport status. -/
def callReply (n i : Nat) (status : Byte) (data : List Byte) (s : State) : State :=
  match descOf s n i with
  | none => s
  | some d =>
    let word := decide (data.length = 8)
    let sc : Byte := if word then nth 0 data 0 else 0
    let failed := decide (status ≠ 0) || (word && decide (sc ≠ 0))
    let s := modDesc n i (fun d => { d with status := maxStatus d.status status }) s
    let fail (c : CallRow) : CallRow := failStage { c with scode := if c.bad then c.scode else sc }
    match d.call.stage with
    | .firstOut =>
      if failed then driveCall n i (modCall n i fail s)
      else
        let h : W32 := BitVec.ofNat 32 (fieldNat data 4 4)
        let next : CallStage := if vSop d.raw = sopGet then .frag else if vSop d.raw = sopPut then .readData else .writeResult
        driveCall n i (modCall n i (fun c => { c with handle := h, begun := decide (vSop d.raw = sopPut), stage := next }) s)
    | .fragOut =>
      if failed then
        if vSop d.raw = sopGet ∧ status = 0 ∧ sc = 2 ∧ !d.call.restarted then
          driveCall n i (modCall n i (fun c => { c with restarted := true, frag := 0, bytes := 0, stage := .first }) s)
        else driveCall n i (modCall n i fail s)
      else if vSop d.raw = sopPut then
        driveCall n i (modCall n i (fun c => afterFrag d.raw { c with bytes := c.bytes + fragLen d.raw c.frag }) s)
      else driveCall n i (modCall n i (fun c => { c with data := data, stage := .writeData }) s)
    | .commitOut =>
      if failed then driveCall n i (modCall n i fail s) else driveCall n i (modCall n i (fun c => { c with stage := .writeResult }) s)
    | .abortOut => driveCall n i (modCall n i (fun c => { c with stage := .writeResult }) s)
    | _ => s

/-- The answer to one access of a read for a row. -/
def callReadPart (n i : Nat) (got : List Byte) (len : Nat) (s : State) : State :=
  match descOf s n i with
  | none => s
  | some d =>
    if len ≤ got.length then callReadDone n i got s
    else
      let a := (stageRead d).1 + got.length
      hostAccess n (.callRead i got len) 0x41 a (granPart a (len - got.length)) [] s

end Sys2Proof.Machine
end

