-- ==== Sys2Proof/Machine/MemberOps.lean ====
section
/-! DEFINITION. MEMBER frames and the accelerators' origins (R394, R396, R397). -/

namespace Sys2Proof.Machine

open Sys2Proof

/-- HEALTH of the module (R394, R398): FAULT before DRAINING. -/
def healthOf (s : State) : Nat := if s.glb.fatal then 1 else if s.glb.drainReq then 2 else 0

def mkReach : Nat := 1
def mkAttach : Nat := 2
def mkDetach : Nat := 3
def mkLeaving : Nat := 4

def mbKind (h : Header) : Nat := (hdrByte h 8).toNat
def mbSubject (h : Header) : BitVec 12 := bitsOf h 80 12
def mbIncarn (h : Header) : W32 := bitsOf h 96 32

/-- A MEMBER frame of this module (R396). -/
def memberFrame (s : State) (src dst : BitVec 12) (mkind health subject incarn : Nat) (payload : List Byte) : Frame :=
  mkFrame (mkWb { type := 0x31, cls := .ctrl, plen := payload.length / 32, plane := planeIdx s, src := src.toNat, dst := dst.toNat
                  addr := mkind + health * 2 ^ 8 + subject * 2 ^ 16 + incarn * 2 ^ 32, length := payload.length }) payload

/-- The FNIDs of the spines, and of the leaves, of this plane. -/
def spineFnids (s : State) : List (BitVec 12) := (List.range (spinesM1 s + 1)).map (spineFnid s)
def leafFnids (s : State) : List (BitVec 12) := (List.range (leavesM1 s + 1)).map (slotFnid s)

/-- An announcement reaches this module's table (R397): an origin or INCARN that differs is a new admission (R176). -/
def applyOrigin (f : BitVec 12) (o : Origin) (s : State) : State :=
  let old := tabGet none s.rte.origins f.toNat
  let fresh := match old with | some x => decide (x.leaf ≠ o.leaf) || decide (x.port ≠ o.port) || decide (x.incarn ≠ o.incarn) | none => true
  let s := modRte (fun r => { r with origins := tabSet none r.origins f.toNat (some o) }) s
  if o.attached && fresh then admissionReset f s else s

/-- Announce block `n` to the spines, as attached or not. -/
def sendAttach (n : Nat) (up : Bool) (s : State) : State :=
  let e := epOf s n
  if isLeaf s then
    forEach (spineFnids s) (fun dst s =>
      emitFrame 127 (memberFrame s (myFnid s) dst (if up then mkAttach else mkDetach) (healthOf s) e.srcFnid.toNat e.incarn.toNat []) s) s
  else s

/-- Block `n` enters or leaves READY (R397): its accelerator is admitted on-die and announced. -/
def announce (n : Nat) (up : Bool) (s : State) : State :=
  let e := epOf s n
  if 0x800 ≤ e.srcFnid.toNat ∨ isSpine s then s
  else sendAttach n up (applyOrigin e.srcFnid ⟨BitVec.ofNat 6 (if singleStage s then 0 else mySlot s), BitVec.ofNat 6 n, e.incarn, up⟩ s)

end Sys2Proof.Machine
end

