-- ==== Sys2Proof/Machine/ArrCell.lean ====
section
/-! DEFINITION. One array's lockstep execution: cells, edges, the store and conversions, one program cycle at a time
(R309-R324). -/

namespace Sys2Proof.Machine

open Sys2Proof

/-! ## Slot fields (R312) -/

def slOp (x : BitVec 64) : Nat := (bitsOf x 58 6).toNat
def slType (x : BitVec 64) : Nat := (bitsOf x 54 4).toNat
def slA (x : BitVec 64) : Nat := (bitsOf x 50 4).toNat
def slB (x : BitVec 64) : Nat := (bitsOf x 46 4).toNat
def slC (x : BitVec 64) : Nat := (bitsOf x 42 4).toNat
def slDst (x : BitVec 64) : Nat := (bitsOf x 38 4).toNat
def slLa (x : BitVec 64) : Nat := (bitsOf x 36 2).toNat
def slLb (x : BitVec 64) : Nat := (bitsOf x 34 2).toNat
def slOut (x : BitVec 64) (lo : Nat) : Nat := (bitsOf x lo 4).toNat
def slBus (x : BitVec 64) : Nat := (bitsOf x 16 2).toNat
def slBusRow (x : BitVec 64) : Nat := (bitsOf x 4 12).toNat
def slBusStride (x : BitVec 64) : Int := (bitsOf x 0 4).toInt

/-- The type of operand A, and of B (R312): 0x9 is E4M3 with E5M2, 0xA the reverse. -/
def typeA (t : Nat) : Nat := if t = 9 then 7 else if t = 10 then 8 else t
def typeB (t : Nat) : Nat := if t = 9 then 8 else if t = 10 then 7 else t

/-- The lanes of a type in a 32-bit word. -/
def lanesOf (t : Nat) : Nat := if t = 7 ∨ t = 8 then 4 else if t = 5 ∨ t = 6 then 2 else 1
/-- The width in bits of a lane. -/
def laneBits (t : Nat) : Nat := 32 / lanesOf t
/-- Lane `l` of a word. -/
def laneOf (t l : Nat) (w : W32) : Nat := w.toNat / 2 ^ (laneBits t * l) % 2 ^ laneBits t

/-! ## Program fields (R319-R321, R330) -/

def phBase (p : BitVec 256) : Nat := (bitsOf p 0 8).toNat
def phII (p : BitVec 256) : Nat := (bitsOf p 8 8).toNat
def phIters (p : BitVec 256) : Nat := (bitsOf p 32 24).toNat
def phWest (p : BitVec 256) : W32 := bitsOf p 64 32
def phNorth (p : BitVec 256) : W32 := bitsOf p 96 32
def phSouth (p : BitVec 256) : W32 := bitsOf p 128 32
def phEast (p : BitVec 256) : W32 := bitsOf p 160 32
def phLen (p : BitVec 256) : Nat := phII p * phIters p

def edEn (e : W32) : Bool := bitAt e 31
def edHold (e : W32) : Nat := (bitsOf e 29 2).toNat
def edConvEn (e : W32) : Bool := bitAt e 28
def edConv (e : W32) : Nat := (bitsOf e 25 3).toNat
def edStep (e : W32) : Int := (bitsOf e 12 12).toInt
def edBase (e : W32) : Nat := (bitsOf e 0 12).toNat
/-- The row of an edge entry in phase cycle `t` (R317). -/
def edRow (e : W32) (t : Nat) : Nat := (((edBase e : Int) + (t / 2 ^ edHold e : Nat) * edStep e) % 4096).toNat

def cvSpec (c : BitVec 256) : BitVec 16 := bitsOf c 0 16
def cvScale (c : BitVec 256) : W32 := bitsOf c 32 32
def cvSeed (c : BitVec 256) : BitVec 64 := bitsOf c 64 64
/-- INDEX of an element converted under an entry (R321). -/
def cvIndex (c : BitVec 256) (k cell lane : Nat) : BitVec 64 :=
  BitVec.ofInt 64 ((bitsOf c 128 64).toNat + (k : Int) * (bitsOf c 192 32).toInt + (cell : Int) * (bitsOf c 224 32).toInt + (lane : Int))

def hdProg (h : BitVec 512) : BitVec 16 := bitsOf h 32 16
def hdVary (h : BitVec 512) : Bool := bitAt h 48
def hdServiceOk (h : BitVec 512) : Bool := bitAt h 49
def hdTickOk (h : BitVec 512) : Bool := bitAt h 50
def hdUcode (h : BitVec 512) : Nat := (bitsOf h 56 8).toNat
def hdPhases (h : BitVec 512) : Nat := (bitsOf h 64 8).toNat
def hdStreams (h : BitVec 512) : Nat := (bitsOf h 72 8).toNat
def hdConvs (h : BitVec 512) : Nat := (bitsOf h 80 8).toNat
def hdSlotLo (h : BitVec 512) : Nat := (bitsOf h 88 8).toNat
def hdSlotN (h : BitVec 512) : Nat := (bitsOf h 96 8).toNat
def hdCplLog (h : BitVec 512) : Nat := (bitsOf h 104 8).toNat
def hdStoreLo (h : BitVec 512) : Nat := (bitsOf h 112 11).toNat
def hdStoreCnt (h : BitVec 512) : Nat := (bitsOf h 128 16).toNat
def hdPreRow (h : BitVec 512) : Nat := (bitsOf h 144 12).toNat
def hdPreLen (h : BitVec 512) : Nat := (bitsOf h 160 32).toNat
def hdCplAddr (h : BitVec 512) : Nat := (bitsOf h 192 64).toNat
def hdCplTally (h : BitVec 512) : Nat := (bitsOf h 256 16).toNat
def hdCplTallyEn (h : BitVec 512) : Bool := bitAt h 272
def hdLen (h : BitVec 512) : Nat := (bitsOf h 288 32).toNat
def hdCrc (h : BitVec 512) : W32 := bitsOf h 320 32
def hdAmaxAddr (h : BitVec 512) : Nat := (bitsOf h 352 64).toNat

/-- LEN as the phases give it (R320). -/
def progLen (p : Prog) : Nat := (p.phases.map phLen).sum

/-- The phase of a program cycle and the cycle within it; none once the phases are over. -/
def phaseAt : List (BitVec 256) → Nat → Option (BitVec 256 × Nat)
  | [], _ => none
  | p :: ps, t => if t < phLen p then some (p, t) else phaseAt ps (t - phLen p)

/-! ## The store (R315, R316) -/

def storeRow (a : Arr) (r : Nat) : BitVec 1024 := tabGet 0 a.store r
def rowWord (r : BitVec 1024) (x : Nat) : W32 := bitsOf r (32 * x) 32
/-- Write word `x` of a row; a mark of an uncorrectable word clears. -/
def putWord (r x : Nat) (w : W32) (a : Arr) : Arr :=
  { a with store := tabMod 0 a.store r (fun o => putBits o (32 * x) 32 w.toNat), badWords := a.badWords.filter fun b => decide (b ≠ r * 32 + x) }
/-- Write a whole row, with the words of `bad` marked uncorrectable. -/
def putRow (r : Nat) (v : BitVec 1024) (bad : List Nat) (a : Arr) : Arr :=
  { a with store := tabSet 0 a.store r v
           badWords := (a.badWords.filter fun b => decide (b / 32 ≠ r)) ++ bad.map fun x => r * 32 + x }
/-- A row has a word marked uncorrectable. -/
def rowBad (a : Arr) (r : Nat) : Bool := a.badWords.any fun b => decide (b / 32 = r)

/-! ## Cells (R309-R311) -/

/-- The four inputs of a cell in a cycle. -/
structure Ins where
  n : W32
  e : W32
  s : W32
  w : W32
deriving DecidableEq, Repr

def vReg (c : Cell) (k : Nat) : W32 := bitsOf c.v (32 * k) 32

/-- A source by its code (R310). -/
def srcVal (c : Cell) (i : Ins) (code : Nat) : W32 :=
  if code < 8 then vReg c code
  else match code with
    | 8 => i.n
    | 9 => i.e
    | 10 => i.s
    | 11 => i.w
    | 12 => c.acc0
    | 13 => c.acc1
    | 14 => c.bus
    | _ => 0

/-- What an output drives by its code (R311); `hold` is what it drove before. -/
def outVal (c : Cell) (i : Ins) (hold : W32) (code : Nat) : W32 :=
  match code with
  | 0 => hold
  | 1 => i.n
  | 2 => i.e
  | 3 => i.s
  | 4 => i.w
  | 13 => c.acc0
  | 14 => c.acc1
  | 15 => 0
  | k => vReg c (k - 5)

/-- Write a register under a mask. A destination of 16 and above is a MAC's accumulator. -/
def setDst (c : Cell) (dst : Nat) (mask v : W32) : Cell :=
  let mix (old : W32) : W32 := (old &&& ~~~mask) ||| (v &&& mask)
  let d := dst % 16
  if d < 8 then { c with v := putBits c.v (32 * d) 32 (mix (vReg c d)).toNat }
  else if d = 12 then { c with acc0 := mix c.acc0 }
  else if d = 13 then { c with acc1 := mix c.acc1 }
  else if d = 14 then { c with bus := mix c.bus }
  else c

/-! ## Operations (R313) -/

/-- The cycles from issue to the result. -/
def latency (op : Nat) : Nat :=
  if op = 0x02 ∨ op = 0x03 ∨ op = 0x05 ∨ op = 0x0F then 4
  else if op = 0x04 ∨ op = 0x19 then 3
  else if op = 0x06 ∨ op = 0x07 ∨ op = 0x0D then 2
  else if op = 0x08 ∨ op = 0x09 then 16
  else 1

/-- The result of an operation of plain operands, and its flags: the operands as words `a`, `b`, `c`; `fa`, `fb` the lanes of A
and B as values. -/
def aluOp (op ty : Nat) (a b c : W32) (fa fb : FVal) : Nat × Nat :=
  let b32 (x : W32) : Nat × Nat := (x.toNat, 0)
  let cmp (x : Bool) : Nat × Nat := (if x then 0xFFFF_FFFF else 0, if isSnan fa || isSnan fb then flInvalid else 0)
  let wide (x : FVal) : Nat := (encodeF f32 .rne x).1
  let pick (second : Bool) : Nat × Nat :=
    if isNan fa || isNan fb then (f32.qnan, if isSnan fa || isSnan fb then flInvalid else 0) else (wide (if second then fb else fa), 0)
  let less (x y : W32) : Bool := if ty = 1 then x.slt y else x.ult y
  match op with
  | 0x01 => b32 a
  | 0x02 => ffma f32 fa fb (dec32 c)
  | 0x04 => fadd f32 fa fb
  | 0x05 => fmul f32 fa fb
  | 0x06 => pick (fltLt true fb fa)
  | 0x07 => pick (fltLt true fa fb)
  | 0x08 => fdiv f32 fa fb
  | 0x09 => fsqrt f32 fa
  | 0x0A => cmp (!isNan fa && !isNan fb && fltLt false fa fb)
  | 0x0B => cmp (!isNan fa && !isNan fb && !fltLt false fa fb && !fltLt false fb fa)
  | 0x0C => b32 (if c ≠ 0 then a else b)
  | 0x10 => b32 (a + b)
  | 0x11 => b32 (a - b)
  | 0x12 => b32 (a &&& b)
  | 0x13 => b32 (a ||| b)
  | 0x14 => b32 (a ^^^ b)
  | 0x15 => b32 (a <<< (b.toNat % 32))
  | 0x16 => b32 (a >>> (b.toNat % 32))
  | 0x17 => b32 (if less b a then b else a)
  | 0x18 => b32 (if less a b then b else a)
  | 0x19 => b32 (a * b)
  | 0x1A => convertF f32 .rne fa
  | _ => (0, 0)

/-- The sum that an accumulator forwards to a MAC: that of its last MAC still in flight, else what it holds (R313). -/
def accForward (r : Run) (cell dst : Nat) (c : Cell) : W32 :=
  match (r.writes.filter fun w => decide (w.cell = cell) && decide (w.dst = dst + 16)).getLast? with
  | some w => w.value
  | none => if dst = 12 then c.acc0 else c.acc1

/-- A result on its way to its register. -/
def addWrite (t lat cell dst : Nat) (mask : W32) (v : Nat) (fl : Nat) (r : Run) : Run :=
  { r with writes := r.writes ++ [⟨t + lat - 1, cell, dst, mask, BitVec.ofNat 32 v⟩], flags := r.flags ||| BitVec.ofNat 8 fl }

/-- One converted element: its bits in a lane, and the amax record of its entry (R260, R321). -/
def convertUnder (p : Prog) (j : Nat) (k cell lane : Nat) (x : FVal) (r : Run) : Nat × Nat × Run :=
  let cv := p.convs.getD j 0
  let (bits, fl) := convertElem (cvSpec cv) (cvScale cv) (cvSeed cv) r.step (cvIndex cv k cell lane) x
  (bits, fl, { r with amax := tabMod {} r.amax j (fun m => amaxAdd m (fmtOf (specDtype (cvSpec cv))) x bits fl) })

/-- The mask of a destination lane. -/
def laneMask (t l : Nat) : W32 := BitVec.ofNat 32 ((2 ^ laneBits t - 1) * 2 ^ (laneBits t * l))

/-- Issue the operation of a slot at cell `n` in program cycle `t`, at iteration `k` (R313, R321, R323). -/
def issueCell (p : Prog) (t k n : Nat) (sl : BitVec 64) (c : Cell) (i : Ins) (r : Run) : Run :=
  let op := slOp sl
  let ty := slType sl
  let a := srcVal c i (slA sl)
  let b := srcVal c i (slB sl)
  let cc := srcVal c i (slC sl)
  let fa := decodeF (fmtOf (typeA ty)) (laneOf (typeA ty) (slLa sl) a)
  let fb := decodeF (fmtOf (typeB ty)) (laneOf (typeB ty) (slLb sl) b)
  let dst := slDst sl
  let x := n % 32
  match op with
  | 0x00 => r
  | 0x03 =>
    let (v, fl) := ffma f32 fa fb (dec32 (accForward r n dst c))
    addWrite t 4 n (dst + 16) 0xFFFF_FFFF v fl r
  | 0x0D =>
    let j := slC sl % 8
    let target := specDtype (cvSpec (p.convs.getD j 0))
    let (bits, fl, r) := convertUnder p j k n (slLb sl) fa r
    addWrite t 2 n dst (laneMask target (slLb sl)) (bits * 2 ^ (laneBits target * slLb sl)) fl r
  | 0x0E => { r with xa := tabMod exactClear r.xa x (fun e => exactAdd e fa) }
  | 0x0F =>
    let j := slC sl % 8
    let cv := p.convs.getD j 0
    let target := specDtype (cvSpec cv)
    let e := tabGet exactClear r.xa x
    let (bits, fl) := exactRound (cvSpec cv) (cvScale cv) (cvSeed cv) r.step (cvIndex cv k n (slLb sl)) e
    let r := { r with xa := tabSet exactClear r.xa x exactClear
                      amax := tabMod {} r.amax j (fun m => amaxAdd m (fmtOf target) (exactVal e).1 bits fl) }
    addWrite t 4 n dst (laneMask target (slLb sl)) (bits * 2 ^ (laneBits target * slLb sl)) fl r
  | _ =>
    let (v, fl) := aluOp op ty a b cc fa fb
    addWrite t (latency op) n dst 0xFFFF_FFFF v fl r

/-! ## One program cycle -/

def cellOf (r : Run) (n : Nat) : Cell := tabGet {} r.cells n

/-- The run ends with a status; the larger one stands, with the first cause that gave it (R336). -/
def runStatus (st cause : Byte) (r : Run) : Run := if r.status < st then { r with status := st, cause := cause } else r

/-- What the array holds while a cycle is worked out: the array and the run, and whether a marked store word was read. -/
structure Cyc where
  arr : Arr
  run : Run
  bad : Bool

/-- The inputs of cell `n`: its neighbours' drivers of the cycle before, or the feeders' words (R309, R311). -/
def inputsOf (r : Run) (west north : BitVec 1024) (n : Nat) : Ins :=
  let y := n / 32
  let x := n % 32
  { n := if y = 0 then rowWord north x else (cellOf r (n - 32)).outS
    e := if x = 31 then 0 else (cellOf r (n + 1)).outW
    s := if y = 31 then 0 else (cellOf r (n + 32)).outN
    w := if x = 0 then rowWord west y else (cellOf r (n - 1)).outE }

/-- The row that a column-bus slot accesses at iteration `k` (R318). -/
def busRow (sl : BitVec 64) (k : Nat) : Nat := (((slBusRow sl : Int) + (k : Int) * slBusStride sl) % 4096).toNat

/-- The words that a collector writes, south or east, as driven in this cycle. -/
def collected (south : Bool) (cells : Tab Cell) : List W32 :=
  (List.range 32).map fun k => if south then (tabGet {} cells (31 * 32 + k)).outS else (tabGet {} cells (k * 32 + 31)).outE

/-- A row with a list of bytes laid over its start. -/
def rowOverlay (old : BitVec 1024) (bs : List Byte) : BitVec 1024 :=
  BitVec.ofNat 1024 (leNat (overlay (leBytes 128 old.toNat) 0 bs))

/-- A converting collector's row (R322): `w` counts its earlier writes in the phase. -/
def convertRow (p : Prog) (j w : Nat) (words : List W32) (old : BitVec 1024) (r : Run) : BitVec 1024 × Run :=
  let cv := p.convs.getD j 0
  let spec := cvSpec cv
  let f := fmtOf (specDtype spec)
  let sz := elemSize (specDtype spec)
  let vals := words.map dec32
  if specScale spec = 2 then
    let e := blockExp f vals
    let (bs, r) := vals.zipIdx.foldl (fun (acc : List Byte × Run) q =>
      let (bits, fl) := convertF f (modeOf spec (cvSeed cv) r.step (cvIndex cv w q.2 0)) (scale2 q.1 (-e))
      (acc.1 ++ leBytes sz bits, { acc.2 with flags := acc.2.flags ||| BitVec.ofNat 8 fl
                                              amax := tabMod {} acc.2.amax j (fun m => amaxAdd m f q.1 bits fl) })) ([], r)
    let row := rowOverlay old bs
    (putBits row 256 8 ((e + 127).toNat), r)
  else
    let (bs, r) := vals.zipIdx.foldl (fun (acc : List Byte × Run) q =>
      let (bits, fl, r) := convertUnder p j w q.2 0 q.1 acc.2
      (acc.1 ++ leBytes sz bits, { r with flags := r.flags ||| BitVec.ofNat 8 fl })) ([], r)
    (rowOverlay old bs, r)

/-- A collector's write of a phase cycle; `a0` is the array at its start. A word that the collector writes in part keeps its other bytes as
they stood then, since a lower write to that word is lost (R316, R322). -/
def collect (p : Prog) (a0 : Arr) (south : Bool) (e : W32) (t : Nat) (cells : Tab Cell) (c : Cyc) : Cyc :=
  let h := 2 ^ edHold e
  if !edEn e || decide (t % h ≠ h - 1) then c
  else
    let row := edRow e t
    let words := collected south cells
    if edConvEn e then
      let block := decide (specScale (cvSpec (p.convs.getD (edConv e) 0)) = 2)
      let old := storeRow c.arr row
      let old := if block then putBits old 256 32 (rowWord (storeRow a0 row) 8).toNat else old
      let (v, r) := convertRow p (edConv e) (t / h) words old c.run
      let n := if block then 9 else 8 * elemSize (specDtype (cvSpec (p.convs.getD (edConv e) 0)))
      let kept := (c.arr.badWords.filter fun b => decide (b / 32 = row) && decide (n ≤ b % 32)).map (· % 32)
      { c with arr := putRow row v kept c.arr, run := r }
    else { c with arr := putRow row (BitVec.ofNat 1024 (leNat (words.flatMap bvBytes))) [] c.arr }

/-- The column-bus writes of a cycle (R318). -/
def busWrites (a0 : Arr) (k slot : Nat) (r : Run) (ins : Nat → Ins) (a : Arr) : Arr :=
  (List.range 1024).foldl (fun a n =>
    let sl := tabGet 0 a0.slots (n * 64 + slot)
    if slBus sl = 2 then putWord (busRow sl k) (n % 32) (srcVal (cellOf r n) (ins n) (slC sl)) a else a) a

/-- The issues and the bus reads of a cycle, from the state at its start. -/
def issueAll (p : Prog) (a : Arr) (t k slot : Nat) (r0 : Run) (ins : Nat → Ins) : Run × Bool :=
  (List.range 1024).foldl (fun (acc : Run × Bool) n =>
    let sl := tabGet 0 a.slots (n * 64 + slot)
    let r := issueCell p t k n sl (cellOf r0 n) (ins n) acc.1
    if slBus sl = 1 then
      let row := busRow sl k
      (addWrite t 2 n 14 0xFFFF_FFFF (rowWord (storeRow a row) (n % 32)).toNat 0 r, acc.2 || a.badWords.contains (row * 32 + n % 32))
    else (r, acc.2)) (r0, false)

/-- The drivers of a cycle. -/
def driveAll (a : Arr) (slot : Nat) (r0 : Run) (ins : Nat → Ins) : Tab Cell :=
  (List.range 1024).foldl (fun cells n =>
    let sl := tabGet 0 a.slots (n * 64 + slot)
    let c := cellOf r0 n
    let i := ins n
    tabSet {} cells n { c with outN := outVal c i c.outN (slOut sl 30), outE := outVal c i c.outE (slOut sl 26)
                               outS := outVal c i c.outS (slOut sl 22), outW := outVal c i c.outW (slOut sl 18) }) r0.cells

/-- The results that are written at the end of cycle `t`. -/
def landWrites (t : Nat) (r : Run) : Run :=
  { r with cells := (r.writes.filter fun w => decide (w.at_ = t)).foldl (fun cs w => tabMod {} cs w.cell (fun c => setDst c w.dst w.mask w.value)) r.cells
           writes := r.writes.filter fun w => decide (w.at_ ≠ t) }

/-- The store rows that stream data fills at the end of cycle `t` (R325): the second row one cycle after the first. -/
def landFills (t : Nat) (c : Cyc) : Cyc :=
  let put (f : StoreFill) (k : Nat) (a : Arr) : Arr :=
    putRow (2 * f.granule + k) (BitVec.ofNat 1024 (fieldNat f.data (128 * k) 128)) ((f.bad.filter fun b => decide (b / 32 = k)).map (· % 32)) a
  let arr := c.run.fills.foldl (fun a f => if f.at_ = t then put f 0 a else if f.at_ + 1 = t then put f 1 a else a) c.arr
  { c with arr := arr, run := { c.run with fills := c.run.fills.filter fun f => decide (t < f.at_ + 1) } }

/-- One program cycle (R309, R316-R320). -/
def arrCycle (p : Prog) (c : Cyc) : Cyc :=
  let t := c.run.cyc
  let c := match phaseAt p.phases t with
    | none => c
    | some (ph, tp) =>
      let k := tp / max 1 (phII ph)
      let slot := phBase ph + tp % max 1 (phII ph)
      let a := c.arr
      let feed (e : W32) : BitVec 1024 := if edEn e then storeRow a (edRow e tp) else 0
      let fbad (e : W32) : Bool := edEn e && rowBad a (edRow e tp)
      let ins := inputsOf c.run (feed (phWest ph)) (feed (phNorth ph))
      let (r, busBad) := issueAll p a t k slot c.run ins
      let cells := driveAll a slot c.run ins
      let c1 : Cyc := { arr := busWrites a k slot c.run ins a, run := { r with cells := cells }
                        bad := c.bad || busBad || fbad (phWest ph) || fbad (phNorth ph) }
      collect p a true (phSouth ph) tp cells (collect p a false (phEast ph) tp cells c1)
  let c := landFills t { c with run := landWrites t c.run }
  { c with run := { c.run with cyc := t + 1 } }

/-- Run program cycles until `stop`; `fuel` bounds them. -/
def arrRun (p : Prog) : Nat → Nat → Cyc → Cyc
  | 0, _, c => c
  | fuel + 1, stop, c => if stop ≤ c.run.cyc then c else arrRun p fuel stop (arrCycle p c)

end Sys2Proof.Machine
end

