-- ==== Sys2Proof/Machine/ArrOps.lean ====
section
/-! DEFINITION. A running array program: its streams' order and the frames that it sends (R325, R327, R329, R335). -/

namespace Sys2Proof.Machine

open Sys2Proof

/-! ## Streams (R325) -/

def stKind (e : BitVec 256) : Nat := (bitsOf e 0 8).toNat
def stFlag (e : BitVec 256) : Bool := bitAt e 8
def stSubop (e : BitVec 256) : Byte := bitsOf e 16 8
def stDtype (e : BitVec 256) : Byte := bitsOf e 24 8
def stStart (e : BitVec 256) : Nat := (bitsOf e 32 32).toNat
def stCount (e : BitVec 256) : Nat := (bitsOf e 64 21).toNat
def stPeriod (e : BitVec 256) : Nat := (bitsOf e 96 16).toNat
def stBase (e : BitVec 256) : Nat := (bitsOf e 112 11).toNat
def stStep (e : BitVec 256) : Int := (bitsOf e 128 16).toInt
def stAddrStep (e : BitVec 256) : Int := (bitsOf e 160 32).toInt
def stAddr (e : BitVec 256) : BitVec 64 := bitsOf e 192 64

/-- The program cycle, store granule and address of access `i`. -/
def stIssue (e : BitVec 256) (i : Nat) : Nat := stStart e + i * stPeriod e
def stGranule (e : BitVec 256) (i : Nat) : Nat := (((stBase e : Int) + (i : Int) * stStep e) % 2048).toNat
def stTarget (e : BitVec 256) (i : Nat) : BitVec 64 := BitVec.ofInt 64 ((stAddr e).toNat + (i : Int) * stAddrStep e * 256)

/-- The resident program of an array (R333). -/
def residentProg (a : Arr) (prog : BitVec 16) : Option Prog := a.dir.find? fun p => decide (hdProg p.hdr = prog)

/-- Access (cycle, stream) `a` comes before `b` in issue order (R329). -/
def issueBefore (a b : Nat × Nat) : Bool := decide (a.1 < b.1) || (decide (a.1 = b.1) && decide (a.2 < b.2))

/-- The next access of each stream that has one left: (cycle, stream). -/
def nextIssues (p : Prog) (r : Run) : List (Nat × Nat) :=
  (p.streams.zipIdx).filterMap fun x =>
    let i := tabGet 0 r.next x.2
    if i < stCount x.1 then some (stIssue x.1 i, x.2) else none

def modRun (a : Nat) (f : Run → Run) (s : State) : State := modArray a (fun x => { x with run := x.run.map f }) s

/-! ## Frames of a run (R327, R335, R336) -/

/-- The place in issue order of the access that a frame or a context serves, when it is one of array `a`. -/
def accessOrder (p : Prog) (a : Nat) (o : CtxOwner) : Option (Nat × Nat) :=
  match o with
  | .stream b k i => if b = a then some (stIssue (p.streams.getD k 0) i, k) else none
  | _ => none

/-- A held flagged FPUT may go: every earlier access of the program is DONE (R199). -/
def fputMayGo (s : State) (p : Prog) (a : Nat) (f : NewFrame) : Bool :=
  match accessOrder p a f.owner with
  | none => true
  | some me =>
    let earlier (o : CtxOwner) : Bool := match accessOrder p a o with | some x => issueBefore x me | none => false
    (s.rte.rel.ctxs.all fun c => !(ctxOpen c.2 && earlier c.2.owner)) && (s.rte.rel.waiting.all fun w => !earlier w.owner)

/-- A held frame touches a line of an extent (R198). -/
def heldTouches (held : List NewFrame) (addr : BitVec 64) (len : Nat) : Bool := held.any fun h => sameLine h.addr.toNat h.length addr.toNat len

/-- Held frame `i` of array `a` may go: a flagged FPUT as the first one held, and an access to a flagged line once no frame held before it
touches its lines (R198, R199). -/
def heldMayGo (s : State) (p : Prog) (a : Nat) (held : List NewFrame) (i : Nat) : Bool :=
  match held[i]? with
  | none => false
  | some f => if f.flags % 2 = 1 then decide (i = 0) && fputMayGo s p a f else !heldTouches (held.take i) f.addr f.length

/-- Send the held frames of array `a` that may go; `fuel` bounds them. -/
def releaseFputs (a : Nat) : Nat → State → State
  | 0, s => s
  | fuel + 1, s =>
    match (arrOf s a).run with
    | none => s
    | some r =>
      match residentProg (arrOf s a) r.prog with
      | none => s
      | some p =>
        match (List.range r.flagged.length).find? (heldMayGo s p a r.flagged) with
        | none => s
        | some i => match r.flagged[i]? with
          | some f => releaseFputs a fuel (sendOrWait .rte f (modRun a (fun r => { r with flagged := nthDel r.flagged i }) s))
          | none => s

/-- The data of an FGET: the rows are filled at issue + 96 and 97 (R325). -/
def getArrives (g : PendingGet) (data : List Byte) (bad : Bool) (r : Run) : Run :=
  { r with gets := r.gets.filter fun x => decide (x ≠ g), fills := r.fills ++ [{ at_ := g.due, granule := g.granule, data := data, bad := if bad then List.range 64 else [] }] }

/-- An FGET of a run has its answer. One that fails brings no data (R378), and the spec does not say what its rows hold then: a free value,
marked uncorrectable after POISON (assumption 65). -/
def getAnswered (a : Nat) (g : PendingGet) (status : Byte) (data : List Byte) (s : State) : State :=
  if status = 0 then modRun a (getArrives g (slice data 0 256) false) s
  else
    let (d, s) := freeByteList 256 s
    modRun a (getArrives g d (decide (status = 0x15))) s

/-- An FPUT or FGET of array `a` has its answer: a failure ends the run with REMOTE, or POISON, and cause 9 (R336, R342). -/
def streamAnswered (a k i : Nat) (status : Byte) (data : List Byte) (s : State) : State :=
  let s := modRun a (fun r =>
    let r := { r with open_ := r.open_ - 1 }
    if status = 0 then r else runStatus (if status = 0x15 then 0x15 else 0x14) 9 r) s
  let s := match (arrOf s a).run with
    | some r => match r.gets.find? fun g => decide (g.stream = k) && decide (g.index = i) with
      | some g => getAnswered a g status data s
      | none => s
    | none => s
  let s := if status = 0 then s else devFault0 0x64 sevError a 0 s
  releaseFputs a 16 s

end Sys2Proof.Machine
end

