-- ==== Sys2Proof/Machine/StripOps.lean ====
section
/-! DEFINITION. The strips of a shard-group operation on their way: its entry and view, P and Q over GF(256), what a rank sends and writes of
each stripe, the frames of the plane and the relay's mailboxes (R403-R405, R407). -/

namespace Sys2Proof.Machine

open Sys2Proof

/-! ## Shard-group entries (R403) and views (R398) -/

def ecEntryOf (s : State) (k : Nat) : BitVec 384 := tabGet 0 s.mem.ecEntries k
def ecValid (e : BitVec 384) : Bool := bitAt e 0
def ecGid (e : BitVec 384) : Nat := (bitsOf e 8 7).toNat
def ecMyRank (e : BitVec 384) : Nat := (bitsOf e 16 8).toNat
def ecLog (e : BitVec 384) : Nat := (bitsOf e 24 8).toNat
def ecStripes (e : BitVec 384) : Nat := (bitsOf e 32 32).toNat
def ecBase (e : BitVec 384) : Nat := (bitsOf e 64 64).toNat
def ecMember (e : BitVec 384) (r : Nat) : BitVec 12 := bitsOf e (128 + 12 * r) 12
def ecTally (e : BitVec 384) : Nat := (bitsOf e 256 16).toNat
def ecTallyEn (e : BitVec 384) : Bool := bitAt e 272
def ecRelay (e : BitVec 384) : Bool := bitAt e 273
def ecRelayPort (e : BitVec 384) : Nat := (bitsOf e 280 6).toNat
def ecRelayAddr (e : BitVec 384) : Nat := (bitsOf e 320 64).toNat

def vwLive (w : BitVec 64) : BitVec 10 := bitsOf w 0 10
def vwStale (w : BitVec 64) : BitVec 10 := bitsOf w 10 10
def vwEpoch (w : BitVec 64) : W32 := bitsOf w 32 32
def vwMake (epoch : W32) (live stale : BitVec 10) : BitVec 64 := BitVec.ofNat 64 (epoch.toNat * 2 ^ 32 + stale.toNat * 2 ^ 10 + live.toNat)

/-- The view that the module has adopted for a group. -/
def viewOf (s : State) (gid : Nat) : BitVec 64 := tabGet 0 s.glb.viewWords gid

/-- A shard-group operation on this rank ends (R407): STATUS, an EC_FAIL record for a failure, the tally. -/
def endEc (status : Nat) (s : State) : State :=
  match s.mem.ecOp with
  | none => s
  | some o =>
    let e := ecEntryOf s o.entry
    let s := modMem (fun m => { m with ecOp := none, ecIn := [], ecStatus := BitVec.ofNat 3 status }) s
    let s := if status = 0 then s else devFault0 0x94 sevError o.entry 0 s
    if ecTallyEn e then tallyInc (ecTally e) s else s

/-! ## Arithmetic (R404) -/

/-- a^n by repeated multiplication. -/
def gfRaise (a : Byte) : Nat → Byte
  | 0 => 1
  | n + 1 => gfMul a (gfRaise a n)
/-- The inverse of a nonzero element: a^254. -/
def gfInv (a : Byte) : Byte := gfRaise a 254

/-- The sum of strips of `n` bytes. -/
def xorAll (n : Nat) (l : List (List Byte)) : List Byte := l.foldl xorBytes (zeros n)

/-- The parity ranks of a stripe. -/
def pRank (stripe : Nat) : Nat := stripe % 10
def qRank (stripe : Nat) : Nat := (stripe + 1) % 10
/-- The data ranks of a stripe, in order of their indices. -/
def dataRanks (stripe : Nat) : List Nat := (List.range 10).filter fun r => decide (r ≠ pRank stripe) && decide (r ≠ qRank stripe)

/-- P and Q of the data strips, each with its index. -/
def parityP (n : Nat) (d : List (Nat × List Byte)) : List Byte := xorAll n (d.map (·.2))
def parityQ (n : Nat) (d : List (Nat × List Byte)) : List Byte := xorAll n (d.map fun x => scaleBytes (gfPow x.1) x.2)

/-- The data strips that eight strips by rank determine: those given, and up to two that P and Q give. -/
def recoverData (n stripe : Nat) (got : Nat → Option (List Byte)) : List (Nat × List Byte) :=
  let idx := (dataRanks stripe).zipIdx
  let have_ := idx.filterMap fun x => (got x.1).map fun d => (x.2, d)
  let miss := (idx.filter fun x => (got x.1).isNone).map (·.2)
  let p := got (pRank stripe)
  let q := got (qRank stripe)
  match miss with
  | [i] =>
    match p, q with
    | some p, _ => have_ ++ [(i, xorBytes p (parityP n have_))]
    | none, some q => have_ ++ [(i, scaleBytes (gfInv (gfPow i)) (xorBytes q (parityQ n have_)))]
    | none, none => have_
  | [i, j] =>
    match p, q with
    | some p, some q =>
      let a := xorBytes p (parityP n have_)
      let b := xorBytes q (parityQ n have_)
      let k := gfInv (gfPow i ^^^ gfPow j)
      let di := scaleBytes k (xorBytes b (scaleBytes (gfPow j) a))
      have_ ++ [(i, di), (j, xorBytes a di)]
    | _, _ => have_
  | _ => have_

/-- The strip of rank `r` from eight others. -/
def rebuildStrip (n stripe r : Nat) (got : Nat → Option (List Byte)) : List Byte :=
  let d := recoverData n stripe got
  if r = pRank stripe then parityP n d
  else if r = qRank stripe then parityQ n d
  else match ((dataRanks stripe).zipIdx.find? fun x => decide (x.1 = r)) with
    | some (_, i) => ((d.find? fun x => decide (x.1 = i)).map (·.2)).getD (zeros n)
    | none => zeros n

/-! ## Who sends, and who writes (R407) -/

/-- The eight lowest LIVE ranks other than the rebuilt one. -/
def rebuildSenders (s : State) (o : EcOp) : List Nat :=
  ((List.range 10).filter fun r => decide (r ≠ o.rank) && bitAt (vwLive (viewOf s (ecGid (ecEntryOf s o.entry)))) r).take 8

/-- The ranks whose strips of a stripe this rank needs, and none when it writes nothing of it. -/
def stripSenders (s : State) (o : EcOp) (stripe : Nat) : List Nat :=
  let me := ecMyRank (ecEntryOf s o.entry)
  if o.rebuild then (if me = o.rank then rebuildSenders s o else [])
  else if me = pRank stripe ∨ me = qRank stripe then dataRanks stripe
  else []

/-- The ranks to which this rank sends its strip of a stripe. -/
def stripReceivers (s : State) (o : EcOp) (stripe : Nat) : List Nat :=
  let me := ecMyRank (ecEntryOf s o.entry)
  if o.rebuild then (if me ≠ o.rank ∧ (rebuildSenders s o).contains me then [o.rank] else [])
  else if (dataRanks stripe).contains me then [pRank stripe, qRank stripe]
  else []

/-- The first stripe from `i` on, of `n`, in which this rank has a part, and `n` with none. A part comes back every ten stripes (R404). -/
def nextPart (part : Nat → Bool) (n i : Nat) : Nat :=
  (((List.range 10).find? fun d => decide (i + d < n) && part (i + d)).map (i + ·)).getD n

def modEc (f : EcOp → EcOp) (s : State) : State :=
  let s := modMem (fun m => { m with ecOp := m.ecOp.map f }) s
  match s.mem.ecOp with
  | some o => modMem (fun m => { m with stripesDone := BitVec.ofNat 25 (min o.sendAt o.written) }) s
  | none => s

/-! ## Where strips lie (R404, R405) -/

/-- Where this rank's strip of a stripe lies. -/
def stripAddr (e : BitVec 384) (stripe : Nat) : Nat := ecBase e + stripe * 2 ^ ecLog e

/-- Where the frames of a strip that comes over the plane put it in its receiver's memory, which the spec does not give: a free value for each
group, sender and stripe, strip aligned (assumption 38). -/
def stripPlace (e : BitVec 384) (sender stripe : Nat) : Nat :=
  (Config.stripPlace (ecGid e) sender stripe).toNat % (stackedSize / 2 ^ ecLog e) * 2 ^ ecLog e

/-- A rank's module is on this plane. -/
def ecOnPlane (s : State) (e : BitVec 384) (r : Nat) : Bool := decide ((bitsOf (ecMember e r) 7 4).toNat = planeIdx s)

/-- Rank `r`'s mailbox in the relay area, and its strip buffer of a slot. -/
def mailbox (e : BitVec 384) (r : Nat) : Nat := ecRelayAddr e + r * (64 + 4 * 2 ^ ecLog e)
def mailBuffer (e : BitVec 384) (r slot : Nat) : Nat := mailbox e r + 64 + slot * 2 ^ ecLog e

/-- A slot word: 0 FREE, 1 CLAIMED, 2 READY. -/
def slotWordOf (state sender stripe : Nat) : Nat := state * 2 ^ 62 + sender * 2 ^ 58 + stripe

/-- The 256-byte pieces of a strip, each with its offset. -/
def stripPieces (bs : List Byte) : List (Nat × List Byte) := (chunks 256 (bs.length / 256) bs).zipIdx.map fun x => (256 * x.2, x.1)

/-! ## Sending (R405, R407) -/

/-- Claim a slot of the receiver's mailbox, expecting it FREE. Which slot is tried first, and next, is a DESIGN CHOICE (assumption 73). -/
def claimSlot (r slot : Nat) (o : EcOp) (s : State) : State :=
  let e := ecEntryOf s o.entry
  hostCas (ecRelayPort e) (.relayClaim o.num slot) (mailbox e r + 8 * slot) (slotWordOf 1 (ecMyRank e) o.sendAt) 0 s

/-- Begin to send the strip of the stripe to rank `r`: over the plane as STORE frames of the node requester, else through the relay. -/
def sendStrip (r : Nat) (o : EcOp) (s : State) : State :=
  let e := ecEntryOf s o.entry
  if ecOnPlane s e r then
    let ((d, bad), s) := dieRead (stripAddr e o.sendAt) (2 ^ ecLog e) s
    if bad then endEc 6 s
    else
      let base := (ecMember e r).toNat * 2 ^ 52 + stripPlace e (ecMyRank e) o.sendAt
      forEach (stripPieces d) (fun x s => sendOrWait .rte { type := 0x02, src := myFnid s, addr := BitVec.ofNat 64 (base + x.1)
                                                            length := 256, payload := x.2, port := 127, owner := .strip o.num } s)
        (modEc (fun o => { o with sendOut := 2 ^ ecLog e / 256 }) s)
  else if !ecRelay e ∨ (epOf s (ecRelayPort e)).attach ≠ .ready then endEc 4 s
  else claimSlot r 0 o (modEc (fun o => { o with sendOut := 1 }) s)

/-- Go on sending: a stripe after the other, and its receivers in order. -/
def ecPump (s : State) : State :=
  match s.mem.ecOp with
  | none => s
  | some o =>
    if 0 < o.sendOut then s
    else match o.sendTo with
      | r :: _ => sendStrip r o s
      | [] =>
        let n := ecStripes (ecEntryOf s o.entry)
        let i := nextPart (fun i => !(stripReceivers s o i).isEmpty) n o.sendAt
        let ranks := if i < n then stripReceivers s o i else []
        let s := modEc (fun o => { o with sendAt := i, sendTo := ranks }) s
        match ranks, s.mem.ecOp with
        | r :: _, some o => sendStrip r o s
        | _, _ => s

/-- The strip has reached a receiver. -/
def stripSent (s : State) : State :=
  ecPump (modEc (fun o =>
    { o with sendOut := 0, sendTo := o.sendTo.drop 1, sendAt := if o.sendTo.length ≤ 1 then o.sendAt + 1 else o.sendAt }) s)

/-- Run `f` on the operation when it is number `num`: an answer for one that has ended is nothing to it. -/
def forEc (num : Nat) (f : EcOp → State → State) (s : State) : State :=
  match s.mem.ecOp with
  | some o => if o.num = num then f o s else s
  | none => s

/-- A STORE frame of a strip has its answer: a failure ends the operation with TRANSPORT. -/
def stripAnswered (num : Nat) (status : Byte) (s : State) : State :=
  forEc num (fun o s =>
    if status ≠ 0 then endEc 4 s
    else if o.sendOut ≤ 1 then stripSent s
    else modEc (fun o => { o with sendOut := o.sendOut - 1 }) s) s

/-- A CAS of a slot word has its answer, the old word. A slot that was not FREE leaves the next one to try; a claimed one gets the strip. -/
def relayClaimed (num slot : Nat) (old : Nat) (s : State) : State :=
  forEc num (fun o s =>
    let e := ecEntryOf s o.entry
    match o.sendTo with
    | [] => s
    | r :: _ =>
      if old ≠ 0 then claimSlot r ((slot + 1) % 4) o s
      else
        let ((d, bad), s) := dieRead (stripAddr e o.sendAt) (2 ^ ecLog e) s
        if bad then endEc 6 s
        else
          forEach (stripPieces d) (fun x s => hostAccess (ecRelayPort e) (.relayStore num) 0x42 (mailBuffer e r slot + x.1) 256 x.2 s)
            (modEc (fun o => { o with sendOut := 2 ^ ecLog e / 256, slot := slot }) s)) s

/-- A store of a strip is answered: after the last one READY is stored. -/
def relayStored (num : Nat) (s : State) : State :=
  forEc num (fun o s =>
    let e := ecEntryOf s o.entry
    if 1 < o.sendOut then modEc (fun o => { o with sendOut := o.sendOut - 1 }) s
    else match o.sendTo with
      | [] => s
      | r :: _ => hostAccess (ecRelayPort e) (.relayReady num) 0x42 (mailbox e r + 8 * o.slot) 8 (leBytes 8 (slotWordOf 2 (ecMyRank e) o.sendAt)) s) s

/-! ## Writing (R407) -/

/-- The key of a strip that the relay has brought, and the strip. -/
def stripKey (stripe sender : Nat) : Nat := stripe * 16 + sender
def stripIn (s : State) (stripe : Nat) (r : Nat) : Option (List Byte) :=
  match tabGet [] s.mem.ecIn (stripKey stripe r) with | [] => none | d => some d

/-- The strips of a stripe that come through the relay are in. -/
def relayIn (s : State) (o : EcOp) (stripe : Nat) : Bool :=
  (stripSenders s o stripe).all fun r => ecOnPlane s (ecEntryOf s o.entry) r || (stripIn s stripe r).isSome

/-- The strips of the senders, those of the plane from where their frames have put them; the Bool says that one is poisoned. -/
def gatherStrips (e : BitVec 384) (stripe : Nat) : List Nat → State → (List (Nat × List Byte) × Bool) × State
  | [], s => (([], false), s)
  | r :: l, s =>
    let ((d, bad), s) := if ecOnPlane s e r then dieRead (stripPlace e r stripe) (2 ^ ecLog e) s else (((stripIn s stripe r).getD [], false), s)
    let ((ds, bad2), s) := gatherStrips e stripe l s
    (((r, d) :: ds, bad || bad2), s)

/-- Compute this rank's strip of a stripe and write it. -/
def writeStrip (o : EcOp) (stripe : Nat) (s : State) : State :=
  let e := ecEntryOf s o.entry
  let ((got, bad), s) := gatherStrips e stripe (stripSenders s o stripe) s
  if bad then endEc 6 s
  else
    let strip := rebuildStrip (2 ^ ecLog e) stripe (ecMyRank e) fun r => (got.find? fun x => decide (x.1 = r)).map (·.2)
    let s := (dieWrite (stripAddr e stripe) strip s).2
    modEc (fun o => { o with written := stripe + 1 })
      (modMem (fun m => { m with ecIn := tabClear m.ecIn (stripKey stripe 0) (stripKey stripe 16) }) s)

/-- Write the strips that this rank has a part in, a stripe after the other, as far as they are known to be in: those of the relay, and where
`all`, at the end of the operation, those of the plane; `fuel` bounds the stripes. -/
def writeStrips (all : Bool) : Nat → State → State
  | 0, s => s
  | fuel + 1, s =>
    match s.mem.ecOp with
    | none => s
    | some o =>
      let e := ecEntryOf s o.entry
      let n := ecStripes e
      let i := nextPart (fun i => !(stripSenders s o i).isEmpty) n o.written
      let s := modEc (fun o => { o with written := i }) s
      if i < n ∧ relayIn s o i ∧ (all ∨ (stripSenders s o i).all fun r => !ecOnPlane s e r) then writeStrips all fuel (writeStrip o i s) else s

end Sys2Proof.Machine
end

