-- ==== Sys2Proof/Machine/Complete.lean ====
section
/-! DEFINITION. What follows the end of a context, of a delivery and of a fetch: the work of descriptors, collectives and
calls goes on (R82, R84, R96, R158, R172-R175, R180, R193, R200, R282, R355). -/

namespace Sys2Proof.Machine

open Sys2Proof

/-! ## The work of an end-point block -/

/-- Start COLLECTIVE and SERVICE descriptors whose turn has come (R98, R297, R356). -/
def startOther (n i : Nat) (s : State) : State :=
  match descOf s n i with
  | none => s
  | some d =>
    if d.started || !mayStartDesc s n d then s
    else if isCollective d.raw then
      match colRank s d.raw (epOf s n).srcFnid 0 with
      | some r => offerMember { binder := .ep n i, rank := r, raw := d.raw } (modDesc n i (fun d => { d with started := true }) s)
      | none => finishDesc n i (modDesc n i (fun d => { d with status := 0x10 }) s)
    else if isService d.raw then driveCall n i (modDesc n i (fun d => { d with started := true }) s)
    else s

/-- Start what can start and complete what can complete, of every kind. -/
def workPass (n : Nat) (s : State) : State :=
  let s := ringWork n s
  forEach ((epOf s n).descs.map (·.1)) (startOther n) s

def workPasses (n : Nat) : Nat → State → State
  | 0, s => s
  | fuel + 1, s => workPasses n fuel (workPass n s)

/-- Everything that the block's descriptors can do without a context, and rings that can close. A pass that changes nothing settles no
more; as many as there are COLLECTIVE and SERVICE descriptors, and one, are enough. -/
def epWork (n : Nat) (s : State) : State :=
  let others := ((epOf s n).descs.filter fun e => match e.2 with | some d => isCollective d.raw || isService d.raw | none => false).length
  let s := ringWork n (workPasses n (others + 1) s)
  forEach (((epOf s n).rings.filter fun e => e.2.closing.isSome).map (·.1)) (closeRing n) s

/-! ## Direct requests (R193) -/

/-- Two direct contexts touch one line. -/
def ctxSameLine (a b : Ctx) : Bool :=
  sameLine (wbAddr a.frame.wb).toNat (wbLength a.frame.wb) (wbAddr b.frame.wb).toNat (wbLength b.frame.wb)

/-- A HELD context whose earlier responses to its lines are all sent, refusals among them. -/
def releasable (e : Ep) (c : Ctx) : Bool :=
  match ctxDirect c with
  | none => true
  | some o =>
    (e.rel.ctxs.all fun x => match ctxDirect x.2 with
      | some q => !(decide (q < o) && ctxOpen x.2 && ctxSameLine x.2 c)
      | none => true)
    && e.refusals.all fun x => !(decide (x.1.ord < o)
        && sameLine x.1.addr.toNat (msgLength x.1.msg) (wbAddr c.frame.wb).toNat (wbLength c.frame.wb))

/-- Send the RSP of HELD direct contexts, and of refused requests, that need wait no longer; `fuel` bounds them. -/
def releaseHeldN (n : Nat) : Nat → State → State
  | 0, s => s
  | fuel + 1, s =>
    let e := epOf s n
    match e.rel.ctxs.find? fun x => decide (x.2.st = .held) && releasable e x.2 with
    | some (i, c) =>
      (match c.owner with
      | .direct ctag _ _ _ =>
        let s := modCtx (.ep n) i (fun c => { c with st := .done }) s
        releaseHeldN n fuel (if c.silent then freeCtx (.ep n) i s else rspToCtl n ctag c.status c.data (some i) s)
      | _ => s)
    | none =>
      match e.refusals.find? fun x => !lineUnanswered e x.1 with
      | none => s
      | some x =>
        releaseHeldN n fuel (refuseDirect n x.1.msg x.2
          (modEp n (fun e => { e with refusals := e.refusals.filter fun y => decide (y.1.ord ≠ x.1.ord) }) s))

def releaseHeld (n : Nat) (s : State) : State :=
  releaseHeldN n ((epOf s n).rel.ctxs.length + (epOf s n).refusals.length + 1) s

/-! ## Completion of a context -/

/-- A frame that writes. -/
def ctxWrites (c : Ctx) : Bool := decide (wbType c.frame.wb ≠ 0x01)

/-- The end of one frame of a data descriptor: its totals, its second half for a COPY, or its result (R95, R97, R204). -/
def descFrameDone (n i : Nat) (p : Piece) (second : Bool) (c : Ctx) (status : Byte) (data : List Byte) (s : State) : State :=
  match descOf s n i with
  | none => s
  | some d =>
    let s := modDesc n i (fun d => { d with inflight := d.inflight - 1, status := maxStatus d.status status }) s
    let s := if ctxWrites c && (decide (status = 0x12) || decide (status = 0x14)) then
        modRing n d.ring (fun g => { g with failed := g.failed ++ [d.covers] }) s else s
    if status ≠ 0 then s
    else if isCopy d.raw && !second then
      modDesc n i (fun d => { d with ready := insertPiece ({ p with got := [] }, p.got ++ slice data 0 (wbLength c.frame.wb)) d.ready }) s
    else
      let s := modDesc n i (fun d => { d with bytes := d.bytes + p.len }) s
      if isGet d.raw then writeResult n i p.local_.toNat 3 (slice data 0 p.len) s
      else if isAtomic d.raw && fetches (dSubop d.raw) then writeResult n i (dAddrB d.raw) 3 (slice data 0 p.len) s
      else s

/-- A context of a source completes with a status and data (R84, R180). -/
def completeCtx (p : Point) (i : Nat) (status : Byte) (data : List Byte) (s : State) : State :=
  let c := ctxOf s p i
  if !ctxOpen c then s
  else match c.owner with
    | .direct _ _ _ _ =>
      match p with
      | .ep n =>
        let s := modCtx p i (fun c => { c with st := .held, status := status, data := data }) s
        releaseHeld n s
      | .rte => freeCtx p i s
    | .desc slot piece second =>
      match p with
      | .ep n => epWork n (descFrameDone n slot piece second c status data (freeCtx p i s))
      | .rte => freeCtx p i s
    | .call slot =>
      match p with
      | .ep n => epWork n (callReply n slot status data (freeCtx p i s))
      | .rte => freeCtx p i s
    | .chunk slot j frag =>
      let s := freeCtx p i s
      if status = 0 ∨ status = 0x14 ∨ status = 0x15 then chunkAnswered slot j frag (fCkind c.frame.wb) s else s
    | .stream a k j => streamAnswered a k j status data (freeCtx p i s)
    | .strip k => stripAnswered k status (freeCtx p i s)
    | .notify t => let s := freeCtx p i s; if status = 0 then s else notifyFailed t s
    | _ => freeCtx p i s

/-- The contexts of a series that are ISSUED. -/
def issuedOf (s : State) (p : Point) (key : Nat) : List Nat :=
  ((relOf s p).ctxs.filter fun e => decide (e.2.st = .issued) && decide (ctxSeries e.2 = key)).map (·.1)

/-- Complete contexts with TIMEOUT, each counted (R182). -/
def timeoutAll (p : Point) (l : List Nat) (s : State) : State := forEach l (fun i s => completeCtx p i 0x12 [] (countTimeout p s)) s

/-- Flush an ORDERED series (R175): its generation advances, and its ISSUED contexts complete with TIMEOUT. What they cause to be sent
belongs to the new generation. -/
def flushSeries (p : Point) (key : Nat) (s : State) : State := timeoutAll p (issuedOf s p key) (bumpSeries p key s)

/-- A context completes with TIMEOUT. An ORDERED one flushes its series (R174, R175). -/
def timeoutCtx (p : Point) (i : Nat) (s : State) : State :=
  let c := ctxOf s p i
  if c.st ≠ .issued then s
  else
    let key := ctxSeries c
    let s := relFault p 0x09 0x30 sevError 0x12 (wbDst c.frame.wb).toNat (wbTag c.frame.wb).toNat (wbSrc c.frame.wb) s
    if key % 2 = 1 then timeoutAll p [i] s else flushSeries p key s

/-! ## Deliveries and host accesses (R81, R82) -/

/-- The status that a controller's answer becomes (R82). -/
def mapStatus (st : Byte) : Byte := if st = 0x20 ∨ st = 0x21 then 0x14 else st

/-- HOST_ERR (R82, R104), with the address of the access (R103). -/
def hostErr (n ring addr : Nat) (s : State) : State := epFault n 0x0D sevError 0 ring addr (epOf s n).srcFnid (haltRing n ring 4 s)

/-- One of the block's own accesses, at `addr` and for ring `ring`, failed with a controller's answer, or with a timeout (`timedOut`), which
halts the ring. -/
def hostFailed (n : Nat) (h : HostUse) (ring addr : Nat) (status : Byte) (timedOut : Bool) (s : State) : State :=
  let s := if timedOut then haltRing n ring 4 s else s
  let ringFail (r : Nat) (s : State) : State := if timedOut then s else hostErr n r addr s
  let descFail (i : Nat) (reading : Bool) (s : State) : State :=
    epWork n (modDesc n i (fun d => if reading then { d with reading := d.reading - 1, status := maxStatus d.status status }
      else { d with writing := d.writing - 1, status := maxStatus d.status status }) s)
  match h with
  | .fetch r _ => epWork n (ringFail r (modRing n r (fun g => { g with fetching := false }) s))
  | .source i p _ => descFail i true (modDesc n i (fun d => { d with sources := d.sources.erase p }) s)
  | .result i _ => descFail i false s
  | .cpl r _ _ => ringFail r s
  | .cairnWrite r k => epWork n (reportAnswered n r k false s)
  | .cairnRead r _ => epWork n (cairnRead n r false [] s)
  | .chunkRead k _ r _ =>
    modMember k r (fun m => { m with status := maxStatus m.status status }) s
  | .callRead i _ _ => epWork n (callHostFailed n i status s)
  | .callWrite i => epWork n (callHostFailed n i status (modDesc n i (fun d => { d with writing := d.writing - 1 }) s))
  | .relayClaim k _ | .relayStore k | .relayReady k => forEc k (fun _ => endEc 4) s
  | .gone => s

/-! ## Descriptors at fetch (R96, R200, R282, R355) -/

/-- The lowest free descriptor slot of a block (R90). -/
def freeDesc (s : State) (n : Nat) : Option Nat := (List.range 256).find? fun i => (descOf s n i).isNone

/-- The toll of a descriptor of R95, a KERNEL_START and a NOP among them: WIN_A, then WIN_B for a COPY (R96). Gives the code, the window
and the offset. -/
def descToll (s : State) (n : Nat) (d : BitVec 512) : Byte × BitVec 10 × Nat :=
  let a := tollCode s n (winOf s n (dWinA d)) (dEpochA d) (descRights d) (dSched d) false (dOffsetA d) (dLength d)
  if a ≠ 0 then (a, dWinA d, dOffsetA d)
  else if isCopy d then (tollCode s n (winOf s n (dWinB d)) (dEpochB d) [122] (dSched d) false (dAddrB d) (dLength d), dWinB d, dAddrB d)
  else (0, 0, 0)

/-- A COLLECTIVE's checks at fetch (R282): the status, and what the failure records. -/
def colToll (s : State) (n : Nat) (d : BitVec 512) : Byte :=
  if !colFormatOk s d (2 ^ 52) false then 0x10
  else tollFirst s n (winOf s n (dWinA d)) (dEpochA d) (colRights d) false

/-- Place a fetched descriptor in a slot; it forms its cairn point if it is one (R200). -/
def placeDesc (n r i : Nat) (index : W32) (raw : BitVec 512) (s : State) : State :=
  let wa := winOf s n (dWinA raw)
  let wb := winOf s n (dWinB raw)
  let k := (ringOf s n r).pointCount + 1
  let d : Desc := { ring := r, index := index, raw := raw, addrA := stampAddr wa (if isService raw then vOffset raw else dOffsetA raw)
                    addrB := stampAddr wb (dAddrB raw), winA := dWinA raw, winB := if isCopy raw then some (dWinB raw) else none, covers := k
                    sched := if dSched raw && decide ((dOpcode raw).toNat ≤ 7) then .held else .unscheduled, schedPut := dSched raw && isPut raw && decide (winClass wa = 1)
                    point := if isPoint raw then some k else none }
  let s := setDesc n i (some d) s
  if isPoint raw then
    modRing n r (fun g => { g with pointCount := k, points := g.points ++
      [{ num := k, index := index, slot := some i, kernelStart := isKernelStart raw, ownsFlag := hasFlagLine raw && ownsFlagLine s d }] }) s
  else s

/-- A descriptor that fails at fetch completes at once with its status; it keeps its point number (R96, R200). -/
def failDesc (n r : Nat) (index : W32) (raw : BitVec 512) (status : Byte) (s : State) : State :=
  let k := (ringOf s n r).pointCount + 1
  let s := if isPoint raw then
      modRing n r (fun g => { g with pointCount := k, points := g.points ++
        [{ num := k, index := index, slot := none, kernelStart := isKernelStart raw, ownsFlag := false }] }) s else s
  sendCpl n r index status 0 (dNotify raw) s

/-- A fetched descriptor is checked and, when it passes, starts (R96). A FORMAT record's DETAIL is the descriptor's address. DEDUCED
(assumption 51). -/
def fetched (n r : Nat) (index : W32) (raw : BitVec 512) (s : State) : State :=
  let at_ := (ringOf s n r).sqBase.toNat + ringIdx (ringOf s n r) index * 64
  let s := modRing n r (fun g => { g with fetching := false, head := g.head + 1 }) s
  match freeDesc s n with
  | none => s
  | some i =>
    if isCollective raw then
      let c := colToll s n raw
      if c = 0x10 then failDesc n r index raw c (formatFault n r at_ s)
      else if c ≠ 0 then failDesc n r index raw c (tollFailed n (dWinA raw) c 0 s)
      else match colRank s raw (epOf s n).srcFnid 0 with
        | none => failDesc n r index raw 0x10 (devFault0 0x50 sevWarn (colSlotOf (cColId raw)) 0 s)
        | some _ => epWork n (placeDesc n r i index raw s)
    else if isService raw then
      if !svcFormatOk s n raw then failDesc n r index raw 0x10 (formatFault n r at_ s)
      else
        let w := winOf s n (dWinA raw)
        let c := tollCode s n w (dEpochA raw) [122] false false (vOffset raw) 256
        if c ≠ 0 then failDesc n r index raw c (tollFailed n (dWinA raw) c (vOffset raw) s)
        else if (bitsOf (winFnid w) 7 4).toNat ≠ planeIdx s then failDesc n r index raw 0 s
        else epWork n (placeDesc n r i index raw s)
    else if !descFormatOk s n raw then failDesc n r index raw 0x10 (formatFault n r at_ s)
    else
      let (c, w, o) := descToll s n raw
      if c ≠ 0 then failDesc n r index raw c (tollFailed n w c o s)
      else epWork n (placeDesc n r i index raw s)

/-- One of the block's own accesses is answered well, with data for a read (R81, R97, R100). -/
def hostOk (n : Nat) (h : HostUse) (data : List Byte) (s : State) : State :=
  match h with
  | .fetch r index =>
    let g := ringOf s n r
    if g.state = .active ∧ g.fetching ∧ index = g.head then fetched n r index (BitVec.ofNat 512 (leNat (slice data 0 64))) s
    else epWork n (modRing n r (fun g => { g with fetching := false }) s)
  | .source i p got =>
    let all := got ++ data
    if p.len ≤ all.length then
      epWork n (modDesc n i (fun d => { d with reading := d.reading - 1, sources := d.sources.erase p, ready := insertPiece (p, all.take p.len) d.ready }) s)
    else readSource n i p all s
  | .result i _ => epWork n (modDesc n i (fun d => { d with writing := d.writing - 1 }) s)
  | .cpl r index notify => if notify then epSend n (ctlMsg 0x29 [(2, r), (4, index.toNat)]) s else s
  | .cairnWrite r k => epWork n (reportAnswered n r k true s)
  | .cairnRead r _ => epWork n (cairnRead n r true data s)
  | .chunkRead k j r got =>
    match chunkAt (slotOf s k) j, memberAt (slotOf s k) r, chunkView s (slotOf s k) j with
    | some _, some m, some (d, _, g, kk) => colWork k (readChunk n k j r (cSend m.raw + sendOff d g kk) (chunkLen d g kk) (got ++ data) s)
    | _, _, _ => s
  | .callRead i got len => epWork n (callReadPart n i (got ++ data) len s)
  | .callWrite i => epWork n (callWriteDone n i s)
  | .relayClaim k slot => relayClaimed k slot (leNat (slice data 0 8)) s
  | .relayStore k => relayStored k s
  | .relayReady k => forEc k (fun _ => stripSent) s
  | .gone => s

/-- A delivery brings a part of a fragment of a chunk to a rank. -/
def ofFrag (k j r f : Nat) (d : Delivery) : Bool :=
  match d.use with
  | .chunk a b c e _ => decide (a = k) && decide (b = j) && decide (c = r) && decide (e = f)
  | _ => false

/-- Parts of the fragment are still to be answered: the frame is answered after the last one (R295). -/
def fragOut (s : State) (n k j r f : Nat) : Bool :=
  (epOf s n).dlvQueue.any (ofFrag k j r f) || (epOf s n).dlvSlots.any fun x => match x.2.busy with | some d => ofFrag k j r f d | none => false

/-- They keep the worst status so far. -/
def noteWorst (n k j r f : Nat) (st : Byte) (s : State) : State :=
  let note (d : Delivery) : Delivery := if ofFrag k j r f d then { d with worst := maxStatus d.worst st } else d
  modEp n (fun e => { e with
    dlvQueue := e.dlvQueue.map note
    dlvSlots := e.dlvSlots.map fun x => (x.1, { x.2 with busy := x.2.busy.map note }) }) s

/-- A delivery is over: `status` is the controller's, or REMOTE when it did not answer in time (R81, R82). -/
def deliveryDone (n : Nat) (d : Delivery) (status : Byte) (data : List Byte) (timedOut : Bool) (s : State) : State :=
  let st := mapStatus status
  match d.use with
  | .remote wb dup =>
    let fetch := decide (wbType wb = 0x01) || (decide (wbType wb = 0x03) && fetches (wbSubop wb))
    let s := if st = 0 then noteVary (wbVary wb) s else s
    answer (.request (.ep n) wb dup) st (if st = 0 && fetch then some (slice data 0 (wbLength wb)) else none)
      (if fetch then slice data 0 8 else []) s
  | .chunk k j r f wb =>
    let s := colWork k (chunkStored k j r st d.len (if timedOut then haltRing n d.ring 4 s else s))
    let worst := maxStatus d.worst st
    (match wb with
    | none => s
    | some h => if fragOut s n k j r f then noteWorst n k j r f worst s else answer (.request (.ep n) h false) worst none [] s)
  | .host h => if st = 0 then hostOk n h data s else hostFailed n h d.ring d.addr.toNat st timedOut s

/-! ## RSP (R71, R81, R82) -/

/-- The payload that an answer to a delivery carries (R71). -/
def rspPlen (d : Delivery) (status : Byte) : Nat :=
  if status ≠ 0 then 0 else if d.opcode = 0x41 then (d.len + 31) / 32 else if d.opcode = 0x43 ∧ fetches d.subop then 1 else 0

/-- The delivery that an RSP answers: its DTAG names the slot, the block and the slot's generation (R70, R82). -/
def rspMatch (s : State) (n : Nat) (m : AttachMsg) : Option Delivery :=
  let tag := (msgTag m).toNat
  let x := tabGet {} (epOf s n).dlvSlots (tag % 4096)
  if tag / 2 ^ 18 = x.gen.toNat ∧ tag / 2 ^ 12 % 64 = n then x.busy else none

/-- A well-formed RSP takes effect: it ends its delivery, or is counted in LATE_RSP. -/
def rspApply (n : Nat) (m : AttachMsg) (s : State) : State :=
  match rspMatch s n m with
  | some d =>
    let st : Byte := if msgStatus m = 0 ∨ msgStatus m = 0x15 ∨ msgStatus m = 0x20 then msgStatus m else 0x21
    if msgPlen m ≠ rspPlen d st then formatFault n 0xFFFF (msgTag m).toNat s
    else pumpDlv n (deliveryDone n d st m.payload false (freeDlvSlot n ((msgTag m).toNat % 4096) s))
  | none => modEp n (fun e => { e with lateRsp := satAdd e.lateRsp 1 }) s

/-- A delivery whose answer becomes a response frame of the block's port. -/
def dlvIsRemote (d : Delivery) : Bool :=
  match d.use with | .remote _ _ => true | .chunk _ _ _ _ (some _) => true | _ => false

/-- An answer waits in the A-RSP buffer: the port's ingress is OFF for the class of the response that it becomes, or another waits
(R67, R133). DEDUCED (assumption 50). -/
def rspWaits (s : State) (n : Nat) (m : AttachMsg) : Bool :=
  match rspMatch s n m with
  | some d => dlvIsRemote d && (ingressOff s n 2 || !(epOf s n).aRsp.isEmpty)
  | none => false

/-- Take the answers that need wait no longer; `fuel` bounds them. -/
def drainRspN (n : Nat) : Nat → State → State
  | 0, s => s
  | fuel + 1, s =>
    match (epOf s n).aRsp with
    | [] => s
    | m :: rest =>
      if ingressOff s n 2 then s
      else drainRspN n fuel (rspApply n m (modEp n (fun e => { e with aRsp := rest }) s))

def drainRsp (n : Nat) (s : State) : State :=
  if (epOf s n).aRsp.isEmpty then s else flowCheck n (drainRspN n (epOf s n).aRsp.length s)

/-- An answer to slot `slot` waits in the A-RSP buffer. -/
def answerWaits (e : Ep) (slot : Nat) : Bool := e.aRsp.any fun m => decide ((msgTag m).toNat % 4096 = slot)

/-- End a delivery in a slot as a delivery timeout (R76, R82); one whose answer waits in the buffer has been answered. -/
def dlvExpire (n slot : Nat) (s : State) : State :=
  match (tabGet {} (epOf s n).dlvSlots slot).busy with
  | none => s
  | some d =>
    if answerWaits (epOf s n) slot then s else
    let s := epFault n 0x05 sevError 0 slot d.addr.toNat (dlvSrc d) (freeDlvSlot n slot s)
    deliveryDone n d 0x14 [] true s

/-! ## Attach reset (R76) -/

/-- Deliveries not yet handed over end with REMOTE; the block's own accesses wait for READY (assumption 26). -/
def dropQueued (n : Nat) (s : State) : State :=
  let gone := (epOf s n).dlvQueue.filter fun d => !dlvIsHost d
  let s := modEp n (fun e => { e with dlvQueue := e.dlvQueue.filter dlvIsHost }) s
  forEach gone (fun d s => deliveryDone n d 0x14 [] false s) s

/-- Steering acknowledgements still pending are settled: the attach state leaves READY or STEERING, or the controller discards its copy
(R44, R78). -/
def settleSteer (e : Ep) : Ep :=
  { e with readySent := false, steerPend := [], winWait := none, mapWait := none, winBusy := e.winBusy && e.winWait.isNone }

/-- An attach reset (R76), with what R44, R67, R78 and R300 attach to it. The block is in state `next` afterwards. DLV_MAX keeps the value
last accepted: DESIGN CHOICE (assumption 50). -/
def attachReset (n : Nat) (next : AttachState) (s : State) : State :=
  let src := (epOf s n).srcFnid
  let answered := (epOf s n).aRsp
  let s := forEach answered (rspApply n) (modEp n (fun e => { settleSteer e with attach := next, aRsp := [], sendWait := [] }) s)
  let slots := ((epOf s n).dlvSlots.filter fun x => x.2.busy.isSome).map (·.1)
  let s := forEach (((epOf s n).rings).map (·.1)) (fun r s => haltRing n r 5 s) s
  let unsent := (epOf s n).rspWait.filterMap (·.2)
  let s := modEp n (fun e => { e with
    aReq := [], refusals := [], rspWait := [], offReqRx := false, offRspRx := false
    rel := { e.rel with ctxs := e.rel.ctxs.map fun c => (c.1, if ctxOpen c.2 && (ctxDirect c.2).isSome then { c.2 with silent := true } else c.2) } }) s
  let s := flowCheck n (releaseHeld n (forEach unsent (fun i s => freeCtx (.ep n) i s) s))
  let s := dropQueued n (forEach slots (dlvExpire n) s)
  let s := epFault n 0x07 sevError 0 0 0 src s
  announce n false (epLevel2 n (epWork n s))

/-- The port of a block enters its traffic state, or leaves it (R76). -/
def epUp (n : Nat) (s : State) : State :=
  if isEdge s n ∧ (epOf s n).attach = .down then modEp n (fun e => { e with attach := .waitHello }) s else s

/-- R76 names that event in READY only: out of WAIT_HELLO and STEERING the block goes to DOWN too, with no attach reset. DEDUCED
(assumption 50). -/
def epDown (n : Nat) (s : State) : State :=
  if (epOf s n).attach = .down then s
  else if (epOf s n).attach = .ready then attachReset n .down s
  else
    let s := modEp n (fun e => { settleSteer e with attach := .down, offReqRx := false, offRspRx := false, sendWait := [] }) s
    epLevel2 n s

end Sys2Proof.Machine
end

