-- ==== Sys2Proof/Machine/Collectives.lean ====
section
/-! DEFINITION. The commands of the collective engine (R284-R301). -/

namespace Sys2Proof.Machine

open Sys2Proof

/-! ## Frames that wait for the engine -/

/-- Answer a unicast COL_CHUNK that has been taken, and free its cells. -/
def colTaken (port : Nat) (h : HeldFrame) (s : State) : State :=
  let wb := h.frame.wb
  let s := noteVary (wbVary wb) (freeCells h.inPort (wbClass wb) h.cells s)
  if wbMcast wb then s else answer (.request (portPoint port) wb false) 0 none [] s

/-- The slot that a frame names, and whether it holds the frame's instance. -/
def frameSlot (s : State) (wb : Header) : ColSlot := slotOf s (colSlotOf (fColId wb))
def frameHeld (s : State) (wb : Header) : Bool := slotHolds (frameSlot s wb) (fColId wb) (fEpoch wb)

/-- The ordinal of a frame's chunk: XCHG names the chunk-space index instead (R289). -/
def frameOrd (s : State) (wb : Header) : Nat :=
  if fCkind wb = ckXchg then ordinalOfChunk (frameSlot s wb).map (planeIdx s) (fOrd wb) else fOrd wb

/-- The order in which a frame that waits is served (R298). -/
def servePrio (s : State) (wb : Header) : Nat := chunkPrio s (colSlotOf (fColId wb)) (frameOrd s wb)

/-- Take the frame of CKIND `ck` at a port that R298 serves first among those that are ready, and run `f` on it; a presented
frame that is not ready waits. -/
def takeCol (port ck : Nat) (ready : State → Frame → Bool) (f : HeldFrame → State → State) (src : Arrive Frame) (s : State) : State :=
  match src with
  | .given fr =>
    let h : HeldFrame := ⟨fr, port, []⟩
    if fCkind fr.wb ≠ ck then s
    else if ready s fr then f h s
    else modCol (fun c => { c with inbox := tabMod [] c.inbox port (· ++ [h]) }) s
  | .waiting =>
    let l := (tabGet [] s.col.inbox port).filter fun h => decide (fCkind h.frame.wb = ck) && ready s h.frame
    let best := l.foldl (fun b h => match b with
      | none => some h
      | some x => if servePrio s h.frame.wb < servePrio s x.frame.wb then some h else b) none
    match best with
    | none => s
    | some h => f h (modCol (fun c => { c with inbox := tabMod [] c.inbox port (·.erase h) }) s)

def always (_ : State) (_ : Frame) : Bool := true
def colPortOk (port : Nat) : Bool := decide (port < 128)

/-! ## Level 1 -/

/-- The rank of a UP's source. -/
def upRank (s : State) (x : ColSlot) (wb : Header) : Option Nat :=
  match x.first with
  | none => none
  | some d =>
    let g := grpOf s (cGroup d)
    (localRanks s (cGroup d)).find? fun r => decide (memberOf s g r = BitVec.ofNat 16 (wbSrc wb).toNat)

/-- A UP may be taken: it is to be discarded, or it is its turn (R292). -/
def upReady (s : State) (fr : Frame) : Bool :=
  let wb := fr.wb
  let x := frameSlot s wb
  match chunkAt x (fOrd wb), upRank s x wb with
  | some c, some r => !frameHeld s wb || inTurn s x c r
  | _, _ => true

/-- UP (R287 step 2). -/
def takeUp (port : Nat) (h : HeldFrame) (s : State) : State :=
  let wb := h.frame.wb
  let k := colSlotOf (fColId wb)
  let x := slotOf s k
  match chunkAt x (fOrd wb), upRank s x wb with
  | some _, some r =>
    if frameHeld s wb ∧ x.state = .live then
      colWork k (contribute k (fOrd wb) r (h.frame.payload.take (wbLength wb)) (colTaken port h s))
    else colDiscard port h s
  | _, _ => colDiscard port h s
def execUp (port : Nat) (src : Arrive Frame) (s : State) : Out :=
  coreIf (colPortOk port) "port" s (takeCol port ckUp upReady (takeUp port) src s)

/-! ## Level 3 -/

/-- Fields of a PART header (R290). -/
def phOp (h : BitVec 256) : Nat := (bitsOf h 0 8).toNat
def phMode (h : BitVec 256) : Nat := (bitsOf h 8 8).toNat
def phSpec (h : BitVec 256) : BitVec 16 := bitsOf h 16 16
def phScale (h : BitVec 256) : W32 := bitsOf h 32 32
def phSeed (h : BitVec 256) : BitVec 64 := bitsOf h 64 64
def phGroup (h : BitVec 256) : Nat := (bitsOf h 128 12).toNat
def phDest (h : BitVec 256) : Nat := (bitsOf h 144 16).toNat
def phK (h : BitVec 256) : Nat := (bitsOf h 160 32).toNat
def phElems (h : BitVec 256) : Nat := (bitsOf h 192 16).toNat

/-- The leaves that owe a PART: all that hold members, or the one that sends. -/
def partLeaves (s : State) (h : BitVec 256) (from_ : Nat) : List Nat :=
  if opReduces (phOp h) ∨ phOp h = 7 then memberLeaves s (phGroup h) else [from_]

/-- The fragments of one leaf's partial. -/
def partFrags (h : BitVec 256) (redop dtype : Nat) : Nat :=
  max 1 ((partialLen (phOp h) redop (phMode h) dtype (phElems h) + 223) / 224)

/-- Leaf `l` has sent all its fragments. -/
def leafIn (c : Chunk) (l n : Nat) : Bool := (List.range n).all fun f => c.parts.any fun p => decide (p.1 = l) && decide (p.2.1 = f)

/-- The entry of this tick that names an instance. -/
def instanceEntry (s : State) (id : Nat) (ep : BitVec 8) : Option Nat :=
  (entriesNow s).find? fun e => match s.tick.active[e]? with
    | some x => decide (entKind x = kindCol) && decide (entColId x = id) && decide (entEpoch x = ep)
    | none => false

def partHdrOf (f : Frame) : BitVec 256 := BitVec.ofNat 256 (leNat (slice f.payload 0 32))
def slotLeaf (wb : Header) : Nat := (bitsOf (wbSrc wb) 0 7).toNat

/-- Ordinal `j` of a group is rooted at this spine (R288). -/
def rootedHere (s : State) (x : ColSlot) (group j : Nat) : Bool :=
  decide (rootSpine (grpOf s group) x.colId.toNat j + (leavesM1 s + 1) = mySlot s)

/-- Ordinal `j` has ended at level 3 of this spine, or was never rooted here. `next` is the first ordinal of which no record has been
made yet. -/
def level3Over (s : State) (x : ColSlot) (group j : Nat) : Bool :=
  (chunkAt x j).isNone && (decide (j < x.next) || !rootedHere s x group j)

/-- This module is level 3 for the instance (R299, R300): a spine, a single stage, or any module of an ALL_TO_ALL. -/
def levelThree (s : State) (x : ColSlot) : Bool :=
  isSpine s || singleStage s || (match x.first with | some d => decide (cOp d = 6) | none => false)

/-- ABORT_LIMIT, where 0 acts as 1. -/
def abortLimit (s : State) : Nat := max 1 s.col.abortLimit.toNat

/-- An occurrence dropped a chunk rooted here: DROP_RUN advances, and may abort the instance. -/
def countDrop (k : Nat) (s : State) : State :=
  if !levelThree s (slotOf s k) ∨ (slotOf s k).state ≠ .live then s
  else
    let s := modSlot k (fun x => { x with dropRun := satAdd x.dropRun 1 }) s
    if (slotOf s k).dropRun.toNat < abortLimit s then s
    else if isSpine s || singleStage s then abortSlot k 1 s else level2Fault k s

/-- Ordinal `j` exists, since a PART of it has come: the occurrences of earlier ticks that released ordinals up to `j` rooted here have dropped
them, and each counts once (R299; assumption 24). `unproved` has the ordinals [a, b) of each, and whether it has been counted. -/
def proveDrops (k group j : Nat) (s : State) : State :=
  let x := slotOf s k
  let gone (u : Nat × Nat × Bool) : Nat := (((List.range (min u.2.1 (j + 1) - u.1)).map (· + u.1)).filter (rootedHere s x group)).length
  let late := x.unproved.filter fun u => decide (0 < gone u) && !u.2.2
  let left := (x.unproved.map fun u => (max u.1 (min u.2.1 (j + 1)), u.2.1, u.2.2 || decide (0 < gone u))).filter fun u => decide (u.1 < u.2.1)
  let n := (x.unproved.map gone).sum
  let s := if n = 0 then s else modSlot k (fun y => { y with anyDropped := true, chunksDropped := satAdd y.chunksDropped n }) s
  forEach late (fun _ s => countDrop k (dropItem 2 s)) (modSlot k (fun y => { y with unproved := left }) s)

/-- A PART may be taken: its ordinal has been released here, ordinal j - 6 has ended at this level, and in TREE mode it is its leaf's turn
(R285, R286, R292). -/
def partReady (s : State) (fr : Frame) : Bool :=
  let wb := fr.wb
  let x := frameSlot s wb
  let j := fOrd wb
  let h := partHdrOf fr
  if !frameHeld s wb ∨ x.state ≠ .live ∨ (j < x.next ∧ (chunkAt x j).isNone = true) then true
  else if x.cursor ≤ j then false
  else if 6 ≤ j ∧ level3Over s x (phGroup h) (j - 6) = false then false
  else
    let c := (chunkAt x j).getD { ordinal := j, entry := 0 }
    !usesTree (phOp h) (phMode h) (wbSubop wb).toNat (wbDtype wb).toNat ||
      ((partLeaves s h (slotLeaf wb)).filter fun l => decide (l < slotLeaf wb)).all fun l =>
        leafIn c l (partFrags h (wbSubop wb).toNat (wbDtype wb).toNat)

/-- The fragments of a chunk in the order in which level 3 adds them (R292): by leaf in TREE mode, else by arrival. -/
def partsInOrder (s : State) (c : Chunk) (h : BitVec 256) (redop dtype : Nat) : List (Nat × Nat × List Byte) :=
  if usesTree (phOp h) (phMode h) redop dtype then
    (memberLeaves s (phGroup h)).flatMap fun l => c.parts.filter fun p => decide (p.1 = l)
  else c.parts

/-- The partials of a chunk combined: fragment by fragment, or leaf by leaf for EXACT (R292). -/
def combineParts (s : State) (c : Chunk) (h : BitVec 256) (redop dtype : Nat) : List Byte :=
  let n := partFrags h redop dtype
  let parts := partsInOrder s c h redop dtype
  if usesExact (phMode h) redop dtype then
    let leaves := (parts.map (·.1)).eraseDups
    combine3 (phOp h) redop (phMode h) dtype (leaves.map fun l =>
      (List.range n).flatMap fun f => ((parts.find? fun p => decide (p.1 = l) && decide (p.2.1 = f)).map (·.2.2)).getD [])
  else (List.range n).flatMap fun f =>
    combine3 (phOp h) redop (phMode h) dtype ((parts.filter fun p => decide (p.2.1 = f)).map (·.2.2))

/-- PART (R287 step 3, R290). -/
def takePart (port : Nat) (h : HeldFrame) (s : State) : State :=
  let wb := h.frame.wb
  let k := colSlotOf (fColId wb)
  let j := fOrd wb
  let x := slotOf s k
  let hd := partHdrOf h.frame
  if !frameHeld s wb ∨ x.state ≠ .live ∨ !isSpine s then colDiscard port h s
  else
    let s := proveDrops k (phGroup hd) j s
    if (slotOf s k).state ≠ .live then colDiscard port h s
    else match (chunkAt x j).isSome || decide (x.next ≤ j), ordEntry x j with
    | true, some e =>
      let s := openChunks k j (phGroup hd) e (colTaken port h s)
      let s := modSlot k (fun x => { x with group := some (BitVec.ofNat 12 (phGroup hd)), hdr := some hd, redop := (wbSubop wb).toNat, dtype := (wbDtype wb).toNat }) s
      let c := (chunkAt (slotOf s k) j).getD { ordinal := j, entry := e }
      match c.hdr with
      | some old =>
        if old ≠ hd then abortSlot k 2 (devFault0 0x51 sevError k j s)
        else partIn k j hd s
      | none => partIn k j hd s
    | _, _ => colDiscard port h s
where
  /-- Make the records of the ordinals up to `j` that are rooted here: with the first PART of `j` the spine knows that those before it
  exist (assumption 24). -/
  openChunks (k j group e : Nat) (s : State) : State :=
    let x := slotOf s k
    if j < x.next then s
    else
      let before := ((List.range (j - x.next)).map (· + x.next)).filter (rootedHere s x group)
      modSlot k (fun x => { x with next := j + 1, chunks := x.chunks ++ (before ++ [j]).map fun i => { ordinal := i, entry := (ordEntry x i).getD e } }) s
  partIn (k j : Nat) (hd : BitVec 256) (s : State) : State :=
    let wb := h.frame.wb
    let leaf := slotLeaf wb
    let s := modChunk k j (fun c => { c with hdr := some hd, redop := (wbSubop wb).toNat, dtype := (wbDtype wb).toNat, parts := c.parts ++ [(leaf, fFrag wb, (h.frame.payload.take (wbLength wb)).drop 32)] }) s
    match chunkAt (slotOf s k) j with
    | none => s
    | some c =>
      let redop := (wbSubop wb).toNat
      let dt := (wbDtype wb).toNat
      if !c.downSent && (partLeaves s hd leaf).all fun l => leafIn c l (partFrags hd redop dt) then
        let s := modSlot k (fun x => { x with lastLeaf := BitVec.ofNat 6 leaf }) s
        finishLevel3 k j (phOp hd) redop (phMode hd) dt (phSpec hd) (phScale hd) (phSeed hd) (phGroup hd) (phDest hd) (phK hd)
          (combineParts s c hd redop dt) s
      else s
def execPart (port : Nat) (src : Arrive Frame) (s : State) : Out :=
  coreIf (colPortOk port) "port" s (takeCol port ckPart partReady (takePart port) src s)

/-- ACK (R291): a leaf has reported for its members. -/
def takeAck (port : Nat) (h : HeldFrame) (s : State) : State :=
  let wb := h.frame.wb
  let k := colSlotOf (fColId wb)
  let j := fOrd wb
  if !frameHeld s wb then colDiscard port h s
  else
    let s := colTaken port h s
    let s := modChunk k j (fun c => { c with leaves := if c.leaves.contains (slotLeaf wb) then c.leaves else c.leaves ++ [slotLeaf wb] }) s
    match chunkAt (slotOf s k) j with
    | none => s
    | some c =>
      let all := match c.hdr with
        | some hd => (memberLeaves s (phGroup hd)).all fun l => c.leaves.contains l
        | none => false
      if c.downSent && all then endChunk k j s else s
def execAck (port : Nat) (src : Arrive Frame) (s : State) : Out :=
  coreIf (colPortOk port) "port" s (takeCol port ckAck always (takeAck port) src s)

/-! ## DOWN and XCHG -/

/-- The rank of the member that end-point block `n` has bound in a slot. -/
def epRank (x : ColSlot) (n : Nat) : Option Nat :=
  (x.bound.find? fun m => match m.binder with | .ep a _ => decide (a = n) | _ => false).map (·.rank)

/-- The ranks of the array-group members bound in a slot. -/
def cbRanks (x : ColSlot) : List Nat :=
  (x.bound.filter fun m => match m.binder with | .cb _ _ => true | _ => false).map (·.rank)

/-- A leaf sends a repeated DOWN on to its member ports (R291). -/
def leafMulticast (port : Nat) (h : HeldFrame) (group : Nat) (s : State) : State :=
  let wb := h.frame.wb
  let nw := mkWb { type := 0x21, cls := .sched, plen := wbPlen wb, flags := 2 + 8 * ofB (wbVary wb), plane := planeIdx s, src := (myFnid s).toNat
                   dst := 0xFFF, addr := (mkAddr 0xFFF (addrOff (wbAddr wb))).toNat, length := wbLength wb, subop := (wbSubop wb).toNat
                   dtype := (wbDtype wb).toNat, group := group }
  emitMcast port (mkFrame nw h.frame.payload) 0 s

/-- DOWN (R287 step 5, R291, R295). -/
def takeDown (port : Nat) (h : HeldFrame) (s : State) : State :=
  let wb := h.frame.wb
  let k := colSlotOf (fColId wb)
  let j := fOrd wb
  let x := slotOf s k
  let data := h.frame.payload.take (wbLength wb)
  if !frameHeld s wb then colDiscard port h s
  else match chunkAt x j with
    | none => if j < x.cursor ∧ x.state ≠ .aborted then leafReports k j (colTaken port h s) else colDiscard port h s
    | some _ =>
      if port < 64 then
        match epRank x port with
        | none => colDiscard port h s
        | some r =>
          let s := noteVary (wbVary wb) (freeCells h.inPort (wbClass wb) h.cells s)
          colWork k (deliverFrag k j r (fFrag wb) data (if wbMcast wb then none else some wb) s)
      else match x.first with
        | none => colDiscard port h s
        | some d =>
          let s := colTaken port h s
          let s := if wbMcast wb || downUnicast (cOp d) || ordOver s x j then s else leafMulticast port h (cGroup d) s
          colWork k (forEach (cbRanks x) (fun r s => if (receivers d (grpSize (grpOf s (cGroup d))) (chunkOfOrdinal x.map (planeIdx s) j)).contains r
            then deliverFrag k j r (fFrag wb) data none s else s) s)
def execDown (port : Nat) (src : Arrive Frame) (s : State) : Out :=
  coreIf (colPortOk port) "port" s (takeCol port ckDown always (takeDown port) src s)

/-- XCHG (R287, R295): the frame names the chunk-space index. -/
def takeXchg (port : Nat) (h : HeldFrame) (s : State) : State :=
  let wb := h.frame.wb
  let k := colSlotOf (fColId wb)
  let x := slotOf s k
  let j := ordinalOfChunk x.map (planeIdx s) (fOrd wb)
  let data := h.frame.payload.take (wbLength wb)
  if !frameHeld s wb then colDiscard port h s
  else match chunkAt x j, x.first with
    | some _, some d =>
      let dst := (receivers d (grpSize (grpOf s (cGroup d))) (fOrd wb)).headD 0
      if (memberAt x dst).isSome ∧ (port < 64 → epRank x port = some dst) then
        let s := freeCells h.inPort (wbClass wb) h.cells s
        colWork k (deliverFrag k j dst 0 data (some wb) s)
      else colDiscard port h s
    | _, _ => if j < x.cursor ∧ x.state ≠ .aborted then colTaken port h s else colDiscard port h s
def execXchg (port : Nat) (src : Arrive Frame) (s : State) : Out :=
  coreIf (colPortOk port) "port" s (takeCol port ckXchg always (takeXchg port) src s)

/-! ## Faults and aborts (R300, R301) -/

/-- FAULT. -/
def takeFault (port : Nat) (h : HeldFrame) (s : State) : State :=
  if !frameHeld s h.frame.wb then colDiscard port h s
  else abortSlot (colSlotOf (fColId h.frame.wb)) 3 (colTaken port h s)
def execColFault (port : Nat) (src : Arrive Frame) (s : State) : Out :=
  coreIf (colPortOk port) "port" s (takeCol port ckFault always (takeFault port) src s)

/-- ABORT: the slot becomes ABORTED, ABORT_ACK answers it, and a leaf forwards it to the spines of the group, once. -/
def takeAbort (port : Nat) (h : HeldFrame) (s : State) : State :=
  let wb := h.frame.wb
  let k := colSlotOf (fColId wb)
  let x := slotOf s k
  if !frameHeld s wb then colDiscard port h s
  else
    let first := decide (x.state ≠ .aborted)
    let s := colTaken port h s
    let s := if first then clearAborted k s else s
    let s := engineSend k ckAbortAck (wbSrc wb) 0 s
    if first && !isSpine s then forEach (groupSpines s x) (fun i s => sendAbort k (spineFnid s i) s) s else s
def execAbort (port : Nat) (src : Arrive Frame) (s : State) : Out :=
  coreIf (colPortOk port) "port" s (takeCol port ckAbort always (takeAbort port) src s)

/-- ABORT_ACK ends the resends to that peer. -/
def takeAbortAck (port : Nat) (h : HeldFrame) (s : State) : State :=
  let wb := h.frame.wb
  if !frameHeld s wb then colDiscard port h s
  else modSlot (colSlotOf (fColId wb)) (fun x => { x with aborts := tabSet 0 x.aborts (wbSrc wb).toNat 0 }) (colTaken port h s)
def execAbortAck (port : Nat) (src : Arrive Frame) (s : State) : Out :=
  coreIf (colPortOk port) "port" s (takeCol port ckAbortAck always (takeAbortAck port) src s)

/-- The same for an instance that the slot held before. -/
def oldResend (o : OldAbort) (s : State) : State :=
  let put (l : List OldAbort) (s : State) : State := modCol (fun c => { c with oldAborts := c.oldAborts.filter (fun y => !decide (y = o)) ++ l }) s
  if o.sends ≤ retxMax s.rte.rel.retxCfg then
    put [{ o with sends := o.sends + 1 }]
      (engineSendFor { colId := o.colId, epoch := o.epoch, redop := o.redop, dtype := o.dtype } o.slot ckAbort o.peer 0 s)
  else devFault0 0x54 sevError o.slot o.peer.toNat (put [] s)

/-- ABORT_RESEND (R301): every BASE_US, for at most RETX_MAX + 1 sends, then COL_ABANDON. -/
def abortResend (k : Nat) (peer : BitVec 12) (s : State) : State :=
  let s := forEach (s.col.oldAborts.filter fun o => decide (o.slot = k) && decide (o.peer = peer)) oldResend s
  let n := tabGet 0 (slotOf s k).aborts peer.toNat
  if n = 0 then s
  else if n ≤ retxMax s.rte.rel.retxCfg then sendAbort k peer s
  else devFault0 0x54 sevError k peer.toNat (modSlot k (fun x => { x with aborts := tabSet 0 x.aborts peer.toNat 0 }) s)
def execAbortResend (slot : Nat) (peer : BitVec 12) (s : State) : Out :=
  coreIf (decide (slot < 2048)) "collective slot" s (abortResend slot peer s)

/-- DOWN_REPEAT (R291): to each leaf or EDGE port that has not reported. -/
def downRepeat (k j : Nat) (s : State) : State :=
  let x := slotOf s k
  match chunkAt x j with
  | none => s
  | some c =>
    if !c.downSent || c.downTo.isSome || entryOver s c.entry then s
    else
      let frags := chunks 256 17 c.down
      let frags := if frags.isEmpty then [[]] else frags
      let port := 124 + j % 2
      if singleStage s then
        match x.first with
        | none => s
        | some d =>
          let mask := ofBits 64 (((localRanks s (cGroup d)).filter fun r => !c.reported.contains r).map (rankPort s (cGroup d)))
          (frags.zipIdx).foldl (fun s q => emitMcast port (mkFrame (mkWb
            { type := 0x21, cls := .sched, plen := (q.1.length + 31) / 32, flags := 2 + colVary (cRedop d) (cMode d) (cDtype d) (cOp d), plane := planeIdx s
              src := (myFnid s).toNat, dst := 0xFFF, addr := (colAddr 0xFFF ckDown x.colId.toNat x.epoch q.2 j).toNat, length := q.1.length
              subop := cRedop d, dtype := outType (cSpec d) (cDtype d) }) (pad32 q.1)) mask s) s
      else match c.hdr with
        | none => s
        | some hd =>
          forEach ((memberLeaves s (phGroup hd)).filter fun l => !c.leaves.contains l) (fun l s =>
            (frags.zipIdx).foldl (fun s q => sendOrWait .rte
              (colFrame (myFnid s) (slotFnid s l) ckDown x k q.2 j (colVary c.redop (phMode hd) c.dtype (phOp hd)) c.redop
                (outType (phSpec hd) c.dtype) port q.1) s) s) s
def execDownRepeat (slot ordinal : Nat) (s : State) : Out :=
  coreIf (decide (slot < 2048)) "collective slot" s (downRepeat slot ordinal s)

/-! ## Occurrences (R284, R285) -/

/-- Release the next CHUNKS ordinals of an instance. -/
def releaseChunks (e k n : Nat) (s : State) : State :=
  let x := slotOf s k
  let stop := match slotCount s x with | some c => min c (x.cursor + n) | none => x.cursor + n
  let new : List Chunk := if isSpine s then [] else (List.range (stop - x.cursor)).map fun i => { ordinal := x.cursor + i, entry := e }
  colWork k (modSlot k (fun x => { x with cursor := stop, chunks := x.chunks ++ new, released := x.released ++ [(e, x.cursor)] }) s)

/-- COL_OCCURRENCE_START (R285). -/
def occurrence (e : Nat) (s : State) : State :=
  match entryNow s e with
  | none => s
  | some x =>
    let k := colSlotOf (entColId x)
    let sl := slotOf s k
    if !slotHolds sl (entColId x) (entEpoch x) then s
    else startEntry e kindCol (fun x s => if sl.state = .live then releaseChunks e k (entChunks x) s else s) s
def execColOccurrenceStart (e : Nat) (s : State) : Out := coreLive s (occurrence e s)

/-- COL_HOLD_TIMEOUT (R284): a held descriptor that its slot has not taken. -/
def holdTimeout (b : Binder) (s : State) : State :=
  match s.col.held.find? fun m => decide (m.binder = b) with
  | none => s
  | some m => completeMember m 0x11 (modCol (fun c => { c with held := c.held.filter fun m => decide (m.binder ≠ b) }) s)
def execColHoldTimeout (b : Binder) (s : State) : Out := coreLive s (holdTimeout b s)

end Sys2Proof.Machine
end

