-- ==== Sys2Proof/Machine/Coding.lean ====
section
/-! DEFINITION. What a port puts on its four lanes: cells, their slots, encryption, scrambling, blocks, codewords, and PAM4 levels, in the
order of R434 (R108, R434-R441, R452), and how a receiver undoes it. IDLE and TRAIN cells fill the slots between those that commands send;
how many is a matter of time, so each number is a free value (assumption 68). -/

namespace Sys2Proof.Machine

open Sys2Proof

/-! ## Cells (R108, R435, R436, R441) -/

/-- The 64-byte cells of a byte string whose length is a multiple of 64: the first is an SOF cell, the rest continue it (R435). -/
def dataCells (bs : List Byte) : List TxCell :=
  (chunks 64 bs.length bs).zipIdx.map fun x => { h0 := decide (x.2 = 0), h1 := false, data := BitVec.ofNat 512 (leNat x.1) }

/-- The cells of a frame on a TRUNK link (R108): waybill and hop record, payload, zero padding, CRC-32C and tail word. -/
def frameLine (f : Frame) (hop : Header) : List TxCell :=
  let k := frameCells f - 1
  dataCells (bvBytes f.wb ++ bvBytes hop ++ f.payload ++ zeros (64 * k - 8 - f.payload.length) ++ bvBytes f.crc ++ bvBytes f.tail)

/-- A FLOW frame is cell 0 only (R141). -/
def flowLine (wb hop : Header) : List TxCell := dataCells (bvBytes wb ++ bvBytes hop)

/-- The cells of an attach message (R64, R436): ⌈(36 + P) / 64⌉, the last one zero-filled. -/
def msgLine (m : AttachMsg) : List TxCell :=
  let bs := bvBytes m.hdr ++ m.payload ++ bvBytes m.crc
  dataCells (bs ++ zeros (roundUp bs.length 64 - bs.length))

/-- A control cell (R441). -/
def ctlCell (c : BitVec 512) : TxCell := { h0 := true, h1 := true, data := c }

/-- A port's transmitter is told something, behind the attach messages that its block has sent. -/
def putItems (n : Nat) (l : List LineItem) (s : State) : State :=
  modPort n (fun p => { p with line := p.line ++ l.map fun x => ((epOf s n).sent.length, x) }) s
def putLine (n : Nat) (l : List TxCell) (s : State) : State := putItems n (l.map .cell) s

/-! ## Scrambling (R437) -/

/-- The scrambler x^58 + x^39 + 1: `n` bits of `x` from bit 0 up, under the state `r`, whose bit j is the bit sent j + 1 bits ago. -/
def scrambleBits : Nat → BitVec 58 → Nat → BitVec 58 × Nat
  | 0, r, _ => (r, 0)
  | n + 1, r, x =>
    let b := ((decide (x % 2 = 1)).xor (bitAt r 38)).xor (bitAt r 57)
    let (r, y) := scrambleBits n ((r <<< 1) ||| BitVec.ofNat 58 (ofB b)) (x / 2)
    (r, ofB b + 2 * y)

/-! ## Codewords (R438) -/

/-- GF(2^10) of x^10 + x^3 + 1: PRESUMED, that of IEEE 802.3 Clause 91, which R438 names (assumption 68). -/
def gf10Double (a : Nat) : Nat := if 512 ≤ a then (2 * a - 1024) ^^^ 9 else 2 * a
def gf10MulBits : Nat → Nat → Nat → Nat
  | 0, _, _ => 0
  | n + 1, a, b => (if b % 2 = 1 then a else 0) ^^^ gf10MulBits n (gf10Double a) (b / 2)
def gf10Mul (a b : Nat) : Nat := gf10MulBits 10 a b
def gf10Pow : Nat → Nat
  | 0 => 1
  | n + 1 => gf10Double (gf10Pow n)

/-- The generator polynomial of RS(544,514), of roots α^0 to α^29, highest power first, without its leading 1. PRESUMED (assumption 68). -/
def fecGen : List Nat :=
  ((List.range 30).foldl (fun p i => List.zipWith (· ^^^ ·) (p ++ [0]) (0 :: p.map (gf10Mul (gf10Pow i)))) [1]).drop 1

/-- The 30 parity symbols of 514 message symbols. -/
def fecParity (msg : List Nat) : List Nat :=
  msg.foldl (fun r m => List.zipWith (· ^^^ ·) (r.drop 1 ++ [0]) (fecGen.map (gf10Mul (m ^^^ r.headD 0)))) (List.replicate 30 0)

/-- The symbols of a codeword of 20 blocks, in the order of their bits. -/
def fecWord (blocks : List (BitVec 257)) : List Nat :=
  let bits := blocks.foldr (fun b n => b.toNat + 2 ^ 257 * n) 0
  let msg := (List.range 514).map fun j => bits / 2 ^ (10 * j) % 1024
  msg ++ fecParity msg

/-! ## Levels (R439) -/

/-- Gray mapping of a bit pair, its first bit the less significant. -/
def grayLevel (pair : Nat) : Nat := if pair = 3 then 2 else if pair = 2 then 3 else pair

/-- The 1/(1+D) mod 4 precoder over the levels of symbols, from the level sent before. -/
def precode (before : Nat) : List Nat → List Nat
  | [] => []
  | g :: l => let p := (g + 4 - before) % 4; p :: precode p l

/-- The levels of a 10-bit symbol before the precoder. -/
def symbolLevels (x : Nat) : List Nat := (List.range 5).map fun i => grayLevel (x / 4 ^ i % 4)

/-! ## A lane (R434, R440, R452) -/

/-- A lane's transmitter: the scrambler's state and the last level, the cells sent in all, markers among them, the blocks of the codeword that
is being filled, the group's number, whether it is encrypted, the 16 bytes of its marker, what it has sent and its header bits; and the
levels so far. -/
structure LaneTx where
  scram : BitVec 58
  pre : Nat := 0
  count : Nat := 0
  blocks : List (BitVec 257) := []
  group : Nat := 0
  enc : Bool := false
  aad : List Byte := []
  sent : List (BitVec 512) := []
  heads : List Nat := []
  levels : List Nat := []

/-- A cell that is encrypted, or needs no encryption, is scrambled, formed into two blocks, and with the twentieth block coded (R434 steps 3
to 7). -/
def laneEmit (c : TxCell) (t : LaneTx) : LaneTx :=
  let (r, x) := scrambleBits 512 t.scram c.data.toNat
  let block (h : Bool) (p : Nat) : BitVec 257 := BitVec.ofNat 257 (ofB h + 2 * (p % 2 ^ 256))
  let blocks := t.blocks ++ [block c.h0 x, block c.h1 (x / 2 ^ 256)]
  let t := { t with scram := r, count := t.count + 1 }
  if blocks.length < 20 then { t with blocks := blocks }
  else
    let new := precode t.pre ((fecWord blocks).flatMap symbolLevels)
    { t with blocks := [], pre := new.getLastD t.pre, levels := t.levels ++ new }

/-- Header bits packed four pairs to a byte. -/
def packHeads (l : List Nat) : List Byte := (chunks 4 l.length l).map fun q => BitVec.ofNat 8 (q.zipIdx.map fun x => x.1 * 4 ^ x.2).sum

/-- The IV of a group: S, then LANE × 2^62 + GROUP big-endian. -/
def linkIv (salt lane group : Nat) : List Byte := leBytes 4 salt ++ (leBytes 8 (lane * 2 ^ 62 + group)).reverse

/-- The tag of the group that a marker closes: 0 without encryption. -/
def laneTag (key : Option (BitVec 256 × Nat)) (lane : Nat) (t : LaneTx) : BitVec 128 :=
  match key, t.enc with
  | some (k, salt), true => gcmTag k (linkIv salt lane t.group) (t.aad ++ packHeads t.heads) (t.sent.flatMap bvBytes)
  | _, _ => 0

/-- A marker opens a group (R440, R441). Encryption begins at the first marker after the peer's acceptance, with GROUP 0 (R451). -/
def laneMark (key : Option (BitVec 256 × Nat)) (lane : Nat) (t : LaneTx) : LaneTx :=
  let enc := key.isSome
  let group := if t.count = 0 ∨ (enc && !t.enc) then 0 else t.group + 1
  let head := leBytes 1 1 ++ leBytes 1 lane ++ leBytes 1 (ofB enc) ++ zeros 5 ++ leBytes 8 group
  let cell := head ++ bvBytes (laneTag key lane t)
  { laneEmit (ctlCell (BitVec.ofNat 512 (leNat cell))) t with group := group, enc := enc, aad := head, sent := [], heads := [] }

/-- A lane sends a cell: after a marker where one is due, and encrypted in an encrypted group. -/
def laneSend (key : Option (BitVec 256 × Nat)) (lane : Nat) (c : TxCell) (t : LaneTx) : LaneTx :=
  let t := if t.count % 2560 = 0 then laneMark key lane t else t
  let data := match key, t.enc with
    | some (k, salt), true => c.data ^^^ gcmStream k (linkIv salt lane t.group) t.sent.length
    | _, _ => c.data
  laneEmit { c with data := data } { t with sent := t.sent ++ [data], heads := t.heads ++ [ofB c.h0 + 2 * ofB c.h1] }

/-! ## A port (R434, R436) -/

/-- What a port's transmitter is told, in order: an EDGE port's attach messages stand where its block sent them. -/
def mergeLine (ms : List AttachMsg) : Nat → List (Nat × LineItem) → List LineItem
  | a, [] => ((ms.drop a).flatMap msgLine).map .cell
  | a, (k, x) :: l => (((ms.take k).drop a).flatMap msgLine).map .cell ++ x :: mergeLine ms (max a k) l
def portItems (s : State) (n : Nat) : List LineItem :=
  let p := portOf s n
  mergeLine (if isEdge s n && decide (p.state = .traffic) then (epOf s n).sent else []) p.msgFrom p.line

/-- The side with the lower FNID takes K_lo and S_lo (R451). -/
def linkKey (s : State) (n : Nat) : Option (BitVec 256 × Nat) :=
  let p := portOf s n
  p.keys.map fun k => if (myFnid s).toNat < p.peerFnid.toNat then (bitsOf k 0 256, (bitsOf k 512 32).toNat) else (bitsOf k 256 256, (bitsOf k 544 32).toNat)

/-- A port's transmitter: its lanes, the next slot, and the cell that fills free slots. -/
structure PortTx where
  lanes : List LaneTx
  slot : Nat := 0
  fill : Option TxCell := none

/-- Slot `k` is carried on lane k mod 4. -/
def putSlot (key : Option (BitVec 256 × Nat)) (c : TxCell) (t : PortTx) : PortTx :=
  { t with lanes := t.lanes.zipIdx.map fun x => if x.2 = t.slot % 4 then laneSend key x.2 c x.1 else x.1, slot := t.slot + 1 }

/-- `k` free slots. -/
def putFill (key : Option (BitVec 256 × Nat)) : Nat → PortTx → PortTx
  | 0, t => t
  | k + 1, t => match t.fill with | some c => putFill key k (putSlot key c t) | none => t

/-- Free slots until every lane has begun an encrypted group: at most one group of each lane. -/
def putUntilEnc (key : Option (BitVec 256 × Nat)) : Nat → PortTx → PortTx
  | 0, t => t
  | k + 1, t => if t.lanes.all (·.enc) then t else match t.fill with | some c => putUntilEnc key k (putSlot key c t) | none => t

/-- The wake signal on lane 0: levels 0 and 3 in turn, each for 64 symbols, for 1 µs or more (R454). -/
def wakeLevels (k : Nat) : List Nat := (List.range (1662 + k)).flatMap fun i => List.replicate 64 (if i % 2 = 0 then 0 else 3)

/-- A transmitter that goes off begins a new codeword and a new group when it comes on again (assumption 68). -/
def txOff (t : PortTx) : PortTx := { t with fill := none, lanes := t.lanes.map fun l => { l with count := 0, blocks := [] } }

/-- An item, after free slots whose number is free. -/
def putItem (key : Option (BitVec 256 × Nat)) (free : Nat) (x : LineItem) (t : PortTx) : PortTx :=
  let t := putFill key free t
  match x with
  | .cell c => putSlot key c t
  | .fill (some c) => { t with fill := some c }
  | .fill none => txOff t
  | .secure => putUntilEnc key 10240 t
  | .wake => { t with lanes := t.lanes.zipIdx.map fun l => if l.2 = 0 then { l.1 with levels := l.1.levels ++ wakeLevels free } else l.1 }

/-- A port's transmitter after all that it has been told since SIGNAL began. -/
def portTx (s : State) (n : Nat) : PortTx :=
  let p := portOf s n
  let start : PortTx := { lanes := (List.range 4).map fun i => { scram := Config.scramblerStart p.bringup (4 * n + i) } }
  ((portItems s n).zipIdx).foldl (fun t x =>
    let accepted := match p.encFrom with | some k => decide (k ≤ x.2) | none => false
    putItem (if accepted then linkKey s n else none) (Config.fillSlots p.bringup x.2) x.1 t) start

/-- The PAM4 levels that a lane has sent since SIGNAL began, whole codewords only. -/
def laneLevels (s : State) (l : Nat) : List Nat := match (portTx s (l / 4)).lanes[l % 4]? with | some t => t.levels | none => []

/-! ## A receiver: the steps of R434 undone -/

/-- The precoder undone, and the symbol of five levels (R439). -/
def unprecode (before : Nat) : List Nat → List Nat
  | [] => []
  | p :: l => (p + before) % 4 :: unprecode p l
def levelsSymbol (l : List Nat) : Nat := (l.zipIdx.map fun x => grayLevel x.1 * 4 ^ x.2).sum

/-- Places where two words differ. -/
def symbolsApart (a b : List Nat) : Nat := ((a.zip b).filter fun x => decide (x.1 ≠ x.2)).length

/-- The message of a codeword with at most 15 symbols in error; none where it cannot be corrected (R438). -/
def fecDecode (w : List Nat) : Option (List Nat) :=
  if fecParity (w.take 514) = w.drop 514 then some (w.take 514)
  else ((List.range (1024 ^ 514)).map fun x => (List.range 514).map fun j => x / 1024 ^ j % 1024).find? fun m =>
    decide (symbolsApart (m ++ fecParity m) w ≤ 15)

/-- The 20 blocks of a message. -/
def wordBlocks (msg : List Nat) : List (BitVec 257) :=
  let bits := msg.foldr (fun x n => x + 1024 * n) 0
  (List.range 20).map fun i => BitVec.ofNat 257 (bits / 2 ^ (257 * i))

/-- The scrambler undone: its state holds what was received. -/
def descrambleBits : Nat → BitVec 58 → Nat → BitVec 58 × Nat
  | 0, r, _ => (r, 0)
  | n + 1, r, x =>
    let b := decide (x % 2 = 1)
    let (q, y) := descrambleBits n ((r <<< 1) ||| BitVec.ofNat 58 (ofB b)) (x / 2)
    (q, ofB ((b.xor (bitAt r 38)).xor (bitAt r 57)) + 2 * y)

/-- The kinds of cells by their header bits (R435). -/
inductive CellKind where
  | continuation
  | sof
  | control
  | invalid
deriving DecidableEq, Repr
def cellKind (c : TxCell) : CellKind :=
  match c.h0, c.h1 with
  | false, false => .continuation
  | true, false => .sof
  | true, true => .control
  | false, true => .invalid

/-- Two blocks are a cell. -/
def blockCells (r : BitVec 58) : List (BitVec 257) → BitVec 58 × List TxCell
  | a :: b :: l =>
    let (r, x) := descrambleBits 512 r (a.toNat / 2 + 2 ^ 256 * (b.toNat / 2))
    let (r, cs) := blockCells r l
    (r, { h0 := bitAt a 0, h1 := bitAt b 0, data := BitVec.ofNat 512 x } :: cs)
  | _ => (r, [])

/-- The cells of a lane's codewords, each with whether it is to be handled as one of an uncorrectable codeword (R435, R438). -/
def wordsCells (r : BitVec 58) : List (List Nat) → List (TxCell × Bool)
  | [] => []
  | w :: l =>
    let msg := fecDecode w
    let (r, cs) := blockCells r (wordBlocks (msg.getD (w.take 514)))
    cs.map (fun c => (c, msg.isNone || decide (cellKind c = .invalid))) ++ wordsCells r l

/-- Encryption undone by the peer's key: a marker opens each group of 2,560 cells and says whether it is encrypted (R440, R441, R452). -/
def decryptCells (key : Option (BitVec 256 × Nat)) (lane : Nat) : Nat → BitVec 512 → List (TxCell × Bool) → List (TxCell × Bool)
  | _, _, [] => []
  | k, opening, x :: l =>
    if k % 2560 = 0 then x :: decryptCells key lane (k + 1) x.1.data l
    else
      let group := (bitsOf opening 64 62 : BitVec 62).toNat
      let data := match key, bitAt opening 16 with
        | some (q, salt), true => x.1.data ^^^ gcmStream q (linkIv salt lane group) (k % 2560 - 1)
        | _, _ => x.1.data
      ({ x.1 with data := data }, x.2) :: decryptCells key lane (k + 1) opening l

/-- The key of the peer (R451). -/
def peerKey (s : State) (n : Nat) : Option (BitVec 256 × Nat) :=
  let p := portOf s n
  p.keys.map fun k => if (myFnid s).toNat < p.peerFnid.toNat then (bitsOf k 256 256, (bitsOf k 544 32).toNat) else (bitsOf k 0 256, (bitsOf k 512 32).toNat)

/-- What a lane of a port receives from its peer's levels, marker cells among it: TRAIN, LOOP_REQ, LOOP_RSP, MARK and the frames and messages
of the other rows come so. `r` is the scrambler's state and `lane` the lane's place in the order that the markers gave. -/
def laneReceive (s : State) (n lane : Nat) (r : BitVec 58) (levels : List Nat) : List (TxCell × Bool) :=
  let symbols := (chunks 5 levels.length (unprecode 0 levels)).map levelsSymbol
  decryptCells (peerKey s n) lane 0 0 (wordsCells r (chunks 544 symbols.length symbols))

end Sys2Proof.Machine
end

