-- ==== Sys2Proof/Machine/Switch.lean ====
section
/-! DEFINITION. The switch core: the checks of R119, routing and spraying (R159-R162, R165), multicast (R144-R146), stomps
(R122, R123), the mirror (R149-R152), egress (R118), flow control (R141), the auditor (R137) and the congestion map (R185). -/

namespace Sys2Proof.Machine

open Sys2Proof

/-! ## Counters -/

/-- A saturating field of `n` bits at `lo`, advanced by 1 (R9). -/
def bumpField (w : W32) (lo n : Nat) : W32 := putBits w lo n (min (w.toNat / 2 ^ lo % 2 ^ n + 1) (2 ^ n - 1))

/-- Count in a byte of SWC_PORT_ERR (R124): 24 HDR_ERR, 16 FMT_ERR, 8 STOMP_MADE, 0 STOMP_RX. -/
def bumpErr (port lo : Nat) (s : State) : State :=
  modSwc (fun w => { w with portErr := tabMod 0 w.portErr port (bumpField · lo 8) }) s

/-- What a congestion-map period counts at a port, while maps are written (R186). -/
def cmapMod (port : Nat) (f : CmapPort → CmapPort) (s : State) : State :=
  if s.rte.cmapEn then modRte (fun r => { r with cmapPorts := tabMod {} r.cmapPorts port f }) s else s

/-- A switch fault record (R126) about a frame at a port. -/
def swcFault (kind : Byte) (sev : BitVec 2) (port key : Nat) (wb : Header) (s : State) : State :=
  devFault kind sev 0 port key (wbAddr wb).toNat (wbSrc wb) s

/-! ## Queues (R117) -/

def queueOf (s : State) (port c : Nat) : List QFrame := tabGet [] s.swc.queues (pcKey port c)
def queueCells (s : State) (port c : Nat) : Nat := ((queueOf s port c).map fun q => q.cells.length).sum

/-! ## The mirror ring (R149-R152) -/

def evIngress : Nat := 0
def evEgress : Nat := 1
def evDiscard : Nat := 2
def evStomp : Nat := 3

def mirEn (c : W32) : Bool := bitAt c 31
def mirLog2 (c : W32) : Nat := (bitsOf c 17 5).toNat

/-- An event passes the ports, classes and SEL of the mirror (R149, R150). -/
def mirrorMatch (s : State) (ev port : Nat) (wb : Header) : Bool :=
  let c := s.swc.mirrorCtl
  let sel := s.swc.mirrorSel
  mirEn c && bitAt c (22 + ev) && bitAt c (26 + wbClass wb) && bitAt s.swc.mirrorPorts port
    && (!bitAt sel 31 || decide (bitsOf sel 16 12 = if bitAt sel 30 then wbDst wb else wbSrc wb))
    && (!bitAt sel 15 || decide (bitsOf sel 0 8 = wbType wb))

/-- The 64 bytes of a mirror entry (R151). QDEPTH is 0 where no egress was chosen; QDEPTH and POOL_FREE are those of the moment of the event in
the order of this model, before an arriving frame's cells are taken and queued, and while a leaving one still stands in its queue. DESIGN
CHOICE (assumption 69). -/
def mirrorEntry (s : State) (ev inPort outPort code cyc : Nat) (wb : Header) : List Byte :=
  bvBytes wb ++ bvBytes s.tick.now ++ leBytes 4 cyc ++ leBytes 1 ev ++ leBytes 1 inPort ++ leBytes 1 outPort ++ leBytes 1 code
    ++ leBytes 4 (if outPort < 128 then queueCells s outPort (wbClass wb) else 0) ++ leBytes 4 (classFree s (wbClass wb)) ++ zeros 8

/-- No bandwidth is left for an event: it lies fewer than 4 cycles from the entry written last (R152). DEDUCED (assumption 62). -/
def mirrorBusy (s : State) (cyc : Nat) : Bool :=
  match s.swc.mirrorLast with
  | none => false
  | some (t, c) => (decide (t = s.tick.now) && decide (c < cyc + 4) && decide (cyc < c + 4))
      || (decide (t + 1 = s.tick.now) && decide (cyc + actPeriod s < c + 4))

/-- STOP mode and the ring is full (R150, R152). -/
def mirrorFull (w : Swc) : Bool := bitAt w.mirrorCtl 30 && decide ((w.mirrorProd - w.mirrorCons).toNat = 2 ^ mirLog2 w.mirrorCtl)

/-- Record an event: the first matching one of every 2^SAMPLE. A full ring in STOP mode loses it, and so does a lack of bandwidth. -/
def mirror (ev port inPort outPort code cyc : Nat) (wb : Header) (s : State) : State :=
  if !mirrorMatch s ev port wb then s
  else
    let c := s.swc.mirrorCtl
    let n := s.swc.mirrorSeen
    let s := modSwc (fun w => { w with mirrorSeen := n + 1 }) s
    if n % 2 ^ (bitsOf c 13 4).toNat ≠ 0 then s
    else if mirrorFull s.swc || mirrorBusy s cyc then
      modSwc (fun w => { w with mirrorLost := satAdd w.mirrorLost 1 }) s
    else
      let at_ := s.swc.mirrorBase.toNat + s.swc.mirrorProd.toNat % 2 ^ mirLog2 c * 64
      let (_, s) := dieWrite at_ (mirrorEntry s ev inPort outPort code cyc wb) s
      modSwc (fun w => { w with mirrorProd := w.mirrorProd + 1, mirrorLast := some (s.tick.now, cyc) }) s

/-- A frame is discarded at ingress (R119, R123): the mirror's code says by which check, and `out` is the egress that check 5 chose. -/
def discardTo (port out code cyc : Nat) (wb : Header) (s : State) : State :=
  cmapMod port (fun p => { p with discard := p.discard + 1 }) (mirror evDiscard port port out code cyc wb s)

/-- The same before an egress was chosen. -/
def discardAt (port code cyc : Nat) (wb : Header) (s : State) : State := discardTo port 0xFF code cyc wb s

/-! ## Flow control (R141) -/

/-- The peer's OFF state, as a hop record carries it; the congestion map's period notes which classes it has shown OFF, and which ON. -/
def setPeerOff (port : Nat) (x : Byte) (s : State) : State :=
  let off := [0, 1, 2, 3].filter fun c => bitAt x c
  cmapMod port (fun p => { p with seenOff := (p.seenOff ++ off).eraseDups, stillOff := p.stillOff.filter off.contains })
    (modSwc (fun w => { w with peerOff := (List.range 4).foldl (fun t c => tabSet false t (pcKey port c) (bitAt x c)) w.peerOff }) s)

def peerOff (s : State) (port c : Nat) : Bool := tabGet false s.swc.peerOff (pcKey port c)

/-! ## The format check (R119 check 3) -/

/-- PLEN and LENGTH as R112 requires. -/
def plenOk (wb : Header) : Bool :=
  let t := wbType wb
  let p := wbPlen wb
  let l := wbLength wb
  decide (l ≤ 256) && decide (p ≤ 8) &&
    (if t = 0x01 then decide (p = 0) && decide (1 ≤ l)
     else if t = 0x03 then decide (p = 1) && decide (dtypeSize (wbDtype wb) = l) && (decide (l = 4) || decide (l = 8))
     else if t = 0x10 ∨ t = 0x12 ∨ t = 0x3F then decide (p = 0)
     else if t = 0x30 then decide (p = 1)
     else if t = 0x31 then true
     else if t = 0x32 then decide (p ≤ 1)
     else decide (p = (l + 31) / 32))

/-- No reserved field of the waybill is set (R111, and R172 for responses, R206 for CAIRN and R396 for MEMBER frames). -/
def wbReservedZero (wb : Header) : Bool :=
  decide (bitsOf wb 12 2 = 0) && decide (bitsOf wb 20 4 = 0) && decide (bitsOf wb 28 4 = 0) && decide (bitsOf wb 44 4 = 0)
    && decide (bitsOf wb 60 4 = 0) && decide (bitsOf wb 185 7 = 0) && decide (bitsOf wb 220 4 = 0)
    && (decide (typeClass (wbType wb) ≠ some .rsp) || (!bitAt wb 79 && decide (bitsOf wb 80 48 = 0)))
    && (decide (wbType wb ≠ 0x32) || (decide (bitsOf wb 73 7 = 0) && decide (bitsOf wb 84 4 = 0)))
    && (decide (wbType wb ≠ 0x31) || (decide (bitsOf wb 74 6 = 0) && decide (bitsOf wb 92 4 = 0)))

/-- Check 3 of R119. R111 gives 0xFFF for a multicast frame, but the check names only the converse: MCAST with another DST_FNID passes, and
the frame is multicast. DEDUCED (assumption 62). -/
def frameFormatOk (wb : Header) : Bool :=
  match typeClass (wbType wb) with
  | none => false
  | some c =>
    let d := (wbDst wb).toNat
    decide (wbClass wb = classCode c) && plenOk wb && wbReservedZero wb
      && (decide (c = .rsp) || decide (c = .ctrl) || decide (addrFnid (wbAddr wb) = wbDst wb))
      && !(decide (0xFE0 ≤ d) && decide (d ≤ 0xFFE)) && (decide (d ≠ 0xFFF) || wbMcast wb)
      && (!wbMcast wb || ((decide (c = .sched) || decide (c = .ctrl)) && bitAt (wbSrc wb) 11))

/-- Check 4 of R119 (R54, R55). -/
def partitionOk (s : State) (wb : Header) : Bool :=
  decide (wbClass wb = 3) || bitAt (wbSrc wb) 11 || partShare s (wbSrc wb) (wbDst wb)

/-! ## Routing (R159-R162) -/

/-- The module that a TRUNK port must connect to (R159). -/
def trunkPeer (s : State) (p : Nat) : Option (BitVec 12) :=
  let l := leavesM1 s + 1
  let n := spinesM1 s + 1
  if isLeaf s ∧ 32 ≤ p then some (slotFnid s (l + (p - 32) % n))
  else if isSpine s ∧ p < l * 32 / n then some (slotFnid s (p % l))
  else none

/-- A TRUNK port is usable (R159). -/
def trunkUsable (s : State) (p : Nat) : Bool :=
  isTrunk s p && decide ((portOf s p).state = .traffic) && decide (trunkPeer s p = some (portOf s p).peerFnid)
    && bitAt s.rte.trunkEn p

/-- UP of RTE_TRUNK_UP (R164). -/
def trunkUp (s : State) : BitVec 64 := ofBits 64 ((List.range 64).filter (trunkUsable s))

/-- An EDGE port is a usable egress (R160, R165). -/
def edgeUsable (s : State) (n : Nat) : Bool := epActive s n && decide ((epOf s n).srcFnid ≠ 0xFFF)

/-- Usable TRUNK ports that satisfy `f`. -/
def trunksTo (s : State) (f : Nat → Bool) : List Nat := (List.range 64).filter fun p => trunkUsable s p && f p

/-- The spine index of a leaf's TRUNK port, and the leaf slot of a spine's. -/
def spineOfPort (s : State) (p : Nat) : Nat := (p - 32) % (spinesM1 s + 1)
def leafOfPort (s : State) (p : Nat) : Nat := p % (leavesM1 s + 1)

/-- The reach of a spine as it last announced it; empty before that (R165). -/
def reaches (s : State) (spine j : Nat) : Bool :=
  match tabGet none s.rte.reachOf spine with
  | some (r, _) => bitAt r j
  | none => false

/-- The path set of a destination (R160), and a number that names the path set's rotating pointer. -/
def pathSet (s : State) (dst : BitVec 12) : List Nat × Nat :=
  let d := destOf s dst
  let slot := (bitsOf dst 0 7).toNat
  let l := leavesM1 s + 1
  let toLeaf (j : Nat) : List Nat × Nat :=
    if isLeaf s then (trunksTo s fun p => reaches s (spineOfPort s p) j, j) else (trunksTo s fun p => decide (leafOfPort s p = j), j)
  let edge (n : Nat) : List Nat × Nat := (if edgeUsable s n then [n] else [], 256 + n)
  if !bitAt dst 11 then
    if !destValid d then ([], 0)
    else if singleStage s then edge (destPort d)
    else if isLeaf s ∧ destLeaf d = mySlot s then edge (destPort d)
    else toLeaf (destLeaf d)
  else if singleStage s ∨ bitsOf dst 7 4 ≠ BitVec.ofNat 4 (planeIdx s) then ([], 0)
  else if slot < l then toLeaf slot
  else if isLeaf s then (trunksTo s fun p => decide (spineOfPort s p = slot - l), 128 + (slot - l))
  else if slot < l + (spinesM1 s + 1) then (trunksTo s fun _ => true, 255)
  else ([], 0)

/-- The port of a set whose egress queue for the class holds the fewest cells; a tie goes to the first at or after the path
set's pointer, which then moves past it (R161). -/
def spray (ports : List Nat) (key c : Nat) (s : State) : Option Nat × State :=
  let ptr := tabGet 0 s.swc.ptr key
  let order := (ports.filter fun p => ptr ≤ p) ++ (ports.filter fun p => p < ptr)
  let best := order.foldl (fun b p => match b with
    | none => some p
    | some q => if queueCells s p c < queueCells s q c then some p else b) none
  match best with
  | none => (none, s)
  | some p => (some p, modSwc (fun w => { w with ptr := tabSet 0 w.ptr key ((p + 1) % 64) }) s)

/-- The node port of a frame addressed to this module (R14, R286); responses and control frames leave on 126 and 127. -/
def localPort (wb : Header) : Nat :=
  match typeClass (wbType wb) with
  | some .rsp => 126
  | some .ctrl => 127
  | _ =>
    if wbType wb = 0x21 then
      (if fCkind wb = ckUp ∨ fCkind wb = ckPart then homePort (colSlotOf (fColId wb)) (fOrd wb) else 124 + (wbAddr wb).toNat % 2)
    else nodePortOf (addrOff (wbAddr wb))

/-- A frame with HOPS of 2 or more may not leave on a TRUNK port (R162). -/
def hopsOk (s : State) (hops : Nat) (ports : List Nat) : Bool := decide (hops < 2) || ports.all fun p => !isTrunk s p

/-! ## Multicast (R144-R146) -/

def mcEntry (s : State) (g : Nat) : BitVec 96 := tabGet 0 s.swc.mcast g

/-- One TRUNK port for each leaf of a list, chosen as for unicast. -/
def sprayLeaves (c : Nat) : List Nat → State → List Nat × State
  | [], s => ([], s)
  | j :: js, s =>
    let (p, s) := spray (trunksTo s fun p => decide (leafOfPort s p = j)) j c s
    let (ps, s) := sprayLeaves c js s
    (p.toList ++ ps, s)

/-- The egress ports of a multicast frame's copies. -/
def mcastPorts (port : Nat) (mask : BitVec 64) (wb : Header) (s : State) : List Nat × State :=
  let c := wbClass wb
  if singleStage s then ((setBits mask).filter (edgeUsable s), s)
  else
    let e := mcEntry s (wbGroup wb)
    let m : BitVec 64 := bitsOf e 0 64
    if !bitAt e 95 then ([], s)
    else if isSpine s then
      sprayLeaves c ((setBits m).filter fun j => !(isTrunk s port && decide (leafOfPort s port = j))) s
    else if isTrunk s port then ((setBits m).filter (edgeUsable s), s)
    else
      let edges := (setBits m).filter fun n => edgeUsable s n && decide (n ≠ port)
      if bitAt e 94 then
        let (p, s) := spray (trunksTo s fun _ => true) 255 c s
        (edges ++ p.toList, s)
      else (edges, s)

/-- A multicast COL_CHUNK that comes down to a leaf reaches the leaf's own collective engine too, where the group that GROUP names has array
groups of this module among its members (R277, R287). The engine is no egress: the frame is no further copy of R146. DEDUCED
(assumption 61). -/
def mcastLocal (s : State) (port : Nat) (wb : Header) : Bool :=
  isLeaf s && isTrunk s port && decide (wbType wb = 0x21) && bitAt (mcEntry s (wbGroup wb)) 95
    && ((tabGet [] s.col.grpLocal (wbGroup wb)).any fun x => decide (x.2 = 64))

/-! ## Ingress (R119-R123) -/

/-- The tail word and CRC of a frame that this hop stomps (R122). -/
def stompFrame (s : State) (code : Nat) (f : Frame) : Frame :=
  { f with tail := putBits (putBits (putBits f.tail 31 1 1) 24 4 code) 0 12 (myFnid s).toNat, crc := ~~~frameCrc f.wb f.payload }

/-- The CODE that this hop finds (R122), or 0: a frame that arrives stomped keeps its own. Where several conditions hold, TRUNC goes before
BUF_ECC, LINK and LENGTH, of which a command gives one, and CRC comes last: DESIGN CHOICE (assumption 69). -/
def stompCode (f : Frame) (flaw : IngressFlaw) (short : Bool) : Nat :=
  if tailStomped f then 0
  else if short then 2
  else match flaw with
    | .bufEcc => 3
    | .link => 4
    | .length => 5
    | .clean => if f.crc ≠ frameCrc f.wb f.payload then 1 else 0

/-- A frame finds no cell: discarded or truncated (R135). -/
def poolDropped (port : Nat) (wb : Header) (s : State) : State :=
  devFault 0x26 sevError 0 port (wbClass wb) (wbAddr wb).toNat (wbSrc wb)
    (modSwc (fun w => { w with poolDrop := satAdd w.poolDrop 1 }) s)

/-- The frame that `n` stored cells hold: its payload is cut so that the last of them ends with the CRC and the tail (R108, R135). Where cell 0
alone is stored, a cell for the two follows it as the frame leaves: DESIGN CHOICE (assumption 69). -/
def cutFrame (n : Nat) (f : Frame) : Frame := { f with payload := f.payload.take (64 * (n - 1) - 8) }

/-- The cycle of the tick in which a frame's tail arrives (R122, R123): a free value, the frame's cells after cell 0 one a cycle or later
(R120), and before the next boundary. DESIGN CHOICE (assumption 69). -/
def tailCycle (cyc : Nat) (f : Frame) (s : State) : Nat × State :=
  let (v, s) := takeFree s
  let first := cyc + frameCells f - 1
  (first + v.toNat % max 1 (actPeriod s - first), s)

/-- Put a copy of a frame into an egress queue, charged to its ingress (R117, R128, R135), and say whether it is stomped. `most` is the number
of its cells that have been received, and `cyc` the cycle in which its tail arrives. Each copy of a multicast frame that this hop stomps counts,
since each is a whole frame (R144): DEDUCED (assumption 62). -/
def enqueue (port out cyc most : Nat) (f : Frame) (hop : Header) (flaw : IngressFlaw) (s : State) : Bool × State :=
  let c := wbClass f.wb
  let need := frameCells f
  let (cells, s) := takeCells port c (min most need) s
  if cells.isEmpty then (false, discardTo port out 6 cyc f.wb (poolDropped port f.wb s))
  else
    let short := decide (cells.length < need)
    let s := if cells.length < min most need then poolDropped port f.wb s else s
    let code := stompCode f flaw short
    let g := if code = 0 then f else stompFrame s code f
    let g := if short then cutFrame cells.length g else g
    let s := if code = 0 then s
      else mirror evStomp port port out code cyc f.wb (swcFault 0x24 sevWarn port port f.wb (bumpErr port 8 s))
    let s := poolSettle port c (modSwc (fun w => { w with queues := tabMod [] w.queues (pcKey out c) (· ++ [⟨g, hop, port, cells⟩]) }) s)
    let q := min 65535 (queueCells s out c / 64)
    (tailStomped g, cmapMod out (fun p => { p with qmax := tabMod 0 p.qmax c (max q) }) s)

/-- Queue the copies of a frame. A frame that is or becomes stomped counts once in the congestion map (R186). -/
def enqueueAll (port cyc most : Nat) (f : Frame) (hop : Header) (flaw : IngressFlaw) (outs : List Nat) (s : State) : State :=
  let (bad, s) := outs.foldl (fun a o => let (b, s) := enqueue port o cyc most f hop flaw a.2; (a.1 || b, s)) (false, s)
  if bad then cmapMod port (fun p => { p with stomp := p.stomp + 1 }) s else s

/-- Replicate a multicast frame: the original's own cells stay held and charged until every copy has been written (R148). -/
def replicate (port cyc tail : Nat) (f : Frame) (hop : Header) (flaw : IngressFlaw) (outs : List Nat) (s : State) : State :=
  let c := wbClass f.wb
  let (own, s) := takeCells port c (frameCells f) s
  if own.isEmpty then discardTo port (outs.headD 0xFF) 6 cyc f.wb (poolDropped port f.wb s)
  else
    let s := if own.length < frameCells f then poolDropped port f.wb s else s
    freeCells port c own (enqueueAll port tail own.length f hop flaw outs s)

/-- Forwarding of an arriving frame begins before its tail is seen when its egress is idle and its class is ON (R120). -/
def cutThrough (s : State) (out c : Nat) : Bool := !peerOff s out c && (List.range 4).all fun k => (queueOf s out k).isEmpty

/-- A SCHED frame's cell 0 arrives in the first cycles of a tick (R233). -/
def inGuard (s : State) (cyc : Nat) : Bool := decide (cyc < actGuard s - 16)

def flushed (n : Nat) (s : State) : State := modTick (fun t => { t with flushCnt := satAdd t.flushCnt n }) s

/-- The frame passes check 5 with the egress ports `outs`, or has none. OUT_PORT of the one entry that the mirror makes for a multicast frame is
the port of its first copy: DESIGN CHOICE (assumption 69). -/
def forward (port cyc : Nat) (f : Frame) (hop : Header) (flaw : IngressFlaw) (outs : List Nat) (local_ : Bool) (s : State) : State :=
  let wb := f.wb
  let c := wbClass wb
  if (outs.isEmpty && !local_) || !hopsOk s (hopHops hop) outs then
    discardAt port 5 cyc wb (swcFault 0x22 sevWarn port port wb (modSwc (fun w => { w with noRoute := satAdd w.noRoute 1 }) s))
  else if c = 1 ∧ inGuard s cyc then cmapMod port (fun p => { p with discard := p.discard + 1 }) (flushed 1 s)
  else if classFree s c = 0 then discardTo port (outs.headD 0xFF) 6 cyc wb (poolDropped port wb s)
  else
    let cut := outs.any fun o => cutThrough s o c
    let s := mirror evIngress port port (outs.headD 0xFF) 0 cyc wb s
    let (tail, s) := tailCycle cyc f s
    if tailStomped f && !cut then
      cmapMod port (fun p => { p with stomp := p.stomp + 1 }) (discardTo port (outs.headD 0xFF) 7 tail wb (bumpErr port 0 s))
    else
    let s := if local_ && frameGood f then toEngine 124 ⟨f, port, []⟩ s else s
    if wbMcast wb then replicate port cyc tail f hop flaw outs s else enqueueAll port tail (frameCells f) f hop flaw outs s

/-- Checks 3 to 6 of R119, and what follows. -/
def routeFrame (port cyc : Nat) (f : Frame) (hop : Header) (mask : BitVec 64) (flaw : IngressFlaw) (s : State) : State :=
  let wb := f.wb
  if !frameFormatOk wb then discardAt port 3 cyc wb (swcFault 0x21 sevWarn port port wb (bumpErr port 16 s))
  else if !partitionOk s wb then
    discardAt port 4 cyc wb (swcFault 0x23 sevWarn port port wb (modRte (fun r => { r with partDrop := satAdd r.partDrop 1 }) s))
  else if wbMcast wb then
    let (outs, s) := mcastPorts port mask wb s
    forward port cyc f hop flaw outs (mcastLocal s port wb) s
  else if wbDst wb = myFnid s then forward port cyc f hop flaw [localPort wb] false s
  else
    let (ports, key) := pathSet s (wbDst wb)
    if !hopsOk s (hopHops hop) ports then forward port cyc f hop flaw [] false s
    else
      let (o, s) := spray ports key (wbClass wb) s
      forward port cyc f hop flaw o.toList false s

/-- A frame discarded by check 1 or 2 of R119. -/
def hdrDiscard (port code cyc : Nat) (wb : Header) (s : State) : State :=
  discardAt port code cyc wb (devFault 0x20 sevWarn 0 port port 0 0xFFF (bumpErr port 24 s))

/-- A FLOW frame whose hop record and HCHK are good (R141): every field but TYPE, class and HCHK is 0, or it fails check 3. -/
def flowIn (port cyc : Nat) (h : Header) (s : State) : State :=
  if bitsOf h 0 224 ≠ 0xC03F then discardAt port 3 cyc h (swcFault 0x21 sevWarn port port h (bumpErr port 16 s))
  else mirror evIngress port port 0xFF 0 cyc h s

/-- A frame arrives at an ingress, on a TRUNK link with its hop record (R119). A FLOW frame is never buffered or forwarded (R141), nor is a
beacon (R216): its tick unit takes it before the checks, by the commands of the beacons. -/
def ingress (port cyc : Nat) (f : Frame) (hop : Header) (mask : BitVec 64) (flaw : IngressFlaw) (s : State) : State :=
  if isTrunk s port then
    let s := if hopGood hop then setPeerOff port (hopXoff hop) s else s
    if wbType f.wb = 0x30 then s
    else if !hopGood hop then hdrDiscard port 1 cyc f.wb s
    else if wbHchk f.wb ≠ hdrCheck f.wb then hdrDiscard port 2 cyc f.wb s
    else if wbType f.wb = 0x3F then flowIn port cyc f.wb s
    else routeFrame port cyc f hop 0 flaw s
  else if wbType f.wb = 0x3F ∨ wbType f.wb = 0x30 then s
  else routeFrame port cyc f 0 mask flaw s

/-- An external port receives frames in its traffic state only. -/
def receives (s : State) (port : Nat) : Bool :=
  decide (64 ≤ port) || (decide (persOf s port ≠ 0) && decide ((portOf s port).state = .traffic))

def frameIngress (port : Nat) (src : Arrive Frame) (hop : Header) (flaw : IngressFlaw) (cyc : Nat) (s : State) : State :=
  match src with
  | .given f => if receives s port then ingress port cyc f hop (hopMask hop) flaw (unrest port s) else s
  | .waiting =>
    let l := tabGet [] s.swc.inbound port
    match findPos (fun x => !ingressOff s port (wbClass x.1.wb)) l with
    | none => s
    | some i =>
      match l[i]? with
      | none => s
      | some (f, m) =>
        ingress port cyc f 0 m flaw (modSwc (fun w => { w with inbound := tabMod [] w.inbound port (nthDel · i) }) s)

def execFrameIngress (port : Nat) (src : Arrive Frame) (hop : Header) (flaw : IngressFlaw) (cyc : Nat) (s : State) : Out :=
  coreIf (decide (port < 128)) "port" s (frameIngress port src hop flaw cyc s)

/-! ## Egress (R118, R128) -/

/-- The class that deficit round robin serves at an egress, with a quantum of 6 cells (R118). The two other places of the
port's deficits say whose turn it is (0 RSP, 1 REQ) and whether this turn has had its quantum; `fuel` bounds the turns. -/
def drr (port : Nat) : Nat → State → Option Nat × State
  | 0, s => (none, s)
  | fuel + 1, s =>
    let d := s.swc.deficit
    let c := if tabGet 0 d (pcKey port 1) = 0 then 2 else 0
    let pass (d : Tab Nat) (s : State) : State :=
      modSwc (fun w => { w with deficit := tabSet 0 (tabMod 0 d (pcKey port 1) (1 - ·)) (pcKey port 3) 0 }) s
    match queueOf s port c with
    | [] => drr port fuel (pass (tabSet 0 d (pcKey port c) 0) s)
    | q :: _ =>
      if peerOff s port c then drr port fuel (pass d s)
      else
        let d := if tabGet 0 d (pcKey port 3) = 0 then tabSet 0 (tabMod 0 d (pcKey port c) (· + 6)) (pcKey port 3) 1 else d
        if q.cells.length ≤ tabGet 0 d (pcKey port c) then
          (some c, modSwc (fun w => { w with deficit := tabMod 0 d (pcKey port c) (· - q.cells.length) }) s)
        else drr port fuel (pass d s)

/-- The class that an egress serves next (R118). -/
def nextClass (port : Nat) (s : State) : Option Nat × State :=
  if !(queueOf s port 3).isEmpty && !peerOff s port 3 then (some 3, s)
  else if !(queueOf s port 1).isEmpty && !peerOff s port 1 then (some 1, s)
  else drr port 3 s

/-- The waybill of a FLOW frame (R141). -/
def flowWb : Header := mkWb { type := 0x3F, cls := .ctrl }

/-- A frame that leaves the core at a port: on a TRUNK link with its new hop record (R114, R162), into an end-point block, or to the unit
behind a node port. QDEPTH is the depth of the queue without this frame: DEDUCED (assumption 62). Frames that wait for an admission point or
the collective engine keep their cells. -/
def leave (port : Nat) (q : QFrame) (s : State) : State :=
  let f := q.frame
  let wb := f.wb
  let c := wbClass wb
  let freed (s : State) : State := freeCells q.inPort c q.cells s
  if isTrunk s port then
    let h := mkHop (hopHops q.hop + 1) (xoffBits s port) (queueCells s port c / 256) 0
    freed (putLine port (frameLine f h) (modSwc (fun w => { w with trunkOut := tabMod [] w.trunkOut port (· ++ [(f, h)]) }) s))
  else if c = 2 then
    freed (modRel (if port < 64 then .ep port else .rte) (fun r => { r with answersIn := r.answersIn ++ [f] }) s)
  else if c = 3 then
    freed (modSwc (fun w => { w with nodeIn := tabMod [] w.nodeIn port (· ++ [(f, q.inPort, [])]) }) s)
  else if wbMcast wb then
    let s := freed s
    if wbType wb = 0x21 ∧ frameGood f then toEngine port ⟨f, q.inPort, []⟩ s else s
  else modSwc (fun w => { w with nodeIn := tabMod [] w.nodeIn port (· ++ [(f, q.inPort, q.cells)]) }) s

/-- An egress may send: an external port in its traffic state and not quiet. One in P1 wakes as it sends (R418). -/
def sends (s : State) (port : Nat) : Bool := decide (64 ≤ port) || (receives s port && !(portOf s port).quiet)

/-- Cells leave at an egress (R186). -/
def cellsLeave (port n : Nat) (s : State) : State := cmapMod port (fun p => { p with cellsOut := p.cellsOut + n }) s

def frameEgress (port cyc : Nat) (s : State) : State :=
  if !sends s port then s
  else if isTrunk s port && tabGet false s.swc.flowDue port then
    let s := mirror evEgress port port port 0 cyc flowWb (unrest port s)
    let h := mkHop 0 (xoffBits s port) 0 0
    cellsLeave port 1 (putLine port (flowLine flowWb h) (modSwc (fun w => { w with
      flowDue := tabSet false w.flowDue port false, flowOut := tabMod [] w.flowOut port (· ++ [(flowWb, h)]) }) s))
  else
    match nextClass port s with
    | (none, s) => s
    | (some c, s) =>
      match queueOf s port c with
      | [] => s
      | q :: rest =>
        let s := mirror evEgress port q.inPort port 0 cyc q.frame.wb (unrest port s)
        let s := modSwc (fun w => { w with queues := tabSet [] w.queues (pcKey port c) rest }) s
        leave port q (cellsLeave port (frameCells q.frame) s)

def execFrameEgress (port : Nat) (cyc : Nat) (s : State) : Out := coreIf (decide (port < 128)) "port" s (frameEgress port cyc s)

/-! ## Discards (R165, R233) -/

/-- Discard what an egress queue holds. -/
def dropQueue (port c : Nat) (s : State) : State :=
  let l := queueOf s port c
  forEach l (fun q => freeCells q.inPort c q.cells) (modSwc (fun w => { w with queues := tabSet [] w.queues (pcKey port c) [] }) s)

/-- A port leaves every path set: its queued frames are discarded and counted in NOROUTE (R165). -/
def dropEgress (port : Nat) (s : State) : State :=
  forEach [0, 1, 2, 3] (fun c s =>
    let n := (queueOf s port c).length
    modSwc (fun w => { w with noRoute := satAdd w.noRoute n }) (dropQueue port c s)) s

/-- The flush of SCHED frames at the boundary (R233): those in egress queues, and those still on their way in. -/
def flushSched (s : State) : State :=
  let s := forEach (List.range 128) (fun p s => flushed (queueOf s p 1).length (dropQueue p 1 s)) s
  let gone := (s.swc.inbound.map fun e => (e.2.filter fun x => decide (wbClass x.1.wb = 1)).length).sum
  let kept := s.swc.inbound.map fun e => (e.1, e.2.filter fun x => decide (wbClass x.1.wb ≠ 1))
  flushed gone (modSwc (fun w => { w with inbound := kept.filter fun e => !e.2.isEmpty }) s)

/-! ## FLOW_FRAME and FLOW_REPEAT (R141) -/

/-- A hop record, or a FLOW frame whose cell 0 passes the checks of R119, sets the peer's state. The command does not say in which cycle of
the tick cell 0 arrived: CYCLE of what the mirror records is a free value (assumption 5). -/
def flowFrame (port : Nat) (wb : Option Header) (hop : Header) (s : State) : State :=
  if !(isTrunk s port && receives s port) then s
  else match wb with
    | none => if hopGood hop then setPeerOff port (hopXoff hop) s else s
    | some h =>
      let (v, s) := takeFree (unrest port s)
      let cyc := v.toNat % max 1 (actPeriod s)
      if !hopGood hop then hdrDiscard port 1 cyc h s
      else
        let s := setPeerOff port (hopXoff hop) s
        if wbHchk h ≠ hdrCheck h then hdrDiscard port 2 cyc h s else flowIn port cyc h s
def execFlowFrame (port : Nat) (wb : Option Header) (hop : Header) (s : State) : Out :=
  coreIf (decide (port < 64)) "port" s (flowFrame port wb hop s)

def flowRepeat (port : Nat) (s : State) : State :=
  if isTrunk s port && receives s port then modSwc (fun w => { w with flowDue := tabSet false w.flowDue port true }) s else s
def execFlowRepeat (port : Nat) (s : State) : Out := coreIf (decide (port < 64)) "port" s (flowRepeat port s)

/-! ## The auditor (R137-R139) -/

/-- The cells that belong to frames: queued, waiting for admission, held for reorder, or waiting for the collective engine. -/
def ownedCells (s : State) : List Nat :=
  let rels := s.rte.rel :: (s.eps.map fun e => e.2.rel)
  (s.swc.queues.flatMap fun e => e.2.flatMap fun q => q.cells) ++ (s.swc.nodeIn.flatMap fun e => e.2.flatMap fun x => x.2.2)
    ++ (rels.flatMap fun r => r.rx.flatMap fun e => e.2.held.flatMap fun h => h.cells)
    ++ (s.col.inbox.flatMap fun e => e.2.flatMap fun h => h.cells)

/-- A leaked cell is found. -/
def leakCell (x : Nat) (s : State) : State :=
  let s := modPool (fun p => { p with leak := true, lastCell := BitVec.ofNat 22 x, leakCnt := satAdd p.leakCnt 1 }) s
  let s := devFault0 0x28 sevError (x / 65536) x s
  if s.pool.auditReclaim then
    match tabGet 0 s.pool.charge x with
    | 0 => modPool (fun p => { p with alloc := p.alloc.erase x, freeLen := tabMod 65536 p.freeLen (x / 65536) (· + 1) }) s
    | q + 1 => freeCells (q / 4) (q % 4) [x] s
  else s

/-- The count check of a bank. -/
def countCheck (b : Nat) (s : State) : State :=
  if 65536 - (bankAlloc s b).length = tabGet 65536 s.pool.freeLen b then s
  else devFault0 0x29 sevFatal b 0 (modPool (fun p => { p with countMismatch := true }) s)

/-- A pass starts and makes its checks. BANK, which says how far the pass has come, is a free value (assumption 5). -/
def auditPass (s : State) : State :=
  if !s.pool.auditEn || s.pool.auditActive then s
  else
    let owned := ownedCells s
    let s := forEach (s.pool.alloc.filter fun x => !owned.contains x) leakCell (forEach (List.range 48) countCheck s)
    let (v, s) := takeFree s
    modPool (fun p => { p with auditActive := true, auditBank := BitVec.ofNat 6 (v.toNat % 48) }) s
def execAuditPass (s : State) : Out := coreLive s (auditPass s)

def auditPassEnd (s : State) : State :=
  if s.pool.auditActive then modPool (fun p => { p with auditActive := false, auditBank := 0, passCnt := p.passCnt + 1 }) s else s
def execAuditPassEnd (s : State) : Out := coreLive s (auditPassEnd s)

/-! ## Congestion maps (R185, R186) -/

def cmapPeriodOf (s : State) : Nat := max 100 s.rte.cmapPeriodUs.toNat

/-- OFF_PCT of class `c`: 0 where the period has not seen it OFF, 100 where it has not seen it ON, and otherwise a free value from 0 to 100, a
share of time (assumption 5). -/
def offPct (s : State) (p c : Nat) : Nat :=
  let e := tabGet {} s.rte.cmapPorts p
  if !e.seenOff.contains c then 0 else if e.stillOff.contains c then 100 else (Config.freeBits (s.freeCount + 4 * p + c)).toNat % 101

/-- A port's entry. -/
def cmapEntry (s : State) (p : Nat) : List Byte :=
  let e := tabGet {} s.rte.cmapPorts p
  let sat (n : Nat) : Nat := min n (2 ^ 32 - 1)
  leBytes 8 (min e.cellsOut (2 ^ 64 - 1)) ++ ((List.range 4).flatMap fun c => leBytes 2 (tabGet 0 e.qmax c))
    ++ ((List.range 4).flatMap fun c => leBytes 1 (offPct s p c))
    ++ leBytes 4 (sat e.discard) ++ leBytes 4 (sat e.stomp) ++ zeros 4

/-- The ports' entries at the start of a period: the queues that stand are the first depths that QMAX sees, and the classes that are OFF the first
that OFF_PCT sees (R186). -/
def cmapFresh (s : State) : Tab CmapPort :=
  let t := s.swc.queues.foldl (fun t e =>
    let q := min 65535 ((e.2.map fun x => x.cells.length).sum / 64)
    tabMod {} t (e.1 / 4) (fun p => { p with qmax := tabMod 0 p.qmax (e.1 % 4) (max q) })) []
  s.swc.peerOff.foldl (fun t e =>
    if e.2 then tabMod {} t (e.1 / 4) (fun p => { p with seenOff := p.seenOff ++ [e.1 % 4], stillOff := p.stillOff ++ [e.1 % 4] }) else t) t

/-- The map's bytes from offset 8 on. Its counts saturate (R9). -/
def cmapBody (s : State) : List Byte :=
  bvBytes s.rte.cmapStart ++ bvBytes s.tick.now ++ leBytes 2 (myFnid s).toNat ++ leBytes 1 (planeIdx s) ++ leBytes 1 (roleOf s)
    ++ leBytes 4 (cmapPeriodOf s) ++ bvBytes (trunkUp s) ++ leBytes 4 (min s.rte.cmapRetx (2 ^ 32 - 1)) ++ leBytes 4 (min s.rte.cmapTimeout (2 ^ 32 - 1)) ++ zeros 16
    ++ ((List.range 128).flatMap (cmapEntry s))

/-- A period ends: the map is written in its three steps, or the period is added to the next map's. -/
def cmapPeriod (written : Bool) (s : State) : State :=
  if !s.rte.cmapEn then s
  else if !written then modRte (fun r => { r with cmapPeriods := r.cmapPeriods + 1 }) s
  else
    let k := s.rte.cmapCount + 1
    let at_ := s.rte.cmapBase.toNat + k.toNat % 2 * 0x2000
    let body := cmapBody s
    let (_, s) := dieWrite at_ (zeros 8) s
    let (_, s) := dieWrite (at_ + 8) body s
    let (_, s) := dieWrite at_ (bvBytes k) s
    modRte (fun r => { r with cmapCount := k, cmapPorts := cmapFresh s, cmapStart := s.tick.now, cmapRetx := 0, cmapTimeout := 0, cmapPeriods := 0 })
      { s with freeCount := s.freeCount + 512 }
def execCmapPeriod (written : Bool) (s : State) : Out := coreLive s (cmapPeriod written s)

end Sys2Proof.Machine
end

