-- ==== Sys2Proof/Machine/Reliability.lean ====
section
/-! DEFINITION. The commands of end-to-end recovery: admission, responses, timers and seals (R158, R166-R179, R205, R206). -/

namespace Sys2Proof.Machine

open Sys2Proof

/-- The admission point behind an egress port (R166). -/
def pointAt (port : Nat) : Point := if port < 64 then .ep port else .rte

/-- A point names an end-point block that exists, or the RTE. -/
def pointOk (p : Point) : Bool := match p with | .ep n => decide (n < 64) | .rte => true

def lateDisc (p : Point) (s : State) : State := modRel p (fun r => { r with lateDisc := satAdd r.lateDisc 1 }) s

/-! ## FRAME_ADMIT (R166-R170, R233) -/

/-- Free the cells of a frame that does not stay at its admission point. -/
def discardHeld (h : HeldFrame) (s : State) : State := freeCells h.inPort (wbClass h.frame.wb) h.cells s

/-- Rows 3 to 7 of R167. -/
def admitOrdered (p : Point) (port : Nat) (h : HeldFrame) (s : State) : State :=
  let wb := h.frame.wb
  let key := seriesKey (wbSrc wb) 0
  let x := rxOf s p key
  let c := seqCount (wbSeq wb)
  if c = x.e then
    if dedupRoom s p wb then
      let stale := x.held.filter fun q => decide (seqCount (wbSeq q.frame.wb) = c)
      let s := modRx p key (fun x => { x with e := x.e + 1, held := x.held.filter fun q => decide (seqCount (wbSeq q.frame.wb) ≠ c) }) (dropHeld stale s)
      admitHeld p port key x.held.length (admitFrame p port h s)
    else discardHeld h (sendNack p wb 4 0 false s)
  else if countPrecedes x.e c && decide ((c - x.e).toNat < 2048) then
    if x.held.any fun q => decide (wbSeq q.frame.wb = wbSeq wb) then
      discardHeld h (modRel p (fun r => { r with dupRx := satAdd r.dupRx 1 }) s)
    else if heldMax p ≤ heldCount s p then discardHeld h (sendNack p wb 2 0 false s)
    else modRx p key (fun x => { x with held := x.held ++ [h] }) s
  else if countPrecedes c x.e then answerDuplicate p port h.frame (discardHeld h s)
  else discardHeld h (relFault p 0x0B 0x32 sevWarn 0 (wbSrc wb).toNat (wbAddr wb).toNat (wbSrc wb) s)

/-- Admission of a SCHED frame (R170): a COL_CHUNK that matches an entry is a duplicate. -/
def admitSched (p : Point) (port : Nat) (h : HeldFrame) (s : State) : State :=
  let wb := h.frame.wb
  if wbType wb = 0x21 ∧ (tabGet none (relOf s p).dedup (wbDedupKey wb)).isSome then answerDuplicate p port h.frame (discardHeld h s)
  else if dedupRoom s p wb then admitFrame p port h s
  else discardHeld h (sendNack p wb 4 0 false s)

/-- A frame at its admission point. -/
def admission (p : Point) (port : Nat) (h : HeldFrame) (straddles : Bool) (s : State) : State :=
  let wb := h.frame.wb
  let key := seriesKey (wbSrc wb) (wbKind wb)
  if wbHchk wb ≠ hdrCheck wb then discardHeld h s
  else if wbClass wb = 1 && straddles then discardHeld h (flushed 1 s)
  else if !frameGood h.frame then discardHeld h (sendNack p wb 1 0 false s)
  else
    let x := rxOf s p key
    let g := seqGen (wbSeq wb)
    if genOlder g x.g then discardHeld h (lateDisc p s)
    else
      let s := if genNewer g x.g then adoptGen p key g s else s
      retryHeld p (if wbClass wb = 1 then admitSched p port h s else admitOrdered p port h s)

/-- A memory node port of a node in P3: its frames wait there, and hold their cells, until the node is awake (R418). -/
def portAsleep (s : State) (port : Nat) : Bool := decide (s.pwr.node = 3) && decide (64 ≤ port) && decide (port < 112)

def frameAdmit (port : Nat) (src : Arrive Frame) (straddles : Bool) (s : State) : State :=
  match src with
  | .given f =>
    if 1 < wbClass f.wb ∨ svcQueueFull s port f.wb then s
    else if portAsleep s port then modSwc (fun w => { w with nodeIn := tabMod [] w.nodeIn port (· ++ [(f, port, [])]) }) s
    else admission (pointAt port) port ⟨f, port, []⟩ straddles s
  | .waiting =>
    if portAsleep s port then s else
    match findPos (fun x => decide (wbClass x.1.wb ≤ 1) && !svcQueueFull s port x.1.wb) (tabGet [] s.swc.nodeIn port) with
    | none => s
    | some i =>
      match (tabGet [] s.swc.nodeIn port)[i]? with
      | none => s
      | some (f, inPort, cells) =>
        admission (pointAt port) port ⟨f, inPort, cells⟩ straddles (modSwc (fun w => { w with nodeIn := tabMod [] w.nodeIn port (nthDel · i) }) s)

def execFrameAdmit (port : Nat) (src : Arrive Frame) (straddles : Bool) (s : State) : Out :=
  coreIf (decide (port < 127)) "admission point" s (frameAdmit port src straddles s)

/-! ## GAP_NACK (R169) -/

def gapNack (p : Point) (src : BitVec 12) (s : State) : State :=
  let x := rxOf s p (seriesKey src 0)
  match x.held with
  | [] => s
  | h :: _ =>
    let req := hdrPut (hdrPut h.frame.wb 16 3 (mkSeq x.g x.e).toNat) 19 3 0
    sendLoose (answerPort p h.frame.wb) (respWb req 0x12 0 (rflagsOf 3 true false 0) 0) []
      (modRel p (fun r => { r with nackTx := satAdd r.nackTx 1 }) s)
def execGapNack (p : Point) (src : BitVec 12) (s : State) : Out := coreIf (pointOk p) "end-point block" s (gapNack p src s)

/-! ## Responses (R158, R173) -/

/-- The response that a source takes: the oldest of its type, or one presented. A bad frame is discarded (R123). -/
def takeAnswer (p : Point) (type : Byte) (src : Arrive Frame) (f : Frame → State → State) (s : State) : State :=
  let run (x : Frame) (s : State) : State := if frameGood x then f x s else s
  match src with
  | .given x => if wbType x.wb = type then run x s else s
  | .waiting =>
    match (relOf s p).answersIn.find? fun x => decide (wbType x.wb = type) with
    | none => s
    | some x => run x (modRel p (fun r => { r with answersIn := r.answersIn.erase x }) s)

/-- The context that a response matches (R158). -/
def matchTag (s : State) (p : Point) (wb : Header) : Option Nat :=
  let tag := wbTag wb
  let i := (bitsOf tag 0 12).toNat
  let c := ctxOf s p i
  if (bitsOf tag 12 6).toNat = pointPort p ∧ bitsOf tag 18 6 = c.gen ∧ ctxOpen c ∧ wbSeq wb = wbSeq c.frame.wb then some i else none

/-- The ISSUED context that a NACK with BY_SEQ names by its series and SEQ. -/
def matchSeq (s : State) (p : Point) (wb : Header) : Option Nat :=
  ((relOf s p).ctxs.find? fun e => decide (e.2.st = .issued) && decide (ctxSeries e.2 = seriesKey (wbSrc wb) (rspKind wb))
    && decide (wbSeq e.2.frame.wb = wbSeq wb)).map (·.1)

/-- A matched response completes an ISSUED context; a HELD one has its answer already. -/
def takeResponse (p : Point) (data : Header → List Byte → List Byte) (f : Frame) (s : State) : State :=
  match matchTag s p f.wb with
  | none => lateDisc p s
  | some i => if (ctxOf s p i).st = .issued then completeCtx p i (rspStatus f.wb) (data f.wb f.payload) s else s

def execRspAck (p : Point) (src : Arrive Frame) (s : State) : Out :=
  coreIf (pointOk p) "end-point block" s (takeAnswer p 0x10 src (takeResponse p fun _ _ => []) s)
def execRspData (p : Point) (src : Arrive Frame) (s : State) : Out :=
  coreIf (pointOk p) "end-point block" s (takeAnswer p 0x11 src (takeResponse p fun wb pl => pl.take (wbLength wb)) s)

/-- A counted NACK or an expiry: the next attempt, or TIMEOUT (R174). -/
def nextAttempt (p : Point) (i : Nat) (s : State) : State :=
  let k := (ctxOf s p i).attempt
  if k < retxMax (relOf s p).retxCfg then resendCtx p i (k + 1) s else timeoutCtx p i s

/-- RSP_NACK by its REASON (R173). -/
def takeNack (p : Point) (f : Frame) (s : State) : State :=
  let wb := f.wb
  match (if rspBySeq wb then matchSeq s p wb else matchTag s p wb) with
  | none => lateDisc p s
  | some i =>
    if (ctxOf s p i).st ≠ .issued then s
    else if rspReason wb = 5 then completeCtx p i 0x14 [] s
    else if rspReason wb = 2 ∨ rspReason wb = 4 then modCtx p i (fun c => { c with atExpiry := true }) s
    else nextAttempt p i s
def execRspNack (p : Point) (src : Arrive Frame) (s : State) : Out :=
  coreIf (pointOk p) "end-point block" s (takeAnswer p 0x12 src (takeNack p) s)

/-! ## Timers (R174, R175, R179) -/

def ctxNumOk (p : Point) (i : Nat) : Bool := pointOk p && decide (i < 4096)

/-- The expiry of a context's retransmission timer. -/
def retxTimer (p : Point) (i : Nat) (s : State) : State :=
  let c := ctxOf s p i
  if c.st ≠ .issued then s
  else if c.atExpiry then resendCtx p i c.attempt s
  else nextAttempt p i s
def execRetxTimer (p : Point) (ctx : Nat) (s : State) : Out := coreIf (ctxNumOk p ctx) "context" s (retxTimer p ctx s)

def execContextLifeExpiry (p : Point) (ctx : Nat) (s : State) : Out := coreIf (ctxNumOk p ctx) "context" s (timeoutCtx p ctx s)

/-- One generation change of a series is HOLD_MS old. -/
def execSeriesHoldRelease (p : Point) (dst : BitVec 12) (kind : SKind) (s : State) : Out :=
  coreIf (pointOk p) "end-point block" s (modRel p (fun r => { r with
    series := tabMod {} r.series (seriesKey dst (kindCode kind)) (fun x => { x with timers := x.timers - 1 }) }) s)

def dedupExpiry (p : Point) (src : BitVec 12) (kind : SKind) (seq : BitVec 24) (s : State) : State :=
  let k := dedupKey src (kindCode kind) seq
  match tabGet none (relOf s p).dedup k with
  | some d => if d.done then retryHeld p (modRel p (fun r => { r with dedup := tabSet none r.dedup k none }) s) else s
  | none => s
def execDedupHoldExpiry (p : Point) (src : BitVec 12) (kind : SKind) (seq : BitVec 24) (s : State) : Out :=
  coreIf (pointOk p) "end-point block" s (dedupExpiry p src kind seq s)

/-! ## Seals (R205, R206) -/

/-- A pending SEAL goes out again, or is abandoned after RETX_MAX + 1 sends. -/
def sealResend (p : Point) (dst : BitVec 12) (kind : SKind) (s : State) : State :=
  let key := seriesKey dst (kindCode kind)
  let r := relOf s p
  match (tabGet {} r.series key).sealing with
  | none => s
  | some w =>
    if w.sends ≤ retxMax r.retxCfg then sendSeal p key s
    else relFault p 0x09 0x30 sevError 0x12 dst.toNat 0 0xFFF (modRel p (fun r => { r with
      series := tabMod {} r.series key (fun x => { x with sealing := none }), sealFail := satAdd r.sealFail 1 }) s)
def execSealResend (p : Point) (dst : BitVec 12) (kind : SKind) (s : State) : Out :=
  coreIf (pointOk p) "end-point block" s (sealResend p dst kind s)

/-- The fields of a CAIRN frame. -/
def cairnKind (wb : Header) : Byte := hdrByte wb 8
def cairnSkind (wb : Header) : Nat := ofB (bitAt wb 72)
def cairnGen (wb : Header) : BitVec 4 := bitsOf wb 80 4

/-- The port at which a point's control frames arrive (R14). -/
def takeCtrl (port : Nat) (pick : Header → Bool) (src : Arrive Frame) (f : Frame → Nat → State → State) (s : State) : State :=
  let run (x : Frame) (inPort : Nat) (s : State) : State := if frameGood x then f x inPort s else s
  match src with
  | .given x => if pick x.wb then run x port s else s
  | .waiting =>
    let l := tabGet [] s.swc.nodeIn port
    match findPos (fun x => pick x.1.wb) l with
    | none => s
    | some i =>
      match l[i]? with
      | none => s
      | some (x, inPort, _) => run x inPort (modSwc (fun w => { w with nodeIn := tabMod [] w.nodeIn port (nthDel · i) }) s)

/-- A SEAL, or a CAIRN frame of no known kind, at an admission point. -/
def takeSeal (p : Point) (f : Frame) (s : State) : State :=
  let wb := f.wb
  if cairnKind wb ≠ 1 ∨ wbPlen wb ≠ 0 then lateDisc p s
  else
    let key := seriesKey (wbSrc wb) (cairnSkind wb)
    let x := rxOf s p key
    let g := cairnGen wb
    if genOlder g x.g then lateDisc p s
    else
      let s := if genNewer g x.g then adoptGen p key g s else s
      retryHeld p (modRx p key (fun x => { x with sealed := some wb }) s)
def sealPick (wb : Header) : Bool := decide (wbType wb = 0x32) && decide (cairnKind wb ≠ 2)
def execSealFrame (port : Nat) (src : Arrive Frame) (s : State) : Out :=
  coreIf (decide (port < 128)) "port" s (takeCtrl port sealPick src (fun f _ => takeSeal (pointAt port) f) s)

/-- SEALED leaves once no frame of an older generation is unanswered. -/
def sealedSend (p : Point) (src : BitVec 12) (kind : SKind) (s : State) : State :=
  let key := seriesKey src (kindCode kind)
  let x := rxOf s p key
  match x.sealed with
  | none => s
  | some h =>
    if x.unanswered.any fun q => decide (seqGen q ≠ x.g) then s
    else
      let wb := mkWb { type := 0x32, cls := .ctrl, plen := 1, plane := planeIdx s, src := (wbDst h).toNat, dst := (wbSrc h).toNat
                       addr := 2 + (wbAddr h).toNat % 2 ^ 24 / 2 ^ 8 * 2 ^ 8, length := 32 }
      let payload := leBytes 4 x.eOld.toNat ++ bvBytes x.freed ++ zeros 26
      sendLoose (ctrlPort p) wb payload (modRx p key (fun x => { x with sealed := none }) s)
def execSealedSend (p : Point) (src : BitVec 12) (kind : SKind) (s : State) : Out :=
  coreIf (pointOk p) "end-point block" s (sealedSend p src kind s)

/-- SEALED at the source: it ends the seal when it echoes the newest GEN. -/
def takeSealed (p : Point) (f : Frame) (s : State) : State :=
  let wb := f.wb
  let key := seriesKey (wbSrc wb) (cairnSkind wb)
  let x := tabGet {} (relOf s p).series key
  if wbPlen wb = 1 ∧ x.sealing.isSome ∧ cairnGen wb = x.gen then
    modRel p (fun r => { r with series := tabMod {} r.series key (fun x => { x with sealing := none }) }) s
  else lateDisc p s
def sealedPick (wb : Header) : Bool := decide (wbType wb = 0x32) && decide (cairnKind wb = 2)
def execSealed (p : Point) (src : Arrive Frame) (s : State) : Out :=
  coreIf (pointOk p) "end-point block" s (takeCtrl (ctrlPort p) sealedPick src (fun f _ => takeSealed p f) s)

end Sys2Proof.Machine
end

