-- ==== Sys2Proof/Machine/Windows.lean ====
section
/-! DEFINITION. Writes of the window, partition, routing, pool and mirror registers, as what each does to the block
(R23, R31-R44, R59-R61, R129-R131, R147, R150, R163, R164, R177, R185). Roles and the ledger come in Mahel. -/

namespace Sys2Proof.Machine

open Sys2Proof

/-- What a register write leaves: the state, whether the register refused the change under its own rule (R472), and whether the
word read back shows BUSY (R466). -/
structure Wrote where
  state : State
  refused : Bool := false
  busy : Bool := false

/-- The write was taken, or ignored with no refusal named. -/
def wrote (s : State) : Wrote := { state := s }
/-- The register refused the change. -/
def refused (s : State) : Wrote := { state := s, refused := true }
/-- An operation was started: the word read back shows BUSY. -/
def started (s : State) : Wrote := { state := s, busy := true }

/-! ## The FNID (R29-R35) -/

/-- The error cause of the module's FNID, 0 none (R29-R32), or none while roll call has not ended. -/
def fnidCause (s : State) : Option Nat :=
  let pin := s.mgt.nv.fnidPin
  let c := s.mgt.addr.toNat
  let p := planesM1 s + 1
  let slot := c / p
  let l := leavesM1 s + 1
  let mismatch := match s.mgt.rackSeen with | some r => decide (r ≠ bitsOf s.mgt.nv.rackId 0 16) | none => false
  if mismatch then some 1
  else if bitAt pin 31 then
    (if bitAt pin 11 && decide ((bitsOf pin 7 4).toNat = planeIdx s) && decide ((bitsOf pin 0 7).toNat ≤ 95) then some 0 else some 5)
  else if !s.mgt.adopted then (if 6 ≤ s.glb.step.toNat then some 6 else none)
  else if c % p ≠ planeIdx s then some 2
  else if (if singleStage s then 1 else l + spinesM1 s + 1) ≤ slot then some 3
  else if !singleStage s && (decide (slot < l) != isLeaf s) then some 4
  else some 0

/-- Evaluate the FNID (R32). -/
def evalFnid (s : State) : State :=
  let pin := s.mgt.nv.fnidPin
  let set (valid pinned err : Bool) (cause : Nat) (f : BitVec 12) (s : State) : State :=
    modGlb (fun g => { g with fnidValid := valid, fnidPinned := pinned, fnidErr := err, errCause := BitVec.ofNat 3 cause, fnid := f }) s
  match fnidCause s with
  | none => set false false false 0 0xFFF s
  | some 0 =>
    if bitAt pin 31 then set true true false 0 (bitsOf pin 0 12) s
    else set true false false 0 (slotFnid s (s.mgt.addr.toNat / (planesM1 s + 1))) s
  | some c => set false false true c 0xFFF s

def nvMod (f : Nv → Nv) (s : State) : State := modNv f s

/-- GLB_TOPOLOGY (R22-R24, R59). -/
def topologyWrite (v : W32) (s : State) : Wrote :=
  if s.glb.locked then refused s
  else
    let old := planesM1 s
    let s := nvMod (fun n => { n with topology := v &&& 0xFFFFF800 }) s
    let s := if planesM1 s = old then s
      else
        let m := resetMap (planesM1 s)
        steerMapAll (modRte (fun r => { r with planeMap := m, planeStage := m, planePending := false }) s)
    wrote (evalFnid s)

/-- STEP of GLB_BOOT_STAT reaches a step (R487, R497). Step 7 is shown once a port has left RESET, and step 8 once one has
reached TRAFFIC (DEDUCED). -/
def reachStep (k : BitVec 4) (s : State) : State := modGlb (fun g => { g with step := if g.step < k then k else g.step }) s

/-- A module that PIN_EN pins needs no roll call: past step 5 its FNID is formed, which is step 6 (R31, R487). -/
def pinStep (s : State) : State := if bitAt s.mgt.nv.fnidPin 31 ∧ 5 ≤ s.glb.step.toNat then reachStep 6 s else s

/-- GLB_FNID_PIN and GLB_RACK_ID (R33-R35). -/
def fnidPinWrite (v : W32) (s : State) : Wrote :=
  if s.glb.locked then refused s else wrote (evalFnid (pinStep (nvMod (fun n => { n with fnidPin := v &&& 0x80000FFF }) s)))
def rackIdWrite (v : W32) (s : State) : Wrote :=
  if s.glb.locked then refused s else wrote (evalFnid (nvMod (fun n => { n with rackId := v &&& 0xFFFF }) s))

/-- EP[n]_SRC_FNID (R36). -/
def srcFnidWrite (n : Nat) (v : W32) (s : State) : Wrote :=
  let f : BitVec 12 := bitsOf v 0 12
  let e := epOf s n
  if (bitAt f 11 && decide (f ≠ 0xFFF)) || decide (0 < ctxsUsed e.rel) || !e.descs.isEmpty then refused s
  else wrote (modEp n (fun e => { e with srcFnid := f }) s)

/-! ## Windows (R40-R44) -/

/-- A context's frame was resolved through window `i`: a COPY's loads through WIN_A, its stores through WIN_B. -/
def ctxInWindow (e : Ep) (i : BitVec 10) (c : Ctx) : Bool :=
  decide (c.st ≠ .free) && (match c.owner with
    | .direct _ _ _ w => decide (w = i)
    | .desc slot _ second => match tabGet none e.descs slot with
      | some d => if isCopy d.raw && second then decide (d.winB = some i) else decide (d.winA = i)
      | none => false
    | .call slot => match tabGet none e.descs slot with
      | some d => decide (d.winA = i)
      | none => false
    | _ => false)

/-- A descriptor was resolved through a window at its toll (R96). -/
def descInWindow (i : BitVec 10) (d : Desc) : Bool := decide (d.winA = i) || decide (d.winB = some i)

/-- INFLIGHT of EP[n]_WIN_STAT (R42). -/
def winInflight (s : State) (n : Nat) (i : BitVec 10) : Nat :=
  let e := epOf s n
  min 8191 ((e.rel.ctxs.filter fun c => ctxInWindow e i c.2).length
    + (e.descs.filter fun d => match d.2 with | some x => descInWindow i x | none => false).length)

/-- The STATUS that a WRITE's checks give (R43). -/
def winCheck (s : State) (n : Nat) (i : BitVec 10) (w : BitVec 128) : Nat :=
  let old := winOf s n i
  if !winValid w || bitAt w 126 || decide (bitsOf w 116 5 ≠ 0) then 1
  else if winSize w = 0 ∨ 2 ^ 40 < winBase w + winSize w then 2
  else if 0xFE0 ≤ (winFnid w).toNat then 3
  else if winValid old then 4
  else if (tabGet none (epOf s n).steerPend i.toNat).isSome then 6
  else if winEpoch w = winEpoch old then 5
  else 0

/-- Send the steering update of a window's entry when R78 calls for one. -/
def steerWin (n : Nat) (i : BitVec 10) (s : State) : State :=
  if steerActive (epOf s n) then sendSteer n (steerWinMsg i (winOf s n i)) s else s

/-- WRITE (R43). -/
def winCommit (n : Nat) (i : BitVec 10) (s : State) : State :=
  let w := (epOf s n).winData
  let c := winCheck s n i w
  let s := modEp n (fun e => { e with winStatus := BitVec.ofNat 3 c }) s
  if c ≠ 0 then s else steerWin n i (modEp n (fun e => { e with win := tabSet 0 e.win i.toNat w }) s)

/-- A fetched descriptor whose data transfer has not begun; for a COLLECTIVE, one that no slot has taken. -/
def descIdle (s : State) (n i : Nat) (d : Desc) : Bool :=
  if isCollective d.raw then !d.started || s.col.held.any fun m => decide (m.binder = .ep n i)
  else if isService d.raw then !d.started
  else !d.begun

/-- Complete a descriptor that its invalidated window cancels (R44). -/
def cancelDesc (n i : Nat) (s : State) : State :=
  match descOf s n i with
  | none => s
  | some d =>
    if descIdle s n i d then
      let s := modCol (fun c => { c with held := c.held.filter fun m => decide (m.binder ≠ .ep n i) }) s
      finishDesc n i (modDesc n i (fun d => { d with status := 1 }) s)
    else s

/-- INVALIDATE (R44). BUSY stays 1 while an update waits for its acknowledgement. -/
def winInvalidate (n : Nat) (i : BitVec 10) (s : State) : State :=
  let s := modEp n (fun e => { e with winStatus := 0, win := tabMod 0 e.win i.toNat (putBits · 127 1 0) }) s
  let slots := ((epOf s n).descs.filter fun d => match d.2 with | some x => descInWindow i x | none => false).map (·.1)
  let s := epWork n (forEach slots (cancelDesc n) s)
  if steerActive (epOf s n) then
    let q := (epOf s n).steerSeq
    modEp n (fun e => { e with winBusy := true, winWait := some q }) (sendSteer n (steerWinMsg i (winOf s n i)) s)
  else s

/-- EP[n]_WIN_CTL (R40). -/
def winCtlWrite (n : Nat) (v : W32) (s : State) : Wrote :=
  if (epOf s n).winBusy then wrote s
  else
    let i : BitVec 10 := bitsOf v 0 10
    let s := modEp n (fun e => { e with winIndex := i }) s
    match (bitsOf v 26 2).toNat with
    | 1 => started (winCommit n i s)
    | 2 => started (modEp n (fun e => { e with winStatus := 0, winData := tabGet 0 e.win i.toNat }) s)
    | 3 => started (winInvalidate n i s)
    | _ => wrote s

/-! ## The plane map (R59-R61) -/

/-- RTE_PLANE_CTL (R60). -/
def planeCtlWrite (v : W32) (s : State) : Wrote :=
  if bitAt v 29 then wrote (modRte (fun r => { r with planePending := false }) s)
  else if bitAt v 30 && !s.rte.planePending then
    wrote (modRte (fun r => { r with planePending := true, planeLatched := r.planeCommit }) s)
  else wrote s

/-- The due commit of a boundary at tick `now` (R61). A refused one leaves a REFUSED entry of the device. -/
def planeCommit (s : State) : State :=
  if !s.rte.planePending || decide (s.tick.now < s.rte.planeLatched) then s
  else
    let s := modRte (fun r => { r with planePending := false }) s
    if (List.range 64).all fun i => decide ((bitsOf s.rte.planeStage (4 * i) 4).toNat ≤ planesM1 s) then
      steerMapAll (modRte (fun r => { r with planeMap := r.planeStage }) s)
    else ledgerDevice 3 0 (detailOf []) s

/-- RTE_PLANE_STAGE[k] (R60, R61). -/
def planeStageWrite (k : Nat) (v : W32) (s : State) : Wrote :=
  if s.rte.planePending then wrote s else wrote (modRte (fun r => { r with planeStage := putBits r.planeStage (32 * k) 32 v.toNat }) s)

/-! ## Routing (R163, R164, R177, R185) -/

def destWrite (f : Nat) (v : W32) (s : State) : Wrote :=
  if leavesM1 s < (bitsOf v 16 6).toNat ∨ (isLeaf s ∧ 32 ≤ (bitsOf v 0 6).toNat) then refused s
  else wrote (modRte (fun r => { r with dest := tabSet 0 r.dest f (v &&& 0x803F003F) }) s)

def trunkEnWrite (k : Nat) (v : W32) (s : State) : Wrote :=
  let old := s.rte.trunkEn
  let s := modRte (fun r => { r with trunkEn := putBits r.trunkEn (32 * k) 32 v.toNat }) s
  wrote (forEach ((List.range 64).filter fun p => isTrunk s p && bitAt old p && !bitAt s.rte.trunkEn p) dropEgress s)

/-- RETX_CFG of a point (R177). -/
def retxCfgWrite (p : Point) (v : W32) (s : State) : Wrote :=
  if retxHold v * 1000 < retxBase v * (2 ^ (retxMax v + 1) - 1) + 1000 then refused s
  else wrote (modRel p (fun r => { r with retxCfg := v }) s)

/-- A ring or map of `size` bytes at `base` is 4 KiB aligned and inside the stacked-memory region (R150, R185). -/
def ringFits (base : BitVec 64) (size : Nat) : Bool := decide (base.toNat % 4096 = 0) && decide (base.toNat + size ≤ stackedSize)

def cmapCtlWrite (v : W32) (s : State) : Wrote :=
  let s := modRte (fun r => { r with cmapPeriodUs := bitsOf v 0 16 }) s
  if !bitAt v 31 then wrote (modRte (fun r => { r with cmapEn := false }) s)
  else if !ringFits s.rte.cmapBase 0x4000 then wrote (modRte (fun r => { r with cmapEn := false, cmapCfgErr := true }) s)
  else if s.rte.cmapEn then wrote (modRte (fun r => { r with cmapCfgErr := false }) s)
  else wrote (modRte (fun r => { r with cmapEn := true, cmapCfgErr := false, cmapCount := 0, cmapPorts := cmapFresh s, cmapStart := s.tick.now,
                                         cmapRetx := 0, cmapTimeout := 0, cmapPeriods := 0 }) s)

/-! ## The pool (R129-R131) -/

def poolCfgWrite (c : Nat) (v : W32) (s : State) : Wrote :=
  let size (k : Nat) : Nat := if k = c then (bitsOf v 0 22).toNat else poolSize s k
  if 3145728 < size 0 + size 1 + size 2 + size 3 then refused s
  else wrote (poolRecheck c (modPool (fun p => { p with classCfg := tabSet (poolCfgReset c) p.classCfg c (v &&& 0x3FFFFF) }) s))

def poolThreshWrite (c : Nat) (v : W32) (s : State) : Wrote :=
  if bitsOf v 0 10 ≤ bitsOf v 10 10 ∧ bitsOf v 10 10 ≤ bitsOf v 20 10 then
    wrote (poolRecheck c (modPool (fun p => { p with thresh := tabSet (poolThreshReset c) p.thresh c (v &&& 0x3FFFFFFF) }) s))
  else refused s

def poolLimitWrite (c : Nat) (v : W32) (s : State) : Wrote :=
  if bitsOf v 16 16 < bitsOf v 0 16 then refused s
  else wrote (poolRecheck c (modPool (fun p => { p with portLimit := tabSet poolLimitReset p.portLimit c v }) s))

/-! ## The mask table (R147) and the mirror (R150) -/

def mcastCtlWrite (v : W32) (s : State) : Wrote :=
  let i : BitVec 12 := bitsOf v 0 12
  let s := modSwc (fun w => { w with mcastIndex := i }) s
  let d := s.swc.mcastData
  let bad := decide (bitsOf d 64 30 ≠ 0) || (isSpine s && decide (2 ^ (leavesM1 s + 1) ≤ (bitsOf d 0 64).toNat))
  match (bitsOf v 27 2).toNat with
  | 1 =>
    if bad then started (modSwc (fun w => { w with mcastStatus := 1 }) s)
    else started (modSwc (fun w => { w with mcastStatus := 0, mcast := tabSet 0 w.mcast i.toNat d }) s)
  | 2 => started (modSwc (fun w => { w with mcastStatus := 0, mcastData := tabGet 0 w.mcast i.toNat }) s)
  | _ => wrote s

def mirrorCtlWrite (v : W32) (s : State) : Wrote :=
  let old := s.swc.mirrorCtl
  if mirEn old then
    let keep : W32 := 0x403E0000
    wrote (modSwc (fun w => { w with mirrorCtl := (old &&& keep) ||| (v &&& 0xBFC1E000) }) s)
  else
    let n := v &&& 0xFFFFE000
    if !bitAt v 31 then wrote (modSwc (fun w => { w with mirrorCtl := n }) s)
    else if 10 ≤ mirLog2 n ∧ mirLog2 n ≤ 24 ∧ ringFits s.swc.mirrorBase (2 ^ mirLog2 n * 64) then
      wrote (modSwc (fun w => { w with mirrorCtl := n, mirrorProd := 0, mirrorCons := 0, mirrorCfgErr := false, mirrorSeen := 0 }) s)
    else wrote (modSwc (fun w => { w with mirrorCtl := putBits n 31 1 0, mirrorCfgErr := true }) s)

end Sys2Proof.Machine
end

