-- ==== Sys2Proof/Machine/TickSync.lean ====
section
/-! DEFINITION. The tick unit's synchronisation: beacons, delay samples, the sync states of R220 and the itinerary mismatch
of R230. Times are in 1/64 cycle as the device measures them, and come with the commands. -/

namespace Sys2Proof.Machine

open Sys2Proof

/-! ## Carriers (R216) and beacons (R217) -/

def chainIn : Nat := 0x40
def chainOut : Nat := 0x41
def noUpstream : Nat := 0xFF

/-- A carrier of this module: a TRUNK port in its traffic state, or a chain connector. -/
def carrierUp (s : State) (k : Nat) : Bool :=
  (isTrunk s k && decide ((portOf s k).state = .traffic)) || decide (k = chainIn) || decide (k = chainOut)

def carrierOf (s : State) (k : Nat) : Carrier := tabGet {} s.tick.carriers k
def modCarrier (k : Nat) (f : Carrier → Carrier) (s : State) : State :=
  modTick (fun t => { t with carriers := tabMod {} t.carriers k f }) s

def syncCode (x : SyncState) : Nat :=
  match x with
  | .acquire => 0
  | .locked => 1
  | .holdover => 2
  | .master => 3

def bcTick (b : BitVec 256) : BitVec 64 := bitsOf b 0 64
def bcPhase (b : BitVec 256) : Nat := (bitsOf b 64 32).toNat
def bcPeriod (b : BitVec 256) : Nat := (bitsOf b 96 24).toNat
def bcKind (b : BitVec 256) : Nat := (bitsOf b 128 8).toNat
def bcState (b : BitVec 256) : Nat := (bitsOf b 136 3).toNat
def bcStratum (b : BitVec 256) : Nat := (bitsOf b 144 5).toNat
def bcClass (b : BitVec 256) : Nat := (bitsOf b 152 2).toNat
def bcParent (b : BitVec 256) : BitVec 12 := bitsOf b 160 12
def bcRack (b : BitVec 256) : BitVec 16 := bitsOf b 176 16
def bcTurn (b : BitVec 256) : Nat := (bitsOf b 192 32).toNat

/-- The MCLASS that this module sends: that of its time, 0 in ACQUIRE (R217). -/
def ownClass (s : State) : Nat := if s.tick.state = .acquire then 0 else s.tick.mclass.toNat

/-- The FNID of the upstream module, 0xFFF with none (R217). -/
def ownParent (s : State) : BitVec 12 := if s.tick.upstream = 0xFF then 0xFFF else (carrierOf s s.tick.upstream.toNat).src

/-- The payload of a beacon (R217). -/
def beaconPayload (s : State) (kind phase turn : Nat) : List Byte :=
  bvBytes s.tick.now ++ leBytes 4 phase ++ leBytes 4 (actPeriod s) ++ leBytes 1 kind ++ leBytes 1 (syncCode s.tick.state)
    ++ leBytes 1 s.tick.stratum.toNat ++ leBytes 1 (ownClass s) ++ leBytes 2 (ownParent s).toNat
    ++ leBytes 2 (bitsOf s.mgt.nv.rackId 0 16).toNat ++ leBytes 4 turn ++ zeros 4

/-- Send a beacon on a carrier (R216): on a TRUNK port with its hop record, in the cells of R108, and in P1 too (R417; assumption 74).
That it makes no event of the mirror, since it passes no egress queue of the switch core, and its HOPS of 1 are DESIGN CHOICES
(assumption 69). -/
def sendBeacon (k kind phase turn : Nat) (s : State) : State :=
  if !carrierUp s k then s
  else
    let dst : BitVec 12 := if k < 64 then (portOf s k).peerFnid else 0xFFF
    let wb := mkWb { type := 0x30, cls := .ctrl, plen := 1, plane := planeIdx s, src := (myFnid s).toNat, dst := dst.toNat, length := 32 }
    let f := mkFrame wb (beaconPayload s kind phase turn)
    let s := if k < 64 then
        (let h := mkHop 1 (xoffBits s k) (queueCells s k 3 / 256) 0
         cellsLeave k (frameCells f) (putLine k (frameLine f h) s))
      else s
    modTick (fun t => { t with beaconsOut := t.beaconsOut ++ [(k, f)] }) s

/-- The payload of a good beacon of a kind: HCHK and CRC hold (R216). -/
def beaconIn (s : State) (k kind : Nat) (f : Frame) : Option (BitVec 256) :=
  let b := BitVec.ofNat 256 (leNat f.payload)
  if carrierUp s k && decide (wbType f.wb = 0x30) && decide (wbHchk f.wb = hdrCheck f.wb) && decide (f.crc = frameCrc f.wb f.payload)
      && decide (f.payload.length = 32) && decide (bcKind b = kind) then some b else none

/-! ## Sources (R220) -/

/-- The latest SYNC of a carrier qualifies. -/
def qualifies (s : State) (k : Nat) : Bool :=
  match (carrierOf s k).sync with
  | none => false
  | some b => (decide (bcState b = 1) || decide (bcState b = 3)) && decide (bcRack b = bitsOf s.mgt.nv.rackId 0 16)
      && decide (bcParent b ≠ myFnid s)

/-- The class and stratum that a carrier's latest SYNC shows. -/
def shownClass (s : State) (k : Nat) : Nat := match (carrierOf s k).sync with | some b => bcClass b | none => 0
def shownStratum (s : State) (k : Nat) : Nat := match (carrierOf s k).sync with | some b => bcStratum b | none => 31

/-- The carriers that may be an upstream, in the order of ties: CHAIN_IN, then the ports. UPSTREAM of R223 has no code for
CHAIN_OUT, so it is none (DEDUCED). -/
def upstreamOrder : List Nat := chainIn :: List.range 64

/-- The qualifying source with the highest MCLASS, then the lowest STRATUM. -/
def bestSource (s : State) : Option Nat :=
  (upstreamOrder.filter (qualifies s)).foldl (fun best k => match best with
    | none => some k
    | some b =>
      if shownClass s b < shownClass s k ∨ (shownClass s k = shownClass s b ∧ shownStratum s k < shownStratum s b) then some k
      else some b) none

/-- The delay in use: the mean of the last 16 samples, kept doubled; 0 with none (assumption 31). -/
def delayOf (c : Carrier) : Nat := if c.samples.isEmpty then 0 else c.samples.sum / (2 * c.samples.length)

/-- ERR (R218): the upstream's phase at arrival less the module's own, taken to the nearest boundary. -/
def errOf (s : State) (k : Nat) (b : BitVec 256) (own : Nat) : Int :=
  let p : Int := (actPeriod s * 64 : Nat)
  let x := ((bcPhase b + delayOf (carrierOf s k) : Nat) - (own : Int)) % p
  if p < 2 * x then x - p else x

/-- A value held within ± a limit. -/
def clampInt (lim x : Int) : Int := max (-lim) (min lim x)

/-- ERR in TICK_SYNC_STAT (R223). -/
def errField (e : Int) : BitVec 16 := BitVec.ofInt 16 (clampInt 32767 e)

/-- TRIM's limit: 100 × 10⁻⁶ in units of 10⁻⁴ × 2⁻²⁸ (R218). -/
def trimLimit : Int := 0x1000_0000

/-- The corrections at one SYNC (R218). -/
def correct (e : Int) (t : TickUnit) : TickUnit :=
  match t.state with
  | .locked => { t with err := errField e, trim := clampInt trimLimit (t.trim + e * 10000), phase := t.phase + clampInt 1 e }
  | .acquire => { t with err := errField e, trim := clampInt trimLimit (t.trim + e * 160000), phase := t.phase + e }
  | _ => { t with err := errField e }

/-- |ERR| limits of R220 in 1/64 cycle (10 ps): 2 ns, 4 ns and 64 ns. -/
def lim2ns : Int := 200
def lim4ns : Int := 400
def lim64ns : Int := 6400

/-- The tick that the module's next boundary ends on the upstream's count, as a SYNC tells it (R220): that of the beacon, plus the boundaries
that the upstream passes between the beacon's time and the module's own boundary, less the one that ends the tick. -/
def upstreamTick (s : State) (k : Nat) (b : BitVec 256) (own : Nat) : BitVec 64 :=
  let at_ : Int := (bcPhase b + delayOf (carrierOf s k) : Nat)
  bcTick b + BitVec.ofInt 64 ((at_ - own - errOf s k b own) / (actPeriod s * 64 : Nat))

/-! ## State changes (R220, R235, R238) -/

/-- Take `k` as upstream: the stratum is its plus 1. -/
def takeUpstream (k : Nat) (s : State) : State :=
  if s.tick.upstream.toNat = k then modTick (fun t => { t with stratum := BitVec.ofNat 5 (min 31 (shownStratum s k + 1)) }) s
  else modTick (fun t => { t with upstream := BitVec.ofNat 8 k, stratum := BitVec.ofNat 5 (min 31 (shownStratum s k + 1)), goodSyncs := 0 }) s

/-- Enter or stay in LOCKED under upstream `k`; MCLASS follows it (R217). -/
def lockTo (k : Nat) (s : State) : State :=
  let s := if s.tick.state = .locked then s else enterSync .locked false s
  let c := shownClass s k
  modTick (fun t => { t with mclass := BitVec.ofNat 2 c }) (takeUpstream k s)

/-- Choose the upstream again as the table of R220 gives for the state. -/
def reselect (s : State) : State :=
  match s.tick.state with
  | .acquire =>
    match bestSource s with
    | some k => takeUpstream k s
    | none => modTick (fun t => { t with upstream := 0xFF, stratum := 31, goodSyncs := 0 }) s
  | .locked =>
    match bestSource s with
    | none => enterSync .holdover false s
    | some k =>
      let u := s.tick.upstream.toNat
      let cls := if qualifies s u then shownClass s u else s.tick.mclass.toNat
      if cls < shownClass s k then enterSync .acquire false s else lockTo k s
  | _ => s

/-- The module's active period differs from its upstream's (R230): one record, until the two agree. -/
def noteMismatch (s : State) : State :=
  let u := s.tick.upstream.toNat
  match (carrierOf s u).sync with
  | none => s
  | some b =>
    let bad := decide (u ≠ noUpstream) && decide (s.tick.state ≠ .master) && decide (bcPeriod b ≠ actPeriod s)
    let s := if bad && !s.tick.mismatch then devFault0 0x45 sevError 0 0 s else s
    modTick (fun t => { t with mismatch := bad }) s

/-! ## SYNC (R218, R220) -/

/-- A SYNC in ACQUIRE from the upstream: ERR is taken, then rate and phase are corrected, and the lock condition is judged. -/
def acquireSync (k : Nat) (b : BitVec 256) (own : Nat) (s : State) : State :=
  let e := errOf s k b own
  let good := decide (-lim2ns ≤ e) && decide (e ≤ lim2ns)
  let s := modTick (fun t => { correct e t with goodSyncs := if good then t.goodSyncs + 1 else 0 }) s
  if 16 ≤ s.tick.goodSyncs ∧ 16 ≤ (carrierOf s k).samples.length then
    modTick (fun t => { t with takeFrom := some (upstreamTick s k b own) }) (lockTo k s)
  else s

/-- A SYNC in LOCKED from the upstream. One whose ERR ends LOCKED writes TICK_ACQUIRE and no TICK_ALIGN: DESIGN CHOICE (assumption 70). -/
def lockedSync (k : Nat) (b : BitVec 256) (own : Nat) (s : State) : State :=
  let e := errOf s k b own
  let s := modTick (correct e) s
  if lim64ns < e ∨ e < -lim64ns then enterSync .acquire false s
  else if lim4ns < e ∨ e < -lim4ns then devFault0 0x43 sevWarn k 0 s
  else s

/-- A qualifying SYNC in HOLDOVER. -/
def holdoverSync (k : Nat) (b : BitVec 256) (own : Nat) (s : State) : State :=
  let e := errOf s k b own
  let s := modTick (correct e) s
  if -lim4ns ≤ e ∧ e ≤ lim4ns then lockTo k s else enterSync .acquire false s

/-- A SYNC in MASTER: 16 consecutive qualifying ones of a higher class on a carrier end it. -/
def masterSync (k : Nat) (s : State) : State :=
  if qualifies s k && decide (s.tick.mclass.toNat < shownClass s k) then
    let s := modCarrier k (fun c => { c with higher := c.higher + 1 }) s
    if 16 ≤ (carrierOf s k).higher then enterSync .acquire false s else s
  else modCarrier k (fun c => { c with higher := 0 }) s

/-- A module with MASTER_FORCE ignores beacons (R222). -/
def ignoresBeacons (s : State) : Bool := masterForce s

/-- A qualifying source with MCLASS 2 is seen in ACQUIRE (R220). -/
def noteForced (k : Nat) (s : State) : State :=
  if s.tick.state = .acquire && qualifies s k && decide (shownClass s k = 2) then modTick (fun t => { t with forcedSeen := true }) s else s

def syncBeacon (k : Nat) (f : Frame) (own : Nat) (s : State) : State :=
  match beaconIn s k 0 f with
  | none => s
  | some b =>
    if ignoresBeacons s then s
    else
      let s := modCarrier k (fun c => { c with heard := true, sync := some b, src := wbSrc f.wb }) s
      let s := noteForced k s
      match s.tick.state with
      | .master => masterSync k s
      | .holdover => noteMismatch (if qualifies s k && decide (k ≠ chainOut) then holdoverSync k b own s else s)
      | _ =>
        let s := reselect s
        let mine := decide (s.tick.upstream.toNat = k)
        noteMismatch (match s.tick.state with
          | .acquire => if mine then acquireSync k b own s else s
          | .locked => if mine then lockedSync k b own s else s
          | _ => s)

/-- A message on CHAIN_IN or CHAIN_OUT is a signal there (R486). -/
def noteSignal (k : Nat) (s : State) : State :=
  modMgt (fun m => { m with inSig := m.inSig || decide (k = chainIn), outSig := m.outSig || decide (k = chainOut) }) s

/-- SYNC (R218, R220). `own` is the module's own phase at arrival. -/
def execSync (carrier : Nat) (frame : Frame) (own : W32) (s : State) : Out :=
  liveIf (decide (carrier ≤ chainOut)) "carrier" s (syncBeacon carrier frame own.toNat (noteSignal carrier s))

/-- SYNC_SEND (R216). -/
def execSyncSend (carrier : Nat) (phase : W32) (s : State) : Out :=
  liveIf (decide (carrier ≤ chainOut)) "carrier" s (sendBeacon carrier 0 phase.toNat 0 s)

/-! ## Delay samples (R218) -/

/-- A DELAY beacon, whose PHASE is the time that it leaves at: a free value (assumption 5). -/
def sendDelay (k kind turn : Nat) (s : State) : State :=
  let (v, s) := takeFree s
  sendBeacon k kind (v.toNat % 2 ^ 32) turn s

/-- DELAY_REQ_SEND: at most one is outstanding. -/
def delayReqSend (k t1 : Nat) (s : State) : State :=
  if carrierUp s k && (carrierOf s k).reqOut.isNone then modCarrier k (fun c => { c with reqOut := some t1 }) (sendDelay k 1 0 s) else s
def execDelayReqSend (carrier : Nat) (t1 : Nat) (s : State) : Out :=
  liveIf (decide (carrier ≤ chainOut)) "carrier" s (delayReqSend carrier t1 s)

/-- DELAY_REQ: answered by every module, a forced master too, since its followers need the delay (DEDUCED). -/
def delayReq (k : Nat) (f : Frame) (turn : Nat) (s : State) : State :=
  match beaconIn s k 1 f with
  | none => s
  | some _ => sendDelay k 2 turn (modCarrier k (fun c => { c with heard := true }) s)
def execDelayReq (carrier : Nat) (frame : Frame) (turn : W32) (s : State) : Out :=
  liveIf (decide (carrier ≤ chainOut)) "carrier" s (delayReq carrier frame turn.toNat (noteSignal carrier s))

/-- DELAY_RSP at time `t4`: a sample of twice the one-way delay, of which the last 16 are kept. -/
def delayRsp (k : Nat) (f : Frame) (t4 : Nat) (s : State) : State :=
  match beaconIn s k 2 f with
  | none => s
  | some b =>
    let s := modCarrier k (fun c => { c with heard := true }) s
    match (carrierOf s k).reqOut with
    | none => s
    | some t1 =>
      modCarrier k (fun c =>
        let l := c.samples ++ [t4 - t1 - bcTurn b]
        { c with reqOut := none, samples := l.drop (l.length - 16) }) s
def execDelayRsp (carrier : Nat) (frame : Frame) (t4 : Nat) (s : State) : Out :=
  liveIf (decide (carrier ≤ chainOut)) "carrier" s (delayRsp carrier frame t4 (noteSignal carrier s))

/-- DELAY_RSP_ABANDON. -/
def execDelayRspAbandon (carrier : Nat) (s : State) : Out :=
  liveIf (decide (carrier ≤ chainOut)) "carrier" s (modCarrier carrier (fun c => { c with reqOut := none }) s)

/-! ## Timeouts (R220) -/

/-- UPSTREAM_TIMEOUT: no SYNC has come on the carriers of `silent` for 8,192 cycles. The period of a new upstream is judged at once (R230). -/
def upstreamTimeout (silent : List Nat) (s : State) : State :=
  noteMismatch <| reselect (forEach silent (fun k => modCarrier k (fun c => { c with sync := none, higher := 0 })) s)
def execUpstreamTimeout (silent : List Nat) (s : State) : Out := live s (upstreamTimeout silent s)

/-- ACQUIRE_MASTER_TIMEOUT: 8,192 cycles of ACQUIRE are over; the next ones are watched afresh. -/
def acquireMasterTimeout (s : State) : State :=
  if s.tick.state = .acquire ∧ s.mgt.adopted ∧ s.mgt.addr = 0 ∧ !masterForce s ∧ !s.tick.forcedSeen then becomeMaster 1 false s
  else modTick (fun t => { t with forcedSeen := false }) s
def execAcquireMasterTimeout (s : State) : Out := live s (acquireMasterTimeout s)

/-- HOLDOVER_EXPIRY: HOLDOVER_US has elapsed. No beacon of any kind has come on the carriers of `silent` for 8,192 cycles. -/
def holdoverExpiry (silent : List Nat) (s : State) : State :=
  if s.tick.state ≠ .holdover then s
  else
    let u := s.tick.upstream.toNat
    let s := forEach silent (fun k => modCarrier k (fun c => { c with heard := false, sync := none })) s
    if u = chainIn ∧ bitAt s.mgt.nv.syncCfg 30 ∧ silent.contains chainIn then becomeMaster 0 true s
    else if !silent.contains u && (match (carrierOf s u).sync with | some b => decide (bcState b = 2) | none => false) then s
    else enterSync .acquire false s
def execHoldoverExpiry (silent : List Nat) (s : State) : Out := live s (holdoverExpiry silent s)

/-- HOLDOVER_LIMIT_EXPIRY: 2 × HOLDOVER_US from entry. -/
def holdoverLimitExpiry (s : State) : State := if s.tick.state = .holdover then enterSync .acquire false s else s
def execHoldoverLimitExpiry (s : State) : Out := live s (holdoverLimitExpiry s)

/-- TICK_SYNC_CFG (R222). A module forced outside ACQUIRE becomes master at once (assumption 32). -/
def syncCfgWrite (v : W32) (s : State) : Wrote := wrote (applyForce (nvMod (fun n => { n with syncCfg := v &&& 0xC000FFFF }) s))

end Sys2Proof.Machine
end

