-- ==== Sys2Proof/Machine/Itinerary.lean ====
section
/-! DEFINITION. The itinerary: staging, the checks of ARM, the commit, refresh windows and scheduled descriptors
(R225-R231). -/

namespace Sys2Proof.Machine

open Sys2Proof

/-! ## The stage table (R225) -/

/-- The entries from index `n` up to the first of KIND NONE. -/
def stageFrom : Tab (BitVec 128) → Nat → List (BitVec 128)
  | [], _ => []
  | (i, e) :: t, n => if i = n ∧ entKind e ≠ 0 then e :: stageFrom t (n + 1) else []

def staged (s : State) : List (BitVec 128) := stageFrom s.tick.stage 0

/-! ## The checks of ARM (R228) -/

/-- Check 1: PERIOD. -/
def itinPeriodOk (t : TickUnit) : Bool :=
  decide (3125 ≤ cfgPeriod t.cfg0) && decide (cfgPeriod t.cfg0 ≤ 12500000) && decide (448 ≤ cfgGuard t.cfg1) && decide (cfgTemp t.cfg0 ≠ 3)

/-- An array is present and enabled (R16, R307). -/
def arrayEnabled (s : State) (a : Nat) : Bool := decide (a < 864) && bitAt s.arr.map a

/-- Check 2 on one entry: FORMAT. -/
def entFormatOk (s : State) (e : BitVec 128) : Bool :=
  decide (bitsOf e 120 4 = 0) && (match entKind e with
    | 1 => decide (bitsOf e 0 32 = 0)
    | 2 => decide (bitsOf e 0 28 = 0) && decide (entChunks e ≠ 0)
    | 3 => decide (bitsOf e 0 34 = 0) && arrayEnabled s (entArray e)
    | 4 => decide (bitsOf e 0 39 = 0) && decide (entStack e ≤ 23) && decide (entChans e ≠ 0)
    | _ => false)

/-- Check 3 on one entry: SPAN. -/
def entSpanOk (t : TickUnit) (e : BitVec 128) : Bool :=
  decide (entTick e ≤ cfgCycle t.cfg1) && decide (cfgGuard t.cfg1 ≤ entStart e) && decide (entEnd e ≤ usable (cfgPeriod t.cfg0))
    && decide (entStart e < entEnd e)

/-- Check 4 on an entry and the one before it: ORDER. -/
def entOrderOk (a b : BitVec 128) : Bool :=
  decide (entTick a < entTick b) || (decide (entTick a = entTick b) && decide (entStart a ≤ entStart b))

/-- Two entries name the same array, stack channel, PORT, RING and SLOT, or COL_ID. -/
def entSameUnit (a b : BitVec 128) : Bool :=
  decide (entKind a = entKind b) && (match entKind a with
    | 1 => decide (bitsOf a 32 28 = bitsOf b 32 28)
    | 2 => decide (entColId a = entColId b)
    | 3 => decide (entArray a = entArray b)
    | _ => decide (entStack a = entStack b) && decide (entChans a &&& entChans b ≠ 0))

/-- Check 5 on two entries: OVERLAP. -/
def entOverlap (a b : BitVec 128) : Bool :=
  decide (entTick a = entTick b) && decide (entStart a < entEnd b) && decide (entStart b < entEnd a) && entSameUnit a b

/-- The index of the first entry of a list that fails a check, given those before it, the nearest first. -/
def firstBad (bad : List (BitVec 128) → BitVec 128 → Bool) : Nat → List (BitVec 128) → List (BitVec 128) → Option Nat
  | _, _, [] => none
  | i, before, e :: t => if bad before e then some i else firstBad bad (i + 1) (e :: before) t

/-- The refresh interval of a class (R229). -/
def refreshInterval (cls : Nat) : Nat := if cls = 0 then 6080 else if cls = 1 then 3040 else 1520

/-- The largest distance from a window's end to the next one's, of ends in ascending order, taken cyclically. -/
def gapsOk (limit total first : Nat) : List Nat → Bool
  | [] => true
  | [x] => decide (first + total - x ≤ limit)
  | x :: y :: t => decide (y - x ≤ limit) && gapsOk limit total first (y :: t)

/-- R229 for one channel of a stack. -/
def channelRefreshed (t : TickUnit) (l : List (BitVec 128)) (stack chan : Nat) : Bool :=
  let iv := refreshInterval (cfgTemp t.cfg0)
  let p := cfgPeriod t.cfg0
  let total := p * (cfgCycle t.cfg1 + 1)
  let wins := l.filter fun e => decide (entKind e = kindRefresh) && decide (entStack e = stack) && bitAt (entChans e) chan
  let ends := wins.map fun e => entTick e * p + entEnd e
  decide ((total + iv - 1) / iv ≤ (wins.map fun e => (entEnd e - entStart e) / 448).sum) && gapsOk (7 * iv) total (ends.headD 0) ends

/-- Stack `k` has REFRESH entries in a list. -/
def hasRefresh (l : List (BitVec 128)) (k : Nat) : Bool := l.any fun e => decide (entKind e = kindRefresh) && decide (entStack e = k)

/-- Check 6: the first stack that breaks R229. -/
def refreshBad (t : TickUnit) (l : List (BitVec 128)) : Option Nat :=
  (List.range 24).find? fun k => hasRefresh l k && !((List.range 16).all fun c => channelRefreshed t l k c)

/-- The STATUS of the stage and the value of TICK_ITIN_FAIL (R228): the first check that fails. -/
def itinCheck (s : State) : Nat × Nat :=
  let t := s.tick
  let l := staged s
  if !itinPeriodOk t then (1, 0)
  else match firstBad (fun _ e => !entFormatOk s e) 0 [] l with
    | some i => (2, i)
    | none => match firstBad (fun _ e => !entSpanOk t e) 0 [] l with
      | some i => (3, i)
      | none => match firstBad (fun b e => match b with | a :: _ => !entOrderOk a e | [] => false) 0 [] l with
        | some i => (4, i)
        | none => match firstBad (fun b e => b.any fun a => entOverlap a e) 0 [] l with
          | some i => (5, i)
          | none => match refreshBad t l with
            | some k => (6, k)
            | none => (0, 0)

/-- ITIN_CHECK_DONE (R228): PENDING, or the refusal. -/
def itinCheckDone (s : State) : State :=
  if !s.tick.checking then s
  else
    let (st, fail) := itinCheck s
    if st = 0 then modTick (fun t => { t with checking := false, pending := true, status := 0 }) s
    else
      let s := modTick (fun t => { t with checking := false, status := BitVec.ofNat 4 st, failIdx := BitVec.ofNat 16 fail }) s
      ledgerDevice 3 0 (detailOf []) (devFault0 0x44 sevWarn st 0 s)
def execItinCheckDone (s : State) : Out := live s (itinCheckDone s)

/-! ## TICK_ITIN_CTL and the staged configuration (R228) -/

/-- An OP of TICK_ITIN_CTL at an index. A write to the stage while BUSY or PENDING is ignored. -/
def itinOp (op : Nat) (i : Nat) (t : TickUnit) : TickUnit :=
  match op with
  | 1 => if t.checking ∨ t.pending then t else { t with stage := tabSet 0 t.stage i t.data }
  | 2 => { t with data := tabGet 0 t.stage i }
  | 3 => { t with data := tabGet 0 t.activeAll i }
  | _ => t

/-- A write of TICK_ITIN_CTL. While BUSY its ARM and its stage write are ignored, and no more (R228). -/
def itinCtlWrite (v : W32) (s : State) : Wrote :=
  let op := (bitsOf v 24 2).toNat
  let cancel := bitAt v 22
  let s := modTick (fun t => { t with loadStep := bitAt v 21, index := bitsOf v 0 16, pending := t.pending && !cancel }) s
  let s := modTick (itinOp op (bitsOf v 0 16).toNat) s
  let arm := bitAt v 23 && !cancel && !s.tick.pending && !s.tick.checking
  let s := if arm then modTick (fun t => { t with checking := true, latchedTick := t.commit, latchedStep := t.stepSet, latchedLoad := t.loadStep }) s
    else s
  if arm ∨ op ≠ 0 then started s else wrote s

def itinCfg0Write (v : W32) (s : State) : Wrote :=
  if s.tick.checking ∨ s.tick.pending then wrote s else wrote (modTick (fun t => { t with cfg0 := v &&& 0xC0FFFFFF }) s)
def itinCfg1Write (v : W32) (s : State) : Wrote :=
  if s.tick.checking ∨ s.tick.pending then wrote s else wrote (modTick (fun t => { t with cfg1 := v &&& 0x0FFF0FFF }) s)

/-- The due commit of a boundary whose new tick count is `now`: the stage is copied whole (R227, R228). The Bool says that one occurred. -/
def itinCommit (s : State) : Bool × State :=
  let t := s.tick
  if !t.pending || decide (t.now < t.latchedTick) then (false, s)
  else (true, setRepro 2 (modTick (fun t => { t with
    pending := false, active := staged s, activeAll := t.stage, act0 := t.cfg0, act1 := t.cfg1, tc := t.now }) s))

/-! ## Refresh (R229, R383) -/

/-- The channels of a stack. -/
def stackChans (k : Nat) : List Nat := (List.range 16).map (· + 16 * k)

/-- Refreshes granted to channels are no longer pending. -/
def grantRefresh (n : Nat) (chans : List Nat) (s : State) : State :=
  forEach chans (fun c => modChan c (fun ch => { ch with pendingRefresh := ch.pendingRefresh - n })) s

/-- REFRESH_WINDOW: each channel named takes ⌊(END − START) / 448⌋ refreshes. -/
def execRefreshWindow (e : Nat) (s : State) : Out :=
  live s (startEntry e kindRefresh (fun x =>
    grantRefresh ((entEnd x - entStart x) / 448) (((List.range 16).filter fun j => bitAt (entChans x) j).map (· + 16 * entStack x))) s)

/-- The stack refreshes itself (AUTO): it has no REFRESH entry, or the module is in ACQUIRE (R220, R229). -/
def stackAuto (s : State) (k : Nat) : Bool := !hasRefresh s.tick.active k || decide (s.tick.state = .acquire)

/-- AUTO_REFRESH. A stack in self-refresh needs none. -/
def autoRefresh (k : Nat) (s : State) : State :=
  if stackAuto s k && decide ((stackOfN s k).state ≠ .selfRefresh) then grantRefresh 8 (stackChans k) (setRepro 3 s) else s
def execAutoRefresh (stack : Nat) (s : State) : Out := liveIf (decide (stack < 24)) "stack" s (autoRefresh stack s)

/-! ## Scheduled descriptors (R231) -/

/-- A held descriptor is bound to an XFER entry of its port. -/
def boundTo (e : BitVec 128) (d : Desc) : Bool :=
  decide (entKind e = kindXfer) && decide (d.ring = entRing e) && decide (dSlot d.raw % 65536 = entSlot e)

/-- SCHED_RELEASE: the held descriptors bound to the entry are released. -/
def execSchedRelease (e : Nat) (s : State) : Out :=
  live s (startEntry e kindXfer (fun x s =>
    let n := entPort x
    epWork n (modEp n (fun p => { p with descs := p.descs.map fun d =>
      (d.1, d.2.map fun y => if y.sched = .held ∧ boundTo x y then { y with sched := .released e } else y) }) s)) s)

/-- XFER_END: at an entry's END no further frame of its transfer starts. -/
def xferEnd (e : Nat) (s : State) : State :=
  match entryNow s e with
  | none => s
  | some x =>
    if (entKind x ≠ kindXfer ∧ entKind x ≠ kindCol) ∨ s.tick.finished.contains e then s
    else
      let s := modTick (fun t => { t with finished := t.finished ++ [e] }) s
      if entKind x = kindCol then s
      else modEp (entPort x) (fun p => { p with descs := p.descs.map fun d =>
        (d.1, d.2.map fun y => if y.sched = .released e then { y with sched := .ended } else y) }) s
def execXferEnd (e : Nat) (s : State) : Out := live s (xferEnd e s)

end Sys2Proof.Machine
end

