-- ==== Sys2Proof/Machine/Memory.lean ====
section
/-! DEFINITION. Stacked memory's commands: accesses at channels, write-backs, the patrol scrub and the tenant scrub
(R211, R212, R381, R386-R389). -/

namespace Sys2Proof.Machine

open Sys2Proof

/-- A channel's stack is in self-refresh: accesses wait (R418). -/
def chanAsleep (s : State) (c : Nat) : Bool := decide ((stackOfN s (c / 16)).state = .selfRefresh)

/-! ## Accesses (R211, R212) -/

/-- An access belongs to a channel of the stacked-memory region. -/
def accAt (a : MemAcc) (c : Nat) : Bool := decide (a.off.toNat + a.len ≤ stackedSize) && decide (channelOf a.off.toNat = c)

/-- Take the oldest access that waits at a channel, unless its stack is in self-refresh (R211). `ecc` gives for each of its lines the symbols
of its codeword that have gone wrong in DRAM. -/
def takeAccess (c : Nat) (ecc : List Nat) (s : State) : State :=
  match (chanOf s c).queue with
  | [] => s
  | a :: rest =>
    if chanAsleep s c then s
    else
      applyAccess a (noteErrs (linesOf a.off.toNat a.len) ecc (modChan c (fun ch => { ch with queue := rest }) s))

/-- CHANNEL_ACCESS. Accesses are taken in the order of their arrival (R211): one that is presented joins the channel's queue, and the oldest
of it is taken. -/
def channelAccess (c : Nat) (src : Arrive MemAcc) (ecc : List Nat) (s : State) : State :=
  match src with
  | .given a => if !accAt a c then s else takeAccess c ecc (modChan c (fun ch => { ch with queue := ch.queue ++ [a] }) s)
  | .waiting => takeAccess c ecc s
def execChannelAccess (chan : Nat) (src : Arrive MemAcc) (ecc : List Nat) (s : State) : Out :=
  coreIf (decide (chan < 384)) "channel" s (channelAccess chan src ecc s)

/-- COMBINE_WRITEBACK: the entry of a line, named by its index in the region, is stored. The entry stays until it is evicted
(DEDUCED: R212 writes an idle entry back and evicts to make room). -/
def combineWriteback (c line : Nat) (s : State) : State :=
  match combFind (chanOf s c) line with
  | none => s
  | some e =>
    modChan c (fun ch => { ch with comb := ch.comb.map fun x => if x.line = line then { x with dirty := false } else x }) (writeBack e s)
def execCombineWriteback (chan : Nat) (line : Nat) (s : State) : Out :=
  coreIf (decide (chan < 384)) "channel" s (combineWriteback chan line s)

/-! ## The patrol scrub (R381, R382) -/

def channelLines : Nat := 25165824

/-- The scrub pointer moves on; a pass of every channel advances PASS_CNT. -/
def scrubAdvance (c : Nat) (s : State) : State :=
  let p := (chanOf s c).scrubPtr.toNat + 1
  if p < channelLines then modChan c (fun ch => { ch with scrubPtr := BitVec.ofNat 25 p }) s
  else
    let s := modChan c (fun ch => { ch with scrubPtr := 0, passDone := true }) s
    if (List.range 384).all fun k => (chanOf s k).passDone then
      modMem (fun m => { m with passCnt := m.passCnt + 1 })
        (forEach (List.range 384) (fun k => modChan k (fun ch => { ch with passDone := false })) s)
    else s

/-- PATROL_SCRUB_READ. A line in the combining buffer is skipped, and a poisoned one left as it is. -/
def patrolScrubRead (c : Nat) (ecc : Nat) (s : State) : State :=
  if !s.mem.scrubEn || chanAsleep s c then s
  else
    let l := offOfLocal c ((chanOf s c).scrubPtr.toNat * 64) / 64
    let s := noteErrs [l] [ecc] s
    scrubAdvance c (if (combFind (chanOf s c) l).isSome then s else eccFound l true s)
def execPatrolScrubRead (chan : Nat) (ecc : Nat) (s : State) : Out :=
  coreIf (decide (chan < 384)) "channel" s (patrolScrubRead chan ecc s)

/-- SCRUB_LAG. -/
def scrubLag (c : Nat) (s : State) : State := devFault0 0x84 sevInfo c 0 (modMem (fun m => { m with lag := satAdd m.lag 1 }) s)
def execScrubLag (chan : Nat) (s : State) : Out := coreIf (decide (chan < 384)) "channel" s (scrubLag chan s)

/-- MEM_SCRUB_CTL (R382). -/
def scrubCtlWrite (v : W32) (s : State) : Wrote := wrote (modMem (fun m => { m with scrubEn := bitAt v 31, passH := bitsOf v 0 16 }) s)

/-! ## Change of tenant (R386-R388) -/

/-- Every stack takes a state. -/
def allStacks (x : StackState) (s : State) : State := forEach (List.range 24) (fun k => modStack k fun t => { t with state := x }) s

/-- Steps 1 to 4 of R387: GEN advances, lines and combining entries and home buffers are gone, and tallies, stores, program
directories and amax records are clear. -/
def scrubAll (s : State) : State :=
  let s := modMem (fun m => { m with gen := m.gen + 1, cells := [], words := [], poison := [], errs := []
                                     channels := (m.channels.map fun c => (c.1, { c.2 with comb := [] })).filter fun c => decide (c.2 ≠ {}) }) s
  let s := modTly (fun u => { u with tallies := [] }) s
  let s := modCol (fun c => { c with slots := (c.slots.map fun x => (x.1, { x.2 with amax := {}, chunks := [] })).filter fun x => decide (x.2 ≠ {}) }) s
  let s := modSvc (fun u => { u with saved := [] }) s
  modArr (fun u => { u with arrays := (u.arrays.map fun a => (a.1, { a.2 with store := [], badWords := [], dir := [] })).filter fun a => decide (a.2 ≠ {})
                            slotsTaken := [], writeSlots := [] }) s

/-- The ledger entry of a scrub (R513): cause 1 tenant scrub, 2 power-up or full reset, 3 TAP_UNLOCK. -/
def scrubEntry (cause : Nat) (s : State) : State := ledgerDevice 9 0 (detailOf [(0, 4, s.mem.gen.toNat), (4, 1, cause)]) s

/-- An array runs a program or a load is in progress. -/
def arraysBusy (s : State) : Bool := s.arr.loadBusy.isSome || s.arr.arrays.any fun a => a.2.run.isSome

/-- The STATUS that SCRUB's conditions give (R386). -/
def tenantCheck (s : State) : Nat :=
  if s.svc.svcs.any fun x => decide (x.2.state ≠ .empty) then 1
  else if !s.tick.active.isEmpty || s.tick.pending then 2
  else if arraysBusy s then 3
  else if s.col.slots.any fun x => decide (x.2.state = .live) then 4
  else if mirEn s.swc.mirrorCtl || s.rte.cmapEn then 5
  else if s.mem.gen = 0xFFFF_FFFF then 6
  else 0

/-- MEM_TENANT_CTL (R389). A module that a thermal trip has parked gets no further than step 1 (R431). -/
def tenantCtlWrite (v : W32) (s : State) : Wrote :=
  if s.mem.tenantBusy || !bitAt v 27 then wrote s
  else
    let c := tenantCheck s
    let s := modMem (fun m => { m with tenantStatus := BitVec.ofNat 3 c }) s
    if c ≠ 0 then refused s
    else if s.pwr.tripped then started (modMem (fun m => { m with gen := m.gen + 1, tenantBusy := true }) s)
    else started (allStacks .scrub (scrubAll (modMem (fun m => { m with tenantBusy := true }) (wakeNode s))))

/-- TENANT_SCRUB_DONE (R387 step 5). -/
def tenantScrubDone (s : State) : State :=
  if s.mem.tenantBusy then scrubEntry 1 (allStacks .active (modMem (fun m => { m with tenantBusy := false }) s)) else s
def execTenantScrubDone (s : State) : Out := coreLive s (tenantScrubDone s)

/-- The scrub of a power-up or full reset (R388). The Bool says that it took place. -/
def bootScrub (s : State) : Bool × State :=
  if s.mem.gen = 0xFFFF_FFFF then (false, devFault0 0x85 sevFatal 0 0 s) else (true, scrubEntry 2 (scrubAll s))

end Sys2Proof.Machine
end

