-- ==== Sys2Proof/Machine/ArrLoad.lean ====
section
/-! DEFINITION. Program images and loading (R314, R318, R322, R325, R330-R333). -/

namespace Sys2Proof.Machine

open Sys2Proof

/-! ## The image (R330) -/

/-- A program image: its parts as they lie behind the header. -/
structure Image where
  hdr : BitVec 512
  phases : List (BitVec 256)
  streams : List (BitVec 256)
  convs : List (BitVec 256)
  slots : List (BitVec 64)
  pre : List Byte
deriving DecidableEq, Repr

/-- The bytes of an image behind its header. -/
def imageRest (h : BitVec 512) : Nat := 32 * (hdPhases h + hdStreams h + hdConvs h) + 8192 * hdSlotN h + hdPreLen h

/-- `n` words of `w` bytes each from an offset of a byte list. -/
def wordsAt (w : Nat) (bs : List Byte) (off n : Nat) : List Nat := (List.range n).map fun i => fieldNat bs (off + w * i) w

/-- The image of a header and the bytes behind it. -/
def parseImage (h : BitVec 512) (bs : List Byte) : Image :=
  let a := 32 * hdPhases h
  let b := a + 32 * hdStreams h
  let c := b + 32 * hdConvs h
  let d := c + 8192 * hdSlotN h
  let words (off n : Nat) : List (BitVec 256) := (wordsAt 32 bs off n).map (BitVec.ofNat 256)
  { hdr := h, phases := words 0 (hdPhases h), streams := words a (hdStreams h), convs := words b (hdConvs h)
    slots := (wordsAt 8 bs c (1024 * hdSlotN h)).map (BitVec.ofNat 64), pre := slice bs d (hdPreLen h) }

/-- Slot `s` of cell `c`, as the image gives it. -/
def imSlot (m : Image) (c s : Nat) : BitVec 64 := m.slots.getD (c * hdSlotN m.hdr + (s - hdSlotLo m.hdr)) 0

/-- Rows that a program owns. -/
def ownsRow (h : BitVec 512) (r : Nat) : Bool := decide (2 * hdStoreLo h ≤ r) && decide (r < 2 * (hdStoreLo h + hdStoreCnt h))
def ownsGranule (h : BitVec 512) (g : Nat) : Bool := decide (hdStoreLo h ≤ g) && decide (g < hdStoreLo h + hdStoreCnt h)

/-! ## FORMAT: the header -/

def imageHdrOk (h : BitVec 512) : Bool :=
  decide (bitsOf h 0 32 = 0xA7D0_0A01) && decide (bitsOf h 51 5 = 0)
    && decide (1 ≤ hdPhases h) && decide (hdPhases h ≤ 16) && decide (hdStreams h ≤ 16) && decide (hdConvs h ≤ 8)
    && decide (1 ≤ hdSlotN h) && decide (hdSlotLo h + hdSlotN h ≤ 64) && decide (hdCplLog h ≤ 12)
    && decide (bitsOf h 123 5 = 0) && decide (1 ≤ hdStoreCnt h) && decide (hdStoreLo h + hdStoreCnt h ≤ 2048)
    && decide (bitsOf h 156 4 = 0) && decide (hdPreLen h % 128 = 0)
    && (decide (hdPreLen h = 0) || (decide (2 * hdStoreLo h ≤ hdPreRow h)
      && decide (hdPreRow h + hdPreLen h / 128 ≤ 2 * (hdStoreLo h + hdStoreCnt h))))
    && decide (hdCplAddr h % 32 = 0) && decide (hdCplAddr h + 32 * 2 ^ hdCplLog h ≤ stackedSize)
    && decide (bitsOf h 273 15 = 0) && decide (hdAmaxAddr h % 16 = 0) && decide (hdAmaxAddr h + 16 * hdConvs h ≤ stackedSize)
    && decide (bitsOf h 416 96 = 0)

/-! ## RANGE: entries and the owned range -/

/-- An edge entry of a phase of `len` cycles: its rows lie in the owned range. -/
def edgeOk (m : Image) (e : W32) (len : Nat) (feeder : Bool) : Bool :=
  let n := if feeder then (len - 1) / 2 ^ edHold e + 1 else len / 2 ^ edHold e
  decide (bitsOf e 24 1 = 0) && (!edConvEn e || (!feeder && decide (edConv e < m.convs.length)))
    && (!edEn e || (List.range (min n 4096)).all fun j => ownsRow m.hdr (edRow e (j * 2 ^ edHold e)))

/-- The bus rows of a phase's slots lie in the owned range. -/
def busRowsOk (m : Image) (ph : BitVec 256) : Bool :=
  (List.range (phII ph)).all fun i => (List.range 1024).all fun c =>
    let sl := imSlot m c (phBase ph + i)
    decide (slBus sl = 0) || decide (slBus sl = 3) || (List.range (min (phIters ph) 4096)).all fun k => ownsRow m.hdr (busRow sl k)

def phaseOk (m : Image) (ph : BitVec 256) : Bool :=
  let len := phLen ph
  decide (bitsOf ph 16 16 = 0) && decide (bitsOf ph 56 8 = 0) && decide (bitsOf ph 192 64 = 0)
    && decide (1 ≤ phII ph) && decide (phII ph ≤ 64) && decide (phBase ph + phII ph ≤ 64) && decide (1 ≤ phIters ph)
    && decide (hdSlotLo m.hdr ≤ phBase ph) && decide (phBase ph + phII ph ≤ hdSlotLo m.hdr + hdSlotN m.hdr)
    && edgeOk m (phWest ph) len true && edgeOk m (phNorth ph) len true && edgeOk m (phSouth ph) len false && edgeOk m (phEast ph) len false
    && busRowsOk m ph

/-- A stream entry (R325). FGET is for SERVICE mode only, so a program that may run in TICK mode holds none (DEDUCED). -/
def streamOk (m : Image) (e : BitVec 256) : Bool :=
  let k := stKind e
  let inRegion (i : Nat) : Bool :=
    let a := (stAddr e).toNat + (i : Int) * stAddrStep e * 256
    decide (0 ≤ a) && decide (a + 256 ≤ (stackedSize : Int))
  decide (1 ≤ k) && decide (k ≤ 5) && decide (bitsOf e 9 7 = 0) && (!stFlag e || decide (k = 4))
    && (if k = 3 then reduceOk (stSubop e) (stDtype e) else decide (stSubop e = 0) && decide (stDtype e = 0))
    && decide (1 ≤ stCount e) && decide (stCount e ≤ 2 ^ 20) && decide (bitsOf e 85 11 = 0) && decide (4 ≤ stPeriod e)
    && decide (bitsOf e 123 5 = 0) && decide (bitsOf e 144 16 = 0) && decide ((stAddr e).toNat % 256 = 0)
    && ((List.range (min (stCount e) 2048)).all fun i => ownsGranule m.hdr (stGranule e i))
    && (if k ≤ 3 then inRegion 0 && inRegion (stCount e - 1) else decide (k = 4) || !hdTickOk m.hdr)

def convOk (c : BitVec 256) : Bool :=
  decide (bitsOf c 16 16 = 0) && specOk (cvSpec c) && (if specScale (cvSpec c) = 1 then scaleOk (cvScale c) else decide (cvScale c = 0))

/-- The slots that phases run. -/
def usedSlots (m : Image) : List Nat := (m.phases.flatMap fun ph => (List.range (phII ph)).map (· + phBase ph)).dedup

/-- No CVT or XRND names a missing conversion entry or one of SCALE 0b10 (R322). -/
def convUseOk (m : Image) : Bool :=
  (usedSlots m).all fun x => (List.range 1024).all fun c =>
    let sl := imSlot m c x
    !(decide (slOp sl = 0x0D) || decide (slOp sl = 0x0F))
      || (decide (slC sl % 8 < m.convs.length) && decide (specScale (cvSpec (m.convs.getD (slC sl % 8) 0)) ≠ 2))

def imageRangeOk (m : Image) : Bool :=
  m.phases.all (phaseOk m) && m.streams.all (streamOk m) && m.convs.all convOk && convUseOk m

/-! ## VERIFY: R314, R318, R325 -/

/-- The shared unit that an operation issues to: 0 none, 1 multiplier, 2 divider, 3 accumulator port; and the interval. -/
def unitOf (sl : BitVec 64) : Nat × Nat :=
  let op := slOp sl
  let ty := slType sl
  if op = 0x02 ∨ op = 0x03 ∨ op = 0x05 then (1, if ty = 4 then 4 else if ty = 5 ∨ ty = 6 then 2 else 1)
  else if op = 0x08 ∨ op = 0x09 then (2, 8)
  else if op = 0x0E ∨ op = 0x0F then (3, 2)
  else (0, 1)

/-- The types that an operation accepts (R313). -/
def typeOk (op ty : Nat) : Bool :=
  let float := decide (4 ≤ ty) && decide (ty ≤ 8)
  if op = 0x02 ∨ op = 0x03 ∨ op = 0x05 then float || decide (ty = 9) || decide (ty = 10)
  else if op = 0x08 ∨ op = 0x09 then decide (ty = 4)
  else if op = 0x04 ∨ op = 0x06 ∨ op = 0x07 ∨ op = 0x0A ∨ op = 0x0B ∨ op = 0x0D ∨ op = 0x0F ∨ op = 0x1A then float
  else if op = 0x0E then decide (ty = 4) || decide (ty = 5)
  else if op = 0x10 ∨ op = 0x11 ∨ op = 0x17 ∨ op = 0x18 ∨ op = 0x19 then decide (ty ≤ 1)
  else decide (ty ≤ 8)

/-- A slot's codes (R312-R314): the operation, its type, its destination and its lanes; XACC and XRND only in row 31. -/
def slotOk (m : Image) (cell : Nat) (sl : BitVec 64) : Bool :=
  let op := slOp sl
  let ty := slType sl
  let d := slDst sl
  let writes := decide (op ≠ 0x00) && decide (op ≠ 0x0E)
  let target := specDtype (cvSpec (m.convs.getD (slC sl % 8) 0))
  let conv := decide (op = 0x0D) || decide (op = 0x0F)
  decide (op ≤ 0x1A) && typeOk op ty
    && (decide (d < 8) || decide (d = 12) || decide (d = 13) || decide (d = 15))
    && (decide (op ≠ 0x03) || decide (d = 12) || decide (d = 13))
    && (decide (op = 0x00) || decide (op = 0x0F) || decide (slLa sl < lanesOf (typeA ty)))
    && (!writes || (if conv then decide (slLb sl < lanesOf target) else decide (slLb sl < lanesOf (typeB ty))))
    && (!conv || (!bitAt sl 45 && (decide (op = 0x0D) || decide (ty = target))))
    && decide (slBus sl ≠ 3)
    && (!(decide (op = 0x0E) || decide (op = 0x0F)) || decide (cell / 32 = 31))

/-- The slots of `n` iterations of a phase. -/
def phaseLine (ph : BitVec 256) (n : Nat) : List Nat := (List.range n).flatMap fun _ => (List.range (phII ph)).map (· + phBase ph)

/-- The iterations of a phase that show every pair of its cycles up to 16 apart. -/
def enoughIters (ph : BitVec 256) : Nat := 17 / max 1 (phII ph) + 2

/-- The cyclic slot sequence of a phase, whatever its ITERS (R314). -/
def cyclicLine (ph : BitVec 256) : List Nat := phaseLine ph (enoughIters ph)

/-- The slots of the phases in order, each phase cut to enough iterations to show every pair across its ends (R314). -/
def timeline (m : Image) : List Nat := m.phases.flatMap fun ph => phaseLine ph (min (phIters ph) (enoughIters ph))

/-- Two issues of one cell, `d` cycles apart: no shared unit within its interval, no two results in one register at once. -/
def pairOk (a b : BitVec 64) (d : Nat) : Bool :=
  let ua := unitOf a
  let ub := unitOf b
  let res (x : BitVec 64) : Bool := decide (slOp x ≠ 0x00) && decide (slOp x ≠ 0x0E) && decide (slDst x ≠ 15)
  (decide (ua.1 = 0) || decide (ua.1 ≠ ub.1) || decide (ua.2 ≤ d))
    && !(res a && res b && decide (slDst a = slDst b) && decide (latency (slOp a) = d + latency (slOp b)))

/-- A cell's slots along the timeline. -/
def cellLineOk (l : List (BitVec 64)) : Bool :=
  (List.range l.length).all fun i => (List.range 16).all fun d =>
    match l[i]?, l[i + d + 1]? with
    | some a, some b => pairOk a b (d + 1)
    | _, _ => true

/-- At most one cell of each column accesses its bus in a cycle (R318). -/
def busOk (m : Image) (slot : Nat) : Bool :=
  (List.range 32).all fun x => decide (((List.range 32).filter fun y => decide (slBus (imSlot m (32 * y + x) slot) ≠ 0)).length ≤ 1)

/-- The cycle at which an access starts to use the stream port (R325): for two cycles. -/
def portUse (e : BitVec 256) (i : Nat) : Nat := stIssue e i + if stKind e = 1 ∨ stKind e = 5 then 96 else 0

/-- No access of two streams uses the stream port in one cycle. -/
def portsOk (a b : BitVec 256) : Bool :=
  (List.range (stCount a)).all fun i =>
    let u := portUse a i
    let first := portUse b 0
    [u - 1, u, u + 1].all fun v =>
      !(decide (first ≤ v) && decide ((v - first) % stPeriod b = 0) && decide ((v - first) / stPeriod b < stCount b) && decide (v + 1 ≥ u))

def imageVerifyOk (m : Image) : Bool :=
  ((usedSlots m).all fun x => busOk m x && (List.range 1024).all fun c => slotOk m c (imSlot m c x))
    && ((List.range 1024).all fun c => (m.phases.all fun ph => cellLineOk ((cyclicLine ph).map (imSlot m c)))
      && cellLineOk ((timeline m).map (imSlot m c)))
    && ((List.range m.streams.length).all fun i => (List.range i).all fun j => portsOk (m.streams.getD i 0) (m.streams.getD j 0))
    && decide ((m.phases.map phLen).sum = hdLen m.hdr)

/-! ## LOAD and UNLOAD (R331-R333) -/

def groupGated (s : State) (g : Nat) : Bool := bitAt s.pwr.gated g

/-- The array is running this program. -/
def runsProg (a : Arr) (prog : BitVec 16) : Bool := match a.run with | some r => decide (r.prog = prog) | none => false

/-- Two ranges of a start and a length meet. -/
def rangesMeet (a n b k : Nat) : Bool := decide (a < b + k) && decide (b < a + n) && decide (0 < n) && decide (0 < k)

/-- Two programs share slots or store granules. -/
def progsMeet (h g : BitVec 512) : Bool :=
  rangesMeet (hdSlotLo h) (hdSlotN h) (hdSlotLo g) (hdSlotN g) || rangesMeet (hdStoreLo h) (hdStoreCnt h) (hdStoreLo g) (hdStoreCnt g)

/-- The checks of R332 that do not read the image: the array, and then its header. -/
def loadCheckHdr (s : State) (array : Nat) (off : Nat) (h : BitVec 512) : Nat :=
  if !arrayEnabled s array then 1
  else if groupGated s (array / 72) then 2
  else if off % 4096 ≠ 0 ∨ stackedSize < off + 64 ∨ !imageHdrOk h ∨ stackedSize < off + 64 + imageRest h then 3
  else if hdUcode h ≠ s.arr.ucode.toNat % 256 then 4
  else 0

/-- The other checks of R332, of an image read at `array`; `crcOk` says that its CRC matches and that it was read whole. -/
def loadCheckImage (s : State) (array : Nat) (m : Image) (crcOk : Bool) : Nat :=
  let a := arrOf s array
  let others := a.dir.filter fun p => decide (hdProg p.hdr ≠ hdProg m.hdr)
  if !crcOk then 5
  else if !imageRangeOk m then 6
  else if !imageVerifyOk m then 7
  else if others.any fun p => progsMeet p.hdr m.hdr then 8
  else if 8 ≤ others.length then 9
  else if runsProg a (hdProg m.hdr) then 12
  else 0

/-- Read an image and check it for an array: its STATUS, the image, and the state after the reads. An image that meets poison
fails as one whose CRC does not match (DEDUCED). -/
def checkImage (array off : Nat) (s : State) : Nat × Image × State :=
  let none_ : Image := ⟨0, [], [], [], [], []⟩
  if !arrayEnabled s array then (1, none_, s)
  else if groupGated s (array / 72) then (2, none_, s)
  else if off % 4096 ≠ 0 ∨ stackedSize < off + 64 then (3, none_, s)
  else
    let ((hb, hp), s) := dieRead off 64 s
    let h := BitVec.ofNat 512 (leNat hb)
    let c := loadCheckHdr s array off h
    if c ≠ 0 then (c, none_, s)
    else
      let ((bs, bp), s) := dieRead (off + 64) (imageRest h) s
      let m := parseImage h bs
      (loadCheckImage s array m (!hp && !bp && decide (crc32c bs = hdCrc h)), m, s)

/-- The resident form of an image. -/
def progOf (m : Image) : Prog := ⟨m.hdr, m.phases, m.streams, m.convs, 0⟩

/-- Write an image's slots and preload into an array (R333). -/
def writeImage (array : Nat) (p : Prog) (slots : List (BitVec 64)) (pre : List Byte) (s : State) : State :=
  modArray array (fun a =>
    let lo := hdSlotLo p.hdr
    let n := hdSlotN p.hdr
    let a := { a with slots := (slots.zipIdx).foldl (fun t x => tabSet 0 t (x.2 / max 1 n * 64 + lo + x.2 % max 1 n) x.1) a.slots }
    ((chunks 128 4096 pre).zipIdx).foldl (fun a x => putRow (hdPreRow p.hdr + x.2) (BitVec.ofNat 1024 (leNat x.1)) [] a) a) s

/-- The program becomes resident (R333), and a FAILED array is usable again (R340). -/
def makeResident (array : Nat) (p : Prog) (s : State) : State :=
  modArray array (fun a => { a with failed := false, dir := (a.dir.filter fun q => decide (hdProg q.hdr ≠ hdProg p.hdr)) ++ [p] }) s

/-- The program leaves the directory. -/
def dropResident (array : Nat) (prog : BitVec 16) (s : State) : State :=
  modArray array (fun a => { a with dir := a.dir.filter fun q => decide (hdProg q.hdr ≠ prog) }) s

def arrLoadFault (array : Nat) (s : State) : State := devFault0 0x60 sevWarn array 0 s

/-- An array's slots in bytes, as a pending load carries them in front of the preload. -/
def packSlots (l : List (BitVec 64)) : List Byte := l.flatMap bvBytes

/-- LOAD: the checks, and then the load that ARR_LOAD_DONE ends. -/
def arrLoad (array : Nat) (s : State) : State :=
  let (c, m, s) := checkImage array s.arr.loadAddr.toNat s
  let s := modArr (fun u => { u with loadStatus := BitVec.ofNat 4 c }) s
  if c ≠ 0 then arrLoadFault array s
  else modArr (fun u => { u with loadBusy := some (array, progOf m, packSlots m.slots ++ m.pre) }) s

/-- UNLOAD. -/
def arrUnload (array : Nat) (s : State) : State :=
  let prog : BitVec 16 := bitsOf s.arr.loadProg 0 16
  let a := arrOf s array
  let c := if (residentProg a prog).isNone then 11 else if runsProg a prog then 12 else 0
  let s := modArr (fun u => { u with loadStatus := BitVec.ofNat 4 c }) s
  if c = 0 then dropResident array prog s else s

/-- ARR_LOAD_CTL (R331). -/
def arrLoadCtlWrite (v : W32) (s : State) : Wrote :=
  if s.arr.loadBusy.isSome then wrote s
  else
    let array := (bitsOf v 0 10).toNat
    let s := modArr (fun u => { u with loadArray := bitsOf v 0 10 }) s
    match (bitsOf v 25 2).toNat with
    | 1 => started (arrLoad array s)
    | 2 => started (arrUnload array s)
    | _ => wrote s

/-- ARR_LOAD_DONE (R333): the load waits while the array runs. -/
def arrLoadDone (ok : Bool) (s : State) : State :=
  match s.arr.loadBusy with
  | none => s
  | some (array, p, bs) =>
    if (arrOf s array).run.isSome then s
    else
      let n := 8192 * hdSlotN p.hdr
      let s := modArr (fun u => { u with loadBusy := none, loadStatus := if ok then 0 else 7 }) s
      let s := writeImage array p ((wordsAt 8 bs 0 (1024 * hdSlotN p.hdr)).map (BitVec.ofNat 64)) (bs.drop n) s
      if ok then makeResident array p s else arrLoadFault array (dropResident array (hdProg p.hdr) s)

end Sys2Proof.Machine
end

