-- ==== Sys2Proof/Machine/ArrRun.lean ====
section
/-! DEFINITION. TICK runs: the start of an ARRAY entry, stream accesses, the end and the halt of a run, store errors, and the
binding tables (R326-R329, R334-R342). -/

namespace Sys2Proof.Machine

open Sys2Proof

/-! ## Completion records (R336) -/

/-- A completion record's 32 bytes. -/
def runRecord (st cause flags : Byte) (vary service : Bool) (prog : BitVec 16) (array : Nat) (run cycles : W32) (tick : BitVec 64)
    (miss stall : W32) : List Byte :=
  [st, cause, flags, BitVec.ofNat 8 (ofB vary + 2 * ofB service)] ++ bvBytes prog ++ leBytes 2 array ++ bvBytes run ++ bvBytes cycles
    ++ bvBytes tick ++ bvBytes miss ++ bvBytes stall

/-- An unscheduled write of the module's own; a poisoned line that it covers in part is not written (R378). -/
def putOwn (off : Nat) (bs : List Byte) (s : State) : State := if bs.isEmpty then s else (dieWrite off bs s).2

/-- Write a run's record, then its amax records, then increment its tally; the program's RUN advances. -/
def postRun (array : Nat) (p : Prog) (record amax : List Byte) (s : State) : State :=
  let s := putOwn (hdCplAddr p.hdr + 32 * (p.run.toNat % 2 ^ hdCplLog p.hdr)) record s
  let s := if hdAmaxAddr p.hdr = 0 then s else putOwn (hdAmaxAddr p.hdr) amax s
  let s := if hdCplTallyEn p.hdr then tallyInc (hdCplTally p.hdr) s else s
  modArray array (fun a => { a with dir := a.dir.map fun q => if hdProg q.hdr = hdProg p.hdr then { q with run := q.run + 1 } else q }) s

/-- A REDUCE ADD stream on a floating-point DTYPE (R337). -/
def streamVaries (e : BitVec 256) : Bool := decide (stKind e = 3) && decide (stSubop e = 0) && decide (4 ≤ (stDtype e).toNat)

/-- The run's results carry VARY (R337). -/
def runVary (p : Prog) (r : Run) : Bool :=
  hdVary p.hdr || (p.streams.zipIdx.any fun x => (streamVaries x.1 || decide (stKind x.1 = 5)) && decide (0 < tabGet 0 r.next x.2))

/-- The amax records of a run's conversion entries, in order. -/
def runAmax (p : Prog) (r : Run) : List Byte := (List.range p.convs.length).flatMap fun j => amaxBytes (tabGet {} r.amax j)

/-- The run has issued an access that lands or completes after its issue: a WRITE, REDUCE or FPUT (R335). -/
def runWrites (p : Prog) (r : Run) : Bool :=
  p.streams.zipIdx.any fun x => (decide (2 ≤ stKind x.1) && decide (stKind x.1 ≤ 4)) && decide (0 < tabGet 0 r.next x.2)

/-- The time of a run past `base` program cycles: none where the spec gives the end, else a free value, since stalls and the landing of
writes are matters of time (assumption 5). -/
def runExtra (p : Prog) (r : Run) (s : State) : W32 × State :=
  if r.service || r.cut || runWrites p r then let (v, s) := takeFree s; (bitsOf v 0 32, s) else (0, s)

/-- STALL: 0 in TICK mode (R336), else a free value, since it counts the cycles that data came late (assumption 5). -/
def runStall (r : Run) (s : State) : W32 × State :=
  if r.service then let (v, s) := takeFree s; (bitsOf v 0 32, s) else (0, s)

/-- The run ends, `base` program cycles after its start at least: record, amax, tally, VARY. -/
def finishRun (array base : Nat) (p : Prog) (r : Run) (s : State) : State :=
  let (extra, s) := runExtra p r s
  let (stall, s) := runStall r s
  let vary := runVary p r
  let s := modArray array (fun a => { a with run := none, lastProg := r.prog }) s
  let p := (residentProg (arrOf s array) r.prog).getD p
  noteVary vary (postRun array p
    (runRecord r.status r.cause r.flags vary r.service r.prog array p.run (BitVec.ofNat 32 base + extra) r.tick r.miss stall) (runAmax p r) s)

/-! ## The start of an entry (R334) -/

/-- The applied throttle level (R424). -/
def appliedLevel (s : State) : Nat := max s.pwr.level s.pwr.thermLevel.toNat

/-- Why program `prog` does not start on an array, 0 when it does. -/
def startCause (s : State) (array : Nat) (prog : BitVec 16) : Nat :=
  let a := arrOf s array
  match residentProg a prog with
  | none => 2
  | some p =>
    if (match s.arr.loadBusy with | some (b, _, _) => decide (b = array) | none => false) then 3
    else if a.run.isSome then 3
    else if groupGated s (array / 72) then 4
    else if !hdTickOk p.hdr then 8
    else if a.failed then 7
    else 0

/-- An entry that does not start is dropped with LATE (R234); it has a record only where its program is resident (R336). -/
def arrayDrop (array : Nat) (prog : BitVec 16) (cause : Nat) (s : State) : State :=
  match residentProg (arrOf s array) prog with
  | none => dropItem 3 s
  | some p => dropItem 3 (postRun array p (runRecord 0x11 (BitVec.ofNat 8 cause) 0 false false prog array p.run 0 s.tick.now 0 0) [] s)

def arrayStart (e : Nat) (x : BitVec 128) (s : State) : State :=
  let array := entArray x
  let prog := BitVec.ofNat 16 (entProg x)
  let c := startCause s array prog
  if c ≠ 0 then arrayDrop array prog c s
  else
    let r : Run := { prog := prog, service := false, entry := e, startCyc := entStart x, tick := s.tick.now, step := s.tick.step,
                     cut := decide (0 < appliedLevel s) }
    modArray array (fun a => { a with run := some r }) s

/-- ARRAY_ENTRY_START. -/
def execArrayEntryStart (e : Nat) (s : State) : Out := coreLive s (startEntry e kindArray (arrayStart e) s)

/-! ## Advancing a run -/

/-- The run meets a store word marked uncorrectable (R340). -/
def storePoisoned (array : Nat) (s : State) : State :=
  match (arrOf s array).run with
  | none => s
  | some r =>
    let s := setRepro 0 (modRun array (runStatus 0x15 6) s)
    if r.status = 0x15 then s else devFault0 0x62 sevError array 0 (modArr (fun u => { u with uncorr := satAdd u.uncorr 1 }) s)

/-- The first program cycle that stalls for FGET data that has not arrived (R328), `stop` at most. -/
def stallAt (r : Run) (stop : Nat) : Nat := r.gets.foldl (fun m g => min m g.due) stop

/-- Run an array's program cycles up to `stop`, or to the first that stalls. -/
def advanceRun (array stop : Nat) (s : State) : State :=
  match (arrOf s array).run with
  | none => s
  | some r =>
    match residentProg (arrOf s array) r.prog with
    | none => s
    | some p =>
      let c := arrRun p (stop - r.cyc) (stallAt r stop) ⟨arrOf s array, r, false⟩
      let s := modArray array (fun _ => { c.arr with run := some c.run }) s
      if c.bad then storePoisoned array s else s

/-! ## Channel slots (R326) -/

/-- Slot `k` of channel `c` lies in a refresh window of this tick. -/
def slotRefreshed (s : State) (c k : Nat) : Bool :=
  (entriesNow s).any fun e => match entryNow s e with
    | some x => decide (entKind x = kindRefresh) && decide (entStack x = c / 16) && bitAt (entChans x) (c % 16)
        && decide (entStart x ≤ 4 * k / 3) && decide (4 * k / 3 < entEnd x)
    | none => false

/-- Slot `k` of channel `c` is free. -/
def slotFree (s : State) (c k : Nat) : Bool := !(tabGet 0 s.arr.slotsTaken c).testBit k && !slotRefreshed s c k

/-- The earliest four consecutive free slots of the tick from `k` on; `fuel` bounds the search. -/
def findSlots (s : State) (c : Nat) : Nat → Nat → Option Nat
  | 0, _ => none
  | fuel + 1, k =>
    if actPeriod s ≤ 4 * (k + 3) / 3 then none
    else if (List.range 4).all fun i => slotFree s c (k + i) then some k
    else findSlots s c fuel (k + 1)

/-- The slots that begin in the tick cycles from `a` up to `b`, as a mask. -/
def slotMask (a b : Nat) : Nat := let k := (3 * a + 3) / 4; (2 ^ ((3 * b + 3) / 4 - k) - 1) * 2 ^ k

/-- Take the slots of an access that issues at tick cycle `cyc` and moves an extent of channel `c`: where they begin. -/
def takeSlots (c cyc : Nat) (s : State) : Option Nat × State :=
  let k0 := (3 * (cyc + 8) + 3) / 4
  match findSlots s c (actPeriod s) k0 with
  | none => (none, s)
  | some k => (some k, modArr (fun u => { u with slotsTaken := tabMod 0 u.slotsTaken c (· ||| (15 * 2 ^ k)) }) s)

/-- Four consecutive slots from `k` on that all begin in time for a READ of a run that starts at tick cycle `start` and issues at program
cycle `issue` (R326). -/
def slotsInTime (start issue k : Nat) : Bool := decide (4 * (k + 3) / 3 < start + issue + 80)

/-- An access that a forced refresh has taken slots of: a READ of an array, or none for a WRITE or REDUCE. -/
abbrev Displaced := Nat × Option (Nat × StoreFill)

/-- Put an access among others in the order of their slots. -/
def displacedIn (x : Displaced) : List Displaced → List Displaced
  | [] => [x]
  | y :: t => if x.1 < y.1 then x :: y :: t else y :: displacedIn x t

/-- The accesses of channel `c` with a slot in `mask`, by their slots. -/
def displaced (s : State) (c mask : Nat) : List Displaced :=
  let hit (k : Nat) : Bool := decide ((15 * 2 ^ k) &&& mask ≠ 0)
  let reads : List Displaced := s.arr.arrays.flatMap fun a => match a.2.run with
    | none => []
    | some r => r.fills.filterMap fun f => match f.slot with
      | some k => if f.chan = c ∧ hit k then some (k, some (a.1, f)) else none
      | none => none
  let writes : List Displaced := ((tabGet [] s.arr.writeSlots c).filter hit).map fun k => (k, none)
  (reads ++ writes).foldl (fun l x => displacedIn x l) []

/-- Reserve the four slots from `k` on. -/
def reserve (c k : Nat) (s : State) : State := modArr (fun u => { u with slotsTaken := tabMod 0 u.slotsTaken c (· ||| (15 * 2 ^ k)) }) s

/-- An access that lost its slots is served in the channel's next free ones from slot `k0` on (R229): a READ that can then no longer reach the
store in time misses, and a WRITE or REDUCE lands later. -/
def serveDisplaced (c k0 : Nat) (x : Displaced) (s : State) : State :=
  let found := findSlots s c (actPeriod s) k0
  match x.2 with
  | none =>
    let s := match found with | some k => reserve c k s | none => s
    modArr (fun u => { u with writeSlots := tabMod [] u.writeSlots c fun l => l.filter (· ≠ x.1) ++ found.toList }) s
  | some (array, f) =>
    match (arrOf s array).run, found with
    | some r, some k =>
      if slotsInTime r.startCyc (f.at_ - 96) k then
        reserve c k (modRun array (fun r => { r with fills := r.fills.map fun g => if g = f then { f with slot := some k } else g }) s)
      else readMisses array f s
    | _, _ => readMisses array f s
where
  readMisses (array : Nat) (f : StoreFill) (s : State) : State :=
    devFault0 0x61 sevWarn array 0 (modRun array (fun r =>
      runStatus 0x11 5 { r with miss := satAdd r.miss 1, fills := r.fills.erase f }) s)

/-- The slots of a forced refresh are taken from the accesses that had reserved them. -/
def refreshTakes (c mask k0 : Nat) (s : State) : State := forEach (displaced s c mask) (serveDisplaced c k0) s

/-- FORCED_REFRESH (R229): the channel's pending refreshes have reached 8, and one is done at once. It takes the channel's slots of 448 cycles,
of this tick and the next, from a tick cycle that is a free value (assumption 45). -/
def forcedRefresh (c : Nat) (s : State) : State :=
  let (v, s) := takeFree s
  let at_ := v.toNat % max 1 (actPeriod s)
  let end_ := min (at_ + 448) (actPeriod s)
  let mask := slotMask at_ end_
  let s := devFault0 0x46 sevWarn (c / 16) 0 (setRepro 4 (modChan c (fun ch => { ch with pendingRefresh := 7 }) s))
  let s := modArr (fun u => { u with slotsTaken := tabMod 0 u.slotsTaken c (· ||| mask), forcedOver := tabSet 0 u.forcedOver c (at_ + 448 - end_) }) s
  refreshTakes c mask ((3 * end_ + 3) / 4) s
def execForcedRefresh (chan : Nat) (s : State) : Out := coreIf (decide (chan < 384)) "channel" s (forcedRefresh chan s)

/-- At a boundary the slots of the old tick are gone; those of a forced refresh that runs on are taken in the new one. -/
def boundarySlots (u : ArrUnit) : ArrUnit :=
  { u with slotsTaken := u.forcedOver.foldl (fun t e => tabSet 0 t e.1 (slotMask 0 e.2)) [], writeSlots := [], forcedOver := [] }

/-! ## Stream accesses (R325-R329) -/

/-- The 256 bytes of a store granule and its marked words, counted 0 to 63. -/
def granuleOf (a : Arr) (g : Nat) : List Byte × List Nat :=
  (leBytes 128 (storeRow a (2 * g)).toNat ++ leBytes 128 (storeRow a (2 * g + 1)).toNat,
   (a.badWords.filter fun b => decide (b / 64 = g)).map (· % 64))

/-- READ: the data for the store rows, or a miss. -/
def streamRead (array cyc granule off : Nat) (slot : Option Nat) (missed : Bool) (s : State) : State :=
  if missed then
    devFault0 0x61 sevWarn array 0 (modRun array (fun r => runStatus 0x11 5 { r with miss := satAdd r.miss 1 }) s)
  else
    let ((d, bad), s) := memRead (linesOf off 256) off 256 s
    modRun array (fun r => { r with fills := r.fills ++ [⟨cyc + 96, granule, d, if bad then List.range 64 else [], channelOf off, slot⟩] }) s

/-- One line of a WRITE or REDUCE: a line with a marked word is written poisoned, and a REDUCE of it is not applied (R378). -/
def streamLine (e : BitVec 256) (l : Nat) (data : List Byte) (marked : Bool) (s : State) : State :=
  let reduces := decide (stKind e = 3)
  if marked then
    let (old, s) := lineLoad l s
    linePoisoned l (if reduces then old.1 else data) s
  else
    let (p, s) := lineStore l (!reduces) (fun old => if reduces then reducePart (stSubop e) (stDtype e) old data else data) s
    if p then notePoison (lineChan l) (lineLocal l) s else s

/-- WRITE and REDUCE: the four lines of a granule, in address order. -/
def streamWrite (e : BitVec 256) (off : Nat) (data : List Byte) (marked : List Nat) (s : State) : State :=
  forEach (List.range 4) (fun i s =>
    streamLine e (off / 64 + i) (slice data (64 * i) 64) (marked.any fun b => decide (b / 16 = i)) s) s

/-- A frame of a stream is sent, or held: a flagged FPUT until the program's earlier accesses are DONE (R199), and an access to a line of a held
frame until that frame has been sent (R198). -/
def sendStream (array : Nat) (f : NewFrame) (s : State) : State :=
  let s := modRun array (fun r => { r with open_ := r.open_ + 1 }) s
  let waits := match (arrOf s array).run with | some r => decide (f.flags % 2 = 1) || heldTouches r.flagged f.addr f.length | none => false
  if waits then releaseFputs array 1 (modRun array (fun r => { r with flagged := r.flagged ++ [f] }) s) else sendOrWait .rte f s

/-- FPUT: one STORE frame of the node requester. The lines of its marked words carry the poison on (R340, assumption 64). -/
def streamPut (array k i : Nat) (e : BitVec 256) (data : List Byte) (marked : List Nat) (s : State) : State :=
  let flag := stFlag e && decide (i + 1 = stCount e)
  let f : NewFrame := { type := 0x02, src := myFnid s, addr := stTarget e i, length := 256, payload := data
                        flags := ofB flag, port := 112 + array / 72, owner := .stream array k i
                        poison := (List.range 4).filter fun j => marked.any fun b => decide (b / 16 = j) }
  sendStream array f s

/-- FGET: one LOAD frame of the node requester, whose data is due at issue + 96 (R325, R327). -/
def streamGet (array k i : Nat) (e : BitVec 256) (s : State) : State :=
  let f : NewFrame := { type := 0x01, src := myFnid s, addr := stTarget e i, length := 256, port := 112 + array / 72, owner := .stream array k i }
  sendStream array f (modRun array (fun r => { r with gets := r.gets ++ [⟨k, i, stIssue e i + 96, stGranule e i⟩] }) s)

/-- Another TICK run, or an ARRAY entry still to start, takes slots before an access of array `array` that issues at tick cycle `at_`
(R326): earlier tick-cycle issue first, then ascending array number. -/
def slotsBefore (s : State) (array at_ : Nat) : Bool :=
  (s.arr.arrays.any fun x => decide (x.1 ≠ array) && match x.2.run with
    | some r => !r.service && !r.halted && (match residentProg x.2 r.prog with
      | some p => (nextIssues p r).any fun y => decide (stKind (p.streams.getD y.2 0) < 4)
          && (decide (r.startCyc + y.1 < at_) || (decide (r.startCyc + y.1 = at_) && decide (x.1 < array)))
      | none => false)
    | none => false)
  || (mayStart s && ((entriesNow s).any fun e => !s.tick.started.contains e && (match entryNow s e with
    | some x => decide (entKind x = kindArray) && (decide (entStart x < at_) || (decide (entStart x = at_) && decide (entArray x < array)))
    | none => false)))

/-- A SERVICE run's call has not been applied yet: the run has not taken its request (assumption 7). -/
def callWaits (s : State) (array : Nat) : Bool := s.svc.running.any fun c => decide (c.2 = some array)

/-- Access `i` of stream `k` of a running program may issue: it is the program's next in issue order (R329), no cycle that it needs stalls
(R328), no other array's access takes slots before it (R326), and no held frame of the program goes to its lines at this module (R198). -/
def mayIssue (s : State) (array k : Nat) (p : Prog) (r : Run) : Bool :=
  let i := tabGet 0 r.next k
  let e := p.streams.getD k 0
  let cyc := stIssue e i
  let me := (cyc, k)
  let last := if stKind e = 1 ∨ stKind e = 5 then cyc else cyc + 1
  !r.halted && (nextIssues p r).contains me && ((nextIssues p r).all fun x => decide (x = me) || issueBefore me x)
    && (r.gets.all fun g => decide (last < g.due))
    && (decide (4 ≤ stKind e) || !heldTouches r.flagged (BitVec.ofNat 64 ((myFnid s).toNat * 2 ^ 52 + (stTarget e i).toNat)) 256)
    && (if r.service then !callWaits s array
      else decide (4 ≤ stKind e) || decide (0 < appliedLevel s) || !slotsBefore s array (r.startCyc + cyc))

/-- The next access of stream `k` of a running program. -/
def streamAccess (array k : Nat) (ecc : List Nat) (s : State) : State :=
  match (arrOf s array).run with
  | none => s
  | some r =>
    match residentProg (arrOf s array) r.prog with
    | none => s
    | some p =>
      let i := tabGet 0 r.next k
      let e := p.streams.getD k 0
      if !mayIssue s array k p r then s
      else
        let cyc := stIssue e i
        let off := (stTarget e i).toNat
        let kind := stKind e
        let s := advanceRun array cyc s
        let s := modRun array (fun r => { r with next := tabMod 0 r.next k (· + 1) }) s
        let slots := kind < 4 ∧ !r.service ∧ appliedLevel s = 0
        let (at_, s) := if slots then takeSlots (channelOf off) (r.startCyc + cyc) s else (none, s)
        let s := if kind < 4 then noteErrs (linesOf off 256) ecc s else s
        let s := match at_ with
          | some x => if kind = 1 then s else modArr (fun u => { u with writeSlots := tabMod [] u.writeSlots (channelOf off) (· ++ [x]) }) s
          | none => s
        if kind = 1 then
          let inTime := match at_ with | some x => slotsInTime r.startCyc cyc x | none => false
          streamRead array cyc (stGranule e i) off at_ (slots && !inTime) s
        else if kind = 5 then streamGet array k i e s
        else
          let row0 := storeRow (arrOf s array) (2 * stGranule e i)
          let bad0 := (granuleOf (arrOf s array) (stGranule e i)).2.filter (· < 32)
          let s := advanceRun array (cyc + 1) s
          let (d, bad) := granuleOf (arrOf s array) (stGranule e i)
          let data := leBytes 128 row0.toNat ++ d.drop 128
          let marked := bad0 ++ bad.filter (32 ≤ ·)
          let s := if marked.isEmpty then s else storePoisoned array s
          if kind = 4 then streamPut array k i e data marked s else streamWrite e off data marked s

/-- ARRAY_STREAM_ACCESS. -/
def execArrayStreamAccess (array stream : Nat) (ecc : List Nat) (s : State) : Out :=
  coreIf (decide (array < 864) && decide (stream < 16)) "array stream" s (streamAccess array stream ecc s)

/-! ## The end of a run (R320, R335) -/

/-- The program cycle by which compute has ended and all READ data is written. -/
def runHorizon (p : Prog) (r : Run) : Nat := r.fills.foldl (fun m f => max m (f.at_ + 2)) (progLen p + 16)

/-- Nothing of the run is outstanding but compute and READ data on its way. -/
def runQuiet (p : Prog) (r : Run) : Bool :=
  decide (r.open_ = 0) && r.gets.isEmpty && r.flagged.isEmpty && (r.halted || (nextIssues p r).isEmpty)

/-- The array of a running optimizer step: its run ends with the step (R366). -/
def stepOn (s : State) (array : Nat) : Bool := s.svc.svcs.any fun v => v.2.stepRunning && decide (v.2.stepArray = some array)

/-- The program cycles of a run from its start to the end that R335 gives: its horizon, or for a halted one its entry's END. -/
def runBase (s : State) (p : Prog) (r : Run) : Nat :=
  if r.halted then entEnd (s.tick.active.getD r.entry 0) - r.startCyc else runHorizon p r

/-- A run of which nothing is outstanding ends (R335). -/
def runOver (array : Nat) (s : State) : State :=
  match (arrOf s array).run with
  | none => s
  | some r =>
    match residentProg (arrOf s array) r.prog with
    | none => s
    | some p =>
      if !runQuiet p r then s
      else
        let base := runBase s p r
        let s := if r.halted then s else advanceRun array base s
        match (arrOf s array).run with
        | some r => finishRun array base p r s
        | none => s

/-- ARRAY_RUN_END: a SERVICE run ends when its request, too, is done with. -/
def runEnd (array : Nat) (s : State) : State :=
  if callWaits s array || stepOn s array then s else runOver array s

/-- ARRAY_RUN_END. -/
def execArrayRunEnd (array : Nat) (s : State) : Out := coreIf (decide (array < 864)) "array" s (runEnd array s)

/-- Halt a run at its entry's END: LATE, cause 1, the one drop of the entry. A throttled array's virtual clock is behind, so its
cycles go no further (R425). -/
def runHalt (array : Nat) (s : State) : State :=
  match (arrOf s array).run with
  | none => s
  | some r =>
    match residentProg (arrOf s array) r.prog with
    | none => s
    | some p =>
      if r.service || r.halted then s
      else
        let span := entEnd (s.tick.active.getD r.entry 0) - r.startCyc
        let s := if appliedLevel s = 0 then advanceRun array (min span (runHorizon p r)) s else s
        let s := modRun array (fun r => runStatus 0x11 1
          { r with halted := true, fills := [], open_ := r.open_ - r.flagged.length, flagged := [] }) s
        dropItem 3 s

/-- ARRAY_RUN_HALT. -/
def execArrayRunHalt (array : Nat) (s : State) : Out := coreIf (decide (array < 864)) "array" s (runHalt array s)

/-! ## Store errors (R340) -/

/-- ARRAY_STORE_ECC: a read of a store word, in row word / 32, finds an error. An uncorrectable word is marked, so that a WRITE or
FPUT of it carries the poison on. -/
def arrayStoreEcc (array : Nat) (ecc : StoreEcc) (s : State) : State :=
  match ecc with
  | .corrected => modArr (fun u => { u with corr := satAdd u.corr 1 }) s
  | .uncorrectable word =>
    let s := modArray array (fun a => { a with badWords := a.badWords.filter (· ≠ word) ++ [word] }) s
    let s := devFault0 0x62 sevError array 0 (modArr (fun u => { u with uncorr := satAdd u.uncorr 1 }) s)
    if (arrOf s array).run.isSome then setRepro 0 (modRun array (runStatus 0x15 6) s) else s
def execArrayStoreEcc (array : Nat) (ecc : StoreEcc) (s : State) : Out :=
  coreIf (decide (array < 864) && storeEccWord ecc) "array store word" s (arrayStoreEcc array ecc s)

/-- An array fails (R340): a run ends there with POISON, cause 7, in a program cycle that is a free value; its directory is emptied. -/
def arrayFails (array : Nat) (s : State) : State :=
  let s := modRun array (runStatus 0x15 7) s
  let s := match (arrOf s array).run with
    | some r => match residentProg (arrOf s array) r.prog with
      | some p => finishRun array r.cyc p { r with cut := true } s
      | none => s
    | none => s
  let s := modArray array (fun a => { a with failed := true, dir := [], run := none }) s
  devFault0 0x63 sevError array 0 (modArr (fun u => { u with uncorr := satAdd u.uncorr 1 }) s)

/-! ## Binding tables (R339) -/

/-- The entry index of a group's binding table. -/
def cbKey (g e : Nat) : Nat := g * 16 + e

/-- Post an entry into a binding table: its STATUS, 0 OK. -/
def cbPost (g e : Nat) (d : BitVec 512) (s : State) : Nat × State :=
  if 12 ≤ g ∨ !colFormatOk s d stackedSize true ∨ dField d 0 1 ≠ 0x10 then (1, s)
  else match colRank s d (myFnid s) (g + 1) with
    | none => (2, s)
    | some r =>
      if tabGet 0 s.col.cb (cbKey g e) ≠ 0 then (3, s)
      else (0, offerMember { binder := .cb g e, rank := r, raw := d } (modCol (fun c => { c with cb := tabSet 0 c.cb (cbKey g e) d }) s))

/-- WRITE of the staged entry; a failure has its fault record. -/
def cbWrite (g e : Nat) (s : State) : State :=
  let (st, s) := cbPost g e s.arr.cbData s
  let s := modArr (fun u => { u with cbStatus := BitVec.ofNat 3 st }) s
  if st = 0 then s else devFault0 0x65 sevWarn g 0 s

/-- READ of a binding entry into the staging registers. -/
def cbRead (g e : Nat) (s : State) : State :=
  if 12 ≤ g then modArr (fun u => { u with cbStatus := 1 }) s
  else modArr (fun u => { u with cbStatus := 0, cbData := tabGet 0 s.col.cb (cbKey g e) }) s

/-- ARR_CB_CTL. -/
def arrCbCtlWrite (v : W32) (s : State) : Wrote :=
  let g : BitVec 4 := bitsOf v 4 4
  let e : BitVec 4 := bitsOf v 0 4
  let s := modArr (fun u => { u with cbGroup := g, cbEntry := e }) s
  match (bitsOf v 26 2).toNat with
  | 1 => started (cbWrite g.toNat e.toNat s)
  | 2 => started (cbRead g.toNat e.toNat s)
  | _ => wrote s

end Sys2Proof.Machine
end

