-- ==== Sys2Proof/Machine/TallyOps.lean ====
section
/-! DEFINITION. The tally aperture and its notifier (R269-R275). -/

namespace Sys2Proof.Machine

open Sys2Proof

/-! ## Accesses (R269, R271) -/

/-- The first 32 bytes of a tally (R269). -/
def tallyBytes (t : Tally) : List Byte :=
  bvBytes t.count ++ bvBytes t.thresh ++ bvBytes t.notify ++ bvBytes t.ctl ++ leBytes 4 t.owner.toNat

/-- A CTL word that a store may write (R270, R271): no reserved MODE and no reserved bit. -/
def ctlWordOk (w : W32) : Bool := decide ((bitsOf w 29 2).toNat ≠ 3) && decide (bitsOf w 16 11 = 0)

/-- An access that R271 accepts. FIRED and NOTIFY_ERR are read-only, so a store may carry any value there. -/
def tallyAccOk (a : TlyAcc) : Bool :=
  let o := a.off.toNat % 256
  let w : W32 := BitVec.ofNat 32 (fieldNat a.data (if o = 0 then 24 else 0) 4)
  match a.op with
  | .load => decide (a.subop = 0) && decide (a.dtype = 0) &&
      ((decide (a.len = 8) && (decide (o = 0) || decide (o = 8) || decide (o = 16) || decide (o = 24)))
        || (decide (a.len = 4) && decide (o = 24)) || (decide (a.len = 32) && decide (o = 0)))
  | .store => decide (a.subop = 0) && decide (a.dtype = 0) &&
      ((decide (a.len = 8) && (decide (o = 0) || decide (o = 8) || decide (o = 16)))
        || (((decide (a.len = 4) && decide (o = 24)) || (decide (a.len = 32) && decide (o = 0))) && ctlWordOk w))
  | .atomic =>
      let op := (a.subop &&& 0x7F).toNat
      decide (a.len = 8) && decide (o = 0) && decide (a.dtype = 2) && (decide (op = 0) || decide (op = 6) || decide (op = 7))
  | .reduce => decide (a.len = 8) && decide (o = 0) && decide (a.dtype = 2) && decide (a.subop = 0)

/-- OWNER of a write to NOTIFY: the writer's FNID, 0xFFF for a module (R269). -/
def ownerOf (src : BitVec 12) : BitVec 12 := if bitAt src 11 then 0xFFF else src

/-- CTL after a write (R270): EN, MODE and STEP are written, and NOTIFY_ERR clears. -/
def writeCtl (old w : W32) : W32 := putBits (putBits w 28 1 (ofB (bitAt old 28))) 27 1 0

/-- The update that an accepted write makes. -/
def tallyWrite (a : TlyAcc) (t : Tally) : Tally :=
  let o := a.off.toNat % 256
  let x := BitVec.ofNat 64 (fieldNat a.data 0 8)
  match a.op with
  | .load => t
  | .store =>
    if a.len = 32 then
      { count := x, thresh := BitVec.ofNat 64 (fieldNat a.data 8 8), notify := BitVec.ofNat 64 (fieldNat a.data 16 8)
        ctl := writeCtl t.ctl (BitVec.ofNat 32 (fieldNat a.data 24 4)), owner := ownerOf a.src }
    else if o = 0 then { t with count := x }
    else if o = 8 then { t with thresh := x }
    else if o = 16 then { t with notify := x, owner := ownerOf a.src }
    else { t with ctl := writeCtl t.ctl (BitVec.ofNat 32 (fieldNat a.data 0 4)) }
  | .atomic => { t with count := BitVec.ofNat 64 (elemOp (a.subop &&& 0x7F).toNat 2 t.count.toNat (fieldNat a.data 0 8) (fieldNat a.data 8 8)) }
  | .reduce => { t with count := t.count + x }

/-- Apply one access to the tally aperture and answer it (R269, R271, R387). -/
def applyTally (a : TlyAcc) (s : State) : State :=
  let i := a.off.toNat / 256
  let o := a.off.toNat % 256
  if s.mem.tenantBusy ∨ 32 ≤ o then answer a.back 0x13 none [] s
  else if !tallyAccOk a then answer a.back 0x10 none [] s
  else
    let t := tabGet {} s.tly.tallies i
    let old := slice (tallyBytes t) o a.len
    match a.op with
    | .load => answer a.back 0 (some old) [] s
    | .atomic => answer a.back 0 (if fetches a.subop then some old else none) old (tallyUpdate i (tallyWrite a) s)
    | _ => answer a.back 0 none [] (tallyUpdate i (tallyWrite a) s)

/-! ## The notifier (R274) -/

/-- A notify that may not be sent. -/
def notifyBad (s : State) (i : Nat) (target : BitVec 64) : Bool :=
  let owner := (tabGet {} s.tly.tallies i).owner
  decide (target.toNat % 8 ≠ 0) || fnidUnassigned (addrFnid target)
    || (!bitAt owner 11 && !partShare s owner (addrFnid target))

/-- Send the oldest notify; one to this module's own tally aperture is applied on-die, before any access that waits. -/
def notifyOne (s : State) : State :=
  match s.tly.notifyQ with
  | [] => s
  | (i, target, isAdd, count) :: rest =>
    let s := modTly (fun u => { u with notifyQ := rest }) s
    let data := leBytes 8 (if isAdd then 1 else count.toNat)
    if notifyBad s i target then notifyFailed i s
    else if addrFnid target = myFnid s ∧ regionOf (addrOff target) = .tally then
      applyTally { op := if isAdd then .atomic else .store, off := BitVec.ofNat 24 (addrOff target - tallyBase), len := 8, subop := 0
                   dtype := if isAdd then 2 else 0, data := data, src := myFnid s, back := .notify i } s
    else
      sendOrWait .rte { type := if isAdd then 0x03 else 0x02, src := myFnid s, addr := target, length := 8
                        payload := pad32 data, dtype := if isAdd then 2 else 0, port := 126, owner := .notify i } s

/-- TALLY_ACCESS (R271-R274): the unit applies one access, after the notifies that wait have left. -/
def execTallyAccess (src : Arrive TlyAcc) (s : State) : Out :=
  coreLive s <|
    let s := forEach (List.range s.tly.notifyQ.length) (fun _ s => notifyOne s) s
    match src with
    | .given a => applyTally a s
    | .waiting =>
      match s.tly.queue with
      | [] => s
      | a :: rest => applyTally a (modTly (fun u => { u with queue := rest }) s)

end Sys2Proof.Machine
end

