-- ==== Sys2Proof/Machine/Attach.lean ====
section
/-! DEFINITION. The commands of the attach link and of the manifest rings (R64-R102, R197-R204). -/

namespace Sys2Proof.Machine

open Sys2Proof

def epOk (n : Nat) : Bool := decide (n < 64)

/-! ## Direct requests. The header of the message says what it asks; a malformed one is answered FORMAT (R75). -/

/-- LOAD (R72, R79, R80). -/
def execLoad (n : Nat) (msg : AttachMsg) (s : State) : Out :=
  portIf (epOk n) "end-point block" n (receive n msg [.ready] (recvDirect n msg)) s
/-- STORE (R72, R79, R80). -/
def execStoreMsg (n : Nat) (msg : AttachMsg) (s : State) : Out :=
  portIf (epOk n) "end-point block" n (receive n msg [.ready] (recvDirect n msg)) s
/-- ATOMIC (R72, R79, R80). -/
def execAtomic (n : Nat) (msg : AttachMsg) (s : State) : Out :=
  portIf (epOk n) "end-point block" n (receive n msg [.ready] (recvDirect n msg)) s
/-- REDUCE (R72, R79, R80). -/
def execReduce (n : Nat) (msg : AttachMsg) (s : State) : Out :=
  portIf (epOk n) "end-point block" n (receive n msg [.ready] (recvDirect n msg)) s
/-- SVC_CALL (R72, R79, R80). -/
def execSvcCall (n : Nat) (msg : AttachMsg) (s : State) : Out :=
  portIf (epOk n) "end-point block" n (receive n msg [.ready] (recvDirect n msg)) s

/-! ## RSP (R71, R81, R82) -/

/-- An RSP of the controller: matched by DTAG, else counted in LATE_RSP; it waits in the A-RSP buffer while the response that it becomes
may not leave (R67). -/
def recvRsp (n : Nat) (m : AttachMsg) (s : State) : State :=
  if msgOpcode m ≠ 0x81 ∨ msgChan m ≠ 1 ∨ bitsOf m.hdr 12 2 ≠ 0 ∨ bitsOf m.hdr 48 208 ≠ 0 ∨ m.payload.length ≠ 32 * msgPlen m then
    formatFault n 0xFFFF (msgTag m).toNat s
  else
    let s := drainRsp n s
    if rspWaits s n m then flowCheck n (modEp n (fun e => { e with aRsp := e.aRsp ++ [m] }) s) else rspApply n m s

/-- RSP. -/
def execRsp (n : Nat) (msg : AttachMsg) (s : State) : Out :=
  portIf (epOk n) "end-point block" n (receive n msg [.ready] (recvRsp n msg)) s

/-- DLV_TIMEOUT (R82). -/
def execDlvTimeout (n : Nat) (slot : Nat) (s : State) : Out :=
  coreIf (epOk n && decide (slot < 4096)) "delivery slot" s (pumpDlv n (dlvExpire n slot s))

/-! ## The attach handshake (R76-R78) -/

/-- A control message is well formed (R69, R77): its opcode, A-CTL, no payload, and reserved bytes 0. -/
def ctlOk (m : AttachMsg) (opcode : Nat) (used : List (Nat × Nat)) : Bool :=
  decide ((msgOpcode m).toNat = opcode) && decide (msgChan m = 2) && decide (msgPlen m = 0) && m.payload.isEmpty
    && decide (bitsOf m.hdr 12 2 = 0) && reservedZero m.hdr ([(0, 2)] ++ used)

/-- Enter STEERING: SEQ starts at 0, and no acknowledgement is pending (R44, R76, R78). -/
def enterSteering (n dlvMax : Nat) (s : State) : State :=
  modEp n (fun e => { settleSteer e with attach := .steering, steerSeq := 0, dlvMax := BitVec.ofNat 13 dlvMax }) s

/-- HELLO (R76): in READY it resets the attach link first. -/
def recvHello (n : Nat) (m : AttachMsg) (s : State) : State :=
  if !ctlOk m 0x20 [(2, 1), (4, 2)] then formatFault n 0xFFFF 0 s
  else
    let good := decide (hdrField m.hdr 2 1 = 1) && decide (64 ≤ hdrField m.hdr 4 2) && decide (hdrField m.hdr 4 2 ≤ 4096)
    let s := if (epOf s n).attach = .ready then attachReset n .waitHello s else s
    if good then enterSteering n (hdrField m.hdr 4 2) s
    else formatFault n 0xFFFF 0 (modEp n (fun e => { settleSteer e with attach := .waitHello }) s)

/-- HELLO. -/
def execHello (n : Nat) (msg : AttachMsg) (s : State) : Out :=
  portIf (epOk n) "end-point block" n (receive n msg [.waitHello, .steering, .ready] (recvHello n msg)) s

/-- READY (R77). -/
def readyMsg (s : State) (n : Nat) : AttachMsg :=
  ctlMsg 0x21 [(2, 1), (4, (epOf s n).srcFnid.toNat), (6, planeIdx s), (7, planesM1 s), (8, 4096), (10, (epOf s n).dlvMax.toNat)]

/-- STEERING_PASS (R76, R78): READY, STEER_MAP and one STEER_WIN for each valid window, once SRC_FNID is set. -/
def steeringPass (n : Nat) (s : State) : State :=
  let e := epOf s n
  if e.attach ≠ .steering ∨ e.readySent ∨ e.srcFnid = 0xFFF then s
  else
    let s := epSend n (readyMsg s n) s
    let s := modEp n (fun e => { e with readySent := true }) s
    let s := sendSteer n (steerMapMsg s.rte.planeMap) s
    forEach (e.win.filter fun w => winValid w.2) (fun w s => sendSteer n (steerWinMsg (BitVec.ofNat 10 w.1) w.2) s) s
def execSteeringPass (n : Nat) (s : State) : Out := coreIf (epOk n) "end-point block" s (steeringPass n s)

/-- STEERING_TIMEOUT (R76): no STEER_ACK for the last SEQ within 1 ms of READY. -/
def execSteeringTimeout (n : Nat) (s : State) : Out :=
  coreIf (epOk n) "end-point block" s <|
    if (epOf s n).attach = .steering ∧ (epOf s n).readySent then
      epFault n 0x04 sevError 0 0xFFFF 0 (epOf s n).srcFnid
        (modEp n (fun e => { settleSteer e with attach := .waitHello }) s)
    else s

/-- SEQ `q` of a STEER_ACK covers the update of SEQ `u`. -/
def seqCovers (q u : BitVec 16) : Bool := decide ((q - u).toNat < 2 ^ 15)

/-- STEER_ACK (R44, R76, R78). At READY the attach incarnation advances (R397); that it goes to 0 after 0xFFFF_FFFF is a DESIGN CHOICE
(assumption 67). -/
def recvSteerAck (n : Nat) (m : AttachMsg) (s : State) : State :=
  let e := epOf s n
  let q := BitVec.ofNat 16 (hdrField m.hdr 2 2)
  if !ctlOk m 0x27 [(2, 2)] ∨ (e.attach = .steering ∧ !e.readySent) then formatFault n 0xFFFF 0 s
  else if 1 ≤ (q - lastSteer e).toNat ∧ (q - lastSteer e).toNat < 2 ^ 15 then formatFault n 0xFFFF 0 s
  else
    let done := match e.winWait with | some u => seqCovers q u | none => false
    let s := modEp n (fun e => { e with
      steerPend := e.steerPend.filter fun x => match x.2 with | some u => !seqCovers q u | none => false
      winWait := if done then none else e.winWait
      mapWait := e.mapWait.filter fun u => !seqCovers q u
      winBusy := e.winBusy && !done }) s
    if e.attach = .steering ∧ q = lastSteer e then pumpDlv n (announce n true (modEp n (fun e => { e with attach := .ready, incarn := e.incarn + 1 }) s))
    else s

/-- STEER_ACK. -/
def execSteerAck (n : Nat) (msg : AttachMsg) (s : State) : Out :=
  portIf (epOk n) "end-point block" n (receive n msg [.steering, .ready] (recvSteerAck n msg)) s

/-- STEER_TIMEOUT (R44): 100 µs after the update of an INVALIDATE. With no INVALIDATE waiting, a plane map that the controller has not
acknowledged ends its wait with the record of KEY 0xFFFF that R104 names; it holds nothing back. DEDUCED (assumption 50). -/
def execSteerTimeout (n : Nat) (s : State) : Out :=
  coreIf (epOk n) "end-point block" s <|
    match (epOf s n).winWait with
    | none =>
      if (epOf s n).mapWait.isSome then epFault n 0x04 sevError 0 0xFFFF 0 (epOf s n).srcFnid (modEp n (fun e => { e with mapWait := none }) s)
      else s
    | some u =>
      let i := (epOf s n).winIndex.toNat
      epFault n 0x04 sevError 0 i 0 (epOf s n).srcFnid (modEp n (fun e => { e with
        steerTimeout := tabSet false e.steerTimeout i true, steerPend := tabSet none e.steerPend i (some u)
        winWait := none, winBusy := false }) s)

/-- FLOW of the controller (R67). -/
def recvFlow (n : Nat) (m : AttachMsg) (s : State) : State :=
  if !ctlOk m 0x28 [(2, 1)] ∨ 4 ≤ hdrField m.hdr 2 1 then formatFault n 0xFFFF 0 s
  else
    let f := hdrField m.hdr 2 1
    let s := modEp n (fun e => { e with offReqRx := decide (f % 2 = 1), offRspRx := decide (2 ≤ f) }) s
    flushRsp n (pumpDlv n s)
/-- FLOW. -/
def execFlow (n : Nat) (msg : AttachMsg) (s : State) : Out :=
  portIf (epOk n) "end-point block" n (receive n msg [.steering, .ready] (recvFlow n msg)) s

/-! ## Doorbells and ring configuration (R88, R89, R91) -/

/-- The ring halts on a doorbell that R89 refuses. -/
def badDoorbell (n r cause value : Nat) (s : State) : State :=
  epFault n 0x03 sevError 0 r value (epOf s n).srcFnid (haltRing n r cause s)

/-- DOORBELL (R89). -/
def recvDoorbell (n : Nat) (m : AttachMsg) (s : State) : State :=
  let r := hdrField m.hdr 2 1
  let v := BitVec.ofNat 32 (hdrField m.hdr 4 4)
  if !ctlOk m 0x22 [(2, 2), (4, 4)] ∨ 64 ≤ r ∨ 2 ≤ hdrField m.hdr 3 1 then formatFault n 0xFFFF 0 s
  else
    let g := ringOf s n r
    let size := 2 ^ g.logSize.toNat
    if g.state ≠ .active then s
    else if hdrField m.hdr 3 1 = 0 then
      if v = g.tail then s
      else if (v - g.head).toNat ≤ size ∧ (v - g.tail).toNat < 2 ^ 31 then modRing n r (fun g => { g with tail := v }) s
      else badDoorbell n r 1 v.toNat s
    else
      if v = g.cqHead then s
      else if (v - g.cqHead).toNat ≤ (g.head - g.cqHead).toNat then modRing n r (fun g => { g with cqHead := v, cqStall := false }) s
      else badDoorbell n r 2 v.toNat s
/-- DOORBELL_SQ_TAIL. -/
def execDoorbellSqTail (n : Nat) (msg : AttachMsg) (s : State) : Out :=
  portIf (epOk n) "end-point block" n (receive n msg [.ready] (recvDoorbell n msg)) s
/-- DOORBELL_CQ_HEAD. -/
def execDoorbellCqHead (n : Nat) (msg : AttachMsg) (s : State) : Out :=
  portIf (epOk n) "end-point block" n (receive n msg [.ready] (recvDoorbell n msg)) s

/-- The FORMAT conditions of R88, and an ACTION that R77 does not name. DEDUCED (assumption 51). -/
def ringCfgOk (s : State) (h : Header) : Bool :=
  let ps := hdrField h 6 2
  decide (hdrField h 2 1 < 64) && decide (hdrField h 3 1 ≤ 2) && decide (4 ≤ hdrField h 4 1) && decide (hdrField h 4 1 ≤ 16)
    && decide (hdrField h 8 8 % 4096 = 0) && decide (hdrField h 16 8 % 4096 = 0) && decide (hdrField h 8 8 < 2 ^ 52) && decide (hdrField h 16 8 < 2 ^ 52)
    && ps.testBit (planeIdx s) && decide (ps < 2 ^ (planesM1 s + 1))

/-- RING_CFG (R88, R91). -/
def recvRingCfg (n : Nat) (m : AttachMsg) (s : State) : State :=
  let r := hdrField m.hdr 2 1
  let action := hdrField m.hdr 3 1
  if !ctlOk m 0x23 [(2, 3), (6, 2), (8, 16)] then formatFault n 0xFFFF 0 s
  else if !ringCfgOk s m.hdr then ringAck n r 1 s
  else
    let g := ringOf s n r
    if action = 1 then
      if g.state ≠ .disabled then ringAck n r 2 s
      else ringAck n r 0 (modRing n r (fun _ => freshRing m.hdr) s)
    else if g.closing.isSome then modRing n r (fun g => { g with closeNext := g.closeNext ++ [(decide (action = 2), m.hdr)] }) s
    else closeRing n r (modRing n r (fun g => { g with closing := some (decide (action = 2)), closeMsg := m.hdr }) s)
/-- RING_CFG_ENABLE. -/
def execRingCfgEnable (n : Nat) (msg : AttachMsg) (s : State) : Out :=
  portIf (epOk n) "end-point block" n (receive n msg [.ready] (recvRingCfg n msg)) s
/-- RING_CFG_DISABLE. -/
def execRingCfgDisable (n : Nat) (msg : AttachMsg) (s : State) : Out :=
  portIf (epOk n) "end-point block" n (receive n msg [.ready] (recvRingCfg n msg)) s
/-- RING_CFG_RESET. -/
def execRingCfgReset (n : Nat) (msg : AttachMsg) (s : State) : Out :=
  portIf (epOk n) "end-point block" n (receive n msg [.ready] (recvRingCfg n msg)) s
/-- RING_QUIESCED (R88): every fetched descriptor of the ring has completed. -/
def execRingQuiesced (n : Nat) (r : Nat) (s : State) : Out := coreIf (epOk n && decide (r < 64)) "ring" s (closeRing n r s)

/-! ## Contexts and fetches (R85, R90, R102) -/

/-- The descriptors of a block that a context could serve now: (slot, descriptor, piece, data). -/
def sendable (s : State) (n : Nat) : List (Nat × Desc × Piece × List Byte) :=
  (epOf s n).descs.filterMap fun e => (descNext s n e.1).map fun x => (e.1, x)

/-- A descriptor released by its itinerary entry takes contexts ahead of other work (R85, R231). -/
def isReleased (d : Desc) : Bool := match d.sched with | .released _ => true | _ => false

/-- The first released descriptor to be served: of the ring of the first one, the lowest index. -/
def firstReleased : List (Nat × Desc × Piece × List Byte) → Option (Nat × Desc × Piece × List Byte)
  | [] => none
  | x :: l => some (l.foldl (fun b y => if y.2.1.ring = b.2.1.ring ∧ idxBefore y.2.1.index b.2.1.index then y else b) x)

/-- Whether a waiting frame of the source may still be sent: a chunk's only while the chunk lives and its entry has not
ended (R285, R299). -/
def frameAlive (s : State) (f : NewFrame) : Bool :=
  match f.owner with
  | .chunk k j _ =>
    match chunkAt (slotOf s k) j with
    | some c => !entryOver s c.entry
    | none => decide (addrOff f.addr / 2 ^ 48 % 16 = ckAck) && !ordOver s (slotOf s k) j
  | _ => true

/-- The chunk that a waiting frame serves: the order of its service (R298). -/
def waitPrio (s : State) (f : NewFrame) : Option Nat := match f.owner with | .chunk k j _ => some (chunkPrio s k j) | _ => none

/-- The frame of the source's waiting list that may go now: the one at the head, or, where that serves a chunk, the one of a chunk that
R298 serves first. -/
def waitingNext (s : State) (p : Point) : Option NewFrame :=
  match (relOf s p).waiting with
  | [] => none
  | f :: _ =>
    if (waitPrio s f).isNone then (if canSend s p f then some f else none)
    else
      let work := (relOf s p).waiting.filterMap fun f => if canSend s p f then (waitPrio s f).map fun q => (q, f) else none
      (work.foldl (fun b x => match b with
        | none => some x
        | some y => if x.1 < y.1 then some x else b) (none : Option (Nat × NewFrame))).map (·.2)

def sendWaiting (p : Point) (f : NewFrame) (s : State) : State :=
  sendNew p f (modRel p (fun r => { r with waiting := r.waiting.erase f }) s)

/-- What turn `t` of the round robin offers: 0 the A-REQ queue, 1 to 64 the rings in index order, 65 the block's other
frames. -/
def turnTake (n t : Nat) (s : State) : Option State :=
  if t = 0 then (nextDirect s n).map fun r => sendDirect n r s
  else if t = 65 then (waitingNext s (.ep n)).map fun f => sendWaiting (.ep n) f s
  else
    let mine := (sendable s n).filter fun x => decide (x.2.1.ring = t - 1)
    let first := mine.foldl (fun best x => match best with
      | none => some x
      | some b => if idxBefore x.2.1.index b.2.1.index then some x else best) none
    first.map fun x => sendPiece n x.1 x.2.1 x.2.2.1 x.2.2.2 s

/-- Grant a context to one waiting frame of a block (R85). -/
def grantEp (n : Nat) (s : State) : State :=
  let s := drainRsp n s
  let s := modRel (.ep n) (fun r => { r with waiting := r.waiting.filter (frameAlive s) }) s
  match firstReleased ((sendable s n).filter fun x => isReleased x.2.1) with
  | some x => epWork n (sendPiece n x.1 x.2.1 x.2.2.1 x.2.2.2 s)
  | none =>
    let turns := (List.range 66).map fun k => ((epOf s n).turn + k) % 66
    match turns.findSome? fun t => (turnTake n t s).map fun s' => (t, s') with
    | some (t, s) => epWork n (modEp n (fun e => { e with turn := (t + 1) % 66 }) s)
    | none => s

/-- CONTEXT_GRANT. -/
def execContextGrant (p : Point) (s : State) : Out :=
  match p with
  | .ep n => coreIf (epOk n) "end-point block" s (grantEp n s)
  | .rte => coreLive s <|
      let s := modRel .rte (fun r => { r with waiting := r.waiting.filter (frameAlive s) }) s
      match waitingNext s .rte with
      | some f => sendWaiting .rte f s
      | none => notifyOne s

/-- A fetched KERNEL_START of the ring holds back later fetches (R102). -/
def fetchBlocked (s : State) (n r : Nat) : Bool :=
  (epOf s n).descs.any fun e => match e.2 with | some d => decide (d.ring = r) && isKernelStart d.raw | none => false

/-- DESCRIPTOR_FETCH (R90). -/
def descriptorFetch (n r : Nat) (s : State) : State :=
  let g := ringOf s n r
  let e := epOf s n
  let used := (e.descs.filter fun x => x.2.isSome).length + (e.rings.filter fun x => x.2.fetching).length
  if g.state ≠ .active ∨ g.fetching ∨ g.closing.isSome ∨ fetchBlocked s n r ∨ g.tail = g.head ∨ 256 ≤ used then s
  else if 2 ^ g.logSize.toNat ≤ (g.head - g.cqHead).toNat then modRing n r (fun g => { g with cqStall := true }) s
  else
    let s := modRing n r (fun g => { g with fetching := true }) s
    hostAccess n (.fetch r g.head) 0x41 (g.sqBase.toNat + ringIdx g g.head * 64) 64 [] s
def execDescriptorFetch (n : Nat) (r : Nat) (s : State) : Out :=
  coreIf (epOk n && decide (r < 64)) "ring" s (descriptorFetch n r s)

def ksTimeout (n r : Nat) (s : State) : State := epFault n 0x08 sevError 0x12 r 0 (epOf s n).srcFnid s

/-- KERNEL_START_TIMEOUT (R102, R203). -/
def kernelStartTimeout (n r : Nat) (s : State) : State :=
  match (ringOf s n r).points.find? fun p => p.kernelStart && pointWaits p with
  | none => s
  | some p => match p.slot with
    | none => s
    | some i =>
      let s := finishDesc n i (modDesc n i (fun d => { d with status := maxStatus d.status 0x12 }) s)
      epWork n (prunePoints n r (ksTimeout n r (haltRing n r 3 s)))
def execKernelStartTimeout (n : Nat) (r : Nat) (s : State) : Out :=
  coreIf (epOk n && decide (r < 64)) "ring" s (kernelStartTimeout n r s)

/-! ## FLAG and the cairn (R199-R204) -/

/-- FLAG_RELEASE (R199): the first held flagged request that may go passes the toll again. -/
def flagRelease (n : Nat) (s : State) : State :=
  match (epOf s n).aReq.find? fun r => r.held && flagMayGo s n r.ord with
  | none => s
  | some r =>
    let m := r.msg
    let code := tollDirect s n m
    if code ≠ 0 then
      let s := modEp n (fun e => { e with aReq := e.aReq.filter fun q => decide (q.ord ≠ r.ord) }) s
      flowCheck n (releaseHeld n (refuseDirect n m code (tollFailed n (msgWindow m) code (msgOffset m) s)))
    else
      let r2 : DirectReq := { r with held := false, addr := stampAddr (winOf s n (msgWindow m)) (msgOffset m) }
      let s := modEp n (fun e => { e with aReq := e.aReq.map fun q => if q.ord = r.ord then r2 else q }) s
      if canSend s (.ep n) (directFrame s n r2) then sendDirect n r2 s else s
def execFlagRelease (n : Nat) (s : State) : Out := coreIf (epOk n) "end-point block" s (flagRelease n s)

/-- CAIRN_REPORT (R202): the next point of the ring, if its conditions hold. -/
def cairnReport (n r : Nat) (s : State) : State :=
  let g := ringOf s n r
  match g.points.find? fun p => decide (p.num = g.reportedTo + 1) with
  | none => s
  | some p =>
    if !mayReport s n r p then s
    else epWork n (prunePoints n r (if soloRing s g then soloPoint n r p s else reportPoint n r p s))
def execCairnReport (n : Nat) (r : Nat) (s : State) : Out :=
  coreIf (epOk n && decide (r < 64)) "ring" s (cairnReport n r s)

/-- CAIRN_POLL (R203): a block with an answered report and a point that waits reads the cairn line. -/
def cairnPoll (n r : Nat) (s : State) : State :=
  let g := ringOf s n r
  match g.points.find? fun p => pointWaits p && p.answered && !p.reading with
  | none => s
  | some p =>
    let s := modRing n r (fun g => { g with points := g.points.map fun q => if pointWaits q && q.answered then { q with reading := true } else q }) s
    hostAccess n (.cairnRead r p.num) 0x41 (cairnAddr g) 64 [] s
def execCairnPoll (n : Nat) (r : Nat) (s : State) : Out := coreIf (epOk n && decide (r < 64)) "ring" s (cairnPoll n r s)

/-- CAIRN_WAIT_TIMEOUT (R203, R204): a flagged line's wait ends. -/
def cairnWaitTimeout (n r : Nat) (s : State) : State :=
  match (ringOf s n r).points.find? fun p => !p.kernelStart && pointWaits p with
  | none => s
  | some p => match p.slot with
    | none => s
    | some i => epWork n (prunePoints n r (ksTimeout n r (withholdFlag n i s)))
def execCairnWaitTimeout (n : Nat) (r : Nat) (s : State) : Out :=
  coreIf (epOk n && decide (r < 64)) "ring" s (cairnWaitTimeout n r s)

end Sys2Proof.Machine
end

