-- ==== Sys2Proof/Machine/SvcOps.lean ====
section
/-! DEFINITION. Services: entries, their arrays, and what is common to every call (R343-R354). The shipped images' behaviour is
what R358-R366 give (assumption 7). -/

namespace Sys2Proof.Machine

open Sys2Proof

/-! ## Entries (R343, R357, R363) -/

def eKind (e : BitVec 512) : Nat := (bitsOf e 0 8).toNat
def eKeep (e : BitVec 512) : Bool := bitAt e 8
def eGroup (e : BitVec 512) : Nat := (bitsOf e 16 8).toNat
def eRegion (e : BitVec 512) : Nat := (bitsOf e 24 8).toNat
def eProg (e : BitVec 512) : BitVec 16 := bitsOf e 32 16
def eMask (e : BitVec 512) : BitVec 64 := bitsOf e 64 64
def eBase (e : BitVec 512) : Nat := (bitsOf e 128 64).toNat
def eSize (e : BitVec 512) : Nat := (bitsOf e 192 64).toNat
def eImage (e : BitVec 512) : Nat := (bitsOf e 256 64).toNat
def eBlkLog (e : BitVec 512) : Nat := (bitsOf e 320 8).toNat
def eRdtype (e : BitVec 512) : Nat := (bitsOf e 328 8).toNat
def eEvict (e : BitVec 512) : Bool := bitAt e 336
def eBlocks (e : BitVec 512) : Nat := (bitsOf e 352 32).toNat
def eGrad (e : BitVec 512) : Nat := (bitsOf e 320 64).toNat
def eOut (e : BitVec 512) : Nat := (bitsOf e 384 64).toNat
def eElems (e : BitVec 512) : Nat := (bitsOf e 448 32).toNat
def eSpec (e : BitVec 512) : BitVec 16 := bitsOf e 480 16

def svcEntry (s : State) (k : Nat) : BitVec 512 := (svcOf s k).entry

/-! ## Arrays (R308, R338, R347) -/

/-- PHYS(g, j): the j-th enabled array of group `g`. -/
def physArray (s : State) (g j : Nat) : Option Nat := (((List.range 72).map (· + 72 * g)).filter (arrayEnabled s))[j]?

/-- The itinerary names an array. -/
def itinNames (s : State) (a : Nat) : Bool := s.tick.active.any fun e => decide (entKind e = kindArray) && decide (entArray e = a)

/-- The physical arrays of a service that have not failed. -/
def svcArrays (s : State) (k : Nat) : List Nat :=
  let v := svcOf s k
  ((setBits (eMask v.entry)).filter fun j => !bitAt v.lostArrays j).filterMap (physArray s (eGroup v.entry))

/-- An array that may run a call of the service now: its program is resident and SERVICE_OK, the itinerary does not name it, and
it runs and loads nothing. -/
def arrayFree (s : State) (k a : Nat) : Bool :=
  (match residentProg (arrOf s a) (eProg (svcEntry s k)) with | some p => hdServiceOk p.hdr | none => false)
    && !itinNames s a && (arrOf s a).run.isNone && !groupGated s (a / 72)
    && (match s.arr.loadBusy with | some (b, _, _) => decide (b ≠ a) | none => true)

def freeArray (s : State) (k : Nat) : Option Nat := (svcArrays s k).find? (arrayFree s k)

/-- The service's program starts on an array in SERVICE mode; `entry` names the service. STEP is what the request supplies (R321): an
optimizer step sets it when it begins, and a tensor-pool call supplies none, so that it is a free value (assumption 7). -/
def svcRun (k a : Nat) (s : State) : State :=
  let (v, s) := takeFree s
  let r : Run := { prog := eProg (svcEntry s k), service := true, entry := k, tick := s.tick.now, step := v, cut := decide (0 < appliedLevel s) }
  modArray a (fun x => { x with run := some r }) s

/-! ## Calls (R349, R350) -/

def cSop (p : List Byte) : Nat := fieldNat p 0 1
def cFlags (p : List Byte) : Nat := fieldNat p 1 1
def cDlen (p : List Byte) : Nat := fieldNat p 2 2
def cBoff (p : List Byte) : Nat := fieldNat p 4 4
def cKey (p : List Byte) : BitVec 64 := BitVec.ofNat 64 (fieldNat p 8 8)
def cHandle (p : List Byte) : Nat := fieldNat p 16 4
def cOdtype (p : List Byte) : Nat := fieldNat p 20 1
def cInline (p : List Byte) : List Byte := p.drop 32


/-- The SOP is valid for the KIND. -/
def sopFor (kind sop : Nat) : Bool := if kind = 1 then decide (1 ≤ sop) && decide (sop ≤ 8) else decide (kind = 2) && decide (sop = sopOpt)

/-- The inline length that a SOP requires. -/
def inlineLen (p : List Byte) : Nat := if cSop p = sopPutData then cDlen p else if cSop p = sopPooled then 192 else 0

/-- A reserved field of a call header is nonzero. -/
def callReserved (p : List Byte) : Bool := decide (4 ≤ cFlags p) || decide (fieldNat p 21 11 ≠ 0)

/-- A call ends with STATUS 0x10 and no payload (R349). -/
def callFormat (c : SvcCallIn) (s : State) : State := answer c.back 0x10 none [] (countCall c.svc true s)

/-- What a call is answered before any array runs it, if it is (R343-R350). -/
def callRefused (c : SvcCallIn) (s : State) : Option State :=
  let v := svcOf s c.svc
  let p := c.payload
  if eKind v.entry = 0 then some (answer c.back 0x13 none [] s)
  else if v.state = .failed then some (replyCall c.svc c.back 0 9 0 0 s)
  else if p.length < 32 ∨ callReserved p then some (callFormat c s)
  else if !sopFor (eKind v.entry) (cSop p) then some (replyCall c.svc c.back 0 6 0 0 s)
  else if p.length ≠ 32 + inlineLen p then some (callFormat c s)
  else none

/-- Take the first running call of a SOP whose service has no earlier call that has not been applied (R352). -/
def firstCall (sop : Nat) : List (SvcCallIn × Option Nat) → List Nat → Option (SvcCallIn × Nat)
  | [], _ => none
  | (c, a) :: l, seen =>
    match a with
    | some a =>
      if !seen.contains c.svc && decide (cSop c.payload = sop) then some (c, a) else firstCall sop l (seen ++ [c.svc])
    | none => firstCall sop l (seen ++ [c.svc])

/-- Note poison that a call met (R351, R370). -/
def callPoison (k : Nat) (s : State) : State := devFault0 0x75 sevError k 0 s

/-- Run the meaning `f` of a SOP on a dispatched call and its array, or on one presented: `f` replies, and says whether it met poison. The
run of a dispatched call goes on until it ends under R335. -/
def runCall (sop : Nat) (f : Option Nat → Nat → List Byte → Back → State → Bool × State) (src : Arrive SvcCallIn) (s : State) : State :=
  match src with
  | .waiting =>
    match firstCall sop s.svc.running [] with
    | none => s
    | some (c, a) =>
      let s := modSvc (fun u => { u with running := u.running.erase (c, some a) }) s
      let (bad, s) := f (some a) c.svc c.payload c.back s
      if bad then callPoison c.svc (modRun a (runStatus 0x15 6) s) else s
  | .given c =>
    match callRefused c s with
    | some s => s
    | none =>
      match stateScode (svcOf s c.svc).state with
      | some x => replyCall c.svc c.back 0 x 0 0 s
      | none =>
        if cSop c.payload ≠ sop then s
        else
          let (bad, s) := f none c.svc c.payload c.back s
          if bad then callPoison c.svc s else s

end Sys2Proof.Machine
end

