-- ==== Sys2Proof/Machine/TensorPool.lean ====
section
/-! DEFINITION. The tensor pool (R357-R361). The index is held as the slots of the service; the data lie in stacked memory. -/

namespace Sys2Proof.Machine

open Sys2Proof

/-! ## Slots (R358) -/

def poolSlot (s : State) (k i : Nat) : PoolSlot := tabGet {} (svcOf s k).slots i
def modPoolSlot (k i : Nat) (f : PoolSlot → PoolSlot) (s : State) : State :=
  modSvcN k (fun v => { v with slots := tabMod {} v.slots i f }) s

/-- The handle of a slot. -/
def poolHandle (s : State) (k i : Nat) : Nat := (poolSlot s k i).gen.toNat * 2 ^ 24 + i

/-- A slot returns to FREE, and its generation advances. -/
def slotFreed (x : PoolSlot) : PoolSlot := { gen := x.gen + 1 }
def releaseSlot (k i : Nat) (s : State) : State := modPoolSlot k i slotFreed s

/-- The committed slot of a key. -/
def keySlot (s : State) (k : Nat) (key : BitVec 64) : Option Nat :=
  ((svcOf s k).slots.find? fun e => decide (e.2.state = .committed) && decide (e.2.key = key)).map (·.1)

/-- The first FREE slot from `i` on, `n` slots in all. DESIGN CHOICE (assumption 34): the lowest. -/
def firstFreeSlot (t : Tab PoolSlot) : Nat → Nat → Option Nat
  | 0, _ => none
  | n + 1, i => if (tabGet {} t i).state = .free then some i else firstFreeSlot t n (i + 1)

/-- The clock hand's sweep (R360): the slot that it evicts, and the service after it. `n` bounds the slots it meets. -/
def sweep (blocks : Nat) : Nat → Svc → Option Nat × Svc
  | 0, v => (none, v)
  | n + 1, v =>
    let i := v.hand
    let x := tabGet {} v.slots i
    let v := { v with hand := (i + 1) % max 1 blocks }
    if x.state ≠ .committed ∨ x.pin then sweep blocks n v
    else if x.ref then sweep blocks n { v with slots := tabSet {} v.slots i { x with ref := false } }
    else (some i, { v with slots := tabSet {} v.slots i (slotFreed x), evict := satAdd v.evict 1 })

/-- The slot that a PUT_BEGIN takes. -/
def takeSlot (k : Nat) (s : State) : Option Nat × State :=
  let v := svcOf s k
  let n := eBlocks v.entry
  match firstFreeSlot v.slots n 0 with
  | some i => (some i, s)
  | none =>
    if eEvict v.entry then let (r, v) := sweep n (2 * n) v; (r, modSvcN k (fun _ => v) s) else (none, s)

/-- The bytes of a block, and where slot `i`'s data begins. -/
def blockSize (s : State) (k : Nat) : Nat := 2 ^ eBlkLog (svcEntry s k)
def slotAddr (s : State) (k i : Nat) : Nat := eBase (svcEntry s k) + i * blockSize s k

/-! ## Replies -/

/-- SCODEs (R351). -/
def scOk : Nat := 0
def scMiss : Nat := 1
def scStale : Nat := 2
def scFull : Nat := 3
def scExists : Nat := 4
def scBound : Nat := 5
def scBadop : Nat := 6
def scBusy : Nat := 7

/-- Reply with a word. -/
def wordReply (k : Nat) (b : Back) (scode handle : Nat) (s : State) : Bool × State := (false, replyCall k b 0 scode 0 handle s)

/-- Reply with data; a reply that met poison has STATUS 0x15 and data that the spec leaves undefined. -/
def dataReply (k : Nat) (b : Back) (bad : Bool) (data : List Byte) (s : State) : Bool × State :=
  let (d, s) := if bad then freeByteList data.length s else (data, s)
  (bad, answer b (if bad then 0x15 else 0) (some d) [] (countCall k bad s))

/-- Only POOLED names an ODTYPE. -/
def fieldsOk (p : List Byte) : Bool := decide (cOdtype p = 0)

/-- DLEN and BOFF of READ and POOLED. -/
def readFields (p : List Byte) : Bool :=
  decide (32 ≤ cDlen p) && decide (cDlen p ≤ 256) && decide (cDlen p % 32 = 0) && decide (cBoff p % 32 = 0)

/-! ## Operations (R358, R359) -/

/-- LOOKUP. -/
def poolLookup (k : Nat) (p : List Byte) (b : Back) (s : State) : Bool × State :=
  if cKey p = 0 ∨ !fieldsOk p then wordReply k b scBadop 0 s
  else match keySlot s k (cKey p) with
    | none => wordReply k b scMiss 0 s
    | some i => wordReply k b scOk (poolHandle s k i) (modPoolSlot k i (fun x => { x with ref := true }) s)

/-- What a handle names: its slot, when the generation agrees. -/
def handleSlot (s : State) (k h : Nat) : Option Nat :=
  let i := h % 2 ^ 24
  if i < eBlocks (svcEntry s k) ∧ (poolSlot s k i).gen.toNat = h / 2 ^ 24 then some i else none

/-- READ. -/
def poolRead (k : Nat) (p : List Byte) (b : Back) (s : State) : Bool × State :=
  if !readFields p ∨ !fieldsOk p then wordReply k b scBadop 0 s
  else match handleSlot s k (cHandle p) with
    | none => wordReply k b scStale 0 s
    | some i =>
      if (poolSlot s k i).state ≠ .committed then wordReply k b scBadop 0 s
      else if blockSize s k < cBoff p + cDlen p then wordReply k b scBound 0 s
      else let ((d, bad), s) := dieRead (slotAddr s k i + cBoff p) (cDlen p) s; dataReply k b bad d s

/-- PUT_BEGIN. -/
def poolBegin (k : Nat) (p : List Byte) (b : Back) (s : State) : Bool × State :=
  let replace := decide (cFlags p / 2 % 2 = 1)
  if cKey p = 0 ∨ !fieldsOk p then wordReply k b scBadop 0 s
  else if (keySlot s k (cKey p)).isSome && !replace then wordReply k b scExists 0 s
  else
    let (r, s) := takeSlot k s
    match r with
    | none => wordReply k b scFull 0 s
    | some i =>
      let s := (dieWrite (slotAddr s k i) (zeros (blockSize s k)) s).2
      let s := modPoolSlot k i (fun x => { x with
        state := .openPut, pin := decide (cFlags p % 2 = 1), ref := false, replace := replace, key := cKey p, sawCommit := false }) s
      wordReply k b scOk (poolHandle s k i) s

/-- The slot of a handle for PUT_DATA, PUT_COMMIT and PUT_ABORT: it is OPEN, or the SCODE says why not. -/
def openSlot (s : State) (k : Nat) (p : List Byte) : Nat ⊕ Nat :=
  match handleSlot s k (cHandle p) with
  | none => .inr scStale
  | some i => if (poolSlot s k i).state = .openPut then .inl i else .inr scBadop

/-- PUT_DATA. -/
def poolData (k : Nat) (p : List Byte) (b : Back) (s : State) : Bool × State :=
  if cDlen p = 0 ∨ 224 < cDlen p ∨ cBoff p % 32 ≠ 0 ∨ !fieldsOk p then wordReply k b scBadop 0 s
  else match openSlot s k p with
    | .inr c => wordReply k b c 0 s
    | .inl i =>
      if blockSize s k < cBoff p + cDlen p then wordReply k b scBound 0 s
      else
        let (bad, s) := dieWrite (slotAddr s k i + cBoff p) ((cInline p).take (cDlen p)) s
        (bad, replyCall k b (if bad then 0x15 else 0) scOk 0 0 s)

/-- PUT_COMMIT. -/
def poolCommit (k : Nat) (p : List Byte) (b : Back) (s : State) : Bool × State :=
  if !fieldsOk p then wordReply k b scBadop 0 s
  else match openSlot s k p with
    | .inr c => wordReply k b c 0 s
    | .inl i =>
      let x := poolSlot s k i
      if !x.replace && x.sawCommit then wordReply k b scExists 0 (releaseSlot k i s)
      else
        let s := match keySlot s k x.key with | some j => releaseSlot k j s | none => s
        let s := modSvcN k (fun v => { v with slots := v.slots.map fun e =>
          (e.1, if e.2.state = .openPut ∧ e.2.key = x.key then { e.2 with sawCommit := true } else e.2) }) s
        wordReply k b scOk 0 (modPoolSlot k i (fun x => { x with state := .committed, sawCommit := false }) s)

/-- PUT_ABORT. -/
def poolAbort (k : Nat) (p : List Byte) (b : Back) (s : State) : Bool × State :=
  if !fieldsOk p then wordReply k b scBadop 0 s
  else match openSlot s k p with
    | .inr c => wordReply k b c 0 s
    | .inl i => wordReply k b scOk 0 (releaseSlot k i s)

/-- DELETE. -/
def poolDelete (k : Nat) (p : List Byte) (b : Back) (s : State) : Bool × State :=
  if cKey p = 0 ∨ !fieldsOk p then wordReply k b scBadop 0 s
  else match keySlot s k (cKey p) with
    | none => wordReply k b scMiss 0 s
    | some i => wordReply k b scOk 0 (releaseSlot k i s)

/-! ## POOLED (R359) -/

/-- The list of a call: each nonzero key with its weight. -/
def pooledList (p : List Byte) : List (BitVec 64 × W32) :=
  (List.range 16).filterMap fun j =>
    let key : BitVec 64 := BitVec.ofNat 64 (fieldNat (cInline p) (8 * j) 8)
    if key = 0 then none else some (key, BitVec.ofNat 32 (fieldNat (cInline p) (128 + 4 * j) 4))

/-- Read the part of each row that the output needs; the Bool says that a line was poisoned. -/
def pooledRows (k lo n : Nat) : List (Nat × W32) → State → (List (List Byte × W32) × Bool) × State
  | [], s => (([], false), s)
  | (i, w) :: l, s =>
    let ((d, bad), s) := dieRead (slotAddr s k i + lo) n s
    let ((ds, bad2), s) := pooledRows k lo n l s
    (((d, w) :: ds, bad || bad2), s)

/-- One output element. -/
def pooledElem (rd od : Nat) (rows : List (List Byte × W32)) (j : Nat) : List Byte :=
  let acc := rows.foldl (fun acc r =>
    decodeF f32 (ffma f32 (dec32 r.2) (decodeF (fmtOf rd) (fieldNat r.1 (j * elemSize rd) (elemSize rd))) acc).1) (.fin false 0 0)
  leBytes (elemSize od) (encodeF (fmtOf od) .rne acc).1

/-- POOLED. -/
def poolPooled (k : Nat) (p : List Byte) (b : Back) (s : State) : Bool × State :=
  let od := cOdtype p
  let rd := eRdtype (svcEntry s k)
  let l := pooledList p
  let missing := (l.filter fun e => (keySlot s k e.1).isNone).length
  if !readFields p ∨ (od ≠ 4 ∧ od ≠ 5) then wordReply k b scBadop 0 s
  else if 0 < missing then (false, replyCall k b 0 scMiss missing 0 s)
  else
    let o := elemSize od
    let first := cBoff p / o
    let n := cDlen p / o
    if blockSize s k / elemSize rd < first + n then wordReply k b scBound 0 s
    else
      let rows := l.filterMap fun e => (keySlot s k e.1).map fun i => (i, e.2)
      let ((ds, bad), s) := pooledRows k (first * elemSize rd) (n * elemSize rd) rows s
      dataReply k b bad ((List.range n).flatMap (pooledElem rd od ds)) s

/-! ## Commands -/

def execLookup (src : Arrive SvcCallIn) (s : State) : Out := coreLive s (runCall sopGet (fun _ => poolLookup) src s)
def execTpoolRead (src : Arrive SvcCallIn) (s : State) : Out := coreLive s (runCall sopRead (fun _ => poolRead) src s)
def execPutBegin (src : Arrive SvcCallIn) (s : State) : Out := coreLive s (runCall sopPut (fun _ => poolBegin) src s)
def execPutData (src : Arrive SvcCallIn) (s : State) : Out := coreLive s (runCall sopPutData (fun _ => poolData) src s)
def execPutCommit (src : Arrive SvcCallIn) (s : State) : Out := coreLive s (runCall sopCommit (fun _ => poolCommit) src s)
def execPutAbort (src : Arrive SvcCallIn) (s : State) : Out := coreLive s (runCall sopAbort (fun _ => poolAbort) src s)
def execDelete (src : Arrive SvcCallIn) (s : State) : Out := coreLive s (runCall sopDelete (fun _ => poolDelete) src s)
def execPooled (src : Arrive SvcCallIn) (s : State) : Out := coreLive s (runCall sopPooled (fun _ => poolPooled) src s)

/-- PUT_TIMEOUT: an OPEN slot returns to FREE. -/
def putTimeout (k i : Nat) (s : State) : State :=
  if svcKind s k = 1 ∧ (poolSlot s k i).state = .openPut then releaseSlot k i s else s
def execPutTimeout (svc slot : Nat) (s : State) : Out := coreIf (decide (svc < 16)) "service" s (putTimeout svc slot s)

end Sys2Proof.Machine
end

