-- ==== Sys2Proof/Machine/Optimizer.lean ====
section
/-! DEFINITION. The optimizer service (R363-R367). A step reads its parameter block at its start (R364), and its update is worked out
when it ends. -/

namespace Sys2Proof.Machine

open Sys2Proof

/-! ## The parameter block (R364) -/

def pbF (b : List Byte) (off : Nat) : FVal := decodeF f32 (fieldNat b off 4)
def pbRule (b : List Byte) : Nat := fieldNat b 0 1
def pbGdtype (b : List Byte) : Nat := fieldNat b 1 1
def pbTally (b : List Byte) : Nat := fieldNat b 2 2
def pbTallyEn (b : List Byte) : Bool := decide (fieldNat b 4 1 % 2 = 1)
def pbBcast (b : List Byte) : Bool := decide (fieldNat b 4 1 / 2 % 2 = 1)
def pbCbEntry (b : List Byte) : Nat := fieldNat b 5 1 % 16
def pbOstep (b : List Byte) : BitVec 64 := BitVec.ofNat 64 (fieldNat b 8 8)
def pbSeed (b : List Byte) : BitVec 64 := BitVec.ofNat 64 (fieldNat b 16 8)
def pbElem (b : List Byte) : Nat := fieldNat b 24 8
def pbLr (b : List Byte) : FVal := pbF b 32
def pbB1 (b : List Byte) : FVal := pbF b 36
def pbOmb1 (b : List Byte) : FVal := pbF b 40
def pbB2 (b : List Byte) : FVal := pbF b 44
def pbOmb2 (b : List Byte) : FVal := pbF b 48
def pbEps (b : List Byte) : FVal := pbF b 52
def pbWd (b : List Byte) : FVal := pbF b 56
def pbGscale (b : List Byte) : FVal := pbF b 60
def pbScaleF (b : List Byte) : W32 := BitVec.ofNat 32 (fieldNat b 72 4)

/-! ## One element (R366) -/

/-- One FP32 operation each, rounded with RNE. -/
def fpMul (a b : FVal) : FVal := decodeF f32 (fmul f32 a b).1
def fpAdd (a b : FVal) : FVal := decodeF f32 (fadd f32 a b).1
def fpFma (a b c : FVal) : FVal := decodeF f32 (ffma f32 a b c).1
def fpDiv (a b : FVal) : FVal := decodeF f32 (fdiv f32 a b).1
def fpSqrt (a : FVal) : FVal := decodeF f32 (fsqrt f32 a).1
def fpOne : FVal := .fin false 1 0

/-- What a step holds beside its elements: P1, P2, C1 and C2. -/
structure StepPow where
  p1 : FVal
  p2 : FVal
  c1 : FVal
  c2 : FVal

def stepPow (b : List Byte) : StepPow :=
  let p1 := if pbRule b = 0 then pbF b 64 else fpMul (pbF b 64) (pbB1 b)
  let p2 := if pbRule b = 0 then pbF b 68 else fpMul (pbF b 68) (pbB2 b)
  ⟨p1, p2, fpAdd fpOne (negF p1), fpAdd fpOne (negF p2)⟩

/-- The new W, M and V of an element, from the gradient `g` already scaled. -/
def stepElem (b : List Byte) (q : StepPow) (g w m v : FVal) : FVal × FVal × FVal :=
  if pbRule b = 0 then
    let m := fpFma (pbB1 b) m g
    let u := fpFma (pbWd b) w m
    (fpFma (negF (pbLr b)) u w, m, v)
  else
    let m := fpFma (pbB1 b) m (fpMul (pbOmb1 b) g)
    let v := fpFma (pbB2 b) v (fpMul (pbOmb2 b) (fpMul g g))
    let d := fpAdd (fpSqrt (fpDiv v q.c2)) (pbEps b)
    let u := fpFma (pbWd b) w (fpDiv (fpDiv m q.c1) d)
    (fpFma (negF (pbLr b)) u w, m, v)

/-! ## Blocks of 32 elements -/

/-- The four-byte values of a byte string. -/
def floatsOf (bs : List Byte) (n : Nat) : List FVal := (List.range n).map fun i => decodeF f32 (fieldNat bs (4 * i) 4)
def floatBytes (l : List FVal) : List Byte := l.flatMap fun x => leBytes 4 (encodeF f32 .rne x).1

/-- What a step has gathered: AMAX, the non-finite count, and whether it met poison, and in which block first. -/
structure StepAcc where
  amax : Amax := {}
  nonFinite : Nat := 0
  bad : Bool := false
  badBlock : Option Nat := none

def isFin (x : FVal) : Bool := match x with | .fin _ _ _ => true | _ => false

/-- Convert 32 weights under SPEC (R258, R366): the elements, the scale byte, and AMAX. -/
def convertOut (spec : BitVec 16) (b : List Byte) (t : BitVec 64) (i : Nat) (ws : List FVal) (am : Amax) : List Byte × Byte × Amax :=
  let f := fmtOf (specDtype spec)
  let e := if specScale spec = 2 then blockExp f ws else 0
  let (bs, am) := ws.zipIdx.foldl (fun (acc : List Byte × Amax) q =>
    let idx := BitVec.ofNat 64 (pbElem b + i + q.2)
    let (bits, fl) := if specScale spec = 2 then convertF f (modeOf spec (pbSeed b) t idx) (scale2 q.1 (-e))
      else convertElem spec (pbScaleF b) (pbSeed b) t idx q.1
    (acc.1 ++ leBytes (elemSize (specDtype spec)) bits, amaxAdd acc.2 f q.1 bits fl)) ([], am)
  (bs, BitVec.ofNat 8 (e + 127).toNat, am)

/-- Apply a step to the 32 elements from `i` on. A block that meets poison is left as it is. -/
def stepBlock (k : Nat) (b : List Byte) (q : StepPow) (t : BitVec 64) (i : Nat) (acc : StepAcc) (s : State) : StepAcc × State :=
  let e := svcEntry s k
  let w0 := eBase e + 0x1000 + 4 * i
  let m0 := w0 + 4 * eElems e
  let v0 := m0 + 4 * eElems e
  let gs := elemSize (pbGdtype b)
  let ((gb, b1), s) := dieRead (eGrad e + gs * i) (gs * 32) s
  let ((wb, b2), s) := dieRead w0 128 s
  let ((mb, b3), s) := dieRead m0 128 s
  let ((vb, b4), s) := if pbRule b = 0 then ((zeros 128, false), s) else dieRead v0 128 s
  if b1 || b2 || b3 || b4 then ({ acc with bad := true }, s)
  else
    let g := (List.range 32).map fun j => fpMul (decodeF (fmtOf (pbGdtype b)) (fieldNat gb (gs * j) gs)) (pbGscale b)
    let ws := floatsOf wb 32
    let ms := floatsOf mb 32
    let vs := floatsOf vb 32
    let zero : FVal := .fin false 0 0
    let r := (List.range 32).map fun j => stepElem b q (g.getD j zero) (ws.getD j zero) (ms.getD j zero) (vs.getD j zero)
    let new := r.map (·.1)
    let spec := eSpec e
    let sz := elemSize (specDtype spec)
    let (out, sc, am) := convertOut spec b t i new acc.amax
    let (p1, s) := dieWrite w0 (floatBytes new) s
    let (p2, s) := dieWrite m0 (floatBytes (r.map (·.2.1))) s
    let (p3, s) := if pbRule b = 0 then (false, s) else dieWrite v0 (floatBytes (r.map (·.2.2))) s
    let (p4, s) := dieWrite (eOut e + sz * i) out s
    let (p5, s) := if specScale spec = 2 then dieWrite (eOut e + sz * eElems e + i / 32) [sc] s else (false, s)
    ({ acc with amax := am, nonFinite := acc.nonFinite + (g.filter fun x => !isFin x).length, bad := acc.bad || p1 || p2 || p3 || p4 || p5 }, s)

/-- Apply a step to `n` blocks from block `j` on. -/
def stepBlocks (k : Nat) (b : List Byte) (q : StepPow) (t : BitVec 64) : Nat → Nat → StepAcc → State → StepAcc × State
  | 0, _, acc, s => (acc, s)
  | n + 1, j, acc, s =>
    let (acc, s) := stepBlock k b q t (32 * j) acc s
    stepBlocks k b q t n (j + 1) (if acc.bad && acc.badBlock.isNone then { acc with badBlock := some j } else acc) s

/-! ## Steps (R365, R366) -/

/-- A step that met POISON (R366), in block `bad` first: LAST_STATUS is written, its run ends with POISON, and how many blocks were updated is
a free value. The access that met it has its record (R378). -/
def stepPoisoned (k : Nat) (b : List Byte) (q : StepPow) (t : BitVec 64) (bad : Option Nat) (s : State) : State :=
  let (v, s) := takeFree s
  let (acc, s) := stepBlocks k b q t (v.toNat % (eElems (svcEntry s k) / 32 + 1)) 0 {} s
  let s := match bad with | some j => if acc.bad then s else (stepBlock k b q t (32 * j) {} s).2 | none => s
  let s := match (svcOf s k).stepArray with | some a => modRun a (runStatus 0x15 6) s | none => s
  callPoison k (putOwn (eBase (svcEntry s k) + 160) [0x15] s)

/-- The parameter block's RULE and GDTYPE, and SCALE_F where SPEC uses it (R257, R364). -/
def stepFormatOk (k : Nat) (b : List Byte) (s : State) : Bool :=
  decide (pbRule b ≤ 1) && (decide (pbGdtype b = 4) || decide (pbGdtype b = 5))
    && (decide (specScale (eSpec (svcEntry s k)) ≠ 1) || scaleOk (pbScaleF b))

/-- What a step writes when its state and outputs have landed (R366). -/
def stepPost (k : Nat) (b : List Byte) (q : StepPow) (t : BitVec 64) (acc : StepAcc) (s : State) : State :=
  let base := eBase (svcEntry s k)
  let s := putOwn (base + 8) (bvBytes t) s
  let s := putOwn (base + 64) (floatBytes [q.p1, q.p2]) s
  let s := putOwn (base + 76) (leBytes 4 acc.nonFinite ++ amaxBytes acc.amax) s
  let s := putOwn (base + 160) [0] s
  let s := putOwn (base + 168) (bvBytes s.tick.now) s
  let s := if pbTallyEn b then tallyInc (pbTally b) s else s
  if pbBcast b then
    let d := BitVec.ofNat 512 (leNat ((b.drop 96).take 7 ++ [bitsOf t 0 8] ++ (b.drop 104).take 56))
    let (st, s) := cbPost (eGroup (svcEntry s k)) (pbCbEntry b) d s
    if st = 0 then s else devFault0 0x74 sevError k 0 s
  else s

/-- A whole step, under the parameter block read at its start. One whose block is a format error updates nothing and leaves LAST_STATUS
FORMAT (assumption 66). -/
def stepRun (k : Nat) (s1 : State) : State :=
  let b := (svcOf s1 k).stepBlock
  let q := stepPow b
  let t := pbOstep b + 1
  if (svcOf s1 k).stepBad then stepPoisoned k b q t none s1
  else if !stepFormatOk k b s1 then putOwn (eBase (svcEntry s1 k) + 160) [0x10] s1
  else
    let (acc, s) := stepBlocks k b q t (eElems (svcEntry s1 k) / 32) 0 {} s1
    if acc.bad then stepPoisoned k b q t acc.badBlock s1 else stepPost k b q t acc s

/-- A step begins: on the array of its call, or else on a free one of its service, if there is one. It reads its parameter block, and its
run takes STEP = OSTEP + 1 (R321, R364, R366). -/
def stepBegin (k : Nat) (at_ : Option Nat) (s : State) : State :=
  let (at_, s) := match at_ with
    | some a => (some a, s)
    | none => match freeArray s k with | some a => (some a, svcRun k a s) | none => (none, s)
  let ((b, bad), s) := dieRead (eBase (svcEntry s k)) 176 s
  let s := modSvcN k (fun v => { v with stepRunning := true, stepBlock := b, stepBad := bad, stepArray := at_ }) s
  match at_ with
  | some a => modRun a (fun r => { r with step := pbOstep b + 1 }) s
  | none => s

/-- A step is asked for: it starts, waits, or is one too many (false). -/
def stepAsked (k : Nat) (at_ : Option Nat) (s : State) : Bool × State :=
  let v := svcOf s k
  if !v.stepRunning then (true, stepBegin k at_ s)
  else if !v.stepPending then (true, modSvcN k (fun v => { v with stepPending := true }) s)
  else (false, s)

/-- OPT_STEP: lands when it is accepted. -/
def optStep (at_ : Option Nat) (k : Nat) (p : List Byte) (b : Back) (s : State) : Bool × State :=
  if !fieldsOk p then wordReply k b scBadop 0 s
  else let (ok, s) := stepAsked k at_ s; wordReply k b (if ok then scOk else scBusy) 0 s

def execOptStep (src : Arrive SvcCallIn) (s : State) : Out := coreLive s (runCall sopOpt optStep src s)

/-- A trigger STORE (R365). A service that is not ACTIVE starts nothing. -/
def optTrigger (k : Nat) (b : Back) (s : State) : State :=
  let (ok, s) := if (svcOf s k).state = .active then stepAsked k none s else (false, s)
  let s := if ok then s else devFault0 0x73 sevWarn k 0 s
  answer b 0 none [] s

/-- OPT_TRIGGER. -/
def execOptTrigger (svc : Nat) (src : Arrive Back) (s : State) : Out :=
  coreIf (decide (svc < 16)) "service" s (
    if svcKind s svc ≠ 2 then s
    else match src with
      | .given b => optTrigger svc b s
      | .waiting => match s.svc.triggers.find? fun x => decide (x.1 = svc) with
        | none => s
        | some x => optTrigger svc x.2 (modSvc (fun u => { u with triggers := u.triggers.erase x }) s))

/-- The run of a step's array has nothing outstanding but its compute (R335). -/
def stepRunQuiet (s : State) (a : Nat) : Bool :=
  match (arrOf s a).run with
  | none => true
  | some r => match residentProg (arrOf s a) r.prog with | some p => runQuiet p r | none => true

/-- OPT_STEP_DONE: once the writes of the running step's run have landed, the step and its run end, and the pending one begins. -/
def optStepDone (k : Nat) (s : State) : State :=
  let v := svcOf s k
  if !v.stepRunning || !(match v.stepArray with | some a => stepRunQuiet s a | none => true) then s
  else
    let s := stepRun k s
    let s := modSvcN k (fun v => { v with stepRunning := false, stepBlock := [], stepBad := false, stepArray := none }) s
    let s := match v.stepArray with | some a => runOver a s | none => s
    if (svcOf s k).stepPending then stepBegin k none (modSvcN k (fun v => { v with stepPending := false }) s) else s
def execOptStepDone (svc : Nat) (s : State) : Out := coreIf (decide (svc < 16)) "service" s (optStepDone svc s)

end Sys2Proof.Machine
end

