-- ==== Sys2Proof/Machine/Services.lean ====
section
/-! DEFINITION. The service table, dispatch, drains and failing arrays (R340, R343-R348, R361, R363). -/

namespace Sys2Proof.Machine

open Sys2Proof

/-! ## Checks of a WRITE (R345) -/

/-- ARGS of a TPOOL entry (R357) and of an OPT entry (R363). -/
def poolArgsOk (e : BitVec 512) : Bool :=
  decide (8 ≤ eBlkLog e) && decide (eBlkLog e ≤ 16) && decide (4 ≤ eRdtype e) && decide (eRdtype e ≤ 8)
    && decide (bitsOf e 337 7 = 0) && decide (bitsOf e 344 8 = 0) && decide (1 ≤ eBlocks e) && decide (eBlocks e ≤ 2 ^ 24)
    && decide (bitsOf e 400 112 = 0)
def optArgsOk (e : BitVec 512) : Bool :=
  decide (eGrad e % 256 = 0) && decide (eOut e % 256 = 0) && decide (eElems e % 32 = 0) && decide (32 ≤ eElems e)
    && decide (eElems e ≤ 2 ^ 30) && specOk (eSpec e) && decide (bitsOf e 496 16 = 0)

/-- Check 1: FORMAT. -/
def entryFormatOk (e : BitVec 512) : Bool :=
  (decide (eKind e = 1) || decide (eKind e = 2)) && decide (bitsOf e 9 7 = 0) && decide (eGroup e ≤ 11)
    && decide (bitsOf e 48 16 = 0) && decide (eBase e % 4096 = 0) && (if eKind e = 1 then poolArgsOk e else optArgsOk e)

/-- The state that a service needs (R357, R363). -/
def entryNeeds (e : BitVec 512) : Nat :=
  if eKind e = 1 then eBlocks e * (2 ^ eBlkLog e + 32) + 64 else 0x1000 + 12 * eElems e

/-- The bytes of an OPT entry's output, and of its gradient at the smaller type that R364 allows. -/
def optOutLen (e : BitVec 512) : Nat :=
  eElems e * elemSize (specDtype (eSpec e)) + (if specScale (eSpec e) = 2 then eElems e / 32 else 0)

/-- The image lies in the stacked-memory region: its header does, and all that a well-formed header says lies behind it. -/
def imageInRegion (e : BitVec 512) (s : State) : Bool × State :=
  if eImage e = 0 then (true, s)
  else if stackedSize < eImage e + 64 then (false, s)
  else
    let ((hb, _), s) := dieRead (eImage e) 64 s
    let h := BitVec.ofNat 512 (leNat hb)
    (!imageHdrOk h || decide (eImage e + 64 + imageRest h ≤ stackedSize), s)

/-- Check 2: RANGE, of all but the image. -/
def entryRangeOk (e : BitVec 512) : Bool :=
  decide (eBase e + eSize e ≤ stackedSize) && decide (entryNeeds e ≤ eSize e)
    && (decide (eKind e = 1) || (decide (eGrad e + 2 * eElems e ≤ stackedSize) && decide (eOut e + optOutLen e ≤ stackedSize)))

/-- Two byte ranges meet. -/
def spansMeet (a n b k : Nat) : Bool := decide (a < b + k) && decide (b < a + n)

/-- Two entries share a region, a byte of state, or an array. -/
def entriesMeet (a b : BitVec 512) : Bool :=
  decide (eRegion a = eRegion b) || spansMeet (eBase a) (eSize a) (eBase b) (eSize b)
    || (decide (eGroup a = eGroup b) && decide (eMask a &&& eMask b ≠ 0))

/-- Check 3: OVERLAP. -/
def entryOverlaps (s : State) (k : Nat) (e : BitVec 512) : Bool :=
  (List.range 16).any fun j => decide (j ≠ k) && decide (eKind (svcEntry s j) ≠ 0) && entriesMeet e (svcEntry s j)

/-- Check 4: LIVE. -/
def svcLive (s : State) (k : Nat) : Bool := decide ((svcOf s k).state = .active) || decide ((svcOf s k).state = .draining)

/-- Check 5: ARRAY. -/
def entryArraysOk (s : State) (e : BitVec 512) : Bool :=
  decide (eMask e ≠ 0) && ((setBits (eMask e)).all fun j => (physArray s (eGroup e) j).isSome) && !groupGated s (eGroup e)

/-- The arrays that an entry names. -/
def entryArrays (s : State) (e : BitVec 512) : List Nat := (setBits (eMask e)).filterMap (physArray s (eGroup e))

/-- Check 6 on each array: the image to load, or a resident program. Gives whether it passes, and the state after its reads. -/
def imageCheck (e : BitVec 512) : List Nat → State → Bool × State
  | [], s => (true, s)
  | a :: l, s =>
    if eImage e = 0 then
      match residentProg (arrOf s a) (eProg e) with
      | some p => if hdServiceOk p.hdr then imageCheck e l s else (false, s)
      | none => (false, s)
    else
      let (c, m, s) := checkImage a (eImage e) s
      if c = 0 ∧ hdServiceOk m.hdr ∧ hdProg m.hdr = eProg e then imageCheck e l s else (false, s)

/-- Check 7: KEEP (R361). An OPT entry always qualifies (R363). -/
def keepOk (s : State) (e : BitVec 512) : Bool :=
  !eKeep e || decide (eKind e = 2) || (match tabGet none s.svc.saved (eBase e) with
    | some p => decide (p.blkLog.toNat = eBlkLog e) && decide (p.rdtype.toNat = eRdtype e) && decide (p.nblocks.toNat = eBlocks e)
    | none => false)

/-- The checks behind RANGE, in order. -/
def entryCheckRest (k : Nat) (e : BitVec 512) (s : State) : Nat × State :=
  if entryOverlaps s k e then (3, s)
  else if svcLive s k then (4, s)
  else if !entryArraysOk s e then (5, s)
  else
    let (ok, s) := imageCheck e (entryArrays s e) s
    if !ok then (6, s) else if keepOk s e then (0, s) else (7, s)

/-- The STATUS of a WRITE that is not OK, and the state after the reads of checks 2 and 6. -/
def entryCheck (k : Nat) (e : BitVec 512) (s : State) : Nat × State :=
  if eKind e = 0 then (if svcLive s k then 4 else 0, s)
  else if !entryFormatOk e then (1, s)
  else if !entryRangeOk e then (2, s)
  else
    let (ok, s) := imageInRegion e s
    if ok then entryCheckRest k e s else (2, s)

/-! ## WRITE (R345, R361, R363) -/

/-- Forget the pool indexes whose state range a new service's state covers. -/
def dropSaved (e : BitVec 512) (s : State) : State :=
  modSvc (fun u => { u with saved := u.saved.filter fun p => match p.2 with
    | some x => !spansMeet (eBase e) (eSize e) p.1 (x.nblocks.toNat * (2 ^ x.blkLog.toNat + 32) + 64)
    | none => false }) s

/-- Write FP32 zeros over `n` bytes, 4 KiB at a time. -/
def zeroRange : Nat → Nat → Nat → State → State
  | 0, _, _, s => s
  | fuel + 1, a, n, s => if n = 0 then s else zeroRange fuel (a + min n 4096) (n - 4096) (dieWrite a (zeros (min n 4096)) s).2

/-- The state of a new service (R361, R363). -/
def initState (e : BitVec 512) (s : State) : Tab PoolSlot × State :=
  if eKind e = 1 then
    let old := match tabGet none s.svc.saved (eBase e) with | some p => p.slots | none => []
    (if eKeep e then old else [], dropSaved e s)
  else if eKeep e then ([], dropSaved e s)
  else
    let n := 4 * eElems e
    let s := zeroRange (2 * n / 4096 + 1) (eBase e + 0x1000 + n) (2 * n) s
    let s := putOwn (eBase e + 8) (zeros 8) s
    ([], dropSaved e (putOwn (eBase e + 64) (floatBytes [fpOne, fpOne]) s))

/-- An entry becomes ACTIVE, with its state initialised. -/
def svcActivate (k : Nat) (e : BitVec 512) (s : State) : State :=
  let (slots, s) := initState e s
  modSvcN k (fun v => { entry := e, state := .active, slots := slots, calls := v.calls, errs := v.errs, evict := v.evict }) s

/-- The load of a WRITE's image fails: STATUS 6, and the table is as it was. -/
def svcLoadFails (k : Nat) (s : State) : State :=
  ledgerDevice 3 0 (detailOf []) (devFault0 0x70 sevWarn k 0 (modSvc (fun u => { u with loading := none, busy := false, status := 6 }) s))

/-- The load unit, when it is idle, takes the next array of a WRITE's image; after the last one the WRITE is done (R331, R333, R345). -/
def svcLoadNext (s : State) : State :=
  match s.svc.loading with
  | none => s
  | some l =>
    if s.arr.loadBusy.isSome then s
    else match l.left with
      | [] => svcActivate l.index l.entry (modSvc (fun u => { u with loading := none, busy := false, status := 0 }) s)
      | a :: rest =>
        let (c, m, s) := checkImage a (eImage l.entry) s
        if c ≠ 0 ∨ !hdServiceOk m.hdr ∨ hdProg m.hdr ≠ eProg l.entry then svcLoadFails l.index s
        else modSvc (fun u => { u with loading := some { l with current := some a, left := rest } })
          (modArr (fun u => { u with loadBusy := some (a, progOf m, packSlots m.slots ++ m.pre) }) s)

/-- The load unit has ended a load of array `a`: `ok` says that its slots read back. -/
def svcLoaded (a : Nat) (ok : Bool) (s : State) : State :=
  match s.svc.loading with
  | none => s
  | some l =>
    if l.current = some a then
      if ok then svcLoadNext (modSvc (fun u => { u with loading := some { l with current := none } }) s) else svcLoadFails l.index s
    else svcLoadNext s

/-- ARR_LOAD_DONE: the load unit ends its load, and a service's next one begins. -/
def loadDone (ok : Bool) (s : State) : State :=
  match s.arr.loadBusy with
  | none => s
  | some (a, _, _) =>
    let t := arrLoadDone ok s
    if t.arr.loadBusy.isSome then t else svcLoaded a ok t
def execArrLoadDone (readBackOk : Bool) (s : State) : Out := coreLive s (loadDone readBackOk s)

/-- WRITE. One with an image is BUSY until every array named has loaded it. -/
def svcTabWrite (k : Nat) (s : State) : Wrote :=
  let e := s.svc.data
  let (st, s) := entryCheck k e s
  let s := modSvc (fun u => { u with status := BitVec.ofNat 3 st }) s
  if st ≠ 0 then refused (devFault0 0x70 sevWarn k 0 s)
  else if eKind e = 0 then started (modSvcN k (fun v => { calls := v.calls, errs := v.errs, evict := v.evict }) s)
  else if eImage e = 0 then started (svcActivate k e s)
  else started (svcLoadNext (modSvc (fun u => { u with busy := true, loading := some ⟨k, e, none, entryArrays s e⟩ }) s))

/-- DRAIN (R346). -/
def svcDrain (k : Nat) (s : State) : Wrote :=
  if (svcOf s k).state = .active then
    started (modSvcN k (fun v => { v with state := .draining }) (modSvc (fun u => { u with busy := true, status := 0 }) s))
  else wrote s

/-- SVC_TAB_CTL. -/
def svcTabCtlWrite (v : W32) (s : State) : Wrote :=
  if s.svc.busy then wrote s
  else
    let k : BitVec 4 := bitsOf v 0 4
    let s := modSvc (fun u => { u with index := k }) s
    match (bitsOf v 26 2).toNat with
    | 1 => svcTabWrite k.toNat s
    | 2 => started (modSvc (fun u => { u with data := svcEntry s k.toNat, status := 0 }) s)
    | 3 => svcDrain k.toNat s
    | _ => wrote s

/-! ## Drain (R346) -/

/-- A service has no call queued or running and no step. -/
def svcQuiet (s : State) (k : Nat) : Bool :=
  (s.svc.queue.all fun c => decide (c.svc ≠ k)) && (s.svc.running.all fun c => decide (c.1.svc ≠ k)) && !(svcOf s k).stepRunning

/-- What a drained pool leaves: uncommitted slots FREE, every REF bit as adoption clears it. -/
def drainedSlots (t : Tab PoolSlot) : Tab PoolSlot :=
  t.map fun e => (e.1, if e.2.state = .openPut then slotFreed e.2 else { e.2 with ref := false })

/-- SVC_DRAIN_DONE. -/
def svcDrainDone (k : Nat) (s : State) : State :=
  let v := svcOf s k
  if v.state ≠ .draining ∨ !svcQuiet s k then s
  else
    let slots := (drainedSlots v.slots).filter fun e => decide (e.2 ≠ {})
    let s := modSvcN k (fun v => { v with state := .disabled, slots := slots }) (modSvc (fun u => { u with busy := false }) s)
    if eKind v.entry = 1 then
      modSvc (fun u => { u with saved := tabSet none u.saved (eBase v.entry) (some
        ⟨BitVec.ofNat 8 (eBlkLog v.entry), BitVec.ofNat 8 (eRdtype v.entry), BitVec.ofNat 32 (eBlocks v.entry), slots⟩) }) s
    else s
def execSvcDrainDone (svc : Nat) (s : State) : Out := coreIf (decide (svc < 16)) "service" s (svcDrainDone svc s)

/-! ## Dispatch (R347) -/

/-- An OPT_STEP that comes while a step runs needs no array: it is pending or BUSY (R365). Calls of its service that have not been applied
come first (R352). -/
def stepWaits (s : State) (k : Nat) : Bool :=
  decide (svcKind s k = 2) && (svcOf s k).stepRunning && (s.svc.running.all fun c => decide (c.1.svc ≠ k))

/-- The first queued call that can be answered or started: no earlier call of its service waits. -/
def dispatchable (s : State) : List SvcCallIn → List Nat → Option SvcCallIn
  | [], _ => none
  | c :: l, seen =>
    if !seen.contains c.svc && ((callRefused c s).isSome || stepWaits s c.svc || (freeArray s c.svc).isSome) then some c
    else dispatchable s l (seen ++ [c.svc])

/-- A place in a full dispatch queue is free again: calls that wait at admission may come in (R354). -/
def queuePlace (was : Nat) (s : State) : State := if 4096 ≤ was then retryHeld .rte s else s

/-- The calls, in dispatch order, that lost their array and have a free one again. -/
def lostCall (s : State) : Option (SvcCallIn × Nat) :=
  s.svc.running.findSome? fun x => if x.2.isNone then (freeArray s x.1.svc).map (x.1, ·) else none

/-- Dispatch the first call of the queue that can be answered or started. -/
def dispatchNext (s : State) : State :=
  match dispatchable s s.svc.queue ((s.svc.running.filter (·.2.isNone)).map (·.1.svc)) with
  | none => s
  | some c =>
    let was := s.svc.queue.length
    let s := modSvc (fun u => { u with queue := u.queue.erase c }) s
    queuePlace was (match callRefused c s with
      | some s => s
      | none =>
        if stepWaits s c.svc then (optStep none c.svc c.payload c.back s).2
        else match freeArray s c.svc with
          | none => s
          | some a => svcRun c.svc a (modSvc (fun u => { u with running := u.running ++ [(c, some a)] }) s))

/-- SVC_DISPATCH: a call starts on a free array, one that lost its array first. A call that no array need run is answered. -/
def svcDispatch (s : State) : State :=
  match lostCall s with
  | some (c, a) => svcRun c.svc a (modSvc (fun u => { u with running := u.running.replace (c, none) (c, some a) }) s)
  | none => dispatchNext s
def execSvcDispatch (s : State) : Out := coreLive s (svcDispatch s)

/-- SVC_STARVE: a call has waited 1 ms. -/
def svcStarve (k : Nat) (s : State) : State :=
  if (s.svc.queue.any fun c => decide (c.svc = k)) || (s.svc.running.any fun c => decide (c.1.svc = k) && c.2.isNone) then devFault0 0x71 sevWarn k 0 s else s
def execSvcStarve (svc : Nat) (s : State) : Out := coreIf (decide (svc < 16)) "service" s (svcStarve svc s)

/-! ## Failing arrays (R340, R347) -/

/-- A service without a usable array: FAILED, and every call is answered so. -/
def svcFails (k : Nat) (s : State) : State :=
  let mine := (s.svc.running.map (·.1) ++ s.svc.queue).filter fun c => decide (c.svc = k)
  let drain := decide ((svcOf s k).state = .draining)
  let was := s.svc.queue.length
  let s := modSvc (fun u => { u with queue := u.queue.filter fun c => decide (c.svc ≠ k), running := u.running.filter fun c => decide (c.1.svc ≠ k)
                                     busy := u.busy && !drain }) s
  let s := modSvcN k (fun v => { v with state := .failed, stepRunning := false, stepPending := false, stepBlock := [], stepBad := false
                                        stepArray := none }) s
  queuePlace was (forEach mine (fun c s => replyCall c.svc c.back 0 9 0 0 s) s)

/-- Array `a` leaves the use of the services that name it. A call that ran on it and was not applied keeps its place and is dispatched again
(assumption 35). A service left with no usable array fails. -/
def svcArrayLost (a : Nat) (s : State) : State :=
  let s := modSvc (fun u => { u with running := u.running.map fun c => if c.2 = some a then (c.1, none) else c }) s
  forEach (List.range 16) (fun k s =>
    let v := svcOf s k
    match (setBits (eMask v.entry)).find? fun j => decide (physArray s (eGroup v.entry) j = some a) with
    | none => s
    | some j =>
      if eKind v.entry = 0 ∨ bitAt v.lostArrays j then s
      else
        let s := modSvcN k (fun v => { v with lostArrays := v.lostArrays ||| BitVec.ofNat 64 (2 ^ j)
                                              stepArray := if v.stepArray = some a then none else v.stepArray }) s
        let s := devFault0 0x72 sevError a 0 s
        if (svcArrays s k).isEmpty && decide ((svcOf s k).state ≠ .failed) then svcFails k s else s) s

/-- ARRAY_SLOT_ECC: the array freezes and enters FAILED. -/
def arraySlotEcc (a : Nat) (s : State) : State := svcArrayLost a (arrayFails a s)
def execArraySlotEcc (array : Nat) (s : State) : Out := coreIf (decide (array < 864)) "array" s (arraySlotEcc array s)

end Sys2Proof.Machine
end

