-- ==== Sys2Proof/Machine/Boundary.lean ====
section
/-! DEFINITION. The tick boundary (R227, R231-R234, R284, R299, R335). -/

namespace Sys2Proof.Machine

open Sys2Proof

/-! ## Scheduled descriptors (R231, R234) -/

/-- A context of a source serves descriptor slot `i`. -/
def servesDesc (i : Nat) (o : CtxOwner) : Bool := match o with | .desc j _ _ => decide (j = i) | _ => false

/-- Free the open contexts that `sel` names, with LATE (R180, R234). -/
def lateCtxs (p : Point) (sel : CtxOwner → Bool) (s : State) : State :=
  forEach (((relOf s p).ctxs.filter fun e => ctxOpen e.2 && sel e.2.owner).map (·.1)) (freeCtx p) s

/-- A local read of descriptor slot `i` that no controller has. -/
def waitsRead (i : Nat) (u : DlvUse) : Bool := match u with | .host (.source j _ _) => decide (j = i) | _ => false

/-- Reads that wait are not made, and the accesses that a controller has, or that write results, serve the descriptor no more. -/
def endAccesses (n i : Nat) (s : State) : State :=
  orphanHost n i (modEp n (fun e => { e with dlvQueue := e.dlvQueue.filter fun d => !waitsRead i d.use }) s)

/-- A scheduled descriptor is dropped: its contexts and unsent frames go, and it completes with LATE, whatever its frames ended with (R234). -/
def dropDesc (n i : Nat) (s : State) : State :=
  let s := endAccesses n i (lateCtxs (.ep n) (servesDesc i) s)
  dropItem 1 (finishDesc n i (modDesc n i (fun d => { d with status := 0x11 }) s))

/-- A held descriptor has a bound entry. -/
def hasEntry (s : State) (n : Nat) (d : Desc) : Bool := s.tick.active.any fun x => boundTo x d && decide (entPort x = n)

/-- A bound entry of the ending tick did not start. -/
def entryMissed (s : State) (n : Nat) (d : Desc) : Bool :=
  (entriesNow s).any fun e => match entryNow s e with
    | some x => boundTo x d && decide (entPort x = n) && !s.tick.started.contains e
    | none => false

/-- A descriptor ends as dropped at this boundary. -/
def descLate (s : State) (n : Nat) (d : Desc) : Bool :=
  match d.sched with
  | .unscheduled => false
  | .held => !hasEntry s n d || entryMissed s n d
  | _ => !framesDone s d false

/-- Action 1 for the scheduled descriptors of a block. -/
def dropDescs (n : Nat) (s : State) : State :=
  let late := (epOf s n).descs.filterMap fun e => match e.2 with
    | some d => if descLate s n d then some e.1 else none
    | none => none
  if late.isEmpty then s else epWork n (forEach late (dropDesc n) s)

/-! ## Collectives (R299) -/

/-- The lowest local rank whose contribution to a dropped chunk is missing. -/
def missingRank (s : State) (x : ColSlot) (c : Chunk) : Option Nat :=
  match chunkView s x c.ordinal with
  | none => none
  | some (d, _, n, kk) =>
    ((contributors d n kk).filter (localRanks s (cGroup d)).contains).find? fun r =>
      if cOp d = 6 then !c.sent.contains r else !(c.ups.any fun u => decide (u.1 = r))

/-- The lowest leaf whose PART of a dropped chunk is missing, of those that owe one (R287). Where one leaf alone owes it, that is the leaf
that has sent a fragment; before that the spine knows none (assumption 24). -/
def missingLeaf (s : State) (x : ColSlot) (c : Chunk) : Option Nat :=
  match x.hdr with
  | none => none
  | some h =>
    let owing := if opReduces (phOp h) ∨ phOp h = 7 then memberLeaves s (phGroup h) else (c.parts.map (·.1)).eraseDups
    owing.find? fun l => !leafIn c l (partFrags (c.hdr.getD h) (if c.hdr.isSome then c.redop else x.redop) (if c.hdr.isSome then c.dtype else x.dtype))

/-- Drop the chunks of a slot that have not ended. Each of the occurrences `occs` counts as one dropped item (R299). -/
def dropChunks (k : Nat) (s : State) : State :=
  let x := slotOf s k
  let occs := (x.chunks.map (·.entry)).eraseDups
  let rank := (x.chunks.filterMap (missingRank s x)).getLast?
  let leaf := (x.chunks.filterMap (missingLeaf s x)).getLast?
  let s := modSlot k (fun y => { y with
    chunks := [], anyDropped := true, chunksDropped := satAdd y.chunksDropped x.chunks.length
    missRank := match rank with | some r => BitVec.ofNat 12 r | none => 0xFFF
    missLeaf := if isSpine s then (match leaf with | some l => BitVec.ofNat 6 l | none => 0x3F) else y.missLeaf }) s
  let s := dropInbox (fun h => ofInstance x h && decide (fCkind h ≤ 4)) s
  let s := forEach (allPoints s) (fun p s =>
    modRel p (fun r => { r with waiting := r.waiting.filter (fun f => !servesSlot k f.owner) }) (lateCtxs p (servesSlot k) s)) s
  forEach occs (fun _ s => dropItem 2 s) (dropDeliveries k s)

/-- A chunk that has not ended counts for DROP_RUN here: of an ALL_TO_ALL, one whose source rank is of this module (R300). -/
def rootsDrop (s : State) (x : ColSlot) (c : Chunk) : Bool :=
  match chunkView s x c.ordinal with
  | some (d, _, n, kk) => decide (cOp d ≠ 6) || (contributors d n kk).any (localRanks s (cGroup d)).contains
  | none => true

/-- An occurrence of the ending tick, entry `e` with ordinals from `a` to below `b`, at the boundary: DROP_RUN advances if it has dropped a
chunk, and resets if every chunk rooted here has ended. What a spine does not know of ordinals that no PART has named waits for proof
(assumption 24). -/
def occurrenceOver (k e a b : Nat) (x : ColSlot) (s : State) : State :=
  let dropped := x.chunks.any fun c => decide (c.entry = e) && rootsDrop s x c
  let lo := max a x.next
  let open_ := isSpine s && ((List.range (b - lo)).map (· + lo)).any fun j => match x.group with | some g => rootedHere s x g.toNat j | none => true
  let s := if open_ then modSlot k (fun y => { y with unproved := y.unproved ++ [(lo, b, dropped)] }) s else s
  if dropped then countDrop k s else if open_ then s else modSlot k (fun y => { y with dropRun := 0 }) s

/-- A LIVE slot at the boundary: its open chunks are dropped, and each occurrence of the tick, in its order, advances DROP_RUN or resets
it (R299). -/
def slotBoundary (k : Nat) (s : State) : State :=
  let x := slotOf s k
  if x.state ≠ .live then s
  else
    let s := if x.chunks.isEmpty then s else dropChunks k s
    let stops := (x.released.drop 1).map (·.2) ++ [x.cursor]
    let s := forEach (x.released.zip stops) (fun r s => occurrenceOver k r.1.1 r.1.2 r.2 x s) s
    let s := modSlot k (fun y => { y with released := [], next := if isSpine s then y.cursor else 0 }) s
    checkSlot k s

/-- A COL entry of the ending tick has not started, and names no instance that is over here (R230, R284). -/
def colMissed (s : State) (e : Nat) : Bool :=
  match entryNow s e with
  | some x =>
    let sl := slotOf s (colSlotOf (entColId x))
    decide (entKind x = kindCol) && !s.tick.started.contains e && !(slotHolds sl (entColId x) (entEpoch x) && decide (sl.state ≠ .live))
  | none => false

/-- The contexts of SCHED series that are still open end with LATE (R170, R180). -/
def lateSched (s : State) : State :=
  forEach (allPoints s) (fun p s =>
    forEach (((relOf s p).ctxs.filter fun e => ctxOpen e.2 && decide (ctxSeries e.2 % 2 = 1)).map (·.1)) (freeCtx p) s) s

/-- Action 1 for the collectives. -/
def colBoundary (s : State) : State :=
  let missed := (entriesNow s).filter (colMissed s)
  let s := forEach (s.col.slots.map (·.1)) slotBoundary s
  lateSched (forEach missed (fun _ s => dropItem 2 s) s)

/-! ## Arrays (R234, R335) -/

/-- Action 1 for the ARRAY entries: a run that goes on is halted, and an entry that did not start is dropped. -/
def arrBoundary (s : State) : State :=
  let missed := (entriesNow s).filterMap fun e => match entryNow s e with
    | some x => if entKind x = kindArray ∧ !s.tick.started.contains e then some x else none
    | none => none
  let s := forEach (s.arr.arrays.map (·.1)) runHalt s
  forEach missed (fun x s => arrayDrop (entArray x) (BitVec.ofNat 16 (entProg x)) 1 s) s

/-! ## The boundary (R232) -/

/-- SCHED frames that an admission point has not applied are discarded (R233). -/
def flushNodes (s : State) : State :=
  let gone := s.swc.nodeIn.flatMap fun e => e.2.filter fun x => decide (wbClass x.1.wb = 1)
  let kept := (s.swc.nodeIn.map fun e => (e.1, e.2.filter fun x => decide (wbClass x.1.wb ≠ 1))).filter fun e => !e.2.isEmpty
  let s := modSwc (fun w => { w with nodeIn := kept }) s
  let s := forEach gone (fun x s => freeCells x.2.1 1 x.2.2 s) s
  modTick (fun t => { t with flushCnt := satAdd t.flushCnt gone.length }) s

/-- A SCHED_PUT that its end-point block has admitted and no controller has yet (R233). -/
def schedDlv (d : Delivery) : Option Header :=
  match d.use with | .remote wb _ => if wbClass wb = 1 then some wb else none | _ => none

/-- Those deliveries are discarded with the SCHED frames. -/
def flushDlvs (s : State) : State :=
  forEach (s.eps.map (·.1)) (fun n s =>
    let gone := (epOf s n).dlvQueue.filterMap schedDlv
    if gone.isEmpty then s
    else
      let s := modEp n (fun e => { e with dlvQueue := e.dlvQueue.filter fun d => (schedDlv d).isNone }) s
      flushed gone.length (forEach gone (settleRequest (.ep n)) s)) s

/-- Action 6: the step counter. -/
def stepAdvance (committed : Bool) (s : State) : State :=
  if committed && s.tick.latchedLoad then modTick (fun t => { t with step := t.latchedStep }) s
  else if tickIndex s = 0 then modTick (fun t => { t with step := satAdd t.step 1 }) s
  else s

/-- Action 7: the new tick's entries become eligible, and its COL entries meet their slots (R284). -/
def openTick (s : State) : State :=
  let s := modArr boundarySlots (modTick (fun t => { t with started := [], finished := [] }) s)
  forEach (entriesNow s) (fun e s => match entryNow s e with
    | some x => if entKind x = kindCol then colEntry x s else s
    | none => s) s

/-- TICK_BOUNDARY. -/
def tickBoundary (s : State) : State :=
  let s := arrBoundary (colBoundary (forEach (s.eps.map (·.1)) dropDescs s))
  let s := flushDlvs (flushNodes (flushSched s))
  let s := modTick (fun t => { t with now := satAdd (t.takeFrom.getD t.now) 1, takeFrom := none }) s
  let (committed, s) := itinCommit s
  let s := if committed then noteMismatch s else s
  openTick (stepAdvance committed (planeCommit s))
def execTickBoundary (s : State) : Out := live s (tickBoundary s)

end Sys2Proof.Machine
end

