-- ==== Sys2Proof/Machine/ColTables.lean ====
section
/-! DEFINITION. Writes of the group table and the member store (R276-R278). -/

namespace Sys2Proof.Machine

open Sys2Proof

/-- A member entry is one that R277 gives: an accelerator, or an array group of a leaf or single-stage module of the plane. -/
def memberOk (s : State) (m : BitVec 16) : Bool :=
  let f := memFnid m
  if memSub m = 0 then decide (f.toNat < 0x800)
  else decide (memSub m ≤ 12) && fnidModule f && decide ((bitsOf f 7 4).toNat = planeIdx s)
    && decide ((bitsOf f 0 7).toNat < if singleStage s then 1 else leavesM1 s + 1)

/-- An accelerator member can be found (R278). -/
def memberPlaced (s : State) (m : BitVec 16) : Bool := decide (memSub m ≠ 0) || destValid (destOf s (memFnid m))

/-- SPINE_MASK satisfies R276. -/
def spineMaskOk (s : State) (e : BitVec 64) : Bool :=
  let m := (grpSpines e).toNat
  if singleStage s then decide (m = 0) else decide (m ≠ 0) && decide (m < 2 ^ (spinesM1 s + 1))

/-- An instance bound to group `g` is LIVE here. -/
def groupLive (s : State) (g : Nat) : Bool :=
  s.col.slots.any fun x => decide (x.2.state = .live)
    && (x.2.bound.any (fun m => decide (cGroup m.raw = g)) || decide (x.2.group = some (BitVec.ofNat 12 g)))

/-- The STATUS that a WRITE's checks give (R278). -/
def groupCheck (s : State) (g : Nat) (e : BitVec 64) : Nat :=
  let ms := (List.range (grpSize e)).map (memberOf s e)
  if bitsOf e 60 3 ≠ 0 ∨ !grpValid e ∨ !spineMaskOk s e then 1
  else if 65536 < grpBase e + grpSize e then 2
  else if !decide ms.Nodup ∨ !ms.all (memberOk s) ∨ !ms.all (memberPlaced s) then 3
  else if groupLive s g then 4
  else 0

/-- The mask-table entry of a group: VALID and MASK, with UP 0. In single stage the port mask is kept beside it. -/
def setGroupMask (g : Nat) (mask : Option (BitVec 64)) (s : State) : State :=
  if singleStage s then modCol (fun c => { c with grpMask := tabSet 0 c.grpMask g (mask.getD 0) }) s
  else modSwc (fun w => { w with mcast := tabSet 0 w.mcast g (match mask with | some m => BitVec.ofNat 96 (2 ^ 95 + m.toNat) | none => 0) }) s

/-- WRITE. -/
def groupWrite (g : Nat) (s : State) : State :=
  let e := s.col.grpData
  let c := groupCheck s g e
  let s := modCol (fun u => { u with grpStatus := BitVec.ofNat 3 c }) s
  if c ≠ 0 then s
  else setGroupMask g (some (grpMaskOf s e)) (modCol (fun u => { u with
    groups := tabSet 0 u.groups g e, grpLocal := tabSet [] u.grpLocal g (deriveLocal s e), grpLeaves := tabSet [] u.grpLeaves g (deriveLeaves s e) }) s)

/-- INVALIDATE. -/
def groupInvalidate (g : Nat) (s : State) : State :=
  if groupLive s g then modCol (fun u => { u with grpStatus := 4 }) s
  else setGroupMask g none (modCol (fun u => { u with
    grpStatus := 0, groups := tabSet 0 u.groups g (putBits (tabGet 0 u.groups g) 63 1 0), grpLocal := tabSet [] u.grpLocal g []
    grpLeaves := tabSet [] u.grpLeaves g [] }) s)

/-- COL_GRP_CTL. -/
def groupCtlWrite (v : W32) (s : State) : Wrote :=
  let i : BitVec 12 := bitsOf v 0 12
  let s := modCol (fun u => { u with grpIndex := i }) s
  match (bitsOf v 26 2).toNat with
  | 1 => started (groupWrite i.toNat s)
  | 2 => started (modCol (fun u => { u with grpStatus := 0, grpData := tabGet 0 u.groups i.toNat }) s)
  | 3 => started (groupInvalidate i.toNat s)
  | _ => wrote s

/-- The entry lies in the rank range of a VALID group. -/
def memberInUse (s : State) (i : Nat) : Bool :=
  s.col.groups.any fun g => grpValid g.2 && decide (grpBase g.2 ≤ i) && decide (i < grpBase g.2 + grpSize g.2)

/-- COL_MEMBER[i] (R277). -/
def memberWrite (i : Nat) (v : W32) (s : State) : Wrote :=
  let lo : BitVec 16 := bitsOf v 0 16
  let hi : BitVec 16 := bitsOf v 16 16
  let changes (k : Nat) (x : BitVec 16) : Bool := decide (tabGet 0 s.col.members k ≠ x) && memberInUse s k
  if changes (2 * i) lo || changes (2 * i + 1) hi then refused s
  else wrote (modCol (fun u => { u with members := tabSet 0 (tabSet 0 u.members (2 * i) lo) (2 * i + 1) hi }) s)

end Sys2Proof.Machine
end

