-- ==== Sys2Proof/Machine/Lanes.lean ====
section
/-! DEFINITION. Lanes and ports: board profiles, the port state machine, the authenticated handshake, link encryption and eye
scans (R441-R458). -/

namespace Sys2Proof.Machine

open Sys2Proof

def laneAt (s : State) (l : Nat) : Lane := tabGet {} s.lanes.lanes l
def modLane (l : Nat) (f : Lane → Lane) (s : State) : State :=
  modLanes (fun u => { u with lanes := tabMod {} u.lanes l f }) s

/-- The lanes of a port: lane `4n + i` is lane `i` of port `n`. -/
def portLanes (n : Nat) : List Nat := [4 * n, 4 * n + 1, 4 * n + 2, 4 * n + 3]

/-! ## Board profiles (R442-R444) -/

def profileIdOf (p : List Byte) : Nat := fieldNat p 0 2
/-- The entry of a lane in a profile. -/
def profileEntry (p : List Byte) (l : Nat) : BitVec 64 := BitVec.ofNat 64 (fieldNat p (16 + 8 * l) 8)

/-- A lane's entry has no reserved bit set and its taps within the limits of R444. -/
def entryUsable (e : BitVec 64) : Bool :=
  let main := (bitsOf e 38 7).toNat
  decide (bitsOf e 56 6 = 0) && decide (bitsOf e 0 16 = 0) && decide (64 ≤ main)
    && decide ((bitsOf e 51 5).toInt.natAbs + (bitsOf e 45 6).toInt.natAbs + main + (bitsOf e 32 6).toInt.natAbs ≤ 127)

/-- A profile can be used (R443, R444). -/
def profileUsable (p : List Byte) : Bool :=
  decide (p.length = 2064) && decide (fieldNat p 4 4 = (crc32c (p.drop 16)).toNat) && decide (fieldNat p 8 8 = 0)
    && (List.range 256).all fun l => entryUsable (profileEntry p l)

/-- The profile that LANE_PROFILE selects. -/
def selectedProfile (s : State) : Option (List Byte) :=
  s.mgt.nv.profiles.find? fun p => decide (profileIdOf p = s.mgt.nv.profileId.toNat)

/-- TABLE_ERR of LANE_PROFILE. -/
def tableErr (s : State) : Bool := match selectedProfile s with | some p => !profileUsable p | none => true

/-- The EQ_TABLE record of an unusable selection (R457). -/
def noteTable (s : State) : State := if tableErr s then devFault0 0xB3 sevError s.mgt.nv.profileId.toNat 0 s else s

/-- LANE_PROFILE. -/
def profileWrite (v : W32) (s : State) : Wrote :=
  wrote (noteTable (nvMod (fun n => { n with profileId := bitsOf v 0 16 }) s))

/-! ## States of a port (R447, R455) -/

def causeSignal : BitVec 4 := 1
def causeLock : BitVec 4 := 2
def causeSkew : BitVec 4 := 3
def causePers : BitVec 4 := 4
def causeRtt : BitVec 4 := 5
def causeQual : BitVec 4 := 6
def causeAuth : BitVec 4 := 7
def causeRack : BitVec 4 := 8
def causeDegrade : BitVec 4 := 9
def causeTag : BitVec 4 := 10
def causePeer : BitVec 4 := 11
def causeAdmin : BitVec 4 := 12
def causeWake : BitVec 4 := 13

/-- The code of a state in PORT[n]_STAT. -/
def portStateCode (p : PortState) : Nat :=
  match p with
  | .disabled => 0 | .reset => 1 | .signal => 2 | .align => 3 | .qualify => 4 | .auth => 5 | .traffic => 6 | .fault => 7

/-- A condition that holds ports in RESET (R447); a tripped module stays parked (R431, assumption 41). -/
def portsHeld (s : State) : Bool :=
  topoErr s || s.glb.fnidErr || tableErr s || s.glb.scrubHold || s.mgt.tapOpen || s.mgt.recovery || s.pwr.tripped

/-- A port partway through bring-up. -/
def inBringup (p : PortState) : Bool := decide (p = .signal) || decide (p = .align) || decide (p = .qualify) || decide (p = .auth)

/-- The scan that runs ends early: what it has counted is a free value (R445, assumption 5). -/
def cutScan (u : LaneUnit) : LaneUnit := { u with eyeBusy := false, eyeAborted := true, eyeErrs := u.eyeCut }

/-- An eye scan on a lane of a port ends early (R445). -/
def scanLost (n : Nat) (s : State) : State :=
  if s.lanes.eyeBusy && decide (s.lanes.eyeLane.toNat / 4 = n) then modLanes cutScan s else s

/-- What a port leaves behind with its traffic state: its egress queues (R165), the attach state (R76) and a scan. The peer's last
OFF state and a due FLOW frame are kept, which R141 leaves open: DESIGN CHOICE (assumption 62). -/
def leftTraffic (n : Nat) (s : State) : State :=
  scanLost n (epDown n (dropEgress n (modPwr (fun p => { p with portState := tabSet 0 p.portState n 0 }) s)))

/-- The port takes a state with what it learnt from its peer forgotten; a `cause` of none keeps CAUSE. Keys live for one TRAFFIC
period (R452), and nothing is locked while the peer's signal is not looked for. -/
def forgetPort (n : Nat) (st : PortState) (cause : Option (BitVec 4)) (s : State) : State :=
  let s := modPort n (fun p => { p with
    state := st, cause := cause.getD p.cause, quiet := false, quieting := false, enc := false, peerFnid := 0xFFF, samples := []
    peerTrain := none, peerHello := none, ownHello := [], peerOk := false, keys := none, peerPrint := 0, skipAt := none, windowErrs := 0, line := [], encFrom := none, msgFrom := 0 }) s
  forEach (portLanes n) (fun l => modLane l fun x => { x with sigDet := false, cdrLock := false, cwLock := false, markLock := false, logical := 0, group := none }) s

/-- The port leaves its traffic state, if it is in it. -/
def quitTraffic (n : Nat) (s : State) : State := if (portOf s n).state = .traffic then leftTraffic n s else s

/-- The port takes a state, out of whichever it is in (R447). -/
def portTo (n : Nat) (st : PortState) (cause : Option (BitVec 4)) (s : State) : State := forgetPort n st cause (quitTraffic n s)

/-- Entry to FAULT: DOWN_CNT and a PORT_DOWN record with CAUSE in DETAIL (R447, R457). -/
def portFault (n : Nat) (cause : BitVec 4) (s : State) : State :=
  let s := portTo n .fault (some cause) s
  let s := modPort n (fun p => { p with downCnt := satAdd p.downCnt 1 }) s
  devFault 0xB0 sevError 0 n n cause.toNat 0xFFF s

/-- Entry to TRAFFIC: LOCKED is set (R22), an EDGE port's block waits for HELLO (R76), and a TRUNK port whose peer is not the one
that R159 requires writes an RTE_PATH record. An encrypted port sends free slots until every lane has begun an encrypted group, so that every
cell of its traffic is in one (R452; DEDUCED, assumption 68). A node in P4 wakes (R417). -/
def enterTraffic (n : Nat) (s : State) : State :=
  let s := modPort n (fun p => { p with state := .traffic, windowErrs := 0, enc := p.keys.isSome }) (if s.pwr.node = 4 then wakeNode s else s)
  let s := if (portOf s n).enc then putItems n [.secure] s else s
  let s := epUp n (reachStep 8 (modGlb (fun g => { g with locked := true }) s))
  if isTrunk s n ∧ trunkPeer s n ≠ some (portOf s n).peerFnid then devFault 0x34 sevWarn 0 n n 0 0xFFF s else s

/-- An event of a port in bring-up: a condition that holds ports takes the port back to RESET instead (R447). -/
def bringup (n : Nat) (f : State → State) (s : State) : State :=
  if inBringup (portOf s n).state && portsHeld s then portTo n .reset none s else f s

/-- The end-point block of a port that is no longer EDGE holds no contexts (R15). R15 does not say how those that it held end: they end
with TIMEOUT, counted, and their ordered series are flushed as R175 flushes them. DESIGN CHOICE (assumption 59). -/
def emptyEp (n : Nat) (s : State) : State :=
  let issued := ((epOf s n).rel.ctxs.filter fun c => decide (c.2.st = .issued)).map fun c => (c.1, ctxSeries c.2)
  let s := forEach (((issued.map (·.2)).eraseDups).filter fun k => decide (k % 2 = 0)) (flushSeries (.ep n)) s
  let s := timeoutAll (.ep n) ((issued.filter fun x => decide (x.2 % 2 = 1)).map (·.1)) s
  let left := ((epOf s n).rel.ctxs.filter fun c => decide (c.2.st ≠ .free)).map (·.1)
  forEach left (fun i s => freeCtx (.ep n) i s) s

/-- PORT[n]_CFG (R446, R500): only an INSTALLER changes PERS. -/
def portCfgWrite (n : Nat) (installer : Bool) (v : W32) (s : State) : Wrote :=
  let old : BitVec 2 := tabGet 0 s.mgt.nv.pers n
  let pers : BitVec 2 := if installer then bitsOf v 30 2 else old
  if pers ≠ old ∨ bitAt v 29 then
    let s := quitTraffic n s
    let s := if old = 1 ∧ pers ≠ 1 then emptyEp n s else s
    let s := if pers = old then s else nvMod (fun x => { x with pers := tabSet 0 x.pers n pers }) s
    wrote (forgetPort n (if pers = 1 ∨ pers = 2 then .reset else .disabled) (some causeAdmin) s)
  else wrote s

/-- PORT_QUAL (R449). -/
def portQualWrite (v : W32) (s : State) : Wrote :=
  wrote (modLanes (fun u => { u with uncorrMax := bitsOf v 24 8, symMax := bitsOf v 0 16 }) s)

/-! ## RESET, SIGNAL and ALIGN (R447, R448) -/

/-- Byte `i` of a cell, and its CTYPE. -/
def cellByte (c : BitVec 512) (i : Nat) : Byte := bitsOf c (8 * i) 8
def cellField (c : BitVec 512) (off n : Nat) : Nat := c.toNat / 2 ^ (8 * off) % 2 ^ (8 * n)
def mkCell (bs : List Byte) : BitVec 512 := BitVec.ofNat 512 (leNat bs)

/-- A TRAIN cell of a port: its STATE, its PERS, and VERSION 0x01; an IDLE cell; and LOOP_REQ with its T1 (R441). -/
def trainCell (s : State) (n : Nat) (st : PortState) : BitVec 512 := mkCell [2, BitVec.ofNat 8 (portStateCode st), BitVec.ofNat 8 (persOf s n), 1]
def idleCell : BitVec 512 := mkCell [0]
def loopReqCell (t1 : BitVec 64) : BitVec 512 := mkCell (leBytes 8 3 ++ bvBytes t1)

/-- Free slots hold a control cell. -/
def fillWith (c : BitVec 512) : LineItem := .fill (some (ctlCell c))

/-- PORT_RESET_EXIT: step 7 of R487 has come and nothing holds the port; its lane entries are loaded (R442), and it sends TRAIN cells. -/
def portResetExit (n : Nat) (s : State) : State :=
  match selectedProfile s with
  | none => s
  | some p =>
    if (portOf s n).state ≠ .reset ∨ portsHeld s ∨ s.glb.step.toNat < 6 ∨ !(isEdge s n || isTrunk s n) then s
    else
      let s := forEach (portLanes n) (fun l => modLane l fun x => { x with loaded := profileEntry p l }) s
      let s := modPort n (fun q => { q with state := .signal, msgFrom := (epOf s n).sent.length, bringup := s.freeCount }) s
      reachStep 7 (putItems n [fillWith (trainCell s n .signal)] { s with freeCount := s.freeCount + 1 })
def execPortResetExit (n : Nat) (s : State) : Out := liveIf (decide (n < 64)) "port" s (portResetExit n s)

/-- PORT_HOLD. -/
def execPortHold (n : Nat) (s : State) : Out := liveIf (decide (n < 64)) "port" s (bringup n id s)

/-- LANES_LOCKED: TRAIN cells show ALIGN, and the first of sixteen LOOP exchanges begins, T1 a free value (R447, R448). -/
def lanesLocked (n : Nat) (s : State) : State :=
  if (portOf s n).state ≠ .signal then s
  else
    let s := modPort n (fun p => { p with state := .align })
      (forEach (portLanes n) (fun l => modLane l fun x => { x with sigDet := true, cdrLock := true, cwLock := true }) s)
    let (t1, s) := takeFree s
    putItems n [fillWith (trainCell s n .align), .cell (ctlCell (loopReqCell t1))] s
def execLanesLocked (n : Nat) (s : State) : Out := liveIf (decide (n < 64)) "port" s (bringup n (lanesLocked n) s)

/-- The port is in `st` and an event takes it to FAULT. -/
def faultFrom (n : Nat) (st : PortState) (cause : BitVec 4) (s : State) : State :=
  if (portOf s n).state = st then portFault n cause s else s

/-- SIGNAL_TIMEOUT. -/
def execSignalTimeout (n : Nat) (s : State) : Out :=
  liveIf (decide (n < 64)) "port" s (bringup n (faultFrom n .signal causeSignal) s)

/-- The limit on the round trip in 1/64 cycle, which is 10 ps (R448): 500 ns on a TRUNK port, 400 ns on an EDGE port. -/
def rttLimit (s : State) (n : Nat) : Nat := if isTrunk s n then 50000 else 40000

/-- What the peer's TRAIN must show: PERS 2 on a TRUNK port or 3 on an EDGE port, and VERSION 0x01 (R448). -/
def trainOk (s : State) (n : Nat) : Option Bool :=
  (portOf s n).peerTrain.map fun t => decide (t.1 = if isTrunk s n then 2 else 3) && decide (t.2 = 1)

/-- The mean of the LOOP exchanges is above the limit. -/
def rttOver (s : State) (n : Nat) : Bool :=
  let l := (portOf s n).samples
  decide (rttLimit s n * l.length < l.sum)

/-- The lane order that the markers gave is an order of the four lanes. -/
def orderOk (order : List Nat) : Bool := decide (order.length = 4) && [0, 1, 2, 3].all order.contains

/-- ALIGN_DONE: markers are locked with a skew and an order. What fails sends the port to FAULT; what has not come yet is waited
for, until ALIGN_TIMEOUT. -/
def alignDone (n skewPs : Nat) (order : List Nat) (s : State) : State :=
  if (portOf s n).state ≠ .align then s
  else if !orderOk order then portFault n causeLock s
  else if 80000 < skewPs then portFault n causeSkew s
  else
    let s := forEach [0, 1, 2, 3] (fun i => modLane (4 * n + i) fun x => { x with markLock := true, logical := BitVec.ofNat 2 (order.getD i 0) }) s
    match trainOk s n with
    | none => s
    | some false => portFault n causePers s
    | some true =>
      if (portOf s n).samples.length < 16 then s
      else if rttOver s n then portFault n causeRtt s
      else putItems n [fillWith idleCell] (modPort n (fun p => { p with state := .qualify, windowErrs := 0 }) s)
def execAlignDone (n skewPs : Nat) (order : List Nat) (s : State) : Out :=
  liveIf (decide (n < 64)) "port" s (bringup n (alignDone n skewPs order) s)

/-- The first requirement of R448 that is not met. -/
def alignCause (n : Nat) (s : State) : BitVec 4 :=
  if !((portLanes n).all fun l => (laneAt s l).markLock) then causeLock
  else if trainOk s n ≠ some true then causePers
  else causeRtt

/-- ALIGN_TIMEOUT. -/
def execAlignTimeout (n : Nat) (s : State) : Out :=
  liveIf (decide (n < 64)) "port" s (bringup n (fun s => faultFrom n .align (alignCause n s) s) s)

/-! ## Control cells (R441) -/

/-- A received cell is a control cell of a CTYPE: one with other header bits is none (R435), and an unknown CTYPE is discarded (R441). -/
def isCtl (ctype : Byte) (c : TxCell) : Bool := decide (cellKind c = .control) && decide (cellByte c.data 0 = ctype)

/-- A port sends control cells. -/
def sendCells (n : Nat) (l : List (BitVec 512)) (s : State) : State := putLine n (l.map ctlCell) s

/-- TRAIN: noted in ALIGN; in TRAFFIC the peer has begun again, and the port follows it through RESET. Quiet lanes carry none. -/
def train (n : Nat) (c : TxCell) (s : State) : State :=
  if !isCtl 2 c then s
  else match (portOf s n).state with
    | .align => modPort n (fun p => { p with peerTrain := some (cellByte c.data 2, cellByte c.data 3) }) s
    | .traffic => if (portOf s n).quiet then s else portTo n .reset (some causePeer) s
    | _ => s
def execTrain (n : Nat) (cell : TxCell) (s : State) : Out := liveIf (decide (n < 64)) "port" s (bringup n (train n cell) s)

/-- The port exchanges control cells with its peer. -/
def exchanges (s : State) (n : Nat) : Bool :=
  let p := portOf s n
  (decide (p.state = .align) || decide (p.state = .qualify) || decide (p.state = .auth) || decide (p.state = .traffic)) && !p.quiet

/-- LOOP_REQ is answered with its T1 and the TURN taken. -/
def loopReq (n : Nat) (c : TxCell) (turn : W32) (s : State) : State :=
  if isCtl 3 c ∧ exchanges s n then sendCells n [mkCell (leBytes 8 4 ++ leBytes 8 (cellField c.data 8 8) ++ bvBytes turn)] s else s
def execLoopReq (n : Nat) (cell : TxCell) (turn : W32) (s : State) : Out :=
  liveIf (decide (n < 64)) "port" s (bringup n (loopReq n cell turn) s)

/-- RTT = (t4 − T1) − TURN (R448). -/
def rttSample (c : BitVec 512) (t4 : BitVec 64) : Nat := (t4 - BitVec.ofNat 64 (cellField c 8 8) - BitVec.ofNat 64 (cellField c 16 4)).toNat

/-- PORT[n]_RTT, which saturates. -/
def setRtt (n rtt : Nat) (s : State) : State := modPort n (fun p => { p with rtt := BitVec.ofNat 16 (min rtt 65535) }) s

/-- LOOP_RSP: one of sixteen samples in ALIGN, the last of which shows the mean, and each other of which begins the next exchange; in TRAFFIC
the repeated exchange. -/
def loopRsp (n : Nat) (c : TxCell) (t4 : BitVec 64) (s : State) : State :=
  let p := portOf s n
  if !isCtl 4 c then s
  else if p.state = .align ∧ p.samples.length < 16 then
    let l := p.samples ++ [rttSample c.data t4]
    let s := modPort n (fun p => { p with samples := l }) s
    if l.length = 16 then setRtt n (l.sum / 16) s
    else
      let (t1, s) := takeFree s
      sendCells n [loopReqCell t1] s
  else if p.state = .traffic ∧ !p.quiet then setRtt n (rttSample c.data t4) s
  else s
def execLoopRsp (n : Nat) (cell : TxCell) (t4 : BitVec 64) (s : State) : Out :=
  liveIf (decide (n < 64)) "port" s (bringup n (loopRsp n cell t4) s)

/-- LOOP_REPEAT: a port in TRAFFIC sends a LOOP_REQ with its time. -/
def loopRepeat (n : Nat) (t1 : BitVec 64) (s : State) : State :=
  if (portOf s n).state = .traffic ∧ !(portOf s n).quiet then sendCells n [loopReqCell t1] s else s
def execLoopRepeat (n : Nat) (t1 : BitVec 64) (s : State) : Out := liveIf (decide (n < 64)) "port" s (loopRepeat n t1 s)

/-! ## The handshake (R450, R451) -/

/-- A message of the handshake in AUTH cells: 56-byte fragments. -/
def authCells (msg : Byte) (m : List Byte) : List (BitVec 512) :=
  let parts := chunks 56 m.length m
  (List.range parts.length).map fun i => mkCell ([5, msg, BitVec.ofNat 8 i, BitVec.ofNat 8 parts.length, 0, 0, 0, 0] ++ parts.getD i [])

/-- This side's HELLO; the nonce and the coordinates of the ephemeral key are free octets. -/
def helloBytes (s : State) (n k : Nat) : List Byte :=
  [1, 2, BitVec.ofNat 8 n, 0] ++ leBytes 2 (bitsOf s.mgt.nv.rackId 0 16).toNat ++ leBytes 2 (myFnid s).toNat
    ++ freshKeyBytes k ++ bvBytes s.fuses.idPub ++ zeros 2

/-- Entry to AUTH: HELLO is sent. -/
def enterAuth (n : Nat) (s : State) : State :=
  let h := helloBytes s n s.freeCount
  sendCells n (authCells 1 h) (modPort n (fun p => { p with state := .auth, ownHello := h }) { s with freeCount := s.freeCount + 1 })

def helloRack (h : List Byte) : Nat := fieldNat h 4 2
def helloFnid (h : List Byte) : Nat := fieldNat h 6 2
def helloIdPub (h : List Byte) : List Byte := slice h 153 97

/-- This side has the lower FNID. -/
def isLo (own peer : List Byte) : Bool := decide (helloFnid own ≤ helloFnid peer)
/-- TH of R451. -/
def handshakeHash (own peer : List Byte) : List Byte := sha384 (if isLo own peer then own ++ peer else peer ++ own)

/-- AUTH_HELLO: the peer's HELLO is kept, and SIG is sent. -/
def authHello (n : Nat) (h : List Byte) (s : State) : State :=
  let p := portOf s n
  if p.state ≠ .auth ∨ h.length ≠ 252 ∨ p.peerHello.isSome then s
  else
    let sig := Config.signature (handshakeHash p.ownHello h ++ [if isLo p.ownHello h then 1 else 2])
    sendCells n (authCells 2 (bvBytes sig)) (modPort n (fun p => { p with peerHello := some h }) s)
def execAuthHello (n : Nat) (hello : List Byte) (s : State) : Out :=
  liveIf (decide (n < 64)) "port" s (bringup n (authHello n hello) s)

/-- AUTH_SIG: the peer is accepted and keys are derived, or the port goes to FAULT. `ok` is the verdict on the signature. -/
def authSig (n : Nat) (ok : Bool) (s : State) : State :=
  let p := portOf s n
  match p.peerHello with
  | none => s
  | some h =>
    if p.state ≠ .auth ∨ p.peerOk then s
    else
      let print := sha384v (helloIdPub h)
      if helloRack h ≠ (bitsOf s.mgt.nv.rackId 0 16).toNat then portFault n causeRack s
      else if helloFnid h = (myFnid s).toNat ∨ !s.mgt.nv.peers.contains print ∨ !ok then portFault n causeAuth s
      else
        let th := BitVec.ofNat 384 (leNat (handshakeHash p.ownHello h))
        modPort n (fun p => { p with peerOk := true, encFrom := some p.line.length, keys := some (Config.sessionKeys th), peerPrint := print
                                     peerFnid := BitVec.ofNat 12 (helloFnid h) }) s
def execAuthSig (n : Nat) (_sig : BitVec 768) (sigOk : Bool) (s : State) : Out :=
  liveIf (decide (n < 64)) "port" s (bringup n (authSig n sigOk) s)

/-- AUTH_TIMEOUT. -/
def execAuthTimeout (n : Nat) (s : State) : Out := liveIf (decide (n < 64)) "port" s (bringup n (faultFrom n .auth causeAuth) s)

/-! ## QUALIFY and windows (R438, R449) -/

/-- QUALIFY_WINDOW_END: the corrected codewords and symbols since the last one, lane by lane, are counted whatever the port's state (R456,
assumption 28), and in QUALIFY and TRAFFIC the window is judged. -/
def qualifyWindowEnd (n : Nat) (corrected symbols : List Nat) (s : State) : State :=
  let p := portOf s n
  let s := forEach [0, 1, 2, 3] (fun i => modLane (4 * n + i) fun x =>
    { x with corr := satAdd x.corr (corrected.getD i 0), sym := satAdd x.sym (symbols.getD i 0) }) s
  if p.state ≠ .qualify ∧ p.state ≠ .traffic then s
  else
    if p.state = .qualify then
      if 0 < p.windowErrs ∨ !([0, 1, 2, 3].all fun i => decide (symbols.getD i 0 ≤ s.lanes.symMax.toNat * 256)) then portFault n causeQual s
      else if isTrunk s n then enterAuth n s
      else enterTraffic n s
    else if s.lanes.uncorrMax.toNat < p.windowErrs then portFault n causeDegrade s
    else modPort n (fun p => { p with windowErrs := 0 }) s
def execQualifyWindowEnd (n : Nat) (corrected symbols : List Nat) (s : State) : Out :=
  liveIf (decide (n < 64)) "port" s (bringup n (qualifyWindowEnd n corrected symbols) s)

/-- What a lane's flags show after a loss (R447, R456): what rests on what is lost is lost with it. -/
def loseLock (w : LostLock) (x : Lane) : Lane :=
  match w with
  | .signal => { x with sigDet := false, cdrLock := false, cwLock := false, markLock := false }
  | .cdr => { x with cdrLock := false, cwLock := false, markLock := false }
  | .codeword => { x with cwLock := false, markLock := false }
  | .marker => { x with markLock := false }

/-- A lane of a port that receives loses something: the port goes to FAULT, but in SIGNAL and AUTH, which then time out (R447). An eye scan
on a lane without CDR lock ends (R445). -/
def lockLost (n lane : Nat) (w : LostLock) (s : State) : State :=
  let s := modLane (4 * n + lane) (loseLock w) s
  let s := if s.lanes.eyeBusy && decide (s.lanes.eyeLane.toNat = 4 * n + lane) && !(laneAt s (4 * n + lane)).cdrLock then modLanes cutScan s else s
  match (portOf s n).state with
  | .align => portFault n causeLock s
  | .traffic => portFault n causeLock s
  | .qualify => portFault n causeQual s
  | _ => s

/-- The port receives codewords: it exchanges cells with its peer, or looks for it in SIGNAL. -/
def listens (s : State) (n : Nat) : Bool := exchanges s n || decide ((portOf s n).state = .signal)

/-- FEC_UNCORRECTABLE: counted on its lane and in the port's window, with a LANE_UNCORR record; the eighth in a row ends the lane's codeword
lock (R438). What its cells held reaches other commands as a frame with the LINK flaw, or not at all. -/
def fecUncorrectable (w : BadCodeword) (s : State) : State :=
  let n := w.lane / 4
  if listens s n then
    let s := modLane w.lane (fun x => { x with uncorr := satAdd x.uncorr 1 }) s
    let s := devFault 0xB2 sevWarn 0 n w.lane 0 0xFFF (modPort n (fun p => { p with windowErrs := p.windowErrs + 1 }) s)
    if 8 ≤ w.run then lockLost n (w.lane % 4) .codeword s else s
  else s
def execFecUncorrectable (word : BadCodeword) (s : State) : Out := liveIf (decide (word.lane < 256)) "lane" s (fecUncorrectable word s)

/-! ## Markers and link encryption (R452) -/

/-- A tag failure in a group without an uncorrectable codeword, and what is handled as one. -/
def tagFailed (n : Nat) (s : State) : State :=
  let peer := (portOf s n).peerFnid
  let s := portFault n causeTag s
  let t := devFault 0xB1 sevError 0 n n 0 peer s
  -- A failure that merges into an unread record has its ledger entry too (R452).
  if t.mgt.queue.length + t.mgt.lostWaiting ≠ s.mgt.queue.length + s.mgt.lostWaiting then t
  else
    let r : FaultRec := { kind := 0xB1, severity := sevError, code := 0, port := BitVec.ofNat 8 n, key := BitVec.ofNat 16 n
                          tick := s.tick.now, detail := 0, src := peer }
    ledgerDevice 7 0 (BitVec.ofNat 352 (leNat (faultBytes r))) t

/-- A marker of a lane in ALIGN: its LANE gives the lane's place, and the second of two consecutive ones, whose GROUP is one more, its lock
(R441, R448). -/
def alignMark (l : Nat) (c : BitVec 512) (s : State) : State :=
  let g : BitVec 62 := bitsOf c 64 62
  modLane l (fun x => { x with group := some g, logical := bitsOf c 8 2, markLock := x.markLock || decide (x.group = some (g - 1)) }) s

/-- MARK: in ALIGN, the lane's place and lock; in AUTH, the first marker with ENC from an accepted peer; in TRAFFIC on a TRUNK port, the tag
of the group that ends, whose verdict is `tagOk`. -/
def mark (n lane : Nat) (c : TxCell) (tagOk hadUncorrectable : Bool) (nowUs : Nat) (s : State) : State :=
  let p := portOf s n
  if !isCtl 1 c then s
  else if p.state = .align then alignMark (4 * n + lane) c.data s
  else if p.state = .auth then (if p.peerOk && bitAt (cellByte c.data 2) 0 then enterTraffic n s else s)
  else if p.state ≠ .traffic ∨ !p.enc ∨ tagOk then s
  else if !hadUncorrectable then tagFailed n s
  else
    let again := match p.skipAt with | some t => decide (nowUs ≤ t + 10000) | none => false
    if again then tagFailed n s
    else modPort n (fun p => { p with authSkip := satAdd p.authSkip 1, skipAt := some nowUs }) s
def execMark (n lane : Nat) (cell : TxCell) (tagOk hadUncorrectable : Bool) (nowUs : Nat) (s : State) : Out :=
  liveIf (decide (n < 64) && decide (lane < 4)) "lane of a port" s (bringup n (mark n lane cell tagOk hadUncorrectable nowUs) s)

/-- MARKER_LOCK_LOSS: a lane loses the lock of its markers, or what it rests on. -/
def markerLockLoss (n : Nat) (w : LaneLoss) (s : State) : State := if listens s n then lockLost n w.lane w.what s else s
def execMarkerLockLoss (n : Nat) (loss : LaneLoss) (s : State) : Out :=
  liveIf (decide (n < 64) && decide (loss.lane < 4)) "lane of a port" s (bringup n (markerLockLoss n loss) s)

/-- FAULT_RECOVERY_TIMER. -/
def execFaultRecoveryTimer (n : Nat) (s : State) : Out :=
  liveIf (decide (n < 64)) "port" s (if (portOf s n).state = .fault then portTo n .reset none s else s)

/-! ## Quiet and wake (R454) -/

/-- QUIET: the controller's answer turns both transmitters off, so no lane has a signal (R456), and the port is in P3. -/
def quietAnswer (n : Nat) (s : State) : State :=
  if (portOf s n).quieting then
    let s := forEach (portLanes n) (fun l => modLane l (loseLock .signal)) (scanLost n s)
    modPwr (fun p => { p with portState := tabSet 0 p.portState n 3 })
      (putItems n [.fill none] (modPort n (fun p => { p with quieting := false, quiet := true }) s))
  else s
def execQuiet (n : Nat) (s : State) : Out := liveIf (decide (n < 64)) "port" s (quietAnswer n s)

/-- QUIET_TIMEOUT. -/
def execQuietTimeout (n : Nat) (s : State) : Out :=
  liveIf (decide (n < 64)) "port" s (modPort n (fun p => { p with quieting := false }) s)

/-- A relock with TRAIN cells, by the stored lane entries and order: traffic again in P0, or FAULT. The windows of R449 run on. A node in P4
wakes. -/
def relock (n : Nat) (ok : Bool) (s : State) : State :=
  let s := if s.pwr.node = 4 then wakeNode s else s
  if ok then
    let s := forEach (portLanes n) (fun l => modLane l fun x => { x with sigDet := true, cdrLock := true, cwLock := true, markLock := true }) s
    let s := putItems n [fillWith (trainCell s n .traffic), fillWith idleCell] (modPort n (fun p => { p with quiet := false }) s)
    wakePump n (modPwr (fun p => { p with portState := tabSet 0 p.portState n 0 }) s)
  else portFault n causeWake s

/-- LANE_WAKE_DETECT: wake signalling relocks a quiet port, or ends an entry to QUIET. -/
def laneWakeDetect (n : Nat) (ok : Bool) (s : State) : State :=
  let p := portOf s n
  if p.state ≠ .traffic then s
  else if p.quiet then relock n ok s
  else modPort n (fun p => { p with quieting := false }) s
def execLaneWakeDetect (n : Nat) (relocked : Bool) (s : State) : Out := liveIf (decide (n < 64)) "port" s (laneWakeDetect n relocked s)

/-! ## Eye scan (R445) -/

/-- The symbols that a scan compares, 2^(DWELL + 16), where values of DWELL above 20 act as 20; and ERRS, which saturates. -/
def scanSymbols (v : W32) : Nat := 2 ^ (min (bitsOf v 0 5).toNat 20 + 16)
def scanErrs (v : W32) (errs : Nat) : BitVec 30 := BitVec.ofNat 30 (min (min errs (scanSymbols v)) (2 ^ 30 - 1))

/-- LANE_EYE_CTL: ABORT ends the scan that runs; START begins one when none runs and the lane carries traffic. -/
def eyeCtlWrite (v : W32) (s : State) : Wrote :=
  let s := modLanes (fun u => { u with eyeCtl := v &&& 0x3FFFFFFF }) s
  let s := if bitAt v 30 && s.lanes.eyeBusy then modLanes cutScan s else s
  if !bitAt v 31 || bitAt v 30 || s.lanes.eyeBusy then wrote s
  else
    let lane : Byte := bitsOf v 22 8
    let on := decide ((portOf s (lane.toNat / 4)).state = .traffic) && !(portOf s (lane.toNat / 4)).quiet
    let (cut, s) := takeFree s
    wrote (modLanes (fun u => { u with
      eyeLane := lane, eyeBusy := on, eyeAborted := !on, eyeErrs := 0, eyeCut := scanErrs v (cut.toNat % (scanSymbols v + 1)) }) s)

/-- EYE_SCAN_DONE: the scan's disagreements, or its end with the lane's lock. -/
def eyeScanDone (errs : Nat) (lost : Bool) (s : State) : State :=
  if s.lanes.eyeBusy then
    modLanes (fun u => { u with eyeBusy := false, eyeAborted := lost, eyeErrs := scanErrs u.eyeCtl errs }) s
  else s
def execEyeScanDone (errs : Nat) (lost : Bool) (s : State) : Out := live s (eyeScanDone errs lost s)

end Sys2Proof.Machine
end

