-- ==== Sys2Proof/Machine/Membership.lean ====
section
/-! DEFINITION. Membership on a plane and in the rack, the device fault queue's commands, and drain (R391-R402, R410). -/

namespace Sys2Proof.Machine

open Sys2Proof

/-! ## The device fault queue (R391, R393) -/

/-- FAULT_MOVE: the oldest record of an end-point block moves into the device queue. -/
def faultMove (n : Nat) (s : State) : State :=
  match (epOf s n).faults with
  | [] => s
  | r :: rest => devRecord r (modEp n (fun e => { e with faults := rest }) s)
def execFaultMove (n : Nat) (s : State) : Out := liveIf (decide (n < 64)) "end-point block" s (faultMove n s)

/-- A read of GLB_FLT_DATA[0] shows the oldest unread record. -/
def showFault (s : State) : State := if s.glb.faults.isEmpty then s else modGlb (fun g => { g with shown := true }) s

/-- POP removes the shown record. -/
def popFault (s : State) : State :=
  if s.glb.shown then modGlb (fun g => { g with faults := g.faults.drop 1, shown := false }) s else s

/-- GLB_FLT_CTL. -/
def fltCtlWrite (v : W32) (s : State) : Wrote :=
  let s := modGlb (fun g => { g with notifyEn := bitAt v 30, notifySev := bitsOf v 28 2, notifyTally := bitsOf v 0 16 }) s
  wrote (if bitAt v 31 then popFault s else s)

/-! ## MEMBER frames (R165, R396, R397) -/

/-- A frame of the kind, or for LEAVING of no known kind. -/
def mbPick (kind : Nat) (wb : Header) : Bool :=
  decide (wbType wb = 0x31) && (decide (mbKind wb = kind) || (decide (kind = mkLeaving) && (decide (mbKind wb = 0) || decide (4 < mbKind wb))))

/-- Run `f` on a MEMBER frame of a kind; a presented one of no known kind is discarded and counted. -/
def takeMember (kind port : Nat) (src : Arrive Frame) (f : Frame → State → State) (s : State) : State :=
  takeCtrl port (mbPick kind) src (fun x _ s => if mbKind x.wb = kind then f x s else lateDisc .rte s) s

/-- The spine index of a MEMBER frame's sender. -/
def mbSpine (s : State) (wb : Header) : Nat := (bitsOf (wbSrc wb) 0 7).toNat - (leavesM1 s + 1)

/-- REACH at a leaf: a newer announcement replaces the spine's reach. -/
def takeReach (x : Frame) (s : State) : State :=
  let i := mbSpine s x.wb
  let mask : BitVec 64 := BitVec.ofNat 64 (fieldNat x.payload 0 8)
  let anno : W32 := BitVec.ofNat 32 (fieldNat x.payload 8 4)
  let newer := match tabGet none s.rte.reachOf i with
    | some (_, a) => decide (1 ≤ (anno - a).toNat) && decide ((anno - a).toNat < 2 ^ 31)
    | none => true
  if isLeaf s && newer then modRte (fun r => { r with reachOf := tabSet none r.reachOf i (some (mask, anno)) }) s else s
def execReach (port : Nat) (src : Arrive Frame) (s : State) : Out :=
  coreIf (decide (port < 128)) "port" s (takeMember mkReach port src takeReach s)

/-- The leaves to which a spine has a usable TRUNK port (R160). -/
def ownReach (s : State) : BitVec 64 := ofBits 64 ((trunksTo s fun _ => true).map (leafOfPort s))

/-- REACH_ANNOUNCE: a spine tells every leaf its reach. -/
def reachAnnounce (s : State) : State :=
  if !isSpine s then s
  else
    let mask := ownReach s
    let s := modRte (fun r => { r with anno := r.anno + 1, reachSent := mask }) s
    forEach (leafFnids s) (fun dst s =>
      emitFrame 127 (memberFrame s (myFnid s) dst mkReach (healthOf s) 0 0 (bvBytes mask ++ bvBytes s.rte.anno ++ zeros 20)) s) s
def execReachAnnounce (s : State) : Out := coreLive s (reachAnnounce s)

/-- The origin that an announcement names. MEMBER frames carry no port, so the port is that of RTE_DEST (assumption 36). -/
def mbOrigin (s : State) (wb : Header) (up : Bool) : Origin :=
  ⟨bitsOf (wbSrc wb) 0 6, BitVec.ofNat 6 (destPort (destOf s (mbSubject wb))), mbIncarn wb, up⟩

/-- ATTACH or DETACH: it is applied, and a spine forwards one copy to every other leaf. -/
def takeAttach (up : Bool) (x : Frame) (s : State) : State :=
  let wb := x.wb
  let s := applyOrigin (mbSubject wb) (mbOrigin s wb up) s
  if isSpine s then
    forEach ((leafFnids s).filter fun f => decide (f ≠ wbSrc wb)) (fun dst s =>
      emitFrame 127 (mkFrame (sealHdr (hdrPut wb 6 2 dst.toNat)) []) s) s
  else s
def execAttach (port : Nat) (src : Arrive Frame) (s : State) : Out :=
  coreIf (decide (port < 128)) "port" s (takeMember mkAttach port src (takeAttach true) s)
def execDetach (port : Nat) (src : Arrive Frame) (s : State) : Out :=
  coreIf (decide (port < 128)) "port" s (takeMember mkDetach port src (takeAttach false) s)

/-- LEAVING informs and changes no path. -/
def execLeaving (port : Nat) (src : Arrive Frame) (s : State) : Out :=
  coreIf (decide (port < 128)) "port" s (takeMember mkLeaving port src (fun _ s => s) s)

/-- ATTACH_RESEND: the current ATTACH or DETACH of every EDGE port that has announced one. -/
def attachResend (s : State) : State :=
  forEach ((List.range 64).filter fun n => isEdge s n && decide ((epOf s n).incarn ≠ 0) && decide ((epOf s n).srcFnid.toNat < 0x800))
    (fun n s => sendAttach n (decide ((epOf s n).attach = .ready)) s) s
def execAttachResend (s : State) : Out := coreLive s (attachResend s)

/-- LEAVING_SEND: a draining module tells the peers of its usable TRUNK ports. -/
def leavingSend (s : State) : State :=
  if s.glb.drainReq then
    forEach (((trunksTo s fun _ => true).filterMap (trunkPeer s)).eraseDups) (fun dst s =>
      emitFrame 127 (memberFrame s (myFnid s) dst mkLeaving (healthOf s) 0 0 []) s) s
  else s
def execLeavingSend (s : State) : Out := coreLive s (leavingSend s)

/-! ## Drain (R410) -/

/-- DRAINED: it reads 1 in a drain alone, and 0 at reset. DEDUCED (assumption 56). -/
def drained (s : State) : Bool :=
  s.glb.drainReq && (allPoints s).all (fun p => decide (ctxsUsed (relOf s p) = 0) && (relOf s p).rx.all fun x => x.2.held.isEmpty)
    && (s.col.slots.all fun x => decide (x.2.state ≠ .live))
    && (s.svc.svcs.all fun x => decide (x.2.state ≠ .active))
    && s.tick.active.isEmpty
    && (s.pool.held.all fun x => decide (x.1 % 4 = 3) || decide (x.2 = 0))

/-- GLB_DRAIN_CTL. The channels' combining buffers are written back before a drain (R212). -/
def drainCtlWrite (v : W32) (s : State) : Wrote :=
  let s := if bitAt v 31 && !s.glb.drainReq then forEach (s.mem.channels.map (·.1)) drainChannel s else s
  wrote (modGlb (fun g => { g with drainReq := bitAt v 31 }) s)

/-! ## The rack roster (R398-R402) -/

/-- GLB_ROSTER_CFG[h]: enabled, and the port. -/
def rosterEn (s : State) (h : Nat) : Bool := bitAt (tabGet 0 s.glb.rosterCfg h) 31
def rosterPort (v : W32) : Nat := (bitsOf v 0 6).toNat
def rosterHosts (s : State) : List Nat := [0, 1].filter (rosterEn s)

/-- A write of GLB_ROSTER_CFG[h]: an unaligned address or a port that is not EDGE leaves EN at 0. -/
def rosterCfgWrite (h : Nat) (v : W32) (s : State) : Wrote :=
  let ok := bitAt v 31 && decide ((tabGet 0 s.glb.rosterAddr h).toNat % 4096 = 0) && isEdge s (rosterPort v)
  wrote (modGlb (fun g => { g with rosterCfg := tabSet 0 g.rosterCfg h (pack [(31, ofB ok), (0, rosterPort v)]) }) s)

/-- GLB_ROSTER_ADDR_LO[h] and _HI[h]. -/
def rosterAddrWrite (h : Nat) (hi : Bool) (v : W32) (s : State) : Wrote :=
  wrote (modGlb (fun g => { g with rosterAddr := tabMod 0 g.rosterAddr h (fun a => putBits a (if hi then 32 else 0) 32 v.toNat) }) s)

/-- GLB_MEMB_CFG. -/
def membCfgWrite (v : W32) (s : State) : Wrote :=
  wrote (modGlb (fun g => { g with membEn := bitAt v 31, membMiss := bitsOf v 16 4, membHbUs := bitsOf v 0 16 }) s)

def missLimit (s : State) : Nat := max 1 s.glb.membMiss.toNat

/-- The word index of a module (R398). -/
def rosterIndex (f : BitVec 12) : Nat := 96 * (bitsOf f 7 4).toNat + (bitsOf f 0 7).toNat

/-! ## The heartbeat (R399-R401) -/

/-- The valid shard-group entries. -/
def ecGroups (s : State) : List (BitVec 384) := ((List.range 8).map (ecEntryOf s)).filter ecValid

/-- The other modules of this module's shard groups. -/
def rosterMembers (s : State) : List (BitVec 12) :=
  (((ecGroups s).flatMap fun e => (List.range 10).map (ecMember e)).eraseDups).filter fun f => decide (f ≠ myFnid s)

/-- One host's read of a member's word: the HB seen and the unchanged reads since it advanced. -/
def trackHost (hb : Option W32) (still : Nat) (w : Option (BitVec 64)) : Option W32 × Nat :=
  match w with
  | none => (hb, still)
  | some x => (some (bitsOf x 0 32), if hb = some (bitsOf x 0 32) then still + 1 else 0)

/-- The word at index `i` of a roster, as reads show it. -/
def wordAt (r : RosterRead) (i : Nat) : Option (BitVec 64) := (tabGet none r.lines (i / 8)).map fun d => bitsOf d (64 * (i % 8)) 64

/-- The word index of a group's view word (R398). -/
def viewIndex (gid : Nat) : Nat := 0x600 + gid

/-- The shard groups of this module with a member, each with the VEPOCH that it has adopted. -/
def dueGroups (s : State) (f : BitVec 12) : List (Nat × W32) :=
  ((ecGroups s).filter fun e => (List.range 10).any fun r => decide (ecMember e r = f)).map fun e => (ecGid e, vwEpoch (viewOf s (ecGid e)))

/-- Follow a member through one heartbeat. An INCARN that differs from the one last seen makes it STALE-DUE in each group. -/
def trackMember (r0 r1 : RosterRead) (f : BitVec 12) (s : State) : State :=
  let t := tabGet {} s.glb.tracks f.toNat
  let w0 := wordAt r0 (rosterIndex f)
  let w1 := wordAt r1 (rosterIndex f)
  let (hb0, still0) := trackHost t.hb0 t.still0 w0
  let (hb1, still1) := trackHost t.hb1 t.still1 w1
  let faulty (w : Option (BitVec 64)) : Bool := match w with | some x => decide (bitsOf x 32 2 = 1) | none => false
  let silent := !(rosterHosts s).isEmpty && (rosterHosts s).all fun h => decide (missLimit s ≤ if h = 0 then still0 else still1)
  let suspect := silent || faulty w0 || faulty w1
  let inc := match w0 with | some x => some (bitsOf x 40 8) | none => w1.map fun x => bitsOf x 40 8
  let fresh := match t.incarn, inc with | some a, some b => decide (a ≠ b) | _, _ => false
  let new : MemberTrack := { hb0 := hb0, still0 := still0, hb1 := hb1, still1 := still1, suspect := suspect
                             due := if fresh then dueGroups s f else t.due
                             incarn := match inc with | some b => some b | none => t.incarn }
  let s := modGlb (fun g => { g with tracks := tabSet {} g.tracks f.toNat new }) s
  if suspect && !t.suspect then devFault0 0x90 sevWarn (f.toNat - 0x800) 0 s else s

def suspects (s : State) (f : BitVec 12) : Bool := (tabGet {} s.glb.tracks f.toNat).suspect
def staleDue (s : State) (f : BitVec 12) (gid : Nat) : Bool := (tabGet {} s.glb.tracks f.toNat).due.any fun x => decide (x.1 = gid)

/-- A member is STALE-DUE in a group no longer. -/
def notDue (f : BitVec 12) (gid : Nat) (s : State) : State :=
  modGlb (fun g => { g with tracks := tabMod {} g.tracks f.toNat (fun t => { t with due := t.due.filter fun x => decide (x.1 ≠ gid) }) }) s

/-- The rank that a coordinator changes the view for: the lowest (assumption 37). -/
def viewChange (s : State) (e : BitVec 384) (w : BitVec 64) : Option Nat :=
  let live (r : Nat) : Bool := bitAt (vwLive w) r
  let lead := (List.range (ecMyRank e)).all fun r => !live r || suspects s (ecMember e r)
  if !lead then none
  else (List.range 10).find? fun r => decide (ecMember e r ≠ myFnid s) && ((live r && suspects s (ecMember e r)) || staleDue s (ecMember e r) (ecGid e))

/-- A view word with a rank STALE, and no longer LIVE where it is SUSPECT, under the next VEPOCH (R400). -/
def changedView (s : State) (e : BitVec 384) (w : BitVec 64) (r : Nat) : BitVec 64 :=
  let bit := BitVec.ofNat 10 (2 ^ r)
  vwMake (vwEpoch w + 1) (if suspects s (ecMember e r) then vwLive w &&& ~~~bit else vwLive w) (vwStale w ||| bit)

/-- Members that a view word adopted since shows STALE are STALE-DUE in the group no longer. -/
def settleDue (e : BitVec 384) (w : BitVec 64) (s : State) : State :=
  forEach (List.range 10) (fun r s =>
    let f := ecMember e r
    let seen := (tabGet {} s.glb.tracks f.toNat).due.any fun x => decide (x.1 = ecGid e) && decide (x.2 ≠ vwEpoch w)
    if seen && bitAt (vwStale w) r then notDue f (ecGid e) s else s) s

/-! ## Accesses to the roster hosts (R82, R398, R399) -/

/-- A host's roster at byte offset `off`. -/
def rosterAt (s : State) (h off : Nat) : Nat := (tabGet 0 s.glb.rosterAddr h).toNat + off

/-- One access to a roster host, which the block of its port sends as `send` says; `ok` is its result, that of the command. It fails where the
block is not READY (R82). HOST_OK shows the last one, and a failed one leaves a MEMB_ROSTER record (R400, R402). -/
def rosterAccess (h : Nat) (ok : Bool) (send : Nat → State → State) (s : State) : Bool × State :=
  let n := rosterPort (tabGet 0 s.glb.rosterCfg h)
  let ready := decide ((epOf s n).attach = .ready)
  let s := if ready then send n s else s
  let s := modGlb (fun g => { g with hostOk := putBits g.hostOk h 1 (ofB (ready && ok)) }) s
  (ready && ok, if ready && ok then s else devFault0 0x92 sevWarn h 0 s)

/-- This module's word (R398). -/
def ownWord (s : State) : BitVec 64 :=
  BitVec.ofNat 64 (s.glb.hb.toNat + healthOf s * 2 ^ 32 + s.mgt.incarn.toNat * 2 ^ 40 + (myFnid s).toNat * 2 ^ 48)

/-- Write the module's word to host `h`. -/
def writeWord (h : Nat) (ok : Bool) (s : State) : Bool × State :=
  if !rosterEn s h then (false, s)
  else rosterAccess h ok (fun n s => hostAccess n .gone 0x42 (rosterAt s h (8 * rosterIndex (myFnid s))) 8 (bvBytes (ownWord s)) s) s

/-- The lines that hold the words of every member of this module's shard groups, and those groups' view words. -/
def rosterLines (s : State) : List Nat :=
  (((ecGroups s).flatMap fun e => (List.range 10).map fun r => rosterIndex (ecMember e r) / 8)
    ++ (ecGroups s).map fun e => viewIndex (ecGid e) / 8).eraseDups

/-- Read those lines from host `h`; what the command says of a line counts where it could be read. -/
def readLines (h : Nat) (read : RosterRead) : List Nat → State → RosterRead × State
  | [], s => (⟨[]⟩, s)
  | l :: ls, s =>
    let d := tabGet none read.lines l
    let (ok, s) := rosterAccess h d.isSome (fun n s => hostAccess n .gone 0x41 (rosterAt s h (64 * l)) 64 [] s) s
    let (r, s) := readLines h read ls s
    (⟨tabSet none r.lines l (if ok then d else none)⟩, s)
def readHost (h : Nat) (read : RosterRead) (s : State) : RosterRead × State := if rosterEn s h then readLines h read (rosterLines s) s else (⟨[]⟩, s)

/-- The CAS of a group's view word on host 0. -/
def casView (e : BitVec 384) (old new : BitVec 64) (how : CasEnd) (s : State) : Bool × State :=
  let (ok, s) := rosterAccess 0 (decide (how ≠ .failed)) (fun n s => hostCas n .gone (rosterAt s 0 (8 * viewIndex (ecGid e))) new.toNat old.toNat s) s
  (ok && decide (how = .won), s)

/-- A group's part of a heartbeat: adopt the view word read, and change it by a CAS when this module coordinates (R400). -/
def groupBeat (r0 : RosterRead) (cas : List (Nat × CasEnd)) (e : BitVec 384) (s : State) : State :=
  match wordAt r0 (viewIndex (ecGid e)) with
  | none => s
  | some w =>
    let old := viewOf s (ecGid e)
    let s := settleDue e w (modGlb (fun g => { g with viewWords := tabSet 0 g.viewWords (ecGid e) w }) s)
    let s := match s.mem.ecOp with
      | some o => if ecGid (ecEntryOf s o.entry) = ecGid e ∧ vwEpoch w ≠ vwEpoch old ∧ vwEpoch w ≠ o.vepoch then endEc 2 s else s
      | none => s
    match viewChange s e w with
    | none => s
    | some r =>
      let (won, s) := casView e w (changedView s e w r) (tabGet .lost cas (ecGid e)) s
      if won then devFault0 0x91 sevInfo (ecGid e) 0 (notDue (ecMember e r) (ecGid e) (modGlb (fun g => { g with views := satAdd g.views 1 }) s)) else s

/-- The writes of a period (R401): ISOLATED after MISS periods without one. -/
def writesBeat (any : Bool) (s : State) : State :=
  if any then modGlb (fun g => { g with missed := 0, isolated := false }) s
  else
    let s := modGlb (fun g => { g with missed := g.missed + 1 }) s
    if missLimit s ≤ s.glb.missed ∧ !s.glb.isolated then
      endEc 4 (devFault0 0x93 sevError 0 0 (modGlb (fun g => { g with isolated := true }) s))
    else s

/-- ROSTER_HEARTBEAT: the accesses of one period, whose results the command brings (R399; DESIGN CHOICE, assumption 73). -/
def rosterHeartbeat (wrote0 wrote1 : Bool) (read0 read1 : RosterRead) (cas : List (Nat × CasEnd)) (s : State) : State :=
  if !s.glb.membEn then s
  else
    let s := modGlb (fun g => { g with hb := g.hb + 1 }) s
    let (ok0, s) := writeWord 0 wrote0 s
    let (ok1, s) := writeWord 1 wrote1 s
    let s := writesBeat (ok0 || ok1) s
    let (r0, s) := readHost 0 read0 s
    let (r1, s) := readHost 1 read1 s
    let s := forEach (rosterMembers s) (trackMember r0 r1) s
    forEach (ecGroups s) (groupBeat r0 cas) s
def execRosterHeartbeat (wrote0 wrote1 : Bool) (read0 read1 : RosterRead) (cas : List (Nat × CasEnd)) (s : State) : Out :=
  coreLive s (rosterHeartbeat wrote0 wrote1 read0 read1 cas s)

end Sys2Proof.Machine
end

