-- ==== Sys2Proof/Machine/Power.lean ====
section
/-! DEFINITION. Power: the input, the power states and tolerances, the cap and its throttle, and temperature (R383, R413-R433). That a
part has been idle for its time of PWR_IDLE_CFG is the event that brings an entry command; its other conditions are judged here. -/

namespace Sys2Proof.Machine

open Sys2Proof

/-! ## The input (R413) -/

/-- The ledger entry of a power event (R513): 1 input shutdown, 2 cap excursion, 3 thermal trip. -/
def powerEntry (event cause value more : Nat) (s : State) : State :=
  ledgerDevice 10 0 (detailOf [(0, 1, event), (1, 1, cause), (2, 2, value), (4, 2, more)]) s

/-- The bands of R413, in mV: the ends of 19.5-21.0 V or 27.0-28.5 V, and of the operating range. -/
def vinWarns (above : Bool) (mv : BitVec 16) : Bool :=
  if above then decide (27000 < mv.toNat) && decide (mv.toNat ≤ 28500) else decide (19500 ≤ mv.toNat) && decide (mv.toNat < 21000)
def vinShuts (above : Bool) (mv : BitVec 16) : Bool := if above then decide (28500 < mv.toNat) else decide (mv.toNat < 19500)

/-- VIN_WARN: 1 ms in the band below or above the operating range. -/
def vinWarn (above : Bool) (mv : BitVec 16) (s : State) : State :=
  if vinWarns above mv then devFault0 0xA0 sevWarn (ofB above) 0 (modPwr (fun p => { p with vinMv := mv }) s) else s
def execVinWarn (above : Bool) (mv : BitVec 16) (s : State) : Out := live s (vinWarn above mv s)

/-- Every combining buffer is written back and every stack enters self-refresh (R212, R420). -/
def stacksAsleep (s : State) : State := allStacks .selfRefresh (forEach (s.mem.channels.map (·.1)) drainChannel s)

/-- Every port leaves the state it is in and waits in RESET, its CAUSE kept. A DISABLED port stays so. -/
def portsDown (s : State) : State :=
  forEach (List.range 64) (fun n => forgetPort n (if (portOf s n).state = .disabled then .disabled else .reset) (some (portOf s n).cause))
    (forEach (List.range 64) quitTraffic s)

/-- Entries of the ledger queue reach the store within the hold-up time, `k` of them; the rest count as lost for the next boot (R473). -/
def holdUp : Nat → State → State
  | 0, s => modMgt (fun m => { m with lostWaiting := m.lostWaiting + m.queue.length, queue := [] }) s
  | k + 1, s => holdUp k (ledgerStoreOne s)

/-- INPUT_SHUTDOWN: 100 µs below 19.5 V or above 28.5 V. `written` queued entries reached the store. -/
def inputShutdown (above : Bool) (mv : BitVec 16) (written : Nat) (s : State) : State :=
  if !vinShuts above mv then s
  else
  let s := powerEntry 1 (ofB above) mv.toNat 0 s
  let s := stacksAsleep (portsDown s)
  modPwr (fun p => { p with powered := false, vinMv := mv }) (holdUp (min written s.mgt.queue.length) s)
def execInputShutdown (above : Bool) (mv : BitVec 16) (written : Nat) (s : State) : Out := live s (inputShutdown above mv written s)

/-! ## Exit latencies and tolerances (R415, R416) -/

def exitP1 : Nat := 200
def exitP2 : Nat := 2000
def exitP3 : Nat := 50000
def exitP4 : Nat := 5000000

def portTolerance (s : State) (n : Nat) : Nat := (tabGet 0 s.pwr.ltrPort n).toNat
def nodeTolerance (s : State) : Nat := s.pwr.ltrNode.toNat
/-- What port `n` has sent since it was reset: attach messages, and items of its line. -/
def portSent (s : State) (n : Nat) : Nat × Nat := ((epOf s n).sent.length, (portOf s n).line.length)
/-- The power state of a port. It has left P1 once it has sent anything (R418). -/
def portPower (s : State) (n : Nat) : Nat :=
  let p := (tabGet 0 s.pwr.portState n).toNat
  if p = 1 ∧ tabGet (0, 0) s.pwr.portRest n ≠ portSent s n then 0 else p
def setPortPower (n : Nat) (p : BitVec 2) (s : State) : State :=
  modPwr (fun x => { x with portState := tabSet 0 x.portState n p, portRest := tabSet (0, 0) x.portRest n (portSent s n) }) s

/-! ## Entries (R417) -/

/-- No frame, a FLOW frame too, waits to leave by the port, and no attach message waits to be sent. -/
def portIdle (s : State) (n : Nat) : Bool :=
  ([0, 1, 2, 3].all fun c => (queueOf s n c).isEmpty) && !tabGet false s.swc.flowDue n && (epOf s n).dlvQueue.isEmpty && (epOf s n).rspWait.isEmpty

/-- PORT_P1_ENTRY. -/
def portP1Entry (n : Nat) (s : State) : State :=
  if (portOf s n).state = .traffic ∧ portPower s n = 0 ∧ !(portOf s n).quieting ∧ exitP1 ≤ portTolerance s n ∧ portIdle s n then
    setPortPower n 1 s
  else s
def execPortP1Entry (n : Nat) (s : State) : Out := liveIf (decide (n < 64)) "port" s (portP1Entry n s)

/-- A roster, or a relay of a shard group, uses the port. -/
def portServes (s : State) (n : Nat) : Bool :=
  ((rosterHosts s).any fun h => decide (rosterPort (tabGet 0 s.glb.rosterCfg h) = n))
    || (List.range 8).any fun e => ecValid (ecEntryOf s e) && ecRelay (ecEntryOf s e) && decide ((bitsOf (ecEntryOf s e) 280 6).toNat = n)

/-- The conditions of port P3. -/
def portMayQuiet (s : State) (n : Nat) : Bool :=
  let e := epOf s n
  isEdge s n && portIdle s n && decide (ctxsUsed e.rel = 0) && e.descs.isEmpty && (e.dlvSlots.all fun x => x.2.busy.isNone)
    && (s.tick.active.all fun x => !(decide (entKind x = kindXfer) && decide (entPort x = n))) && !portServes s n

/-- QUIET_ENTRY: QUIET cells for 16 slots, and the controller's answer is awaited (R454). -/
def quietEntry (n : Nat) (s : State) : State :=
  let p := portOf s n
  if p.state = .traffic ∧ !p.quiet ∧ !p.quieting ∧ exitP3 ≤ portTolerance s n ∧ portMayQuiet s n then
    sendCells n (List.replicate 16 (mkCell [6])) (modPort n (fun p => { p with quieting := true }) s)
  else s
def execQuietEntry (n : Nat) (s : State) : Out := liveIf (decide (n < 64)) "port" s (quietEntry n s)

/-- Cycles from position `cyc` of this tick to the START of an entry. -/
def untilStart (s : State) (cyc : Nat) (e : BitVec 128) : Nat :=
  let ticks := cfgCycle s.tick.act1 + 1
  let away := (entTick e + ticks - tickIndex s) % ticks
  let at_ := away * actPeriod s + entStart e
  if cyc < at_ then at_ - cyc else at_ + ticks * actPeriod s - cyc

/-- The conditions of group P2. -/
def groupMayGate (s : State) (g cyc : Nat) : Bool :=
  (s.arr.arrays.all fun a => decide (a.1 / 72 ≠ g) || a.2.run.isNone)
    && (match s.arr.loadBusy with | some (a, _, _) => decide (a / 72 ≠ g) | none => true)
    && (s.svc.svcs.all fun v => decide (v.2.state = .empty) || decide (eGroup v.2.entry ≠ g))
    && (s.col.slots.all fun x => x.2.bound.all fun m => match m.binder with | .cb h _ => decide (h ≠ g) | _ => true)
    && (s.col.held.all fun m => match m.binder with | .cb h _ => decide (h ≠ g) | _ => true)
    && (s.tick.active.all fun e => !(decide (entKind e = kindArray) && decide (entArray e / 72 = g)) || decide (3125 < untilStart s cyc e))

/-- GROUP_P2_ENTRY: the store and the program slots are retained, and the cells of an idle array hold nothing. -/
def groupP2Entry (g cyc : Nat) (s : State) : State :=
  if exitP2 ≤ nodeTolerance s ∧ groupMayGate s g cyc then modPwr (fun p => { p with gated := p.gated ||| BitVec.ofNat 12 (2 ^ g) }) s else s
def execGroupP2Entry (g cyc : Nat) (s : State) : Out := liveIf (decide (g < 12)) "array group" s (groupP2Entry g cyc s)

/-- A frame of the module's own units, on its way in the switch core, is for this module. -/
def frameForMe (s : State) (f : Frame) : Bool := decide (wbDst f.wb = myFnid s)

/-- No memory-region access is queued or in flight: at a channel, in an egress queue of a node port, at a node port, on its way from a
unit of this module, or held for reorder at the RTE. -/
def noMemWork (s : State) : Bool :=
  (s.mem.channels.all fun c => c.2.queue.isEmpty) && (s.swc.nodeIn.all fun x => x.2.isEmpty) && (s.rte.rel.rx.all fun x => x.2.held.isEmpty)
    && (s.swc.inbound.all fun x => x.2.all fun f => !frameForMe s f.1)

/-- The conditions of node P3. -/
def nodeMaySleep (s : State) : Bool :=
  s.tick.active.isEmpty && decide (s.pwr.gated = 0xFFF) && noMemWork s
    && ((List.range 48).all fun k => [0, 1, 2, 3].all fun c => (queueOf s (64 + k) c).isEmpty)
    && !mirEn s.swc.mirrorCtl && !s.rte.cmapEn && !s.mem.tenantBusy

/-- NODE_P3_ENTRY. -/
def nodeP3Entry (s : State) : State :=
  if s.pwr.node = 0 ∧ exitP3 ≤ nodeTolerance s ∧ nodeMaySleep s then stacksAsleep (modPwr (fun p => { p with node := 3 }) s) else s
def execNodeP3Entry (s : State) : Out := live s (nodeP3Entry s)

/-- NODE_P4_ENTRY: every EDGE port is in P3 and no TRUNK port carries traffic. -/
def nodeP4Entry (s : State) : State :=
  if s.pwr.node = 3 ∧ exitP4 ≤ nodeTolerance s
      ∧ (List.range 64).all fun n => (!isEdge s n || decide (portPower s n = 3)) && !(isTrunk s n && decide ((portOf s n).state = .traffic)) then
    modPwr (fun p => { p with node := 4 }) s
  else s
def execNodeP4Entry (s : State) : Out := live s (nodeP4Entry s)

/-! ## Wakes (R418-R420) -/

/-- An array group leaves P2, and with it the node P3 or P4. -/
def wakeGroup (g : Nat) (s : State) : State :=
  if s.pwr.tripped then s
  else modPwr (fun p => { p with gated := p.gated &&& ~~~(BitVec.ofNat 12 (2 ^ g)) }) (wakeNode s)

/-- A port leaves P1, or P3 by wake signalling and a relock, which `ok` says has ended well (R454). -/
def wakePort (n : Nat) (ok : Bool) (s : State) : State :=
  if (portOf s n).quiet then relock n ok (putItems n [.wake] s)
  else setPortPower n 0 (modPort n (fun p => { p with quieting := false }) s)

/-- WAKE. -/
def execWake (what : WakePart) (s : State) : Out :=
  match what with
  | .port n ok => liveIf (decide (n < 64)) "port" s (wakePort n ok s)
  | .group g => liveIf (decide (g < 12)) "array group" s (wakeGroup g s)
  | .node => live s (wakeNode s)

/-- GROUP_PREWAKE: the power controller wakes the group that an ARRAY entry names. -/
def groupPrewake (e : Nat) (s : State) : State :=
  match s.tick.active[e]? with
  | some x => if entKind x = kindArray then wakeGroup (entArray x / 72) s else s
  | none => s
def execGroupPrewake (e : Nat) (s : State) : Out := live s (groupPrewake e s)

/-- PWR_LTR_PORT[n]: a port in too deep a state leaves for the deepest one allowed. Whether a quiet port relocks is a free value (R454,
assumption 5). -/
def ltrPortWrite (n : Nat) (v : W32) (s : State) : Wrote :=
  let t : BitVec 24 := bitsOf v 0 24
  let leaves := decide (portPower s n = 3) && decide (t.toNat < exitP3)
  let (relocked, s) := takeFree s
  let s := if leaves then wakePort n (bitAt relocked 0) s else s
  let s := if t.toNat < exitP3 then modPort n (fun p => { p with quieting := false }) s else s
  let s := if leaves then setPortPower n (if exitP1 ≤ t.toNat ∧ (portOf s n).state = .traffic then 1 else 0) s
    else if portPower s n = 1 ∧ t.toNat < exitP1 then setPortPower n 0 s else s
  wrote (modPwr (fun p => { p with ltrPort := tabSet 0 p.ltrPort n t }) s)

/-- PWR_LTR_NODE: the node and its groups likewise. -/
def ltrNodeWrite (v : W32) (s : State) : Wrote :=
  let s := modPwr (fun p => { p with ltrNode := bitsOf v 0 24 }) s
  let t := nodeTolerance s
  if s.pwr.tripped then wrote s
  else
    let s := if s.pwr.node.toNat = 4 ∧ t < exitP4 then
        (if exitP3 ≤ t then stacksAsleep (modPwr (fun p => { p with node := 3 }) (wakeNode s)) else wakeNode s)
      else if s.pwr.node.toNat = 3 ∧ t < exitP3 then wakeNode s
      else s
    wrote (if t < exitP2 then modPwr (fun p => { p with gated := 0 }) s else s)

/-- PWR_IDLE_CFG and PWR_CAP_CTL (R421, R428). -/
def idleCfgWrite (v : W32) (s : State) : Wrote := wrote (modPwr (fun p => { p with idleCfg := v }) s)
def capCtlWrite (v : W32) (s : State) : Wrote :=
  wrote (modPwr (fun p => { p with cutLevel := bitsOf v 28 4, margin := bitsOf v 20 8, swCapW := bitsOf v 0 11 }) s)

/-! ## The cap and the throttle (R423-R429) -/

/-- CAP_W: the effective cap. -/
def capW (s : State) : Nat := max 300 (min 1400 (min s.pwr.hwCapW s.pwr.swCapW.toNat))

/-- CAP_PWM_PERIOD: the duty is `high` of `period`. -/
def capPwmPeriod (high period : Nat) (s : State) : State :=
  if period = 0 ∨ period < high then s
  else modPwr (fun p => { p with hwCapW := (300 * period + 1100 * high) / period, pwmOk := true }) s
def execCapPwmPeriod (high period : Nat) (s : State) : Out := live s (capPwmPeriod high period s)

/-- CAP_PWM_LOSS. -/
def execCapPwmLoss (s : State) : Out := live s (modPwr (fun p => { p with hwCapW := 1400, pwmOk := false }) s)

/-- A clock cut stretches every run (R425). -/
def cutRuns (s : State) : State :=
  modArr (fun u => { u with arrays := u.arrays.map fun a => (a.1, { a.2 with run := a.2.run.map fun r => { r with cut := true } }) }) s

/-- Change the power registers. Runs are cut when the level applied to them, of power and temperature, leaves 0, and CLOCK_CUT is set when
it or the power level L does (R425, R431). -/
def throttle (f : Pwr → Pwr) (s : State) : State :=
  let t := modPwr f s
  let t := if appliedLevel s = 0 ∧ 0 < appliedLevel t then setRepro 1 (cutRuns t) else t
  if s.pwr.level = 0 ∧ 0 < t.pwr.level then setRepro 1 t else t

/-- A fast clock cut (R426), which starts an excursion or extends the one that runs (R427). -/
def fastCut (s : State) : State :=
  throttle (fun p => { p with level := max p.level (max 1 p.cutLevel.toNat), excursion := some (p.excursion.getD (0, 0)) }) s

/-- CAP_ALERT_N falls. -/
def capAlertN (s : State) : State := if s.pwr.alert then s else fastCut (modPwr (fun p => { p with alert := true }) s)
def execCapAlertN (s : State) : Out := live s (capAlertN s)

/-- CAP_ALERT_N_RELEASE. -/
def execCapAlertNRelease (s : State) : Out := live s (modPwr (fun p => { p with alert := false }) s)

/-- POWER_SAMPLE: `mv` × `ma` µW over 5 µs, whose energy counts in picojoules; too large a sample cuts the clock. -/
def powerSample (mv : BitVec 16) (ma : Nat) (s : State) : State :=
  let uw := mv.toNat * ma
  let s := modPwr (fun p =>
    let e := p.energyFrac + 5 * uw
    { p with vinMv := mv, energy := p.energy + BitVec.ofNat 64 (e / 1000000000), energyFrac := e % 1000000000 }) s
  if (capW s + 5 * s.pwr.margin.toNat) * 1000000 < uw then fastCut s else s
def execPowerSample (mv : BitVec 16) (ma : Nat) (s : State) : Out := live s (powerSample mv ma s)

/-- The excursion at a settle evaluation with a mean of `mean` (R427): it starts, goes on, or ends with its record. -/
def settleExcursion (mean : Nat) (s : State) : State :=
  let cap := capW s
  match s.pwr.excursion with
  | none => if cap < mean then modPwr (fun p => { p with excursion := some (mean - cap, 0) }) s else s
  | some (peak, dur) =>
    if cap < mean then modPwr (fun p => { p with excursion := some (max peak (mean - cap), dur + 10) }) s
    else
      let s := modPwr (fun p => { p with
        excursion := none, peakW := BitVec.ofNat 11 (min peak 2047), dur := BitVec.ofNat 13 (min (dur + 10) 8191), excCnt := satAdd p.excCnt 1 }) s
      powerEntry 2 0 s.pwr.peakW.toNat s.pwr.dur.toNat (devFault0 0xA1 sevWarn 0 s.pwr.peakW.toNat s)

/-- CAP_UNMET (R426): level 19 for ten evaluations, 1 ms, with the draw above the cap. -/
def settleUnmet (mean : Nat) (s : State) : State :=
  if s.pwr.level = 19 ∧ capW s < mean then
    let n := s.pwr.topSettles + 1
    let s := modPwr (fun p => { p with topSettles := n }) s
    if 10 ≤ n ∧ !s.pwr.capUnmet then devFault0 0xA2 sevError 0 0 (modPwr (fun p => { p with capUnmet := true }) s) else s
  else modPwr (fun p => { p with topSettles := 0, capUnmet := false }) s

/-- POWER_SETTLE: the mean draw of the last 100 µs moves the level by one. -/
def powerSettle (mean : Nat) (s : State) : State :=
  let s := modPwr (fun p => { p with pinW := BitVec.ofNat 16 (min mean 65535) }) s
  let cap := capW s
  let s := settleExcursion mean (settleUnmet mean s)
  if cap < mean then throttle (fun p => { p with level := min 19 (p.level + 1) }) s
  else if mean + 20 < cap then modPwr (fun p => { p with level := p.level - 1 }) s
  else s
def execPowerSettle (meanW : Nat) (s : State) : Out := live s (powerSettle meanW s)

/-! ## Temperature (R383, R431) -/

/-- Park the node in P4 with every port out of its traffic state: array groups lose what runs in them. -/
def parkNode (s : State) : State :=
  let s := stacksAsleep (portsDown s)
  let s := forEach (List.range 12) cbLevel2 s
  modPwr (fun p => { p with node := 4, gated := 0xFFF }) s

/-- A thermal trip: its record and ledger entry, and the module is parked until a full reset. `stack` is none for the die. -/
def thermalTrip (stack : Option Nat) (temp : Byte) (s : State) : State :=
  if s.pwr.tripped then s
  else
    let s := devFault0 0xA4 sevFatal (stack.getD 0xFFFF) 0 s
    let s := powerEntry 3 (ofB stack.isSome) temp.toNat (stack.getD 0) s
    parkNode (modPwr (fun p => { p with tripped := true }) s)

/-- The stacks at CLASS_NEED 3. -/
def hotStacks (s : State) : List Nat := (List.range 24).filter fun k => decide ((stackOfN s k).classNeed = 3)

/-- The PWR_THERM records of a sample: ERROR while the thermal level rises, else WARN. -/
def thermRecords (temp : Byte) (rises : Bool) (s : State) : State :=
  let sev := if rises then sevError else sevWarn
  let s := if 100 ≤ temp.toNat then devFault0 0xA3 (if 105 ≤ temp.toNat then sev else sevWarn) 0xFFFF 0 s else s
  if rises then forEach (hotStacks s) (fun k s => devFault0 0xA3 sevError k 0 s) s else s

/-- DIE_TEMP_SAMPLE. -/
def dieTempSample (temp : Byte) (s : State) : State :=
  let s := modPwr (fun p => { p with dieTemp := temp, diePeak := if p.diePeak.toNat < temp.toNat then temp else p.diePeak
                                     dieHot := if 115 ≤ temp.toNat then p.dieHot + 1 else 0 }) s
  let hot := decide (105 ≤ temp.toNat) || !(hotStacks s).isEmpty
  let rises := hot && decide (s.pwr.thermLevel.toNat < 19)
  let cool := decide (temp.toNat < 102) && (hotStacks s).isEmpty
  let s := thermRecords temp rises s
  let s := if rises then throttle (fun p => { p with thermLevel := p.thermLevel + 1 }) s
    else if cool then modPwr (fun p => { p with thermLevel := p.thermLevel - BitVec.ofNat 5 (ofB (decide (p.thermLevel ≠ 0))) }) s
    else s
  if 2 ≤ s.pwr.dieHot then thermalTrip none temp s else s
def execDieTempSample (temp : Byte) (s : State) : Out := live s (dieTempSample temp s)

/-- The highest temperature of a refresh class (R229). -/
def classLimit (c : Nat) : Nat := match c with | 0 => 85 | 1 => 95 | _ => 105

/-- The lowest class that covers a temperature, 3 above 105 °C (R383). -/
def classFor (temp : Nat) : Nat := if temp ≤ 85 then 0 else if temp ≤ 95 then 1 else if temp ≤ 105 then 2 else 3

/-- CLASS_NEED after a sample: it rises at once, and falls by one with 3 °C to spare. -/
def nextClassNeed (old temp : Nat) : Nat :=
  if old < classFor temp then classFor temp
  else if 0 < old ∧ temp + 3 ≤ classLimit (old - 1) then old - 1
  else old

/-- STACK_TEMP_SAMPLE. -/
def stackTempSample (k : Nat) (temp : Byte) (s : State) : State :=
  let old := (stackOfN s k).classNeed.toNat
  let need := nextClassNeed old temp.toNat
  let s := modStack k (fun x => { x with temp := temp, peak := if x.peak.toNat < temp.toNat then temp else x.peak, classNeed := BitVec.ofNat 2 need
                                         hotSamples := if 115 ≤ temp.toNat then x.hotSamples + 1 else 0 }) s
  let s := if old < need ∧ (need = 3 ∨ cfgTemp s.tick.act0 < need) then devFault0 0x83 (if need = 3 then sevError else sevWarn) k 0 s else s
  if 2 ≤ (stackOfN s k).hotSamples then thermalTrip (some k) temp s else s
def execStackTempSample (stack : Nat) (temp : Byte) (s : State) : Out := liveIf (decide (stack < 24)) "stack" s (stackTempSample stack temp s)

end Sys2Proof.Machine
end

