-- ==== Sys2Proof/Machine/ShardGroups.lean ====
section
/-! DEFINITION. Shard groups: MEM_EC_CTL, the receiver's side of the relay, and the end of an operation (R403-R408). -/

namespace Sys2Proof.Machine

open Sys2Proof

/-! ## MEM_EC_CTL (R406, R407) -/

/-- An entry keeps R403. The port is that of a relay host, where RELAY names one. -/
def ecEntryOk (s : State) (e : BitVec 384) : Bool :=
  decide (bitsOf e 1 7 = 0) && !bitAt e 15 && decide (ecMyRank e ≤ 9) && decide (16 ≤ ecLog e) && decide (ecLog e ≤ 20)
    && decide (1 ≤ ecStripes e) && decide (ecStripes e ≤ 2 ^ 24) && decide (ecBase e % 2 ^ ecLog e = 0)
    && decide (ecBase e + ecStripes e * 2 ^ ecLog e ≤ stackedSize) && decide (bitsOf e 248 8 = 0) && decide (bitsOf e 274 6 = 0)
    && decide (bitsOf e 286 2 = 0) && decide (bitsOf e 288 32 = 0) && decide (ecRelayAddr e % 4096 = 0) && (!ecRelay e || isEdge s (ecRelayPort e))

/-- A write keeps the members that are live (R406). -/
def ecKeepsLive (s : State) (old new : BitVec 384) : Bool :=
  let live := vwLive (viewOf s (ecGid old))
  !ecValid old || !bitAt live (ecMyRank old) || (List.range 10).all fun r => !bitAt live r || decide (ecMember old r = ecMember new r)

/-- WRITE. An entry with VALID 0 holds nothing that R403 constrains. -/
def ecWriteEntry (k : Nat) (s : State) : State :=
  let e := s.mem.ecData
  let ok := (!ecValid e || ecEntryOk s e) && ecKeepsLive s (ecEntryOf s k) e
  let s := modMem (fun m => { m with ecStatus := if ok then 0 else 1 }) s
  if ok then modMem (fun m => { m with ecEntries := tabSet 0 m.ecEntries k e }) s else s

/-- The STATUS of an operation that may not start, 0 when it may (R401, R407). -/
def ecStart (s : State) (rebuild : Bool) (r : Nat) (e : BitVec 384) : Nat :=
  let w := viewOf s (ecGid e)
  if !ecValid e then 1
  else if s.glb.isolated then 4
  else if !rebuild then (if vwLive w = 0x3FF ∧ vwStale w = 0 then 0 else 2)
  else if !bitAt (vwStale w) r then 2
  else if ecMyRank e = r ∧ ecMember e r ≠ myFnid s then 2
  else if 2 < popcount (vwStale w) ∨ ((List.range 10).filter fun x => decide (x ≠ r) && bitAt (vwLive w) x).length < 8 then 3
  else 0

/-- ENCODE and REBUILD: the rank begins to send its strips. -/
def ecBegin (rebuild : Bool) (k r : Nat) (s : State) : State :=
  let e := ecEntryOf s k
  let st := ecStart s rebuild r e
  if st ≠ 0 then devFault0 0x94 sevError k 0 (modMem (fun m => { m with ecStatus := BitVec.ofNat 3 st }) s)
  else
    let o : EcOp := { rebuild := rebuild, entry := k, rank := r, vepoch := vwEpoch (viewOf s (ecGid e)), num := s.mem.ecCount + 1 }
    let s := modMem (fun m => { m with ecOp := some o, ecIn := [], stripesDone := 0, ecStatus := 0, ecCount := m.ecCount + 1 }) s
    writeStrips false 1 (ecPump s)

/-- MEM_EC_CTL. -/
def ecCtlWrite (v : W32) (s : State) : Wrote :=
  if s.mem.ecOp.isSome then wrote (if bitAt v 25 then endEc 5 s else s)
  else
    let r : BitVec 4 := bitsOf v 8 4
    let k : BitVec 3 := bitsOf v 0 3
    let s := modMem (fun m => { m with ecRank := r, ecEntry := k }) s
    match (bitsOf v 26 2).toNat with
    | 1 => started (ecWriteEntry k.toNat s)
    | 2 => started (ecBegin false k.toNat r.toNat s)
    | 3 => started (ecBegin true k.toNat r.toNat s)
    | _ => wrote s

/-- MEM_EC_CFG, which takes no write while BUSY (R406). -/
def ecCfgWrite (v : W32) (s : State) : Wrote := wrote (if s.mem.ecOp.isSome then s else modMem (fun m => { m with ecRate := bitsOf v 0 8 }) s)

/-! ## Strips (R404, R405, R407) -/

/-- A slot word of a control line: READY, with its sender and stripe. -/
def slotWord (c : BitVec 512) (i : Nat) : BitVec 64 := bitsOf c (64 * i) 64
def slotReady (c : BitVec 512) (x : RelayStrip) : Bool :=
  let w := slotWord c x.slot
  decide (x.slot < 4) && decide (bitsOf w 62 2 = 2) && decide ((bitsOf w 58 4).toNat = x.sender) && decide ((bitsOf w 0 24).toNat = x.stripe)

/-- A READY slot is read by DLV_LOAD and returned to FREE by a CAS (R405); its strip counts when the operation waits for it. -/
def takeStrip (control : BitVec 512) (x : RelayStrip) (s : State) : State :=
  match s.mem.ecOp with
  | none => s
  | some o =>
    let e := ecEntryOf s o.entry
    if !slotReady control x ∨ x.data.length ≠ 2 ^ ecLog e then s
    else
      let n := ecRelayPort e
      let s := forEach (List.range (2 ^ ecLog e / 256)) (fun i s => hostAccess n .gone 0x41 (mailBuffer e (ecMyRank e) x.slot + 256 * i) 256 [] s) s
      let s := hostCas n .gone (mailbox e (ecMyRank e) + 8 * x.slot) 0 (slotWord control x.slot).toNat s
      if ecStripes e ≤ x.stripe ∨ x.stripe < o.written ∨ !(stripSenders s o x.stripe).contains x.sender ∨ ecOnPlane s e x.sender then s
      else writeStrips false (ecStripes e) (modMem (fun m => { m with ecIn := tabSet [] m.ecIn (stripKey x.stripe x.sender) x.data }) s)

/-- RELAY_POLL: the control line is read, and the command brings it and the strips of its READY slots (DESIGN CHOICE, assumption 73). A block
that is not READY ends the operation with TRANSPORT (R82, R407). -/
def relayPoll (entry : Nat) (control : BitVec 512) (strips : List RelayStrip) (s : State) : State :=
  match s.mem.ecOp with
  | none => s
  | some o =>
    let e := ecEntryOf s entry
    if o.entry ≠ entry ∨ !ecRelay e then s
    else if (epOf s (ecRelayPort e)).attach ≠ .ready then endEc 4 s
    else forEach strips (takeStrip control) (hostAccess (ecRelayPort e) .gone 0x41 (mailbox e (ecMyRank e)) 64 [] s)
def execRelayPoll (entry : Nat) (control : BitVec 512) (strips : List RelayStrip) (s : State) : Out :=
  coreIf (decide (entry < 8)) "shard-group entry" s (relayPoll entry control strips s)

/-- The end of a REBUILD at the rebuilt rank (R407): its view word, with STALE clear and LIVE set. -/
def rebuiltView (w : BitVec 64) (r : Nat) : BitVec 64 :=
  vwMake (vwEpoch w + 1) (vwLive w ||| BitVec.ofNat 10 (2 ^ r)) (vwStale w &&& ~~~BitVec.ofNat 10 (2 ^ r))

/-- The rank's sends are answered, and the relay has brought the strips that it needs. -/
def ecReady (s : State) (o : EcOp) : Bool :=
  let n := ecStripes (ecEntryOf s o.entry)
  decide (n ≤ o.sendAt) && (List.range n).all fun i => decide (i < o.written) || relayIn s o i

/-- The rank has sent and written all: a REBUILD of it sets its view word by a CAS, and the operation ends once that has succeeded. -/
def ecFinish (o : EcOp) (cas : CasEnd) (s : State) : State :=
  let e := ecEntryOf s o.entry
  if !(o.rebuild && decide (ecMyRank e = o.rank)) then endEc 0 s
  else
    let w := viewOf s (ecGid e)
    let (won, s) := casView e w (rebuiltView w o.rank) cas s
    if !won then s
    else endEc 0 (devFault0 0x91 sevInfo (ecGid e) 0
      (modGlb (fun g => { g with viewWords := tabSet 0 g.viewWords (ecGid e) (rebuiltView w o.rank), views := satAdd g.views 1 }) s))

/-- EC_OP_DONE: the rank's part ends. -/
def ecOpDone (how : EcEnd) (cas : CasEnd) (s : State) : State :=
  match s.mem.ecOp with
  | none => s
  | some o =>
    match how with
    | .transport => endEc 4 s
    | .poison => endEc 6 s
    | .done =>
      if !ecReady s o then s
      else
        let s := writeStrips true (ecStripes (ecEntryOf s o.entry)) s
        if s.mem.ecOp.isSome then ecFinish o cas s else s
def execEcOpDone (how : EcEnd) (cas : CasEnd) (s : State) : Out := coreLive s (ecOpDone how cas s)

end Sys2Proof.Machine
end

