-- ==== Sys2Proof/Machine/RegMap.lean ====
section
/-! DEFINITION. The registers: where each lies (R490, R496-R511), who may write it (R493), what it reads, what a read changes (R10),
and what a write does. -/

namespace Sys2Proof.Machine

open Sys2Proof

/-- A register. A LO/HI pair is one name with `hi`; the registers that blocks and the RTE share are named by their point. -/
inductive Reg where
  | deviceId | bootStat | topology | fnid | fnidPin | rackId | drainCtl | fltData (i : Nat) | fltCtl | fltStat
  | membCfg | membStat | rosterCfg (h : Nat) | rosterAddr (h : Nat) (hi : Bool)
  | laneStat (l : Nat) | fecCnt (l : Nat) | fecSym (l : Nat) | laneProfile | eyeCtl | eyeStat
  | portCfg (n : Nat) | portStat (n : Nat) | portRtt (n : Nat) | portQual
  | srcFnid (n : Nat) | winCtl (n : Nat) | winStat (n : Nat) | winData (n i : Nat) | tollStat (n : Nat) | attachStat (n : Nat)
  | timeoutCfg (n : Nat) | ctxStat (n : Nat) | faultStat (n : Nat) | retxCfg (p : Point) | relTx (p : Point) | relRx (p : Point)
  | relOcc (p : Point) | cairnCfg (n : Nat) | cairnStat (p : Point) | ringHead (n r : Nat) | ringStat (n r : Nat)
  | portErr (p : Nat) | dropStat | mcastData (i : Nat) | mcastCtl | mirrorCtl | mirrorSel | mirrorBase (hi : Bool) | mirrorProd
  | mirrorCons | mirrorStat | mirrorPorts (k : Nat)
  | classCfg (c : Nat) | thresh (c : Nat) | portLimit (c : Nat) | classStat (c : Nat) | auditCtl | auditStat | errStat | errCnt
  | partDrop | planeCtl | planeCommit (hi : Bool) | trunkEn (k : Nat) | trunkUp (k : Nat) | cmapCtl | cmapBase (hi : Bool)
  | planeMap (k : Nat) | planeStage (k : Nat) | part (k : Nat) | dest (f : Nat)
  | colCfg | colStat | grpCtl | grpData (i : Nat) | slotSel | slotStat (i : Nat) | colAmax (i : Nat) | colMember (i : Nat) | tlyStat
  | arrMap (k : Nat) | loadAddr (hi : Bool) | loadProg | loadCtl | arrSel | arrayStat | arrEcc | ucode | cbCtl | cbData (i : Nat)
  | tickNow (hi : Bool) | tickStep (hi : Bool) | syncCfg | syncStat | itinCfg (i : Nat) | actCfg (i : Nat) | itinCommit (hi : Bool)
  | stepSet (hi : Bool) | itinCtl | itinFail | itinData (i : Nat) | lateStat | varyCnt | reproStat
  | scrubCtl | scrubStat | errLog (i : Nat) | tenantCtl | tenantGen | ecCtl | ecCfg | ecStat | ecData (i : Nat) | stackStat (k : Nat)
  | eccCnt (c : Nat)
  | svcTabCtl | svcSel | svcStat | svcCnt | svcPoolStat | svcTabData (i : Nat)
  | ltrPort (n : Nat) | ltrNode | idleCfg | stateStat | portState (k : Nat) | capCtl | capStat | inStat | excStat | energy (hi : Bool)
  | thermStat
  | mac (hi : Bool) | ipCfg (i : Nat) | roleCfg | nvStat | fwStat | ledgerStat | ledgerSeq (hi : Bool) | chainStat | lockStat
deriving DecidableEq, Repr

/-! ## Offsets -/

/-- The register at `o` among `n` words from `base`, 4 bytes apart. -/
def regAt (o base n : Nat) (f : Nat → Reg) : Option Reg := if base ≤ o ∧ o < base + 4 * n then some (f ((o - base) / 4)) else none

/-- A LO/HI pair at `base`. -/
def pairIn (o base : Nat) (f : Bool → Reg) : Option Reg := if o = base then some (f false) else if o = base + 4 then some (f true) else none

/-- R496. -/
def glbReg (o : Nat) : Option Reg :=
  match o with
  | 0x000 => some .deviceId
  | 0x004 => some .bootStat
  | 0x010 => some .topology
  | 0x014 => some .fnid
  | 0x018 => some .fnidPin
  | 0x01C => some .rackId
  | 0x020 => some .drainCtl
  | 0x060 => some .fltCtl
  | 0x064 => some .fltStat
  | 0x080 => some .membCfg
  | 0x084 => some .membStat
  | _ => (regAt o 0x040 8 .fltData).or ((regAt o 0x090 2 .rosterCfg).or ((pairIn o 0x0A0 (.rosterAddr 0)).or (pairIn o 0x0A8 (.rosterAddr 1))))

/-- R499. -/
def laneReg (o : Nat) : Option Reg :=
  if o < 0x1000 then
    match o % 16 with
    | 0 => some (.laneStat (o / 16))
    | 4 => some (.fecCnt (o / 16))
    | 8 => some (.fecSym (o / 16))
    | _ => none
  else match o with
    | 0x2000 => some .laneProfile
    | 0x2004 => some .eyeCtl
    | 0x2008 => some .eyeStat
    | _ => none

/-- R500. -/
def portReg (o : Nat) : Option Reg :=
  if o < 0x400 then
    match o % 16 with
    | 0 => some (.portCfg (o / 16))
    | 4 => some (.portStat (o / 16))
    | 8 => some (.portRtt (o / 16))
    | _ => none
  else if o = 0x800 then some .portQual else none

/-- R501, at `o` within the space of block `n`. -/
def epReg (n o : Nat) : Option Reg :=
  match o with
  | 0x000 => some (.srcFnid n)
  | 0x004 => some (.winCtl n)
  | 0x008 => some (.winStat n)
  | 0x020 => some (.tollStat n)
  | 0x024 => some (.attachStat n)
  | 0x028 => some (.timeoutCfg n)
  | 0x02C => some (.ctxStat n)
  | 0x030 => some (.faultStat n)
  | 0x034 => some (.retxCfg (.ep n))
  | 0x038 => some (.relTx (.ep n))
  | 0x03C => some (.relRx (.ep n))
  | 0x040 => some (.relOcc (.ep n))
  | 0x044 => some (.cairnCfg n)
  | 0x048 => some (.cairnStat (.ep n))
  | _ => (regAt o 0x010 4 (.winData n)).or ((regAt o 0x100 64 (.ringHead n)).or (regAt o 0x200 64 (.ringStat n)))

/-- R502. -/
def swcReg (o : Nat) : Option Reg :=
  match o with
  | 0x200 => some .dropStat
  | 0x21C => some .mcastCtl
  | 0x220 => some .mirrorCtl
  | 0x224 => some .mirrorSel
  | 0x230 => some .mirrorProd
  | 0x234 => some .mirrorCons
  | 0x238 => some .mirrorStat
  | _ => (regAt o 0 128 .portErr).or ((regAt o 0x210 3 .mcastData).or ((pairIn o 0x228 .mirrorBase).or (regAt o 0x240 4 .mirrorPorts)))

/-- R503. -/
def poolReg (o : Nat) : Option Reg :=
  match o with
  | 0x40 => some .auditCtl
  | 0x44 => some .auditStat
  | 0x48 => some .errStat
  | 0x4C => some .errCnt
  | _ => (regAt o 0x00 4 .classCfg).or ((regAt o 0x10 4 .thresh).or ((regAt o 0x20 4 .portLimit).or (regAt o 0x30 4 .classStat)))

/-- R504. -/
def rteReg (o : Nat) : Option Reg :=
  match o with
  | 0x0000 => some .partDrop
  | 0x0004 => some .planeCtl
  | 0x0020 => some (.retxCfg .rte)
  | 0x0024 => some (.relTx .rte)
  | 0x0028 => some (.relRx .rte)
  | 0x002C => some (.relOcc .rte)
  | 0x0030 => some (.cairnStat .rte)
  | 0x0040 => some .cmapCtl
  | _ => (pairIn o 0x0008 .planeCommit).or ((regAt o 0x0010 2 .trunkEn).or ((regAt o 0x0018 2 .trunkUp).or ((pairIn o 0x0044 .cmapBase).or
      ((regAt o 0x0080 8 .planeMap).or ((regAt o 0x00A0 8 .planeStage).or ((regAt o 0x2000 2048 .part).or (regAt o 0x4000 2048 .dest)))))))

/-- R505. -/
def colReg (o : Nat) : Option Reg :=
  match o with
  | 0x00 => some .colCfg
  | 0x04 => some .colStat
  | 0x08 => some .grpCtl
  | 0x20 => some .slotSel
  | _ => (regAt o 0x10 2 .grpData).or ((regAt o 0x30 4 .slotStat).or ((regAt o 0x40 4 .colAmax).or (regAt o 0x20000 32768 .colMember)))

/-- R506. -/
def arrReg (o : Nat) : Option Reg :=
  match o with
  | 0x088 => some .loadProg
  | 0x08C => some .loadCtl
  | 0x090 => some .arrSel
  | 0x094 => some .arrayStat
  | 0x098 => some .arrEcc
  | 0x09C => some .ucode
  | 0x0A0 => some .cbCtl
  | _ => (regAt o 0x000 27 .arrMap).or ((pairIn o 0x080 .loadAddr).or (regAt o 0x0C0 16 .cbData))

/-- R507. -/
def tickReg (o : Nat) : Option Reg :=
  match o with
  | 0x10 => some .syncCfg
  | 0x14 => some .syncStat
  | 0x40 => some .itinCtl
  | 0x44 => some .itinFail
  | 0x60 => some .lateStat
  | 0x64 => some .varyCnt
  | 0x68 => some .reproStat
  | _ => (pairIn o 0x00 .tickNow).or ((pairIn o 0x08 .tickStep).or ((regAt o 0x20 2 .itinCfg).or ((regAt o 0x28 2 .actCfg).or
      ((pairIn o 0x30 .itinCommit).or ((pairIn o 0x38 .stepSet).or (regAt o 0x50 4 .itinData))))))

/-- R508. -/
def memReg (o : Nat) : Option Reg :=
  match o with
  | 0x000 => some .scrubCtl
  | 0x004 => some .scrubStat
  | 0x010 => some .tenantCtl
  | 0x014 => some .tenantGen
  | 0x020 => some .ecCtl
  | 0x024 => some .ecCfg
  | 0x028 => some .ecStat
  | _ => (regAt o 0x008 2 .errLog).or ((regAt o 0x040 12 .ecData).or ((regAt o 0x100 24 .stackStat).or (regAt o 0x1000 384 .eccCnt)))

/-- R509. -/
def svcReg (o : Nat) : Option Reg :=
  match o with
  | 0x00 => some .svcTabCtl
  | 0x04 => some .svcSel
  | 0x08 => some .svcStat
  | 0x0C => some .svcCnt
  | 0x10 => some .svcPoolStat
  | _ => regAt o 0x40 16 .svcTabData

/-- R510. -/
def pwrReg (o : Nat) : Option Reg :=
  match o with
  | 0x100 => some .ltrNode
  | 0x104 => some .idleCfg
  | 0x108 => some .stateStat
  | 0x120 => some .capCtl
  | 0x124 => some .capStat
  | 0x128 => some .inStat
  | 0x12C => some .excStat
  | 0x138 => some .thermStat
  | _ => (regAt o 0x000 64 .ltrPort).or ((regAt o 0x110 4 .portState).or (pairIn o 0x130 .energy))

/-- R511. -/
def mgtReg (o : Nat) : Option Reg :=
  match o with
  | 0x14 => some .roleCfg
  | 0x18 => some .nvStat
  | 0x1C => some .fwStat
  | 0x20 => some .ledgerStat
  | 0x2C => some .chainStat
  | _ => (pairIn o 0x00 .mac).or ((regAt o 0x08 3 .ipCfg).or (pairIn o 0x24 .ledgerSeq))

/-- The register that an offset names (R489, R490); none where it names none. -/
def regOf (off : Nat) : Option Reg :=
  let o := off % 2 ^ 24
  if off % 4 ≠ 0 then none
  else match off / 2 ^ 24 with
    | 0x0 => glbReg o
    | 0x1 => laneReg o
    | 0x2 => portReg o
    | 0x3 => if o / 4096 < 64 then epReg (o / 4096) (o % 4096) else none
    | 0x4 => swcReg o
    | 0x5 => poolReg o
    | 0x6 => rteReg o
    | 0x7 => colReg o
    | 0x8 => if o = 0 then some .tlyStat else none
    | 0x9 => arrReg o
    | 0xA => tickReg o
    | 0xB => memReg o
    | 0xC => svcReg o
    | 0xD => pwrReg o
    | 0xE => mgtReg o
    | 0xF => if o = 0 then some .lockStat else none
    | _ => none

/-! ## Who may write (R493) -/

/-- The Write column. PORT[n]_CFG is open to both roles, since each may set RESTART (R500). -/
inductive Writers where
  | nobody
  | both
  | operator
  | installer
deriving DecidableEq, Repr

def writersOf (r : Reg) : Writers :=
  match r with
  | .deviceId | .bootStat | .fnid | .fltData _ | .membStat | .laneStat _ | .fecCnt _ | .fecSym _ | .eyeStat | .portStat _ | .portRtt _
  | .tollStat _ | .attachStat _ | .ctxStat _ | .relTx _ | .relRx _ | .relOcc _ | .cairnStat _ | .ringHead _ _ | .ringStat _ _
  | .portErr _ | .dropStat | .mirrorProd | .mirrorStat | .classStat _ | .auditStat | .errCnt | .partDrop | .trunkUp _ | .planeMap _
  | .colStat | .slotStat _ | .colAmax _ | .tlyStat | .arrMap _ | .arrayStat | .arrEcc | .ucode | .tickNow _ | .tickStep _ | .syncStat
  | .actCfg _ | .itinFail | .lateStat | .varyCnt | .scrubStat | .tenantGen | .ecStat | .stackStat _ | .eccCnt _ | .svcStat | .svcCnt
  | .svcPoolStat | .stateStat | .portState _ | .capStat | .inStat | .excStat | .energy _ | .thermStat | .mac _ | .nvStat | .fwStat
  | .ledgerStat | .ledgerSeq _ | .chainStat | .lockStat => .nobody
  | .topology | .fnidPin | .rackId | .membCfg | .rosterCfg _ | .rosterAddr _ _ | .laneProfile | .portQual | .syncCfg | .ipCfg _
  | .roleCfg => .installer
  | .mirrorCtl | .mirrorSel | .mirrorBase _ | .mirrorCons | .mirrorPorts _ | .cmapCtl | .cmapBase _ | .ltrPort _ | .ltrNode | .idleCfg
  | .capCtl => .operator
  | .errLog i => if i = 0 then .both else .nobody
  | .drainCtl | .fltCtl | .fltStat | .eyeCtl | .portCfg _ | .srcFnid _ | .winCtl _ | .winStat _ | .winData _ _ | .timeoutCfg _
  | .faultStat _ | .retxCfg _ | .cairnCfg _ | .mcastData _ | .mcastCtl | .classCfg _ | .thresh _ | .portLimit _ | .auditCtl | .errStat
  | .planeCtl | .planeCommit _ | .trunkEn _ | .planeStage _ | .part _ | .dest _ | .colCfg | .grpCtl | .grpData _ | .slotSel
  | .colMember _ | .loadAddr _ | .loadProg | .loadCtl | .arrSel | .cbCtl | .cbData _ | .itinCfg _ | .itinCommit _ | .stepSet _
  | .itinCtl | .itinData _ | .reproStat | .scrubCtl | .tenantCtl | .ecCtl | .ecCfg | .ecData _ | .svcTabCtl | .svcSel
  | .svcTabData _ => .both

/-- A role may write a register: 1 OPERATOR, 2 INSTALLER; a MAKER never. -/
def mayWrite (role : Byte) (r : Reg) : Bool :=
  match writersOf r with
  | .nobody => decide (role = 1) || decide (role = 2)
  | .both => decide (role = 1) || decide (role = 2)
  | .operator => decide (role = 1)
  | .installer => decide (role = 2)

/-! ## What a register reads -/

/-- Word `i` of a vector, and a half of a 64-bit value. -/
def wordOf {w : Nat} (x : BitVec w) (i : Nat) : W32 := bitsOf x (32 * i) 32
def halfOf (x : BitVec 64) (hi : Bool) : W32 := if hi then bitsOf x 32 32 else bitsOf x 0 32

def attachCode (a : AttachState) : Nat := match a with | .down => 0 | .waitHello => 1 | .steering => 2 | .ready => 3
def slotCode (x : SlotState) : Nat := match x with | .free => 0 | .live => 1 | .complete => 2 | .aborted => 3
def stackCode (x : StackState) : Nat := match x with | .init => 0 | .active => 1 | .selfRefresh => 2 | .scrub => 3
def svcCode (x : SvcState) : Nat := match x with | .empty => 0 | .active => 1 | .draining => 2 | .disabled => 3 | .failed => 4

/-- GLB_FLT_DATA[i] (R393). -/
def fltWord (s : State) (i : Nat) : W32 :=
  match s.glb.faults with
  | [] => 0
  | r :: _ => BitVec.ofNat 32 (fieldNat (faultBytes r) (4 * i) 4)

/-- Seals sent and not yet answered, and cairn points that await confirmation (R208). -/
def sealsPending (r : Rel) : Nat := (r.series.filter fun x => x.2.sealing.isSome).length
def pointsWaiting (e : Ep) : Nat := (e.rings.map fun r => (r.2.points.filter pointWaits).length).sum

def cairnStatWord (r : Rel) (waiting : Nat) : W32 :=
  pack [(20, min 4095 (sealsPending r)), (12, min 255 waiting), (6, r.sealFail.toNat), (0, r.flagWithheld.toNat)]

/-- Held frames and dedup entries of a point (R184). -/
def occWord (s : State) (p : Point) : W32 :=
  match p with
  | .ep _ => pack [(20, heldCount s p), (6, dedupUsed s p)]
  | .rte => pack [(17, heldCount s p), (0, dedupUsed s p)]

/-- The headroom that R143 requires of a class, in cells. -/
def headroom (s : State) : Nat := ((List.range 64).map fun n => if isTrunk s n then 1024 else if isEdge s n then 32 else 0).sum + 64 * 32

def classWord (s : State) (c : Nat) : W32 :=
  let low := decide ((bitsOf (poolThresh s c) 0 10).toNat * 1024 < headroom s)
  pack [(31, ofB (tabGet false s.pool.warn c)), (30, ofB (tabGet false s.pool.xoff c)), (29, ofB low), (0, classFree s c)]

/-- COL_SLOT_STAT (R302). -/
def slotStatWord (x : ColSlot) (i : Nat) : W32 :=
  match i with
  | 0 => pack [(16, x.colId.toNat), (8, x.epoch.toNat), (6, slotCode x.state), (2, x.dropRun.toNat)]
  | 1 => pack [(12, x.chunksDone.toNat), (0, x.lastRank.toNat)]
  | 2 => pack [(12, x.chunksDropped.toNat), (0, x.missRank.toNat)]
  | _ => pack [(26, x.lastLeaf.toNat), (20, x.missLeaf.toNat), (0, x.lastCnt.toNat)]

/-- STATE of ARR_ARRAY_STAT (R341). -/
def arrayCode (s : State) (a : Nat) : Nat :=
  if !arrayEnabled s a then 5
  else if (arrOf s a).failed then 4
  else if groupGated s (a / 72) then 6
  else match (arrOf s a).run with
    | some r => if r.service then 2 else 1
    | none => match s.arr.loadBusy with | some (b, _, _) => if a = b then 3 else 0 | none => 0

def arrayWord (s : State) : W32 :=
  let a := s.arr.sel.toNat
  let prog := match (arrOf s a).run with | some r => r.prog | none => (arrOf s a).lastProg
  pack [(29, arrayCode s a), (25, (arrOf s a).dir.length), (0, prog.toNat)]

/-- The arrays of a service that it may use now (R348). -/
def svcUsable (s : State) (k : Nat) : Nat := ((svcArrays s k).filter fun a => !itinNames s a).length
def svcDepth (s : State) (k : Nat) : Nat := (s.svc.queue.filter fun c => decide (c.svc = k)).length
def poolUsed (v : Svc) : Nat := (v.slots.filter fun x => decide (x.2.state = .committed)).length

/-- NODE of PWR_STATE_STAT (R422). -/
def nodeCode (s : State) : Nat := if s.pwr.node ≠ 0 then s.pwr.node.toNat else if s.pwr.gated ≠ 0 then 2 else 0

/-- The settings of the active bank, or those of shipment (R469). -/
def activeNv (s : State) : Nv := match (if s.mgt.activeBank then s.mgt.bank1 else s.mgt.bank0) with | some b => b.nv | none => {}
def nvWord (s : State) : W32 :=
  pack [(31, ofB s.mgt.storing.isSome), (30, ofB (decide (s.mgt.nv ≠ activeNv s))), (29, ofB s.mgt.empty), (28, ofB s.mgt.activeBank)
        , (0, min 131071 (max s.mgt.wear0 s.mgt.wear1))]

/-- TRIAL of MGT_FW_STAT: the image that runs has not been confirmed (R479). -/
def unconfirmed (m : Mgt) : Bool := !m.recovery && !(if m.runB then m.slotB else m.slotA).confirmed

/-- TRIAL_LEFT: a free value no greater than what the last reading showed, and 0 when no trial runs (R479). -/
def trialShown (m : Mgt) : BitVec 16 := BitVec.ofNat 16 (Config.trialSeconds m.looks % (m.trialLeft.toNat + 1))

/-- IN_SIG and OUT_SIG: whether the chain carries a signal now, which is free once its PHY has started (R486, R487). -/
def chainSignals (s : State) (i : Nat) : BitVec 1 := if 3 ≤ s.glb.step then bitsOf (Config.chainSignal s.mgt.looks) i 1 else 0

/-- The word of a register, shown without side effects. -/
def peekReg (s : State) (r : Reg) : W32 :=
  let t := s.tick
  match r with
  | .deviceId => 0xA7D02411
  | .bootStat => pack [(28, s.glb.step.toNat), (27, ofB (topoErr s)), (26, ofB s.glb.fnidErr), (25, ofB (tableErr s)), (24, ofB s.glb.scrubHold)
                       , (23, ofB s.mgt.tapOpen)]
  | .topology => s.mgt.nv.topology ||| pack [(1, ofB (topoErr s)), (0, ofB s.glb.locked)]
  | .fnid => pack [(31, ofB s.glb.fnidValid), (30, ofB s.glb.fnidPinned), (29, ofB s.glb.fnidErr), (26, s.glb.errCause.toNat)
                   , (12, s.mgt.addr.toNat), (0, s.glb.fnid.toNat)]
  | .fnidPin => s.mgt.nv.fnidPin
  | .rackId => s.mgt.nv.rackId
  | .drainCtl => pack [(31, ofB s.glb.drainReq), (30, ofB (drained s))]
  | .fltData i => fltWord s i
  | .fltCtl => pack [(30, ofB s.glb.notifyEn), (28, s.glb.notifySev.toNat), (0, s.glb.notifyTally.toNat)]
  | .fltStat => pack [(31, ofB s.glb.overflow), (30, ofB s.glb.fatal), (11, s.glb.lost.toNat), (0, s.glb.faults.length)]
  | .membCfg => pack [(31, ofB s.glb.membEn), (16, s.glb.membMiss.toNat), (0, s.glb.membHbUs.toNat)]
  | .membStat => pack [(31, ofB s.glb.isolated), (29, s.glb.hostOk.toNat), (21, s.mgt.incarn.toNat), (0, s.glb.views.toNat)]
  | .rosterCfg h => tabGet 0 s.glb.rosterCfg h
  | .rosterAddr h hi => halfOf (tabGet 0 s.glb.rosterAddr h) hi
  | .laneStat l =>
    let x := laneAt s l
    pack [(31, ofB x.sigDet), (30, ofB x.cdrLock), (29, ofB x.cwLock), (28, ofB x.markLock), (26, x.logical.toNat)]
  | .fecCnt l => pack [(24, (laneAt s l).uncorr.toNat), (0, (laneAt s l).corr.toNat)]
  | .fecSym l => (laneAt s l).sym
  | .laneProfile => pack [(31, ofB (tableErr s)), (0, s.mgt.nv.profileId.toNat)]
  | .eyeCtl => s.lanes.eyeCtl
  | .eyeStat => pack [(31, ofB s.lanes.eyeBusy), (30, ofB s.lanes.eyeAborted), (0, s.lanes.eyeErrs.toNat)]
  | .portCfg n => pack [(30, persOf s n)]
  | .portStat n =>
    let p := portOf s n
    pack [(29, portStateCode p.state), (28, ofB p.quiet), (27, ofB p.enc), (23, p.cause.toNat), (15, p.downCnt.toNat), (0, p.peerFnid.toNat)]
  | .portRtt n => pack [(16, (portOf s n).authSkip.toNat), (0, (portOf s n).rtt.toNat)]
  | .portQual => pack [(24, s.lanes.uncorrMax.toNat), (0, s.lanes.symMax.toNat)]
  | .srcFnid n => (epOf s n).srcFnid.zeroExtend 32
  | .winCtl n => let e := epOf s n; pack [(31, ofB e.winBusy), (28, e.winStatus.toNat), (0, e.winIndex.toNat)]
  | .winStat n =>
    let e := epOf s n
    pack [(31, ofB (tabGet false e.steerTimeout e.winIndex.toNat)), (0, winInflight s n e.winIndex)]
  | .winData n i => wordOf (epOf s n).winData i
  | .tollStat n => let e := epOf s n; pack [(28, e.tollCode.toNat), (18, e.tollWin.toNat), (0, e.tollFail.toNat)]
  | .attachStat n =>
    let e := epOf s n
    pack [(30, attachCode e.attach), (29, ofB e.offReqTx), (28, ofB e.offRspTx), (27, ofB e.offReqRx), (26, ofB e.offRspRx)
          , (13, e.dlvMax.toNat), (8, e.lateRsp.toNat), (0, e.crcErr.toNat)]
  | .timeoutCfg n => pack [(16, (epOf s n).ksTimeoutUs.toNat), (0, (epOf s n).dlvTimeoutUs.toNat)]
  | .ctxStat n => pack [(19, ctxsFree (epOf s n).rel), (6, (epOf s n).minFree.toNat)]
  | .faultStat n => let e := epOf s n; pack [(31, ofB e.faultOverflow), (16, e.faultLost.toNat), (0, e.faults.length)]
  | .retxCfg p => (relOf s p).retxCfg
  | .relTx p => let x := relOf s p; pack [(16, x.retx.toNat), (8, x.timeout.toNat), (0, x.seriesReset.toNat)]
  | .relRx p => let x := relOf s p; pack [(24, x.nackTx.toNat), (16, x.dupRx.toNat), (8, x.lateDisc.toNat), (0, x.fullNack.toNat)]
  | .relOcc p => occWord s p
  | .cairnCfg n => (epOf s n).pollNs.zeroExtend 32
  | .cairnStat p => match p with | .ep n => cairnStatWord (epOf s n).rel (pointsWaiting (epOf s n)) | .rte => cairnStatWord s.rte.rel 0
  | .ringHead n k => (ringOf s n k).head
  | .ringStat n k =>
    let g := ringOf s n k
    pack [(30, ringCode g.state), (27, g.cause.toNat), (26, ofB g.cqStall), (21, g.logSize.toNat), (0, g.planeSet.toNat)]
  | .portErr p => tabGet 0 s.swc.portErr p
  | .dropStat => pack [(16, s.swc.noRoute.toNat), (0, s.swc.poolDrop.toNat)]
  | .mcastData i => wordOf s.swc.mcastData i
  | .mcastCtl => pack [(29, s.swc.mcastStatus.toNat), (0, s.swc.mcastIndex.toNat)]
  | .mirrorCtl => s.swc.mirrorCtl
  | .mirrorSel => s.swc.mirrorSel
  | .mirrorBase hi => halfOf s.swc.mirrorBase hi
  | .mirrorProd => s.swc.mirrorProd
  | .mirrorCons => s.swc.mirrorCons
  | .mirrorStat =>
    let full := mirrorFull s.swc
    pack [(31, ofB s.swc.mirrorCfgErr), (30, ofB full), (0, s.swc.mirrorLost.toNat)]
  | .mirrorPorts k => wordOf s.swc.mirrorPorts k
  | .classCfg c => poolCfg s c
  | .thresh c => poolThresh s c
  | .portLimit c => poolLimit s c
  | .classStat c => classWord s c
  | .auditCtl => pack [(31, ofB s.pool.auditEn), (30, ofB s.pool.auditReclaim), (0, s.pool.auditGapMs.toNat)]
  | .auditStat => pack [(16, s.pool.passCnt.toNat), (15, ofB s.pool.auditActive), (0, s.pool.auditBank.toNat)]
  | .errStat => pack [(31, ofB s.pool.dfree), (30, ofB s.pool.leak), (29, ofB s.pool.countMismatch), (0, s.pool.lastCell.toNat)]
  | .errCnt => pack [(16, s.pool.dfreeCnt.toNat), (0, s.pool.leakCnt.toNat)]
  | .partDrop => s.rte.partDrop
  | .planeCtl => pack [(31, ofB s.rte.planePending)]
  | .planeCommit hi => halfOf s.rte.planeCommit hi
  | .trunkEn k => wordOf s.rte.trunkEn k
  | .trunkUp k => wordOf (trunkUp s) k
  | .cmapCtl => pack [(31, ofB s.rte.cmapEn), (30, ofB s.rte.cmapCfgErr), (0, s.rte.cmapPeriodUs.toNat)]
  | .cmapBase hi => halfOf s.rte.cmapBase hi
  | .planeMap k => wordOf s.rte.planeMap k
  | .planeStage k => wordOf s.rte.planeStage k
  | .part k => tabGet 0 s.rte.part k
  | .dest f => tabGet 0 s.rte.dest f
  | .colCfg => pack [(28, s.col.abortLimit.toNat)]
  | .colStat => pack [(20, (s.col.slots.filter fun x => decide (x.2.state = .live)).length), (8, s.col.aborts.toNat), (0, s.col.slotErr.toNat)]
  | .grpCtl => pack [(28, s.col.grpStatus.toNat), (0, s.col.grpIndex.toNat)]
  | .grpData i => wordOf s.col.grpData i
  | .slotSel => s.col.slotSel.zeroExtend 32
  | .slotStat i => slotStatWord (slotOf s s.col.slotSel.toNat) i
  | .colAmax i => BitVec.ofNat 32 (fieldNat (amaxBytes (slotOf s s.col.slotSel.toNat).amax) (4 * i) 4)
  | .colMember i => pack [(16, (tabGet 0 s.col.members (2 * i + 1)).toNat), (0, (tabGet 0 s.col.members (2 * i)).toNat)]
  | .tlyStat => pack [(16, s.tly.fireCnt.toNat), (0, s.tly.notifyErrCnt.toNat)]
  | .arrMap k => wordOf s.arr.map k
  | .loadAddr hi => halfOf s.arr.loadAddr hi
  | .loadProg => s.arr.loadProg
  | .loadCtl => pack [(31, ofB s.arr.loadBusy.isSome), (27, s.arr.loadStatus.toNat), (0, s.arr.loadArray.toNat)]
  | .arrSel => s.arr.sel.zeroExtend 32
  | .arrayStat => arrayWord s
  | .arrEcc => pack [(16, s.arr.corr.toNat), (0, s.arr.uncorr.toNat)]
  | .ucode => s.arr.ucode.zeroExtend 32
  | .cbCtl => pack [(28, s.arr.cbStatus.toNat), (4, s.arr.cbGroup.toNat), (0, s.arr.cbEntry.toNat)]
  | .cbData i => wordOf s.arr.cbData i
  | .tickNow hi => if hi then t.nowHi else bitsOf t.now 0 32
  | .tickStep hi => if hi then t.stepHi else bitsOf t.step 0 32
  | .syncCfg => s.mgt.nv.syncCfg
  | .syncStat => pack [(29, syncCode t.state), (24, t.stratum.toNat), (16, t.upstream.toNat), (0, t.err.toNat)]
  | .itinCfg i => if i = 0 then t.cfg0 else t.cfg1
  | .actCfg i => if i = 0 then t.act0 else t.act1
  | .itinCommit hi => halfOf t.commit hi
  | .stepSet hi => halfOf t.stepSet hi
  | .itinCtl => pack [(31, ofB t.checking), (30, ofB t.pending), (26, t.status.toNat), (21, ofB t.loadStep), (0, t.index.toNat)]
  | .itinFail => t.failIdx.zeroExtend 32
  | .itinData i => wordOf t.data i
  | .lateStat => pack [(16, t.lateCnt.toNat), (0, t.flushCnt.toNat)]
  | .varyCnt => t.varyCnt
  | .reproStat => pack [(24, t.repro.toNat)]
  | .scrubCtl => pack [(31, ofB s.mem.scrubEn), (0, s.mem.passH.toNat)]
  | .scrubStat => pack [(16, s.mem.passCnt.toNat), (0, s.mem.lag.toNat)]
  | .errLog i =>
    if i = 0 then pack [(31, ofB s.mem.errValid), (30, ofB s.mem.errByScrub), (0, s.mem.errChannel.toNat)] else s.mem.errLine.zeroExtend 32
  | .tenantCtl => pack [(31, ofB s.mem.tenantBusy), (28, s.mem.tenantStatus.toNat)]
  | .tenantGen => s.mem.gen
  | .ecCtl => pack [(31, ofB s.mem.ecOp.isSome), (28, s.mem.ecStatus.toNat), (8, s.mem.ecRank.toNat), (0, s.mem.ecEntry.toNat)]
  | .ecCfg => s.mem.ecRate.zeroExtend 32
  | .ecStat => pack [(7, s.mem.stripesDone.toNat)]
  | .ecData i => wordOf s.mem.ecData i
  | .stackStat k =>
    let x := stackOfN s k
    pack [(29, stackCode x.state), (28, ofB (stackAuto s k)), (26, x.classNeed.toNat), (8, x.peak.toNat), (0, x.temp.toNat)]
  | .eccCnt c => pack [(16, (chanOf s c).corr.toNat), (0, (chanOf s c).uncorr.toNat)]
  | .svcTabCtl => pack [(31, ofB s.svc.busy), (28, s.svc.status.toNat), (0, s.svc.index.toNat)]
  | .svcSel => s.svc.sel.zeroExtend 32
  | .svcStat => let k := s.svc.sel.toNat; pack [(29, svcCode (svcOf s k).state), (22, svcUsable s k), (0, svcDepth s k)]
  | .svcCnt => let v := svcOf s s.svc.sel.toNat; pack [(16, v.calls.toNat), (0, v.errs.toNat)]
  | .svcPoolStat => let v := svcOf s s.svc.sel.toNat; pack [(25, v.evict.toNat), (0, poolUsed v)]
  | .svcTabData i => wordOf s.svc.data i
  | .ltrPort n => BitVec.ofNat 32 (portTolerance s n)
  | .ltrNode => s.pwr.ltrNode.zeroExtend 32
  | .idleCfg => s.pwr.idleCfg
  | .stateStat => pack [(29, nodeCode s), (0, s.pwr.gated.toNat)]
  | .portState k => pack ((List.range 16).map fun j => (2 * j, portPower s (16 * k + j)))
  | .capCtl => pack [(28, s.pwr.cutLevel.toNat), (20, s.pwr.margin.toNat), (0, s.pwr.swCapW.toNat)]
  | .capStat => pack [(31, ofB s.pwr.capUnmet), (30, ofB s.pwr.alert), (29, ofB s.pwr.pwmOk), (24, appliedLevel s), (0, capW s)]
  | .inStat => pack [(16, s.pwr.vinMv.toNat), (0, s.pwr.pinW.toNat)]
  | .excStat => pack [(21, s.pwr.peakW.toNat), (8, s.pwr.dur.toNat), (0, s.pwr.excCnt.toNat)]
  | .energy hi => if hi then s.pwr.energyHi else bitsOf s.pwr.energy 0 32
  | .thermStat => pack [(24, s.pwr.dieTemp.toNat), (16, s.pwr.diePeak.toNat), (11, s.pwr.thermLevel.toNat), (10, ofB s.pwr.tripped)]
  | .mac hi => if hi then (bitsOf s.fuses.mac 32 16).zeroExtend 32 else bitsOf s.fuses.mac 0 32
  | .ipCfg i => match i with | 0 => s.mgt.nv.ipAddr | 1 => s.mgt.nv.ipMask | _ => s.mgt.nv.ipGw
  | .roleCfg => s.mgt.nv.roleCfg
  | .nvStat => nvWord s
  | .fwStat =>
    let m := s.mgt
    pack [(31, ofB m.runB), (30, ofB m.nextB), (29, ofB (unconfirmed m)), (28, ofB m.recovery), (26, m.slotA.state.toNat), (24, m.slotB.state.toNat)
          , (18, s.fuses.svn.toNat), (0, (trialShown m).toNat)]
  | .ledgerStat => pack [(20, s.mgt.queue.length), (12, s.mgt.lost.toNat), (0, min 4095 (s.mgt.overwritten / 6144))]
  | .ledgerSeq hi => if hi then s.mgt.headHi else bitsOf s.mgt.headSeq 0 32
  | .chainStat =>
    let m := s.mgt
    pack [(31, ofB m.head), (30, ofB m.adopted), (29, (chainSignals s 0).toNat), (28, (chainSignals s 1).toNat), (16, m.mismatch.toNat), (0, m.addr.toNat)]
  | .lockStat => pack [(31, ofB s.fuses.testLock), (30, ofB s.mgt.tapOpen), (29, ofB s.mgt.claimed)]

/-! ## What a read changes (R10, R491) -/

/-- The read side effects: RC fields clear, a LO register latches its HI, and GLB_FLT_DATA[0] shows the oldest record. -/
def readEffect (r : Reg) (s : State) : State :=
  match r with
  | .fltData i => if i = 0 then showFault s else s
  | .fltStat => modGlb (fun g => { g with lost := 0 }) s
  | .membStat => modGlb (fun g => { g with views := 0 }) s
  | .fecCnt l => modLane l (fun x => { x with uncorr := 0, corr := 0 }) s
  | .fecSym l => modLane l (fun x => { x with sym := 0 }) s
  | .portStat n => modPort n (fun p => { p with downCnt := 0 }) s
  | .portRtt n => modPort n (fun p => { p with authSkip := 0 }) s
  | .tollStat n => modEp n (fun e => { e with tollFail := 0 }) s
  | .attachStat n => modEp n (fun e => { e with lateRsp := 0, crcErr := 0 }) s
  | .ctxStat n => modEp n (fun e => { e with minFree := BitVec.ofNat 13 (ctxsFree e.rel) }) s
  | .faultStat n => modEp n (fun e => { e with faultLost := 0 }) s
  | .relTx p => modRel p (fun x => { x with retx := 0, timeout := 0, seriesReset := 0 }) s
  | .relRx p => modRel p (fun x => { x with nackTx := 0, dupRx := 0, lateDisc := 0, fullNack := 0 }) s
  | .cairnStat p => modRel p (fun x => { x with sealFail := 0, flagWithheld := 0 }) s
  | .portErr p => modSwc (fun w => { w with portErr := tabSet 0 w.portErr p 0 }) s
  | .dropStat => modSwc (fun w => { w with noRoute := 0, poolDrop := 0 }) s
  | .mirrorStat => modSwc (fun w => { w with mirrorLost := 0 }) s
  | .errCnt => modPool (fun p => { p with dfreeCnt := 0, leakCnt := 0 }) s
  | .partDrop => modRte (fun x => { x with partDrop := 0 }) s
  | .colStat => modCol (fun c => { c with aborts := 0, slotErr := 0 }) s
  | .tlyStat => modTly (fun u => { u with fireCnt := 0, notifyErrCnt := 0 }) s
  | .arrEcc => modArr (fun u => { u with corr := 0, uncorr := 0 }) s
  | .tickNow hi => if hi then s else modTick (fun t => { t with nowHi := bitsOf t.now 32 32 }) s
  | .tickStep hi => if hi then s else modTick (fun t => { t with stepHi := bitsOf t.step 32 32 }) s
  | .lateStat => modTick (fun t => { t with lateCnt := 0, flushCnt := 0 }) s
  | .varyCnt => modTick (fun t => { t with varyCnt := 0 }) s
  | .scrubStat => modMem (fun m => { m with lag := 0 }) s
  | .stackStat k => modStack k (fun x => { x with peak := x.temp }) s
  | .eccCnt c => modChan c (fun x => { x with corr := 0, uncorr := 0 }) s
  | .svcCnt => modSvcN s.svc.sel.toNat (fun v => { v with calls := 0, errs := 0 }) s
  | .svcPoolStat => modSvcN s.svc.sel.toNat (fun v => { v with evict := 0 }) s
  | .excStat => modPwr (fun p => { p with excCnt := 0 }) s
  | .energy hi => if hi then s else modPwr (fun p => { p with energyHi := bitsOf p.energy 32 32 }) s
  | .thermStat => modPwr (fun p => { p with diePeak := p.dieTemp }) s
  | .ledgerStat => modMgt (fun m => { m with lost := 0 }) s
  | .ledgerSeq hi => if hi then s else modMgt (fun m => { m with headHi := bitsOf m.headSeq 32 32 }) s
  | .chainStat => modMgt (fun m => { m with mismatch := 0, looks := m.looks + 1 }) s
  | .fwStat => modMgt (fun m => { m with trialLeft := trialShown m, looks := m.looks + 1 }) s
  | .deviceId | .bootStat | .topology | .fnid | .fnidPin | .rackId | .drainCtl | .fltCtl | .membCfg | .rosterCfg _ | .rosterAddr _ _
  | .laneStat _ | .laneProfile | .eyeCtl | .eyeStat | .portCfg _ | .portQual | .srcFnid _ | .winCtl _ | .winStat _ | .winData _ _
  | .timeoutCfg _ | .retxCfg _ | .relOcc _ | .cairnCfg _ | .ringHead _ _ | .ringStat _ _ | .mcastData _ | .mcastCtl | .mirrorCtl
  | .mirrorSel | .mirrorBase _ | .mirrorProd | .mirrorCons | .mirrorPorts _ | .classCfg _ | .thresh _ | .portLimit _ | .classStat _
  | .auditCtl | .auditStat | .errStat | .planeCtl | .planeCommit _ | .trunkEn _ | .trunkUp _ | .cmapCtl | .cmapBase _ | .planeMap _
  | .planeStage _ | .part _ | .dest _ | .colCfg | .grpCtl | .grpData _ | .slotSel | .slotStat _ | .colAmax _ | .colMember _ | .arrMap _
  | .loadAddr _ | .loadProg | .loadCtl | .arrSel | .arrayStat | .ucode | .cbCtl | .cbData _ | .syncCfg | .syncStat | .itinCfg _
  | .actCfg _ | .itinCommit _ | .stepSet _ | .itinCtl | .itinFail | .itinData _ | .reproStat | .scrubCtl | .errLog _ | .tenantCtl
  | .tenantGen | .ecCtl | .ecCfg | .ecStat | .ecData _ | .svcTabCtl | .svcSel | .svcStat | .svcTabData _ | .ltrPort _ | .ltrNode
  | .idleCfg | .stateStat | .portState _ | .capCtl | .capStat | .inStat | .mac _ | .ipCfg _ | .roleCfg | .nvStat | .lockStat => s

/-! ## What a write does -/

/-- A vector with its word `i`, or a 64-bit value with one half, replaced. -/
def putReg {w : Nat} (x : BitVec w) (i : Nat) (v : W32) : BitVec w := putBits x (32 * i) 32 v.toNat
def putHalf (x : BitVec 64) (hi : Bool) (v : W32) : BitVec 64 := putReg x (ofB hi) v

/-- The pool auditor's control (R138). -/
def auditCtlWrite (v : W32) (s : State) : Wrote :=
  wrote (modPool (fun p => { p with auditEn := bitAt v 31, auditReclaim := bitAt v 30, auditGapMs := bitsOf v 0 16 }) s)

/-- POOL_ERR_STAT: ones clear. -/
def errStatWrite (v : W32) (s : State) : Wrote :=
  wrote (modPool (fun p => { p with dfree := p.dfree && !bitAt v 31, leak := p.leak && !bitAt v 30, countMismatch := p.countMismatch && !bitAt v 29 }) s)

/-- EP[n]_WIN_STAT: a one clears the flag of the index that INDEX names (R42). -/
def winStatWrite (n : Nat) (v : W32) (s : State) : Wrote :=
  if bitAt v 31 then wrote (modEp n (fun e => { e with steerTimeout := tabSet false e.steerTimeout e.winIndex.toNat false }) s) else wrote s

/-- A write of MGT_ROLE_CFG (R512). -/
def roleCfgWrite (v : W32) (s : State) : Wrote := wrote (nvMod (fun n => { n with roleCfg := v &&& 0x8000FFFF }) s)

/-- MGT_IP_ADDR, MGT_IP_MASK and MGT_IP_GW: the change takes effect when open sessions have closed (R461, dropSession). -/
def ipCfgWrite (i : Nat) (v : W32) (s : State) : Wrote :=
  wrote (nvMod (fun n => match i with | 0 => { n with ipAddr := v } | 1 => { n with ipMask := v } | _ => { n with ipGw := v }) s)

/-- Staging data of the itinerary's tables (R225). -/
def itinDataWrite (i : Nat) (v : W32) (s : State) : Wrote := wrote (modTick (fun t => { t with data := putReg t.data i v }) s)

/-- The partition masks of two FNIDs (R56). -/
def partWrite (k : Nat) (v : W32) (s : State) : Wrote := wrote (modRte (fun r => { r with part := tabSet 0 r.part k v }) s)

/-- What the write of `v` by a role that may write `r` does. A register with no writable field ignores it (R492). -/
def writeReg (role : Byte) (r : Reg) (v : W32) (s : State) : Wrote :=
  match r with
  | .topology => topologyWrite v s
  | .fnidPin => fnidPinWrite v s
  | .rackId => rackIdWrite v s
  | .drainCtl => drainCtlWrite v s
  | .fltCtl => fltCtlWrite v s
  | .fltStat => wrote (modGlb (fun g => { g with overflow := g.overflow && !bitAt v 31, fatal := g.fatal && !bitAt v 30 }) s)
  | .membCfg => membCfgWrite v s
  | .rosterCfg h => rosterCfgWrite h v s
  | .rosterAddr h hi => rosterAddrWrite h hi v s
  | .laneProfile => profileWrite v s
  | .eyeCtl => eyeCtlWrite v s
  | .portCfg n => portCfgWrite n (decide (role = 2)) v s
  | .portQual => portQualWrite v s
  | .srcFnid n => srcFnidWrite n v s
  | .winCtl n => winCtlWrite n v s
  | .winStat n => winStatWrite n v s
  | .winData n i => wrote (modEp n (fun e => { e with winData := putReg e.winData i v }) s)
  | .timeoutCfg n => wrote (modEp n (fun e => { e with ksTimeoutUs := bitsOf v 16 16, dlvTimeoutUs := bitsOf v 0 16 }) s)
  | .faultStat n => wrote (modEp n (fun e => { e with faultOverflow := e.faultOverflow && !bitAt v 31 }) s)
  | .retxCfg p => retxCfgWrite p v s
  | .cairnCfg n => wrote (modEp n (fun e => { e with pollNs := bitsOf v 0 16 }) s)
  | .mcastData i => wrote (modSwc (fun w => { w with mcastData := putReg w.mcastData i v }) s)
  | .mcastCtl => mcastCtlWrite v s
  | .mirrorCtl => mirrorCtlWrite v s
  | .mirrorSel => wrote (modSwc (fun w => { w with mirrorSel := v &&& 0xCFFF80FF }) s)
  | .mirrorBase hi => wrote (modSwc (fun w => { w with mirrorBase := putHalf w.mirrorBase hi v }) s)
  | .mirrorCons => wrote (modSwc (fun w => { w with mirrorCons := v }) s)
  | .mirrorPorts k => wrote (modSwc (fun w => { w with mirrorPorts := putReg w.mirrorPorts k v }) s)
  | .classCfg c => poolCfgWrite c v s
  | .thresh c => poolThreshWrite c v s
  | .portLimit c => poolLimitWrite c v s
  | .auditCtl => auditCtlWrite v s
  | .errStat => errStatWrite v s
  | .planeCtl => planeCtlWrite v s
  | .planeCommit hi => wrote (modRte (fun x => { x with planeCommit := putHalf x.planeCommit hi v }) s)
  | .trunkEn k => trunkEnWrite k v s
  | .cmapCtl => cmapCtlWrite v s
  | .cmapBase hi => wrote (modRte (fun x => { x with cmapBase := putHalf x.cmapBase hi v }) s)
  | .planeStage k => planeStageWrite k v s
  | .part k => partWrite k v s
  | .dest f => destWrite f v s
  | .colCfg => wrote (modCol (fun c => { c with abortLimit := bitsOf v 28 4 }) s)
  | .grpCtl => groupCtlWrite v s
  | .grpData i => wrote (modCol (fun c => { c with grpData := putReg c.grpData i v }) s)
  | .slotSel => wrote (modCol (fun c => { c with slotSel := bitsOf v 0 11 }) s)
  | .colMember i => memberWrite i v s
  | .loadAddr hi => wrote (if s.arr.loadBusy.isSome then s else modArr (fun u => { u with loadAddr := putHalf u.loadAddr hi v }) s)
  | .loadProg => wrote (if s.arr.loadBusy.isSome then s else modArr (fun u => { u with loadProg := v &&& 0xFFFF }) s)
  | .loadCtl => arrLoadCtlWrite v s
  | .arrSel => wrote (modArr (fun u => { u with sel := bitsOf v 0 10 }) s)
  | .cbCtl => arrCbCtlWrite v s
  | .cbData i => wrote (modArr (fun u => { u with cbData := putReg u.cbData i v }) s)
  | .syncCfg => syncCfgWrite v s
  | .itinCfg i => if i = 0 then itinCfg0Write v s else itinCfg1Write v s
  | .itinCommit hi => wrote (modTick (fun t => { t with commit := putHalf t.commit hi v }) s)
  | .stepSet hi => wrote (modTick (fun t => { t with stepSet := putHalf t.stepSet hi v }) s)
  | .itinCtl => itinCtlWrite v s
  | .itinData i => itinDataWrite i v s
  | .reproStat => wrote (modTick (fun t => { t with repro := t.repro &&& ~~~(bitsOf v 24 8) }) s)
  | .scrubCtl => scrubCtlWrite v s
  | .errLog i => if i = 0 ∧ bitAt v 31 then wrote (modMem (fun m => { m with errValid := false }) s) else wrote s
  | .tenantCtl => tenantCtlWrite v s
  | .ecCtl => ecCtlWrite v s
  | .ecCfg => ecCfgWrite v s
  | .ecData i => wrote (modMem (fun m => { m with ecData := putReg m.ecData i v }) s)
  | .svcTabCtl => svcTabCtlWrite v s
  | .svcSel => wrote (modSvc (fun u => { u with sel := bitsOf v 0 4 }) s)
  | .svcTabData i => wrote (if s.svc.busy then s else modSvc (fun u => { u with data := putReg u.data i v }) s)
  | .ltrPort n => ltrPortWrite n v s
  | .ltrNode => ltrNodeWrite v s
  | .idleCfg => idleCfgWrite v s
  | .capCtl => capCtlWrite v s
  | .ipCfg i => ipCfgWrite i v s
  | .roleCfg => roleCfgWrite v s
  | .deviceId | .bootStat | .fnid | .fltData _ | .membStat | .laneStat _ | .fecCnt _ | .fecSym _ | .eyeStat | .portStat _ | .portRtt _
  | .tollStat _ | .attachStat _ | .ctxStat _ | .relTx _ | .relRx _ | .relOcc _ | .cairnStat _ | .ringHead _ _ | .ringStat _ _
  | .portErr _ | .dropStat | .mirrorProd | .mirrorStat | .classStat _ | .auditStat | .errCnt | .partDrop | .trunkUp _ | .planeMap _
  | .colStat | .slotStat _ | .colAmax _ | .tlyStat | .arrMap _ | .arrayStat | .arrEcc | .ucode | .tickNow _ | .tickStep _ | .syncStat
  | .actCfg _ | .itinFail | .lateStat | .varyCnt | .scrubStat | .tenantGen | .ecStat | .stackStat _ | .eccCnt _ | .svcStat | .svcCnt
  | .svcPoolStat | .stateStat | .portState _ | .capStat | .inStat | .excStat | .energy _ | .thermStat | .mac _ | .nvStat | .fwStat
  | .ledgerStat | .ledgerSeq _ | .chainStat | .lockStat => wrote s

end Sys2Proof.Machine
end

