-- ==== Sys2Proof/Machine/Mahel.lean ====
section
/-! DEFINITION. Mahel's register commands: READ and WRITE (R459-R466, R472, R489-R495), and the commands that are one register's
read or write under a row of their own. -/

namespace Sys2Proof.Machine

open Sys2Proof

/-! ## Sessions and replies (R462, R465, R466) -/

/-- The values of RESULT. -/
def resOk : Byte := 0
def resDenied : Byte := 1
def resBusy : Byte := 2
def resFormat : Byte := 3
def resSignature : Byte := 4
def resRollback : Byte := 5
def resState : Byte := 6

def sessAt (s : State) (i : Nat) : Option Session := tabGet none s.mgt.sessions i
def modSess (i : Nat) (f : Session → Session) (s : State) : State :=
  modMgt (fun m => { m with sessions := tabMod none m.sessions i (Option.map f) }) s

/-- Run a command of an OPEN session; the message counts toward the client's IV (R462). A session that is not OPEN takes none. -/
def withSession (i : Nat) (f : Session → State → State) (s : State) : State :=
  match sessAt s i with
  | some x => if x.state = .open_ then f x (modSess i (fun y => { y with inCount := y.inCount + 1 }) s) else s
  | none => s

/-- A message of Mahel under the keys of a session (R462, R463): LEN, the AES-256-GCM ciphertext under K_m, with the IV that S_m and the
count of messages sent give, and its tag. -/
def sealedMsg (x : Session) (msg : List Byte) : List Byte :=
  let key : BitVec 256 := bitsOf x.keys 256 256
  let iv := bvBytes (bitsOf x.keys 544 32 : W32) ++ beBytes 8 x.outCount.toNat
  let stream := (List.range ((msg.length + 63) / 64)).flatMap fun k => bvBytes (gcmStream key iv k)
  let cipher := List.zipWith (· ^^^ ·) msg stream
  leBytes 4 (msg.length + 16) ++ cipher ++ bvBytes (gcmTag key iv [] cipher)

/-- Mahel's reply to a command: MTYPE with bit 7 set, RESULT, and the fields. -/
def reply (i : Nat) (mtype result : Byte) (body : List Byte) (s : State) : State :=
  let sent := match sessAt s i with | some x => [(i, sealedMsg x ([mtype ||| 0x80, result] ++ body))] | none => []
  modSess i (fun y => { y with outCount := y.outCount + 1 })
    (modMgt (fun m => { m with replies := m.replies ++ [⟨i, mtype ||| 0x80, some result, body⟩], wire := m.wire ++ sent }) s)

/-- A ledger entry that names the session. -/
def sessEntry (type : Nat) (x : Session) (result : Byte) (fields : List (Nat × Nat × Nat)) (s : State) : State :=
  ledgerSession type x.role.toNat result.toNat x.credId (detailOf fields) s

/-- The roles of the rights in R460. -/
def isOperator (role : Byte) : Bool := decide (role = 1)
def isInstaller (role : Byte) : Bool := decide (role = 2)
def isMaker (role : Byte) : Bool := decide (role = 3)
def isField (role : Byte) : Bool := isOperator role || isInstaller role
def anyRole (_ : Byte) : Bool := true

/-- A command other than READ and WRITE: in RECOVERY all but `inRecovery` ones answer STATE (R477), and a role without the right
is DENIED, with one REFUSED entry (R460, R472). -/
def command (i : Nat) (mtype : Byte) (right : Byte → Bool) (inRecovery : Bool) (f : Session → State → State) (s : State) : State :=
  withSession i (fun x s =>
    if s.mgt.recovery && !inRecovery then reply i mtype resState [] s
    else if !right x.role then reply i mtype resDenied [] (sessEntry 3 x resDenied [(16, 1, mtype.toNat)] s)
    else f x s) s

/-! ## WRITE (R466, R472, R492, R495) -/

/-- Registers that RECOVERY serves (R495). -/
def inMgt (r : Reg) : Bool :=
  match r with
  | .deviceId | .mac _ | .ipCfg _ | .roleCfg | .nvStat | .fwStat | .ledgerStat | .ledgerSeq _ | .chainStat | .lockStat => true
  | _ => false
def served (s : State) (r : Reg) : Bool := !s.mgt.recovery || inMgt r

/-- The DETAIL fields of a WRITE or REFUSED entry. -/
def writeFields (off old new v : W32) : List (Nat × Nat × Nat) :=
  [(0, 4, off.toNat), (4, 4, old.toNat), (8, 4, new.toNat), (12, 4, v.toNat)]

/-- A WRITE that R492 refuses changes nothing, leaves one REFUSED entry, and is answered with the word 0. -/
def writeFails (i : Nat) (x : Session) (result : Byte) (off old v : W32) (s : State) : State :=
  reply i 0x11 result (zeros 4) (sessEntry 3 x result (writeFields off old old v ++ [(16, 1, 0x11)]) s)

/-- A WRITE carried out: the reply shows the word after it, and the entry is WRITE, or REFUSED when the register refuses. -/
def writeDone (i : Nat) (x : Session) (r : Reg) (off old v : W32) (w : Wrote) : State :=
  let new := peekReg w.state r ||| (if w.busy then 0x80000000 else 0)
  let entry := if w.refused then sessEntry 3 x resOk (writeFields off old new v ++ [(16, 1, 0x11)]) w.state
    else sessEntry 2 x resOk (writeFields off old new v) w.state
  reply i 0x11 resOk (bvBytes new) entry

/-- WRITE of `v` at `off`. -/
def mahelWrite (i : Nat) (off v : W32) (s : State) : State :=
  withSession i (fun x s =>
    match regOf off.toNat with
    | none => writeFails i x resFormat off 0 v s
    | some r =>
      if !served s r then writeFails i x resState off 0 v s
      else if !mayWrite x.role r then writeFails i x resDenied off (peekReg s r) v s
      else writeDone i x r off (peekReg s r) v (writeReg x.role r v s)) s
def execWrite (sess : Nat) (off value : W32) (s : State) : Out := live s (mahelWrite sess off value s)

/-! ## READ (R466, R491, R495) -/

/-- The words of `k` registers from `off`, each read with its side effects; where no register is served, 0. -/
def readWords : Nat → Nat → State → List Byte × State
  | 0, _, s => ([], s)
  | k + 1, off, s =>
    let (w, t) : W32 × State := match regOf off with
      | none => (0, s)
      | some r => if served s r then (peekReg s r, readEffect r s) else (0, s)
    let (l, u) := readWords k (off + 4) t
    (bvBytes w ++ l, u)

/-- READ of `count` words at `off`. -/
def mahelRead (i : Nat) (off : W32) (count : Nat) (s : State) : State :=
  withSession i (fun _ s =>
    if off.toNat % 4 ≠ 0 ∨ count = 0 ∨ 256 < count then reply i 0x10 resFormat [] s
    else
      let (l, t) := readWords count off.toNat s
      reply i 0x10 resOk l t) s
def execRead (sess : Nat) (off : W32) (count : BitVec 16) (s : State) : Out := live s (mahelRead sess off count.toNat s)

/-! ## One register under its own row -/

/-- An offset, and a value made of fields. -/
def offOf (base o : Nat) : W32 := BitVec.ofNat 32 (base + o)
/-- A write whose unit must exist. -/
def unitWrite (ok : Bool) (unit : String) (i : Nat) (off v : W32) (s : State) : Out := liveIf ok unit s (mahelWrite i off v s)

/-- GLB. -/
def execGlbTopologyWrite (sess : Nat) (value : W32) (s : State) : Out := live s (mahelWrite sess 0x10 value s)
def execGlbFnidPinWrite (sess : Nat) (value : W32) (s : State) : Out := live s (mahelWrite sess 0x18 value s)
def execGlbRackIdWrite (sess : Nat) (value : W32) (s : State) : Out := live s (mahelWrite sess 0x1C value s)
def execGlbDrainCtlWrite (sess : Nat) (value : W32) (s : State) : Out := live s (mahelWrite sess 0x20 value s)
/-- The read of GLB_FLT_DATA[0], and POP in GLB_FLT_CTL (R393). -/
def execGlbFltDataRead (sess : Nat) (s : State) : Out := live s (mahelRead sess 0x40 1 s)
def execPop (sess : Nat) (value : W32) (s : State) : Out := live s (mahelWrite sess 0x60 (value ||| 0x80000000) s)

/-- LANE_PROFILE and LANE_EYE_CTL (R444, R445): ABORT leaves the scan's fields as they stand. -/
def execLaneProfileWrite (sess : Nat) (value : W32) (s : State) : Out := live s (mahelWrite sess 0x01002000 value s)
def execEyeScanStart (sess : Nat) (value : W32) (s : State) : Out := live s (mahelWrite sess 0x01002004 (value ||| 0x80000000) s)
def execEyeScanAbort (sess : Nat) (s : State) : Out := live s (mahelWrite sess 0x01002004 (s.lanes.eyeCtl ||| 0x40000000) s)

/-- PORT[n]_CFG (R446, R500); RESTART keeps PERS. -/
def execPortCfgWrite (sess n : Nat) (value : W32) (s : State) : Out :=
  unitWrite (decide (n < 64)) "port" sess (offOf 0x02000000 (0x10 * n)) value s
def execRestart (sess n : Nat) (s : State) : Out :=
  unitWrite (decide (n < 64)) "port" sess (offOf 0x02000000 (0x10 * n)) (pack [(30, persOf s n), (29, 1)]) s

/-- The space of an end-point block. -/
def epOff (n o : Nat) : W32 := offOf 0x03000000 (0x1000 * n + o)
def execEpSrcFnidWrite (sess n : Nat) (value : W32) (s : State) : Out :=
  unitWrite (decide (n < 64)) "end-point block" sess (epOff n 0) value s
def winOp (op : Nat) (sess n : Nat) (index : BitVec 10) (s : State) : Out :=
  unitWrite (decide (n < 64)) "end-point block" sess (epOff n 4) (pack [(26, op), (0, index.toNat)]) s
def execWinWrite (sess n : Nat) (index : BitVec 10) (s : State) : Out := winOp 1 sess n index s
def execWinRead (sess n : Nat) (index : BitVec 10) (s : State) : Out := winOp 2 sess n index s
def execWinInvalidate (sess n : Nat) (index : BitVec 10) (s : State) : Out := winOp 3 sess n index s
def execRetxCfgWrite (sess : Nat) (p : Point) (value : W32) (s : State) : Out :=
  match p with
  | .ep n => unitWrite (decide (n < 64)) "end-point block" sess (epOff n 0x34) value s
  | .rte => live s (mahelWrite sess 0x06000020 value s)

/-- SWC (R147, R150). -/
def execMcastWrite (sess : Nat) (index : BitVec 12) (s : State) : Out :=
  live s (mahelWrite sess 0x0400021C (pack [(27, 1), (0, index.toNat)]) s)
def execMcastRead (sess : Nat) (index : BitVec 12) (s : State) : Out :=
  live s (mahelWrite sess 0x0400021C (pack [(27, 2), (0, index.toNat)]) s)
def execSwcMirrorCtlWrite (sess : Nat) (value : W32) (s : State) : Out := live s (mahelWrite sess 0x04000220 value s)

/-- POOL (R129-R131). -/
def poolWrite (base sess c : Nat) (value : W32) (s : State) : Out :=
  unitWrite (decide (c < 4)) "class pool" sess (offOf base (4 * c)) value s
def execPoolClassCfgWrite (sess c : Nat) (value : W32) (s : State) : Out := poolWrite 0x05000000 sess c value s
def execPoolThreshWrite (sess c : Nat) (value : W32) (s : State) : Out := poolWrite 0x05000010 sess c value s
def execPoolPortLimitWrite (sess c : Nat) (value : W32) (s : State) : Out := poolWrite 0x05000020 sess c value s

/-- RTE (R60, R163, R164, R185). -/
def execRtePlaneArm (sess : Nat) (s : State) : Out := live s (mahelWrite sess 0x06000004 0x40000000 s)
def execRtePlaneCancel (sess : Nat) (alsoArm : Bool) (s : State) : Out :=
  live s (mahelWrite sess 0x06000004 (pack [(30, ofB alsoArm), (29, 1)]) s)
def execRteDestWrite (sess f : Nat) (value : W32) (s : State) : Out :=
  unitWrite (decide (f < 2048)) "accelerator FNID" sess (offOf 0x06004000 (4 * f)) value s
def execRteTrunkEnWrite (sess k : Nat) (value : W32) (s : State) : Out :=
  unitWrite (decide (k < 2)) "word of RTE_TRUNK_EN" sess (offOf 0x06000010 (4 * k)) value s
def execRteCmapCtlWrite (sess : Nat) (value : W32) (s : State) : Out := live s (mahelWrite sess 0x06000040 value s)

/-- COL (R277, R278). -/
def groupOp (op : Nat) (sess : Nat) (index : BitVec 12) (s : State) : Out :=
  live s (mahelWrite sess 0x07000008 (pack [(26, op), (0, index.toNat)]) s)
def execColGrpWrite (sess : Nat) (index : BitVec 12) (s : State) : Out := groupOp 1 sess index s
def execColGrpRead (sess : Nat) (index : BitVec 12) (s : State) : Out := groupOp 2 sess index s
def execColGrpInvalidate (sess : Nat) (index : BitVec 12) (s : State) : Out := groupOp 3 sess index s
def execColMemberWrite (sess i : Nat) (value : W32) (s : State) : Out :=
  unitWrite (decide (i < 32768)) "word of COL_MEMBER" sess (offOf 0x07020000 (4 * i)) value s

/-- ARR (R331, R339). -/
def execArrLoad (sess : Nat) (array : BitVec 10) (s : State) : Out :=
  live s (mahelWrite sess 0x0900008C (pack [(25, 1), (0, array.toNat)]) s)
def execArrUnload (sess : Nat) (array : BitVec 10) (s : State) : Out :=
  live s (mahelWrite sess 0x0900008C (pack [(25, 2), (0, array.toNat)]) s)
def cbOp (op : Nat) (sess : Nat) (group entry : BitVec 4) (s : State) : Out :=
  live s (mahelWrite sess 0x090000A0 (pack [(26, op), (4, group.toNat), (0, entry.toNat)]) s)
def execArrCbWrite (sess : Nat) (group entry : BitVec 4) (s : State) : Out := cbOp 1 sess group entry s
def execArrCbRead (sess : Nat) (group entry : BitVec 4) (s : State) : Out := cbOp 2 sess group entry s

/-- TICK (R222, R228). -/
def execTickSyncCfgWrite (sess : Nat) (value : W32) (s : State) : Out := live s (mahelWrite sess 0x0A000010 value s)
def itinCtl (sess v : Nat) (s : State) : Out := live s (mahelWrite sess 0x0A000040 (BitVec.ofNat 32 v) s)
def itinAt (op : Nat) (sess : Nat) (index : BitVec 16) (s : State) : Out := itinCtl sess (op * 2 ^ 24 + index.toNat) s
def execItinOpWrite (sess : Nat) (index : BitVec 16) (s : State) : Out := itinAt 1 sess index s
def execItinOpReadStage (sess : Nat) (index : BitVec 16) (s : State) : Out := itinAt 2 sess index s
def execItinOpReadActive (sess : Nat) (index : BitVec 16) (s : State) : Out := itinAt 3 sess index s
def execItinArm (sess : Nat) (loadStep : Bool) (s : State) : Out := itinCtl sess (2 ^ 23 + ofB loadStep * 2 ^ 21) s
def execItinCancel (sess : Nat) (alsoArm : Bool) (s : State) : Out := itinCtl sess (2 ^ 22 + ofB alsoArm * 2 ^ 23) s

/-- MEM (R386, R406, R407). -/
def execTenantScrub (sess : Nat) (s : State) : Out := live s (mahelWrite sess 0x0B000010 0x08000000 s)
def ecOpWrite (v : List (Nat × Nat)) (sess : Nat) (s : State) : Out := live s (mahelWrite sess 0x0B000020 (pack v) s)
def execEcWrite (sess : Nat) (entry : BitVec 3) (s : State) : Out := ecOpWrite [(26, 1), (0, entry.toNat)] sess s
def execEncode (sess : Nat) (entry : BitVec 3) (s : State) : Out := ecOpWrite [(26, 2), (0, entry.toNat)] sess s
def execRebuild (sess : Nat) (rank : BitVec 4) (entry : BitVec 3) (s : State) : Out :=
  ecOpWrite [(26, 3), (8, rank.toNat), (0, entry.toNat)] sess s
def execEcAbort (sess : Nat) (s : State) : Out := ecOpWrite [(25, 1)] sess s

/-- SVC (R345, R346). -/
def svcOp (op : Nat) (sess : Nat) (index : BitVec 4) (s : State) : Out :=
  live s (mahelWrite sess 0x0C000000 (pack [(26, op), (0, index.toNat)]) s)
def execSvcTabWrite (sess : Nat) (index : BitVec 4) (s : State) : Out := svcOp 1 sess index s
def execSvcTabRead (sess : Nat) (index : BitVec 4) (s : State) : Out := svcOp 2 sess index s
def execSvcTabDrain (sess : Nat) (index : BitVec 4) (s : State) : Out := svcOp 3 sess index s

/-- PWR (R416): the tolerance of a port, or of the node. -/
def execPwrLtrWrite (sess : Nat) (port : Option Nat) (value : W32) (s : State) : Out :=
  match port with
  | some n => unitWrite (decide (n < 64)) "port" sess (offOf 0x0D000000 (4 * n)) value s
  | none => live s (mahelWrite sess 0x0D000100 value s)

end Sys2Proof.Machine
end

