-- ==== Sys2Proof/Machine/Sessions.lean ====
section
/-! DEFINITION. Sessions, settings and the ledger: opening and closing (R462-R465), STORE (R467-R470), LEDGER_READ and the
store's entries (R471-R474), and enrolment (R466, R481). -/

namespace Sys2Proof.Machine

open Sys2Proof

/-! ## Credentials (R463, R464) -/

/-- The first 8 bytes of the SHA-384 of a public key. -/
def credIdOf (key : BitVec 776) : BitVec 64 := bitsOf (sha384v (bvBytes key)) 0 64
def credOf (key : BitVec 776) : Cred := ⟨credIdOf key, key⟩

/-- The credentials of a role. -/
def credsOf (s : State) (role : Byte) : List Cred :=
  if isOperator role then s.mgt.nv.operators
  else if isInstaller role then s.mgt.nv.installers
  else if isMaker role then s.fuses.makers
  else []

/-! ## The session state machine (R463, R465) -/

/-- The DETAIL of a SESSION entry: EVENT 1 open, 2 close, 3 failure; REASON; the client's address and port. -/
def sessionFields (event reason : Nat) (x : Session) : List (Nat × Nat × Nat) :=
  [(0, 1, event), (1, 1, reason), (4, 4, x.ip.toNat), (8, 2, x.tcp.toNat)]

/-- Failures of a role that count toward its lockout, the last 8 of them, in milliseconds. -/
def failTimes (s : State) (role : Byte) : List Nat := tabGet [] s.mgt.failures role.toNat
def noteFailure (role : Byte) (now : Nat) (s : State) : State :=
  let l := failTimes s role ++ [now]
  modMgt (fun m => { m with failures := tabSet [] m.failures role.toNat (l.drop (l.length - 8)) }) s

/-- 8 failures of a role within 60 s lock it for 60 s from the eighth. -/
def lockedOut (s : State) (role : Byte) (now : Nat) : Bool :=
  match failTimes s role with
  | [a, _, _, _, _, _, _, h] => decide (h ≤ a + 60000) && decide (now < h + 60000)
  | _ => false

/-- A failure: an MGT_SESSION_FAIL record with the role (R488), and a SESSION entry. -/
def sessionFailed (reason : Nat) (x : Session) (s : State) : State :=
  sessEntry 1 x resDenied (sessionFields 3 reason x) (devFault0 0xC0 sevWarn x.role.toNat 0 s)

/-- The management port's fixed address as set; none where DHCPv4 gives it (R461). -/
def netOf (n : Nv) : Option Net := if n.ipAddr = 0 then none else some ⟨n.ipAddr, n.ipMask, n.ipGw⟩

/-- The session is CLOSED. Once no session is open, a change of the management port's address takes effect (R461). -/
def dropSession (i : Nat) (s : State) : State :=
  modMgt (fun m =>
    let left := tabSet none m.sessions i none
    { m with sessions := left, net := if left.any (fun e => e.2.any fun x => decide (x.state = .open_)) then m.net else netOf m.nv }) s

/-- A failure that counts, of a session in PROVING or of an OPEN. -/
def failSession (i reason now : Nat) (x : Session) (s : State) : State :=
  dropSession i (noteFailure x.role now (sessionFailed reason x s))

/-- The close of an OPEN session. -/
def closeSess (i reason : Nat) (s : State) : State :=
  match sessAt s i with
  | none => s
  | some x => dropSession i (if x.state = .open_ then sessEntry 1 x resOk (sessionFields 2 reason x) s else s)

/-- The limits of R465, sessions in PROVING among them. -/
def withinLimits (s : State) (role : Byte) : Bool :=
  let l := s.mgt.sessions.filterMap (·.2)
  decide (l.length < 4) && !(!isOperator role && l.any fun x => decide (x.role = role))

/-- The voucher of an OPEN, if any, may be used: an INSTALLER's, while CLAIMED is 0, for this module and well signed (R464). -/
def voucherOk (s : State) (role : Byte) (v : Voucher) : Bool :=
  isInstaller role && !s.mgt.claimed && decide (v.fingerprint = sha384v (bvBytes s.fuses.idPub)) && v.sigOk

def voucherBytes (v : Option Voucher) : List Byte :=
  match v with | some v => bvBytes v.fingerprint ++ bvBytes v.key ++ bvBytes v.sig | none => []

/-- OPEN as sent, and ACCEPT without its SIG: octet strings, MTYPE first. -/
def openBytes (role : Byte) (cred : BitVec 64) (nonce : BitVec 384) (epub : BitVec 776) (v : Option Voucher) : List Byte :=
  [1, role] ++ bvBytes cred ++ bvBytes nonce ++ bvBytes epub ++ voucherBytes v
def acceptBytes (s : State) (k : Nat) : List Byte := freshKeyBytes k ++ bvBytes s.fuses.idPub

/-- Mahel sends ACCEPT in the clear, and the session is PROVING. NONCE and EPUB's coordinates are free octets. -/
def sendAccept (i : Nat) (opened : List Byte) (x : Session) (s : State) : State :=
  let acc := acceptBytes s s.freeCount
  let th := sha384v (opened ++ [2] ++ acc)
  let body := acc ++ bvBytes (Config.signature (bvBytes th ++ [2]))
  modMgt (fun m => { m with
    sessions := tabSet none m.sessions i (some { x with th := th })
    replies := m.replies ++ [⟨i, 2, none, body⟩]
    wire := m.wire ++ [(i, leBytes 4 (body.length + 1) ++ [2] ++ body)] })
    { s with freeCount := s.freeCount + 1 }

/-- OPEN on connection `i`; one beyond the limits, of no role, or in RECOVERY not of the INSTALLER, only closes it. -/
def openSession (i : Nat) (role : Byte) (cred : BitVec 64) (nonce : BitVec 384) (epub : BitVec 776) (v : Option Voucher) (ip : W32)
    (tcp : BitVec 16) (now : Nat) (s : State) : State :=
  let x : Session := { state := .proving, role := role, credId := cred, voucher := v, th := 0, keys := 0, ip := ip, tcp := tcp }
  if (sessAt s i).isSome ∨ !withinLimits s role ∨ !(isField role || isMaker role) ∨ (s.mgt.recovery ∧ !isInstaller role) then s
  else if lockedOut s role now then sessionFailed 3 x s
  else if isMaker role ∧ !bitAt s.mgt.nv.roleCfg 31 ∧ s.mgt.claimed then failSession i 5 now x s
  else if !(match v with | some v => voucherOk s role v | none => true) then failSession i 4 now x s
  else sendAccept i (openBytes role cred nonce epub v) x s
def execOpenSession (sess : Nat) (role : Byte) (credId : BitVec 64) (nonce : BitVec 384) (epub : BitVec 776) (voucher : Option Voucher)
    (ip : W32) (tcp : BitVec 16) (now : Nat) (s : State) : Out :=
  live s (openSession sess role credId nonce epub voucher ip tcp now s)

/-- A key enrolled as an INSTALLER credential by voucher; it and CLAIMED persist at once (R464), in the active bank and in the snapshot that
a STORE is writing. -/
def claim (x : Session) (key : BitVec 776) (s : State) : State :=
  let add (n : Nv) : Nv := { n with installers := n.installers ++ [credOf key] }
  let kept : Bank → Bank := fun b => { b with nv := add b.nv }
  let first : Bank := ⟨add {}, 1⟩
  let s := modMgt (fun m =>
    let m := { m with nv := add m.nv, claimed := true, storing := m.storing.map add }
    if m.bank0.isNone && m.bank1.isNone then { m with bank0 := some first, activeBank := false }
    else if m.activeBank then { m with bank1 := m.bank1.map kept }
    else { m with bank0 := m.bank0.map kept }) s
  sessEntry 11 x resOk [(0, 1, 3), (2, 8, (credIdOf key).toNat)] s

/-- The session has a key that PROVE may be checked against: the voucher's, or the enrolled credential of ROLE that CRED_ID names. -/
def provable (s : State) (x : Session) : Bool := x.voucher.isSome || (credsOf s x.role).any fun c => decide (c.id = x.credId)

/-- PROVE. -/
def prove (i : Nat) (sigOk : Bool) (now : Nat) (s : State) : State :=
  match sessAt s i with
  | none => s
  | some x =>
    if x.state = .open_ then s
    else if !provable s x ∨ !sigOk then failSession i 1 now x s
    else
      let s := modSess i (fun y => { y with state := .open_, keys := Config.sessionKeys y.th }) s
      let s := match x.voucher with | some v => claim x v.key s | none => s
      sessEntry 1 x resOk (sessionFields 1 0 x) s
def execProve (sess : Nat) (sigOk : Bool) (now : Nat) (s : State) : Out := live s (prove sess sigOk now s)

/-- A session in PROVING fails. -/
def failProving (i reason now : Nat) (s : State) : State :=
  match sessAt s i with
  | some x => if x.state = .proving then failSession i reason now x s else s
  | none => s

/-- PROVE_TIMEOUT. -/
def execProveTimeout (sess now : Nat) (s : State) : Out := live s (failProving sess 2 now s)

/-- An OPEN session closes. -/
def closeOpen (i reason : Nat) (s : State) : State :=
  match sessAt s i with
  | some x => if x.state = .open_ then closeSess i reason s else s
  | none => s

/-- SESSION_IDLE_TIMEOUT. -/
def execSessionIdleTimeout (sess : Nat) (s : State) : Out := live s (closeOpen sess 1 s)

/-- SESSION_MESSAGE_ERROR: an OPEN session closes; one in PROVING has no PROVE that verifies. -/
def execSessionMessageError (sess now : Nat) (s : State) : Out := live s (failProving sess 1 now (closeOpen sess 2 s))

/-- CLOSE. -/
def closeCommand (i : Nat) (s : State) : State := command i 0x1F anyRole true (fun _ s => closeSess i 0 (reply i 0x1F resOk [] s)) s
def execCloseSession (sess : Nat) (s : State) : Out := live s (closeCommand sess s)

/-- Every session closes with Mahel (reason 3). -/
def closeAll (s : State) : State := forEach (s.mgt.sessions.map (·.1)) (closeSess · 3) s

/-- Mahel stops for a reset: its sessions close, and the entries that wait are stored, the closes among them (R465, assumption 21). -/
def stopMahel (s : State) : State :=
  let s := closeAll s
  forEach (List.range s.mgt.queue.length) (fun _ => ledgerStoreOne) s

/-- WATCHDOG_RESTART: Mahel alone restarts, and the die keeps its state. -/
def execWatchdogRestart (s : State) : Out := live s (devFault0 0xC5 sevWarn 0 0 (closeAll s))

/-! ## STORE (R467-R470) -/

/-- STORE takes its snapshot. -/
def storeCommand (i : Nat) (s : State) : State :=
  command i 0x12 isField false (fun _ s =>
    if s.mgt.storing.isSome then reply i 0x12 resBusy [] s
    else reply i 0x12 resOk [] (modMgt (fun m => { m with storing := some m.nv }) s)) s
def execStoreSettings (sess : Nat) (s : State) : Out := live s (storeCommand sess s)

/-- The sequence number of the active bank. -/
def activeSeq (s : State) : Nat := match (if s.mgt.activeBank then s.mgt.bank1 else s.mgt.bank0) with | some b => b.seq | none => 0

/-- STORE_DONE: the inactive bank is written and becomes active; past its rating the bank writes an MGT_NV record (R470, R488). -/
def storeDone (s : State) : State :=
  match s.mgt.storing with
  | none => s
  | some n =>
    let seq := activeSeq s + 1
    let bank := !s.mgt.activeBank
    let s := modMgt (fun m =>
      let m := { m with storing := none, activeBank := bank }
      if bank then { m with bank1 := some ⟨n, seq⟩, wear1 := m.wear1 + 1 } else { m with bank0 := some ⟨n, seq⟩, wear0 := m.wear0 + 1 }) s
    let s := ledgerDevice 4 0 (detailOf [(0, 8, seq), (8, 1, ofB bank)]) s
    if 100000 < (if bank then s.mgt.wear1 else s.mgt.wear0) then devFault0 0xC2 sevError (ofB bank) 0 s else s
def execStoreDone (s : State) : Out := live s (storeDone s)

/-! ## The ledger (R471-R474) -/

/-- SEQ of a stored entry. -/
def entrySeq (b : BitVec 1024) : Nat := (bitsOf b 0 64).toNat

/-- The entries that a LEDGER_READ returns. -/
def entriesFrom (s : State) (first count : Nat) : List (BitVec 1024) :=
  s.mgt.store.filter fun b => decide (first ≤ entrySeq b) && decide (entrySeq b < first + count)

/-- HEAD_SIG signs this: "LEDGER1", HEAD_SEQ, the hash of the head entry, and NONCE. With no entry stored, the hash is 48 zero bytes. -/
def headSigned (s : State) (nonce : BitVec 384) : List Byte :=
  [0x4C, 0x45, 0x44, 0x47, 0x45, 0x52, 0x31] ++ beBytes 8 s.mgt.headSeq.toNat
    ++ (match s.mgt.store.getLast? with | some b => sha384 (bvBytes b) | none => zeros 48) ++ bvBytes nonce

/-- LEDGER_READ. -/
def ledgerRead (i : Nat) (first : BitVec 64) (count : BitVec 16) (nonce : BitVec 384) (s : State) : State :=
  command i 0x13 anyRole false (fun _ s =>
    if count = 0 ∨ 15 < count.toNat then reply i 0x13 resFormat [] s
    else
      let l := entriesFrom s first.toNat count.toNat
      reply i 0x13 resOk (bvBytes s.mgt.headSeq ++ bvBytes (Config.signature (headSigned s nonce)) ++ [BitVec.ofNat 8 l.length]
        ++ l.flatMap bvBytes) s) s
def execLedgerRead (sess : Nat) (first : BitVec 64) (count : BitVec 16) (nonce : BitVec 384) (s : State) : Out :=
  live s (ledgerRead sess first count nonce s)

/-- LEDGER_FLUSH. -/
def execLedgerFlush (s : State) : Out := live s (ledgerStoreOne s)

/-- The LOST entry, once the queue has space, with its record (R473, R488). -/
def ledgerLost (s : State) : State :=
  if s.mgt.lostWaiting = 0 ∨ 256 ≤ s.mgt.queue.length then s
  else devFault0 0xC1 sevError 0 0 (ledgerDevice 14 0 (detailOf [(0, 4, s.mgt.lostWaiting)]) (modMgt (fun m => { m with lostWaiting := 0 }) s))
def execLedgerLost (s : State) : Out := live s (ledgerLost s)

/-! ## Enrolment (R466, R481) -/

/-- A list of at most `limit` entries with `a` added; none where it is full. -/
def addTo {α : Type} [DecidableEq α] (limit : Nat) (l : List α) (a : α) : Option (List α) :=
  if l.contains a then some l else if limit ≤ l.length then none else some (l ++ [a])

/-- The TRUNK ports whose accepted peer has a fingerprint. -/
def portsOfPeer (s : State) (print : BitVec 384) : List Nat :=
  (List.range 64).filter fun n => isTrunk s n && (portOf s n).peerOk && decide ((portOf s n).peerPrint = print)

/-- Take a peer off the list: its TRUNK ports go to RESET with cause ADMIN. -/
def removePeer (print : BitVec 384) (s : State) : State :=
  let gone := portsOfPeer s print
  forEach gone (fun n => portTo n .reset (some causeAdmin)) (nvMod (fun v => { v with peers := v.peers.filter fun p => decide (p ≠ print) }) s)

/-- What an ENROLL changes, with the entries then in use; none where the list is full. -/
def enrollDo (kind : Nat) (remove : Bool) (key : BitVec 776) (s : State) : Option (Nat × State) :=
  let print : BitVec 384 := bitsOf key 0 384
  match kind, remove with
  | 0, false => (addTo 128 s.mgt.nv.peers print).map fun l => (l.length, nvMod (fun v => { v with peers := l }) s)
  | 0, true => let t := removePeer print s; some (t.mgt.nv.peers.length, t)
  | 1, false => (addTo 8 s.mgt.nv.operators (credOf key)).map fun l => (l.length, nvMod (fun v => { v with operators := l }) s)
  | 1, true =>
    let l := s.mgt.nv.operators.filter fun c => decide (c ≠ credOf key)
    some (l.length, nvMod (fun v => { v with operators := l }) s)
  | _, false => (addTo 8 s.mgt.nv.installers (credOf key)).map fun l =>
      (l.length, modMgt (fun m => { m with claimed := true }) (nvMod (fun v => { v with installers := l }) s))
  | _, true =>
    let l := s.mgt.nv.installers.filter fun c => decide (c ≠ credOf key)
    some (l.length, nvMod (fun v => { v with installers := l }) s)

/-- CRED_ID of an ENROL entry: of the credential, or the first 8 bytes of the fingerprint. -/
def enrolledId (kind : Nat) (key : BitVec 776) : BitVec 64 := if kind = 0 then bitsOf key 0 64 else credIdOf key

/-- ENROLL. -/
def enroll (i : Nat) (kind action : Byte) (key : BitVec 776) (s : State) : State :=
  command i 0x19 isInstaller false (fun x s =>
    if 2 < kind.toNat ∨ 1 < action.toNat then reply i 0x19 resFormat [] s
    else match enrollDo kind.toNat (decide (action = 1)) key s with
      | none => reply i 0x19 resState [] s
      | some (used, s) =>
        reply i 0x19 resOk [BitVec.ofNat 8 used]
          (sessEntry 11 x resOk [(0, 1, kind.toNat), (1, 1, action.toNat), (2, 8, (enrolledId kind.toNat key).toNat)] s)) s
def execEnroll (sess : Nat) (kind action : Byte) (key : BitVec 776) (s : State) : Out := live s (enroll sess kind action key s)

end Sys2Proof.Machine
end

