-- ==== Sys2Proof/Machine/Firmware.lean ====
section
/-! DEFINITION. Firmware slots (R475-R477, R479), fuses (R480) and test access (R482). -/

namespace Sys2Proof.Machine

open Sys2Proof

/-! ## Images (R475) -/

def slotAt (s : State) (b : Bool) : FwSlot := if b then s.mgt.slotB else s.mgt.slotA
def modFw (b : Bool) (f : FwSlot → FwSlot) (s : State) : State :=
  modMgt (fun m => if b then { m with slotB := f m.slotB } else { m with slotA := f m.slotA }) s

/-- `n` bytes of an image from `off`. -/
def imgBytes (x : FwSlot) (off n : Nat) : List Byte := (List.range n).map fun i => tabGet 0 x.image (off + i)
def imgField (x : FwSlot) (off n : Nat) : Nat := leNat (imgBytes x off n)
def imgVersion (x : FwSlot) : Nat := imgField x 4 4
def imgUcode (x : FwSlot) : BitVec 16 := BitVec.ofNat 16 (imgField x 8 2)
def imgSvn (x : FwSlot) : Nat := imgField x 10 1
def imgLen (x : FwSlot) : Nat := imgField x 12 4
def imgCount (x : FwSlot) : Nat := imgField x 64 2
def imgHash (x : FwSlot) : List Byte := imgBytes x 16 48

/-- MAGIC, and the reserved fields of the header; a LENGTH beyond the slot and an SVN above 63 are FORMAT too (DEDUCED). -/
def imgFormat (x : FwSlot) : Bool :=
  decide (imgField x 0 4 = 0xA7D0F11E) && decide (imgField x 11 1 = 0) && decide (imgField x 66 62 = 0) && decide (imgField x 224 32 = 0)
    && decide (imgLen x ≤ 1572608) && decide (imgSvn x ≤ 63)

/-- Step 2 of R476: the RESULT of the checks in their order. `sigOk` is the verdict on SIG. -/
def imgCheck (s : State) (x : FwSlot) (sigOk : Bool) : Byte :=
  if !imgFormat x then resFormat
  else if !sigOk || decide (sha384 (imgBytes x 256 (imgLen x)) ≠ imgHash x) then resSignature
  else if imgSvn x < s.fuses.svn.toNat then resRollback
  else resOk

/-- The codes of SLOT_A and SLOT_B. -/
def slotWriting : BitVec 2 := 1
def slotValid : BitVec 2 := 2
def slotInvalid : BitVec 2 := 3

/-- Verify a slot: VALID or INVALID. -/
def verifySlot (b : Bool) (sigOk : Bool) (s : State) : Byte × State :=
  let r := imgCheck s (slotAt s b) sigOk
  (r, modFw b (fun x => { x with state := if r = resOk then slotValid else slotInvalid }) s)

/-- The DETAIL of a FW entry. -/
def fwFields (s : State) (action : Nat) (b : Bool) : List (Nat × Nat × Nat) :=
  [(0, 1, action), (1, 1, ofB b), (4, 4, imgVersion (slotAt s b)), (8, 1, imgSvn (slotAt s b))]

/-! ## Commands (R466, R476) -/

/-- FW_WRITE: into the slot that is not running; in RECOVERY, the one that RUN does not name. -/
def fwWrite (i : Nat) (off : W32) (len : BitVec 16) (data : List Byte) (s : State) : State :=
  command i 0x14 isField true (fun x s =>
    if len = 0 ∨ 1024 < len.toNat ∨ data.length ≠ len.toNat ∨ 1572864 < off.toNat + len.toNat then reply i 0x14 resFormat [] s
    else
      let b := !s.mgt.runB
      let fresh := decide ((slotAt s b).state ≠ slotWriting)
      let s := modFw b (fun y => { state := slotWriting, confirmed := false
                                   image := (List.range data.length).foldl (fun t k => tabSet 0 t (off.toNat + k) (data.getD k 0)) y.image }) s
      reply i 0x14 resOk [] (if fresh then sessEntry 5 x resOk (fwFields s 1 b) s else s)) s
def execFwWrite (sess : Nat) (off : W32) (len : BitVec 16) (data : List Byte) (s : State) : Out := live s (fwWrite sess off len data s)

/-- FW_VERIFY. -/
def fwVerify (i : Nat) (sigOk : Bool) (s : State) : State :=
  command i 0x15 isField true (fun x s =>
    let b := !s.mgt.runB
    let (r, s) := verifySlot b sigOk s
    reply i 0x15 r [((slotAt s b).state.zeroExtend 8)] (sessEntry 5 x r (fwFields s 2 b) s)) s
def execFwVerify (sess : Nat) (sigOk : Bool) (s : State) : Out := live s (fwVerify sess sigOk s)

/-- FW_ACTIVATE. -/
def fwActivate (i : Nat) (s : State) : State :=
  command i 0x16 isInstaller true (fun x s =>
    let b := !s.mgt.runB
    if (slotAt s b).state ≠ slotValid then reply i 0x16 resState [] s
    else reply i 0x16 resOk [] (sessEntry 5 x resOk (fwFields s 3 b) (modMgt (fun m => { m with nextB := b }) s))) s
def execFwActivate (sess : Nat) (s : State) : Out := live s (fwActivate sess s)

/-- The FUSE entry of a burn. -/
def fuseFields (id : BitVec 16) (value after : Nat) : List (Nat × Nat × Nat) := [(0, 2, id.toNat), (2, 4, value), (6, 4, after)]

/-- SVN_FUSE is burned up to an image's SVN; the spec gives the fuse no FUSE_ID, so the entry's is a free value (assumption 43). -/
def burnSvn (x : Session) (svn : Nat) (s : State) : State :=
  let svn := min svn 63
  if svn ≤ s.fuses.svn.toNat then s
  else
    let (id, s) := takeFree s
    sessEntry 12 x resOk (fuseFields (bitsOf id 0 16) svn svn) { s with fuses := { s.fuses with svn := BitVec.ofNat 6 svn } }

/-- FW_CONFIRM, while a trial runs (assumption 23). -/
def fwConfirm (i : Nat) (s : State) : State :=
  command i 0x17 isInstaller true (fun x s =>
    if !s.mgt.trial then reply i 0x17 resState [] s
    else
      let b := s.mgt.runB
      let s := modFw b (fun y => { y with confirmed := true }) (modMgt (fun m => { m with trial := false, trialLeft := 0, earlierB := b }) s)
      reply i 0x17 resOk [] (burnSvn x (imgSvn (slotAt s b)) (sessEntry 5 x resOk (fwFields s 4 b) s))) s
def execFwConfirm (sess : Nat) (s : State) : Out := liveFuses s (fwConfirm sess s)

/-- TRIAL_EXPIRY. -/
def trialExpiry (s : State) : State :=
  if !s.mgt.trial then s
  else
    let b := s.mgt.runB
    let s := modMgt (fun m => { m with trial := false, trialLeft := 0, nextB := m.earlierB }) s
    devFault0 0xC3 sevError (ofB b) 0 (ledgerDevice 5 0 (detailOf (fwFields s 5 b)) s)
def execTrialExpiry (s : State) : Out := live s (trialExpiry s)

/-- Service image `k` of the running image (assumption 7). -/
def serviceLen (s : State) (k : Nat) : Nat := (Config.serviceImageLen (imgHash (slotAt s s.mgt.runB)) k).toNat
def serviceImage (s : State) (k : Nat) : List Byte := (List.range (serviceLen s k)).map (Config.serviceImage (imgHash (slotAt s s.mgt.runB)) k)

/-- FW_IMAGE_COPY: an image that does not exist or a place outside the region of R27 is FORMAT; in RECOVERY no image runs. While the memory
takes no access, it is refused with STATE: DESIGN CHOICE (assumption 72). -/
def fwImageCopy (i : Nat) (index : BitVec 16) (off : BitVec 64) (s : State) : State :=
  command i 0x18 isField true (fun _ s =>
    let k := index.toNat
    let n := serviceLen s k
    if s.mgt.recovery || s.mem.tenantBusy || s.pwr.tripped then reply i 0x18 resState [] s
    else if imgCount (slotAt s s.mgt.runB) ≤ k ∨ stackedSize < off.toNat + n then reply i 0x18 resFormat [] s
    else reply i 0x18 resOk (leBytes 4 n) (putOwn off.toNat (serviceImage s k) s)) s
def execFwImageCopy (sess : Nat) (index : BitVec 16) (off : BitVec 64) (s : State) : Out := live s (fwImageCopy sess index off s)

/-! ## Fuses (R480) -/

/-- A map leaves every array group with 64 arrays or more (R16). -/
def mapOk (m : BitVec 864) : Bool := (List.range 12).all fun g => decide (64 ≤ popcount (bitsOf m (72 * g) 72))

/-- The fuses after a burn, with the item's value then; none where R480 refuses it. -/
def burn (f : Fuses) (item : FuseItem) (v : W32) : Option (Fuses × W32) :=
  match item with
  | .mapWord k =>
    let old := wordOf f.map k
    let m := putReg f.map k v
    if 27 ≤ k ∨ v &&& ~~~old ≠ 0 ∨ !mapOk m then none else some ({ f with map := m }, v)
  | .svn => if 63 < v.toNat ∨ v.toNat < f.svn.toNat then none else some ({ f with svn := BitVec.ofNat 6 v.toNat }, v)
  | .trim k => if tabGet 0 f.trims k ≠ 0 ∧ tabGet 0 f.trims k ≠ v then none else some ({ f with trims := tabSet 0 f.trims k v }, v)
  | .other => none

/-- FUSE. `item` is what FUSE_ID names, since the spec does not number the fuses. -/
def fuse (i : Nat) (id : BitVec 16) (item : FuseItem) (v : W32) (s : State) : State :=
  command i 0x1B isMaker false (fun x s =>
    match burn s.fuses item v with
    | none => reply i 0x1B resFormat [] s
    | some (f, after) => reply i 0x1B resOk (bvBytes after) (sessEntry 12 x resOk (fuseFields id v.toNat after.toNat) { s with fuses := f })) s
def execFuse (sess : Nat) (id : BitVec 16) (item : FuseItem) (value : W32) (s : State) : Out := liveFuses s (fuse sess id item value s)

/-! ## Test access (R482) -/

/-- TAP_UNLOCK: the scrub of R387, then TAP_OPEN. GEN never wraps (R388), so at its end the scrub cannot be made. -/
def tapUnlock (i : Nat) (s : State) : State :=
  command i 0x1C isMaker false (fun x s =>
    if !drained s ∨ s.mem.gen = 0xFFFF_FFFF then reply i 0x1C resState [] s
    else
      let s := modMgt (fun m => { m with tapOpen := true }) (scrubEntry 3 (scrubAll s))
      reply i 0x1C resOk [] (sessEntry 13 x resOk [(0, 1, 1)] s)) s
def execTapUnlock (sess : Nat) (s : State) : Out := live s (tapUnlock sess s)

/-- What IDCODE shifts out. -/
def idcode : W32 := 0x1002414F

/-- TEST_ACCESS_INSTRUCTION: while locked, every instruction but IDCODE acts as BYPASS; unlocked, others act in full, and the spec
does not say what they do. -/
def execTestAccessInstruction (ir : BitVec 10) (s : State) : Out :=
  if ir = Config.idcodeIr then live s (modMgt (fun m => { m with tapIr := ir, tdo := m.tdo ++ [idcode] }) s)
  else if ir = 0x3FF ∨ (s.fuses.testLock ∧ !s.mgt.tapOpen) ∨ !s.pwr.powered then live s (modMgt (fun m => { m with tapIr := 0x3FF }) s)
  else .refused .testInstruction

end Sys2Proof.Machine
end

