-- ==== Sys2Proof/Machine/Boot.lean ====
section
/-! DEFINITION. Power-up and full reset (R469, R477, R487, R388), and roll call on the tray chain (R484-R486, R29-R32). -/

namespace Sys2Proof.Machine

open Sys2Proof

/-! ## What a reset leaves (R467, R469) -/

/-- A bank's settings under the higher sequence number; none where no bank is valid. -/
def newestBank (m : Mgt) : Option (Bool × Nv) :=
  match m.bank0, m.bank1 with
  | some a, some b => if a.seq < b.seq then some (true, b.nv) else some (false, a.nv)
  | some a, none => some (false, a.nv)
  | none, some b => some (true, b.nv)
  | none, none => none

/-- Mahel's state after a reset: the store of R467 is kept. The settings are those of the newest bank, or of shipment. Entries still in the
queue, which is SRAM, count in the LOST entry of the boot (R473, assumption 25). INCARN saturates (R9). -/
def resetMgt (m : Mgt) : Mgt :=
  let k : Mgt := {
    nv := (newestBank m).elim {} (·.2), net := netOf ((newestBank m).elim {} (·.2)), bank0 := m.bank0, bank1 := m.bank1, activeBank := (newestBank m).elim false (·.1)
    empty := (newestBank m).isNone, replies := m.replies, wire := m.wire, looks := m.looks, store := m.store
    headSeq := m.headSeq, headHi := bitsOf m.headSeq 32 32, lostWaiting := m.lostWaiting + m.queue.length, overwritten := m.overwritten, slotA := m.slotA, slotB := m.slotB
    runB := m.runB, nextB := m.nextB, earlierB := m.earlierB, claimed := m.claimed, rollOut := m.rollOut, incarn := satAdd m.incarn 1
    tdo := m.tdo }
  k

/-- Ports come up in RESET where PERS is EDGE or TRUNK (R446, R447). -/
def resetPorts (nv : Nv) : Tab Port := nv.pers.filterMap fun e => if e.2 = 1 ∨ e.2 = 2 then some (e.1, { state := .reset }) else none

/-- The module as the reset releases it: every register at its reset value, the settings loaded, and the disabled-unit map as
fused (R480). -/
def resetState (s : State) : State :=
  let m := resetMgt s.mgt
  let t := State.reset
  let map := resetMap (bitsOf m.nv.topology 22 4).toNat
  { t with
    pending := s.pending, freeCount := s.freeCount, attachBuf := s.attachBuf, fuses := s.fuses, mgt := m
    mem := { t.mem with gen := s.mem.gen, cells := s.mem.cells, words := s.mem.words, poison := s.mem.poison, errs := s.mem.errs }
    arr := { t.arr with map := s.fuses.map }
    rte := { t.rte with planeMap := map, planeStage := map }
    lanes := { t.lanes with ports := resetPorts m.nv } }

/-! ## The boot ROM (R477) -/

/-- A slot fails at boot: a FW entry and an MGT_FW record. -/
def bootSlotFailed (b : Bool) (s : State) : State :=
  devFault0 0xC3 sevError (ofB b) 0 (ledgerDevice 5 0 (detailOf (fwFields s 6 b)) s)

/-- A slot's image runs, in TRIAL unless it has been confirmed (R476, R479). -/
def bootSlot (b : Bool) (s : State) : State :=
  let trial := !(slotAt s b).confirmed
  modMgt (fun m => { m with
    runB := b, trial := trial, earlierB := if trial then !b else b
    trialLeft := if trial then BitVec.ofNat 16 (max 1 (bitsOf m.nv.roleCfg 0 16).toNat) else 0 }) s

/-- The NEXT slot is verified, and the other if it fails; if both fail the loader in ROM runs in RECOVERY. The Bool says that the
other slot was booted. -/
def bootSlots (sigA sigB : Bool) (s : State) : Bool × State :=
  let sig (b : Bool) : Bool := if b then sigB else sigA
  let b := s.mgt.nextB
  let (r, s) := verifySlot b (sig b) s
  if r = resOk then (false, bootSlot b s)
  else
    let s := bootSlotFailed b s
    let (r, s) := verifySlot (!b) (sig !b) s
    if r = resOk then (true, bootSlot (!b) s)
    else (false, modMgt (fun m => { m with recovery := true }) (bootSlotFailed (!b) s))

/-- The BOOT entry. -/
def bootEntry (cause : Nat) (fell : Bool) (s : State) : State :=
  let m := s.mgt
  let version := if m.recovery then 0 else imgVersion (slotAt s m.runB)
  ledgerDevice 6 0 (detailOf [(0, 1, cause), (1, 1, ofB m.runB), (2, 1, ofB m.trial + 2 * ofB m.recovery + 4 * ofB fell)
    , (4, 4, version), (8, 1, m.incarn.toNat), (12, 4, s.mem.gen.toNat)]) s

/-! ## The sequence (R487) -/

/-- Steps 1 to 5: boot, stacks, and the scrub of R388, which holds ports where it cannot be made. -/
def bootScrubbed (s : State) : State :=
  let (done, s) := bootScrub (allStacks .active s)
  if done then reachStep 5 s else modGlb (fun g => { g with scrubHold := true }) (reachStep 4 s)

/-- Step 6 comes at once where the FNID is pinned; else with roll call. -/
def bootFnid (s : State) : State := evalFnid (if bitAt s.mgt.nv.fnidPin 31 then reachStep 6 s else s)

/-- A power-up or full reset, with the cause that its BOOT entry shows. -/
def bootRun (cause : Nat) (sigA sigB : Bool) (s : State) : State :=
  let (fell, s) := bootSlots sigA sigB (resetState s)
  let s := modArr (fun a => { a with ucode := if s.mgt.recovery then 0 else imgUcode (slotAt s s.mgt.runB) }) s
  applyForce (bootFnid (noteTable (bootScrubbed (ledgerLost (bootEntry cause fell s)))))

/-- POWER_UP. -/
def execPowerUp (sigA sigB : Bool) (s : State) : Out := .next (keepFixed s (bootRun 0 sigA sigB s))

/-- RESET_N: Mahel restarts with everything else. -/
def execResetN (sigA sigB : Bool) (s : State) : Out := live s (bootRun 1 sigA sigB (stopMahel s))

/-- FULL_RESET: the reply goes first. -/
def fullReset (i : Nat) (sigA sigB : Bool) (s : State) : State :=
  command i 0x1A isInstaller false (fun _ s => bootRun 2 sigA sigB (stopMahel (reply i 0x1A resOk [] s))) s
def execFullReset (sess : Nat) (sigA sigB : Bool) (s : State) : Out := live s (fullReset sess sigA sigB s)

/-- The input is within the operating range (R413). -/
def vinOperates (mv : BitVec 16) : Bool := decide (21000 ≤ mv.toNat) && decide (mv.toNat ≤ 27000)

/-- INPUT_RESTORED: the restart after an input shutdown, once the input is within the operating range. -/
def execInputRestored (mv : BitVec 16) (sigs : Bool × Bool) (s : State) : Out :=
  .next (if s.pwr.powered || !vinOperates mv then s
    else keepFixed s (modPwr (fun p => { p with vinMv := mv }) (bootRun 3 sigs.1 sigs.2 s)))

/-! ## Roll call (R29-R32, R484, R485) -/

/-- A ROLL message: KIND 0x01, ADDR, RACK_ID, and its CRC-32C. -/
def rollMsg (addr rack : Nat) : BitVec 128 := BitVec.ofNat 128 (1 + addr * 2 ^ 16 + rack * 2 ^ 32)
def rollSend (addr rack : Nat) (s : State) : State :=
  let m := rollMsg addr rack
  modMgt (fun g => { g with rollOut := g.rollOut ++ [(m, crc32c (bvBytes m))] }) s

/-- A CHAIN entry: EVENT 1 a later ROLL differs, 2 rack identifier mismatch. -/
def chainEntry (event addr rack : Nat) (s : State) : State :=
  ledgerDevice 8 0 (detailOf [(0, 1, event), (2, 2, addr), (4, 2, s.mgt.addr.toNat), (6, 2, rack)
    , (8, 2, (bitsOf s.mgt.nv.rackId 0 16).toNat)]) s

/-- The first ROLL after a full reset: an address is taken unless none is left, and R29 and R30 are applied. -/
def rollAdopt (addr rack : Nat) (s : State) : State :=
  let s := modMgt (fun m => { m with rackSeen := some (BitVec.ofNat 16 rack) }) s
  let s := if addr < 0x7FE then modMgt (fun m => { m with adopted := true, addr := BitVec.ofNat 11 (addr + 1) }) (reachStep 6 s) else s
  let s := if rack ≠ (bitsOf s.mgt.nv.rackId 0 16).toNat then chainEntry 2 addr rack s else s
  evalFnid s

/-- A later ROLL is compared with the address. -/
def rollCompare (addr rack : Nat) (s : State) : State :=
  if addr + 1 = s.mgt.addr.toNat then s
  else devFault0 0xC4 sevWarn 0 0 (chainEntry 1 addr rack (modMgt (fun m => { m with mismatch := satAdd m.mismatch 1 }) s))

/-- ROLL, once the chain PHY has started (step 3 of R487). One with a bad CRC or another KIND is no ROLL. -/
def roll (msg : BitVec 128) (crc : W32) (s : State) : State :=
  if s.glb.step < 3 then s
  else
    let s := modMgt (fun m => { m with inSig := true }) s
    if crc ≠ crc32c (bvBytes msg) ∨ bitsOf msg 0 8 ≠ 1 then s
    else
      let addr := (bitsOf msg 16 11).toNat
      let rack := (bitsOf msg 32 16).toNat
      let s := if s.mgt.head || s.mgt.rackSeen.isSome then rollCompare addr rack s else rollAdopt addr rack s
      if addr < 0x7FE then rollSend (addr + 1) rack s else s
def execRoll (msg : BitVec 128) (crc : W32) (s : State) : Out := live s (roll msg crc s)

/-- CHAIN_HEAD_TIMEOUT. -/
def chainHeadTimeout (s : State) : State :=
  if s.glb.step < 3 ∨ s.mgt.inSig ∨ s.mgt.head then s
  else evalFnid (reachStep 6 (modMgt (fun m => { m with head := true, adopted := true, addr := 0 }) s))
def execChainHeadTimeout (s : State) : Out := live s (chainHeadTimeout s)

/-- HEAD_ROLL_SEND. -/
def execHeadRollSend (s : State) : Out := live s (if s.mgt.head then rollSend 0 (bitsOf s.mgt.nv.rackId 0 16).toNat s else s)

/-- ROLL_CALL_TIMEOUT: with no address and no pin, ERR_CAUSE 6. -/
def rollCallTimeout (s : State) : State :=
  if s.glb.step < 3 ∨ s.mgt.adopted ∨ bitAt s.mgt.nv.fnidPin 31 then s else evalFnid (reachStep 6 s)
def execRollCallTimeout (s : State) : Out := live s (rollCallTimeout s)

end Sys2Proof.Machine
end

