-- ==== Sys2Proof/Machine/Dispatch.lean ====
section
/-! DEFINITION. What each command does: one arm per command, each one call of its meaning. -/

namespace Sys2Proof.Machine

open Sys2Proof

def exec (i : Instr) (s : State) : Host.Outcome State Fault Refusal :=
  match i with
  | .powerUp sigA sigB => Sys2Proof.Machine.execPowerUp sigA sigB s
  | .resetN sigA sigB => Sys2Proof.Machine.execResetN sigA sigB s
  | .vinWarn above mv => Sys2Proof.Machine.execVinWarn above mv s
  | .inputShutdown above mv written => Sys2Proof.Machine.execInputShutdown above mv written s
  | .inputRestored sigA sigB => Sys2Proof.Machine.execInputRestored sigA sigB s
  | .watchdogRestart => Sys2Proof.Machine.execWatchdogRestart s
  | .openSession sess role credId nonce epub voucher ip tcp now => Sys2Proof.Machine.execOpenSession sess role credId nonce epub voucher ip tcp now s
  | .prove sess sigOk now => Sys2Proof.Machine.execProve sess sigOk now s
  | .proveTimeout sess now => Sys2Proof.Machine.execProveTimeout sess now s
  | .sessionIdleTimeout sess => Sys2Proof.Machine.execSessionIdleTimeout sess s
  | .sessionMessageError sess now => Sys2Proof.Machine.execSessionMessageError sess now s
  | .read sess off count => Sys2Proof.Machine.execRead sess off count s
  | .write sess off value => Sys2Proof.Machine.execWrite sess off value s
  | .storeSettings sess => Sys2Proof.Machine.execStoreSettings sess s
  | .storeDone => Sys2Proof.Machine.execStoreDone s
  | .ledgerRead sess first count nonce => Sys2Proof.Machine.execLedgerRead sess first count nonce s
  | .ledgerFlush => Sys2Proof.Machine.execLedgerFlush s
  | .ledgerLost => Sys2Proof.Machine.execLedgerLost s
  | .fwWrite sess off len data => Sys2Proof.Machine.execFwWrite sess off len data s
  | .fwVerify sess sigOk => Sys2Proof.Machine.execFwVerify sess sigOk s
  | .fwActivate sess => Sys2Proof.Machine.execFwActivate sess s
  | .fwConfirm sess => Sys2Proof.Machine.execFwConfirm sess s
  | .trialExpiry => Sys2Proof.Machine.execTrialExpiry s
  | .fwImageCopy sess index off => Sys2Proof.Machine.execFwImageCopy sess index off s
  | .enroll sess kind action key => Sys2Proof.Machine.execEnroll sess kind action key s
  | .fullReset sess sigA sigB => Sys2Proof.Machine.execFullReset sess sigA sigB s
  | .fuse sess id item value => Sys2Proof.Machine.execFuse sess id item value s
  | .tapUnlock sess => Sys2Proof.Machine.execTapUnlock sess s
  | .closeSession sess => Sys2Proof.Machine.execCloseSession sess s
  | .roll msg crc => Sys2Proof.Machine.execRoll msg crc s
  | .chainHeadTimeout => Sys2Proof.Machine.execChainHeadTimeout s
  | .headRollSend => Sys2Proof.Machine.execHeadRollSend s
  | .rollCallTimeout => Sys2Proof.Machine.execRollCallTimeout s
  | .glbTopologyWrite sess value => Sys2Proof.Machine.execGlbTopologyWrite sess value s
  | .glbFnidPinWrite sess value => Sys2Proof.Machine.execGlbFnidPinWrite sess value s
  | .glbRackIdWrite sess value => Sys2Proof.Machine.execGlbRackIdWrite sess value s
  | .epSrcFnidWrite sess n value => Sys2Proof.Machine.execEpSrcFnidWrite sess n value s
  | .winWrite sess n index => Sys2Proof.Machine.execWinWrite sess n index s
  | .winRead sess n index => Sys2Proof.Machine.execWinRead sess n index s
  | .winInvalidate sess n index => Sys2Proof.Machine.execWinInvalidate sess n index s
  | .steerTimeout n => Sys2Proof.Machine.execSteerTimeout n s
  | .rtePlaneArm sess => Sys2Proof.Machine.execRtePlaneArm sess s
  | .rtePlaneCancel sess alsoArm => Sys2Proof.Machine.execRtePlaneCancel sess alsoArm s
  | .load n msg => Sys2Proof.Machine.execLoad n msg s
  | .storeMsg n msg => Sys2Proof.Machine.execStoreMsg n msg s
  | .atomic n msg => Sys2Proof.Machine.execAtomic n msg s
  | .reduce n msg => Sys2Proof.Machine.execReduce n msg s
  | .svcCall n msg => Sys2Proof.Machine.execSvcCall n msg s
  | .rsp n msg => Sys2Proof.Machine.execRsp n msg s
  | .hello n msg => Sys2Proof.Machine.execHello n msg s
  | .steeringPass n => Sys2Proof.Machine.execSteeringPass n s
  | .steeringTimeout n => Sys2Proof.Machine.execSteeringTimeout n s
  | .steerAck n msg => Sys2Proof.Machine.execSteerAck n msg s
  | .doorbellSqTail n msg => Sys2Proof.Machine.execDoorbellSqTail n msg s
  | .doorbellCqHead n msg => Sys2Proof.Machine.execDoorbellCqHead n msg s
  | .ringCfgEnable n msg => Sys2Proof.Machine.execRingCfgEnable n msg s
  | .ringCfgDisable n msg => Sys2Proof.Machine.execRingCfgDisable n msg s
  | .ringCfgReset n msg => Sys2Proof.Machine.execRingCfgReset n msg s
  | .ringQuiesced n r => Sys2Proof.Machine.execRingQuiesced n r s
  | .flow n msg => Sys2Proof.Machine.execFlow n msg s
  | .dlvTimeout n slot => Sys2Proof.Machine.execDlvTimeout n slot s
  | .contextGrant p => Sys2Proof.Machine.execContextGrant p s
  | .descriptorFetch n r => Sys2Proof.Machine.execDescriptorFetch n r s
  | .kernelStartTimeout n r => Sys2Proof.Machine.execKernelStartTimeout n r s
  | .frameIngress port src hop flaw cyc => Sys2Proof.Machine.execFrameIngress port src hop flaw cyc s
  | .frameEgress port cyc => Sys2Proof.Machine.execFrameEgress port cyc s
  | .flowFrame port wb hop => Sys2Proof.Machine.execFlowFrame port wb hop s
  | .flowRepeat port => Sys2Proof.Machine.execFlowRepeat port s
  | .auditPass => Sys2Proof.Machine.execAuditPass s
  | .poolClassCfgWrite sess c value => Sys2Proof.Machine.execPoolClassCfgWrite sess c value s
  | .poolThreshWrite sess c value => Sys2Proof.Machine.execPoolThreshWrite sess c value s
  | .poolPortLimitWrite sess c value => Sys2Proof.Machine.execPoolPortLimitWrite sess c value s
  | .mcastWrite sess index => Sys2Proof.Machine.execMcastWrite sess index s
  | .mcastRead sess index => Sys2Proof.Machine.execMcastRead sess index s
  | .swcMirrorCtlWrite sess value => Sys2Proof.Machine.execSwcMirrorCtlWrite sess value s
  | .rteDestWrite sess f value => Sys2Proof.Machine.execRteDestWrite sess f value s
  | .rteTrunkEnWrite sess k value => Sys2Proof.Machine.execRteTrunkEnWrite sess k value s
  | .retxCfgWrite sess p value => Sys2Proof.Machine.execRetxCfgWrite sess p value s
  | .reach port src => Sys2Proof.Machine.execReach port src s
  | .reachAnnounce => Sys2Proof.Machine.execReachAnnounce s
  | .attach port src => Sys2Proof.Machine.execAttach port src s
  | .detach port src => Sys2Proof.Machine.execDetach port src s
  | .leaving port src => Sys2Proof.Machine.execLeaving port src s
  | .attachResend => Sys2Proof.Machine.execAttachResend s
  | .leavingSend => Sys2Proof.Machine.execLeavingSend s
  | .frameAdmit port src straddles => Sys2Proof.Machine.execFrameAdmit port src straddles s
  | .gapNack p src => Sys2Proof.Machine.execGapNack p src s
  | .rspAck p src => Sys2Proof.Machine.execRspAck p src s
  | .rspData p src => Sys2Proof.Machine.execRspData p src s
  | .rspNack p src => Sys2Proof.Machine.execRspNack p src s
  | .retxTimer p ctx => Sys2Proof.Machine.execRetxTimer p ctx s
  | .contextLifeExpiry p ctx => Sys2Proof.Machine.execContextLifeExpiry p ctx s
  | .seriesHoldRelease p dst kind => Sys2Proof.Machine.execSeriesHoldRelease p dst kind s
  | .dedupHoldExpiry p src kind seq => Sys2Proof.Machine.execDedupHoldExpiry p src kind seq s
  | .rteCmapCtlWrite sess value => Sys2Proof.Machine.execRteCmapCtlWrite sess value s
  | .cmapPeriod written => Sys2Proof.Machine.execCmapPeriod written s
  | .flagRelease n => Sys2Proof.Machine.execFlagRelease n s
  | .cairnReport n r => Sys2Proof.Machine.execCairnReport n r s
  | .cairnPoll n r => Sys2Proof.Machine.execCairnPoll n r s
  | .cairnWaitTimeout n r => Sys2Proof.Machine.execCairnWaitTimeout n r s
  | .sealResend p dst kind => Sys2Proof.Machine.execSealResend p dst kind s
  | .sealFrame port src => Sys2Proof.Machine.execSealFrame port src s
  | .sealedSend p src kind => Sys2Proof.Machine.execSealedSend p src kind s
  | .sealed p src => Sys2Proof.Machine.execSealed p src s
  | .combineWriteback chan line => Sys2Proof.Machine.execCombineWriteback chan line s
  | .channelAccess chan src ecc => Sys2Proof.Machine.execChannelAccess chan src ecc s
  | .tickBoundary => Sys2Proof.Machine.execTickBoundary s
  | .syncSend carrier phase => Sys2Proof.Machine.execSyncSend carrier phase s
  | .sync carrier frame own => Sys2Proof.Machine.execSync carrier frame own s
  | .delayReqSend carrier t1 => Sys2Proof.Machine.execDelayReqSend carrier t1 s
  | .delayReq carrier frame turn => Sys2Proof.Machine.execDelayReq carrier frame turn s
  | .delayRsp carrier frame t4 => Sys2Proof.Machine.execDelayRsp carrier frame t4 s
  | .delayRspAbandon carrier => Sys2Proof.Machine.execDelayRspAbandon carrier s
  | .upstreamTimeout silent => Sys2Proof.Machine.execUpstreamTimeout silent s
  | .acquireMasterTimeout => Sys2Proof.Machine.execAcquireMasterTimeout s
  | .holdoverExpiry silent => Sys2Proof.Machine.execHoldoverExpiry silent s
  | .holdoverLimitExpiry => Sys2Proof.Machine.execHoldoverLimitExpiry s
  | .tickSyncCfgWrite sess value => Sys2Proof.Machine.execTickSyncCfgWrite sess value s
  | .itinOpWrite sess index => Sys2Proof.Machine.execItinOpWrite sess index s
  | .itinOpReadStage sess index => Sys2Proof.Machine.execItinOpReadStage sess index s
  | .itinOpReadActive sess index => Sys2Proof.Machine.execItinOpReadActive sess index s
  | .itinArm sess loadStep => Sys2Proof.Machine.execItinArm sess loadStep s
  | .itinCheckDone => Sys2Proof.Machine.execItinCheckDone s
  | .itinCancel sess alsoArm => Sys2Proof.Machine.execItinCancel sess alsoArm s
  | .schedRelease e => Sys2Proof.Machine.execSchedRelease e s
  | .xferEnd e => Sys2Proof.Machine.execXferEnd e s
  | .refreshWindow e => Sys2Proof.Machine.execRefreshWindow e s
  | .forcedRefresh chan => Sys2Proof.Machine.execForcedRefresh chan s
  | .autoRefresh stack => Sys2Proof.Machine.execAutoRefresh stack s
  | .stackTempSample stack temp => Sys2Proof.Machine.execStackTempSample stack temp s
  | .tallyAccess src => Sys2Proof.Machine.execTallyAccess src s
  | .colGrpWrite sess index => Sys2Proof.Machine.execColGrpWrite sess index s
  | .colGrpRead sess index => Sys2Proof.Machine.execColGrpRead sess index s
  | .colGrpInvalidate sess index => Sys2Proof.Machine.execColGrpInvalidate sess index s
  | .colMemberWrite sess n value => Sys2Proof.Machine.execColMemberWrite sess n value s
  | .colHoldTimeout b => Sys2Proof.Machine.execColHoldTimeout b s
  | .colOccurrenceStart e => Sys2Proof.Machine.execColOccurrenceStart e s
  | .up port src => Sys2Proof.Machine.execUp port src s
  | .part port src => Sys2Proof.Machine.execPart port src s
  | .down port src => Sys2Proof.Machine.execDown port src s
  | .xchg port src => Sys2Proof.Machine.execXchg port src s
  | .ack port src => Sys2Proof.Machine.execAck port src s
  | .colFault port src => Sys2Proof.Machine.execColFault port src s
  | .abort port src => Sys2Proof.Machine.execAbort port src s
  | .abortAck port src => Sys2Proof.Machine.execAbortAck port src s
  | .downRepeat slot ordinal => Sys2Proof.Machine.execDownRepeat slot ordinal s
  | .abortResend slot peer => Sys2Proof.Machine.execAbortResend slot peer s
  | .arrLoad sess array => Sys2Proof.Machine.execArrLoad sess array s
  | .arrUnload sess array => Sys2Proof.Machine.execArrUnload sess array s
  | .arrLoadDone readBackOk => Sys2Proof.Machine.execArrLoadDone readBackOk s
  | .arrayEntryStart e => Sys2Proof.Machine.execArrayEntryStart e s
  | .arrayStreamAccess array stream ecc => Sys2Proof.Machine.execArrayStreamAccess array stream ecc s
  | .arrayRunEnd array => Sys2Proof.Machine.execArrayRunEnd array s
  | .arrayRunHalt array => Sys2Proof.Machine.execArrayRunHalt array s
  | .arraySlotEcc array => Sys2Proof.Machine.execArraySlotEcc array s
  | .arrCbWrite sess group entry => Sys2Proof.Machine.execArrCbWrite sess group entry s
  | .arrCbRead sess group entry => Sys2Proof.Machine.execArrCbRead sess group entry s
  | .svcTabWrite sess index => Sys2Proof.Machine.execSvcTabWrite sess index s
  | .svcTabRead sess index => Sys2Proof.Machine.execSvcTabRead sess index s
  | .svcTabDrain sess index => Sys2Proof.Machine.execSvcTabDrain sess index s
  | .svcDrainDone svc => Sys2Proof.Machine.execSvcDrainDone svc s
  | .svcDispatch => Sys2Proof.Machine.execSvcDispatch s
  | .svcStarve svc => Sys2Proof.Machine.execSvcStarve svc s
  | .lookup src => Sys2Proof.Machine.execLookup src s
  | .tpoolRead src => Sys2Proof.Machine.execTpoolRead src s
  | .putBegin src => Sys2Proof.Machine.execPutBegin src s
  | .putData src => Sys2Proof.Machine.execPutData src s
  | .putCommit src => Sys2Proof.Machine.execPutCommit src s
  | .putAbort src => Sys2Proof.Machine.execPutAbort src s
  | .delete src => Sys2Proof.Machine.execDelete src s
  | .pooled src => Sys2Proof.Machine.execPooled src s
  | .putTimeout svc slot => Sys2Proof.Machine.execPutTimeout svc slot s
  | .optStep src => Sys2Proof.Machine.execOptStep src s
  | .optTrigger svc src => Sys2Proof.Machine.execOptTrigger svc src s
  | .optStepDone svc => Sys2Proof.Machine.execOptStepDone svc s
  | .tenantScrub sess => Sys2Proof.Machine.execTenantScrub sess s
  | .tenantScrubDone => Sys2Proof.Machine.execTenantScrubDone s
  | .patrolScrubRead chan ecc => Sys2Proof.Machine.execPatrolScrubRead chan ecc s
  | .scrubLag chan => Sys2Proof.Machine.execScrubLag chan s
  | .faultMove n => Sys2Proof.Machine.execFaultMove n s
  | .glbFltDataRead sess => Sys2Proof.Machine.execGlbFltDataRead sess s
  | .pop sess value => Sys2Proof.Machine.execPop sess value s
  | .rosterHeartbeat wrote0 wrote1 read0 read1 casOk => Sys2Proof.Machine.execRosterHeartbeat wrote0 wrote1 read0 read1 casOk s
  | .ecWrite sess entry => Sys2Proof.Machine.execEcWrite sess entry s
  | .encode sess entry => Sys2Proof.Machine.execEncode sess entry s
  | .rebuild sess rank entry => Sys2Proof.Machine.execRebuild sess rank entry s
  | .ecAbort sess => Sys2Proof.Machine.execEcAbort sess s
  | .ecOpDone how casOk => Sys2Proof.Machine.execEcOpDone how casOk s
  | .relayPoll entry control strips => Sys2Proof.Machine.execRelayPoll entry control strips s
  | .glbDrainCtlWrite sess value => Sys2Proof.Machine.execGlbDrainCtlWrite sess value s
  | .portP1Entry n => Sys2Proof.Machine.execPortP1Entry n s
  | .quietEntry n => Sys2Proof.Machine.execQuietEntry n s
  | .quiet n => Sys2Proof.Machine.execQuiet n s
  | .quietTimeout n => Sys2Proof.Machine.execQuietTimeout n s
  | .groupP2Entry g cyc => Sys2Proof.Machine.execGroupP2Entry g cyc s
  | .nodeP3Entry => Sys2Proof.Machine.execNodeP3Entry s
  | .nodeP4Entry => Sys2Proof.Machine.execNodeP4Entry s
  | .wake what => Sys2Proof.Machine.execWake what s
  | .groupPrewake e => Sys2Proof.Machine.execGroupPrewake e s
  | .pwrLtrWrite sess port value => Sys2Proof.Machine.execPwrLtrWrite sess port value s
  | .capPwmPeriod high period => Sys2Proof.Machine.execCapPwmPeriod high period s
  | .capPwmLoss => Sys2Proof.Machine.execCapPwmLoss s
  | .capAlertN => Sys2Proof.Machine.execCapAlertN s
  | .powerSample mv ma => Sys2Proof.Machine.execPowerSample mv ma s
  | .powerSettle meanW => Sys2Proof.Machine.execPowerSettle meanW s
  | .dieTempSample temp => Sys2Proof.Machine.execDieTempSample temp s
  | .portCfgWrite sess n value => Sys2Proof.Machine.execPortCfgWrite sess n value s
  | .restart sess n => Sys2Proof.Machine.execRestart sess n s
  | .portResetExit n => Sys2Proof.Machine.execPortResetExit n s
  | .portHold n => Sys2Proof.Machine.execPortHold n s
  | .lanesLocked n => Sys2Proof.Machine.execLanesLocked n s
  | .signalTimeout n => Sys2Proof.Machine.execSignalTimeout n s
  | .alignDone n skewPs order => Sys2Proof.Machine.execAlignDone n skewPs order s
  | .alignTimeout n => Sys2Proof.Machine.execAlignTimeout n s
  | .train n cell => Sys2Proof.Machine.execTrain n cell s
  | .loopReq n cell turn => Sys2Proof.Machine.execLoopReq n cell turn s
  | .loopRsp n cell t4 => Sys2Proof.Machine.execLoopRsp n cell t4 s
  | .loopRepeat n t1 => Sys2Proof.Machine.execLoopRepeat n t1 s
  | .qualifyWindowEnd n corrected symbols => Sys2Proof.Machine.execQualifyWindowEnd n corrected symbols s
  | .authHello n hello => Sys2Proof.Machine.execAuthHello n hello s
  | .authSig n sig sigOk => Sys2Proof.Machine.execAuthSig n sig sigOk s
  | .authTimeout n => Sys2Proof.Machine.execAuthTimeout n s
  | .mark n lane cell tagOk hadUncorrectable nowUs => Sys2Proof.Machine.execMark n lane cell tagOk hadUncorrectable nowUs s
  | .markerLockLoss n loss => Sys2Proof.Machine.execMarkerLockLoss n loss s
  | .faultRecoveryTimer n => Sys2Proof.Machine.execFaultRecoveryTimer n s
  | .fecUncorrectable word => Sys2Proof.Machine.execFecUncorrectable word s
  | .laneWakeDetect n relocked => Sys2Proof.Machine.execLaneWakeDetect n relocked s
  | .laneProfileWrite sess value => Sys2Proof.Machine.execLaneProfileWrite sess value s
  | .eyeScanStart sess value => Sys2Proof.Machine.execEyeScanStart sess value s
  | .eyeScanAbort sess => Sys2Proof.Machine.execEyeScanAbort sess s
  | .eyeScanDone errs lost => Sys2Proof.Machine.execEyeScanDone errs lost s
  | .capAlertNRelease => Sys2Proof.Machine.execCapAlertNRelease s
  | .auditPassEnd => Sys2Proof.Machine.execAuditPassEnd s
  | .arrayStoreEcc array ecc => Sys2Proof.Machine.execArrayStoreEcc array ecc s
  | .testAccessInstruction ir => Sys2Proof.Machine.execTestAccessInstruction ir s

end Sys2Proof.Machine
end

