-- ==== Sys2Proof/WellFormed.lean ====
section
/-! DEFINITION. Which commands name units that the part has (R14-R16, R200, R214, R276, R344). A command that does not is refused by
its meaning; nothing else is. -/

namespace Sys2Proof

/-- External ports, end-point blocks and rings are 64 each. -/
def portNum (n : Nat) : Bool := decide (n < 64)
/-- Logical ports are 128, and the last takes no admission. -/
def logicalPort (n : Nat) : Bool := decide (n < 128)
def admitPort (n : Nat) : Bool := decide (n < 127)
def laneNum (l : Nat) : Bool := decide (l < 256)
def of2 (k : Nat) : Bool := decide (k < 2)
def of4 (k : Nat) : Bool := decide (k < 4)
/-- Contexts and delivery slots of a block are 4,096. -/
def of4096 (k : Nat) : Bool := decide (k < 4096)
/-- Accelerator FNIDs and collective slots are 2,048. -/
def of2048 (k : Nat) : Bool := decide (k < 2048)
def memberWord (i : Nat) : Bool := decide (i < 32768)
def chanNum (c : Nat) : Bool := decide (c < 384)
def stackNum (k : Nat) : Bool := decide (k < 24)
def arrayNum (a : Nat) : Bool := decide (a < 864)
def groupNum (g : Nat) : Bool := decide (g < 12)
/-- Services, and the streams of an array, are 16. -/
def sixteen (k : Nat) : Bool := decide (k < 16)
def shardEntry (k : Nat) : Bool := decide (k < 8)
/-- The carriers of beacons: 64 ports and the two chain ports. -/
def carrierNum (k : Nat) : Bool := decide (k ≤ 0x41)
def pointNum (p : Point) : Bool := match p with | .ep n => portNum n | .rte => true
def wakeUnit (w : WakePart) : Bool := match w with | .port n _ => portNum n | .group g => groupNum g | .node => true
def ltrUnit (p : Option Nat) : Bool := match p with | some n => portNum n | none => true

/-- The units that a command names exist. -/
def Instr.wf (i : Instr) : Bool :=
  match i with
  | .powerUp _ _ => true
  | .resetN _ _ => true
  | .vinWarn _ _ => true
  | .inputShutdown _ _ _ => true
  | .inputRestored _ _ => true
  | .watchdogRestart => true
  | .openSession _ _ _ _ _ _ _ _ _ => true
  | .prove _ _ _ => true
  | .proveTimeout _ _ => true
  | .sessionIdleTimeout _ => true
  | .sessionMessageError _ _ => true
  | .read _ _ _ => true
  | .write _ _ _ => true
  | .storeSettings _ => true
  | .storeDone => true
  | .ledgerRead _ _ _ _ => true
  | .ledgerFlush => true
  | .ledgerLost => true
  | .fwWrite _ _ _ _ => true
  | .fwVerify _ _ => true
  | .fwActivate _ => true
  | .fwConfirm _ => true
  | .trialExpiry => true
  | .fwImageCopy _ _ _ => true
  | .enroll _ _ _ _ => true
  | .fullReset _ _ _ => true
  | .fuse _ _ _ _ => true
  | .tapUnlock _ => true
  | .closeSession _ => true
  | .roll _ _ => true
  | .chainHeadTimeout => true
  | .headRollSend => true
  | .rollCallTimeout => true
  | .glbTopologyWrite _ _ => true
  | .glbFnidPinWrite _ _ => true
  | .glbRackIdWrite _ _ => true
  | .epSrcFnidWrite _ n _ => portNum n
  | .winWrite _ n _ => portNum n
  | .winRead _ n _ => portNum n
  | .winInvalidate _ n _ => portNum n
  | .steerTimeout n => portNum n
  | .rtePlaneArm _ => true
  | .rtePlaneCancel _ _ => true
  | .load n _ => portNum n
  | .storeMsg n _ => portNum n
  | .atomic n _ => portNum n
  | .reduce n _ => portNum n
  | .svcCall n _ => portNum n
  | .rsp n _ => portNum n
  | .hello n _ => portNum n
  | .steeringPass n => portNum n
  | .steeringTimeout n => portNum n
  | .steerAck n _ => portNum n
  | .doorbellSqTail n _ => portNum n
  | .doorbellCqHead n _ => portNum n
  | .ringCfgEnable n _ => portNum n
  | .ringCfgDisable n _ => portNum n
  | .ringCfgReset n _ => portNum n
  | .ringQuiesced n r => portNum n && portNum r
  | .flow n _ => portNum n
  | .dlvTimeout n slot => portNum n && of4096 slot
  | .contextGrant p => pointNum p
  | .descriptorFetch n r => portNum n && portNum r
  | .kernelStartTimeout n r => portNum n && portNum r
  | .frameIngress port _ _ _ _ => logicalPort port
  | .frameEgress port _ => logicalPort port
  | .flowFrame port _ _ => portNum port
  | .flowRepeat port => portNum port
  | .auditPass => true
  | .poolClassCfgWrite _ c _ => of4 c
  | .poolThreshWrite _ c _ => of4 c
  | .poolPortLimitWrite _ c _ => of4 c
  | .mcastWrite _ _ => true
  | .mcastRead _ _ => true
  | .swcMirrorCtlWrite _ _ => true
  | .rteDestWrite _ f _ => of2048 f
  | .rteTrunkEnWrite _ k _ => of2 k
  | .retxCfgWrite _ p _ => pointNum p
  | .reach port _ => logicalPort port
  | .reachAnnounce => true
  | .attach port _ => logicalPort port
  | .detach port _ => logicalPort port
  | .leaving port _ => logicalPort port
  | .attachResend => true
  | .leavingSend => true
  | .frameAdmit port _ _ => admitPort port
  | .gapNack p _ => pointNum p
  | .rspAck p _ => pointNum p
  | .rspData p _ => pointNum p
  | .rspNack p _ => pointNum p
  | .retxTimer p ctx => pointNum p && of4096 ctx
  | .contextLifeExpiry p ctx => pointNum p && of4096 ctx
  | .seriesHoldRelease p _ _ => pointNum p
  | .dedupHoldExpiry p _ _ _ => pointNum p
  | .rteCmapCtlWrite _ _ => true
  | .cmapPeriod _ => true
  | .flagRelease n => portNum n
  | .cairnReport n r => portNum n && portNum r
  | .cairnPoll n r => portNum n && portNum r
  | .cairnWaitTimeout n r => portNum n && portNum r
  | .sealResend p _ _ => pointNum p
  | .sealFrame port _ => logicalPort port
  | .sealedSend p _ _ => pointNum p
  | .sealed p _ => pointNum p
  | .combineWriteback chan _ => chanNum chan
  | .channelAccess chan _ _ => chanNum chan
  | .tickBoundary => true
  | .syncSend carrier _ => carrierNum carrier
  | .sync carrier _ _ => carrierNum carrier
  | .delayReqSend carrier _ => carrierNum carrier
  | .delayReq carrier _ _ => carrierNum carrier
  | .delayRsp carrier _ _ => carrierNum carrier
  | .delayRspAbandon carrier => carrierNum carrier
  | .upstreamTimeout _ => true
  | .acquireMasterTimeout => true
  | .holdoverExpiry _ => true
  | .holdoverLimitExpiry => true
  | .tickSyncCfgWrite _ _ => true
  | .itinOpWrite _ _ => true
  | .itinOpReadStage _ _ => true
  | .itinOpReadActive _ _ => true
  | .itinArm _ _ => true
  | .itinCheckDone => true
  | .itinCancel _ _ => true
  | .schedRelease _ => true
  | .xferEnd _ => true
  | .refreshWindow _ => true
  | .forcedRefresh chan => chanNum chan
  | .autoRefresh stack => stackNum stack
  | .stackTempSample stack _ => stackNum stack
  | .tallyAccess _ => true
  | .colGrpWrite _ _ => true
  | .colGrpRead _ _ => true
  | .colGrpInvalidate _ _ => true
  | .colMemberWrite _ i _ => memberWord i
  | .colHoldTimeout _ => true
  | .colOccurrenceStart _ => true
  | .up port _ => logicalPort port
  | .part port _ => logicalPort port
  | .down port _ => logicalPort port
  | .xchg port _ => logicalPort port
  | .ack port _ => logicalPort port
  | .colFault port _ => logicalPort port
  | .abort port _ => logicalPort port
  | .abortAck port _ => logicalPort port
  | .downRepeat slot _ => of2048 slot
  | .abortResend slot _ => of2048 slot
  | .arrLoad _ _ => true
  | .arrUnload _ _ => true
  | .arrLoadDone _ => true
  | .arrayEntryStart _ => true
  | .arrayStreamAccess array stream _ => arrayNum array && sixteen stream
  | .arrayRunEnd array => arrayNum array
  | .arrayRunHalt array => arrayNum array
  | .arraySlotEcc array => arrayNum array
  | .arrCbWrite _ _ _ => true
  | .arrCbRead _ _ _ => true
  | .svcTabWrite _ _ => true
  | .svcTabRead _ _ => true
  | .svcTabDrain _ _ => true
  | .svcDrainDone svc => sixteen svc
  | .svcDispatch => true
  | .svcStarve svc => sixteen svc
  | .lookup _ => true
  | .tpoolRead _ => true
  | .putBegin _ => true
  | .putData _ => true
  | .putCommit _ => true
  | .putAbort _ => true
  | .delete _ => true
  | .pooled _ => true
  | .putTimeout svc _ => sixteen svc
  | .optStep _ => true
  | .optTrigger svc _ => sixteen svc
  | .optStepDone svc => sixteen svc
  | .tenantScrub _ => true
  | .tenantScrubDone => true
  | .patrolScrubRead chan _ => chanNum chan
  | .scrubLag chan => chanNum chan
  | .faultMove n => portNum n
  | .glbFltDataRead _ => true
  | .pop _ _ => true
  | .rosterHeartbeat _ _ _ _ _ => true
  | .ecWrite _ _ => true
  | .encode _ _ => true
  | .rebuild _ _ _ => true
  | .ecAbort _ => true
  | .ecOpDone _ _ => true
  | .relayPoll entry _ _ => shardEntry entry
  | .glbDrainCtlWrite _ _ => true
  | .portP1Entry n => portNum n
  | .quietEntry n => portNum n
  | .quiet n => portNum n
  | .quietTimeout n => portNum n
  | .groupP2Entry g _ => groupNum g
  | .nodeP3Entry => true
  | .nodeP4Entry => true
  | .wake what => wakeUnit what
  | .groupPrewake _ => true
  | .pwrLtrWrite _ port _ => ltrUnit port
  | .capPwmPeriod _ _ => true
  | .capPwmLoss => true
  | .capAlertN => true
  | .powerSample _ _ => true
  | .powerSettle _ => true
  | .dieTempSample _ => true
  | .portCfgWrite _ n _ => portNum n
  | .restart _ n => portNum n
  | .portResetExit n => portNum n
  | .portHold n => portNum n
  | .lanesLocked n => portNum n
  | .signalTimeout n => portNum n
  | .alignDone n _ _ => portNum n
  | .alignTimeout n => portNum n
  | .train n _ => portNum n
  | .loopReq n _ _ => portNum n
  | .loopRsp n _ _ => portNum n
  | .loopRepeat n _ => portNum n
  | .qualifyWindowEnd n _ _ => portNum n
  | .authHello n _ => portNum n
  | .authSig n _ _ => portNum n
  | .authTimeout n => portNum n
  | .mark n lane _ _ _ _ => portNum n && of4 lane
  | .markerLockLoss n loss => portNum n && of4 loss.lane
  | .faultRecoveryTimer n => portNum n
  | .fecUncorrectable w => laneNum w.lane
  | .laneWakeDetect n _ => portNum n
  | .laneProfileWrite _ _ => true
  | .eyeScanStart _ _ => true
  | .eyeScanAbort _ => true
  | .eyeScanDone _ _ => true
  | .capAlertNRelease => true
  | .auditPassEnd => true
  | .arrayStoreEcc array ecc => arrayNum array && storeEccWord ecc
  | .testAccessInstruction _ => true

end Sys2Proof
end

