-- ==== Sys2Proof/Safety.lean ====
section
/-! DEFINITION. The terms that statements use: what a session command and a device fault may leave behind, what every step keeps, and
the canonical form of memory. -/

namespace Sys2Proof.Machine

open Sys2Proof

/-- Session `i` is OPEN (R463), as `x`. -/
def HasSession (s : State) (i : Nat) (x : Session) : Prop := sessAt s i = some x ∧ x.state = .open_

/-- A module that serves the whole map: powered, and not in RECOVERY (R413, R495). -/
def Serving (s : State) : Prop := s.pwr.powered = true ∧ s.mgt.recovery = false

/-- The core clock runs: the module is powered, and its node is not in P4 (R413, R415). -/
def Clocked (s : State) : Prop := s.pwr.powered = true ∧ s.pwr.node ≠ 4

/-- Block `n` takes messages at once: its port is neither in QUIET nor in P1 (R418). -/
def EpAwake (s : State) (n : Nat) : Prop := Clocked s ∧ (portOf s n).quiet = false ∧ tabGet 0 s.pwr.portState n ≠ 1

/-- Memory serves units of the module at once: the clock runs, the stacks are awake, and no scrub runs (R387, R418). -/
def MemServes (s : State) : Prop := s.pwr.powered = true ∧ s.pwr.node.toNat < 3 ∧ s.mem.tenantBusy = false

/-- Memory that serves, with no line in error or poisoned (R375-R378, R387). -/
def MemSound (s : State) : Prop :=
  MemServes s ∧ (∀ l, tabGet 0 s.mem.errs l = 0) ∧ s.mem.poison = [] ∧ ∀ c, ∀ e ∈ (chanOf s c).comb, e.poison = false

/-- `t` is `s` but for what an answered command of session `i` leaves: the message counts of that session alone, one reply, and
the ledger (R462, R466, R472). -/
structure Answered (s t : State) (i : Nat) (r : Reply) : Prop where
  frame : t = { s with mgt := t.mgt, freeCount := t.freeCount }
  mgt : t.mgt = { s.mgt with
    sessions := t.mgt.sessions, replies := s.mgt.replies ++ [r], wire := t.mgt.wire, queue := t.mgt.queue, store := t.mgt.store
    headSeq := t.mgt.headSeq, overwritten := t.mgt.overwritten }
  counted : sessAt t i = (sessAt s i).map fun y => { y with inCount := y.inCount + 1, outCount := y.outCount + 1 }
  others : ∀ j, j ≠ i → sessAt t j = sessAt s j

/-- The reply to a WRITE carried out, and to an own-row write: OK and the word shown, with BUSY while an operation has just begun. -/
def writeReply (i : Nat) (u : State) (r : Reg) (busy : Bool) : Reply :=
  ⟨i, 0x91, some resOk, bvBytes (peekReg u r ||| (if busy then 0x80000000 else 0))⟩

/-- `t` is `s` but for what device faults and device ledger entries leave (R392-R394, R473). -/
def FaultOnly (s t : State) : Prop :=
  t = { s with
    glb := { s.glb with faults := t.glb.faults, overflow := t.glb.overflow, fatal := t.glb.fatal, lost := t.glb.lost }
    tly := t.tly
    mgt := { s.mgt with queue := t.mgt.queue, lost := t.mgt.lost, lostWaiting := t.mgt.lostWaiting }
    freeCount := t.freeCount }

/-- `t` is `s` but for what thresholds, after a change of the pool's cells or settings, may leave: the classes' states, the FLOW frames
due, and their fault records (R132, R133, R141). -/
def SettledOnly (s t : State) : Prop :=
  t = { s with
    glb := { s.glb with faults := t.glb.faults, overflow := t.glb.overflow, fatal := t.glb.fatal, lost := t.glb.lost }
    tly := t.tly
    mgt := { s.mgt with queue := t.mgt.queue, lost := t.mgt.lost, lostWaiting := t.mgt.lostWaiting }
    freeCount := t.freeCount
    pool := { s.pool with xoff := t.pool.xoff, portOff := t.pool.portOff, warn := t.pool.warn }
    swc := { s.swc with flowDue := t.swc.flowDue } }

/-- The device fault queue holds a record of a kind and key, at a severity or above (R391, R392). -/
def Recorded (t : State) (kind : Byte) (sev : BitVec 2) (key : Nat) : Prop :=
  ∃ r ∈ t.glb.faults, r.kind = kind ∧ r.key = BitVec.ofNat 16 key ∧ sev ≤ r.severity

/-- `t` is `s` but for the runs of arrays, each of which stands or is marked as cut: the applied throttle level has left 0 (R425, R426). -/
structure RunsCut (s t : State) : Prop where
  frame : t.arr = { s.arr with arrays := t.arr.arrays }
  runs : ∀ a, arrOf t a = arrOf s a ∨ arrOf t a = { arrOf s a with run := (arrOf s a).run.map fun r => { r with cut := true } }

/-- Memory in its canonical form: addresses strictly rising, no entry equal to what an unlisted address reads as. -/
abbrev Memory.wf (m : List Host.Cell) : Prop := tabWf (0 : Byte) m = true

/-- The byte that memory holds at an address. -/
def byteAt (s : State) (a : Nat) : Byte := tabGet 0 s.mem.cells a

/-- A command that no state refuses: it names units that exist, and a test access instruction is BYPASS or IDCODE. -/
def Instr.answered (i : Instr) : Bool :=
  i.wf && (match i with | .testAccessInstruction ir => decide (ir = 0x3FF) || decide (ir = Config.idcodeIr) | _ => true)

/-- A command that the core clock serves: in P4 it waits outside (R415). -/
def Instr.onCore (i : Instr) : Bool :=
  match i with
  | .load .. | .storeMsg .. | .atomic .. | .reduce .. | .svcCall .. | .rsp .. | .hello .. | .steerAck .. | .flow .. | .doorbellSqTail ..
  | .doorbellCqHead .. | .ringCfgEnable .. | .ringCfgDisable .. | .ringCfgReset .. | .steeringPass .. | .steeringTimeout .. | .steerTimeout ..
  | .ringQuiesced .. | .dlvTimeout .. | .contextGrant .. | .descriptorFetch .. | .kernelStartTimeout .. | .flagRelease .. | .cairnReport ..
  | .cairnPoll .. | .cairnWaitTimeout .. => true
  | .frameIngress .. | .frameEgress .. | .flowFrame .. | .flowRepeat .. | .auditPass | .auditPassEnd | .cmapPeriod .. => true
  | .frameAdmit .. | .gapNack .. | .rspAck .. | .rspData .. | .rspNack .. | .retxTimer .. | .contextLifeExpiry .. | .seriesHoldRelease ..
  | .dedupHoldExpiry .. | .sealResend .. | .sealFrame .. | .sealedSend .. | .sealed .. => true
  | .reach .. | .reachAnnounce | .attach .. | .detach .. | .leaving .. | .attachResend | .leavingSend | .rosterHeartbeat .. | .relayPoll ..
  | .ecOpDone .. => true
  | .combineWriteback .. | .channelAccess .. | .patrolScrubRead .. | .scrubLag .. | .tenantScrubDone | .forcedRefresh .. => true
  | .tallyAccess .. | .up .. | .part .. | .down .. | .xchg .. | .ack .. | .colFault .. | .abort .. | .abortAck .. | .abortResend .. | .downRepeat ..
  | .colOccurrenceStart .. | .colHoldTimeout .. => true
  | .arrayEntryStart .. | .arrayStreamAccess .. | .arrayRunEnd .. | .arrayRunHalt .. | .arrayStoreEcc .. | .arraySlotEcc .. | .arrLoadDone .. => true
  | .svcDispatch | .svcDrainDone .. | .svcStarve .. | .lookup .. | .tpoolRead .. | .putBegin .. | .putData .. | .putCommit .. | .putAbort .. | .delete ..
  | .pooled .. | .putTimeout .. | .optStep .. | .optTrigger .. | .optStepDone .. => true
  | _ => false

/-- What every step keeps: every array group has 64 arrays or more (R16), and no waiting command can be refused. -/
def Inv (s : State) : Prop := mapOk s.fuses.map = true ∧ ∀ c ∈ s.pending, Instr.answered c = true

/-- A port with no frame to send and no controller at its end-point block: it leaves traffic with nothing to end. -/
def PortFree (s : State) (n : Nat) : Prop := (epOf s n).attach = .down ∧ ∀ c, c < 4 → queueOf s n c = []

/-- `t` is `s` but for port `n`, its lanes, and the fault records of what happened to it. -/
structure PortOnly (s t : State) (n : Nat) : Prop where
  others : ∀ m, m ≠ n → portOf t m = portOf s m
  lanes : ∀ l, l / 4 ≠ n → laneAt t l = laneAt s l
  queues : ∀ p c, queueOf t p c = queueOf s p c
  frame : FaultOnly { s with
    lanes := { s.lanes with lanes := t.lanes.lanes, ports := t.lanes.ports, eyeBusy := t.lanes.eyeBusy, eyeAborted := t.lanes.eyeAborted, eyeErrs := t.lanes.eyeErrs }
    pwr := { s.pwr with portState := t.pwr.portState }
    swc := { s.swc with queues := t.swc.queues, noRoute := t.swc.noRoute } } t

/-- Port `n` takes a state and a CAUSE, and what it learnt from its peer is forgotten (R447, R452). -/
structure PortMoves (s t : State) (n : Nat) (st : PortState) (cause : BitVec 4) : Prop where
  only : PortOnly s t n
  state : (portOf t n).state = st
  cause : (portOf t n).cause = cause
  forgets : (portOf t n).keys = none ∧ (portOf t n).peerFnid = 0xFFF ∧ (portOf t n).enc = false ∧ (portOf t n).quiet = false
  unlocked : ∀ l, l / 4 = n → (laneAt t l).markLock = false ∧ (laneAt t l).cdrLock = false

/-- Port `n` goes to FAULT: DOWN_CNT, and a PORT_DOWN record (R447, R457). -/
def PortFails (s t : State) (n : Nat) (cause : BitVec 4) : Prop :=
  PortMoves s t n .fault cause ∧ (portOf t n).downCnt = satAdd (portOf s n).downCnt 1
    ∧ (s.glb.faults.length < 1024 → Recorded t 0xB0 sevError n)

/-- The line of port `n` with `l` told to its transmitter, behind the attach messages sent so far. -/
def lineWith (s : State) (n : Nat) (l : List LineItem) : List (Nat × LineItem) :=
  (portOf s n).line ++ l.map fun x => ((epOf s n).sent.length, x)

/-- A quiet port is back in traffic, its four lanes locked, after `told` and TRAIN cells; what its block has waited to send is sent (R418, R454). -/
structure Relocked (s t : State) (n : Nat) (told : List LineItem) : Prop where
  port : portOf t n = { portOf s n with
    quiet := false, line := lineWith s n (told ++ [fillWith (trainCell s n .traffic), fillWith idleCell]) }
  lanes : ∀ l, l / 4 = n → laneAt t l = { laneAt s l with sigDet := true, cdrLock := true, cwLock := true, markLock := true }
  power : portPower t n = 0
  sent : epOf t n = { epOf s n with sent := (epOf s n).sent ++ (epOf s n).sendWait, sendWait := [] }
  frame : t = { s with lanes := { s.lanes with ports := t.lanes.ports, lanes := t.lanes.lanes }, eps := t.eps, pwr := { s.pwr with portState := t.pwr.portState } }
  others : ∀ m, m ≠ n → portOf t m = portOf s m ∧ epOf t m = epOf s m ∧ portPower t m = portPower s m

/-- `t` is `u`, or `u` with port `n` woken from P1 by a message or frame that leaves (R418). -/
def Woken (u t : State) (n : Nat) : Prop := t = u ∨ t = unrest n u

/-- `t` is `s` but for end-point block `n`, and for its port, which may have left P1. -/
def EpOnly (s t : State) (n : Nat) : Prop := (∀ m, m ≠ n → epOf t m = epOf s m) ∧ Woken { s with eps := t.eps } t n

/-- The fault queue of block `n` holds a record of a kind and key (R103, R105). -/
def EpRecorded (t : State) (n : Nat) (kind : Byte) (key : Nat) : Prop :=
  ∃ r ∈ (epOf t n).faults, r.kind = kind ∧ r.key = BitVec.ofNat 16 key

/-- `e` with the fault queue of `u`. -/
def Ep.faultsOf (e u : Ep) : Ep := { e with faults := u.faults, faultOverflow := u.faultOverflow, faultLost := u.faultLost }

/-- Block `n` can hand one of its own host accesses to the controller at once, in delivery slot `k` (R82). -/
def DlvRoom (s : State) (n k : Nat) : Prop :=
  (epOf s n).attach = .ready ∧ (portOf s n).quiet = false ∧ (epOf s n).offReqRx = false ∧ (epOf s n).dlvQueue = [] ∧ dlvOut (epOf s n) true < 8
    ∧ freeSlot (epOf s n) = some k

/-- The DLV message that carries a delivery in slot `k` (R70). -/
def dlvIn (s : State) (n k : Nat) (d : Delivery) : AttachMsg := dlvMsg n k (tabGet {} (epOf s n).dlvSlots k).gen d

/-- A source has a context to send a new frame in, and the frame it sends there is the one that R84, R111 and R154 give. -/
structure Issues (s t : State) (p : Point) (i : Nat) (f : NewFrame) : Prop where
  issued : ∃ at_, ctxOf t p i = { st := .issued, gen := (ctxOf s p i).gen, owner := f.owner, port := f.port, issuedAt := at_
                                  frame := { mkFrame (newWb s f (let x := tabGet {} (relOf s p).series (seriesKey (addrFnid f.addr) (newKind f)); mkSeq x.gen x.count)
                                    (tagOf p i (ctxOf s p i).gen)) f.payload with poison := f.poison } }
  sent : tabGet [] t.swc.inbound f.port = tabGet [] s.swc.inbound f.port ++ [((ctxOf t p i).frame, 0)]
  others : ∀ j, j ≠ i → ctxOf t p j = ctxOf s p j

/-- Neither the mirror nor the congestion map records what happens (R149, R185). -/
def Unobserved (s : State) : Prop := mirEn s.swc.mirrorCtl = false ∧ s.rte.cmapEn = false

/-- A point holds no frame for reorder (R167). -/
def NothingHeld (s : State) (p : Point) : Prop := ∀ e ∈ (relOf s p).rx, e.2.held = []

/-- A frame enters the switch core at a port, behind those that wait there. -/
def Enters (s t : State) (port : Nat) (f : Frame) : Prop :=
  tabGet [] t.swc.inbound port = tabGet [] s.swc.inbound port ++ [(f, 0)]

/-- The parts of an extent's lines, as accesses see them (R211). -/
def lineParts (s : State) (off len : Nat) : List Byte :=
  (linesOf off len).flatMap fun l => slice (lineNow s l).1 (linePart off len l).1 (linePart off len l).2.2

/-- `u` is `s` but for combining buffers: `part l` stands in each line `l` of the extent, which is poisoned where `bad` names its place in
the extent, and every other line reads as before. -/
structure ExtentSet (s u : State) (off len : Nat) (bad : List Nat) (part : Nat → List Byte) : Prop where
  frame : u = { s with mem := { s.mem with channels := u.mem.channels } }
  inside : ∀ l ∈ linesOf off len, lineNow u l = (bvBytes (lineWord (overlay (lineNow s l).1 (linePart off len l).1 (part l))), bad.contains (l - off / 64))
  outside : ∀ l, ¬ l ∈ linesOf off len → lineNow u l = lineNow s l

end Sys2Proof.Machine
end

