-- ==== Sys2Proof/Certificates/Slice0/Obligations.lean ====
section
/-! DEFINITION. The statements for the provers. Each says that its commands complete, what they leave, and what they leave alone. -/

open Sys2Proof Sys2Proof.Machine

/-! ## Registers (R459-R512) -/

/-- GLB_TOPOLOGY, GLB_FNID_PIN and GLB_RACK_ID by the INSTALLER (R22-R24, R33-R35, R59): while LOCKED they are refused and nothing but
the answer changes; else the value is taken and the FNID is evaluated afresh. A new PLANES_M1 reloads the plane map. A pin written once step 5 of
R487 has come brings step 6, since a pinned module awaits no roll call (R31). -/
def Obligations.FnidSettingsLockAndEvaluate : Prop :=
  ∀ (s : State) (i : Nat) (x : Session) (v : W32), Serving s → HasSession s i x → x.role = 2 →
    (∃ t, exec (.glbTopologyWrite i v) s = .next t
      ∧ (s.glb.locked = true → Answered s t i (writeReply i s .topology false))
      ∧ (s.glb.locked = false → t.mgt.nv = { s.mgt.nv with topology := v &&& 0xFFFFF800 } ∧ evalFnid t = t ∧ t.mem = s.mem ∧ t.swc = s.swc
        ∧ (planesM1 t = planesM1 s → t.rte = s.rte ∧ t.eps = s.eps)
        ∧ (planesM1 t ≠ planesM1 s →
          t.rte = { s.rte with planeMap := resetMap (planesM1 t), planeStage := resetMap (planesM1 t), planePending := false })))
    ∧ (let p := if bitAt v 31 ∧ 5 ≤ s.glb.step.toNat then reachStep 6 s else s
      let u := if s.glb.locked then s else evalFnid (nvMod (fun n => { n with fnidPin := v &&& 0x80000FFF }) p)
      ∃ t, exec (.glbFnidPinWrite i v) s = .next t ∧ Answered u t i (writeReply i u .fnidPin false))
    ∧ (let u := if s.glb.locked then s else evalFnid (nvMod (fun n => { n with rackId := v &&& 0xFFFF }) s)
      ∃ t, exec (.glbRackIdWrite i v) s = .next t ∧ Answered u t i (writeReply i u .rackId false))

/-- The window and identity registers of an end-point block (R36, R40, R43, R44, R177): SRC_FNID while the block holds nothing, WIN_CTL's
three operations while none is in progress (INVALIDATE of a window that no descriptor names, and both without a controller to steer),
and RETX_CFG within R177's bound. WRITE stores the staged entry only when R43's checks give 0. -/
def Obligations.EndPointRegistersTakeEffect : Prop :=
  ∀ (s : State) (i n : Nat) (x : Session) (v : W32) (k : BitVec 10), Serving s → HasSession s i x → (x.role = 1 ∨ x.role = 2) → n < 64 →
    (((bitsOf v 0 12).toNat < 0x800 ∨ bitsOf v 0 12 = (0xFFF : BitVec 12)) → ctxsUsed (epOf s n).rel = 0 → (epOf s n).descs = [] →
      let u := modEp n (fun e => { e with srcFnid := bitsOf v 0 12 }) s
      ∃ t, exec (.epSrcFnidWrite i n v) s = .next t ∧ Answered u t i (writeReply i u (.srcFnid n) false))
    ∧ ((epOf s n).winBusy = false → steerActive (epOf s n) = false →
      let c := winCheck (modEp n (fun e => { e with winIndex := k }) s) n k (epOf s n).winData
      let u := modEp n (fun e => { e with
        winIndex := k, winStatus := BitVec.ofNat 3 c, win := if c = 0 then tabSet 0 e.win k.toNat e.winData else e.win }) s
      ∃ t, exec (.winWrite i n k) s = .next t ∧ Answered u t i (writeReply i u (.winCtl n) true))
    ∧ ((epOf s n).winBusy = false →
      let u := modEp n (fun e => { e with winIndex := k, winStatus := 0, winData := tabGet 0 e.win k.toNat }) s
      ∃ t, exec (.winRead i n k) s = .next t ∧ Answered u t i (writeReply i u (.winCtl n) true))
    ∧ ((epOf s n).winBusy = false → steerActive (epOf s n) = false → (epOf s n).descs = [] → (epOf s n).rings = [] →
      let u := modEp n (fun e => { e with winIndex := k, winStatus := 0, win := tabMod 0 e.win k.toNat (putBits · 127 1 0) }) s
      ∃ t, exec (.winInvalidate i n k) s = .next t ∧ Answered u t i (writeReply i u (.winCtl n) true))
    ∧ (∀ p : Point, (p = .rte ∨ p = .ep n) → retxBase v * (2 ^ (retxMax v + 1) - 1) + 1000 ≤ retxHold v * 1000 →
      let u := modRel p (fun r => { r with retxCfg := v }) s
      ∃ t, exec (.retxCfgWrite i p v) s = .next t ∧ Answered u t i (writeReply i u (.retxCfg p) false))

/-- Lane and port registers (R443-R446, R500): a profile is selected; an eye scan starts on a lane in traffic, on another ends ABORTED at once
(assumption 28), and ends by ABORT with the disagreements so far or by EYE_SCAN_DONE with all of them, of at most 2^(DWELL + 16) symbols, DWELL
above 20 acting as 20. PORT[n]_CFG takes a new PERS from the INSTALLER alone, out of traffic too, through RESET or DISABLED with cause ADMIN;
RESTART does the same with PERS kept; an OPERATOR's PERS, or one that is not new, changes nothing. -/
def Obligations.LaneAndPortRegistersTakeEffect : Prop :=
  ∀ (s : State) (i n : Nat) (x : Session) (v : W32), Serving s → HasSession s i x → n < 64 →
    (x.role = 2 → ∃ t, exec (.laneProfileWrite i v) s = .next t ∧ t.mgt.nv = { s.mgt.nv with profileId := bitsOf v 0 16 }
      ∧ t = { s with mgt := t.mgt, glb := t.glb, tly := t.tly, freeCount := t.freeCount }
      ∧ (tableErr t = true → s.glb.faults.length < 1024 → Recorded t 0xB3 sevError t.mgt.nv.profileId.toNat))
    ∧ ((x.role = 1 ∨ x.role = 2) → s.lanes.eyeBusy = false → bitAt v 30 = false →
      let p := portOf s ((bitsOf v 22 8 : Byte).toNat / 4)
      let on := decide (p.state = .traffic) && !p.quiet
      ∃ cut, let u := modLanes (fun l => { l with
          eyeCtl := v &&& 0x3FFFFFFF, eyeLane := bitsOf v 22 8, eyeBusy := on, eyeAborted := !on, eyeErrs := 0, eyeCut := cut }) s
        ∃ t, exec (.eyeScanStart i v) s = .next t ∧ Answered u t i (writeReply i u .eyeCtl false))
    ∧ ((x.role = 1 ∨ x.role = 2) → s.lanes.eyeBusy = true →
      let u := modLanes (fun l => { l with eyeCtl := (l.eyeCtl ||| 0x40000000) &&& 0x3FFFFFFF, eyeBusy := false, eyeAborted := true, eyeErrs := l.eyeCut }) s
      ∃ t, exec (.eyeScanAbort i) s = .next t ∧ Answered u t i (writeReply i u .eyeCtl false))
    ∧ (∀ (errs : Nat) (lost : Bool), s.lanes.eyeBusy = true →
      exec (.eyeScanDone errs lost) s = .next (modLanes (fun l => { l with
        eyeBusy := false, eyeAborted := lost
        eyeErrs := BitVec.ofNat 30 (min (min errs (2 ^ (min (bitsOf l.eyeCtl 0 5).toNat 20 + 16))) (2 ^ 30 - 1)) }) s))
    ∧ (let starts (t : State) (pers : Nat) : Prop := (portOf t n).state = (if pers = 1 ∨ pers = 2 then .reset else .disabled)
        ∧ (portOf t n).cause = causeAdmin ∧ (portOf t n).keys = none ∧ (portOf t n).peerFnid = 0xFFF ∧ (portOf t n).enc = false
        ∧ (portOf t n).quiet = false ∧ (∀ l, l / 4 = n → (laneAt t l).markLock = false ∧ (laneAt t l).cdrLock = false)
      let alone (t : State) : Prop := (∀ m, m ≠ n → portOf t m = portOf s m) ∧ t = { s with mgt := t.mgt, lanes := t.lanes, freeCount := t.freeCount }
      (x.role = 2 → bitsOf v 30 2 ≠ tabGet 0 s.mgt.nv.pers n →
        ∃ t, exec (.portCfgWrite i n v) s = .next t ∧ persOf t n = (bitsOf v 30 2 : BitVec 2).toNat ∧ starts t (persOf t n)
          ∧ (persOf s n ≠ 1 → (portOf s n).state ≠ .traffic → alone t ∧ t.mgt.nv = { s.mgt.nv with pers := t.mgt.nv.pers }))
      ∧ ((x.role = 1 ∨ x.role = 2) →
        ∃ t, exec (.restart i n) s = .next t ∧ starts t (persOf s n) ∧ ((portOf s n).state ≠ .traffic → alone t ∧ t.mgt.nv = s.mgt.nv)))
    ∧ ((x.role = 1 ∨ x.role = 2) → (x.role = 1 ∨ bitsOf v 30 2 = tabGet 0 s.mgt.nv.pers n) → bitAt v 29 = false →
      ∃ t, exec (.portCfgWrite i n v) s = .next t ∧ Answered s t i (writeReply i s (.portCfg n) false))

/-- The mask table, the mirror and the pool's settings (R129-R133, R147, R150), written by a role that may: every WRITE and READ of the table,
every write of SWC_MIRROR_CTL, and every write of a pool register, which is refused where R129-R131 say so. A pool write keeps every cell
where it is; the class and its ingresses follow its new thresholds at once. Another role is denied. The word 0 of a DENIED reply and the BUSY of
the table's reply are the model's (assumptions 18 and 46). -/
def Obligations.SwitchAndPoolRegistersTakeEffect : Prop :=
  ∀ (s : State) (i : Nat) (x : Session) (v : W32) (k : BitVec 12), Serving s → HasSession s i x →
    ((x.role = 1 ∨ x.role = 2) →
      let d := s.swc.mcastData
      let bad := bitsOf d 64 30 ≠ 0 ∨ (isSpine s = true ∧ 2 ^ (leavesM1 s + 1) ≤ (bitsOf d 0 64 : BitVec 64).toNat)
      let at_ (st : Nat) : State := modSwc (fun w => { w with mcastIndex := k, mcastStatus := BitVec.ofNat 2 st }) s
      (¬ bad → let u := modSwc (fun w => { w with mcast := tabSet 0 w.mcast k.toNat d }) (at_ 0)
        ∃ t, exec (.mcastWrite i k) s = .next t ∧ Answered u t i (writeReply i u .mcastCtl true))
      ∧ (bad → ∃ t, exec (.mcastWrite i k) s = .next t ∧ Answered (at_ 1) t i (writeReply i (at_ 1) .mcastCtl true))
      ∧ (let u := modSwc (fun w => { w with mcastData := tabGet 0 w.mcast k.toNat }) (at_ 0)
        ∃ t, exec (.mcastRead i k) s = .next t ∧ Answered u t i (writeReply i u .mcastCtl true)))
    ∧ (x.role = 1 →
      let n := v &&& 0xFFFFE000
      let fits := 10 ≤ mirLog2 n ∧ mirLog2 n ≤ 24 ∧ s.swc.mirrorBase.toNat % 4096 = 0 ∧ s.swc.mirrorBase.toNat + 2 ^ mirLog2 n * 64 ≤ stackedSize
      let gives (f : Swc → Swc) : Prop := let u := modSwc f s
        ∃ t, exec (.swcMirrorCtlWrite i v) s = .next t ∧ Answered u t i (writeReply i u .mirrorCtl false)
      (mirEn s.swc.mirrorCtl = true → gives fun w => { w with mirrorCtl := (w.mirrorCtl &&& 0x403E0000) ||| (v &&& 0xBFC1E000) })
      ∧ (mirEn s.swc.mirrorCtl = false → bitAt v 31 = false → gives fun w => { w with mirrorCtl := n })
      ∧ (mirEn s.swc.mirrorCtl = false → bitAt v 31 = true → fits → gives fun w => { w with
        mirrorCtl := n, mirrorProd := 0, mirrorCons := 0, mirrorCfgErr := false, mirrorSeen := 0 })
      ∧ (mirEn s.swc.mirrorCtl = false → bitAt v 31 = true → ¬ fits → gives fun w => { w with mirrorCtl := putBits n 31 1 0, mirrorCfgErr := true }))
    ∧ (∀ c : Nat, c < 4 → (x.role = 1 ∨ x.role = 2) →
      let total := ((List.range 4).map fun d => if d = c then (bitsOf v 0 22 : BitVec 22).toNat else poolSize s d).sum
      let rises := (bitsOf v 0 10 : BitVec 10) ≤ bitsOf v 10 10 ∧ (bitsOf v 10 10 : BitVec 10) ≤ bitsOf v 20 10
      let spans := (bitsOf v 0 16 : BitVec 16) ≤ bitsOf v 16 16
      let settles (t : State) (f : Pool → Pool) : Prop := t.mgt.nv = s.mgt.nv ∧ SettledOnly { modPool f s with mgt := t.mgt } t
        ∧ (classFree t c < (bitsOf (poolThresh t c) 0 10).toNat * 1024 → tabGet false t.pool.xoff c = true)
        ∧ ((bitsOf (poolThresh t c) 0 10).toNat * 1024 ≤ classFree t c → (bitsOf (poolThresh t c) 10 10).toNat * 1024 ≤ classFree t c →
          tabGet false t.pool.xoff c = false)
        ∧ (∀ p, p < 128 → (bitsOf (poolLimit t c) 16 16).toNat * 64 ≤ portHeld t p c → tabGet false t.pool.portOff (pcKey p c) = true)
      let stays (go : Instr) (r : Reg) : Prop := ∃ t, exec go s = .next t ∧ Answered s t i (writeReply i s r false)
      (total ≤ 3145728 → ∃ t, exec (.poolClassCfgWrite i c v) s = .next t ∧ poolCfg t c = v &&& 0x3FFFFF
        ∧ (∀ d, d ≠ c → poolCfg t d = poolCfg s d) ∧ settles t fun p => { p with classCfg := t.pool.classCfg })
      ∧ (3145728 < total → stays (.poolClassCfgWrite i c v) (.classCfg c))
      ∧ (rises → ∃ t, exec (.poolThreshWrite i c v) s = .next t ∧ poolThresh t c = v &&& 0x3FFFFFFF
        ∧ (∀ d, d ≠ c → poolThresh t d = poolThresh s d) ∧ settles t fun p => { p with thresh := t.pool.thresh })
      ∧ (¬ rises → stays (.poolThreshWrite i c v) (.thresh c))
      ∧ (spans → ∃ t, exec (.poolPortLimitWrite i c v) s = .next t ∧ poolLimit t c = v
        ∧ (∀ d, d ≠ c → poolLimit t d = poolLimit s d) ∧ settles t fun p => { p with portLimit := t.pool.portLimit })
      ∧ (¬ spans → stays (.poolPortLimitWrite i c v) (.portLimit c)))
    ∧ (∀ go : Instr, ((go ∈ [Instr.mcastWrite i k, .mcastRead i k] ∧ x.role ≠ 1 ∧ x.role ≠ 2) ∨ (go = .swcMirrorCtlWrite i v ∧ x.role ≠ 1)
        ∨ (∃ c, c < 4 ∧ go ∈ [Instr.poolClassCfgWrite i c v, .poolThreshWrite i c v, .poolPortLimitWrite i c v] ∧ x.role ≠ 1 ∧ x.role ≠ 2)) →
      ∃ t, exec go s = .next t ∧ Answered s t i ⟨i, 0x91, some resDenied, zeros 4⟩)

/-- The RTE's registers (R60, R163, R164, R185): ARM latches the commit tick once, CANCEL ends a pending commit, RTE_DEST takes an entry
in range, RTE_TRUNK_EN gives its word, and RTE_CMAP_CTL starts a map whose region fits. -/
def Obligations.RoutingRegistersTakeEffect : Prop :=
  ∀ (s : State) (i : Nat) (x : Session) (v : W32), Serving s → HasSession s i x →
    ((x.role = 1 ∨ x.role = 2) → s.rte.planePending = false →
      let u := modRte (fun r => { r with planePending := true, planeLatched := r.planeCommit }) s
      ∃ t, exec (.rtePlaneArm i) s = .next t ∧ Answered u t i (writeReply i u .planeCtl false))
    ∧ (∀ also : Bool, (x.role = 1 ∨ x.role = 2) →
      let u := modRte (fun r => { r with planePending := false }) s
      ∃ t, exec (.rtePlaneCancel i also) s = .next t ∧ Answered u t i (writeReply i u .planeCtl false))
    ∧ (∀ f : Nat, f < 2048 → (x.role = 1 ∨ x.role = 2) → (bitsOf v 16 6).toNat ≤ leavesM1 s → (isLeaf s = true → (bitsOf v 0 6).toNat < 32) →
      let u := modRte (fun r => { r with dest := tabSet 0 r.dest f (v &&& 0x803F003F) }) s
      ∃ t, exec (.rteDestWrite i f v) s = .next t ∧ Answered u t i (writeReply i u (.dest f) false))
    ∧ (∀ k : Nat, k < 2 → (x.role = 1 ∨ x.role = 2) →
      (∀ p, isTrunk s p = true → bitAt s.rte.trunkEn p = true → bitAt (putBits s.rte.trunkEn (32 * k) 32 v.toNat) p = true) →
      let u := modRte (fun r => { r with trunkEn := putBits r.trunkEn (32 * k) 32 v.toNat }) s
      ∃ t, exec (.rteTrunkEnWrite i k v) s = .next t ∧ Answered u t i (writeReply i u (.trunkEn k) false))
    ∧ (x.role = 1 → bitAt v 31 = true → s.rte.cmapBase.toNat % 4096 = 0 → s.rte.cmapBase.toNat + 0x4000 ≤ stackedSize → s.rte.cmapEn = false →
      let u := modRte (fun r => { r with cmapPeriodUs := bitsOf v 0 16, cmapEn := true, cmapCfgErr := false, cmapCount := 0, cmapPorts := cmapFresh s
                                         cmapStart := s.tick.now, cmapRetx := 0, cmapTimeout := 0, cmapPeriods := 0 }) s
      ∃ t, exec (.rteCmapCtlWrite i v) s = .next t ∧ Answered u t i (writeReply i u .cmapCtl false))

/-- Group and member tables, array loads and binding tables (R276-R278, R331-R333, R339): the operations that READ, and those that
write when the checks give 0; UNLOAD takes a resident program that does not run out of the directory. -/
def Obligations.GroupAndArrayRegistersTakeEffect : Prop :=
  ∀ (s : State) (i : Nat) (x : Session) (g : BitVec 12) (a : BitVec 10) (b e : BitVec 4) (v : W32), Serving s → HasSession s i x →
    (x.role = 1 ∨ x.role = 2) →
    (let c := groupCheck (modCol (fun w => { w with grpIndex := g }) s) g.toNat s.col.grpData
      ∃ t, exec (.colGrpWrite i g) s = .next t ∧ t.col.grpStatus = BitVec.ofNat 3 c ∧ t.col.grpIndex = g
        ∧ t = { s with col := t.col, swc := { s.swc with mcast := t.swc.mcast }, mgt := t.mgt, freeCount := t.freeCount }
        ∧ (c = 0 → t.col.groups = tabSet 0 s.col.groups g.toNat s.col.grpData) ∧ (c ≠ 0 → t.col.groups = s.col.groups ∧ t.swc = s.swc)
        ∧ t.col.members = s.col.members ∧ t.col.slots = s.col.slots)
    ∧ (let u := modCol (fun w => { w with grpIndex := g, grpStatus := 0, grpData := tabGet 0 w.groups g.toNat }) s
      ∃ t, exec (.colGrpRead i g) s = .next t ∧ Answered u t i (writeReply i u .grpCtl true))
    ∧ (groupLive s g.toNat = false →
      ∃ t, exec (.colGrpInvalidate i g) s = .next t ∧ t.col.groups = tabSet 0 s.col.groups g.toNat (putBits (tabGet 0 s.col.groups g.toNat) 63 1 0)
        ∧ t.col.grpStatus = 0 ∧ t = { s with col := t.col, swc := { s.swc with mcast := t.swc.mcast }, mgt := t.mgt, freeCount := t.freeCount })
    ∧ (∀ m : Nat, m < 32768 → memberInUse s (2 * m) = false → memberInUse s (2 * m + 1) = false →
      let u := modCol (fun w => { w with members := tabSet 0 (tabSet 0 w.members (2 * m) (bitsOf v 0 16)) (2 * m + 1) (bitsOf v 16 16) }) s
      ∃ t, exec (.colMemberWrite i m v) s = .next t ∧ Answered u t i (writeReply i u (.colMember m) false))
    ∧ (s.arr.loadBusy = none → (residentProg (arrOf s a.toNat) (bitsOf s.arr.loadProg 0 16)).isSome = true →
      runsProg (arrOf s a.toNat) (bitsOf s.arr.loadProg 0 16) = false →
      let u := dropResident a.toNat (bitsOf s.arr.loadProg 0 16) (modArr (fun w => { w with loadArray := a, loadStatus := 0 }) s)
      ∃ t, exec (.arrUnload i a) s = .next t ∧ Answered u t i (writeReply i u .loadCtl true))
    ∧ (b.toNat < 12 →
      let u := modArr (fun w => { w with cbGroup := b, cbEntry := e, cbStatus := 0, cbData := tabGet 0 s.col.cb (cbKey b.toNat e.toNat) }) s
      ∃ t, exec (.arrCbRead i b e) s = .next t ∧ Answered u t i (writeReply i u .cbCtl true))

/-- GLB_FLT_DATA[0], POP and GLB_DRAIN_CTL, and the move of an end-point block's oldest record into the device queue (R391-R393, R410): the
first read shows the oldest record, and POP removes the shown one and nothing else; a drain that begins writes the combining buffers back
(R212). -/
def Obligations.FaultRecordsAreShownPoppedAndMoved : Prop :=
  (∀ (s : State) (i : Nat) (x : Session), Serving s → HasSession s i x →
    ∃ t, exec (.glbFltDataRead i) s = .next t
      ∧ Answered (modGlb (fun g => { g with shown := if s.glb.faults = [] then g.shown else true }) s) t i
        ⟨i, 0x90, some resOk, bvBytes (fltWord s 0)⟩)
  ∧ (∀ (s : State) (i : Nat) (x : Session) (v : W32), Serving s → HasSession s i x → (x.role = 1 ∨ x.role = 2) →
    let u := modGlb (fun g => { g with
      notifyEn := bitAt (v ||| 0x80000000) 30, notifySev := bitsOf (v ||| 0x80000000) 28 2, notifyTally := bitsOf (v ||| 0x80000000) 0 16
      faults := if g.shown then g.faults.drop 1 else g.faults, shown := false }) s
    ∃ t, exec (.pop i v) s = .next t ∧ Answered u t i (writeReply i u .fltCtl false))
  ∧ (∀ (s : State) (i : Nat) (x : Session) (v : W32), Serving s → HasSession s i x → (x.role = 1 ∨ x.role = 2) →
    let rises := bitAt v 31 = true ∧ s.glb.drainReq = false
    let u := modGlb (fun g => { g with drainReq := bitAt v 31 }) (if rises then forEach (s.mem.channels.map (·.1)) drainChannel s else s)
    ∃ t, exec (.glbDrainCtlWrite i v) s = .next t ∧ Answered u t i (writeReply i u .drainCtl false)
      ∧ (rises → ∀ c, (chanOf t c).comb = []) ∧ t = { s with glb := t.glb, mem := t.mem, mgt := t.mgt, freeCount := t.freeCount } ∧ t.mgt.nv = s.mgt.nv)
  ∧ (∀ (s : State) (n : Nat) (r : FaultRec) (rest : List FaultRec), s.pwr.powered = true → n < 64 → (epOf s n).faults = r :: rest →
    ∃ t, exec (.faultMove n) s = .next t ∧ FaultOnly (modEp n (fun e => { e with faults := rest }) s) t
      ∧ (s.glb.faults.length < 1024 → ∃ q ∈ t.glb.faults, q.kind = r.kind ∧ q.key = r.key ∧ r.severity ≤ q.severity))

/-- READ and WRITE (R466, R491-R493): a READ answers the words as they stand, each read's side effects following in address order; a
WRITE by a role that may write answers the word after it; a WRITE by any other is DENIED, changes no register and answers 0. The word 0 of a DENIED
or FORMAT reply is the model's (assumption 18). -/
def Obligations.ReadAndWriteAnswer : Prop :=
  (∀ (s : State) (i : Nat) (x : Session) (off : W32) (count : BitVec 16), Serving s → HasSession s i x →
    off.toNat % 4 = 0 → count ≠ 0 → count.toNat ≤ 256 →
    ∃ t, exec (.read i off count) s = .next t
      ∧ t.mgt.replies = s.mgt.replies ++ [⟨i, 0x90, some resOk, (readWords count.toNat off.toNat s).1⟩]
      ∧ t.pending = s.pending ∧ t.fuses = s.fuses)
  ∧ (∀ (s : State) (i : Nat) (x : Session) (off : W32) (r : Reg), Serving s → HasSession s i x → regOf off.toNat = some r →
    ∃ t, exec (.read i off 1) s = .next t
      ∧ t.mgt.replies = s.mgt.replies ++ [⟨i, 0x90, some resOk, bvBytes (peekReg s r)⟩]
      ∧ (readEffect r s = s → Answered s t i ⟨i, 0x90, some resOk, bvBytes (peekReg s r)⟩))
  ∧ (∀ (s : State) (i : Nat) (x : Session) (off v : W32) (r : Reg), Serving s → HasSession s i x → regOf off.toNat = some r →
    (mayWrite x.role r = true → ∃ t, exec (.write i off v) s = .next t
      ∧ ∃ busy : Bool, ∃ w : W32, t.mgt.replies.getLast? = some ⟨i, 0x91, some resOk, bvBytes w⟩
        ∧ (r ≠ .ledgerStat → (∀ hi, r ≠ .ledgerSeq hi) → w = peekReg t r ||| (if busy then 0x80000000 else 0)))
    ∧ (mayWrite x.role r = false → ∃ t, exec (.write i off v) s = .next t ∧ Answered s t i ⟨i, 0x91, some resDenied, zeros 4⟩))
  ∧ (∀ (s : State) (i : Nat) (x : Session) (off v : W32), Serving s → HasSession s i x → regOf off.toNat = none →
    ∃ t, exec (.write i off v) s = .next t ∧ Answered s t i ⟨i, 0x91, some resFormat, zeros 4⟩)

/-! ## Sessions (R462-R465) -/

/-- OPEN and PROVE (R463, R464): an OPEN within the limits leaves a session in PROVING and sends ACCEPT; PROVE with a good signature under
an enrolled key opens it, and one without ends it with a record and a counted failure. How sessions end (R463, R465): a PROVE that does
not come, 300 s without a command, a message that is wrong, CLOSE, and a restart of Mahel, which ends every session and leaves the die's state. -/
def Obligations.SessionsOpenAndEnd : Prop :=
  (
  (∀ (s : State) (i : Nat) (role : Byte) (cred : BitVec 64) (nonce : BitVec 384) (epub : BitVec 776) (ip : W32) (tcp : BitVec 16) (now : Nat),
    s.pwr.powered = true → sessAt s i = none → withinLimits s role = true → lockedOut s role now = false → s.mgt.recovery = false →
    (role = 1 ∨ role = 2 ∨ (role = 3 ∧ (s.mgt.claimed = false ∨ bitAt s.mgt.nv.roleCfg 31 = true))) →
    ∃ t, exec (.openSession i role cred nonce epub none ip tcp now) s = .next t
      ∧ (∃ x, sessAt t i = some x ∧ x.state = .proving ∧ x.role = role ∧ x.credId = cred ∧ x.ip = ip ∧ x.tcp = tcp)
      ∧ (∀ j, j ≠ i → sessAt t j = sessAt s j) ∧ (∃ body, t.mgt.replies = s.mgt.replies ++ [⟨i, 2, none, body⟩])
      ∧ t = { s with mgt := { s.mgt with sessions := t.mgt.sessions, replies := t.mgt.replies, wire := t.mgt.wire }, freeCount := s.freeCount + 1 })
  ∧ (∀ (s : State) (i : Nat) (x : Session) (now : Nat), s.pwr.powered = true → sessAt s i = some x → x.state = .proving →
    (x.voucher = none → provable s x = true → ∃ t, exec (.prove i true now) s = .next t
      ∧ sessAt t i = some { x with state := .open_, keys := Config.sessionKeys x.th } ∧ (∀ j, j ≠ i → sessAt t j = sessAt s j)
      ∧ t = { s with mgt := t.mgt, freeCount := t.freeCount } ∧ t.mgt.nv = s.mgt.nv ∧ t.mgt.replies = s.mgt.replies)
    ∧ (∀ v, x.voucher = some v → ∃ t, exec (.prove i true now) s = .next t ∧ t.mgt.claimed = true
      ∧ t.mgt.nv = { s.mgt.nv with installers := s.mgt.nv.installers ++ [credOf v.key] } ∧ (∃ y, HasSession t i y)
      ∧ t = { s with mgt := t.mgt, freeCount := t.freeCount })
    ∧ (∃ t, exec (.prove i false now) s = .next t ∧ sessAt t i = none ∧ (∀ j, j ≠ i → sessAt t j = sessAt s j)
      ∧ (failTimes t x.role).getLast? = some now ∧ (s.glb.faults.length < 1024 → Recorded t 0xC0 sevWarn x.role.toNat)
      ∧ t = { s with glb := t.glb, tly := t.tly, mgt := t.mgt, freeCount := t.freeCount } ∧ t.mgt.nv = s.mgt.nv)))
  ∧ (
  (∀ (s : State) (i : Nat) (x : Session) (now : Nat), s.pwr.powered = true → sessAt s i = some x →
    (x.state = .proving → ∃ t, exec (.proveTimeout i now) s = .next t ∧ sessAt t i = none ∧ (∀ j, j ≠ i → sessAt t j = sessAt s j)
      ∧ (failTimes t x.role).getLast? = some now ∧ (s.glb.faults.length < 1024 → Recorded t 0xC0 sevWarn x.role.toNat))
    ∧ (x.state = .open_ → ∃ t, exec (.sessionIdleTimeout i) s = .next t ∧ sessAt t i = none ∧ (∀ j, j ≠ i → sessAt t j = sessAt s j)
      ∧ t = { s with mgt := t.mgt, freeCount := t.freeCount } ∧ t.mgt.nv = s.mgt.nv ∧ t.mgt.replies = s.mgt.replies)
    ∧ (∃ t, exec (.sessionMessageError i now) s = .next t ∧ sessAt t i = none ∧ (∀ j, j ≠ i → sessAt t j = sessAt s j))
    ∧ (x.state = .open_ → ∃ t, exec (.closeSession i) s = .next t ∧ sessAt t i = none ∧ (∀ j, j ≠ i → sessAt t j = sessAt s j)
      ∧ t.mgt.replies = s.mgt.replies ++ [⟨i, 0x9F, some resOk, []⟩]
      ∧ t = { s with mgt := t.mgt, freeCount := t.freeCount } ∧ t.mgt.nv = s.mgt.nv))
  ∧ (∀ s : State, s.pwr.powered = true → ∃ t, exec .watchdogRestart s = .next t ∧ (∀ j, sessAt t j = none)
    ∧ (s.glb.faults.length < 1024 → Recorded t 0xC5 sevWarn 0)
    ∧ t = { s with glb := t.glb, tly := t.tly, mgt := t.mgt, freeCount := t.freeCount } ∧ t.mgt.nv = s.mgt.nv))

/-! ## Settings, the ledger and enrolment (R466-R474, R481) -/

/-- STORE and STORE_DONE (R467, R468, R470): the snapshot is of the settings as STORE finds them, and its end makes the inactive bank the
active one under the next sequence number. The ledger (R471-R474): LEDGER_READ returns at most 15 stored entries by SEQ under a signed
head, LEDGER_FLUSH stores the oldest waiting entry under the next SEQ with the hash of the entry before it, and LEDGER_LOST leaves the
LOST entry with its record. ENROLL by the INSTALLER (R466, R481): a peer fingerprint or a credential joins or leaves its list. That ENROLL's reply
has the entries in use as one byte is the model's (assumption 22). -/
def Obligations.SettingsLedgerAndLists : Prop :=
  (
  (∀ (s : State) (i : Nat) (x : Session), Serving s → HasSession s i x → (x.role = 1 ∨ x.role = 2) →
    (s.mgt.storing = none → ∃ t, exec (.storeSettings i) s = .next t
      ∧ Answered (modMgt (fun m => { m with storing := some s.mgt.nv }) s) t i ⟨i, 0x92, some resOk, []⟩)
    ∧ (s.mgt.storing ≠ none → ∃ t, exec (.storeSettings i) s = .next t ∧ Answered s t i ⟨i, 0x92, some resBusy, []⟩))
  ∧ (∀ (s : State) (n : Nv), s.pwr.powered = true → s.mgt.storing = some n →
    ∃ t, exec .storeDone s = .next t ∧ t.mgt.storing = none ∧ t.mgt.activeBank = !s.mgt.activeBank
      ∧ (if s.mgt.activeBank then t.mgt.bank0 = some ⟨n, activeSeq s + 1⟩ ∧ t.mgt.bank1 = s.mgt.bank1
        else t.mgt.bank1 = some ⟨n, activeSeq s + 1⟩ ∧ t.mgt.bank0 = s.mgt.bank0)
      ∧ t.mgt.nv = s.mgt.nv ∧ t = { s with glb := t.glb, tly := t.tly, mgt := t.mgt, freeCount := t.freeCount }))
  ∧ (
  (∀ (s : State) (i : Nat) (x : Session) (first : BitVec 64) (count : BitVec 16) (nonce : BitVec 384), Serving s → HasSession s i x →
    count ≠ 0 → count.toNat ≤ 15 →
    ∃ t, exec (.ledgerRead i first count nonce) s = .next t
      ∧ Answered s t i ⟨i, 0x93, some resOk, bvBytes s.mgt.headSeq ++ bvBytes (Config.signature (headSigned s nonce))
        ++ [BitVec.ofNat 8 (entriesFrom s first.toNat count.toNat).length] ++ (entriesFrom s first.toNat count.toNat).flatMap bvBytes⟩)
  ∧ (∀ (s : State) (e : LedgerEntry) (rest : List LedgerEntry), s.pwr.powered = true → s.mgt.queue = e :: rest →
    let prev := match s.mgt.store.getLast? with
      | none => zeros 48
      | some b => if s.mgt.headSeq = 0 then zeros 48 else sha384 (bvBytes b)
    exec .ledgerFlush s = .next { s with mgt := { s.mgt with
      queue := rest, headSeq := s.mgt.headSeq + 1
      store := (if 6144 ≤ s.mgt.store.length then s.mgt.store.drop 1 else s.mgt.store)
        ++ [BitVec.ofNat 1024 (leNat (ledgerHead (s.mgt.headSeq + 1).toNat e ++ prev))]
      overwritten := s.mgt.overwritten + (if 6144 ≤ s.mgt.store.length then 1 else 0) } })
  ∧ (∀ s : State, s.pwr.powered = true → s.mgt.lostWaiting ≠ 0 → s.mgt.queue.length < 255 →
    ∃ t, exec .ledgerLost s = .next t ∧ (∃ l, t.mgt.queue = s.mgt.queue ++ l ∧ (l.map (·.type)).head? = some 14)
      ∧ (s.glb.faults.length < 1024 → Recorded t 0xC1 sevError 0)
      ∧ t = { s with glb := t.glb, tly := t.tly, mgt := t.mgt, freeCount := t.freeCount } ∧ t.mgt.store = s.mgt.store ∧ t.mgt.nv = s.mgt.nv))
  ∧ (
  ∀ (s : State) (i : Nat) (x : Session) (key : BitVec 776), Serving s → HasSession s i x → x.role = 2 →
    let print : BitVec 384 := bitsOf key 0 384
    (¬ print ∈ s.mgt.nv.peers → s.mgt.nv.peers.length < 128 → ∃ t, exec (.enroll i 0 0 key) s = .next t
      ∧ Answered (nvMod (fun n => { n with peers := n.peers ++ [print] }) s) t i ⟨i, 0x99, some resOk, [BitVec.ofNat 8 (s.mgt.nv.peers.length + 1)]⟩)
    ∧ (portsOfPeer s print = [] → ∃ t, exec (.enroll i 0 1 key) s = .next t
      ∧ Answered (nvMod (fun n => { n with peers := n.peers.filter fun p => decide (p ≠ print) }) s) t i
        ⟨i, 0x99, some resOk, [BitVec.ofNat 8 (s.mgt.nv.peers.filter fun p => decide (p ≠ print)).length]⟩)
    ∧ (¬ credOf key ∈ s.mgt.nv.operators → s.mgt.nv.operators.length < 8 → ∃ t, exec (.enroll i 1 0 key) s = .next t
      ∧ Answered (nvMod (fun n => { n with operators := n.operators ++ [credOf key] }) s) t i
        ⟨i, 0x99, some resOk, [BitVec.ofNat 8 (s.mgt.nv.operators.length + 1)]⟩)
    ∧ (¬ credOf key ∈ s.mgt.nv.installers → s.mgt.nv.installers.length < 8 → ∃ t, exec (.enroll i 2 0 key) s = .next t
      ∧ Answered (modMgt (fun m => { m with claimed := true }) (nvMod (fun n => { n with installers := n.installers ++ [credOf key] }) s)) t i
        ⟨i, 0x99, some resOk, [BitVec.ofNat 8 (s.mgt.nv.installers.length + 1)]⟩))

/-! ## Firmware, fuses and test access (R475-R482) -/

/-- FW_WRITE, FW_VERIFY and FW_ACTIVATE work on the slot that is not running (R476): its bytes are written where they belong and nowhere
else, its state follows the checks in their order, and only a VALID slot becomes NEXT. The end of a trial (R476, R479): FW_CONFIRM keeps
the running slot and burns SVN_FUSE up to its image's SVN, and TRIAL_EXPIRY turns NEXT back with an MGT_FW record. FW_IMAGE_COPY writes
a service image into the module's own memory. The slot state in a reply is one byte and the LEN copied four, and SVN_FUSE stops at 63: those are
the model's (assumptions 23 and 43). -/
def Obligations.FirmwareSlotsAndTrials : Prop :=
  (
  ∀ (s : State) (i : Nat) (x : Session), s.pwr.powered = true → HasSession s i x → (x.role = 1 ∨ x.role = 2) →
    (∀ (off : W32) (len : BitVec 16) (data : List Byte), len ≠ 0 → len.toNat ≤ 1024 → data.length = len.toNat →
      off.toNat + len.toNat ≤ 1572864 → ∃ t, exec (.fwWrite i off len data) s = .next t
        ∧ (slotAt t (!s.mgt.runB)).state = slotWriting ∧ slotAt t s.mgt.runB = slotAt s s.mgt.runB
        ∧ (∀ a, tabGet 0 (slotAt t (!s.mgt.runB)).image a
            = if off.toNat ≤ a ∧ a < off.toNat + len.toNat then data.getD (a - off.toNat) 0 else tabGet 0 (slotAt s (!s.mgt.runB)).image a)
        ∧ t.mgt.replies = s.mgt.replies ++ [⟨i, 0x94, some resOk, []⟩]
        ∧ t = { s with mgt := t.mgt, freeCount := t.freeCount } ∧ t.mgt.nv = s.mgt.nv ∧ t.mgt.nextB = s.mgt.nextB)
    ∧ (∀ sigOk : Bool,
      let r := imgCheck s (slotAt s (!s.mgt.runB)) sigOk
      let st := if r = resOk then slotValid else slotInvalid
      ∃ t, exec (.fwVerify i sigOk) s = .next t
        ∧ Answered (modFw (!s.mgt.runB) (fun y => { y with state := st }) s) t i ⟨i, 0x95, some r, [st.zeroExtend 8]⟩)
    ∧ (x.role = 2 → (slotAt s (!s.mgt.runB)).state = slotValid →
      ∃ t, exec (.fwActivate i) s = .next t
        ∧ Answered (modMgt (fun m => { m with nextB := !m.runB }) s) t i ⟨i, 0x96, some resOk, []⟩)
    ∧ (x.role = 2 → (slotAt s (!s.mgt.runB)).state ≠ slotValid →
      ∃ t, exec (.fwActivate i) s = .next t ∧ Answered s t i ⟨i, 0x96, some resState, []⟩))
  ∧ (
  (∀ (s : State) (i : Nat) (x : Session), s.pwr.powered = true → HasSession s i x → x.role = 2 → s.mgt.trial = true →
    ∃ t, exec (.fwConfirm i) s = .next t ∧ t.mgt.trial = false ∧ t.mgt.trialLeft = 0 ∧ t.mgt.earlierB = s.mgt.runB
      ∧ (let v := min (imgSvn (slotAt s s.mgt.runB)) 63
        t.fuses = { s.fuses with svn := if v ≤ s.fuses.svn.toNat then s.fuses.svn else BitVec.ofNat 6 v })
      ∧ t.mgt.replies = s.mgt.replies ++ [⟨i, 0x97, some resOk, []⟩]
      ∧ t = { s with mgt := t.mgt, fuses := t.fuses, freeCount := t.freeCount } ∧ t.mgt.nv = s.mgt.nv)
  ∧ (∀ s : State, s.pwr.powered = true → s.mgt.trial = true →
    ∃ t, exec .trialExpiry s = .next t ∧ t.mgt.trial = false ∧ t.mgt.nextB = s.mgt.earlierB ∧ t.mgt.runB = s.mgt.runB
      ∧ (s.glb.faults.length < 1024 → Recorded t 0xC3 sevError (if s.mgt.runB then 1 else 0))
      ∧ FaultOnly (modMgt (fun m => { m with trial := false, trialLeft := 0, nextB := m.earlierB }) s) t)
  ∧ (∀ (s : State) (i : Nat) (x : Session) (k : BitVec 16) (off : BitVec 64), Serving s → HasSession s i x → (x.role = 1 ∨ x.role = 2) →
    (MemServes s → s.pwr.tripped = false → k.toNat < imgCount (slotAt s s.mgt.runB) → off.toNat + serviceLen s k.toNat ≤ stackedSize →
      ∃ t, exec (.fwImageCopy i k off) s = .next t ∧ t.mem = (putOwn off.toNat (serviceImage s k.toNat) s).mem
        ∧ t.mgt.nv = s.mgt.nv ∧ t.eps = s.eps ∧ t.lanes = s.lanes ∧ t.fuses = s.fuses
        ∧ t.mgt.replies = s.mgt.replies ++ [⟨i, 0x98, some resOk, leBytes 4 (serviceLen s k.toNat)⟩])
    ∧ ((s.mem.tenantBusy = true ∨ s.pwr.tripped = true) →
      ∃ t, exec (.fwImageCopy i k off) s = .next t ∧ Answered s t i ⟨i, 0x98, some resState, []⟩)))

/-- FUSE, TAP_UNLOCK and the test port (R480, R482): a burn that R480 allows changes one fused item and answers its value, one that it does
not answers FORMAT; TAP_UNLOCK needs a drained module, scrubs it and opens the port; a locked port gives IDCODE and BYPASS only. The four bytes
of FUSE's reply (assumption 23), and that an open port refuses other instruction codes, which the spec does not give (assumption 42), are the
model's. -/
def Obligations.FusesBurnAndTheTestPortOpens : Prop :=
  (∀ (s : State) (i : Nat) (x : Session) (id : BitVec 16) (item : FuseItem) (v : W32), Serving s → HasSession s i x → x.role = 3 →
    (∀ f w, burn s.fuses item v = some (f, w) → ∃ t, exec (.fuse i id item v) s = .next t
      ∧ Answered { s with fuses := f } t i ⟨i, 0x9B, some resOk, bvBytes w⟩)
    ∧ (burn s.fuses item v = none → ∃ t, exec (.fuse i id item v) s = .next t ∧ Answered s t i ⟨i, 0x9B, some resFormat, []⟩))
  ∧ (∀ (s : State) (i : Nat) (x : Session), Serving s → HasSession s i x → x.role = 3 →
    (drained s = true → s.mem.gen ≠ 0xFFFF_FFFF → ∃ t, exec (.tapUnlock i) s = .next t ∧ t.mgt.tapOpen = true
      ∧ t.mem.gen = s.mem.gen + 1 ∧ t.mem.cells = [] ∧ t.mem.poison = [] ∧ t.tly.tallies = []
      ∧ t.mgt.replies = s.mgt.replies ++ [⟨i, 0x9C, some resOk, []⟩] ∧ t.mgt.nv = s.mgt.nv ∧ t.eps = s.eps ∧ t.lanes = s.lanes)
    ∧ (drained s = false → ∃ t, exec (.tapUnlock i) s = .next t ∧ Answered s t i ⟨i, 0x9C, some resState, []⟩))
  ∧ (∀ (s : State) (ir : BitVec 10), s.pwr.powered = true →
    exec (.testAccessInstruction Config.idcodeIr) s
      = .next { s with mgt := { s.mgt with tapIr := Config.idcodeIr, tdo := s.mgt.tdo ++ [0x1002414F] } }
    ∧ exec (.testAccessInstruction 0x3FF) s = .next { s with mgt := { s.mgt with tapIr := 0x3FF } }
    ∧ (s.fuses.testLock = true → s.mgt.tapOpen = false → ir ≠ Config.idcodeIr →
      exec (.testAccessInstruction ir) s = .next { s with mgt := { s.mgt with tapIr := 0x3FF } })
    ∧ ((s.fuses.testLock = false ∨ s.mgt.tapOpen = true) → ir ≠ Config.idcodeIr → ir ≠ 0x3FF →
      exec (.testAccessInstruction ir) s = .refused .testInstruction))

/-! ## Start and the chain (R388, R413, R477, R484-R488) -/

/-- Power-up, RESET_N, FULL_RESET and the restart after an input shutdown (R388, R467, R469, R477, R480, R487), where the NEXT slot's image
passes its checks: the settings of the newest bank, the fused map and SVN, an empty memory under the next GEN, and no session. INCARN counts the
reset, up to its maximum (R9, R399). The restart waits for an input between 21.0 V and 27.0 V (R413). -/
def Obligations.ResetBootsTheNextImage : Prop :=
  ∀ (s : State) (a b : Bool), imgCheck s (slotAt s s.mgt.nextB) (if s.mgt.nextB then b else a) = resOk → s.mem.gen ≠ 0xFFFF_FFFF →
    let left (t : State) : Prop := t.mgt.runB = s.mgt.nextB ∧ t.mgt.recovery = false ∧ t.mgt.nv = ((newestBank s.mgt).elim {} (·.2))
      ∧ t.mgt.sessions = [] ∧ t.mgt.claimed = s.mgt.claimed ∧ t.fuses = s.fuses ∧ t.arr.map = s.fuses.map ∧ t.mem.cells = []
      ∧ t.mem.gen = s.mem.gen + 1 ∧ t.eps = [] ∧ t.glb.locked = false ∧ t.pwr.powered = true ∧ t.pending = s.pending
      ∧ t.mgt.incarn = satAdd s.mgt.incarn 1 ∧ 5 ≤ t.glb.step.toNat
    (∃ t, exec (.powerUp a b) s = .next t ∧ left t)
    ∧ (s.pwr.powered = true → ∃ t, exec (.resetN a b) s = .next t ∧ left t)
    ∧ (∀ mv : BitVec 16, s.pwr.powered = false → 21000 ≤ mv.toNat → mv.toNat ≤ 27000 →
      ∃ t, exec (.inputRestored mv (a, b)) s = .next t ∧ left t)
    ∧ (∀ i x, Serving s → HasSession s i x → x.role = 2 → ∃ t, exec (.fullReset i a b) s = .next t ∧ left t
      ∧ ⟨i, 0x9A, some resOk, []⟩ ∈ t.mgt.replies)

/-- The input (R413): in a band beside the operating range a warning only records. Beyond the bands a shutdown writes its ledger entry, stops every
port, one in traffic too, with what it learnt from its peer forgotten, puts the stacks in self-refresh with no line left in a combining buffer
(R212), and turns the regulators off; at another voltage neither command changes anything. Then no command but POWER_UP and INPUT_RESTORED
changes the module (assumption 16). That a stopped port stands in RESET, or stays DISABLED, with its CAUSE kept is the model's (assumption 16). -/
def Obligations.InputWarnsAndShutsDown : Prop :=
  (∀ (s : State) (above : Bool) (mv : BitVec 16), s.pwr.powered = true →
    let beside := if above then 27000 < mv.toNat ∧ mv.toNat ≤ 28500 else 19500 ≤ mv.toNat ∧ mv.toNat < 21000
    let beyond := if above then 28500 < mv.toNat else mv.toNat < 19500
    (beside → ∃ t, exec (.vinWarn above mv) s = .next t ∧ FaultOnly (modPwr (fun p => { p with vinMv := mv }) s) t
      ∧ (s.glb.faults.length < 1024 → Recorded t 0xA0 sevWarn (if above then 1 else 0)))
    ∧ (¬ beside → exec (.vinWarn above mv) s = .next s)
    ∧ (∀ written, beyond → ∃ t, exec (.inputShutdown above mv written) s = .next t ∧ t.pwr.powered = false ∧ t.pwr.vinMv = mv
      ∧ t.mgt.queue = [] ∧ (∀ k, k < 24 → (stackOfN t k).state = .selfRefresh) ∧ (∀ c, (chanOf t c).comb = [])
      ∧ t.fuses = s.fuses ∧ t.pending = s.pending
      ∧ (∀ n, n < 64 → (portOf t n).state = (if (portOf s n).state = .disabled then .disabled else .reset)
        ∧ (portOf t n).cause = (portOf s n).cause ∧ (portOf t n).keys = none ∧ (portOf t n).peerFnid = 0xFFF
        ∧ (portOf t n).enc = false ∧ (portOf t n).quiet = false)
      ∧ ((∀ n, n < 64 → (portOf s n).state = .traffic → PortFree s n) → t.mgt.nv = s.mgt.nv
        ∧ (s.mgt.queue.length < 256 → t.mgt.lostWaiting = s.mgt.lostWaiting + (s.mgt.queue.length + 1 - min written (s.mgt.queue.length + 1)))
        ∧ (s.mgt.queue = [] → 1 ≤ written →
          let prev := match s.mgt.store.getLast? with
            | none => zeros 48
            | some b => if s.mgt.headSeq = 0 then zeros 48 else sha384 (bvBytes b)
          ∃ up, let e : LedgerEntry :=
            { tick := s.tick.now, uptime := up, type := 10, role := 0, result := 0, credId := 0
              detail := detailOf [(0, 1, 1), (1, 1, if above then 1 else 0), (2, 2, mv.toNat), (4, 2, 0)] }
            t.mgt.store.getLast? = some (BitVec.ofNat 1024 (leNat (ledgerHead (s.mgt.headSeq + 1).toNat e ++ prev))))))
    ∧ (∀ written, ¬ beyond → exec (.inputShutdown above mv written) s = .next s))
  ∧ (∀ (s t : State) (c : Instr), s.pwr.powered = false → exec c s = .next t →
    t = s ∨ (∃ a b, c = .powerUp a b) ∨ (∃ mv b, c = .inputRestored mv b))

/-- Roll call (R29-R32, R484-R486): the head takes address 0 and sends ROLL, each later module takes one above what it receives and passes
that on, a later ROLL that disagrees is counted and recorded, and no ROLL in time leaves the FNID in error. That a later ROLL, or one at the head,
is passed on with ADDR + 1 too is the model's (assumption 27). -/
def Obligations.RollCallGivesAddresses : Prop :=
  (∀ (s : State) (msg : BitVec 128) (crc : W32), s.pwr.powered = true → 3 ≤ s.glb.step.toNat → crc = crc32c (bvBytes msg) →
    bitsOf msg 0 8 = (1 : Byte) → (bitsOf msg 16 11 : BitVec 11).toNat < 0x7FE →
    let addr := (bitsOf msg 16 11 : BitVec 11).toNat
    let out := rollMsg (addr + 1) (bitsOf msg 32 16 : BitVec 16).toNat
    (s.mgt.head = false → s.mgt.rackSeen = none → ∃ t, exec (.roll msg crc) s = .next t ∧ t.mgt.adopted = true ∧ t.mgt.addr = BitVec.ofNat 11 (addr + 1)
      ∧ t.mgt.inSig = true ∧ t.mgt.rackSeen = some (bitsOf msg 32 16) ∧ evalFnid t = t ∧ 6 ≤ t.glb.step.toNat
      ∧ t.mgt.rollOut = s.mgt.rollOut ++ [(out, crc32c (bvBytes out))]
      ∧ t = { s with glb := t.glb, tly := t.tly, mgt := t.mgt, freeCount := t.freeCount } ∧ t.mgt.nv = s.mgt.nv)
    ∧ ((s.mgt.head = true ∨ s.mgt.rackSeen ≠ none) → ∃ t, exec (.roll msg crc) s = .next t ∧ t.mgt.addr = s.mgt.addr
      ∧ t.mgt.rollOut = s.mgt.rollOut ++ [(out, crc32c (bvBytes out))]
      ∧ (addr + 1 = s.mgt.addr.toNat → t.mgt.mismatch = s.mgt.mismatch)
      ∧ (addr + 1 ≠ s.mgt.addr.toNat → t.mgt.mismatch = satAdd s.mgt.mismatch 1 ∧ (s.glb.faults.length < 1024 → Recorded t 0xC4 sevWarn 0))))
  ∧ (∀ s : State, s.pwr.powered = true → 3 ≤ s.glb.step.toNat →
    (s.mgt.inSig = false → s.mgt.head = false → ∃ t, exec .chainHeadTimeout s = .next t ∧ t.mgt.head = true ∧ t.mgt.adopted = true ∧ t.mgt.addr = 0
      ∧ evalFnid t = t ∧ 6 ≤ t.glb.step.toNat ∧ t = { s with glb := t.glb, mgt := t.mgt } ∧ t.mgt.nv = s.mgt.nv)
    ∧ (s.mgt.adopted = false → bitAt s.mgt.nv.fnidPin 31 = false → s.mgt.rackSeen = none → ∃ t, exec .rollCallTimeout s = .next t
      ∧ t.glb.fnidErr = true ∧ t.glb.errCause = 6 ∧ t.glb.fnid = 0xFFF ∧ t = { s with glb := t.glb }))
  ∧ (∀ s : State, s.pwr.powered = true → s.mgt.head = true →
    let out := rollMsg 0 (bitsOf s.mgt.nv.rackId 0 16 : BitVec 16).toNat
    exec .headRollSend s = .next (modMgt (fun m => { m with rollOut := m.rollOut ++ [(out, crc32c (bvBytes out))] }) s))

/-! ## Ports and lanes (R434-R458) -/

/-- The first steps of a port's bring-up (R441, R442, R447): RESET is left for SIGNAL with the profile's lane entries loaded and TRAIN cells sent,
four locked lanes lead to ALIGN, whose TRAIN cells and first LOOP_REQ follow, no lock in time leads to FAULT, and a condition that holds ports
back to RESET. -/
def Obligations.PortsLeaveResetAndLock : Prop :=
  ∀ (s : State) (n : Nat), s.pwr.powered = true → n < 64 →
    (∀ p, selectedProfile s = some p → (portOf s n).state = .reset → portsHeld s = false → 6 ≤ s.glb.step.toNat →
      (persOf s n = 1 ∨ persOf s n = 2) → ∃ t, exec (.portResetExit n) s = .next t
        ∧ portOf t n = { portOf s n with
            state := .signal, msgFrom := (epOf s n).sent.length, bringup := s.freeCount
            line := lineWith s n [.fill (some (ctlCell (mkCell [2, 2, BitVec.ofNat 8 (persOf s n), 1])))] }
        ∧ (∀ l, l / 4 = n → laneAt t l = { laneAt s l with loaded := profileEntry p l })
        ∧ 7 ≤ t.glb.step.toNat ∧ (∀ m, m ≠ n → portOf t m = portOf s m) ∧ (∀ l, l / 4 ≠ n → laneAt t l = laneAt s l)
        ∧ t = { s with
            glb := { s.glb with step := t.glb.step }, lanes := { s.lanes with ports := t.lanes.ports, lanes := t.lanes.lanes }
            freeCount := s.freeCount + 1 })
    ∧ ((portOf s n).state = .signal → portsHeld s = false → ∃ t, exec (.lanesLocked n) s = .next t
      ∧ (∃ t1 : BitVec 64, portOf t n = { portOf s n with
        state := .align
        line := lineWith s n [.fill (some (ctlCell (mkCell [2, 3, BitVec.ofNat 8 (persOf s n), 1]))), .cell (ctlCell (mkCell (leBytes 8 3 ++ bvBytes t1)))] })
      ∧ (∀ l, l / 4 = n → laneAt t l = { laneAt s l with sigDet := true, cdrLock := true, cwLock := true })
      ∧ (∀ m, m ≠ n → portOf t m = portOf s m) ∧ (∀ l, l / 4 ≠ n → laneAt t l = laneAt s l)
      ∧ t = { s with lanes := { s.lanes with ports := t.lanes.ports, lanes := t.lanes.lanes }, freeCount := s.freeCount + 1 })
    ∧ ((portOf s n).state = .signal → portsHeld s = false →
      ∃ t, exec (.signalTimeout n) s = .next t ∧ PortFails s t n causeSignal)
    ∧ (inBringup (portOf s n).state = true → portsHeld s = true →
      ∃ t, exec (.portHold n) s = .next t ∧ PortMoves s t n .reset (portOf s n).cause)

/-- ALIGN (R448): the port passes to QUALIFY with markers locked in order, a skew of at most 80 ns, a TRAIN that suits its PERS and 16 round
trips within the limit; a wrong order, a wrong skew and the timeout lead to FAULT. TRAIN is noted, and in traffic it starts the port
again. The LOOP exchange (R441, R448): LOOP_REQ is answered with its T1 and the TURN taken, LOOP_RSP gives one of 16 samples in ALIGN,
the last of which shows the mean and each other of which begins the next exchange, and in traffic the repeated exchange shows its own. A cell
that is no control cell, or of another CTYPE, is none of these (R435, R441). That ALIGN_TIMEOUT's cause is the first unmet condition is the
model's (assumption 28). -/
def Obligations.PortsAlignAndLoopsMeasure : Prop :=
  (
  ∀ (s : State) (n : Nat), s.pwr.powered = true → n < 64 → portsHeld s = false →
    (∀ (skew : Nat) (order : List Nat), (portOf s n).state = .align →
      (orderOk order = true → skew ≤ 80000 → trainOk s n = some true → 16 ≤ (portOf s n).samples.length → rttOver s n = false →
        ∃ t, exec (.alignDone n skew order) s = .next t
          ∧ portOf t n = { portOf s n with state := .qualify, windowErrs := 0, line := lineWith s n [.fill (some (ctlCell (mkCell [0])))] }
          ∧ (∀ i, i < 4 → laneAt t (4 * n + i) = { laneAt s (4 * n + i) with markLock := true, logical := BitVec.ofNat 2 (order.getD i 0) })
          ∧ (∀ m, m ≠ n → portOf t m = portOf s m) ∧ (∀ l, l / 4 ≠ n → laneAt t l = laneAt s l)
          ∧ t = { s with lanes := { s.lanes with ports := t.lanes.ports, lanes := t.lanes.lanes } })
      ∧ (orderOk order = false → ∃ t, exec (.alignDone n skew order) s = .next t ∧ PortFails s t n causeLock)
      ∧ (orderOk order = true → 80000 < skew → ∃ t, exec (.alignDone n skew order) s = .next t ∧ PortFails s t n causeSkew))
    ∧ ((portOf s n).state = .align → ∃ t, exec (.alignTimeout n) s = .next t ∧ PortFails s t n (alignCause n s))
    ∧ (∀ cell : TxCell, (cellKind cell ≠ .control ∨ cellByte cell.data 0 ≠ 2) → exec (.train n cell) s = .next s)
    ∧ (∀ cell : TxCell, cellKind cell = .control → cellByte cell.data 0 = 2 →
      ((portOf s n).state = .align → exec (.train n cell) s
        = .next (modPort n (fun p => { p with peerTrain := some (cellByte cell.data 2, cellByte cell.data 3) }) s))
      ∧ ((portOf s n).state = .traffic → (portOf s n).quiet = false → PortFree s n →
        ∃ t, exec (.train n cell) s = .next t ∧ PortMoves s t n .reset causePeer)))
  ∧ (
  ∀ (s : State) (n : Nat), s.pwr.powered = true → n < 64 → portsHeld s = false →
    (∀ (cell : TxCell) (turn : W32), cellKind cell = .control → cellByte cell.data 0 = 3 → exchanges s n = true →
      exec (.loopReq n cell turn) s = .next (modPort n (fun p => { p with
        line := lineWith s n [.cell (ctlCell (mkCell (leBytes 8 4 ++ leBytes 8 (cellField cell.data 8 8) ++ bvBytes turn)))] }) s))
    ∧ (∀ (cell : TxCell) (t4 : BitVec 64), cellKind cell = .control → cellByte cell.data 0 = 4 →
      ((portOf s n).state = .align → (portOf s n).samples.length = 15 → exec (.loopRsp n cell t4) s = .next (modPort n (fun p => { p with
        samples := p.samples ++ [rttSample cell.data t4]
        rtt := BitVec.ofNat 16 (min ((p.samples ++ [rttSample cell.data t4]).sum / 16) 65535) }) s))
      ∧ ((portOf s n).state = .align → (portOf s n).samples.length < 15 → ∃ t1 : BitVec 64,
        exec (.loopRsp n cell t4) s = .next (modPort n (fun p => { p with
          samples := p.samples ++ [rttSample cell.data t4], line := lineWith s n [.cell (ctlCell (mkCell (leBytes 8 3 ++ bvBytes t1)))] })
          { s with freeCount := s.freeCount + 1 }))
      ∧ ((portOf s n).state = .traffic → (portOf s n).quiet = false →
        exec (.loopRsp n cell t4) s = .next (modPort n (fun p => { p with rtt := BitVec.ofNat 16 (min (rttSample cell.data t4) 65535) }) s)))
    ∧ (∀ t1, (portOf s n).state = .traffic → (portOf s n).quiet = false → exec (.loopRepeat n t1) s = .next (modPort n (fun p => { p with
      line := lineWith s n [.cell (ctlCell (mkCell (leBytes 8 3 ++ bvBytes t1)))] }) s)))

/-- QUALIFY and AUTH (R449-R451): a clean window takes an EDGE port to traffic and a TRUNK port to AUTH with its HELLO, a window with
errors to FAULT; the peer's HELLO is kept and answered with SIG, an enrolled peer is accepted, and a foreign, unknown or late one not. A port that
comes to traffic wakes a node in P4 (R417). -/
def Obligations.PortsQualifyAndAuthenticate : Prop :=
  ∀ (s : State) (n : Nat), s.pwr.powered = true → n < 64 → portsHeld s = false →
    (∀ corrected symbols : List Nat, (portOf s n).state = .qualify →
      let clean := (portOf s n).windowErrs = 0 ∧ ∀ i, i < 4 → symbols.getD i 0 ≤ s.lanes.symMax.toNat * 256
      (clean → persOf s n = 1 → s.pwr.node ≠ 4 → ∃ t, exec (.qualifyWindowEnd n corrected symbols) s = .next t ∧ (portOf t n).state = .traffic
        ∧ t.glb.locked = true ∧ t.glb.step = (if s.glb.step < 8 then 8 else s.glb.step)
        ∧ ((epOf s n).attach = .down → (epOf t n).attach = .waitHello)
        ∧ (∀ i, i < 4 → (laneAt t (4 * n + i)).corr = satAdd (laneAt s (4 * n + i)).corr (corrected.getD i 0))
        ∧ (∀ m, m ≠ n → portOf t m = portOf s m) ∧ t = { s with glb := t.glb, lanes := t.lanes, eps := t.eps })
      ∧ (clean → persOf s n = 1 → s.pwr.node = 4 → ∃ t, exec (.qualifyWindowEnd n corrected symbols) s = .next t ∧ (portOf t n).state = .traffic
        ∧ t.pwr.node = 0 ∧ (∀ m, m ≠ n → portOf t m = portOf s m))
      ∧ (clean → persOf s n = 2 → ∃ t, exec (.qualifyWindowEnd n corrected symbols) s = .next t
        ∧ portOf t n = { portOf s n with state := .auth, ownHello := helloBytes s n s.freeCount
                                         line := lineWith s n ((authCells 1 (helloBytes s n s.freeCount)).map fun c => .cell (ctlCell c)) }
        ∧ (∀ m, m ≠ n → portOf t m = portOf s m) ∧ t = { s with lanes := t.lanes, freeCount := s.freeCount + 1 })
      ∧ (¬ clean → ∃ t, exec (.qualifyWindowEnd n corrected symbols) s = .next t ∧ PortFails s t n causeQual))
    ∧ ((portOf s n).state = .auth →
      (∀ hello : List Byte, hello.length = 252 → (portOf s n).peerHello = none →
        exec (.authHello n hello) s = .next (modPort n (fun p => { p with
          peerHello := some hello
          line := lineWith s n ((authCells 2 (bvBytes (Config.signature
            (handshakeHash p.ownHello hello ++ [if isLo p.ownHello hello then 1 else 2])))).map fun c => .cell (ctlCell c)) }) s))
      ∧ (∀ (sig : BitVec 768) (ok : Bool) (h : List Byte), (portOf s n).peerHello = some h → (portOf s n).peerOk = false →
        (helloRack h ≠ (bitsOf s.mgt.nv.rackId 0 16 : BitVec 16).toNat → ∃ t, exec (.authSig n sig ok) s = .next t ∧ PortFails s t n causeRack)
        ∧ (helloRack h = (bitsOf s.mgt.nv.rackId 0 16 : BitVec 16).toNat → (helloFnid h = (myFnid s).toNat ∨ ¬ sha384v (helloIdPub h) ∈ s.mgt.nv.peers ∨ ok = false) →
          ∃ t, exec (.authSig n sig ok) s = .next t ∧ PortFails s t n causeAuth)
        ∧ (helloRack h = (bitsOf s.mgt.nv.rackId 0 16 : BitVec 16).toNat → helloFnid h ≠ (myFnid s).toNat → sha384v (helloIdPub h) ∈ s.mgt.nv.peers → ok = true →
          exec (.authSig n sig ok) s = .next (modPort n (fun p => { p with
            peerOk := true, encFrom := some p.line.length, keys := some (Config.sessionKeys (BitVec.ofNat 384 (leNat (handshakeHash p.ownHello h))))
            peerPrint := sha384v (helloIdPub h), peerFnid := BitVec.ofNat 12 (helloFnid h) }) s)))
      ∧ ∃ t, exec (.authTimeout n) s = .next t ∧ PortFails s t n causeAuth)

/-- Markers, errors and recovery (R438, R441, R447, R449, R452): in ALIGN a marker gives its lane's place, and the second of two consecutive ones its
lock; the first marker with ENC from an accepted peer starts traffic; one unchecked group is counted, and a bad tag ends traffic with a ledger
entry of its own; a lost lock does too, and in ALIGN and QUALIFY leads to FAULT, while in SIGNAL and AUTH it clears the lane's flags alone; an
uncorrectable codeword is counted and recorded, and the eighth in a row is a lost codeword lock; FAULT ends in RESET. -/
def Obligations.MarkersAndErrorsMovePorts : Prop :=
  ∀ (s : State) (n : Nat), s.pwr.powered = true → n < 64 →
    (∀ (lane : Nat) (cell : TxCell) (tagOk had : Bool) (now : Nat), lane < 4 → cellKind cell = .control → cellByte cell.data 0 = 1 →
      ((portOf s n).state = .align → portsHeld s = false → exec (.mark n lane cell tagOk had now) s = .next (modLane (4 * n + lane) (fun x => { x with
        logical := bitsOf cell.data 8 2, group := some (bitsOf cell.data 64 62)
        markLock := x.markLock || decide (x.group = some ((bitsOf cell.data 64 62 : BitVec 62) - 1)) }) s))
      ∧ ((portOf s n).state = .auth → portsHeld s = false → (portOf s n).peerOk = true → bitAt (cellByte cell.data 2) 0 = true → s.pwr.node ≠ 4 →
        ∃ t, exec (.mark n lane cell tagOk had now) s = .next t ∧ (portOf t n).state = .traffic
          ∧ (portOf t n).enc = (portOf s n).keys.isSome ∧ t.glb.locked = true ∧ (∀ m, m ≠ n → portOf t m = portOf s m)
          ∧ t = { s with glb := t.glb, lanes := t.lanes, eps := t.eps, tly := t.tly, mgt := t.mgt, freeCount := t.freeCount } ∧ t.mgt.nv = s.mgt.nv)
      ∧ ((portOf s n).state = .traffic → (portOf s n).enc = true → tagOk = false →
        (had = true → (∀ u, (portOf s n).skipAt = some u → u + 10000 < now) → exec (.mark n lane cell tagOk had now) s
          = .next (modPort n (fun p => { p with authSkip := satAdd p.authSkip 1, skipAt := some now }) s))
        ∧ (PortFree s n → (had = false ∨ ∃ u, (portOf s n).skipAt = some u ∧ now ≤ u + 10000) →
          ∃ t, exec (.mark n lane cell tagOk had now) s = .next t ∧ PortMoves s t n .fault causeTag
            ∧ (s.glb.faults.length < 1023 → Recorded t 0xB1 sevError n)
            ∧ s.mgt.queue.length + s.mgt.lostWaiting < t.mgt.queue.length + t.mgt.lostWaiting)))
    ∧ (∀ loss : LaneLoss, loss.lane < 4 → portsHeld s = false →
      let fails (c : BitVec 4) : Prop := ∃ t, exec (.markerLockLoss n loss) s = .next t ∧ PortFails s t n c
      ((portOf s n).state = .traffic → (portOf s n).quiet = false → PortFree s n → fails causeLock)
      ∧ ((portOf s n).state = .align → (portOf s n).quiet = false → fails causeLock)
      ∧ ((portOf s n).state = .qualify → (portOf s n).quiet = false → fails causeQual)
      ∧ (((portOf s n).state = .signal ∨ ((portOf s n).state = .auth ∧ (portOf s n).quiet = false)) →
        ∃ t, exec (.markerLockLoss n loss) s = .next t ∧ laneAt t (4 * n + loss.lane) = loseLock loss.what (laneAt s (4 * n + loss.lane))
          ∧ (∀ m, portOf t m = portOf s m) ∧ (∀ l, l ≠ 4 * n + loss.lane → laneAt t l = laneAt s l) ∧ t = { s with lanes := t.lanes }))
    ∧ (∀ lane run : Nat, lane / 4 = n → 8 ≤ run → (portOf s n).state = .traffic → (portOf s n).quiet = false → PortFree s n →
      ∃ t, exec (.fecUncorrectable ⟨lane, run⟩) s = .next t ∧ PortMoves s t n .fault causeLock
        ∧ (s.glb.faults.length < 1023 → Recorded t 0xB2 sevWarn lane ∧ Recorded t 0xB0 sevError n))
    ∧ (∀ lane run : Nat, lane / 4 = n → run < 8 → (exchanges s n = true ∨ (portOf s n).state = .signal) →
      ∃ t, exec (.fecUncorrectable ⟨lane, run⟩) s = .next t
      ∧ laneAt t lane = { laneAt s lane with uncorr := satAdd (laneAt s lane).uncorr 1 }
      ∧ portOf t n = { portOf s n with windowErrs := (portOf s n).windowErrs + 1 }
      ∧ (∀ m, m ≠ n → portOf t m = portOf s m) ∧ (∀ l, l ≠ lane → laneAt t l = laneAt s l)
      ∧ (s.glb.faults.length < 1024 → Recorded t 0xB2 sevWarn lane)
      ∧ FaultOnly { s with lanes := { s.lanes with ports := t.lanes.ports, lanes := t.lanes.lanes } } t)
    ∧ ((portOf s n).state = .fault → ∃ t, exec (.faultRecoveryTimer n) s = .next t ∧ PortMoves s t n .reset (portOf s n).cause)

/-! ## Power (R413-R433) -/

/-- Port P1 and P3 (R417, R418, R454): an idle port within its tolerance enters P1, an idle EDGE port asks for quiet, the answer takes it
to P3, with no signal on its lanes, and its absence does not; wake signalling, from either side, relocks it with TRAIN cells or sends it to FAULT.
That 16 QUIET cells are sent, and that a WAKE of a quiet port relocks it, are the model's (assumption 28). -/
def Obligations.IdlePortsGoQuietAndWake : Prop :=
  ∀ (s : State) (n : Nat), s.pwr.powered = true → n < 64 →
    ((portOf s n).state = .traffic → portPower s n = 0 → (portOf s n).quieting = false → exitP1 ≤ portTolerance s n → portIdle s n = true →
      exec (.portP1Entry n) s = .next (setPortPower n 1 s))
    ∧ ((portOf s n).state = .traffic → (portOf s n).quiet = false → (portOf s n).quieting = false → exitP3 ≤ portTolerance s n →
      portMayQuiet s n = true → exec (.quietEntry n) s = .next (modPort n (fun p => { p with
        quieting := true, line := lineWith s n (List.replicate 16 (.cell (ctlCell (mkCell [6])))) }) s))
    ∧ ((portOf s n).quieting = true → ∃ t, exec (.quiet n) s = .next t ∧ portOf t n = { portOf s n with quieting := false, quiet := true, line := lineWith s n [.fill none] }
      ∧ portPower t n = 3 ∧ (∀ l, l / 4 = n → laneAt t l = { laneAt s l with sigDet := false, cdrLock := false, cwLock := false, markLock := false })
      ∧ (∀ m, m ≠ n → portOf t m = portOf s m ∧ portPower t m = portPower s m) ∧ (∀ l, l / 4 ≠ n → laneAt t l = laneAt s l)
      ∧ t = { s with lanes := t.lanes, pwr := { s.pwr with portState := t.pwr.portState } })
    ∧ exec (.quietTimeout n) s = .next (modPort n (fun p => { p with quieting := false }) s)
    ∧ ((portOf s n).state = .traffic → (portOf s n).quiet = true → s.pwr.node ≠ 4 →
      (∃ t, exec (.laneWakeDetect n true) s = .next t ∧ Relocked s t n [])
      ∧ (PortFree s n → ∃ t, exec (.laneWakeDetect n false) s = .next t ∧ PortFails s t n causeWake))
    ∧ ((portOf s n).state = .traffic → (portOf s n).quiet = false → ∀ ok,
      exec (.laneWakeDetect n ok) s = .next (modPort n (fun p => { p with quieting := false }) s))
    ∧ ((portOf s n).quiet = false → ∀ ok, exec (.wake (.port n ok)) s = .next (setPortPower n 0 (modPort n (fun p => { p with quieting := false }) s)))
    ∧ ((portOf s n).quiet = true → s.pwr.node ≠ 4 → (∃ t, exec (.wake (.port n true)) s = .next t ∧ Relocked s t n [.wake])
      ∧ (((portOf s n).state = .traffic → PortFree s n) → ∃ t, exec (.wake (.port n false)) s = .next t ∧ PortFails s t n causeWake))
    ∧ ((portOf s n).quiet = true → s.pwr.node = 4 → s.pwr.tripped = false → ∀ go ∈ [Instr.laneWakeDetect n true, .wake (.port n true)],
      (portOf s n).state = .traffic → ∃ t, exec go s = .next t ∧ t.pwr.node = 0 ∧ (portOf t n).quiet = false ∧ portPower t n = 0)

/-- Groups and the node (R417-R420): an idle group within the tolerance is gated, an idle node puts its stacks in self-refresh and then
parks, and a wake or the lead of an ARRAY entry ends it, with SYNC_LOSS after P4. A lower latency tolerance makes its part leave a state
that is too deep (R416, R419), and the OPERATOR alone writes it: to another role the register is denied, with the word 0 of assumption 18. In P4
the core clock stops (R415): a command that it serves changes nothing, and waits outside for a wake (assumption 74). -/
def Obligations.SleepStatesAndTolerances : Prop :=
  (
  ∀ s : State, s.pwr.powered = true →
    (∀ g cyc : Nat, g < 12 → exitP2 ≤ nodeTolerance s → groupMayGate s g cyc = true → exec (.groupP2Entry g cyc) s
      = .next (modPwr (fun p => { p with gated := p.gated ||| BitVec.ofNat 12 (2 ^ g) }) s))
    ∧ (s.pwr.node = 0 → exitP3 ≤ nodeTolerance s → nodeMaySleep s = true → ∃ t, exec .nodeP3Entry s = .next t
      ∧ (∀ k, k < 24 → (stackOfN t k).state = .selfRefresh) ∧ (∀ c ∈ s.mem.channels.map (·.1), (chanOf t c).comb = [])
      ∧ t = { s with pwr := { s.pwr with node := 3 }, mem := t.mem })
    ∧ (s.pwr.node = 3 → exitP4 ≤ nodeTolerance s → (∀ n, n < 64 → persOf s n = 1 → portPower s n = 3) →
      (∀ n, n < 64 → persOf s n = 2 → (portOf s n).state ≠ .traffic) → exec .nodeP4Entry s = .next (modPwr (fun p => { p with node := 4 }) s))
    ∧ (s.pwr.tripped = false → s.pwr.node = 3 → ∃ t, exec (.wake .node) s = .next t ∧ t.pwr = { s.pwr with node := 0 }
      ∧ (∀ k, (stackOfN s k).state = .selfRefresh → (stackOfN t k).state = .active) ∧ t.tick = s.tick ∧ t = { s with pwr := t.pwr, mem := t.mem })
    ∧ (s.pwr.tripped = false → s.pwr.node = 4 → ∃ t, exec (.wake .node) s = .next t ∧ t.pwr = { s.pwr with node := 0 }
      ∧ bitAt t.tick.repro 5 = true ∧ (masterForce s = false → t.tick.state = .acquire ∧ t.tick.upstream = 0xFF ∧ t.tick.stratum = 31))
    ∧ (∀ g : Nat, g < 12 → s.pwr.tripped = false → s.pwr.node = 0 →
      exec (.wake (.group g)) s = .next (modPwr (fun p => { p with gated := p.gated &&& ~~~(BitVec.ofNat 12 (2 ^ g)) }) s))
    ∧ (∀ (e : Nat) (x : BitVec 128), s.tick.active[e]? = some x → entKind x = kindArray → s.pwr.tripped = false → s.pwr.node = 0 →
      exec (.groupPrewake e) s = .next (modPwr (fun p => { p with gated := p.gated &&& ~~~(BitVec.ofNat 12 (2 ^ (entArray x / 72))) }) s))
    ∧ (∀ c : Instr, s.pwr.node = 4 → Instr.onCore c = true → c.wf = true → exec c s = .next s))
  ∧ (
  ∀ (s : State) (i n : Nat) (x : Session) (v : W32), Serving s → HasSession s i x → n < 64 →
    (x.role = 1 → ∃ t, exec (.pwrLtrWrite i (some n) v) s = .next t ∧ portTolerance t n = (bitsOf v 0 24 : BitVec 24).toNat
      ∧ (portPower t n = 3 → exitP3 ≤ portTolerance t n) ∧ (portPower t n = 1 → exitP1 ≤ portTolerance t n)
      ∧ ((portPower s n ≠ 3 ∨ exitP3 ≤ portTolerance t n) → (∀ m, m ≠ n → portTolerance t m = portTolerance s m ∧ portPower t m = portPower s m)
        ∧ t = { s with pwr := t.pwr, lanes := t.lanes, mgt := t.mgt, freeCount := t.freeCount } ∧ t.mgt.nv = s.mgt.nv))
    ∧ (x.role ≠ 1 → ∀ p, p = none ∨ p = some n → ∃ t, exec (.pwrLtrWrite i p v) s = .next t ∧ Answered s t i ⟨i, 0x91, some resDenied, zeros 4⟩)
    ∧ (x.role = 1 → ∃ t, exec (.pwrLtrWrite i none v) s = .next t ∧ t.pwr.ltrNode = bitsOf v 0 24
      ∧ (s.pwr.tripped = false → (t.pwr.node = 4 → exitP4 ≤ nodeTolerance t) ∧ (t.pwr.node = 3 → exitP3 ≤ nodeTolerance t)
        ∧ (t.pwr.gated ≠ 0 → exitP2 ≤ nodeTolerance t)) ∧ t.lanes = s.lanes ∧ t.eps = s.eps ∧ t.mgt.nv = s.mgt.nv))

/-- The cap (R423-R428): the duty of CAP_PWM sets the hardware cap and its absence sets 1,400 W; CAP_ALERT_N and a sample above the cap and
its margin cut the clock; a settle period moves the level by one. CLOCK_CUT is set whenever the level L rises above 0. -/
def Obligations.CapMovesTheThrottle : Prop :=
  ∀ s : State, s.pwr.powered = true →
    let cut := max s.pwr.level (max 1 s.pwr.cutLevel.toNat)
    (∀ high period : Nat, period ≠ 0 → high ≤ period → exec (.capPwmPeriod high period) s
      = .next (modPwr (fun p => { p with hwCapW := (300 * period + 1100 * high) / period, pwmOk := true }) s))
    ∧ exec .capPwmLoss s = .next (modPwr (fun p => { p with hwCapW := 1400, pwmOk := false }) s)
    ∧ (s.pwr.alert = false → ∃ t, exec .capAlertN s = .next t
      ∧ t.pwr = { s.pwr with alert := true, level := cut, excursion := some (s.pwr.excursion.getD (0, 0)) }
      ∧ ((appliedLevel s = 0 ∨ s.pwr.level = 0) → bitAt t.tick.repro 1 = true) ∧ RunsCut s t ∧ t = { s with pwr := t.pwr, tick := { s.tick with repro := t.tick.repro }, arr := t.arr })
    ∧ exec .capAlertNRelease s = .next (modPwr (fun p => { p with alert := false }) s)
    ∧ (∀ (mv : BitVec 16) (ma : Nat), ∃ t, exec (.powerSample mv ma) s = .next t
      ∧ t.pwr = { s.pwr with
        vinMv := mv, energy := s.pwr.energy + BitVec.ofNat 64 ((s.pwr.energyFrac + 5 * (mv.toNat * ma)) / 1000000000)
        energyFrac := (s.pwr.energyFrac + 5 * (mv.toNat * ma)) % 1000000000
        level := if (capW s + 5 * s.pwr.margin.toNat) * 1000000 < mv.toNat * ma then cut else s.pwr.level
        excursion := if (capW s + 5 * s.pwr.margin.toNat) * 1000000 < mv.toNat * ma then some (s.pwr.excursion.getD (0, 0)) else s.pwr.excursion }
      ∧ RunsCut s t ∧ t = { s with pwr := t.pwr, tick := { s.tick with repro := t.tick.repro }, arr := t.arr })
    ∧ (∀ mean : Nat, ∃ t, exec (.powerSettle mean) s = .next t ∧ t.pwr.pinW = BitVec.ofNat 16 (min mean 65535)
      ∧ t.pwr.level = (if capW s < mean then min 19 (s.pwr.level + 1) else if mean + 20 < capW s then s.pwr.level - 1 else s.pwr.level)
      ∧ (s.pwr.level = 0 → capW s < mean → bitAt t.tick.repro 1 = true)
      ∧ (t.pwr.excursion = none ↔ mean ≤ capW s) ∧ (mean ≤ capW s → t.pwr.capUnmet = false)
      ∧ RunsCut s t ∧ FaultOnly { s with pwr := t.pwr, tick := { s.tick with repro := t.tick.repro }, arr := t.arr } t)

/-- Temperatures (R383, R431, R432): a die sample moves the thermal level, a stack sample its CLASS_NEED, and the second sample in a row at
115 °C or more parks the module. -/
def Obligations.TemperaturesMoveLevelsAndPark : Prop :=
  (∀ (s : State) (temp : Byte), s.pwr.powered = true →
    let hot := 105 ≤ temp.toNat ∨ hotStacks s ≠ []
    (temp.toNat < 115 → ∃ t, exec (.dieTempSample temp) s = .next t ∧ t.pwr.dieTemp = temp ∧ t.pwr.dieHot = 0
      ∧ t.pwr.diePeak = (if s.pwr.diePeak.toNat < temp.toNat then temp else s.pwr.diePeak)
      ∧ (hot → s.pwr.thermLevel.toNat < 19 → t.pwr.thermLevel = s.pwr.thermLevel + 1)
      ∧ (¬ hot → temp.toNat < 102 → s.pwr.thermLevel ≠ 0 → t.pwr.thermLevel = s.pwr.thermLevel - 1)
      ∧ (¬ hot → 102 ≤ temp.toNat → t.pwr.thermLevel = s.pwr.thermLevel)
      ∧ RunsCut s t ∧ FaultOnly { s with pwr := t.pwr, tick := { s.tick with repro := t.tick.repro }, arr := t.arr } t)
    ∧ (115 ≤ temp.toNat → s.pwr.dieHot ≠ 0 → s.pwr.tripped = false → ∃ t, exec (.dieTempSample temp) s = .next t
      ∧ t.pwr.node = 4 ∧ t.pwr.gated = 0xFFF))
  ∧ (∀ (s : State) (k : Nat) (temp : Byte), s.pwr.powered = true → k < 24 →
    (temp.toNat < 115 → ∃ t, exec (.stackTempSample k temp) s = .next t
      ∧ FaultOnly (modStack k (fun y => { y with
        temp := temp, peak := if y.peak.toNat < temp.toNat then temp else y.peak, hotSamples := 0
        classNeed := BitVec.ofNat 2 (nextClassNeed y.classNeed.toNat temp.toNat) }) s) t)
    ∧ (115 ≤ temp.toNat → (stackOfN s k).hotSamples ≠ 0 → s.pwr.tripped = false → ∃ t, exec (.stackTempSample k temp) s = .next t
      ∧ t.pwr.node = 4 ∧ t.pwr.gated = 0xFFF))

/-! ## Ticks (R214-R239) -/

/-- TICK_SYNC_CFG and TICK_ITIN_CTL (R222, R225, R228): MASTER_FORCE makes the module the master; entries are staged and read back, ARM
latches the commit and starts the check, CANCEL ends a pending commit, and the check ends in PENDING or in a refusal with its record. That
MASTER_FORCE acts at once from any state and its clearing leaves class 1 or 0 (assumption 32), and that an ARM or another operation while one
runs still writes LOAD_STEP and INDEX (assumption 33), are the model's. -/
def Obligations.TickSettingsAndItineraryStage : Prop :=
  (∀ (s : State) (i : Nat) (x : Session) (v : W32), Serving s → HasSession s i x → x.role = 2 →
    ∃ t, exec (.tickSyncCfgWrite i v) s = .next t ∧ t.mgt.nv = { s.mgt.nv with syncCfg := v &&& 0xC000FFFF }
      ∧ (bitAt v 31 = false → ¬ (s.tick.state = .master ∧ s.tick.mclass = 2) → t.tick = s.tick)
      ∧ (bitAt v 31 = false → s.tick.state = .master → s.tick.mclass = 2 →
        t.tick = { s.tick with mclass := if s.mgt.adopted = true ∧ s.mgt.addr = 0 then 1 else 0 })
      ∧ (bitAt v 31 = true → t.tick.state = .master ∧ t.tick.mclass = 2)
      ∧ t = { s with tick := t.tick, mgt := t.mgt, freeCount := t.freeCount })
  ∧ (∀ (s : State) (i : Nat) (x : Session) (k : BitVec 16) (b : Bool), Serving s → HasSession s i x → (x.role = 1 ∨ x.role = 2) →
    (let u := modTick (fun y => { y with
        loadStep := false, index := k, stage := if y.checking ∨ y.pending then y.stage else tabSet 0 y.stage k.toNat y.data }) s
      ∃ t, exec (.itinOpWrite i k) s = .next t ∧ Answered u t i (writeReply i u .itinCtl true))
      ∧ (let u := modTick (fun y => { y with loadStep := false, index := k, data := tabGet 0 y.stage k.toNat }) s
        ∃ t, exec (.itinOpReadStage i k) s = .next t ∧ Answered u t i (writeReply i u .itinCtl true))
      ∧ (let u := modTick (fun y => { y with loadStep := false, index := k, data := tabGet 0 y.activeAll k.toNat }) s
        ∃ t, exec (.itinOpReadActive i k) s = .next t ∧ Answered u t i (writeReply i u .itinCtl true))
      ∧ (s.tick.checking = false → s.tick.pending = false → let u := modTick (fun y => { y with
          loadStep := b, index := 0, checking := true, latchedTick := y.commit, latchedStep := y.stepSet, latchedLoad := b }) s
        ∃ t, exec (.itinArm i b) s = .next t ∧ Answered u t i (writeReply i u .itinCtl true))
      ∧ ((s.tick.checking = true ∨ s.tick.pending = true) → let u := modTick (fun y => { y with loadStep := b, index := 0 }) s
        ∃ t, exec (.itinArm i b) s = .next t ∧ Answered u t i (writeReply i u .itinCtl false))
      ∧ (let u := modTick (fun y => { y with loadStep := false, index := 0, pending := false }) s
        ∃ t, exec (.itinCancel i b) s = .next t ∧ Answered u t i (writeReply i u .itinCtl false)))
  ∧ (∀ s : State, s.pwr.powered = true → s.tick.checking = true →
    ((itinCheck s).1 = 0 → exec .itinCheckDone s = .next (modTick (fun y => { y with checking := false, pending := true, status := 0 }) s))
    ∧ ((itinCheck s).1 ≠ 0 → ∃ t, exec .itinCheckDone s = .next t
      ∧ FaultOnly (modTick (fun y => { y with checking := false, status := BitVec.ofNat 4 (itinCheck s).1, failIdx := BitVec.ofNat 16 (itinCheck s).2 }) s) t
      ∧ (s.glb.faults.length < 1024 → Recorded t 0x44 sevWarn (itinCheck s).1)))

/-- A quiet boundary (R227, R228, R232, R238): the count and the step advance, a due commit makes the staged itinerary the active one, copied
whole, and counts from the new tick, and the new tick has started nothing. -/
def Obligations.TickBoundaryAdvancesAndCommits : Prop :=
  ∀ s : State, s.pwr.powered = true → (∀ e ∈ s.eps, ∀ d ∈ (epOf s e.1).descs, ∀ y, d.2 = some y → descLate s e.1 y = false) →
    (∀ x ∈ s.col.slots, (slotOf s x.1).state ≠ .live) → (∀ a ∈ s.arr.arrays, (arrOf s a.1).run = none) → s.swc.nodeIn = [] → s.swc.inbound = [] →
    (∀ p, p < 128 → queueOf s p 1 = []) → (∀ x ∈ s.tick.active ++ staged s, entKind x ≠ kindCol ∧ entKind x ≠ kindArray) → s.rte.planePending = false →
    (∀ e ∈ s.eps, (epOf s e.1).dlvQueue.filterMap schedDlv = []) →
    (∀ p ∈ allPoints s, ∀ e ∈ (relOf s p).ctxs, ctxOpen e.2 = true → ctxSeries e.2 % 2 = 0) →
    let now := satAdd (s.tick.takeFrom.getD s.tick.now) 1
    let due := s.tick.pending = true ∧ s.tick.latchedTick ≤ now
    ∃ t, exec .tickBoundary s = .next t ∧ t.tick.now = now ∧ t.tick.takeFrom = none ∧ t.tick.started = [] ∧ t.tick.finished = []
      ∧ (due → t.tick.active = staged s ∧ t.tick.activeAll = s.tick.stage ∧ t.tick.act0 = s.tick.cfg0 ∧ t.tick.act1 = s.tick.cfg1 ∧ t.tick.tc = now ∧ t.tick.pending = false
        ∧ bitAt t.tick.repro 2 = true)
      ∧ (¬ due → t.tick.active = s.tick.active ∧ t.tick.act0 = s.tick.act0 ∧ t.tick.act1 = s.tick.act1 ∧ t.tick.tc = s.tick.tc
        ∧ t.tick.pending = s.tick.pending)
      ∧ (due → s.tick.latchedLoad = true → t.tick.step = s.tick.latchedStep)
      ∧ ((¬ due ∨ s.tick.latchedLoad = false) → t.tick.step = if tickIndex t = 0 then satAdd s.tick.step 1 else s.tick.step)
      ∧ t.mem = s.mem ∧ t.eps = s.eps ∧ t.lanes = s.lanes ∧ t.rte = s.rte

/-- The itinerary's entries (R229, R231): a START releases the descriptors bound to it, an END ends what it released, and refreshes are
taken off what a channel has pending. A forced refresh takes the channel's slots of 448 cycles, here where no access has reserved any of them.
Where it begins, that it leaves 7 pending, how a window's refreshes are subtracted and AUTO's 8 are the model's (assumption 45). -/
def Obligations.EntriesReleaseEndAndRefresh : Prop :=
  ∀ s : State, s.pwr.powered = true →
    (∀ (e : Nat) (x : BitVec 128), entryNow s e = some x → ¬ e ∈ s.tick.started → mayStart s = true →
      (entKind x = kindXfer → exec (.schedRelease e) s = .next (keepFixed s (epWork (entPort x) (modEp (entPort x) (fun p => { p with
        descs := p.descs.map fun d => (d.1, d.2.map fun y => if y.sched = .held ∧ boundTo x y then { y with sched := .released e } else y) })
        (modTick (fun y => { y with started := y.started ++ [e] }) s)))))
      ∧ (entKind x = kindRefresh → ∃ t, exec (.refreshWindow e) s = .next t ∧ t.tick = { s.tick with started := s.tick.started ++ [e] }
        ∧ (∀ c, c < 384 → chanOf t c = if c / 16 = entStack x ∧ bitAt (entChans x) (c % 16) = true then
          { chanOf s c with pendingRefresh := (chanOf s c).pendingRefresh - (entEnd x - entStart x) / 448 } else chanOf s c)
        ∧ t = { s with tick := t.tick, mem := { s.mem with channels := t.mem.channels } }))
    ∧ (∀ (e : Nat) (x : BitVec 128), entryNow s e = some x → ¬ e ∈ s.tick.finished → entKind x = kindXfer →
      exec (.xferEnd e) s = .next (modEp (entPort x) (fun p => { p with
        descs := p.descs.map fun d => (d.1, d.2.map fun y => if y.sched = .released e then { y with sched := .ended } else y) })
        (modTick (fun y => { y with finished := y.finished ++ [e] }) s)))
    ∧ (∀ c : Nat, Clocked s → c < 384 → (∀ a ∈ s.arr.arrays, a.2.run = none) → tabGet [] s.arr.writeSlots c = [] → ∃ t at_, exec (.forcedRefresh c) s = .next t ∧ at_ < max 1 (actPeriod s)
      ∧ tabGet 0 t.arr.slotsTaken c = tabGet 0 s.arr.slotsTaken c ||| slotMask at_ (min (at_ + 448) (actPeriod s))
      ∧ (∀ d, d ≠ c → tabGet 0 t.arr.slotsTaken d = tabGet 0 s.arr.slotsTaken d)
      ∧ FaultOnly { setRepro 4 (modChan c (fun ch => { ch with pendingRefresh := 7 }) s) with
          arr := { s.arr with slotsTaken := t.arr.slotsTaken, forcedOver := t.arr.forcedOver } } t
      ∧ (s.glb.faults.length < 1024 → Recorded t 0x46 sevWarn (c / 16)))
    ∧ (∀ k : Nat, k < 24 → stackAuto s k = true → (stackOfN s k).state ≠ .selfRefresh → ∃ t, exec (.autoRefresh k) s = .next t
      ∧ bitAt t.tick.repro 3 = true ∧ (∀ c, c / 16 = k → (chanOf t c).pendingRefresh = (chanOf s c).pendingRefresh - 8)
      ∧ (∀ c, c / 16 ≠ k → chanOf t c = chanOf s c) ∧ t = { s with tick := { s.tick with repro := t.tick.repro }, mem := { s.mem with channels := t.mem.channels } })

/-- Beacons and delays (R216-R218): SYNC and DELAY beacons leave on carriers that are up, a good SYNC is noted, a follower locked to its
sender corrects by it and loses lock beyond 64 ns, 16 good ones lock it, and a DELAY_RSP gives a sample, of which 16 are kept. The
timeouts of R220: a LOCKED module with no source left enters HOLDOVER, the module at chain address 0 becomes master, HOLDOVER ends in a
promotion or in ACQUIRE, and at twice HOLDOVER_US in ACQUIRE. On a TRUNK port a beacon leaves in its cells with a hop record of HOPS 1
(assumption 69). The form of the samples kept (assumption 31), and that HOLDOVER keeps the upstream (assumption 44), are the model's. -/
def Obligations.BeaconsAndSyncStates : Prop :=
  (
  ∀ (s : State) (k : Nat), s.pwr.powered = true → k ≤ chainOut →
    (let leaves (t : State) (f : Frame) : Prop := (t.tick.beaconsOut = s.tick.beaconsOut ++ [(k, f)]
        ∧ (64 ≤ k → t.lanes = s.lanes ∧ t.rte = s.rte)
        ∧ (k < 64 → portOf t k = { portOf s k with line := lineWith s k ((frameLine f (mkHop 1 (xoffBits s k) (queueCells s k 3 / 256) 0)).map .cell) }
          ∧ t.lanes = { s.lanes with ports := t.lanes.ports } ∧ t.rte = { s.rte with cmapPorts := t.rte.cmapPorts }
          ∧ (s.rte.cmapEn = false → t.rte = s.rte)) ∧ (∀ m, m ≠ k → portOf t m = portOf s m))
     (∀ phase : W32, carrierUp s k = true → ∃ t f, exec (.syncSend k phase) s = .next t ∧ f.payload = beaconPayload s 0 phase.toNat 0 ∧ leaves t f
        ∧ t = { s with tick := { s.tick with beaconsOut := t.tick.beaconsOut }, lanes := t.lanes, rte := t.rte })
      ∧ (∀ t1 : Nat, carrierUp s k = true → (carrierOf s k).reqOut = none → ∃ t f ph, exec (.delayReqSend k t1) s = .next t
        ∧ f.payload = beaconPayload s 1 ph 0 ∧ leaves t f ∧ carrierOf t k = { carrierOf s k with reqOut := some t1 }
        ∧ t = { s with
            tick := { s.tick with carriers := t.tick.carriers, beaconsOut := t.tick.beaconsOut }, lanes := t.lanes, rte := t.rte, freeCount := s.freeCount + 1 })
      ∧ (∀ (fr : Frame) (b : BitVec 256) (turn : W32), beaconIn s k 1 fr = some b → ∃ t f ph, exec (.delayReq k fr turn) s = .next t
        ∧ f.payload = beaconPayload s 2 ph turn.toNat ∧ leaves t f ∧ carrierOf t k = { carrierOf s k with heard := true }
        ∧ t = { s with
            tick := { s.tick with carriers := t.tick.carriers, beaconsOut := t.tick.beaconsOut }, lanes := t.lanes, rte := t.rte, mgt := (noteSignal k s).mgt
            freeCount := s.freeCount + 1 }))
    ∧ (∀ (fr : Frame) (b : BitVec 256) (t4 : Nat), beaconIn s k 2 fr = some b →
      (∀ t1, (carrierOf s k).reqOut = some t1 → exec (.delayRsp k fr t4) s = .next (modCarrier k (fun c => { c with
        heard := true, reqOut := none
        samples := (c.samples ++ [t4 - t1 - bcTurn b]).drop ((c.samples ++ [t4 - t1 - bcTurn b]).length - 16) }) (noteSignal k s)))
      ∧ ((carrierOf s k).reqOut = none → exec (.delayRsp k fr t4) s = .next (modCarrier k (fun c => { c with heard := true }) (noteSignal k s))))
    ∧ exec (.delayRspAbandon k) s = .next (modCarrier k (fun c => { c with reqOut := none }) s)
    ∧ (∀ (fr : Frame) (b : BitVec 256) (own : W32), beaconIn s k 0 fr = some b → ignoresBeacons s = false →
      let u := modCarrier k (fun c => { c with heard := true, sync := some b, src := wbSrc fr.wb }) (noteSignal k s)
      let e := errOf u k b own.toNat
      ∃ t, exec (.sync k fr own) s = .next t ∧ (carrierOf t k).sync = some b ∧ FaultOnly { s with tick := t.tick, mgt := (noteSignal k s).mgt } t
        ∧ (s.tick.state = .locked → s.tick.upstream.toNat = k → bestSource u = some k →
          t.tick.err = errField e ∧ (t.tick.state = if lim64ns < e ∨ e < -lim64ns then .acquire else .locked))
        ∧ (s.tick.state = .acquire → s.tick.upstream.toNat = k → bestSource u = some k → 15 ≤ s.tick.goodSyncs → 16 ≤ (carrierOf s k).samples.length →
          -lim2ns ≤ e → e ≤ lim2ns → t.tick.state = .locked ∧ t.tick.takeFrom = some (upstreamTick u k b own.toNat))))
  ∧ (
  ∀ s : State, s.pwr.powered = true →
    (∀ silent : List Nat, s.tick.state = .locked → (∀ k, k ≤ chainIn → qualifies s k = true → k ∈ silent) → ∃ t, exec (.upstreamTimeout silent) s = .next t
      ∧ t.tick.state = .holdover ∧ bitAt t.tick.repro 5 = true ∧ (s.glb.faults.length < 1023 → Recorded t 0x40 sevWarn s.tick.upstream.toNat)
      ∧ t.tick.upstream = s.tick.upstream ∧ FaultOnly { s with tick := t.tick } t)
    ∧ (s.tick.state = .acquire → s.mgt.adopted = true → s.mgt.addr = 0 → masterForce s = false → s.tick.forcedSeen = false →
      ∃ t, exec .acquireMasterTimeout s = .next t ∧ t.tick.state = .master ∧ t.tick.mclass = 1 ∧ t.tick.stratum = 0 ∧ t.tick.upstream = 0xFF
        ∧ t.tick.now = s.tick.now ∧ t = { s with tick := t.tick })
    ∧ (∀ silent : List Nat, s.tick.state = .holdover →
      (s.tick.upstream.toNat = chainIn → bitAt s.mgt.nv.syncCfg 30 = true → chainIn ∈ silent → ∃ t, exec (.holdoverExpiry silent) s = .next t
        ∧ t.tick.state = .master ∧ t.tick.mclass = 0 ∧ (s.glb.faults.length < 1024 → Recorded t 0x42 sevWarn 0) ∧ FaultOnly { s with tick := t.tick } t)
      ∧ (s.tick.upstream.toNat ≠ chainIn → s.tick.upstream.toNat ∈ silent → ∃ t, exec (.holdoverExpiry silent) s = .next t
        ∧ t.tick.state = .acquire ∧ (s.glb.faults.length < 1024 → Recorded t 0x41 sevError s.tick.upstream.toNat) ∧ FaultOnly { s with tick := t.tick } t))
    ∧ (s.tick.state = .holdover → ∃ t, exec .holdoverLimitExpiry s = .next t ∧ t.tick.state = .acquire ∧ t.tick.upstream = 0xFF
      ∧ (s.glb.faults.length < 1024 → Recorded t 0x41 sevError s.tick.upstream.toNat) ∧ FaultOnly { s with tick := t.tick } t))

/-! ## Loads, bindings, tables and scrubs -/

/-- LOAD and its end, and binding entries (R331-R333, R339): a LOAD either begins or leaves its STATUS and a record, an array that is fused
off or in a gated group is refused; a load's end makes the program resident or not; a binding entry that passes its checks waits for its
slot, and one over another is refused, with a record that is the model's (assumption 54). -/
def Obligations.LoadsBeginAndEndAndBindingsWait : Prop :=
  (∀ (s : State) (i : Nat) (x : Session) (a : BitVec 10), Serving s → HasSession s i x → (x.role = 1 ∨ x.role = 2) → s.arr.loadBusy = none →
    (∃ t, exec (.arrLoad i a) s = .next t ∧ t.arr.loadArray = a ∧ t.arr.arrays = s.arr.arrays
      ∧ (t.arr.loadStatus = 0 → ∃ p bs, t.arr.loadBusy = some (a.toNat, p, bs)) ∧ (t.arr.loadStatus ≠ 0 → t.arr.loadBusy = none))
    ∧ (∀ c : BitVec 4, (c = 1 ∧ arrayEnabled s a.toNat = false) ∨ (c = 2 ∧ arrayEnabled s a.toNat = true ∧ groupGated s (a.toNat / 72) = true) →
      ∃ t, exec (.arrLoad i a) s = .next t ∧ t.arr = { s.arr with loadArray := a, loadStatus := c } ∧ t.mem = s.mem
        ∧ (s.glb.faults.length < 1024 → Recorded t 0x60 sevWarn a.toNat)))
  ∧ (∀ (s : State) (a : Nat) (p : Prog) (bs : List Byte), Clocked s → s.arr.loadBusy = some (a, p, bs) → (arrOf s a).run = none → s.svc.loading = none →
    (∃ t, exec (.arrLoadDone true) s = .next t ∧ t.arr.loadBusy = none ∧ t.arr.loadStatus = 0 ∧ (arrOf t a).failed = false
      ∧ residentProg (arrOf t a) (hdProg p.hdr) = some p ∧ (∀ b, b ≠ a → arrOf t b = arrOf s b) ∧ t = { s with arr := t.arr })
    ∧ (∃ t, exec (.arrLoadDone false) s = .next t ∧ t.arr.loadBusy = none ∧ t.arr.loadStatus = 7
      ∧ residentProg (arrOf t a) (hdProg p.hdr) = none ∧ (∀ b, b ≠ a → arrOf t b = arrOf s b)
      ∧ (s.glb.faults.length < 1024 → Recorded t 0x60 sevWarn a) ∧ FaultOnly { s with arr := t.arr } t))
  ∧ (∀ (s : State) (i : Nat) (x : Session) (g e : BitVec 4) (r : Nat), Serving s → HasSession s i x → (x.role = 1 ∨ x.role = 2) → g.toNat < 12 →
    colFormatOk s s.arr.cbData stackedSize true = true → dField s.arr.cbData 0 1 = 0x10 → colRank s s.arr.cbData (myFnid s) (g.toNat + 1) = some r →
    let key := cbKey g.toNat e.toNat
    let y := slotOf s (colSlotOf (cColId s.arr.cbData))
    (tabGet 0 s.col.cb key = 0 → y.state = .free →
      let u := modArr (fun w => { w with cbGroup := g, cbEntry := e, cbStatus := 0 }) (modCol (fun c => { c with
        cb := tabSet 0 c.cb key s.arr.cbData, held := c.held ++ [{ binder := .cb g.toNat e.toNat, rank := r, raw := s.arr.cbData }] }) s)
      ∃ t, exec (.arrCbWrite i g e) s = .next t ∧ Answered u t i (writeReply i u .cbCtl true))
    ∧ (tabGet 0 s.col.cb key ≠ 0 → ∃ t, exec (.arrCbWrite i g e) s = .next t
      ∧ t.arr = { s.arr with cbGroup := g, cbEntry := e, cbStatus := 3 } ∧ t.col = s.col ∧ (s.glb.faults.length < 1024 → Recorded t 0x65 sevWarn g.toNat)))

/-- The tenant scrub (R386, R387, R389): with a condition unmet only STATUS changes; else GEN advances, memory, tallies and stores are clear,
and the end makes the stacks active again with a ledger entry. In a module that a thermal trip has parked the scrub gets no further than GEN
(R431). -/
def Obligations.TenantScrubClearsTheModule : Prop :=
  (∀ (s : State) (i : Nat) (x : Session), Serving s → HasSession s i x → (x.role = 1 ∨ x.role = 2) → s.mem.tenantBusy = false →
    (tenantCheck s ≠ 0 → let u := modMem (fun m => { m with tenantStatus := BitVec.ofNat 3 (tenantCheck s) }) s
      ∃ t, exec (.tenantScrub i) s = .next t ∧ Answered u t i (writeReply i u .tenantCtl false))
    ∧ (tenantCheck s = 0 → s.pwr.tripped = true →
      let u := modMem (fun m => { m with tenantStatus := 0, gen := m.gen + 1, tenantBusy := true }) s
      ∃ t, exec (.tenantScrub i) s = .next t ∧ Answered u t i (writeReply i u .tenantCtl true))
    ∧ (tenantCheck s = 0 → s.pwr.tripped = false → ∃ t, exec (.tenantScrub i) s = .next t ∧ t.mem.gen = s.mem.gen + 1 ∧ t.mem.cells = [] ∧ t.mem.poison = []
      ∧ t.mem.tenantBusy = true ∧ t.mem.tenantStatus = 0 ∧ (∀ k, k < 24 → (stackOfN t k).state = .scrub) ∧ (∀ c, (chanOf t c).comb = [])
      ∧ t.tly.tallies = [] ∧ (∀ a, (arrOf t a).store = [] ∧ (arrOf t a).dir = [])
      ∧ (s.pwr.node.toNat < 3 →
        t = { s with mem := t.mem, tly := { s.tly with tallies := [] }, col := t.col, svc := t.svc, arr := t.arr, mgt := t.mgt, freeCount := t.freeCount })
      ∧ t.mgt.nv = s.mgt.nv))
  ∧ (∀ s : State, Clocked s → s.mem.tenantBusy = true → ∃ t, exec .tenantScrubDone s = .next t ∧ t.mem.tenantBusy = false
    ∧ (∀ k, k < 24 → (stackOfN t k).state = .active) ∧ t.mem.cells = s.mem.cells ∧ t.mem.gen = s.mem.gen
    ∧ (s.mgt.queue.length < 256 → ∃ e, t.mgt.queue = s.mgt.queue ++ [e] ∧ e.type = 9) ∧ FaultOnly { s with mem := t.mem } t)

/-- MEM_EC_CTL (R401, R405-R407): a WRITE that passes stores the staged entry, one that does not leaves STATUS 1; ENCODE and REBUILD start,
or end at once with their STATUS and a record; ABORT ends the operation with ABORTED. A rank that has no strip to send waits for those it
needs; one whose first strip goes through the relay claims a slot of the receiver's mailbox with a CAS. That it tries slot 0 first is the
model's (assumption 73), and what ENCODE checks rests on assumption 38. -/
def Obligations.ShardOperationsStartAndAbort : Prop :=
  ∀ (s : State) (i : Nat) (x : Session) (k : BitVec 3) (r : BitVec 4), Serving s → HasSession s i x → (x.role = 1 ∨ x.role = 2) →
    (s.mem.ecOp = none →
      (let ok := (!ecValid s.mem.ecData || ecEntryOk s s.mem.ecData) && ecKeepsLive s (ecEntryOf s k.toNat) s.mem.ecData
        let u := modMem (fun m => { m with
          ecRank := 0, ecEntry := k, ecStatus := if ok then 0 else 1
          ecEntries := if ok then tabSet 0 m.ecEntries k.toNat m.ecData else m.ecEntries }) s
        ∃ t, exec (.ecWrite i k) s = .next t ∧ Answered u t i (writeReply i u .ecCtl true))
      ∧ (∀ (rebuild : Bool), let c : Instr := if rebuild then .rebuild i r k else .encode i k
        let rank : BitVec 4 := if rebuild then r else 0
        let e := ecEntryOf s k.toNat
        (ecStart s rebuild rank.toNat e = 0 →
          let o : EcOp := { rebuild := rebuild, entry := k.toNat, rank := rank.toNat, vepoch := vwEpoch (viewOf s (ecGid e)), num := s.mem.ecCount + 1 }
          let sendAt := nextPart (fun i => !(stripReceivers s o i).isEmpty) (ecStripes e) 0
          let written := nextPart (fun i => !(stripSenders s o i).isEmpty) (ecStripes e) 0
          let begun (f : EcOp → EcOp) : State := modMem (fun m => { m with
            ecRank := rank, ecEntry := k, ecStatus := 0, ecIn := [], ecCount := m.ecCount + 1, ecOp := some (f { o with sendAt := sendAt, written := written })
            stripesDone := BitVec.ofNat 25 (min sendAt written) }) s
          (sendAt = ecStripes e → ∃ t, exec c s = .next t ∧ Answered (begun id) t i (writeReply i (begun id) .ecCtl true))
          ∧ (∀ r0 rest slot, sendAt < ecStripes e → stripReceivers s o sendAt = r0 :: rest → ecOnPlane s e r0 = false → ecRelay e = true →
            (portOf s (ecRelayPort e)).quiet = false → DlvRoom s (ecRelayPort e) slot →
            ∃ t, exec c s = .next t ∧ t.mem = (begun fun o => { o with sendTo := r0 :: rest, sendOut := 1 }).mem
              ∧ (epOf t (ecRelayPort e)).sent = (epOf s (ecRelayPort e)).sent ++ [dlvIn s (ecRelayPort e) slot
                { use := .host (.relayClaim (s.mem.ecCount + 1) 0), opcode := 0x43, addr := BitVec.ofNat 52 (mailbox e r0), len := 8, subop := 0x87
                  dtype := 2, payload := leBytes 8 (slotWordOf 1 (ecMyRank e) sendAt) ++ leBytes 8 0, ring := 64 }]
              ∧ (∀ m, m ≠ ecRelayPort e → epOf t m = epOf s m)
              ∧ t = { s with mem := t.mem, eps := t.eps, pwr := (unrest (ecRelayPort e) s).pwr, mgt := t.mgt, freeCount := t.freeCount } ∧ t.mgt.nv = s.mgt.nv))
        ∧ (ecStart s rebuild rank.toNat e ≠ 0 → ∃ t, exec c s = .next t
          ∧ t.mem = { s.mem with ecRank := rank, ecEntry := k, ecStatus := BitVec.ofNat 3 (ecStart s rebuild rank.toNat e) }
          ∧ (s.glb.faults.length < 1024 → Recorded t 0x94 sevError k.toNat)
          ∧ t = { s with mem := t.mem, glb := t.glb, tly := t.tly, mgt := t.mgt, freeCount := t.freeCount } ∧ t.mgt.nv = s.mgt.nv)))
    ∧ (∀ o, s.mem.ecOp = some o → ∃ t, exec (.ecAbort i) s = .next t ∧ t.mem = { s.mem with ecOp := none, ecIn := [], ecStatus := 5 }
      ∧ (s.glb.faults.length < 1024 → Recorded t 0x94 sevError o.entry)
      ∧ t = { s with mem := t.mem, glb := t.glb, tly := t.tly, mgt := t.mgt, freeCount := t.freeCount } ∧ t.mgt.nv = s.mgt.nv)

/-- SVC_TAB_CTL (R345, R346, R361): READ, DRAIN and its end, the removal of a service that is not live, a WRITE that fails, and one that starts
a tensor pool on programs that are resident (IMAGE 0, and the index of a drained pool by its STATE_BASE, are the model's reading, assumption 55). -/
def Obligations.ServiceTableOperations : Prop :=
  (∀ (s : State) (i : Nat) (x : Session) (k : BitVec 4), Serving s → HasSession s i x → (x.role = 1 ∨ x.role = 2) → s.svc.busy = false →
    let e := s.svc.data
    (let u := modSvc (fun w => { w with index := k, data := svcEntry s k.toNat, status := 0 }) s
      ∃ t, exec (.svcTabRead i k) s = .next t ∧ Answered u t i (writeReply i u .svcTabCtl true))
    ∧ ((svcOf s k.toNat).state = .active →
      let u := modSvcN k.toNat (fun v => { v with state := .draining }) (modSvc (fun w => { w with index := k, busy := true, status := 0 }) s)
      ∃ t, exec (.svcTabDrain i k) s = .next t ∧ Answered u t i (writeReply i u .svcTabCtl true))
    ∧ (eKind e = 0 → svcLive s k.toNat = false →
      let u := modSvcN k.toNat (fun v => { calls := v.calls, errs := v.errs, evict := v.evict }) (modSvc (fun w => { w with index := k, status := 0 }) s)
      ∃ t, exec (.svcTabWrite i k) s = .next t ∧ Answered u t i (writeReply i u .svcTabCtl true))
    ∧ (∀ c : Nat, (c = 4 ∧ eKind e = 0 ∧ svcLive s k.toNat = true) ∨ (c = 1 ∧ eKind e ≠ 0 ∧ entryFormatOk e = false)
        ∨ (c = 2 ∧ eKind e ≠ 0 ∧ entryFormatOk e = true ∧ (entryRangeOk e = false ∨ stackedSize < eImage e + 64 ∧ eImage e ≠ 0))
        ∨ (c = 3 ∧ eKind e ≠ 0 ∧ entryFormatOk e = true ∧ entryRangeOk e = true ∧ eImage e = 0 ∧ entryOverlaps s k.toNat e = true) →
      ∃ t, exec (.svcTabWrite i k) s = .next t ∧ t.svc = { s.svc with index := k, status := BitVec.ofNat 3 c }
        ∧ (s.glb.faults.length < 1024 → Recorded t 0x70 sevWarn k.toNat)
        ∧ t = { s with svc := t.svc, glb := t.glb, tly := t.tly, mgt := t.mgt, freeCount := t.freeCount } ∧ t.mgt.nv = s.mgt.nv)
    ∧ (eKind e = 1 → eImage e = 0 → (entryCheck k.toNat e s).1 = 0 →
      ∃ t, exec (.svcTabWrite i k) s = .next t ∧ (svcOf t k.toNat).state = .active ∧ (svcOf t k.toNat).entry = e
        ∧ (eKeep e = false → (svcOf t k.toNat).slots = []) ∧ (∀ m, m ≠ k.toNat → svcOf t m = svcOf s m)
        ∧ t = { s with svc := t.svc, mgt := t.mgt, freeCount := t.freeCount } ∧ t.mgt.nv = s.mgt.nv))
  ∧ (∀ (s : State) (k : Nat), Clocked s → k < 16 → (svcOf s k).state = .draining → svcQuiet s k = true →
    ∃ t, exec (.svcDrainDone k) s = .next t ∧ (svcOf t k).state = .disabled ∧ (svcOf t k).entry = (svcOf s k).entry ∧ t.svc.busy = false
      ∧ (∀ m, m ≠ k → svcOf t m = svcOf s m)
      ∧ (eKind (svcOf s k).entry = 1 → tabGet none t.svc.saved (eBase (svcOf s k).entry) = some
        ⟨BitVec.ofNat 8 (eBlkLog (svcOf s k).entry), BitVec.ofNat 8 (eRdtype (svcOf s k).entry), BitVec.ofNat 32 (eBlocks (svcOf s k).entry), (svcOf t k).slots⟩)
      ∧ t = { s with svc := t.svc })

/-! ## The attach link (R64-R86) -/

/-- Direct requests (R49, R75, R79, R80, R84, R85, R199): a malformed one is answered FORMAT and one that fails its toll with the toll's code,
each with a record and no frame, and the refusal waits behind an unanswered request to its line; one that passes takes a context and its
frame enters at the block's port, or it waits its turn, and a flagged one whose conditions are not met is held. That a malformed request, and one
that no window resolves, is answered at once is the model's choice (assumption 50). -/
def Obligations.DirectRequestsAreRefusedOrSent : Prop :=
  ∀ (s : State) (n : Nat) (m : AttachMsg) (c : Instr), EpAwake s n → n < 64 → (epOf s n).attach = .ready → msgCrcOk m = true →
    c ∈ [Instr.load n m, .storeMsg n m, .atomic n m, .reduce n m, .svcCall n m] →
    let r : DirectReq := { msg := m, addr := stampAddr (winOf s n (msgWindow m)) (msgOffset m), win := msgWindow m, ord := (epOf s n).reqCount, held := false }
    let rsp (code : Byte) : AttachMsg := mkMsg (mkHdr 0xC1 1 0 [(2, (msgTag m).toNat), (5, code.toNat)]) []
    (reqFormatOk m = false → (epOf s n).offRspRx = false → (epOf s n).rspWait = [] → ∃ t, exec c s = .next t ∧ EpOnly s t n
      ∧ epOf t n = { (epOf s n).faultsOf (epOf t n) with sent := (epOf s n).sent ++ [rsp 0x10] }
      ∧ ((epOf s n).faults.length < 64 → EpRecorded t n 0x02 0xFFFF))
    ∧ (∀ code : Byte, reqFormatOk m = true → tollDirect s n m = code → code ≠ 0 →
      (code ∈ [(0x8 : Byte), 0x1, 0x2] ∨ lineUnanswered (epOf s n) r = false) → (epOf s n).offRspRx = false → (epOf s n).rspWait = [] →
      ∃ t, exec c s = .next t ∧ EpOnly s t n
        ∧ epOf t n = { (epOf s n).faultsOf (epOf t n) with
            sent := (epOf s n).sent ++ [rsp code], tollCode := bitsOf code 0 4, tollWin := msgWindow m, tollFail := satAdd (epOf s n).tollFail 1 }
        ∧ ((epOf s n).faults.length < 64 → EpRecorded t n 0x01 (msgWindow m).toNat))
    ∧ (∀ code : Byte, reqFormatOk m = true → tollDirect s n m = code → code ≠ 0 → ¬ code ∈ [(0x8 : Byte), 0x1, 0x2] → lineUnanswered (epOf s n) r = true →
      ∃ t, exec c s = .next t ∧ EpOnly s t n
        ∧ epOf t n = { (epOf s n).faultsOf (epOf t n) with
            reqCount := r.ord + 1, refusals := (epOf s n).refusals ++ [(r, code)]
            tollCode := bitsOf code 0 4, tollWin := msgWindow m, tollFail := satAdd (epOf s n).tollFail 1 }
        ∧ ((epOf s n).faults.length < 64 → EpRecorded t n 0x01 (msgWindow m).toNat))
    ∧ (reqFormatOk m = true → tollDirect s n m = 0 → (reqFlagged m = false ∨ flagMayGo s n r.ord = true) →
      (∀ i, (epOf s n).aReq = [] → ctxHead (epOf s n).rel = some i → canSend s (.ep n) (directFrame s n r) = true → ∃ t, exec c s = .next t
        ∧ Issues s t (.ep n) i (directFrame s n r) ∧ (epOf t n).aReq = [] ∧ (epOf t n).reqCount = (epOf s n).reqCount + 1
        ∧ (∀ k, k ≠ n → epOf t k = epOf s k) ∧ t = { s with eps := t.eps, swc := { s.swc with inbound := t.swc.inbound } })
      ∧ (canSend s (.ep n) (directFrame s n r) = false → ∃ t, exec c s = .next t ∧ EpOnly s t n
        ∧ (epOf t n).aReq = (epOf s n).aReq ++ [r] ∧ (epOf t n).rel = (epOf s n).rel ∧ (epOf t n).reqCount = (epOf s n).reqCount + 1))
    ∧ (reqFormatOk m = true → tollDirect s n m = 0 → reqFlagged m = true → flagMayGo s n r.ord = false → ∃ t, exec c s = .next t ∧ EpOnly s t n
      ∧ (epOf t n).aReq = (epOf s n).aReq ++ [{ r with held := true }] ∧ (epOf t n).rel = (epOf s n).rel)

/-- RSP, FLOW of the controller and DLV_TIMEOUT (R67, R71, R81, R82): an answer to an outstanding delivery frees its slot and becomes the
response to the remote request, one whose response the port's ingress holds off waits in the A-RSP buffer (assumption 50), one that matches
none is counted, and a delivery without an answer ends with REMOTE and a record. -/
def Obligations.DeliveriesEndAndFlowIsNoted : Prop :=
  ∀ (s : State) (n : Nat) (m : AttachMsg), Clocked s → n < 64 →
    (EpAwake s n → (epOf s n).attach = .ready → msgCrcOk m = true → (epOf s n).aRsp = [] →
      (msgOpcode m = 0x81 → msgChan m = 1 → bitsOf m.hdr 12 2 = (0 : BitVec 2) → bitsOf m.hdr 48 208 = (0 : BitVec 208) → m.payload.length = 32 * msgPlen m →
        let tag := (msgTag m).toNat
        let x := tabGet {} (epOf s n).dlvSlots (tag % 4096)
        ((x.busy = none ∨ tag / 2 ^ 18 ≠ x.gen.toNat ∨ tag / 2 ^ 12 % 64 ≠ n) →
          exec (.rsp n m) s = .next (modEp n (fun e => { e with lateRsp := satAdd e.lateRsp 1 }) s))
        ∧ (∀ (d : Delivery) (wb : Header) (dup : Bool), x.busy = some d → d.use = .remote wb dup → tag / 2 ^ 18 = x.gen.toNat → tag / 2 ^ 12 % 64 = n →
          msgStatus m = 0 → msgPlen m = rspPlen d 0 → (epOf s n).dlvQueue = [] → wbVary wb = false → ingressOff s n 2 = false →
          let fetch := decide (wbType wb = 0x01) || (decide (wbType wb = 0x03) && fetches (wbSubop wb))
          let data := slice m.payload 0 (wbLength wb)
          let fl := rflagsOf 0 false dup (wbKind wb)
          ∃ t, exec (.rsp n m) s = .next t
            ∧ t = answer (.request (.ep n) wb dup) 0 (if fetch then some data else none) (if fetch then slice m.payload 0 8 else []) (freeDlvSlot n (tag % 4096) s)
            ∧ tabGet {} (epOf t n).dlvSlots (tag % 4096) = ⟨x.gen + 1, none⟩
            ∧ tabGet [] t.swc.inbound n = tabGet [] s.swc.inbound n ++ [(if fetch then mkFrame (respWb wb 0x11 0 fl data.length) (pad32 data)
                else mkFrame (respWb wb 0x10 0 fl 0) [], 0)]
            ∧ (∀ k, k ≠ n → epOf t k = epOf s k) ∧ t = { s with eps := t.eps, swc := { s.swc with inbound := t.swc.inbound } })
        ∧ (∀ (d : Delivery) (wb : Header) (dup : Bool), x.busy = some d → d.use = .remote wb dup → tag / 2 ^ 18 = x.gen.toNat → tag / 2 ^ 12 % 64 = n →
          ingressOff s n 2 = true → ∃ t, exec (.rsp n m) s = .next t ∧ EpOnly s t n ∧ (epOf t n).aRsp = [m] ∧ (epOf t n).dlvSlots = (epOf s n).dlvSlots)))
    ∧ (EpAwake s n → ((epOf s n).attach = .ready ∨ (epOf s n).attach = .steering) → msgCrcOk m = true →
      ctlOk m 0x28 [(2, 1)] = true → hdrField m.hdr 2 1 < 4 → (epOf s n).rspWait = [] → (epOf s n).dlvQueue = [] →
        exec (.flow n m) s = .next (modEp n (fun e => { e with
          offReqRx := decide (hdrField m.hdr 2 1 % 2 = 1), offRspRx := decide (2 ≤ hdrField m.hdr 2 1) }) s))
    ∧ (∀ (slot : Nat) (d : Delivery) (wb : Header) (dup : Bool), slot < 4096 → (tabGet {} (epOf s n).dlvSlots slot).busy = some d → d.use = .remote wb dup →
      (epOf s n).dlvQueue = [] → answerWaits (epOf s n) slot = false → ∃ t, exec (.dlvTimeout n slot) s = .next t
        ∧ tabGet {} (epOf t n).dlvSlots slot = ⟨(tabGet {} (epOf s n).dlvSlots slot).gen + 1, none⟩
        ∧ tabGet [] t.swc.inbound n = tabGet [] s.swc.inbound n ++ [(mkFrame (respWb wb 0x10 0x14 (rflagsOf 0 false dup (wbKind wb)) 0) [], 0)]
        ∧ ((epOf s n).faults.length < 64 → EpRecorded t n 0x05 slot)
        ∧ (∀ k, k ≠ n → epOf t k = epOf s k) ∧ t = { s with eps := t.eps, swc := { s.swc with inbound := t.swc.inbound } })

/-- The attach handshake (R44, R76-R78, R418): a message wakes its port from P1 and waits outside while the port is quiet (the waiting is the
model's form, assumption 74); a good HELLO leads to STEERING, which sends READY, the plane map and every valid window once SRC_FNID
is set; the acknowledgement of the last update leads to READY, and its absence to WAIT_HELLO with a record; an INVALIDATE whose update is
not acknowledged ends with STEER_TIMEOUT, and so does the wait for a plane map's (of KEY 0xFFFF: the model's reading, assumption 50). A HELLO
taken in STEERING, a DLV_MAX kept until the next HELLO, and an attach incarnation that wraps are the model's (assumptions 50 and 67). -/
def Obligations.AttachHandshake : Prop :=
  ∀ (s : State) (n : Nat) (m : AttachMsg), Clocked s → n < 64 →
    (∀ c ∈ [Instr.load n m, .storeMsg n m, .atomic n m, .reduce n m, .svcCall n m, .rsp n m, .hello n m, .steerAck n m, .flow n m,
        .doorbellSqTail n m, .doorbellCqHead n m, .ringCfgEnable n m, .ringCfgDisable n m, .ringCfgReset n m],
      ((portOf s n).quiet = true → exec c s = .next s) ∧ ((portOf s n).quiet = false → exec c s = exec c (unrest n s)))
    ∧ (EpAwake s n → msgCrcOk m = true →
      (ctlOk m 0x20 [(2, 1), (4, 2)] = true →
        (hdrField m.hdr 2 1 = 1 → 64 ≤ hdrField m.hdr 4 2 → hdrField m.hdr 4 2 ≤ 4096 →
          let up (e : Ep) : Ep := { settleSteer e with attach := .steering, steerSeq := 0, dlvMax := BitVec.ofNat 13 (hdrField m.hdr 4 2) }
          (((epOf s n).attach = .waitHello ∨ (epOf s n).attach = .steering) → exec (.hello n m) s = .next (modEp n up s))
          ∧ ((epOf s n).attach = .ready → exec (.hello n m) s = .next (keepFixed s (modEp n up (attachReset n .waitHello s)))))
        ∧ ((hdrField m.hdr 2 1 ≠ 1 ∨ hdrField m.hdr 4 2 < 64 ∨ 4096 < hdrField m.hdr 4 2) → ((epOf s n).attach = .waitHello ∨ (epOf s n).attach = .steering) → ∃ t, exec (.hello n m) s = .next t ∧ EpOnly s t n
          ∧ (epOf t n).attach = .waitHello ∧ (epOf t n).sent = (epOf s n).sent ∧ ((epOf s n).faults.length < 64 → EpRecorded t n 0x02 0xFFFF)))
      ∧ (ctlOk m 0x27 [(2, 2)] = true →
        let q := BitVec.ofNat 16 (hdrField m.hdr 2 2)
        let acked (e : Ep) : Ep := { e with
          steerPend := e.steerPend.filter fun x => match x.2 with | some u => !seqCovers q u | none => false
          winWait := if e.winWait.any (seqCovers q ·) then none else e.winWait
          mapWait := e.mapWait.filter fun u => !seqCovers q u
          winBusy := e.winBusy && !e.winWait.any (seqCovers q ·) }
        ((epOf s n).attach = .steering → (epOf s n).readySent = true → q = lastSteer (epOf s n) → exec (.steerAck n m) s
          = .next (keepFixed s (pumpDlv n (announce n true (modEp n (fun e => { acked e with attach := .ready, incarn := e.incarn + 1 }) s)))))
        ∧ ((epOf s n).attach = .ready → (q - lastSteer (epOf s n) = 0 ∨ 2 ^ 15 ≤ (q - lastSteer (epOf s n)).toNat) →
          exec (.steerAck n m) s = .next (modEp n acked s))))
    ∧ ((epOf s n).attach = .steering → (epOf s n).readySent = false → (epOf s n).srcFnid ≠ 0xFFF → (portOf s n).quiet = false → ∃ t, exec (.steeringPass n) s = .next t ∧ EpOnly s t n
      ∧ (let wins := (epOf s n).win.filter fun w => winValid w.2
        let q := (epOf s n).steerSeq
        epOf t n = { epOf s n with
          readySent := true, steerSeq := q + 1 + BitVec.ofNat 16 wins.length
          sent := (epOf s n).sent ++ [readyMsg s n, steerMapMsg s.rte.planeMap q.toNat]
            ++ wins.mapIdx fun k w => steerWinMsg (BitVec.ofNat 10 w.1) w.2 (q + 1 + BitVec.ofNat 16 k).toNat }))
    ∧ ((epOf s n).attach = .steering → (epOf s n).readySent = true → ∃ t, exec (.steeringTimeout n) s = .next t ∧ EpOnly s t n
      ∧ (epOf t n).attach = .waitHello ∧ (epOf t n).sent = (epOf s n).sent ∧ (epOf t n).winWait = none
      ∧ ((epOf s n).faults.length < 64 → EpRecorded t n 0x04 0xFFFF))
    ∧ (∀ u, (epOf s n).winWait = some u → ∃ t, exec (.steerTimeout n) s = .next t ∧ EpOnly s t n
      ∧ tabGet false (epOf t n).steerTimeout (epOf s n).winIndex.toNat = true ∧ tabGet none (epOf t n).steerPend (epOf s n).winIndex.toNat = some u
      ∧ (epOf t n).winWait = none ∧ (epOf t n).winBusy = false ∧ (epOf t n).win = (epOf s n).win
      ∧ ((epOf s n).faults.length < 64 → EpRecorded t n 0x04 (epOf s n).winIndex.toNat))
    ∧ (∀ u, (epOf s n).winWait = none → (epOf s n).mapWait = some u → ∃ t, exec (.steerTimeout n) s = .next t ∧ EpOnly s t n
      ∧ epOf t n = { (epOf s n).faultsOf (epOf t n) with mapWait := none } ∧ ((epOf s n).faults.length < 64 → EpRecorded t n 0x04 0xFFFF))

/-! ## Manifest rings (R87-R102, R197-R204) -/

/-- Doorbells and RING_CFG (R88, R89, R91): a doorbell in range moves its index, one out of range halts the ring with a record; ENABLE makes
a DISABLED ring ACTIVE at index 0, and DISABLE and RESET take effect, with RING_ACK, once no fetched descriptor of the ring is left, and
behind a change of the ring that still waits (assumption 51). -/
def Obligations.DoorbellsAndRingConfiguration : Prop :=
  ∀ (s : State) (n r : Nat) (m : AttachMsg), EpAwake s n → n < 64 → r < 64 → (epOf s n).attach = .ready →
    let g := ringOf s n r
    let ack (result state : Nat) : AttachMsg := ctlMsg 0x24 [(2, r), (3, result), (4, state)]
    let gone : Ring := { logSize := g.logSize, planeSet := g.planeSet, sqBase := g.sqBase, cqBase := g.cqBase
                         head := g.head, tail := g.tail, cqHead := g.cqHead }
    (msgCrcOk m = true → hdrField m.hdr 2 1 = r →
      (ctlOk m 0x22 [(2, 2), (4, 4)] = true → g.state = .active →
        let v := BitVec.ofNat 32 (hdrField m.hdr 4 4)
        (hdrField m.hdr 3 1 = 0 → v ≠ g.tail →
          ((v - g.head).toNat ≤ 2 ^ g.logSize.toNat → (v - g.tail).toNat < 2 ^ 31 →
            exec (.doorbellSqTail n m) s = .next (modRing n r (fun g => { g with tail := v }) s))
          ∧ ((2 ^ g.logSize.toNat < (v - g.head).toNat ∨ 2 ^ 31 ≤ (v - g.tail).toNat) → ∃ t, exec (.doorbellSqTail n m) s = .next t ∧ EpOnly s t n
            ∧ (ringOf t n r).state = .halted ∧ (ringOf t n r).cause = 1 ∧ (ringOf t n r).tail = g.tail
            ∧ ((epOf s n).faults.length < 64 → EpRecorded t n 0x03 r)))
        ∧ (hdrField m.hdr 3 1 = 1 → v ≠ g.cqHead →
          ((v - g.cqHead).toNat ≤ (g.head - g.cqHead).toNat →
            exec (.doorbellCqHead n m) s = .next (modRing n r (fun g => { g with cqHead := v, cqStall := false }) s))
          ∧ ((g.head - g.cqHead).toNat < (v - g.cqHead).toNat → ∃ t, exec (.doorbellCqHead n m) s = .next t ∧ EpOnly s t n
            ∧ (ringOf t n r).state = .halted ∧ (ringOf t n r).cause = 2 ∧ (ringOf t n r).cqHead = g.cqHead
            ∧ ((epOf s n).faults.length < 64 → EpRecorded t n 0x03 r))))
      ∧ (ctlOk m 0x23 [(2, 3), (6, 2), (8, 16)] = true → ∀ c ∈ [Instr.ringCfgEnable n m, .ringCfgDisable n m, .ringCfgReset n m],
        (ringCfgOk s m.hdr = false → ∃ t, exec c s = .next t ∧ EpOnly s t n
          ∧ epOf t n = { epOf s n with sent := (epOf s n).sent ++ [ack 1 (ringCode g.state)] })
        ∧ (ringCfgOk s m.hdr = true →
          (hdrField m.hdr 3 1 = 1 → g.state ≠ .disabled → ∃ t, exec c s = .next t ∧ EpOnly s t n
            ∧ epOf t n = { epOf s n with sent := (epOf s n).sent ++ [ack 2 (ringCode g.state)] })
          ∧ (hdrField m.hdr 3 1 = 1 → g.state = .disabled → ∃ t, exec c s = .next t ∧ EpOnly s t n ∧ ringOf t n r = freshRing m.hdr
            ∧ (∀ k, k ≠ r → ringOf t n k = ringOf s n k) ∧ (epOf t n).sent = (epOf s n).sent ++ [ack 0 1])
          ∧ (hdrField m.hdr 3 1 ≠ 1 → g.closing = none → g.closeNext = [] → ringQuiet s n r = true → ∃ t, exec c s = .next t ∧ EpOnly s t n
            ∧ ringOf t n r = (if hdrField m.hdr 3 1 = 2 then freshRing m.hdr else gone) ∧ (∀ k, k ≠ r → ringOf t n k = ringOf s n k)
            ∧ (epOf t n).sent = (epOf s n).sent ++ [ack 0 (if hdrField m.hdr 3 1 = 2 then 1 else 0)])
          ∧ (hdrField m.hdr 3 1 ≠ 1 → g.closing = none → ringQuiet s n r = false → exec c s
            = .next (modRing n r (fun g => { g with closing := some (decide (hdrField m.hdr 3 1 = 2)), closeMsg := m.hdr }) s))
          ∧ (hdrField m.hdr 3 1 ≠ 1 → g.closing ≠ none → exec c s
            = .next (modRing n r (fun g => { g with closeNext := g.closeNext ++ [(decide (hdrField m.hdr 3 1 = 2), m.hdr)] }) s)))))
    ∧ (∀ b, g.closing = some b → g.closeNext = [] → ringQuiet s n r = true → ∃ t, exec (.ringQuiesced n r) s = .next t ∧ EpOnly s t n
      ∧ ringOf t n r = (if b then freshRing g.closeMsg else gone) ∧ (∀ k, k ≠ r → ringOf t n k = ringOf s n k)
      ∧ (epOf t n).sent = (epOf s n).sent ++ [ack 0 (if b then 1 else 0)])

/-- Fetches and contexts (R84, R85, R90, R100): a fetch reads the descriptor at HEAD and a full completion queue stalls the ring; a granted
context goes to the waiting frame whose turn it is. -/
def Obligations.FetchesAndContextsAreGranted : Prop :=
  ∀ (s : State) (n r : Nat), Clocked s → n < 64 → r < 64 →
    let g := ringOf s n r
    (g.state = .active → g.fetching = false → g.closing = none → fetchBlocked s n r = false → g.tail ≠ g.head →
      ((epOf s n).descs.filter fun x => x.2.isSome).length + ((epOf s n).rings.filter fun x => x.2.fetching).length < 256 →
      (2 ^ g.logSize.toNat ≤ (g.head - g.cqHead).toNat → exec (.descriptorFetch n r) s = .next (modRing n r (fun g => { g with cqStall := true }) s))
      ∧ ((g.head - g.cqHead).toNat < 2 ^ g.logSize.toNat → ∃ t, exec (.descriptorFetch n r) s = .next t ∧ EpOnly s t n
        ∧ ringOf t n r = { g with fetching := true } ∧ (∀ k, k ≠ r → ringOf t n k = ringOf s n k)
        ∧ (∀ k, DlvRoom s n k → (epOf t n).sent = (epOf s n).sent ++ [dlvIn s n k
          { use := .host (.fetch r g.head), opcode := 0x41, addr := BitVec.ofNat 52 (g.sqBase.toNat + ringIdx g g.head * 64), len := 64 }])))
    ∧ (∀ q i, (epOf s n).descs = [] → (epOf s n).rings = [] → (epOf s n).turn = 0 → (epOf s n).aRsp = [] → nextDirect s n = some q → ctxHead (epOf s n).rel = some i →
      (∀ f ∈ (epOf s n).rel.waiting, frameAlive s f = true) → ∃ t, exec (.contextGrant (.ep n)) s = .next t
        ∧ Issues s t (.ep n) i (directFrame s n q) ∧ (epOf t n).aReq = (epOf s n).aReq.filter (fun x => decide (x.ord ≠ q.ord)) ∧ (epOf t n).turn = 1
        ∧ (∀ k, k ≠ n → epOf t k = epOf s k) ∧ Woken { s with eps := t.eps, swc := { s.swc with inbound := t.swc.inbound } } t n)
    ∧ (∀ f i, (∀ x ∈ s.rte.rel.waiting, frameAlive s x = true) → waitingNext s .rte = some f → ctxHead s.rte.rel = some i →
      ∃ t, exec (.contextGrant .rte) s = .next t ∧ Issues s t .rte i f ∧ t.rte.rel.waiting = s.rte.rel.waiting.erase f
        ∧ t = { s with rte := { s.rte with rel := t.rte.rel }, swc := { s.swc with inbound := t.swc.inbound } })

/-- The cairn and its waits (R102, R199, R202-R204): a held flagged request passes the toll again once its conditions hold, and one that
fails it is refused with its code; a point whose conditions hold is reported in the cairn line and polled, with its descriptor still live or
completed; where the ring's PLANE_SET names this plane alone it is confirmed at once, and a flagged line whose report would carry ERR is
withheld; a KERNEL_START that waits too long halts its ring, and a flagged line that does is withheld; both complete with TIMEOUT. -/
def Obligations.CairnPointsAreReportedAndTimeOut : Prop :=
  ∀ (s : State) (n r : Nat), Clocked s → n < 64 → r < 64 →
    let g := ringOf s n r
    let idle := ∀ e ∈ (epOf s n).rings, e.2.closing = none
    (∀ q i, ((epOf s n).aReq.find? fun x => x.held && flagMayGo s n x.ord) = some q → tollDirect s n q.msg = 0 → ctxHead (epOf s n).rel = some i →
      let q2 : DirectReq := { q with held := false, addr := stampAddr (winOf s n (msgWindow q.msg)) (msgOffset q.msg) }
      (canSend s (.ep n) (directFrame s n q2) = true → ∃ t, exec (.flagRelease n) s = .next t ∧ Issues s t (.ep n) i (directFrame s n q2)
        ∧ (epOf t n).aReq.all (fun x => decide (x.ord ≠ q.ord)) = true ∧ (∀ k, k ≠ n → epOf t k = epOf s k)
        ∧ Woken { s with eps := t.eps, swc := { s.swc with inbound := t.swc.inbound } } t n))
    ∧ (∀ q (code : Byte), (epOf s n).aReq = [q] → q.held = true → flagMayGo s n q.ord = true → tollDirect s n q.msg = code → code ≠ 0 →
      (epOf s n).attach = .ready → (portOf s n).quiet = false → (epOf s n).offRspRx = false → (epOf s n).rspWait = [] → (epOf s n).refusals = [] →
      (epOf s n).aRsp = [] → (epOf s n).offReqTx = false → (epOf s n).offRspTx = false → 0x10000 ≤ s.attachBuf → (∀ c ∈ (epOf s n).rel.ctxs, c.2.st ≠ .held) →
      ∃ t, exec (.flagRelease n) s = .next t ∧ EpOnly s t n
        ∧ epOf t n = { (epOf s n).faultsOf (epOf t n) with
            aReq := [], sent := (epOf s n).sent ++ [mkMsg (mkHdr 0xC1 1 0 [(2, (msgTag q.msg).toNat), (5, code.toNat)]) []]
            tollCode := bitsOf code 0 4, tollWin := msgWindow q.msg, tollFail := satAdd (epOf s n).tollFail 1 }
        ∧ ((epOf s n).faults.length < 64 → EpRecorded t n 0x01 (msgWindow q.msg).toNat))
    ∧ (∀ p, (g.points.find? fun p => decide (p.num = g.reportedTo + 1)) = some p → mayReport s n r p = true → soloRing s g = false →
      (epOf s n).descs = [] → idle → ∃ t, exec (.cairnReport n r) s = .next t ∧ EpOnly s t n ∧ (ringOf t n r).reportedTo = p.num
        ∧ (∀ k, k ≠ r → ringOf t n k = ringOf s n k)
        ∧ (∀ k, DlvRoom s n k → (epOf t n).sent = (epOf s n).sent ++ [dlvIn s n k
          { use := .host (.cairnWrite r p.num), opcode := 0x42, addr := BitVec.ofNat 52 (cairnAddr g + 4 * planeIdx s), len := 4
            payload := leBytes 4 (p.num % 2 ^ 31 + ofB (pointErr g p) * 2 ^ 31) }]))
    ∧ (∀ (p : CairnPoint) (i : Nat) (d : Desc), (g.points.find? fun p => decide (p.num = g.reportedTo + 1)) = some p → mayReport s n r p = true →
      (epOf s n).descs = [(i, some d)] → d.ring = r → p.slot = some i → pointOf g i = some p → p.confirmed = false → mayEnd d = true → idle →
      ((p.kernelStart = true ∧ isKernelStart d.raw = true) ∨ (p.kernelStart = false ∧ p.ownsFlag = true ∧ d.flagSent = false ∧ dMoves d.raw = true)) →
      (soloRing s g = false → ∃ t, exec (.cairnReport n r) s = .next t ∧ EpOnly s t n ∧ (ringOf t n r).reportedTo = p.num
        ∧ (epOf t n).descs = [(i, some d)] ∧ (∀ k, k ≠ r → ringOf t n k = ringOf s n k)
        ∧ (∀ k, DlvRoom s n k → (epOf t n).sent = (epOf s n).sent ++ [dlvIn s n k
          { use := .host (.cairnWrite r p.num), opcode := 0x42, addr := BitVec.ofNat 52 (cairnAddr g + 4 * planeIdx s), len := 4
            payload := leBytes 4 (p.num % 2 ^ 31 + ofB (pointErr g p) * 2 ^ 31) }]))
      ∧ (soloRing s g = true → (p.kernelStart = true ∨ pointErr g p = true) → ∃ t, exec (.cairnReport n r) s = .next t ∧ EpOnly s t n
        ∧ (ringOf t n r).reportedTo = p.num ∧ descOf t n i = none ∧ (∀ k, k ≠ r → ringOf t n k = ringOf s n k)
        ∧ (epOf t n).rel = { (epOf s n).rel with flagWithheld := if p.kernelStart then (epOf s n).rel.flagWithheld else satAdd (epOf s n).rel.flagWithheld 1 }
        ∧ (∀ k, DlvRoom s n k → (epOf t n).sent = (epOf s n).sent ++ [dlvIn s n k
          { use := .host (.cpl r d.index (dNotify d.raw)), opcode := 0x48, addr := BitVec.ofNat 52 (g.cqBase.toNat + ringIdx g d.index * 16), len := 16
            payload := cplPayload s (if p.kernelStart then d.status else 0x12) d.bytes d.index }])))
    ∧ (∀ p, (g.points.find? fun p => pointWaits p && p.answered && !p.reading) = some p → ∃ t, exec (.cairnPoll n r) s = .next t ∧ EpOnly s t n
      ∧ ringOf t n r = { g with points := g.points.map fun q => if pointWaits q && q.answered then { q with reading := true } else q }
      ∧ (∀ k, DlvRoom s n k → (epOf t n).sent = (epOf s n).sent ++ [dlvIn s n k
        { use := .host (.cairnRead r p.num), opcode := 0x41, addr := BitVec.ofNat 52 (cairnAddr g), len := 64 }]))
    ∧ (∀ (p : CairnPoint) (i : Nat) (d : Desc), (epOf s n).descs = [(i, some d)] → d.ring = r → p.slot = some i → idle →
      let cpl (status : Byte) : Delivery := { use := .host (.cpl r d.index (dNotify d.raw)), opcode := 0x48
                                              addr := BitVec.ofNat 52 (g.cqBase.toNat + ringIdx g d.index * 16)
                                              len := 16, payload := cplPayload s status d.bytes d.index }
      let ends (t : State) (status : Byte) : Prop := EpOnly s t n ∧ descOf t n i = none ∧ ((epOf s n).faults.length < 64 → EpRecorded t n 0x08 r)
        ∧ (∀ k, DlvRoom s n k → (epOf t n).sent = (epOf s n).sent ++ [dlvIn s n k (cpl status)])
      ((g.points.find? fun p => p.kernelStart && pointWaits p) = some p → g.state = .active →
        ∃ t, exec (.kernelStartTimeout n r) s = .next t ∧ ends t (maxStatus d.status 0x12) ∧ (ringOf t n r).state = .halted ∧ (ringOf t n r).cause = 3)
      ∧ ((g.points.find? fun p => !p.kernelStart && pointWaits p) = some p →
        ∃ t, exec (.cairnWaitTimeout n r) s = .next t ∧ ends t 0x12 ∧ (ringOf t n r).state = g.state
          ∧ (epOf t n).rel = { (epOf s n).rel with flagWithheld := satAdd (epOf s n).rel.flagWithheld 1 }))

/-! ## The switch core and the packet buffer (R108-R152) -/

/-- FRAME_INGRESS at a port that is no TRUNK (R117, R119, R122, R128, R159-R162, R418): a frame that fails a check is discarded with its count and
record; one that passes takes its cells, charged to its ingress, and joins the egress queue of its route. A frame wakes its port from P1. -/
def Obligations.IngressChecksAndQueuesFrames : Prop :=
  ∀ (s : State) (p cyc : Nat) (f : Frame) (hop : Header), Clocked s → p < 128 → isTrunk s p = false → receives s p = true → Unobserved s →
    wbType f.wb ≠ 0x3F → wbType f.wb ≠ 0x30 → wbMcast f.wb = false →
    let c := wbClass f.wb
    let go : Instr := .frameIngress p (.given f) hop .clean cyc
    exec go s = exec go (unrest p s) ∧ (tabGet 0 s.pwr.portState p ≠ 1 →
    (frameFormatOk f.wb = false → ∃ t, exec go s = .next t ∧ tabGet 0 t.swc.portErr p = bumpField (tabGet 0 s.swc.portErr p) 16 8
      ∧ (∀ q, q ≠ p → tabGet 0 t.swc.portErr q = tabGet 0 s.swc.portErr q) ∧ (s.glb.faults.length < 1024 → Recorded t 0x21 sevWarn p)
      ∧ FaultOnly { s with swc := { s.swc with portErr := t.swc.portErr } } t)
    ∧ (frameFormatOk f.wb = true → partitionOk s f.wb = false → ∃ t, exec go s = .next t ∧ (s.glb.faults.length < 1024 → Recorded t 0x23 sevWarn p)
      ∧ FaultOnly (modRte (fun r => { r with partDrop := satAdd r.partDrop 1 }) s) t)
    ∧ (frameFormatOk f.wb = true → partitionOk s f.wb = true → wbDst f.wb ≠ myFnid s → (pathSet s (wbDst f.wb)).1 = [] →
      ∃ t, exec go s = .next t ∧ (s.glb.faults.length < 1024 → Recorded t 0x22 sevWarn p)
        ∧ FaultOnly (modSwc (fun w => { w with noRoute := satAdd w.noRoute 1 }) s) t)
    ∧ (∀ (o : Nat) (cells : List Nat) (u : State), frameFormatOk f.wb = true → partitionOk s f.wb = true →
      ((wbDst f.wb = myFnid s ∧ o = localPort f.wb) ∨ (wbDst f.wb ≠ myFnid s ∧ (pathSet s (wbDst f.wb)).1 = [o])) →
      (c = 1 → inGuard s cyc = false) → frameGood f = true → takeCells p c (frameCells f) s = (cells, u) → cells.length = frameCells f →
      ∃ t, exec go s = .next t ∧ queueOf t o c = queueOf s o c ++ [⟨f, 0, p, cells⟩] ∧ (∀ q d, d < 4 → (q ≠ o ∨ d ≠ c) → queueOf t q d = queueOf s q d)
        ∧ t.pool.alloc = s.pool.alloc ++ cells ∧ portHeld t p c = portHeld s p c + frameCells f
        ∧ SettledOnly { u with swc := { s.swc with queues := t.swc.queues, ptr := t.swc.ptr } } t))

/-- FRAME_EGRESS (R114, R117, R118, R128, R141, R418): CTRL goes first and SCHED before RSP and REQ; a TRUNK port sends a FLOW frame that is due, and
a frame with its hop record (its QDEPTH without the frame itself is the model's reading, assumption 62); a frame into the module goes to its
admission point with its cells, or frees them. What leaves wakes its port from P1. -/
def Obligations.EgressServesTheClasses : Prop :=
  ∀ (s : State) (p cyc : Nat) (q : QFrame) (rest : List QFrame), Clocked s → p < 128 → sends s p = true → Unobserved s →
    let w := unrest p s
    let first (c : Nat) : Prop := queueOf s p c = q :: rest ∧ peerOff s p c = false ∧ wbClass q.frame.wb = c
    let none3 : Prop := queueOf s p 3 = [] ∨ peerOff s p 3 = true
    let u (c : Nat) : State := modSwc (fun w => { w with queues := tabSet [] w.queues (pcKey p c) rest }) w
    let h0 := mkHop 0 (xoffBits s p) 0 0
    let h := mkHop (hopHops q.hop + 1) (xoffBits s p) ((rest.map fun x => x.cells.length).sum / 256) 0
    (isTrunk s p = true → tabGet false s.swc.flowDue p = true →
      exec (.frameEgress p cyc) s = .next (putLine p (flowLine flowWb h0) (modSwc (fun w => { w with
        flowDue := tabSet false w.flowDue p false, flowOut := tabMod [] w.flowOut p (· ++ [(flowWb, h0)]) }) w)))
    ∧ (∀ c, (c = 3 ∨ (c = 1 ∧ none3)) → first c → isTrunk s p = true → tabGet false s.swc.flowDue p = false → exec (.frameEgress p cyc) s
      = .next (keepFixed s (freeCells q.inPort c q.cells (putLine p (frameLine q.frame h) (modSwc (fun w => { w with
        trunkOut := tabMod [] w.trunkOut p (· ++ [(q.frame, h)]) }) (u c))))))
    ∧ (isTrunk s p = false →
      (first 3 → exec (.frameEgress p cyc) s = .next (keepFixed s (freeCells q.inPort 3 q.cells (modSwc (fun w => { w with
        nodeIn := tabMod [] w.nodeIn p (· ++ [(q.frame, q.inPort, [])]) }) (u 3)))))
      ∧ (first 1 → none3 → wbMcast q.frame.wb = false → exec (.frameEgress p cyc) s = .next (modSwc (fun w => { w with
        nodeIn := tabMod [] w.nodeIn p (· ++ [(q.frame, q.inPort, q.cells)]) }) (u 1)))
      ∧ (first 2 → none3 → (queueOf s p 1 = [] ∨ peerOff s p 1 = true) → (∀ d, d < 4 → tabGet 0 s.swc.deficit (pcKey p d) = 0) → q.cells.length ≤ 6 →
        ∃ t, exec (.frameEgress p cyc) s = .next t ∧ queueOf t p 2 = rest ∧ (∀ r d, d < 4 → (r ≠ p ∨ d ≠ 2) → queueOf t r d = queueOf s r d)
          ∧ (relOf t (if p < 64 then .ep p else .rte)).answersIn = (relOf s (if p < 64 then .ep p else .rte)).answersIn ++ [q.frame]))

/-- Flow control, the auditor and the congestion map (R137-R141, R185): a hop record sets what the peer holds off, the repeat makes a FLOW
frame due (a FLOW frame with another field that is not 0 fails the format check), a pass over a sound buffer reports nothing and one over a
lost cell reports it, and a map's end restarts the counts. -/
def Obligations.FlowAuditAndCongestionMaps : Prop :=
  (∀ (s : State) (p : Nat) (hop : Header), Clocked s → p < 64 → isTrunk s p = true → receives s p = true →
    (hopGood hop = true → ∃ t, exec (.flowFrame p none hop) s = .next t ∧ (∀ c, c < 4 → peerOff t p c = bitAt (hopXoff hop) c)
      ∧ (∀ q c, q ≠ p → c < 4 → peerOff t q c = peerOff s q c) ∧ (s.rte.cmapEn = false → t.rte = s.rte)
      ∧ t = { s with swc := { s.swc with peerOff := t.swc.peerOff }, rte := { s.rte with cmapPorts := t.rte.cmapPorts } })
    ∧ (hopGood hop = false → exec (.flowFrame p none hop) s = .next s)
    ∧ (∀ wb : Header, hopGood hop = true → wbHchk wb = hdrCheck wb → bitsOf wb 0 224 = 0xC03F → Unobserved s →
      ∃ t, exec (.flowFrame p (some wb) hop) s = .next t ∧ (∀ c, c < 4 → peerOff t p c = bitAt (hopXoff hop) c)
        ∧ (∀ q c, q ≠ p → c < 4 → peerOff t q c = peerOff s q c)
        ∧ t = { s with swc := { s.swc with peerOff := t.swc.peerOff }, pwr := (unrest p s).pwr, freeCount := s.freeCount + 1 })
    ∧ (∀ wb : Header, hopGood hop = true → wbHchk wb = hdrCheck wb → bitsOf wb 0 224 ≠ 0xC03F → Unobserved s →
      ∃ t, exec (.flowFrame p (some wb) hop) s = .next t ∧ tabGet 0 t.swc.portErr p = bumpField (tabGet 0 s.swc.portErr p) 16 8
        ∧ (s.glb.faults.length < 1024 → Recorded t 0x21 sevWarn p))
    ∧ exec (.flowRepeat p) s = .next (modSwc (fun w => { w with flowDue := tabSet false w.flowDue p true }) s))
  ∧ (∀ s : State, Clocked s →
    (s.pool.auditEn = true → s.pool.auditActive = false →
      ((∀ x ∈ s.pool.alloc, x ∈ ownedCells s) → (∀ b, b < 48 → 65536 - (bankAlloc s b).length = tabGet 65536 s.pool.freeLen b) →
        ∃ t, exec .auditPass s = .next t ∧ t.pool = { s.pool with auditActive := true, auditBank := t.pool.auditBank } ∧ t.pool.auditBank.toNat < 48
          ∧ t = { s with pool := t.pool, freeCount := s.freeCount + 1 })
      ∧ (∀ x ∈ s.pool.alloc, ¬ x ∈ ownedCells s → ∃ t, exec .auditPass s = .next t ∧ t.pool.leak = true ∧ t.pool.auditActive = true))
    ∧ (s.pool.auditActive = true → exec .auditPassEnd s
      = .next (modPool (fun p => { p with auditActive := false, auditBank := 0, passCnt := p.passCnt + 1 }) s))
    ∧ (s.rte.cmapEn = true → exec (.cmapPeriod false) s = .next (modRte (fun r => { r with cmapPeriods := r.cmapPeriods + 1 }) s)
      ∧ ∃ t, exec (.cmapPeriod true) s = .next t
        ∧ t.rte = { s.rte with cmapCount := s.rte.cmapCount + 1, cmapPorts := cmapFresh s, cmapStart := s.tick.now, cmapRetx := 0, cmapTimeout := 0, cmapPeriods := 0 }
        ∧ t.swc = s.swc ∧ t.eps = s.eps ∧ (MemSound s → t.tly = s.tly ∧ t.freeCount = s.freeCount + 512)))

/-! ## End-to-end recovery (R153-R186, R205, R206) -/

/-- FRAME_ADMIT and GAP_NACK (R119, R166-R170, R172, R233), at a point that holds no frame for reorder: the frame that is due is admitted, one
ahead is held, one behind is a duplicate, one of an older generation is counted, a damaged one is answered with a NACK, and a SCHED frame
that straddles the boundary is flushed. A gap is answered with a NACK of reason GAP, by the SEQ that is due. At a memory node port of a node in P3
a frame waits (R418). -/
def Obligations.AdmissionFollowsTheSequence : Prop :=
  (∀ (s : State) (port : Nat) (f : Frame), Clocked s → port < 127 → wbClass f.wb ≤ 1 → svcQueueFull s port f.wb = false →
    (portAsleep s port = true → ∀ b, exec (.frameAdmit port (.given f) b) s = .next (modSwc (fun w => { w with
      nodeIn := tabMod [] w.nodeIn port (· ++ [(f, port, [])]) }) s))
    ∧ (portAsleep s port = false → wbHchk f.wb = hdrCheck f.wb →
    let p := pointAt port
    let key := seriesKey (wbSrc f.wb) (wbKind f.wb)
    let x := rxOf s p key
    let c := seqCount (wbSeq f.wb)
    let nack (reason : Nat) : Frame := mkFrame (respWb f.wb 0x12 0 (rflagsOf reason false false (wbKind f.wb)) 0) []
    let go : Instr := .frameAdmit port (.given f) false
    (wbClass f.wb = 1 → exec (.frameAdmit port (.given f) true) s = .next (modTick (fun t => { t with flushCnt := satAdd t.flushCnt 1 }) s))
    ∧ (frameGood f = false → ∃ t, exec go s = .next t ∧ Enters s t (answerPort p f.wb) (nack 1)
      ∧ relOf t p = { relOf s p with nackTx := satAdd (relOf s p).nackTx 1 })
    ∧ (frameGood f = true → genOlder (seqGen (wbSeq f.wb)) x.g = true →
      exec go s = .next (modRel p (fun r => { r with lateDisc := satAdd r.lateDisc 1 }) s))
    ∧ (frameGood f = true → seqGen (wbSeq f.wb) = x.g → wbClass f.wb = 0 → NothingHeld s p →
      (c = x.e → port = 64 → wbType f.wb = 0x02 → regionOf (addrOff (wbAddr f.wb)) = .stacked →
        let ch := channelOf (addrOff (wbAddr f.wb))
        let off := addrOff (wbAddr f.wb)
        ∃ t, exec go s = .next t ∧ (rxOf t p key).e = x.e + 1 ∧ (rxOf t p key).unanswered = x.unanswered ++ [wbSeq f.wb]
          ∧ chanOf t ch = { chanOf s ch with queue := (chanOf s ch).queue ++ [{ op := .store, off := BitVec.ofNat 52 off, len := wbLength f.wb, subop := wbSubop f.wb, dtype := wbDtype f.wb, data := f.payload.take (wbLength f.wb), sched := false, poison := f.poison, back := .request .rte f.wb false }] }
          ∧ t.mem.cells = s.mem.cells ∧ t.swc = s.swc ∧ t.eps = s.eps)
      ∧ (countPrecedes x.e c = true → (c - x.e).toNat < 2048 → c ≠ x.e → ∃ t, exec go s = .next t
        ∧ rxOf t p key = { x with held := [⟨f, port, []⟩] } ∧ (∀ k, k ≠ key → rxOf t p k = rxOf s p k) ∧ t.mem = s.mem ∧ t.swc = s.swc)
      ∧ (c ≠ x.e → countPrecedes x.e c = false → countPrecedes c x.e = true → wbType f.wb = 0x02 → countPrecedes c x.d = true → ∃ t, exec go s = .next t
        ∧ relOf t p = { relOf s p with dupRx := satAdd (relOf s p).dupRx 1 }
        ∧ Enters s t (answerPort p f.wb) (mkFrame (respWb f.wb 0x10 0 (rflagsOf 0 false true 0) 0) []) ∧ t.mem = s.mem))))
  ∧ (∀ (s : State) (p : Point) (src : BitVec 12) (h : HeldFrame) (rest : List HeldFrame), Clocked s → pointOk p = true →
    (rxOf s p (seriesKey src 0)).held = h :: rest →
    let x := rxOf s p (seriesKey src 0)
    let due := mkSeq x.g x.e
    ∃ t f, exec (.gapNack p src) s = .next t ∧ Enters s t (answerPort p h.frame.wb) f
      ∧ f = mkFrame (respWb (hdrPut (hdrPut h.frame.wb 16 3 due.toNat) 19 3 0) 0x12 0 (rflagsOf 3 true false 0) 0) []
      ∧ wbType f.wb = 0x12 ∧ rspReason f.wb = 3 ∧ rspBySeq f.wb = true ∧ wbSeq f.wb = due ∧ wbTag f.wb = 0 ∧ wbDst f.wb = wbSrc h.frame.wb
      ∧ relOf t p = { relOf s p with nackTx := satAdd (relOf s p).nackTx 1 } ∧ (∀ k, rxOf t p k = rxOf s p k))

/-- Responses at a source (R84, R158, R173, R174, R193): one that matches an ISSUED context of a direct request completes it with its status
and data, one that matches none is counted late, and a NACK sends the frame again, waits for the timer, or ends in REMOTE. -/
def Obligations.ResponsesCompleteContexts : Prop :=
  ∀ (s : State) (p : Point) (f : Frame), Clocked s → pointOk p = true → frameGood f = true →
    (∀ c, (c = Instr.rspAck p (.given f) ∧ wbType f.wb = 0x10) ∨ (c = .rspData p (.given f) ∧ wbType f.wb = 0x11)
        ∨ (c = .rspNack p (.given f) ∧ wbType f.wb = 0x12 ∧ rspBySeq f.wb = false) → matchTag s p f.wb = none →
      exec c s = .next (modRel p (fun r => { r with lateDisc := satAdd r.lateDisc 1 }) s))
    ∧ (∀ i n tag ord op win, p = .ep n → matchTag s p f.wb = some i → (ctxOf s p i).st = .issued → (ctxOf s p i).owner = .direct tag ord op win →
      (ctxOf s p i).silent = false → (∀ e ∈ (epOf s n).rel.ctxs, e.1 ≠ i → e.2.st ≠ .held ∧ (ctxOpen e.2 = true → ctxDirect e.2 = none)) →
      (epOf s n).offRspRx = false → (epOf s n).rspWait = [] → (epOf s n).refusals = [] → (epOf s n).attach ≠ .down → (portOf s n).quiet = false →
      ∀ (c : Instr) (d : List Byte), (c = .rspAck p (.given f) ∧ wbType f.wb = 0x10 ∧ d = []) ∨ (c = .rspData p (.given f) ∧ wbType f.wb = 0x11 ∧ d = f.payload.take (wbLength f.wb)) →
        ∃ t, exec c s = .next t ∧ EpOnly s t n ∧ ctxOf t p i = { gen := (ctxOf s p i).gen + 1 } ∧ (epOf t n).rel.freedCtx = (epOf s n).rel.freedCtx ++ [i]
          ∧ (∀ j, j ≠ i → ctxOf t p j = ctxOf s p j)
          ∧ (epOf t n).sent = (epOf s n).sent ++ [mkMsg (mkHdr 0xC1 1 ((pad32 d).length / 32) [(2, tag.toNat), (5, (rspStatus f.wb).toNat)]) (pad32 d)])
    ∧ (∀ i, matchTag s p f.wb = some i → (ctxOf s p i).st = .issued → wbType f.wb = 0x12 → rspBySeq f.wb = false →
      (rspReason f.wb = 5 → exec (.rspNack p (.given f)) s = .next (keepFixed s (completeCtx p i 0x14 [] s)))
      ∧ ((rspReason f.wb = 2 ∨ rspReason f.wb = 4) → exec (.rspNack p (.given f)) s = .next (modCtx p i (fun c => { c with atExpiry := true }) s))
      ∧ (rspReason f.wb = 1 → (ctxOf s p i).attempt < retxMax (relOf s p).retxCfg → ∃ t, exec (.rspNack p (.given f)) s = .next t
        ∧ ctxOf t p i = { ctxOf s p i with attempt := (ctxOf s p i).attempt + 1, atExpiry := false }
        ∧ (relOf t p).retx = satAdd (relOf s p).retx 1 ∧ Enters s t (ctxOf s p i).port (resendOf (ctxOf s p i).frame)))

/-- Timers (R174, R175, R177, R179): the retransmission timer sends a frame again, after RETX_MAX attempts or at the end of its life a
context ends with TIMEOUT and its record, a flushed series takes its next generation and is sealed, and holds and dedup entries end.
Seals (R205, R206): a pending SEAL goes out again or is abandoned with a record; a SEAL of a newer generation is adopted, and is
answered once no frame of an older one is unanswered; SEALED that echoes the newest generation ends it. -/
def Obligations.TimersAndSealsResendAndEnd : Prop :=
  (
  ∀ (s : State) (p : Point) (i : Nat) (dst : BitVec 12) (kind : SKind) (seq : BitVec 24), Clocked s → pointOk p = true → i < 4096 →
    let c := ctxOf s p i
    let key := ctxSeries c
    (c.st = .issued → (c.atExpiry = true ∨ c.attempt < retxMax (relOf s p).retxCfg) → ∃ t, exec (.retxTimer p i) s = .next t
      ∧ ctxOf t p i = { c with attempt := if c.atExpiry then c.attempt else c.attempt + 1, atExpiry := false }
      ∧ (relOf t p).retx = satAdd (relOf s p).retx 1 ∧ Enters s t c.port (resendOf c.frame))
    ∧ (∀ go ∈ [Instr.retxTimer p i, .contextLifeExpiry p i], c.st = .issued → c.atExpiry = false → retxMax (relOf s p).retxCfg ≤ c.attempt → c.owner = .other →
      (∀ e ∈ (relOf s p).ctxs, e.1 ≠ i → ¬ (e.2.st = .issued ∧ ctxSeries e.2 = key)) → ∃ t, exec go s = .next t
        ∧ ctxOf t p i = { gen := c.gen + 1 } ∧ (relOf t p).timeout = satAdd (relOf s p).timeout 1 ∧ (∀ j, j ≠ i → ctxOf t p j = ctxOf s p j)
        ∧ (∀ n, p = .ep n → (epOf s n).faults.length < 64 → EpRecorded t n 0x09 (wbDst c.frame.wb).toNat)
        ∧ (let x := tabGet {} (relOf s p).series key
          let y := tabGet {} (relOf t p).series key
          (key % 2 = 1 → y = x) ∧ (key % 2 = 0 → y.gen = x.gen + 1 ∧ y.count = 0 ∧ y.timers = x.timers + 1 ∧ (∃ k, y.sealing = some ⟨x.gen + 1, k⟩)
            ∧ (relOf t p).seriesReset = satAdd (relOf s p).seriesReset 1)))
    ∧ exec (.seriesHoldRelease p dst kind) s = .next (modRel p (fun r => { r with
      series := tabMod {} r.series (seriesKey dst (kindCode kind)) (fun x => { x with timers := x.timers - 1 }) }) s)
    ∧ (∀ d, tabGet none (relOf s p).dedup (dedupKey dst (kindCode kind) seq) = some d → d.done = true → NothingHeld s p →
      exec (.dedupHoldExpiry p dst kind seq) s = .next (modRel p (fun r => { r with dedup := tabSet none r.dedup (dedupKey dst (kindCode kind) seq) none }) s)))
  ∧ (
  (∀ (s : State) (p : Point) (fnid : BitVec 12) (kind : SKind) (w : SealWait), Clocked s → pointOk p = true →
    let key := seriesKey fnid (kindCode kind)
    let x := tabGet {} (relOf s p).series key
    (x.sealing = some w → w.sends ≤ retxMax (relOf s p).retxCfg → ∃ t, exec (.sealResend p fnid kind) s = .next t
      ∧ Enters s t (ctrlPort p) (mkFrame (sealWb s p key x.gen) [])
      ∧ tabGet {} (relOf t p).series key = { x with sealing := some ⟨x.gen, (if w.gen = x.gen then w.sends else 0) + 1⟩ })
    ∧ (x.sealing = some w → retxMax (relOf s p).retxCfg < w.sends → ∃ t, exec (.sealResend p fnid kind) s = .next t ∧ t.swc = s.swc
      ∧ tabGet {} (relOf t p).series key = { x with sealing := none } ∧ (relOf t p).sealFail = satAdd (relOf s p).sealFail 1
      ∧ (∀ n, p = .ep n → (epOf s n).faults.length < 64 → EpRecorded t n 0x09 fnid.toNat))
    ∧ (∀ h : Header, (rxOf s p key).sealed = some h → (∀ q ∈ (rxOf s p key).unanswered, seqGen q = (rxOf s p key).g) →
      ∃ t f, exec (.sealedSend p fnid kind) s = .next t ∧ Enters s t (ctrlPort p) f ∧ rxOf t p key = { rxOf s p key with sealed := none }
        ∧ f.payload = leBytes 4 (rxOf s p key).eOld.toNat ++ bvBytes (rxOf s p key).freed ++ zeros 26)
    ∧ (∀ f : Frame, sealedPick f.wb = true → frameGood f = true → wbSrc f.wb = fnid → cairnSkind f.wb = kindCode kind → wbPlen f.wb = 1 → x.sealing = some w →
      cairnGen f.wb = x.gen → exec (.sealed p (.given f)) s = .next (modRel p (fun r => { r with
        series := tabMod {} r.series key (fun x => { x with sealing := none }) }) s)))
  ∧ (∀ (s : State) (port : Nat) (f : Frame), Clocked s → port < 128 → sealPick f.wb = true → frameGood f = true → cairnKind f.wb = 1 → wbPlen f.wb = 0 →
    let p := pointAt port
    let key := seriesKey (wbSrc f.wb) (cairnSkind f.wb)
    let x := rxOf s p key
    (genOlder (cairnGen f.wb) x.g = true → exec (.sealFrame port (.given f)) s = .next (modRel p (fun r => { r with lateDisc := satAdd r.lateDisc 1 }) s))
    ∧ (genNewer (cairnGen f.wb) x.g = true → NothingHeld s p → ∃ t, exec (.sealFrame port (.given f)) s = .next t
      ∧ (rxOf t p key).g = cairnGen f.wb ∧ (rxOf t p key).e = 0 ∧ (rxOf t p key).d = 0 ∧ (rxOf t p key).sealed = some f.wb
      ∧ (∀ k, key * 2 ^ 24 ≤ k → k < (key + 1) * 2 ^ 24 → tabGet none (relOf t p).dedup k = none)
      ∧ (∀ k, k ≠ key → rxOf t p k = rxOf s p k) ∧ t.swc = s.swc ∧ t.mem = s.mem)))

/-! ## Stacked memory and tallies (R195, R208-R213, R269-R275, R371-R390) -/

/-- CHANNEL_ACCESS (R188, R195, R211, R212, R376-R378, R387, R418): a LOAD answers the bytes that stand there, and a STORE, a REDUCE and an ATOMIC
change the extent's lines as they say and no other; during a scrub the access is refused, on a poisoned line it answers POISON, and while
the stack sleeps it waits. Accesses are taken in the order of their arrival. A LOAD whose codeword has one or two symbols in error answers the
corrected bytes and is counted; with 3 to 6 it finds the line uncorrectable, and answers POISON. -/
def Obligations.ChannelAccessesReadAndWriteLines : Prop :=
  ∀ (s : State) (c : Nat) (a : MemAcc), Clocked s → c < 384 → accAt a c = true →
    let off := a.off.toNat
    let go : Instr := .channelAccess c (.given a) []
    let first := (chanOf s c).queue = [] ∧ chanAsleep s c = false
    let same (u : State) : Prop := u = { s with mem := { s.mem with channels := u.mem.channels } } ∧ ∀ k, chanOf u k = chanOf s k
    (chanAsleep s c = true → exec go s = .next (modChan c (fun ch => { ch with queue := ch.queue ++ [a] }) s))
    ∧ (exec go s = exec (.channelAccess c .waiting []) (modChan c (fun ch => { ch with queue := ch.queue ++ [a] }) s))
    ∧ (∀ b rest, (chanOf s c).queue = b :: rest → chanAsleep s c = false → exec (.channelAccess c .waiting []) s
      = .next (keepFixed s (applyAccess b (modChan c (fun ch => { ch with queue := rest }) s))))
    ∧ (first → s.mem.tenantBusy = true → ∃ u, exec go s = .next (answer a.back 0x13 none [] u) ∧ same u)
    ∧ (first → s.mem.tenantBusy = false → accOk a = false → ∃ u, exec go s = .next (answer a.back 0x10 none [] u) ∧ same u)
    ∧ (first → s.mem.tenantBusy = false → accOk a = true → (chanOf s c).comb.length ≤ 28 → (∀ l ∈ linesOf off a.len, tabGet 0 s.mem.errs l = 0) →
      ((∀ l ∈ linesOf off a.len, (lineNow s l).2 = false) →
        let old := lineParts s off a.len
        (a.op = .load → ∃ u, exec go s = .next (answer a.back 0 (some old) [] u)
          ∧ u = { s with mem := { s.mem with channels := u.mem.channels } } ∧ ∀ l, lineNow u l = lineNow s l)
        ∧ (a.op = .store → (∀ k ∈ a.poison, off / 64 + k ∈ linesOf off a.len) → ∃ u, exec go s = .next (answer a.back 0 none [] u)
          ∧ ExtentSet s u off a.len a.poison fun l => slice a.data (linePart off a.len l).2.1 (linePart off a.len l).2.2)
        ∧ (a.op = .reduce → backVary a.back = false → ∃ u, exec go s = .next (answer a.back 0 none [] u)
          ∧ ExtentSet s u off a.len [] fun l => elemsOp a.subop.toNat a.dtype.toNat
            (slice (lineNow s l).1 (linePart off a.len l).1 (linePart off a.len l).2.2) (slice a.data (linePart off a.len l).2.1 (linePart off a.len l).2.2))
        ∧ (a.op = .atomic → backVary a.back = false → ∃ u, exec go s = .next (answer a.back 0 (if fetches a.subop then some old else none) old u)
          ∧ ExtentSet s u off a.len [] fun l => slice (leBytes a.len (elemOp (a.subop &&& 0x7F).toNat a.dtype.toNat (leNat old)
            (fieldNat a.data 0 a.len) (fieldNat a.data 8 a.len))) (linePart off a.len l).2.1 (linePart off a.len l).2.2))
      ∧ ((∃ l ∈ linesOf off a.len, (lineNow s l).2 = true) → a.op = .load → ∃ u, exec go s = .next (answer a.back 0x15 none [] u)
        ∧ (s.glb.faults.length < 1024 → Recorded u 0x82 sevWarn c) ∧ bitAt u.tick.repro 0 = true ∧ ∀ l, lineNow u l = lineNow s l)
      ∧ (∀ l n : Nat, a.op = .load → linesOf off a.len = [l] → combFind (chanOf s c) l = none → s.mem.poison.contains l = false →
        (1 ≤ n → n ≤ 2 → ∃ u, exec (.channelAccess c (.given a) [n]) s = .next (answer a.back 0 (some (lineParts s off a.len)) [] u)
          ∧ (chanOf u c).corr = satAdd (chanOf s c).corr 1 ∧ (s.glb.faults.length < 1024 → Recorded u 0x80 sevInfo c) ∧ ∀ k, lineNow u k = lineNow s k)
        ∧ (3 ≤ n → n ≤ 6 → ∃ u, exec (.channelAccess c (.given a) [n]) s = .next (answer a.back 0x15 none [] u)
          ∧ (chanOf u c).uncorr = satAdd (chanOf s c).uncorr 1 ∧ (lineNow u l).2 = true ∧ (∀ k, k ≠ l → lineNow u k = lineNow s k)
          ∧ (s.glb.faults.length < 1023 → Recorded u 0x81 sevError c ∧ Recorded u 0x82 sevWarn c))))

/-- Write-backs, the patrol scrub and its lag (R212, R372, R376, R377, R381): a write-back stores the codeword of the line's ciphertext, and
changes DRAM and nothing that an access reads; the scrub
moves its pointer, a line that it can correct goes back corrected and is counted, and one with 3 to 6 symbols in error is poisoned and
recorded. -/
def Obligations.WritebacksAndScrubKeepWhatIsRead : Prop :=
  ∀ (s : State) (c : Nat), Clocked s → c < 384 →
    (∀ (l : Nat) (e : CombEntry), lineChan l = c → combFind (chanOf s c) l = some e → e.dirty = true → ∃ t, exec (.combineWriteback c l) s = .next t
      ∧ dramLine t.mem l = bvBytes e.data ∧ (∀ k, k ≠ l → dramLine t.mem k = dramLine s.mem k) ∧ (∀ k, lineNow t k = lineNow s k)
      ∧ (combFind (chanOf t c) l).map (·.dirty) = some false ∧ tabGet 0 t.mem.errs l = 0
      ∧ tabGet none t.mem.words l = some (storedWord (xtsEncrypt s.fuses.memKey (memTweak s l) (bvBytes e.data)) e.poison)
      ∧ t = { s with mem := { s.mem with
          cells := t.mem.cells, words := t.mem.words, errs := t.mem.errs, poison := t.mem.poison, channels := t.mem.channels } })
    ∧ (s.mem.scrubEn = true → chanAsleep s c = false → (chanOf s c).scrubPtr.toNat + 1 < channelLines →
      let l := offOfLocal c ((chanOf s c).scrubPtr.toNat * 64) / 64
      (((combFind (chanOf s c) l).isSome = true ∨ s.mem.poison.contains l = true ∨ tabGet 0 s.mem.errs l = 0) → ∃ t, exec (.patrolScrubRead c 0) s = .next t
        ∧ t = modChan c (fun ch => { ch with scrubPtr := BitVec.ofNat 25 (ch.scrubPtr.toNat + 1) }) (modMem (fun m => { m with errs := t.mem.errs }) s)
        ∧ ∀ k, tabGet 0 t.mem.errs k = tabGet 0 s.mem.errs k)
      ∧ (lineChan l = c → combFind (chanOf s c) l = none → s.mem.poison.contains l = false → tabGet 0 s.mem.errs l = 0 →
        (∀ e : Nat, 1 ≤ e → e ≤ 2 → (chanOf s c).comb.length < 32 → ∃ t, exec (.patrolScrubRead c e) s = .next t
          ∧ (chanOf t c).corr = satAdd (chanOf s c).corr 1 ∧ t.mem.poison = s.mem.poison ∧ t.mem.cells = s.mem.cells
          ∧ (∃ x, combFind (chanOf t c) l = some x ∧ x.dirty = true) ∧ (∀ k, lineNow t k = lineNow s k)
          ∧ (chanOf t c).scrubPtr = BitVec.ofNat 25 ((chanOf s c).scrubPtr.toNat + 1) ∧ (s.glb.faults.length < 1024 → Recorded t 0x80 sevInfo c))
        ∧ (∀ e : Nat, 3 ≤ e → e ≤ 6 → ∃ t, exec (.patrolScrubRead c e) s = .next t
          ∧ (chanOf t c).uncorr = satAdd (chanOf s c).uncorr 1 ∧ t.mem.poison = s.mem.poison ++ [l] ∧ t.mem.cells = s.mem.cells
          ∧ (chanOf t c).scrubPtr = BitVec.ofNat 25 ((chanOf s c).scrubPtr.toNat + 1) ∧ (s.glb.faults.length < 1024 → Recorded t 0x81 sevError c))))
    ∧ (∃ t, exec (.scrubLag c) s = .next t ∧ FaultOnly (modMem (fun m => { m with lag := satAdd m.lag 1 }) s) t
      ∧ (s.glb.faults.length < 1024 → Recorded t 0x84 sevInfo c))

/-- TALLY_ACCESS (R269-R273): an accepted access changes its tally as it says, the update settles FIRED and the step, and no other tally
changes; a load answers the bytes; a wrong one is answered FORMAT, and one outside the first 32 bytes NOT_BACKED. -/
def Obligations.TallyAccessesUpdateOneTally : Prop :=
  ∀ (s : State) (a : TlyAcc), Clocked s → s.tly.notifyQ = [] →
    let i := a.off.toNat / 256
    let o := a.off.toNat % 256
    let y := tabGet {} s.tly.tallies i
    let old := slice (tallyBytes y) o a.len
    let go : Instr := .tallyAccess (.given a)
    ((s.mem.tenantBusy = true ∨ 32 ≤ o) → exec go s = .next (answer a.back 0x13 none [] s))
    ∧ (s.mem.tenantBusy = false → o < 32 → tallyAccOk a = false → exec go s = .next (answer a.back 0x10 none [] s))
    ∧ (s.mem.tenantBusy = false → o < 32 → tallyAccOk a = true →
      (a.op = .load → exec go s = .next (answer a.back 0 (some old) [] s))
      ∧ (a.op ≠ .load → ∃ u, exec go s = .next (answer a.back 0 (if a.op = .atomic ∧ fetches a.subop = true then some old else none)
          (if a.op = .atomic then old else []) u)
        ∧ tabGet {} u.tly.tallies i = (tallySettle (tallyWrite a y)).1 ∧ (∀ k, k ≠ i → tabGet {} u.tly.tallies k = tabGet {} s.tly.tallies k)
        ∧ u.tly.fireCnt = satAdd s.tly.fireCnt (ofB (tallySettle (tallyWrite a y)).2) ∧ u = { s with tly := u.tly }
        ∧ ((tallyWrite a y).count < (tallyWrite a y).thresh → tlyFired (tabGet {} u.tly.tallies i) = false ∧ u.tly.fireCnt = s.tly.fireCnt)))

/-! ## Membership and shard groups (R165, R394-R407) -/

/-- MEMBER frames, the roster and strips (R165, R176, R394-R401, R405, R407): a newer REACH replaces a spine's reach and a spine announces its own
to every leaf; ATTACH and DETACH set the accelerator's origin, a spine passes them on to the other leaves, and a new admission, by an origin or
an INCARN that differs, forgets its receive states; LEAVING changes nothing; a heartbeat counts and writes the module's word to its hosts, and MISS
periods without a write isolate the module; a poll reads the mailbox, and a strip that is waited for is kept; an operation ends, and where it
rebuilt this rank once the CAS of its view word has succeeded. The port that these frames leave by (assumption 14), the origin's port (36), the
statuses of an operation that ends (38) and the exchanges with hosts as operands (73) are the model's. -/
def Obligations.MembersAnnounceAndOperationsEnd : Prop :=
  (∀ (s : State) (port : Nat) (f : Frame), Clocked s → port < 128 → wbType f.wb = 0x31 → frameGood f = true →
    (mbKind f.wb = mkReach → isLeaf s = true →
      let i := mbSpine s f.wb
      let anno : W32 := BitVec.ofNat 32 (fieldNat f.payload 8 4)
      ((tabGet none s.rte.reachOf i = none ∨ ∃ m a, tabGet none s.rte.reachOf i = some (m, a) ∧ 1 ≤ (anno - a).toNat ∧ (anno - a).toNat < 2 ^ 31) →
        exec (.reach port (.given f)) s
          = .next (modRte (fun r => { r with reachOf := tabSet none r.reachOf i (some (BitVec.ofNat 64 (fieldNat f.payload 0 8), anno)) }) s))
      ∧ (∀ m a, tabGet none s.rte.reachOf i = some (m, a) → (anno = a ∨ 2 ^ 31 ≤ (anno - a).toNat) → exec (.reach port (.given f)) s = .next s))
    ∧ (mbKind f.wb = mkDetach → isSpine s = false → exec (.detach port (.given f)) s
      = .next (modRte (fun r => { r with origins := tabSet none r.origins (mbSubject f.wb).toNat (some (mbOrigin s f.wb false)) }) s))
    ∧ (mbKind f.wb = mkDetach → isSpine s = true → ∃ t, exec (.detach port (.given f)) s = .next t
      ∧ tabGet none t.rte.origins (mbSubject f.wb).toNat = some (mbOrigin s f.wb false)
      ∧ tabGet [] t.swc.inbound 127 = tabGet [] s.swc.inbound 127 ++ (((leafFnids s).filter fun d => decide (d ≠ wbSrc f.wb)).map fun d =>
        (mkFrame (sealHdr (hdrPut f.wb 6 2 d.toNat)) [], 0))
      ∧ t = { s with rte := { s.rte with origins := t.rte.origins }, swc := { s.swc with inbound := t.swc.inbound } })
    ∧ (mbKind f.wb = mkAttach → isSpine s = false →
      let o := mbOrigin s f.wb true
      let old := tabGet none s.rte.origins (mbSubject f.wb).toNat
      ∃ t, exec (.attach port (.given f)) s = .next t
        ∧ tabGet none t.rte.origins (mbSubject f.wb).toNat = some o
        ∧ (∀ k, k ≠ (mbSubject f.wb).toNat → tabGet none t.rte.origins k = tabGet none s.rte.origins k)
        ∧ ((old = none ∨ ∃ x, old = some x ∧ (x.leaf ≠ o.leaf ∨ x.port ≠ o.port ∨ x.incarn ≠ o.incarn)) →
          ∀ p, pointOk p = true → ∀ k, k < 2 → rxOf t p (seriesKey (mbSubject f.wb) k) = {})
        ∧ (∀ x, old = some x → x.leaf = o.leaf → x.port = o.port → x.incarn = o.incarn →
          t = modRte (fun r => { r with origins := tabSet none r.origins (mbSubject f.wb).toNat (some o) }) s))
    ∧ (mbKind f.wb = mkLeaving → exec (.leaving port (.given f)) s = .next s)
    ∧ ((mbKind f.wb = 0 ∨ 4 < mbKind f.wb) → exec (.leaving port (.given f)) s = .next (modRel .rte (fun r => { r with lateDisc := satAdd r.lateDisc 1 }) s)))
  ∧ (∀ s : State, Clocked s →
    (isSpine s = true → ∃ t, exec .reachAnnounce s = .next t ∧ t.rte = { s.rte with anno := s.rte.anno + 1, reachSent := ownReach s }
      ∧ tabGet [] t.swc.inbound 127 = tabGet [] s.swc.inbound 127 ++ ((leafFnids s).map fun dst =>
        (memberFrame s (myFnid s) dst mkReach (healthOf s) 0 0 (bvBytes (ownReach s) ++ bvBytes (s.rte.anno + 1) ++ zeros 20), 0))
      ∧ t = { s with rte := t.rte, swc := { s.swc with inbound := t.swc.inbound } })
    ∧ (∃ t, exec .attachResend s = .next t ∧ t = { s with swc := { s.swc with inbound := t.swc.inbound } } ∧ (isLeaf s = false → t = s)
      ∧ (isLeaf s = true → ∀ n dst, n < 64 → isEdge s n = true → (epOf s n).incarn ≠ 0 → (epOf s n).srcFnid.toNat < 0x800 → dst ∈ spineFnids s →
        (memberFrame s (myFnid s) dst (if (epOf s n).attach = .ready then mkAttach else mkDetach) (healthOf s) (epOf s n).srcFnid.toNat
          (epOf s n).incarn.toNat [], 0) ∈ tabGet [] t.swc.inbound 127))
    ∧ (∃ t, exec .leavingSend s = .next t ∧ t = { s with swc := { s.swc with inbound := t.swc.inbound } } ∧ (s.glb.drainReq = false → t = s)
      ∧ (s.glb.drainReq = true → ∀ p dst, trunkUsable s p = true → trunkPeer s p = some dst →
        (memberFrame s (myFnid s) dst mkLeaving (healthOf s) 0 0 [], 0) ∈ tabGet [] t.swc.inbound 127))
    ∧ (∀ (w0 w1 : Bool) (r0 r1 : RosterRead) (cas : List (Nat × CasEnd)), s.glb.membEn = true → ecGroups s = [] → s.mem.ecOp = none →
      let port (h : Nat) : Nat := rosterPort (tabGet 0 s.glb.rosterCfg h)
      let ok (h : Nat) (w : Bool) : Bool := decide ((epOf s (port h)).attach = .ready) && w
      let any := (rosterEn s 0 && ok 0 w0) || (rosterEn s 1 && ok 1 w1)
      ∃ t, exec (.rosterHeartbeat w0 w1 r0 r1 cas) s = .next t ∧ t.glb.hb = s.glb.hb + 1 ∧ t.glb.missed = (if any then 0 else s.glb.missed + 1)
        ∧ (any = true → t.glb.isolated = false) ∧ (any = false → missLimit s ≤ s.glb.missed + 1 → t.glb.isolated = true)
        ∧ (any = false → s.glb.missed + 1 < missLimit s → t.glb.isolated = s.glb.isolated) ∧ t.mem = s.mem
        ∧ (∀ m, m ≠ port 0 → m ≠ port 1 → epOf t m = epOf s m)
        ∧ (rosterEn s 0 = true → bitAt t.glb.hostOk 0 = ok 0 w0 ∧ (ok 0 w0 = false → s.glb.faults.length < 1023 → Recorded t 0x92 sevWarn 0))
        ∧ (rosterEn s 1 = true → bitAt t.glb.hostOk 1 = ok 1 w1 ∧ (ok 1 w1 = false → s.glb.faults.length < 1023 → Recorded t 0x92 sevWarn 1))
        ∧ (∀ k, rosterEn s 0 = true → rosterEn s 1 = false → DlvRoom s (port 0) k → (epOf t (port 0)).sent = (epOf s (port 0)).sent ++ [dlvIn s (port 0) k
          { use := .host .gone, opcode := 0x42, addr := BitVec.ofNat 52 (rosterAt s 0 (8 * rosterIndex (myFnid s))), len := 8
            payload := bvBytes (ownWord (modGlb (fun g => { g with hb := g.hb + 1 }) s)) }]))
    ∧ (∀ (o : EcOp) (control : BitVec 512) (x : RelayStrip), s.mem.ecOp = some o → o.entry < 8 →
      let e := ecEntryOf s o.entry
      let n := ecRelayPort e
      (ecRelay e = true → (epOf s n).attach = .ready → slotReady control x = true → x.stripe < ecStripes e → x.sender ∈ stripSenders s o x.stripe →
        ecOnPlane s e x.sender = false → x.data.length = 2 ^ ecLog e → o.written = x.stripe →
        (∃ r ∈ stripSenders s o x.stripe, r ≠ x.sender ∧ r < 16 ∧ x.sender < 16 ∧ ecOnPlane s e r = false ∧ stripIn s x.stripe r = none) →
        ∃ t, exec (.relayPoll o.entry control [x]) s = .next t
          ∧ t.mem = { s.mem with
              ecIn := tabSet [] s.mem.ecIn (stripKey x.stripe x.sender) x.data, stripesDone := BitVec.ofNat 25 (min o.sendAt o.written) }
          ∧ (∀ k, DlvRoom s n k → ((epOf s n).sent ++ [dlvIn s n k
            { use := .host .gone, opcode := 0x41, addr := BitVec.ofNat 52 (mailbox e (ecMyRank e)), len := 64 }]) <+: (epOf t n).sent)
          ∧ (∀ m, m ≠ n → epOf t m = epOf s m) ∧ Woken { s with mem := t.mem, eps := t.eps } t n)
      ∧ (ecRelay e = true → (epOf s n).attach ≠ .ready → ∃ t, exec (.relayPoll o.entry control [x]) s = .next t
        ∧ t.mem = { s.mem with ecOp := none, ecIn := [], ecStatus := 4 } ∧ (s.glb.faults.length < 1024 → Recorded t 0x94 sevError o.entry)
        ∧ FaultOnly { s with mem := t.mem } t)
      ∧ (∀ (how : EcEnd) (c : CasEnd), how = .transport ∨ how = .poison → ∃ t, exec (.ecOpDone how c) s = .next t
        ∧ t.mem = { s.mem with ecOp := none, ecIn := [], ecStatus := if how = .transport then 4 else 6 }
        ∧ (s.glb.faults.length < 1024 → Recorded t 0x94 sevError o.entry) ∧ FaultOnly { s with mem := t.mem } t)
      ∧ (∀ c : CasEnd, ecReady s o = false → exec (.ecOpDone .done c) s = .next s)
      ∧ (ecReady s o = true → o.written = ecStripes e →
        ((o.rebuild = false ∨ ecMyRank e ≠ o.rank) → ∀ c : CasEnd, ∃ t, exec (.ecOpDone .done c) s = .next t ∧ t.mem.ecOp = none ∧ t.mem.ecStatus = 0
          ∧ t.mem.cells = s.mem.cells ∧ t.glb.viewWords = s.glb.viewWords)
        ∧ (o.rebuild = true → ecMyRank e = o.rank →
          let h := rosterPort (tabGet 0 s.glb.rosterCfg 0)
          let w := viewOf s (ecGid e)
          (∀ c : CasEnd, c ≠ .won ∨ (epOf s h).attach ≠ .ready → ∃ t, exec (.ecOpDone .done c) s = .next t ∧ t.mem.ecOp = some o
            ∧ viewOf t (ecGid e) = w ∧ t.glb.views = s.glb.views)
          ∧ ((epOf s h).attach = .ready → ∃ t, exec (.ecOpDone .done .won) s = .next t ∧ t.mem.ecOp = none ∧ t.mem.ecStatus = 0
            ∧ viewOf t (ecGid e) = rebuiltView w o.rank ∧ t.glb.views = satAdd s.glb.views 1
            ∧ (∀ k, DlvRoom s h k → (epOf t h).sent = (epOf s h).sent ++ [dlvIn s h k
              { use := .host .gone, opcode := 0x43, addr := BitVec.ofNat 52 (rosterAt s 0 (8 * viewIndex (ecGid e))), len := 8, subop := 0x87, dtype := 2
                payload := leBytes 8 (rebuiltView w o.rank).toNat ++ leBytes 8 w.toNat }]))))))

/-! ## Collectives (R276-R302) -/

/-- COL_CHUNK frames, occurrences and aborts (R284, R285, R289, R291, R295, R298-R301): a frame whose instance its slot does not hold is counted
late; an occurrence releases CHUNKS ordinals at a spine; an XCHG is delivered to the destination rank by DLV_STOREs at RECV_ADDR and its offset, cut
at granules, or ends with REMOTE at once where the block is not READY; the last ACK ends its chunk, a FAULT aborts the instance, ABORT is acknowledged
and its acknowledgement ends the resends, which else end with a record; a DOWN is repeated and a descriptor that waits too long ends. Which
occurrence an ordinal belongs to (assumption 24), where a leaf's frames are taken and an XCHG ends (47), and that a dropped frame settles its
dedup entry (60) are the model's reading. -/
def Obligations.CollectiveFramesMoveInstances : Prop :=
  (∀ (s : State) (port : Nat) (f : Frame), Clocked s → port < 128 →
    let wb := f.wb
    let k := colSlotOf (fColId wb)
    let pt : Point := if port < 64 then .ep port else .rte
    (∀ c ck, (c, ck) ∈ [(Instr.up port (.given f), ckUp), (.part port (.given f), ckPart), (.down port (.given f), ckDown), (.xchg port (.given f), ckXchg),
        (.ack port (.given f), ckAck), (.colFault port (.given f), ckFault), (.abort port (.given f), ckAbort), (.abortAck port (.given f), ckAbortAck)] →
      fCkind wb = ck → frameHeld s wb = false → let u := modRel pt (fun r => { r with lateDisc := satAdd r.lateDisc 1 }) s
        exec c s = .next (if wbMcast wb then u else settleRequest pt wb u)
          ∧ u.col = s.col ∧ (settleRequest pt wb u).col = s.col ∧ (settleRequest pt wb u).swc = s.swc ∧ (settleRequest pt wb u).mem = s.mem)
    ∧ (frameHeld s wb = true → wbVary wb = false → wbMcast wb = false →
      let took := answer (.request pt wb false) 0 none [] s
      (∀ c r, fCkind wb = ckUp → (slotOf s k).state = .live → chunkAt (slotOf s k) (fOrd wb) = some c → upRank s (slotOf s k) wb = some r → inTurn s (slotOf s k) c r = true →
        exec (.up port (.given f)) s = .next (keepFixed s (colWork k (contribute k (fOrd wb) r (f.payload.take (wbLength wb)) took))))
      ∧ (∀ e, fCkind wb = ckPart → (slotOf s k).state = .live → isSpine s = true → ordEntry (slotOf s k) (fOrd wb) = some e →
        chunkAt (slotOf s k) (fOrd wb) = none → (slotOf s k).next ≤ fOrd wb → (slotOf s k).unproved = [] → partReady s f = true →
        (partLeaves s (partHdrOf f) (slotLeaf wb)).any (fun l => decide (l ≠ slotLeaf wb)) = true → ∃ t, exec (.part port (.given f)) s = .next t
          ∧ chunkAt (slotOf t k) (fOrd wb) = some { ordinal := fOrd wb, entry := e, hdr := some (partHdrOf f), redop := (wbSubop wb).toNat, dtype := (wbDtype wb).toNat
                                                    parts := [(slotLeaf wb, fFrag wb, (f.payload.take (wbLength wb)).drop 32)] }
          ∧ (∀ j, j ≠ k → slotOf t j = slotOf s j) ∧ t.swc = took.swc ∧ t.mem = s.mem)
      ∧ (∀ c d r, fCkind wb = ckDown → port < 64 → chunkAt (slotOf s k) (fOrd wb) = some c → (slotOf s k).first = some d → epRank (slotOf s k) port = some r →
        exec (.down port (.given f)) s = .next (keepFixed s (colWork k (deliverFrag k (fOrd wb) r (fFrag wb) (f.payload.take (wbLength wb)) (some wb) s))))
      ∧ (fCkind wb = ckXchg → let j := ordinalOfChunk (slotOf s k).map (planeIdx s) (fOrd wb)
        chunkAt (slotOf s k) j = none → j < (slotOf s k).cursor → (slotOf s k).state ≠ .aborted → exec (.xchg port (.given f)) s = .next took)
      ∧ (∀ (c : Chunk) (d : BitVec 512) (m : Member) (a i : Nat), fCkind wb = ckXchg →
        let x := slotOf s k
        let j := ordinalOfChunk x.map (planeIdx s) (fOrd wb)
        let kk := chunkOfOrdinal x.map (planeIdx s) j
        let n := grpSize (grpOf s (cGroup d))
        let dst := (receivers d n (fOrd wb)).headD 0
        let cuts := granCuts (cRecv m.raw + recvOff d n dst kk + 0 * 256) 3 (f.payload.take (wbLength wb))
        chunkAt x j = some c → x.first = some d → memberAt x dst = some m → m.binder = .ep a i → (port < 64 → epRank x port = some dst) →
        c.got.contains (dst, 0) = false → cuts ≠ [] →
        let got := modChunk k j (fun c => { c with got := c.got ++ [(dst, 0)] }) s
        ((epOf s a).attach = .ready → exec (.xchg port (.given f)) s = .next (keepFixed s (colWork k (pumpDlv a
          (modEp a (fun e => { e with dlvQueue := e.dlvQueue ++ cuts.map fun q =>
              { use := .chunk k j dst 0 (some wb), opcode := 0x42, addr := BitVec.ofNat 52 q.1, len := q.2.length, payload := q.2
                ring := ((descOf s a i).map (·.ring)).getD 64 } })
            (modChunk k j (fun c => { c with outst := tabMod 0 c.outst dst (· + cuts.length) }) got))))))
        ∧ ((epOf s a).attach ≠ .ready → ∃ u, exec (.xchg port (.given f)) s
            = .next (keepFixed s (colWork k (answer (.request (.ep a) wb false) 0x14 none [] u)))
          ∧ (let v := failRank k j dst 0x14 got
            u = v ∨ u = reportRank k j dst v)))
      ∧ (∀ c hd, fCkind wb = ckAck → chunkAt (slotOf s k) (fOrd wb) = some c → c.hdr = some hd → c.downSent = true →
        (∀ l ∈ memberLeaves s (phGroup hd), l ∈ c.leaves ∨ l = slotLeaf wb) → ∃ t, exec (.ack port (.given f)) s = .next t
          ∧ chunkAt (slotOf t k) (fOrd wb) = none ∧ (slotOf t k).chunksDone = satAdd (slotOf s k).chunksDone 1 ∧ (∀ j, j ≠ k → slotOf t j = slotOf s j) ∧ t.swc = took.swc)
      ∧ (fCkind wb = ckFault → isSpine s = true → (slotOf s k).state = .live → (slotOf s k).bound = [] → ∃ t, exec (.colFault port (.given f)) s = .next t
        ∧ (slotOf t k).state = .aborted ∧ (slotOf t k).chunks = [] ∧ t.col.aborts = satAdd s.col.aborts 1)
      ∧ (fCkind wb = ckAbort → (slotOf s k).state = .aborted → exec (.abort port (.given f)) s = .next (engineSend k ckAbortAck (wbSrc wb) 0 took))
      ∧ (fCkind wb = ckAbort → (slotOf s k).state ≠ .aborted → (slotOf s k).bound = [] → ∃ t, exec (.abort port (.given f)) s = .next t
        ∧ (slotOf t k).state = .aborted ∧ (slotOf t k).chunks = [])
      ∧ (fCkind wb = ckAbortAck → exec (.abortAck port (.given f)) s
        = .next (modSlot k (fun x => { x with aborts := tabSet 0 x.aborts (wbSrc wb).toNat 0 }) took))))
  ∧ (∀ (s : State) (k j : Nat) (peer : BitVec 12), Clocked s → k < 2048 →
    let n := tabGet 0 (slotOf s k).aborts peer.toNat
    let old := s.col.oldAborts.filter fun o => decide (o.slot = k) && decide (o.peer = peer)
    (old = [] → 0 < n → n ≤ retxMax s.rte.rel.retxCfg → exec (.abortResend k peer) s = .next (sendAbort k peer s))
    ∧ (∀ o, old = [o] → n = 0 → ∃ t, exec (.abortResend k peer) s = .next t ∧ (∀ x, slotOf t x = slotOf s x)
      ∧ (o.sends ≤ retxMax s.rte.rel.retxCfg → { o with sends := o.sends + 1 } ∈ t.col.oldAborts)
      ∧ (retxMax s.rte.rel.retxCfg < o.sends → ¬ o ∈ t.col.oldAborts ∧ (s.glb.faults.length < 1024 → Recorded t 0x54 sevError k)
        ∧ FaultOnly { s with col := { s.col with oldAborts := t.col.oldAborts } } t))
    ∧ (old = [] → 0 < n → retxMax s.rte.rel.retxCfg < n → ∃ t, exec (.abortResend k peer) s = .next t ∧ tabGet 0 (slotOf t k).aborts peer.toNat = 0
      ∧ (s.glb.faults.length < 1024 → Recorded t 0x54 sevError k) ∧ FaultOnly { s with col := { s.col with slots := t.col.slots } } t)
    ∧ (∀ c d, chunkAt (slotOf s k) j = some c → c.downSent = true → c.downTo = none → entryOver s c.entry = false → singleStage s = true →
      (slotOf s k).first = some d → 0 < c.down.length → c.down.length ≤ 256 → ∃ t g mask, exec (.downRepeat k j) s = .next t ∧ g.payload = pad32 c.down
        ∧ tabGet [] t.swc.inbound (124 + j % 2) = tabGet [] s.swc.inbound (124 + j % 2) ++ [(g, mask)]
        ∧ t = { s with swc := { s.swc with inbound := t.swc.inbound } }))
  ∧ (∀ (s : State) (e : Nat) (x : BitVec 128), Clocked s → entryNow s e = some x → entKind x = kindCol → ¬ e ∈ s.tick.started → mayStart s = true →
    let k := colSlotOf (entColId x)
    slotHolds (slotOf s k) (entColId x) (entEpoch x) = true → (slotOf s k).state = .live → isSpine s = true → (slotOf s k).first = none →
    exec (.colOccurrenceStart e) s = .next (modSlot k (fun y => { y with cursor := y.cursor + entChunks x, released := y.released ++ [(e, y.cursor)] })
      (modTick (fun t => { t with started := t.started ++ [e] }) s)))
  ∧ (∀ (s : State) (n i : Nat) (m : Member) (d : Desc), Clocked s → (s.col.held.find? fun m => decide (m.binder = .ep n i)) = some m → descOf s n i = some d →
    ∃ t, exec (.colHoldTimeout (.ep n i)) s = .next t ∧ descOf t n i = none ∧ t.col.held = s.col.held.filter (fun m => decide (m.binder ≠ .ep n i))
      ∧ EpOnly (modCol (fun c => { c with held := t.col.held }) s) t n
      ∧ (∀ k, DlvRoom s n k → (epOf t n).sent = (epOf s n).sent ++ [dlvIn s n k { use := .host (.cpl d.ring d.index (dNotify d.raw)), opcode := 0x48, addr := BitVec.ofNat 52 ((ringOf s n d.ring).cqBase.toNat + ringIdx (ringOf s n d.ring) d.index * 16), len := 16, payload := cplPayload s (maxStatus d.status 0x11) m.bytes d.index }]))

/-! ## Compute arrays (R306-R342) -/

/-- Array runs and store errors (R325-R329, R334-R336, R340, R425): an entry whose program can start starts its run, one whose program is not
resident is counted late (assumption 54). The next stream access of a program runs its compute up to its issue cycle and takes the earliest
free slots of its channel: READ reads its granule, or misses where they come too late; WRITE and REDUCE apply the two store rows, read one
cycle apart, to the granule's lines, and FPUT sends them, with the poison of marked words (assumption 64); FGET asks for its granule. A run that
is quiet ends with its record and the program's next RUN, one that has halted too; a run at its entry's END is halted with LATE, after its
cycles up to END, or where it is throttled after none more (assumption 54); a slot error fails the array. -/
def Obligations.ArrayRunsStartEndAndHalt : Prop :=
  (∀ (s : State) (e : Nat) (x : BitVec 128), Clocked s → entryNow s e = some x → entKind x = kindArray → ¬ e ∈ s.tick.started → mayStart s = true →
    let a := entArray x
    let prog := BitVec.ofNat 16 (entProg x)
    let u := modTick (fun t => { t with started := t.started ++ [e] }) s
    (startCause s a prog = 0 → exec (.arrayEntryStart e) s = .next (modArray a (fun y => { y with
      run := some { prog := prog, service := false, entry := e, startCyc := entStart x, tick := s.tick.now, step := s.tick.step, cut := decide (0 < appliedLevel s) } }) u))
    ∧ (residentProg (arrOf s a) prog = none → ∃ t, exec (.arrayEntryStart e) s = .next t
      ∧ t.tick = { s.tick with started := s.tick.started ++ [e], lateCnt := satAdd s.tick.lateCnt 1, repro := t.tick.repro } ∧ bitAt t.tick.repro 7 = true
      ∧ (s.glb.faults.length < 1024 → Recorded t 0x47 sevInfo 3) ∧ FaultOnly { s with tick := t.tick } t)
    ∧ (startCause s a prog ≠ 0 → residentProg (arrOf s a) prog ≠ none → ∃ t, exec (.arrayEntryStart e) s = .next t
      ∧ t.tick.lateCnt = satAdd s.tick.lateCnt 1 ∧ bitAt t.tick.repro 7 = true ∧ (s.glb.faults.length < 512 → Recorded t 0x47 sevInfo 3)
      ∧ (arrOf t a).run = (arrOf s a).run))
  ∧ (∀ (s : State) (a : Nat) (r : Run) (p : Prog), Clocked s → a < 864 → (arrOf s a).run = some r → residentProg (arrOf s a) r.prog = some p →
    (∀ k ecc, k < 16 → mayIssue s a k p r = true →
      let i := tabGet 0 r.next k
      let y := p.streams.getD k 0
      let off := (stTarget y i).toNat
      let scheduled := decide (r.service = false ∧ appliedLevel s = 0)
      let u := modRun a (fun q => { q with next := tabMod 0 q.next k (· + 1) }) (advanceRun a (stIssue y i) s)
      let w := if scheduled then takeSlots (channelOf off) (r.startCyc + stIssue y i) u else (none, u)
      let inTime := w.1.any fun x => decide (4 * (x + 3) / 3 < r.startCyc + stIssue y i + 80)
      let rows (v : State) : State × List Byte × List Nat :=
        let z := advanceRun a (stIssue y i + 1) v
        let marked := ((granuleOf (arrOf v a) (stGranule y i)).2.filter (· < 32)) ++ (granuleOf (arrOf z a) (stGranule y i)).2.filter (32 ≤ ·)
        (if marked = [] then z else storePoisoned a z,
          (granuleOf (arrOf v a) (stGranule y i)).1.take 128 ++ (granuleOf (arrOf z a) (stGranule y i)).1.drop 128, marked)
      (stKind y = 1 → exec (.arrayStreamAccess a k ecc) s = .next (keepFixed s
        (streamRead a (stIssue y i) (stGranule y i) off w.1 (scheduled && !inTime) (noteErrs (linesOf off 256) ecc w.2))))
      ∧ ((stKind y = 2 ∨ stKind y = 3) → ∃ v, v = { noteErrs (linesOf off 256) ecc w.2 with arr := v.arr }
        ∧ (∀ x, w.1 = some x → v.arr = { w.2.arr with writeSlots := tabMod [] w.2.arr.writeSlots (channelOf off) (· ++ [x]) })
        ∧ (w.1 = none → v.arr = w.2.arr) ∧ exec (.arrayStreamAccess a k ecc) s = .next (keepFixed s (streamWrite y off (rows v).2.1 (rows v).2.2 (rows v).1)))
      ∧ (stKind y = 4 → exec (.arrayStreamAccess a k ecc) s = .next (keepFixed s (streamPut a k i y (rows u).2.1 (rows u).2.2 (rows u).1)))
      ∧ (stKind y = 5 → exec (.arrayStreamAccess a k ecc) s = .next (keepFixed s (streamGet a k i y u))))
    ∧ (callWaits s a = false → stepOn s a = false → r.halted = false → runQuiet p r = true → ∃ t, exec (.arrayRunEnd a) s = .next t
      ∧ (arrOf t a).run = none ∧ (arrOf t a).lastProg = r.prog
      ∧ ((residentProg (arrOf t a) r.prog).map (·.run)) = some (p.run + 1) ∧ (∀ b, b ≠ a → arrOf t b = arrOf s b))
    ∧ (callWaits s a = false → stepOn s a = false → r.halted = true → runQuiet p r = true → ∃ t, exec (.arrayRunEnd a) s = .next t ∧ (arrOf t a).run = none ∧ (arrOf t a).lastProg = r.prog
      ∧ ((residentProg (arrOf t a) r.prog).map (·.run)) = some (p.run + 1) ∧ (arrOf t a).store = (arrOf s a).store ∧ (∀ b, b ≠ a → arrOf t b = arrOf s b))
    ∧ (r.service = false → r.halted = false → appliedLevel s = 0 → ∃ t q,
      let v := advanceRun a (min (entEnd (s.tick.active.getD r.entry 0) - r.startCyc) (runHorizon p r)) s
      (arrOf v a).run = some q ∧ exec (.arrayRunHalt a) s = .next t
      ∧ (arrOf t a).run = some (runStatus 0x11 1 { q with halted := true, fills := [], open_ := q.open_ - q.flagged.length, flagged := [] })
      ∧ (arrOf t a).store = (arrOf v a).store
      ∧ t.tick.lateCnt = satAdd s.tick.lateCnt 1 ∧ bitAt t.tick.repro 7 = true ∧ (s.glb.faults.length < 512 → Recorded t 0x47 sevInfo 3)
      ∧ (∀ b, b ≠ a → arrOf t b = arrOf s b) ∧ t.mem = s.mem)
    ∧ (r.service = false → r.halted = false → appliedLevel s ≠ 0 → ∃ t, exec (.arrayRunHalt a) s = .next t
      ∧ (arrOf t a).run = some (runStatus 0x11 1 { r with halted := true, fills := [], open_ := r.open_ - r.flagged.length, flagged := [] })
      ∧ t.tick.lateCnt = satAdd s.tick.lateCnt 1 ∧ bitAt t.tick.repro 7 = true ∧ (s.glb.faults.length < 1024 → Recorded t 0x47 sevInfo 3)
      ∧ (∀ b, b ≠ a → arrOf t b = arrOf s b) ∧ t.mem = s.mem))
  ∧ (∀ (s : State) (a : Nat), Clocked s → a < 864 →
    (∀ word : Nat, word < 131072 →
      let u := modArr (fun u => { u with uncorr := satAdd u.uncorr 1 }) (modArray a (fun x => { x with badWords := x.badWords.filter (· ≠ word) ++ [word] }) s)
      exec (.arrayStoreEcc a .corrected) s = .next (modArr (fun u => { u with corr := satAdd u.corr 1 }) s)
      ∧ ((arrOf s a).run = none → ∃ t, exec (.arrayStoreEcc a (.uncorrectable word)) s = .next t ∧ FaultOnly u t
        ∧ (s.glb.faults.length < 1024 → Recorded t 0x62 sevError a))
      ∧ (∀ r, (arrOf s a).run = some r → ∃ t, exec (.arrayStoreEcc a (.uncorrectable word)) s = .next t ∧ (arrOf t a).run = some (runStatus 0x15 6 r)
        ∧ word ∈ (arrOf t a).badWords ∧ bitAt t.tick.repro 0 = true ∧ (∀ b, b ≠ a → arrOf t b = arrOf s b)
        ∧ FaultOnly { u with arr := t.arr, tick := { s.tick with repro := t.tick.repro } } t
        ∧ (s.glb.faults.length < 1024 → Recorded t 0x62 sevError a)))
    ∧ ((arrOf s a).run = none → s.svc.running = [] → (∀ k, k < 16 → eKind (svcEntry s k) = 0) →
      ∃ t, exec (.arraySlotEcc a) s = .next t ∧ (arrOf t a).failed = true ∧ (arrOf t a).dir = []
        ∧ (arrOf t a).run = none ∧ (∀ b, b ≠ a → arrOf t b = arrOf s b) ∧ (s.glb.faults.length < 1024 → Recorded t 0x63 sevError a)
        ∧ FaultOnly { s with arr := t.arr } t))

/-! ## Services (R343-R370) -/

/-- Tensor-pool calls (R349-R361) that no check refuses, at an ACTIVE service: LOOKUP gives the handle of the key's slot, PUT_BEGIN opens a slot,
PUT_DATA writes into it, PUT_COMMIT gives it to its key in place of an earlier one, PUT_ABORT, DELETE and the timeout free it, READ and
POOLED answer data, PUT_DATA onto poison answers POISON; a missing key, a stale handle and a taken key have their SCODEs. What a call answers is
what the spec gives its operation, whatever program is resident (assumption 7), the slot that PUT_BEGIN takes is the lowest FREE one (assumption
34), and the order of a call's checks is assumption 55. -/
def Obligations.TensorPoolCallsDoAsTheySay : Prop :=
  (∀ (s : State) (c : SvcCallIn), Clocked s → callRefused c s = none → (svcOf s c.svc).state = .active →
    let k := c.svc
    let p := c.payload
    let say (code handle : Nat) (u : State) : Host.Outcome State Fault Refusal := .next (keepFixed s (replyCall k c.back 0 code 0 handle u))
    (cSop p = sopGet → cKey p ≠ 0 → fieldsOk p = true →
      (keySlot s k (cKey p) = none → exec (.lookup (.given c)) s = say scMiss 0 s)
      ∧ (∀ i, keySlot s k (cKey p) = some i → exec (.lookup (.given c)) s = say scOk (poolHandle s k i) (modPoolSlot k i (fun x => { x with ref := true }) s)))
    ∧ (cSop p = sopRead → readFields p = true → fieldsOk p = true →
      (handleSlot s k (cHandle p) = none → exec (.tpoolRead (.given c)) s = say scStale 0 s)
      ∧ (∀ i, handleSlot s k (cHandle p) = some i → (poolSlot s k i).state = .committed → cBoff p + cDlen p ≤ blockSize s k →
        MemServes s → (∀ l ∈ linesOf (slotAddr s k i + cBoff p) (cDlen p), (lineNow s l).2 = false ∧ tabGet 0 s.mem.errs l = 0 ∧ (chanOf s (lineChan l)).comb.length ≤ 27) →
        ∃ u, exec (.tpoolRead (.given c)) s = .next (answer c.back 0 (some (lineParts s (slotAddr s k i + cBoff p) (cDlen p))) [] (countCall k false u))
          ∧ u = { s with mem := { s.mem with channels := u.mem.channels } } ∧ ∀ l, lineNow u l = lineNow s l))
    ∧ (cSop p = sopPut → cKey p ≠ 0 → fieldsOk p = true →
      ((keySlot s k (cKey p)).isSome = true → cFlags p / 2 % 2 = 0 → exec (.putBegin (.given c)) s = say scExists 0 s)
      ∧ (∀ i, (keySlot s k (cKey p) = none ∨ cFlags p / 2 % 2 = 1) → firstFreeSlot (svcOf s k).slots (eBlocks (svcEntry s k)) 0 = some i →
        ∃ t, exec (.putBegin (.given c)) s = .next t
          ∧ poolSlot t k i = { poolSlot s k i with state := .openPut, pin := decide (cFlags p % 2 = 1), ref := false, replace := decide (cFlags p / 2 % 2 = 1)
                                                   key := cKey p, sawCommit := false }
          ∧ (∀ j, j ≠ i → poolSlot t k j = poolSlot s k j) ∧ t.mem = (dieWrite (slotAddr s k i) (zeros (blockSize s k)) s).2.mem))
    ∧ (cSop p = sopPutData → 0 < cDlen p → cDlen p ≤ 224 → cBoff p % 32 = 0 → fieldsOk p = true → ∀ i, openSlot s k p = .inl i → cBoff p + cDlen p ≤ blockSize s k →
      ∀ bad u, dieWrite (slotAddr s k i + cBoff p) ((cInline p).take (cDlen p)) s = (bad, u) → exec (.putData (.given c)) s
        = (if bad then .next (keepFixed s (callPoison k (replyCall k c.back 0x15 scOk 0 0 u))) else say scOk 0 u))
    ∧ (cSop p = sopCommit → fieldsOk p = true → ∀ i, openSlot s k p = .inl i → ((poolSlot s k i).replace = true ∨ (poolSlot s k i).sawCommit = false) → keySlot s k (poolSlot s k i).key ≠ some i →
      ∃ t, exec (.putCommit (.given c)) s = .next t ∧ (poolSlot t k i).state = .committed ∧ (poolSlot t k i).key = (poolSlot s k i).key
        ∧ (∀ j, keySlot s k (poolSlot s k i).key = some j → poolSlot t k j = { gen := (poolSlot s k j).gen + 1 }) ∧ t.mem = s.mem)
    ∧ (fieldsOk p = true → ∀ i, openSlot s k p = .inl i → cSop p = sopAbort → exec (.putAbort (.given c)) s = say scOk 0 (releaseSlot k i s))
    ∧ (cSop p = sopDelete → cKey p ≠ 0 → fieldsOk p = true →
      (∀ i, keySlot s k (cKey p) = some i → exec (.delete (.given c)) s = say scOk 0 (releaseSlot k i s))
      ∧ (keySlot s k (cKey p) = none → exec (.delete (.given c)) s = say scMiss 0 s))
    ∧ (cSop p = sopPooled → readFields p = true → (cOdtype p = 4 ∨ cOdtype p = 5) →
      let missing := ((pooledList p).filter fun e => (keySlot s k e.1).isNone).length
      (0 < missing → exec (.pooled (.given c)) s = .next (keepFixed s (replyCall k c.back 0 scMiss missing 0 s)))
      ∧ (missing = 0 → let o := elemSize (cOdtype p)
        let rd := eRdtype (svcEntry s k)
        cBoff p / o + cDlen p / o ≤ blockSize s k / elemSize rd →
        ∀ ds u, pooledRows k (cBoff p / o * elemSize rd) (cDlen p / o * elemSize rd) ((pooledList p).filterMap fun e => (keySlot s k e.1).map fun i => (i, e.2)) s = ((ds, false), u) →
          exec (.pooled (.given c)) s = .next (keepFixed s (answer c.back 0 (some ((List.range (cDlen p / o)).flatMap (pooledElem rd (cOdtype p) ds))) [] (countCall k false u))))))
  ∧ (∀ (s : State) (k i : Nat), Clocked s → k < 16 → svcKind s k = 1 → (poolSlot s k i).state = .openPut →
    exec (.putTimeout k i) s = .next (releaseSlot k i s))

/-- Dispatch and optimizer steps (R347, R348, R365, R366): the first call that can start takes a free array, one that lost its array first
(assumption 35), and a call that waits 1 ms is recorded; a step asked for starts, on a free array where there is one (assumption 7), waits as the
one pending, or is refused as BUSY, a trigger to a service that is not ACTIVE has its record (assumption 35), and at the end of a step the pending
one runs. -/
def Obligations.CallsAreDispatchedAndStepsRun : Prop :=
  (∀ (s : State) (c : SvcCallIn) (rest : List SvcCallIn) (a : Nat), Clocked s → s.svc.queue = c :: rest → (∀ x ∈ s.svc.running, x.2.isSome = true) →
    s.svc.queue.length < 4096 → callRefused c s = none → stepWaits s c.svc = false → freeArray s c.svc = some a →
    exec .svcDispatch s = .next (svcRun c.svc a (modSvc (fun u => { u with queue := rest, running := u.running ++ [(c, some a)] }) s)))
  ∧ (∀ (s : State) (c : SvcCallIn) (a : Nat), Clocked s → lostCall s = some (c, a) →
    exec .svcDispatch s = .next (svcRun c.svc a (modSvc (fun u => { u with running := u.running.replace (c, none) (c, some a) }) s)))
  ∧ (∀ (s : State) (k : Nat), Clocked s → k < 16 → (∃ c ∈ s.svc.queue, c.svc = k) →
    ∃ t, exec (.svcStarve k) s = .next t ∧ FaultOnly s t ∧ (s.glb.faults.length < 1024 → Recorded t 0x71 sevWarn k))
  ∧ (∀ (s : State) (c : SvcCallIn), Clocked s → callRefused c s = none → (svcOf s c.svc).state = .active → cSop c.payload = sopOpt → fieldsOk c.payload = true →
    let v := svcOf s c.svc
    (v.stepRunning = false → exec (.optStep (.given c)) s
      = .next (keepFixed s (replyCall c.svc c.back 0 scOk 0 0 (stepBegin c.svc none s))))
    ∧ (v.stepRunning = true → v.stepPending = false → exec (.optStep (.given c)) s
      = .next (keepFixed s (replyCall c.svc c.back 0 scOk 0 0 (modSvcN c.svc (fun v => { v with stepPending := true }) s))))
    ∧ (v.stepRunning = true → v.stepPending = true → exec (.optStep (.given c)) s = .next (keepFixed s (replyCall c.svc c.back 0 scBusy 0 0 s))))
  ∧ (∀ (s : State) (k : Nat) (b : Back), Clocked s → k < 16 → svcKind s k = 2 →
    ((svcOf s k).state = .active → (svcOf s k).stepRunning = false → exec (.optTrigger k (.given b)) s
      = .next (keepFixed s (answer b 0 none [] (stepBegin k none s))))
    ∧ ((svcOf s k).state = .active → (svcOf s k).stepRunning = true → (svcOf s k).stepPending = false → exec (.optTrigger k (.given b)) s
      = .next (keepFixed s (answer b 0 none [] (modSvcN k (fun v => { v with stepPending := true }) s))))
    ∧ (((svcOf s k).state ≠ .active ∨ ((svcOf s k).stepRunning = true ∧ (svcOf s k).stepPending = true)) → ∃ u, exec (.optTrigger k (.given b)) s = .next (keepFixed s (answer b 0 none [] u)) ∧ FaultOnly s u
      ∧ (s.glb.faults.length < 1024 → Recorded u 0x73 sevWarn k)))
  ∧ (∀ (s : State) (k : Nat), Clocked s → k < 16 → (svcOf s k).stepRunning = true →
    (∀ a, (svcOf s k).stepArray = some a → stepRunQuiet s a = true) →
    let u := modSvcN k (fun v => { v with stepRunning := false, stepBlock := [], stepBad := false, stepArray := none }) (stepRun k s)
    let w := match (svcOf s k).stepArray with | some a => runOver a u | none => u
    ((svcOf w k).stepPending = true → exec (.optStepDone k) s = .next (keepFixed s (stepBegin k none (modSvcN k (fun v => { v with stepPending := false }) w))))
    ∧ ((svcOf w k).stepPending = false → exec (.optStepDone k) s = .next (keepFixed s w) ∧ (svcOf w k).stepRunning = false))

/-! ## The block as a whole -/

/-- A step runs the command at the front of the queue on the state with the rest of the queue, and idles on an empty one (assumption 2). -/
def Obligations.StepRunsFrontCommand : Prop :=
  ∀ (s : State) (c : Instr) (rest : List Instr), step { s with pending := c :: rest } = exec c { s with pending := rest }
    ∧ step { s with pending := [] } = .next { s with pending := [] }

/-- Reset values that the spec prints (R4, R32, R36, R83, R86, R129-R131, R138, R164, R177, R207, R222, R223, R228, R302, R382, R393, R402,
R421, R428, R449, R512), as the registers show them at State.reset. -/
def Obligations.ResetRegisterValues : Prop :=
  let reads (r : Reg) (v : W32) : Prop := peekReg State.reset r = v
  reads .deviceId 0xA7D02411 ∧ reads .fnid 0x007FFFFF ∧ reads .topology 0 ∧ reads .chainStat 0x7FF ∧ reads .fltCtl 0x20000000 ∧ reads .membCfg 0x000401F4
    ∧ (∀ n, n < 64 → reads (.srcFnid n) 0xFFF ∧ reads (.timeoutCfg n) 0x03E800C8 ∧ reads (.ctxStat n) 0x80040000 ∧ reads (.cairnCfg n) 500
      ∧ reads (.retxCfg (.ep n)) 0x08514032 ∧ reads (.winCtl n) 0 ∧ reads (.attachStat n) 0 ∧ reads (.portStat n) 0xFFF)
    ∧ reads (.retxCfg .rte) 0x08514032 ∧ reads (.trunkEn 0) 0xFFFFFFFF ∧ reads (.trunkEn 1) 0xFFFFFFFF ∧ reads .cmapCtl 1000 ∧ reads .planeCtl 0
    ∧ (∀ c, c < 4 → reads (.classCfg c) (if c = 1 then 0xC0000 else if c = 3 then 0x20000 else 0x110000)
      ∧ reads (.thresh c) (if c = 3 then 0x06214842 else 0x08218842) ∧ reads (.portLimit c) 0x01000080)
    ∧ reads .auditCtl 0x80000064 ∧ reads .mirrorCtl 0x00140000
    ∧ reads .syncCfg 0x400003E8 ∧ reads .syncStat 0x1FFF0000 ∧ reads (.actCfg 0) 15625 ∧ reads (.actCfg 1) 448 ∧ reads .lateStat 0 ∧ reads .reproStat 0
    ∧ reads .colCfg 0x40000000 ∧ reads (.slotStat 1) 0xFFF ∧ reads (.slotStat 2) 0xFFF ∧ reads (.slotStat 3) 0xFFF00000
    ∧ reads .scrubCtl 0x80000018 ∧ (∀ k, k < 24 → reads (.stackStat k) 0x10000000) ∧ reads .ecCfg 50
    ∧ reads .idleCfg 0x08646464 ∧ reads .capCtl 0xC0A00578 ∧ reads .capStat 0x578 ∧ reads .portQual 0x04000010 ∧ reads .roleCfg 600
    ∧ State.reset.pending = [] ∧ State.reset.mem.cells = [] ∧ State.reset.mgt.sessions = []

/-- What every step keeps holds after reset. -/
def Obligations.ResetHasInv : Prop := Inv State.reset

/-- From every state in which each group has 64 arrays (R16) and the queue holds commands that name units that exist, a step answers a next
state, which is such a state again: no step of a well-formed queue faults or is refused. Every command that names units that exist, but for
a test access instruction other than BYPASS and IDCODE, completes in every such state, whatever the queue, and leaves the queue alone. -/
def Obligations.StepKeepsInv : Prop :=
  (∀ s : State, Inv s → ∃ t, step s = .next t ∧ Inv t)
  ∧ (∀ (s : State) (c : Instr), mapOk s.fuses.map = true → Instr.answered c = true →
    ∃ t, exec c s = .next t ∧ mapOk t.fuses.map = true ∧ t.pending = s.pending)

/-- Fuses burn one way (R480): whatever a command does, SVN_FUSE never falls, no bit of the disabled-unit map rises, a trim that is not 0
stays, and the other fuses stay; only FUSE and FW_CONFIRM change any. -/
def Obligations.FusesOnlyBurn : Prop :=
  ∀ (s t : State) (c : Instr), exec c s = .next t →
    s.fuses.svn ≤ t.fuses.svn ∧ (∀ i, i < 864 → bitAt t.fuses.map i = true → bitAt s.fuses.map i = true)
    ∧ (∀ k, tabGet 0 s.fuses.trims k ≠ 0 → tabGet 0 t.fuses.trims k = tabGet 0 s.fuses.trims k)
    ∧ t.fuses.idKey = s.fuses.idKey ∧ t.fuses.memKey = s.fuses.memKey ∧ t.fuses.vendorKey = s.fuses.vendorKey ∧ t.fuses.testLock = s.fuses.testLock
    ∧ t.fuses.mac = s.fuses.mac ∧ t.fuses.idPub = s.fuses.idPub ∧ t.fuses.makers = s.fuses.makers
    ∧ ((∀ i id item v, c ≠ .fuse i id item v) → (∀ i, c ≠ .fwConfirm i) → t.fuses = s.fuses)

/-- A command that names a unit that does not exist (R14-R18) is refused by name, whatever the state (assumption 9). -/
def Obligations.UnitsThatDoNotExistAreRefused : Prop :=
  ∀ (s : State) (c : Instr), c.wf = false → ∃ name, exec c s = .refused (.noSuchUnit name)

/-- The plane hash (R58) and the channel hash (R63): the plane of a fabric address, the same for every byte of a line; the channel and local
address of an offset and its memory node port; each aligned run of 384 granules on 384 distinct channels; and the inverse: every local address of
every channel is that of one offset. -/
def Obligations.AddressesHavePlanesAndChannels : Prop :=
  (∀ (s : State) (fnid : BitVec 12) (off : BitVec 52),
    let v : BitVec 58 := (fnid.setWidth 58 <<< 46) ||| (off.extractLsb' 6 46).setWidth 58
    let h : BitVec 6 := (List.range 10).foldl (fun h k => h ^^^ (v >>> (6 * k)).setWidth 6) 0
    (fnid.getLsbD 11 = true → planeAt s fnid off.toNat = (fnid.extractLsb' 7 4).toNat)
      ∧ (fnid.getLsbD 11 = false → planeAt s fnid off.toNat = (s.rte.planeMap.extractLsb' (4 * h.toNat) 4).toNat)
      ∧ (∀ k : Nat, k < 64 → planeAt s fnid (off.toNat / 64 * 64 + k) = planeAt s fnid off.toNat))
  ∧ (∀ off : Nat, off < stackedSize →
    let q := off / 256 / 384
    let f := (q % 2 ^ 9) ^^^ (q / 2 ^ 9 % 2 ^ 9) ^^^ (q / 2 ^ 18 % 2 ^ 5)
    channelOf off = (off / 256 % 384 + f % 384) % 384 ∧ localOf off = q * 256 + off % 256 ∧ q < 2 ^ 23 ∧ localOf off < 6291456 * 256
      ∧ nodePortOf off = 64 + 2 * (channelOf off / 16) + channelOf off % 16 % 2 ∧ offOfLocal (channelOf off) (localOf off) = off)
  ∧ (∀ run i j : Nat, i < 384 → j < 384 → channelOf ((384 * run + i) * 256) = channelOf ((384 * run + j) * 256) → i = j)
  ∧ (∀ c loc : Nat, c < 384 → loc < 6291456 * 256 → offOfLocal c loc < stackedSize ∧ channelOf (offOfLocal c loc) = c ∧ localOf (offOfLocal c loc) = loc)

/-- Sequence numbers (R154): the fields of SEQ, COUNT 0 at the start of a generation, one more with each new frame, the same SEQ in a frame
sent again, and the comparisons of counts and generations. -/
def Obligations.SequenceNumbers : Prop :=
  (∀ q : BitVec 24, (seqGen q).toNat = q.toNat / 2 ^ 20 ∧ (seqCount q).toNat = q.toNat % 2 ^ 20 ∧ mkSeq (seqGen q) (seqCount q) = q)
  ∧ (∀ a b : BitVec 20, countPrecedes a b = true ↔ 1 ≤ (b.toNat + 2 ^ 20 - a.toNat) % 2 ^ 20 ∧ (b.toNat + 2 ^ 20 - a.toNat) % 2 ^ 20 ≤ 2 ^ 19 - 1)
  ∧ (∀ g h : BitVec 4, (genNewer g h = true ↔ 1 ≤ (g.toNat + 16 - h.toNat) % 16 ∧ (g.toNat + 16 - h.toNat) % 16 ≤ 7)
    ∧ (genOlder g h = true ↔ 8 ≤ (g.toNat + 16 - h.toNat) % 16))
  ∧ (∀ (s : State) (p : Point) (f : NewFrame) (i : Nat), ctxHead (relOf s p) = some i →
    let key := seriesKey (addrFnid f.addr) (newKind f)
    let x := tabGet {} (relOf s p).series key
    let t := sendNew p f s
    Issues s t p i f ∧ tabGet {} (relOf t p).series key = { x with count := x.count + 1 }
      ∧ (f.length ≤ 256 → f.flags < 256 → wbSeq (ctxOf t p i).frame.wb = mkSeq x.gen x.count))
  ∧ (∀ (s : State) (p : Point) (key : Nat), (tabGet {} (relOf (bumpSeries p key s) p).series key).count = 0
    ∧ (tabGet {} (relOf (bumpSeries p key s) p).series key).gen = (tabGet {} (relOf s p).series key).gen + 1)
  ∧ (∀ (p : Point) (key : Nat), (tabGet {} (relOf State.reset p).series key).count = 0)
  ∧ (∀ f : Frame, wbSeq (resendOf f).wb = wbSeq f.wb)

/-- Integer and bit-pattern operations (R248): ADD wraps, MIN and MAX compare as the type says, AND, OR, XOR and SWAP act on bits, and CAS compares
patterns. -/
def Obligations.IntegerOperations : Prop :=
  ∀ (dt old x cmp : Nat), dt < 4 →
    let n := 8 * elemSize dt
    old < 2 ^ n → x < 2 ^ n →
    n = (if dt = 0 ∨ dt = 1 then 32 else 64)
    ∧ elemOp 0 dt old x cmp = (old + x) % 2 ^ n
    ∧ elemOp 1 dt old x cmp = old &&& x ∧ elemOp 2 dt old x cmp = old ||| x ∧ elemOp 3 dt old x cmp = old ^^^ x ∧ elemOp 6 dt old x cmp = x
    ∧ elemOp 7 dt old x cmp = (if old = cmp then x else old)
    ∧ ((dt = 0 ∨ dt = 2) → elemOp 4 dt old x cmp = min old x ∧ elemOp 5 dt old x cmp = max old x)
    ∧ ((dt = 1 ∨ dt = 3) → elemOp 4 dt old x cmp = (if (BitVec.ofNat n x).slt (BitVec.ofNat n old) then x else old)
      ∧ elemOp 5 dt old x cmp = (if (BitVec.ofNat n old).slt (BitVec.ofNat n x) then x else old))
end

