-- ==== Sys2Proof/Laws/Tab.lean ====
section
/-! SUPPORT. Sparse tables: what a read after a write gives, and that writes keep the canonical form. -/

namespace Sys2Proof.Machine

open Sys2Proof

variable {α : Type}

/-! ## Reading after writing -/

theorem tabGet_put_same (d x : α) (t : Tab α) (k : Nat) : tabGet d (tabPut t k x) k = x := by
  induction t with
  | nil => simp [tabPut, tabGet]
  | cons e t ih =>
    obtain ⟨i, v⟩ := e
    simp only [tabPut]
    split
    · simp [tabGet]
    · split
      · simp [tabGet]
      · rename_i hne; simpa [tabGet, hne] using ih

theorem tabGet_put_other (d x : α) (t : Tab α) {k j : Nat} (h : j ≠ k) : tabGet d (tabPut t k x) j = tabGet d t j := by
  induction t with
  | nil => simp [tabPut, tabGet, h]
  | cons e t ih =>
    obtain ⟨i, v⟩ := e
    simp only [tabPut]
    split
    · simp [tabGet, h]
    · split
      · rename_i hk; subst hk; simp [tabGet, h]
      · simp [tabGet, ih]

theorem tabGet_del_same (d : α) (t : Tab α) (k : Nat) : tabGet d (tabDel t k) k = d := by
  induction t with
  | nil => rfl
  | cons e t ih =>
    obtain ⟨i, v⟩ := e
    by_cases hi : i = k
    · simpa [tabDel, hi] using ih
    · simpa [tabDel, hi, tabGet, Ne.symm hi] using ih

theorem tabGet_del_other (d : α) (t : Tab α) {k j : Nat} (h : j ≠ k) : tabGet d (tabDel t k) j = tabGet d t j := by
  induction t with
  | nil => rfl
  | cons e t ih =>
    obtain ⟨i, v⟩ := e
    by_cases hi : i = k
    · subst hi; simpa [tabDel, tabGet, h] using ih
    · have ih' : tabGet d (List.filter (fun e => decide (e.1 ≠ k)) t) j = tabGet d t j := ih
      by_cases hj : j = i
      · simp [tabDel, hi, tabGet, hj]
      · simpa [tabDel, hi, tabGet, hj] using ih'

theorem tabDel_del (t : Tab α) (k : Nat) : tabDel (tabDel t k) k = tabDel t k := by
  simp [tabDel, List.filter_filter]

theorem tabDel_put (t : Tab α) (k : Nat) (x : α) : tabDel (tabPut t k x) k = tabDel t k := by
  induction t with
  | nil => simp [tabPut, tabDel]
  | cons e t ih =>
    obtain ⟨i, v⟩ := e
    simp only [tabPut]
    split
    · simp [tabDel]
    · split
      · rename_i hk; subst hk; simp [tabDel]
      · rename_i hk
        have ih' : List.filter (fun e => decide (e.1 ≠ k)) (tabPut t k x) = List.filter (fun e => decide (e.1 ≠ k)) t := ih
        simp only [tabDel, List.filter_cons, ih']

/-- The later of two writes of a key is the one that counts. -/
@[simp] theorem tabSet_set [DecidableEq α] (d x y : α) (t : Tab α) (k : Nat) : tabSet d (tabSet d t k x) k y = tabSet d t k y := by
  have h : tabDel (tabSet d t k x) k = tabDel t k := by
    unfold tabSet
    split
    · exact tabDel_del t k
    · rw [tabDel_put, tabDel_del]
  rw [show tabSet d (tabSet d t k x) k y = if y = d then tabDel (tabSet d t k x) k else tabPut (tabDel (tabSet d t k x) k) k y from rfl, h]
  rfl

@[simp] theorem tabGet_set_same [DecidableEq α] (d x : α) (t : Tab α) (k : Nat) : tabGet d (tabSet d t k x) k = x := by
  unfold tabSet
  split
  · next h => rw [h, tabGet_del_same]
  · exact tabGet_put_same d x _ k

theorem tabGet_set_other [DecidableEq α] (d x : α) (t : Tab α) {k j : Nat} (h : j ≠ k) : tabGet d (tabSet d t k x) j = tabGet d t j := by
  unfold tabSet
  split
  · exact tabGet_del_other d t h
  · rw [tabGet_put_other d x _ h, tabGet_del_other d t h]

@[simp] theorem tabGet_mod_same [DecidableEq α] (d : α) (t : Tab α) (k : Nat) (f : α → α) :
    tabGet d (tabMod d t k f) k = f (tabGet d t k) := by
  simp [tabMod]

@[simp] theorem tabMod_mod [DecidableEq α] (d : α) (t : Tab α) (k : Nat) (f g : α → α) :
    tabMod d (tabMod d t k f) k g = tabMod d t k (fun x => g (f x)) := by
  simp only [tabMod, tabGet_set_same, tabSet_set]

theorem tabGet_mod_other [DecidableEq α] (d : α) (t : Tab α) {k j : Nat} (f : α → α) (h : j ≠ k) :
    tabGet d (tabMod d t k f) j = tabGet d t j := by
  simp [tabMod, tabGet_set_other d _ t h]

/-! ## The canonical form -/

section Canonical
variable [DecidableEq α]

theorem tabAbove_weaken (d : α) {lo hi : Nat} (hle : lo ≤ hi) {t : Tab α} (h : tabAbove d hi t = true) : tabAbove d lo t = true := by
  cases t with
  | nil => rfl
  | cons e t =>
    obtain ⟨i, v⟩ := e
    simp only [tabAbove, Bool.and_eq_true, decide_eq_true_eq] at h ⊢
    exact ⟨⟨Nat.le_trans hle h.1.1, h.1.2⟩, h.2⟩

theorem tabAbove_filter (d : α) (p : Nat × α → Bool) {lo : Nat} {t : Tab α} (h : tabAbove d lo t = true) :
    tabAbove d lo (t.filter p) = true := by
  induction t generalizing lo with
  | nil => rfl
  | cons e t ih =>
    obtain ⟨i, v⟩ := e
    simp only [tabAbove, Bool.and_eq_true, decide_eq_true_eq] at h
    simp only [List.filter_cons]
    split
    · simp only [tabAbove, Bool.and_eq_true, decide_eq_true_eq]
      exact ⟨h.1, ih h.2⟩
    · exact tabAbove_weaken d (by omega) (ih h.2)

theorem tabAbove_put (d x : α) (hx : x ≠ d) (k : Nat) {lo : Nat} (hlo : lo ≤ k) {t : Tab α} (h : tabAbove d lo t = true) :
    tabAbove d lo (tabPut t k x) = true := by
  induction t generalizing lo with
  | nil => simp [tabPut, tabAbove, hx, hlo]
  | cons e t ih =>
    obtain ⟨i, v⟩ := e
    simp only [tabAbove, Bool.and_eq_true, decide_eq_true_eq] at h
    simp only [tabPut]
    split
    · rename_i hki
      simp only [tabAbove, Bool.and_eq_true, decide_eq_true_eq]
      exact ⟨⟨hlo, hx⟩, ⟨by omega, h.1.2⟩, h.2⟩
    · split
      · rename_i hk
        subst hk
        simp only [tabAbove, Bool.and_eq_true, decide_eq_true_eq]
        exact ⟨⟨hlo, hx⟩, h.2⟩
      · simp only [tabAbove, Bool.and_eq_true, decide_eq_true_eq]
        exact ⟨h.1, ih (by omega) h.2⟩

/-- A write keeps the canonical form. -/
theorem tabWf_set (d x : α) (k : Nat) {t : Tab α} (h : tabWf d t = true) : tabWf d (tabSet d t k x) = true := by
  unfold tabSet
  split
  · exact tabAbove_filter d _ h
  · next hx => exact tabAbove_put d x hx k (Nat.zero_le k) (tabAbove_filter d _ h)

theorem tabWf_mod (d : α) (k : Nat) (f : α → α) {t : Tab α} (h : tabWf d t = true) : tabWf d (tabMod d t k f) = true :=
  tabWf_set d _ k h

/-- Clearing a range of keys keeps the canonical form. -/
theorem tabWf_clear (d : α) (lo hi : Nat) {t : Tab α} (h : tabWf d t = true) : tabWf d (tabClear t lo hi) = true :=
  tabAbove_filter d _ h

end Canonical

end Sys2Proof.Machine
end

