-- ==== Sys2Proof/Laws/State.lean ====
section
/-! SUPPORT. One lemma per field of State per update: what it leaves, true by unfolding. -/

namespace Sys2Proof.Machine

open Sys2Proof

/-! ## modGlb -/

@[simp] theorem modGlb_pending (f : Glb → Glb) (s : State) : (modGlb f s).pending = s.pending := rfl
@[simp] theorem modGlb_glb (f : Glb → Glb) (s : State) : (modGlb f s).glb = f s.glb := rfl
@[simp] theorem modGlb_eps (f : Glb → Glb) (s : State) : (modGlb f s).eps = s.eps := rfl
@[simp] theorem modGlb_swc (f : Glb → Glb) (s : State) : (modGlb f s).swc = s.swc := rfl
@[simp] theorem modGlb_pool (f : Glb → Glb) (s : State) : (modGlb f s).pool = s.pool := rfl
@[simp] theorem modGlb_rte (f : Glb → Glb) (s : State) : (modGlb f s).rte = s.rte := rfl
@[simp] theorem modGlb_tick (f : Glb → Glb) (s : State) : (modGlb f s).tick = s.tick := rfl
@[simp] theorem modGlb_mem (f : Glb → Glb) (s : State) : (modGlb f s).mem = s.mem := rfl
@[simp] theorem modGlb_tly (f : Glb → Glb) (s : State) : (modGlb f s).tly = s.tly := rfl
@[simp] theorem modGlb_col (f : Glb → Glb) (s : State) : (modGlb f s).col = s.col := rfl
@[simp] theorem modGlb_arr (f : Glb → Glb) (s : State) : (modGlb f s).arr = s.arr := rfl
@[simp] theorem modGlb_svc (f : Glb → Glb) (s : State) : (modGlb f s).svc = s.svc := rfl
@[simp] theorem modGlb_pwr (f : Glb → Glb) (s : State) : (modGlb f s).pwr = s.pwr := rfl
@[simp] theorem modGlb_lanes (f : Glb → Glb) (s : State) : (modGlb f s).lanes = s.lanes := rfl
@[simp] theorem modGlb_mgt (f : Glb → Glb) (s : State) : (modGlb f s).mgt = s.mgt := rfl
@[simp] theorem modGlb_fuses (f : Glb → Glb) (s : State) : (modGlb f s).fuses = s.fuses := rfl
@[simp] theorem modGlb_freeCount (f : Glb → Glb) (s : State) : (modGlb f s).freeCount = s.freeCount := rfl
@[simp] theorem modGlb_attachBuf (f : Glb → Glb) (s : State) : (modGlb f s).attachBuf = s.attachBuf := rfl

/-! ## modSwc -/

@[simp] theorem modSwc_pending (f : Swc → Swc) (s : State) : (modSwc f s).pending = s.pending := rfl
@[simp] theorem modSwc_glb (f : Swc → Swc) (s : State) : (modSwc f s).glb = s.glb := rfl
@[simp] theorem modSwc_eps (f : Swc → Swc) (s : State) : (modSwc f s).eps = s.eps := rfl
@[simp] theorem modSwc_swc (f : Swc → Swc) (s : State) : (modSwc f s).swc = f s.swc := rfl
@[simp] theorem modSwc_pool (f : Swc → Swc) (s : State) : (modSwc f s).pool = s.pool := rfl
@[simp] theorem modSwc_rte (f : Swc → Swc) (s : State) : (modSwc f s).rte = s.rte := rfl
@[simp] theorem modSwc_tick (f : Swc → Swc) (s : State) : (modSwc f s).tick = s.tick := rfl
@[simp] theorem modSwc_mem (f : Swc → Swc) (s : State) : (modSwc f s).mem = s.mem := rfl
@[simp] theorem modSwc_tly (f : Swc → Swc) (s : State) : (modSwc f s).tly = s.tly := rfl
@[simp] theorem modSwc_col (f : Swc → Swc) (s : State) : (modSwc f s).col = s.col := rfl
@[simp] theorem modSwc_arr (f : Swc → Swc) (s : State) : (modSwc f s).arr = s.arr := rfl
@[simp] theorem modSwc_svc (f : Swc → Swc) (s : State) : (modSwc f s).svc = s.svc := rfl
@[simp] theorem modSwc_pwr (f : Swc → Swc) (s : State) : (modSwc f s).pwr = s.pwr := rfl
@[simp] theorem modSwc_lanes (f : Swc → Swc) (s : State) : (modSwc f s).lanes = s.lanes := rfl
@[simp] theorem modSwc_mgt (f : Swc → Swc) (s : State) : (modSwc f s).mgt = s.mgt := rfl
@[simp] theorem modSwc_fuses (f : Swc → Swc) (s : State) : (modSwc f s).fuses = s.fuses := rfl
@[simp] theorem modSwc_freeCount (f : Swc → Swc) (s : State) : (modSwc f s).freeCount = s.freeCount := rfl
@[simp] theorem modSwc_attachBuf (f : Swc → Swc) (s : State) : (modSwc f s).attachBuf = s.attachBuf := rfl

/-! ## modPool -/

@[simp] theorem modPool_pending (f : Pool → Pool) (s : State) : (modPool f s).pending = s.pending := rfl
@[simp] theorem modPool_glb (f : Pool → Pool) (s : State) : (modPool f s).glb = s.glb := rfl
@[simp] theorem modPool_eps (f : Pool → Pool) (s : State) : (modPool f s).eps = s.eps := rfl
@[simp] theorem modPool_swc (f : Pool → Pool) (s : State) : (modPool f s).swc = s.swc := rfl
@[simp] theorem modPool_pool (f : Pool → Pool) (s : State) : (modPool f s).pool = f s.pool := rfl
@[simp] theorem modPool_rte (f : Pool → Pool) (s : State) : (modPool f s).rte = s.rte := rfl
@[simp] theorem modPool_tick (f : Pool → Pool) (s : State) : (modPool f s).tick = s.tick := rfl
@[simp] theorem modPool_mem (f : Pool → Pool) (s : State) : (modPool f s).mem = s.mem := rfl
@[simp] theorem modPool_tly (f : Pool → Pool) (s : State) : (modPool f s).tly = s.tly := rfl
@[simp] theorem modPool_col (f : Pool → Pool) (s : State) : (modPool f s).col = s.col := rfl
@[simp] theorem modPool_arr (f : Pool → Pool) (s : State) : (modPool f s).arr = s.arr := rfl
@[simp] theorem modPool_svc (f : Pool → Pool) (s : State) : (modPool f s).svc = s.svc := rfl
@[simp] theorem modPool_pwr (f : Pool → Pool) (s : State) : (modPool f s).pwr = s.pwr := rfl
@[simp] theorem modPool_lanes (f : Pool → Pool) (s : State) : (modPool f s).lanes = s.lanes := rfl
@[simp] theorem modPool_mgt (f : Pool → Pool) (s : State) : (modPool f s).mgt = s.mgt := rfl
@[simp] theorem modPool_fuses (f : Pool → Pool) (s : State) : (modPool f s).fuses = s.fuses := rfl
@[simp] theorem modPool_freeCount (f : Pool → Pool) (s : State) : (modPool f s).freeCount = s.freeCount := rfl
@[simp] theorem modPool_attachBuf (f : Pool → Pool) (s : State) : (modPool f s).attachBuf = s.attachBuf := rfl

/-! ## modRte -/

@[simp] theorem modRte_pending (f : Rte → Rte) (s : State) : (modRte f s).pending = s.pending := rfl
@[simp] theorem modRte_glb (f : Rte → Rte) (s : State) : (modRte f s).glb = s.glb := rfl
@[simp] theorem modRte_eps (f : Rte → Rte) (s : State) : (modRte f s).eps = s.eps := rfl
@[simp] theorem modRte_swc (f : Rte → Rte) (s : State) : (modRte f s).swc = s.swc := rfl
@[simp] theorem modRte_pool (f : Rte → Rte) (s : State) : (modRte f s).pool = s.pool := rfl
@[simp] theorem modRte_rte (f : Rte → Rte) (s : State) : (modRte f s).rte = f s.rte := rfl
@[simp] theorem modRte_tick (f : Rte → Rte) (s : State) : (modRte f s).tick = s.tick := rfl
@[simp] theorem modRte_mem (f : Rte → Rte) (s : State) : (modRte f s).mem = s.mem := rfl
@[simp] theorem modRte_tly (f : Rte → Rte) (s : State) : (modRte f s).tly = s.tly := rfl
@[simp] theorem modRte_col (f : Rte → Rte) (s : State) : (modRte f s).col = s.col := rfl
@[simp] theorem modRte_arr (f : Rte → Rte) (s : State) : (modRte f s).arr = s.arr := rfl
@[simp] theorem modRte_svc (f : Rte → Rte) (s : State) : (modRte f s).svc = s.svc := rfl
@[simp] theorem modRte_pwr (f : Rte → Rte) (s : State) : (modRte f s).pwr = s.pwr := rfl
@[simp] theorem modRte_lanes (f : Rte → Rte) (s : State) : (modRte f s).lanes = s.lanes := rfl
@[simp] theorem modRte_mgt (f : Rte → Rte) (s : State) : (modRte f s).mgt = s.mgt := rfl
@[simp] theorem modRte_fuses (f : Rte → Rte) (s : State) : (modRte f s).fuses = s.fuses := rfl
@[simp] theorem modRte_freeCount (f : Rte → Rte) (s : State) : (modRte f s).freeCount = s.freeCount := rfl
@[simp] theorem modRte_attachBuf (f : Rte → Rte) (s : State) : (modRte f s).attachBuf = s.attachBuf := rfl

/-! ## modTick -/

@[simp] theorem modTick_pending (f : TickUnit → TickUnit) (s : State) : (modTick f s).pending = s.pending := rfl
@[simp] theorem modTick_glb (f : TickUnit → TickUnit) (s : State) : (modTick f s).glb = s.glb := rfl
@[simp] theorem modTick_eps (f : TickUnit → TickUnit) (s : State) : (modTick f s).eps = s.eps := rfl
@[simp] theorem modTick_swc (f : TickUnit → TickUnit) (s : State) : (modTick f s).swc = s.swc := rfl
@[simp] theorem modTick_pool (f : TickUnit → TickUnit) (s : State) : (modTick f s).pool = s.pool := rfl
@[simp] theorem modTick_rte (f : TickUnit → TickUnit) (s : State) : (modTick f s).rte = s.rte := rfl
@[simp] theorem modTick_tick (f : TickUnit → TickUnit) (s : State) : (modTick f s).tick = f s.tick := rfl
@[simp] theorem modTick_mem (f : TickUnit → TickUnit) (s : State) : (modTick f s).mem = s.mem := rfl
@[simp] theorem modTick_tly (f : TickUnit → TickUnit) (s : State) : (modTick f s).tly = s.tly := rfl
@[simp] theorem modTick_col (f : TickUnit → TickUnit) (s : State) : (modTick f s).col = s.col := rfl
@[simp] theorem modTick_arr (f : TickUnit → TickUnit) (s : State) : (modTick f s).arr = s.arr := rfl
@[simp] theorem modTick_svc (f : TickUnit → TickUnit) (s : State) : (modTick f s).svc = s.svc := rfl
@[simp] theorem modTick_pwr (f : TickUnit → TickUnit) (s : State) : (modTick f s).pwr = s.pwr := rfl
@[simp] theorem modTick_lanes (f : TickUnit → TickUnit) (s : State) : (modTick f s).lanes = s.lanes := rfl
@[simp] theorem modTick_mgt (f : TickUnit → TickUnit) (s : State) : (modTick f s).mgt = s.mgt := rfl
@[simp] theorem modTick_fuses (f : TickUnit → TickUnit) (s : State) : (modTick f s).fuses = s.fuses := rfl
@[simp] theorem modTick_freeCount (f : TickUnit → TickUnit) (s : State) : (modTick f s).freeCount = s.freeCount := rfl
@[simp] theorem modTick_attachBuf (f : TickUnit → TickUnit) (s : State) : (modTick f s).attachBuf = s.attachBuf := rfl

/-! ## modMem -/

@[simp] theorem modMem_pending (f : Mem → Mem) (s : State) : (modMem f s).pending = s.pending := rfl
@[simp] theorem modMem_glb (f : Mem → Mem) (s : State) : (modMem f s).glb = s.glb := rfl
@[simp] theorem modMem_eps (f : Mem → Mem) (s : State) : (modMem f s).eps = s.eps := rfl
@[simp] theorem modMem_swc (f : Mem → Mem) (s : State) : (modMem f s).swc = s.swc := rfl
@[simp] theorem modMem_pool (f : Mem → Mem) (s : State) : (modMem f s).pool = s.pool := rfl
@[simp] theorem modMem_rte (f : Mem → Mem) (s : State) : (modMem f s).rte = s.rte := rfl
@[simp] theorem modMem_tick (f : Mem → Mem) (s : State) : (modMem f s).tick = s.tick := rfl
@[simp] theorem modMem_mem (f : Mem → Mem) (s : State) : (modMem f s).mem = f s.mem := rfl
@[simp] theorem modMem_tly (f : Mem → Mem) (s : State) : (modMem f s).tly = s.tly := rfl
@[simp] theorem modMem_col (f : Mem → Mem) (s : State) : (modMem f s).col = s.col := rfl
@[simp] theorem modMem_arr (f : Mem → Mem) (s : State) : (modMem f s).arr = s.arr := rfl
@[simp] theorem modMem_svc (f : Mem → Mem) (s : State) : (modMem f s).svc = s.svc := rfl
@[simp] theorem modMem_pwr (f : Mem → Mem) (s : State) : (modMem f s).pwr = s.pwr := rfl
@[simp] theorem modMem_lanes (f : Mem → Mem) (s : State) : (modMem f s).lanes = s.lanes := rfl
@[simp] theorem modMem_mgt (f : Mem → Mem) (s : State) : (modMem f s).mgt = s.mgt := rfl
@[simp] theorem modMem_fuses (f : Mem → Mem) (s : State) : (modMem f s).fuses = s.fuses := rfl
@[simp] theorem modMem_freeCount (f : Mem → Mem) (s : State) : (modMem f s).freeCount = s.freeCount := rfl
@[simp] theorem modMem_attachBuf (f : Mem → Mem) (s : State) : (modMem f s).attachBuf = s.attachBuf := rfl

/-! ## modTly -/

@[simp] theorem modTly_pending (f : Tly → Tly) (s : State) : (modTly f s).pending = s.pending := rfl
@[simp] theorem modTly_glb (f : Tly → Tly) (s : State) : (modTly f s).glb = s.glb := rfl
@[simp] theorem modTly_eps (f : Tly → Tly) (s : State) : (modTly f s).eps = s.eps := rfl
@[simp] theorem modTly_swc (f : Tly → Tly) (s : State) : (modTly f s).swc = s.swc := rfl
@[simp] theorem modTly_pool (f : Tly → Tly) (s : State) : (modTly f s).pool = s.pool := rfl
@[simp] theorem modTly_rte (f : Tly → Tly) (s : State) : (modTly f s).rte = s.rte := rfl
@[simp] theorem modTly_tick (f : Tly → Tly) (s : State) : (modTly f s).tick = s.tick := rfl
@[simp] theorem modTly_mem (f : Tly → Tly) (s : State) : (modTly f s).mem = s.mem := rfl
@[simp] theorem modTly_tly (f : Tly → Tly) (s : State) : (modTly f s).tly = f s.tly := rfl
@[simp] theorem modTly_col (f : Tly → Tly) (s : State) : (modTly f s).col = s.col := rfl
@[simp] theorem modTly_arr (f : Tly → Tly) (s : State) : (modTly f s).arr = s.arr := rfl
@[simp] theorem modTly_svc (f : Tly → Tly) (s : State) : (modTly f s).svc = s.svc := rfl
@[simp] theorem modTly_pwr (f : Tly → Tly) (s : State) : (modTly f s).pwr = s.pwr := rfl
@[simp] theorem modTly_lanes (f : Tly → Tly) (s : State) : (modTly f s).lanes = s.lanes := rfl
@[simp] theorem modTly_mgt (f : Tly → Tly) (s : State) : (modTly f s).mgt = s.mgt := rfl
@[simp] theorem modTly_fuses (f : Tly → Tly) (s : State) : (modTly f s).fuses = s.fuses := rfl
@[simp] theorem modTly_freeCount (f : Tly → Tly) (s : State) : (modTly f s).freeCount = s.freeCount := rfl
@[simp] theorem modTly_attachBuf (f : Tly → Tly) (s : State) : (modTly f s).attachBuf = s.attachBuf := rfl

/-! ## modCol -/

@[simp] theorem modCol_pending (f : Col → Col) (s : State) : (modCol f s).pending = s.pending := rfl
@[simp] theorem modCol_glb (f : Col → Col) (s : State) : (modCol f s).glb = s.glb := rfl
@[simp] theorem modCol_eps (f : Col → Col) (s : State) : (modCol f s).eps = s.eps := rfl
@[simp] theorem modCol_swc (f : Col → Col) (s : State) : (modCol f s).swc = s.swc := rfl
@[simp] theorem modCol_pool (f : Col → Col) (s : State) : (modCol f s).pool = s.pool := rfl
@[simp] theorem modCol_rte (f : Col → Col) (s : State) : (modCol f s).rte = s.rte := rfl
@[simp] theorem modCol_tick (f : Col → Col) (s : State) : (modCol f s).tick = s.tick := rfl
@[simp] theorem modCol_mem (f : Col → Col) (s : State) : (modCol f s).mem = s.mem := rfl
@[simp] theorem modCol_tly (f : Col → Col) (s : State) : (modCol f s).tly = s.tly := rfl
@[simp] theorem modCol_col (f : Col → Col) (s : State) : (modCol f s).col = f s.col := rfl
@[simp] theorem modCol_arr (f : Col → Col) (s : State) : (modCol f s).arr = s.arr := rfl
@[simp] theorem modCol_svc (f : Col → Col) (s : State) : (modCol f s).svc = s.svc := rfl
@[simp] theorem modCol_pwr (f : Col → Col) (s : State) : (modCol f s).pwr = s.pwr := rfl
@[simp] theorem modCol_lanes (f : Col → Col) (s : State) : (modCol f s).lanes = s.lanes := rfl
@[simp] theorem modCol_mgt (f : Col → Col) (s : State) : (modCol f s).mgt = s.mgt := rfl
@[simp] theorem modCol_fuses (f : Col → Col) (s : State) : (modCol f s).fuses = s.fuses := rfl
@[simp] theorem modCol_freeCount (f : Col → Col) (s : State) : (modCol f s).freeCount = s.freeCount := rfl
@[simp] theorem modCol_attachBuf (f : Col → Col) (s : State) : (modCol f s).attachBuf = s.attachBuf := rfl

/-! ## modArr -/

@[simp] theorem modArr_pending (f : ArrUnit → ArrUnit) (s : State) : (modArr f s).pending = s.pending := rfl
@[simp] theorem modArr_glb (f : ArrUnit → ArrUnit) (s : State) : (modArr f s).glb = s.glb := rfl
@[simp] theorem modArr_eps (f : ArrUnit → ArrUnit) (s : State) : (modArr f s).eps = s.eps := rfl
@[simp] theorem modArr_swc (f : ArrUnit → ArrUnit) (s : State) : (modArr f s).swc = s.swc := rfl
@[simp] theorem modArr_pool (f : ArrUnit → ArrUnit) (s : State) : (modArr f s).pool = s.pool := rfl
@[simp] theorem modArr_rte (f : ArrUnit → ArrUnit) (s : State) : (modArr f s).rte = s.rte := rfl
@[simp] theorem modArr_tick (f : ArrUnit → ArrUnit) (s : State) : (modArr f s).tick = s.tick := rfl
@[simp] theorem modArr_mem (f : ArrUnit → ArrUnit) (s : State) : (modArr f s).mem = s.mem := rfl
@[simp] theorem modArr_tly (f : ArrUnit → ArrUnit) (s : State) : (modArr f s).tly = s.tly := rfl
@[simp] theorem modArr_col (f : ArrUnit → ArrUnit) (s : State) : (modArr f s).col = s.col := rfl
@[simp] theorem modArr_arr (f : ArrUnit → ArrUnit) (s : State) : (modArr f s).arr = f s.arr := rfl
@[simp] theorem modArr_svc (f : ArrUnit → ArrUnit) (s : State) : (modArr f s).svc = s.svc := rfl
@[simp] theorem modArr_pwr (f : ArrUnit → ArrUnit) (s : State) : (modArr f s).pwr = s.pwr := rfl
@[simp] theorem modArr_lanes (f : ArrUnit → ArrUnit) (s : State) : (modArr f s).lanes = s.lanes := rfl
@[simp] theorem modArr_mgt (f : ArrUnit → ArrUnit) (s : State) : (modArr f s).mgt = s.mgt := rfl
@[simp] theorem modArr_fuses (f : ArrUnit → ArrUnit) (s : State) : (modArr f s).fuses = s.fuses := rfl
@[simp] theorem modArr_freeCount (f : ArrUnit → ArrUnit) (s : State) : (modArr f s).freeCount = s.freeCount := rfl
@[simp] theorem modArr_attachBuf (f : ArrUnit → ArrUnit) (s : State) : (modArr f s).attachBuf = s.attachBuf := rfl

/-! ## modSvc -/

@[simp] theorem modSvc_pending (f : SvcUnit → SvcUnit) (s : State) : (modSvc f s).pending = s.pending := rfl
@[simp] theorem modSvc_glb (f : SvcUnit → SvcUnit) (s : State) : (modSvc f s).glb = s.glb := rfl
@[simp] theorem modSvc_eps (f : SvcUnit → SvcUnit) (s : State) : (modSvc f s).eps = s.eps := rfl
@[simp] theorem modSvc_swc (f : SvcUnit → SvcUnit) (s : State) : (modSvc f s).swc = s.swc := rfl
@[simp] theorem modSvc_pool (f : SvcUnit → SvcUnit) (s : State) : (modSvc f s).pool = s.pool := rfl
@[simp] theorem modSvc_rte (f : SvcUnit → SvcUnit) (s : State) : (modSvc f s).rte = s.rte := rfl
@[simp] theorem modSvc_tick (f : SvcUnit → SvcUnit) (s : State) : (modSvc f s).tick = s.tick := rfl
@[simp] theorem modSvc_mem (f : SvcUnit → SvcUnit) (s : State) : (modSvc f s).mem = s.mem := rfl
@[simp] theorem modSvc_tly (f : SvcUnit → SvcUnit) (s : State) : (modSvc f s).tly = s.tly := rfl
@[simp] theorem modSvc_col (f : SvcUnit → SvcUnit) (s : State) : (modSvc f s).col = s.col := rfl
@[simp] theorem modSvc_arr (f : SvcUnit → SvcUnit) (s : State) : (modSvc f s).arr = s.arr := rfl
@[simp] theorem modSvc_svc (f : SvcUnit → SvcUnit) (s : State) : (modSvc f s).svc = f s.svc := rfl
@[simp] theorem modSvc_pwr (f : SvcUnit → SvcUnit) (s : State) : (modSvc f s).pwr = s.pwr := rfl
@[simp] theorem modSvc_lanes (f : SvcUnit → SvcUnit) (s : State) : (modSvc f s).lanes = s.lanes := rfl
@[simp] theorem modSvc_mgt (f : SvcUnit → SvcUnit) (s : State) : (modSvc f s).mgt = s.mgt := rfl
@[simp] theorem modSvc_fuses (f : SvcUnit → SvcUnit) (s : State) : (modSvc f s).fuses = s.fuses := rfl
@[simp] theorem modSvc_freeCount (f : SvcUnit → SvcUnit) (s : State) : (modSvc f s).freeCount = s.freeCount := rfl
@[simp] theorem modSvc_attachBuf (f : SvcUnit → SvcUnit) (s : State) : (modSvc f s).attachBuf = s.attachBuf := rfl

/-! ## modPwr -/

@[simp] theorem modPwr_pending (f : Pwr → Pwr) (s : State) : (modPwr f s).pending = s.pending := rfl
@[simp] theorem modPwr_glb (f : Pwr → Pwr) (s : State) : (modPwr f s).glb = s.glb := rfl
@[simp] theorem modPwr_eps (f : Pwr → Pwr) (s : State) : (modPwr f s).eps = s.eps := rfl
@[simp] theorem modPwr_swc (f : Pwr → Pwr) (s : State) : (modPwr f s).swc = s.swc := rfl
@[simp] theorem modPwr_pool (f : Pwr → Pwr) (s : State) : (modPwr f s).pool = s.pool := rfl
@[simp] theorem modPwr_rte (f : Pwr → Pwr) (s : State) : (modPwr f s).rte = s.rte := rfl
@[simp] theorem modPwr_tick (f : Pwr → Pwr) (s : State) : (modPwr f s).tick = s.tick := rfl
@[simp] theorem modPwr_mem (f : Pwr → Pwr) (s : State) : (modPwr f s).mem = s.mem := rfl
@[simp] theorem modPwr_tly (f : Pwr → Pwr) (s : State) : (modPwr f s).tly = s.tly := rfl
@[simp] theorem modPwr_col (f : Pwr → Pwr) (s : State) : (modPwr f s).col = s.col := rfl
@[simp] theorem modPwr_arr (f : Pwr → Pwr) (s : State) : (modPwr f s).arr = s.arr := rfl
@[simp] theorem modPwr_svc (f : Pwr → Pwr) (s : State) : (modPwr f s).svc = s.svc := rfl
@[simp] theorem modPwr_pwr (f : Pwr → Pwr) (s : State) : (modPwr f s).pwr = f s.pwr := rfl
@[simp] theorem modPwr_lanes (f : Pwr → Pwr) (s : State) : (modPwr f s).lanes = s.lanes := rfl
@[simp] theorem modPwr_mgt (f : Pwr → Pwr) (s : State) : (modPwr f s).mgt = s.mgt := rfl
@[simp] theorem modPwr_fuses (f : Pwr → Pwr) (s : State) : (modPwr f s).fuses = s.fuses := rfl
@[simp] theorem modPwr_freeCount (f : Pwr → Pwr) (s : State) : (modPwr f s).freeCount = s.freeCount := rfl
@[simp] theorem modPwr_attachBuf (f : Pwr → Pwr) (s : State) : (modPwr f s).attachBuf = s.attachBuf := rfl

/-! ## modLanes -/

@[simp] theorem modLanes_pending (f : LaneUnit → LaneUnit) (s : State) : (modLanes f s).pending = s.pending := rfl
@[simp] theorem modLanes_glb (f : LaneUnit → LaneUnit) (s : State) : (modLanes f s).glb = s.glb := rfl
@[simp] theorem modLanes_eps (f : LaneUnit → LaneUnit) (s : State) : (modLanes f s).eps = s.eps := rfl
@[simp] theorem modLanes_swc (f : LaneUnit → LaneUnit) (s : State) : (modLanes f s).swc = s.swc := rfl
@[simp] theorem modLanes_pool (f : LaneUnit → LaneUnit) (s : State) : (modLanes f s).pool = s.pool := rfl
@[simp] theorem modLanes_rte (f : LaneUnit → LaneUnit) (s : State) : (modLanes f s).rte = s.rte := rfl
@[simp] theorem modLanes_tick (f : LaneUnit → LaneUnit) (s : State) : (modLanes f s).tick = s.tick := rfl
@[simp] theorem modLanes_mem (f : LaneUnit → LaneUnit) (s : State) : (modLanes f s).mem = s.mem := rfl
@[simp] theorem modLanes_tly (f : LaneUnit → LaneUnit) (s : State) : (modLanes f s).tly = s.tly := rfl
@[simp] theorem modLanes_col (f : LaneUnit → LaneUnit) (s : State) : (modLanes f s).col = s.col := rfl
@[simp] theorem modLanes_arr (f : LaneUnit → LaneUnit) (s : State) : (modLanes f s).arr = s.arr := rfl
@[simp] theorem modLanes_svc (f : LaneUnit → LaneUnit) (s : State) : (modLanes f s).svc = s.svc := rfl
@[simp] theorem modLanes_pwr (f : LaneUnit → LaneUnit) (s : State) : (modLanes f s).pwr = s.pwr := rfl
@[simp] theorem modLanes_lanes (f : LaneUnit → LaneUnit) (s : State) : (modLanes f s).lanes = f s.lanes := rfl
@[simp] theorem modLanes_mgt (f : LaneUnit → LaneUnit) (s : State) : (modLanes f s).mgt = s.mgt := rfl
@[simp] theorem modLanes_fuses (f : LaneUnit → LaneUnit) (s : State) : (modLanes f s).fuses = s.fuses := rfl
@[simp] theorem modLanes_freeCount (f : LaneUnit → LaneUnit) (s : State) : (modLanes f s).freeCount = s.freeCount := rfl
@[simp] theorem modLanes_attachBuf (f : LaneUnit → LaneUnit) (s : State) : (modLanes f s).attachBuf = s.attachBuf := rfl

/-! ## modMgt -/

@[simp] theorem modMgt_pending (f : Mgt → Mgt) (s : State) : (modMgt f s).pending = s.pending := rfl
@[simp] theorem modMgt_glb (f : Mgt → Mgt) (s : State) : (modMgt f s).glb = s.glb := rfl
@[simp] theorem modMgt_eps (f : Mgt → Mgt) (s : State) : (modMgt f s).eps = s.eps := rfl
@[simp] theorem modMgt_swc (f : Mgt → Mgt) (s : State) : (modMgt f s).swc = s.swc := rfl
@[simp] theorem modMgt_pool (f : Mgt → Mgt) (s : State) : (modMgt f s).pool = s.pool := rfl
@[simp] theorem modMgt_rte (f : Mgt → Mgt) (s : State) : (modMgt f s).rte = s.rte := rfl
@[simp] theorem modMgt_tick (f : Mgt → Mgt) (s : State) : (modMgt f s).tick = s.tick := rfl
@[simp] theorem modMgt_mem (f : Mgt → Mgt) (s : State) : (modMgt f s).mem = s.mem := rfl
@[simp] theorem modMgt_tly (f : Mgt → Mgt) (s : State) : (modMgt f s).tly = s.tly := rfl
@[simp] theorem modMgt_col (f : Mgt → Mgt) (s : State) : (modMgt f s).col = s.col := rfl
@[simp] theorem modMgt_arr (f : Mgt → Mgt) (s : State) : (modMgt f s).arr = s.arr := rfl
@[simp] theorem modMgt_svc (f : Mgt → Mgt) (s : State) : (modMgt f s).svc = s.svc := rfl
@[simp] theorem modMgt_pwr (f : Mgt → Mgt) (s : State) : (modMgt f s).pwr = s.pwr := rfl
@[simp] theorem modMgt_lanes (f : Mgt → Mgt) (s : State) : (modMgt f s).lanes = s.lanes := rfl
@[simp] theorem modMgt_mgt (f : Mgt → Mgt) (s : State) : (modMgt f s).mgt = f s.mgt := rfl
@[simp] theorem modMgt_fuses (f : Mgt → Mgt) (s : State) : (modMgt f s).fuses = s.fuses := rfl
@[simp] theorem modMgt_freeCount (f : Mgt → Mgt) (s : State) : (modMgt f s).freeCount = s.freeCount := rfl
@[simp] theorem modMgt_attachBuf (f : Mgt → Mgt) (s : State) : (modMgt f s).attachBuf = s.attachBuf := rfl

/-! ## modEp -/

@[simp] theorem modEp_pending (n : Nat) (f : Ep → Ep) (s : State) : (modEp n f s).pending = s.pending := rfl
@[simp] theorem modEp_glb (n : Nat) (f : Ep → Ep) (s : State) : (modEp n f s).glb = s.glb := rfl
@[simp] theorem modEp_swc (n : Nat) (f : Ep → Ep) (s : State) : (modEp n f s).swc = s.swc := rfl
@[simp] theorem modEp_pool (n : Nat) (f : Ep → Ep) (s : State) : (modEp n f s).pool = s.pool := rfl
@[simp] theorem modEp_rte (n : Nat) (f : Ep → Ep) (s : State) : (modEp n f s).rte = s.rte := rfl
@[simp] theorem modEp_tick (n : Nat) (f : Ep → Ep) (s : State) : (modEp n f s).tick = s.tick := rfl
@[simp] theorem modEp_mem (n : Nat) (f : Ep → Ep) (s : State) : (modEp n f s).mem = s.mem := rfl
@[simp] theorem modEp_tly (n : Nat) (f : Ep → Ep) (s : State) : (modEp n f s).tly = s.tly := rfl
@[simp] theorem modEp_col (n : Nat) (f : Ep → Ep) (s : State) : (modEp n f s).col = s.col := rfl
@[simp] theorem modEp_arr (n : Nat) (f : Ep → Ep) (s : State) : (modEp n f s).arr = s.arr := rfl
@[simp] theorem modEp_svc (n : Nat) (f : Ep → Ep) (s : State) : (modEp n f s).svc = s.svc := rfl
@[simp] theorem modEp_pwr (n : Nat) (f : Ep → Ep) (s : State) : (modEp n f s).pwr = s.pwr := rfl
@[simp] theorem modEp_lanes (n : Nat) (f : Ep → Ep) (s : State) : (modEp n f s).lanes = s.lanes := rfl
@[simp] theorem modEp_mgt (n : Nat) (f : Ep → Ep) (s : State) : (modEp n f s).mgt = s.mgt := rfl
@[simp] theorem modEp_fuses (n : Nat) (f : Ep → Ep) (s : State) : (modEp n f s).fuses = s.fuses := rfl
@[simp] theorem modEp_freeCount (n : Nat) (f : Ep → Ep) (s : State) : (modEp n f s).freeCount = s.freeCount := rfl
@[simp] theorem modEp_attachBuf (n : Nat) (f : Ep → Ep) (s : State) : (modEp n f s).attachBuf = s.attachBuf := rfl

/-! ## modRing -/

@[simp] theorem modRing_pending (n r : Nat) (f : Ring → Ring) (s : State) : (modRing n r f s).pending = s.pending := rfl
@[simp] theorem modRing_glb (n r : Nat) (f : Ring → Ring) (s : State) : (modRing n r f s).glb = s.glb := rfl
@[simp] theorem modRing_swc (n r : Nat) (f : Ring → Ring) (s : State) : (modRing n r f s).swc = s.swc := rfl
@[simp] theorem modRing_pool (n r : Nat) (f : Ring → Ring) (s : State) : (modRing n r f s).pool = s.pool := rfl
@[simp] theorem modRing_rte (n r : Nat) (f : Ring → Ring) (s : State) : (modRing n r f s).rte = s.rte := rfl
@[simp] theorem modRing_tick (n r : Nat) (f : Ring → Ring) (s : State) : (modRing n r f s).tick = s.tick := rfl
@[simp] theorem modRing_mem (n r : Nat) (f : Ring → Ring) (s : State) : (modRing n r f s).mem = s.mem := rfl
@[simp] theorem modRing_tly (n r : Nat) (f : Ring → Ring) (s : State) : (modRing n r f s).tly = s.tly := rfl
@[simp] theorem modRing_col (n r : Nat) (f : Ring → Ring) (s : State) : (modRing n r f s).col = s.col := rfl
@[simp] theorem modRing_arr (n r : Nat) (f : Ring → Ring) (s : State) : (modRing n r f s).arr = s.arr := rfl
@[simp] theorem modRing_svc (n r : Nat) (f : Ring → Ring) (s : State) : (modRing n r f s).svc = s.svc := rfl
@[simp] theorem modRing_pwr (n r : Nat) (f : Ring → Ring) (s : State) : (modRing n r f s).pwr = s.pwr := rfl
@[simp] theorem modRing_lanes (n r : Nat) (f : Ring → Ring) (s : State) : (modRing n r f s).lanes = s.lanes := rfl
@[simp] theorem modRing_mgt (n r : Nat) (f : Ring → Ring) (s : State) : (modRing n r f s).mgt = s.mgt := rfl
@[simp] theorem modRing_fuses (n r : Nat) (f : Ring → Ring) (s : State) : (modRing n r f s).fuses = s.fuses := rfl
@[simp] theorem modRing_freeCount (n r : Nat) (f : Ring → Ring) (s : State) : (modRing n r f s).freeCount = s.freeCount := rfl
@[simp] theorem modRing_attachBuf (n r : Nat) (f : Ring → Ring) (s : State) : (modRing n r f s).attachBuf = s.attachBuf := rfl

/-! ## setDesc -/

@[simp] theorem setDesc_pending (n i : Nat) (d : Option Desc) (s : State) : (setDesc n i d s).pending = s.pending := rfl
@[simp] theorem setDesc_glb (n i : Nat) (d : Option Desc) (s : State) : (setDesc n i d s).glb = s.glb := rfl
@[simp] theorem setDesc_swc (n i : Nat) (d : Option Desc) (s : State) : (setDesc n i d s).swc = s.swc := rfl
@[simp] theorem setDesc_pool (n i : Nat) (d : Option Desc) (s : State) : (setDesc n i d s).pool = s.pool := rfl
@[simp] theorem setDesc_rte (n i : Nat) (d : Option Desc) (s : State) : (setDesc n i d s).rte = s.rte := rfl
@[simp] theorem setDesc_tick (n i : Nat) (d : Option Desc) (s : State) : (setDesc n i d s).tick = s.tick := rfl
@[simp] theorem setDesc_mem (n i : Nat) (d : Option Desc) (s : State) : (setDesc n i d s).mem = s.mem := rfl
@[simp] theorem setDesc_tly (n i : Nat) (d : Option Desc) (s : State) : (setDesc n i d s).tly = s.tly := rfl
@[simp] theorem setDesc_col (n i : Nat) (d : Option Desc) (s : State) : (setDesc n i d s).col = s.col := rfl
@[simp] theorem setDesc_arr (n i : Nat) (d : Option Desc) (s : State) : (setDesc n i d s).arr = s.arr := rfl
@[simp] theorem setDesc_svc (n i : Nat) (d : Option Desc) (s : State) : (setDesc n i d s).svc = s.svc := rfl
@[simp] theorem setDesc_pwr (n i : Nat) (d : Option Desc) (s : State) : (setDesc n i d s).pwr = s.pwr := rfl
@[simp] theorem setDesc_lanes (n i : Nat) (d : Option Desc) (s : State) : (setDesc n i d s).lanes = s.lanes := rfl
@[simp] theorem setDesc_mgt (n i : Nat) (d : Option Desc) (s : State) : (setDesc n i d s).mgt = s.mgt := rfl
@[simp] theorem setDesc_fuses (n i : Nat) (d : Option Desc) (s : State) : (setDesc n i d s).fuses = s.fuses := rfl
@[simp] theorem setDesc_freeCount (n i : Nat) (d : Option Desc) (s : State) : (setDesc n i d s).freeCount = s.freeCount := rfl
@[simp] theorem setDesc_attachBuf (n i : Nat) (d : Option Desc) (s : State) : (setDesc n i d s).attachBuf = s.attachBuf := rfl

/-! ## modDesc -/

@[simp] theorem modDesc_pending (n i : Nat) (f : Desc → Desc) (s : State) : (modDesc n i f s).pending = s.pending := rfl
@[simp] theorem modDesc_glb (n i : Nat) (f : Desc → Desc) (s : State) : (modDesc n i f s).glb = s.glb := rfl
@[simp] theorem modDesc_swc (n i : Nat) (f : Desc → Desc) (s : State) : (modDesc n i f s).swc = s.swc := rfl
@[simp] theorem modDesc_pool (n i : Nat) (f : Desc → Desc) (s : State) : (modDesc n i f s).pool = s.pool := rfl
@[simp] theorem modDesc_rte (n i : Nat) (f : Desc → Desc) (s : State) : (modDesc n i f s).rte = s.rte := rfl
@[simp] theorem modDesc_tick (n i : Nat) (f : Desc → Desc) (s : State) : (modDesc n i f s).tick = s.tick := rfl
@[simp] theorem modDesc_mem (n i : Nat) (f : Desc → Desc) (s : State) : (modDesc n i f s).mem = s.mem := rfl
@[simp] theorem modDesc_tly (n i : Nat) (f : Desc → Desc) (s : State) : (modDesc n i f s).tly = s.tly := rfl
@[simp] theorem modDesc_col (n i : Nat) (f : Desc → Desc) (s : State) : (modDesc n i f s).col = s.col := rfl
@[simp] theorem modDesc_arr (n i : Nat) (f : Desc → Desc) (s : State) : (modDesc n i f s).arr = s.arr := rfl
@[simp] theorem modDesc_svc (n i : Nat) (f : Desc → Desc) (s : State) : (modDesc n i f s).svc = s.svc := rfl
@[simp] theorem modDesc_pwr (n i : Nat) (f : Desc → Desc) (s : State) : (modDesc n i f s).pwr = s.pwr := rfl
@[simp] theorem modDesc_lanes (n i : Nat) (f : Desc → Desc) (s : State) : (modDesc n i f s).lanes = s.lanes := rfl
@[simp] theorem modDesc_mgt (n i : Nat) (f : Desc → Desc) (s : State) : (modDesc n i f s).mgt = s.mgt := rfl
@[simp] theorem modDesc_fuses (n i : Nat) (f : Desc → Desc) (s : State) : (modDesc n i f s).fuses = s.fuses := rfl
@[simp] theorem modDesc_freeCount (n i : Nat) (f : Desc → Desc) (s : State) : (modDesc n i f s).freeCount = s.freeCount := rfl
@[simp] theorem modDesc_attachBuf (n i : Nat) (f : Desc → Desc) (s : State) : (modDesc n i f s).attachBuf = s.attachBuf := rfl

/-! ## modPort -/

@[simp] theorem modPort_pending (n : Nat) (f : Port → Port) (s : State) : (modPort n f s).pending = s.pending := rfl
@[simp] theorem modPort_glb (n : Nat) (f : Port → Port) (s : State) : (modPort n f s).glb = s.glb := rfl
@[simp] theorem modPort_eps (n : Nat) (f : Port → Port) (s : State) : (modPort n f s).eps = s.eps := rfl
@[simp] theorem modPort_swc (n : Nat) (f : Port → Port) (s : State) : (modPort n f s).swc = s.swc := rfl
@[simp] theorem modPort_pool (n : Nat) (f : Port → Port) (s : State) : (modPort n f s).pool = s.pool := rfl
@[simp] theorem modPort_rte (n : Nat) (f : Port → Port) (s : State) : (modPort n f s).rte = s.rte := rfl
@[simp] theorem modPort_tick (n : Nat) (f : Port → Port) (s : State) : (modPort n f s).tick = s.tick := rfl
@[simp] theorem modPort_mem (n : Nat) (f : Port → Port) (s : State) : (modPort n f s).mem = s.mem := rfl
@[simp] theorem modPort_tly (n : Nat) (f : Port → Port) (s : State) : (modPort n f s).tly = s.tly := rfl
@[simp] theorem modPort_col (n : Nat) (f : Port → Port) (s : State) : (modPort n f s).col = s.col := rfl
@[simp] theorem modPort_arr (n : Nat) (f : Port → Port) (s : State) : (modPort n f s).arr = s.arr := rfl
@[simp] theorem modPort_svc (n : Nat) (f : Port → Port) (s : State) : (modPort n f s).svc = s.svc := rfl
@[simp] theorem modPort_pwr (n : Nat) (f : Port → Port) (s : State) : (modPort n f s).pwr = s.pwr := rfl
@[simp] theorem modPort_mgt (n : Nat) (f : Port → Port) (s : State) : (modPort n f s).mgt = s.mgt := rfl
@[simp] theorem modPort_fuses (n : Nat) (f : Port → Port) (s : State) : (modPort n f s).fuses = s.fuses := rfl
@[simp] theorem modPort_freeCount (n : Nat) (f : Port → Port) (s : State) : (modPort n f s).freeCount = s.freeCount := rfl
@[simp] theorem modPort_attachBuf (n : Nat) (f : Port → Port) (s : State) : (modPort n f s).attachBuf = s.attachBuf := rfl

/-! ## modLane -/

@[simp] theorem modLane_pending (n : Nat) (f : Lane → Lane) (s : State) : (modLane n f s).pending = s.pending := rfl
@[simp] theorem modLane_glb (n : Nat) (f : Lane → Lane) (s : State) : (modLane n f s).glb = s.glb := rfl
@[simp] theorem modLane_eps (n : Nat) (f : Lane → Lane) (s : State) : (modLane n f s).eps = s.eps := rfl
@[simp] theorem modLane_swc (n : Nat) (f : Lane → Lane) (s : State) : (modLane n f s).swc = s.swc := rfl
@[simp] theorem modLane_pool (n : Nat) (f : Lane → Lane) (s : State) : (modLane n f s).pool = s.pool := rfl
@[simp] theorem modLane_rte (n : Nat) (f : Lane → Lane) (s : State) : (modLane n f s).rte = s.rte := rfl
@[simp] theorem modLane_tick (n : Nat) (f : Lane → Lane) (s : State) : (modLane n f s).tick = s.tick := rfl
@[simp] theorem modLane_mem (n : Nat) (f : Lane → Lane) (s : State) : (modLane n f s).mem = s.mem := rfl
@[simp] theorem modLane_tly (n : Nat) (f : Lane → Lane) (s : State) : (modLane n f s).tly = s.tly := rfl
@[simp] theorem modLane_col (n : Nat) (f : Lane → Lane) (s : State) : (modLane n f s).col = s.col := rfl
@[simp] theorem modLane_arr (n : Nat) (f : Lane → Lane) (s : State) : (modLane n f s).arr = s.arr := rfl
@[simp] theorem modLane_svc (n : Nat) (f : Lane → Lane) (s : State) : (modLane n f s).svc = s.svc := rfl
@[simp] theorem modLane_pwr (n : Nat) (f : Lane → Lane) (s : State) : (modLane n f s).pwr = s.pwr := rfl
@[simp] theorem modLane_mgt (n : Nat) (f : Lane → Lane) (s : State) : (modLane n f s).mgt = s.mgt := rfl
@[simp] theorem modLane_fuses (n : Nat) (f : Lane → Lane) (s : State) : (modLane n f s).fuses = s.fuses := rfl
@[simp] theorem modLane_freeCount (n : Nat) (f : Lane → Lane) (s : State) : (modLane n f s).freeCount = s.freeCount := rfl
@[simp] theorem modLane_attachBuf (n : Nat) (f : Lane → Lane) (s : State) : (modLane n f s).attachBuf = s.attachBuf := rfl

/-! ## modChan -/

@[simp] theorem modChan_pending (n : Nat) (f : Channel → Channel) (s : State) : (modChan n f s).pending = s.pending := rfl
@[simp] theorem modChan_glb (n : Nat) (f : Channel → Channel) (s : State) : (modChan n f s).glb = s.glb := rfl
@[simp] theorem modChan_eps (n : Nat) (f : Channel → Channel) (s : State) : (modChan n f s).eps = s.eps := rfl
@[simp] theorem modChan_swc (n : Nat) (f : Channel → Channel) (s : State) : (modChan n f s).swc = s.swc := rfl
@[simp] theorem modChan_pool (n : Nat) (f : Channel → Channel) (s : State) : (modChan n f s).pool = s.pool := rfl
@[simp] theorem modChan_rte (n : Nat) (f : Channel → Channel) (s : State) : (modChan n f s).rte = s.rte := rfl
@[simp] theorem modChan_tick (n : Nat) (f : Channel → Channel) (s : State) : (modChan n f s).tick = s.tick := rfl
@[simp] theorem modChan_tly (n : Nat) (f : Channel → Channel) (s : State) : (modChan n f s).tly = s.tly := rfl
@[simp] theorem modChan_col (n : Nat) (f : Channel → Channel) (s : State) : (modChan n f s).col = s.col := rfl
@[simp] theorem modChan_arr (n : Nat) (f : Channel → Channel) (s : State) : (modChan n f s).arr = s.arr := rfl
@[simp] theorem modChan_svc (n : Nat) (f : Channel → Channel) (s : State) : (modChan n f s).svc = s.svc := rfl
@[simp] theorem modChan_pwr (n : Nat) (f : Channel → Channel) (s : State) : (modChan n f s).pwr = s.pwr := rfl
@[simp] theorem modChan_lanes (n : Nat) (f : Channel → Channel) (s : State) : (modChan n f s).lanes = s.lanes := rfl
@[simp] theorem modChan_mgt (n : Nat) (f : Channel → Channel) (s : State) : (modChan n f s).mgt = s.mgt := rfl
@[simp] theorem modChan_fuses (n : Nat) (f : Channel → Channel) (s : State) : (modChan n f s).fuses = s.fuses := rfl
@[simp] theorem modChan_freeCount (n : Nat) (f : Channel → Channel) (s : State) : (modChan n f s).freeCount = s.freeCount := rfl
@[simp] theorem modChan_attachBuf (n : Nat) (f : Channel → Channel) (s : State) : (modChan n f s).attachBuf = s.attachBuf := rfl

/-! ## modStack -/

@[simp] theorem modStack_pending (n : Nat) (f : Stack → Stack) (s : State) : (modStack n f s).pending = s.pending := rfl
@[simp] theorem modStack_glb (n : Nat) (f : Stack → Stack) (s : State) : (modStack n f s).glb = s.glb := rfl
@[simp] theorem modStack_eps (n : Nat) (f : Stack → Stack) (s : State) : (modStack n f s).eps = s.eps := rfl
@[simp] theorem modStack_swc (n : Nat) (f : Stack → Stack) (s : State) : (modStack n f s).swc = s.swc := rfl
@[simp] theorem modStack_pool (n : Nat) (f : Stack → Stack) (s : State) : (modStack n f s).pool = s.pool := rfl
@[simp] theorem modStack_rte (n : Nat) (f : Stack → Stack) (s : State) : (modStack n f s).rte = s.rte := rfl
@[simp] theorem modStack_tick (n : Nat) (f : Stack → Stack) (s : State) : (modStack n f s).tick = s.tick := rfl
@[simp] theorem modStack_tly (n : Nat) (f : Stack → Stack) (s : State) : (modStack n f s).tly = s.tly := rfl
@[simp] theorem modStack_col (n : Nat) (f : Stack → Stack) (s : State) : (modStack n f s).col = s.col := rfl
@[simp] theorem modStack_arr (n : Nat) (f : Stack → Stack) (s : State) : (modStack n f s).arr = s.arr := rfl
@[simp] theorem modStack_svc (n : Nat) (f : Stack → Stack) (s : State) : (modStack n f s).svc = s.svc := rfl
@[simp] theorem modStack_pwr (n : Nat) (f : Stack → Stack) (s : State) : (modStack n f s).pwr = s.pwr := rfl
@[simp] theorem modStack_lanes (n : Nat) (f : Stack → Stack) (s : State) : (modStack n f s).lanes = s.lanes := rfl
@[simp] theorem modStack_mgt (n : Nat) (f : Stack → Stack) (s : State) : (modStack n f s).mgt = s.mgt := rfl
@[simp] theorem modStack_fuses (n : Nat) (f : Stack → Stack) (s : State) : (modStack n f s).fuses = s.fuses := rfl
@[simp] theorem modStack_freeCount (n : Nat) (f : Stack → Stack) (s : State) : (modStack n f s).freeCount = s.freeCount := rfl
@[simp] theorem modStack_attachBuf (n : Nat) (f : Stack → Stack) (s : State) : (modStack n f s).attachBuf = s.attachBuf := rfl

/-! ## modSlot -/

@[simp] theorem modSlot_pending (n : Nat) (f : ColSlot → ColSlot) (s : State) : (modSlot n f s).pending = s.pending := rfl
@[simp] theorem modSlot_glb (n : Nat) (f : ColSlot → ColSlot) (s : State) : (modSlot n f s).glb = s.glb := rfl
@[simp] theorem modSlot_eps (n : Nat) (f : ColSlot → ColSlot) (s : State) : (modSlot n f s).eps = s.eps := rfl
@[simp] theorem modSlot_swc (n : Nat) (f : ColSlot → ColSlot) (s : State) : (modSlot n f s).swc = s.swc := rfl
@[simp] theorem modSlot_pool (n : Nat) (f : ColSlot → ColSlot) (s : State) : (modSlot n f s).pool = s.pool := rfl
@[simp] theorem modSlot_rte (n : Nat) (f : ColSlot → ColSlot) (s : State) : (modSlot n f s).rte = s.rte := rfl
@[simp] theorem modSlot_tick (n : Nat) (f : ColSlot → ColSlot) (s : State) : (modSlot n f s).tick = s.tick := rfl
@[simp] theorem modSlot_mem (n : Nat) (f : ColSlot → ColSlot) (s : State) : (modSlot n f s).mem = s.mem := rfl
@[simp] theorem modSlot_tly (n : Nat) (f : ColSlot → ColSlot) (s : State) : (modSlot n f s).tly = s.tly := rfl
@[simp] theorem modSlot_arr (n : Nat) (f : ColSlot → ColSlot) (s : State) : (modSlot n f s).arr = s.arr := rfl
@[simp] theorem modSlot_svc (n : Nat) (f : ColSlot → ColSlot) (s : State) : (modSlot n f s).svc = s.svc := rfl
@[simp] theorem modSlot_pwr (n : Nat) (f : ColSlot → ColSlot) (s : State) : (modSlot n f s).pwr = s.pwr := rfl
@[simp] theorem modSlot_lanes (n : Nat) (f : ColSlot → ColSlot) (s : State) : (modSlot n f s).lanes = s.lanes := rfl
@[simp] theorem modSlot_mgt (n : Nat) (f : ColSlot → ColSlot) (s : State) : (modSlot n f s).mgt = s.mgt := rfl
@[simp] theorem modSlot_fuses (n : Nat) (f : ColSlot → ColSlot) (s : State) : (modSlot n f s).fuses = s.fuses := rfl
@[simp] theorem modSlot_freeCount (n : Nat) (f : ColSlot → ColSlot) (s : State) : (modSlot n f s).freeCount = s.freeCount := rfl
@[simp] theorem modSlot_attachBuf (n : Nat) (f : ColSlot → ColSlot) (s : State) : (modSlot n f s).attachBuf = s.attachBuf := rfl

/-! ## modArray -/

@[simp] theorem modArray_pending (n : Nat) (f : Arr → Arr) (s : State) : (modArray n f s).pending = s.pending := rfl
@[simp] theorem modArray_glb (n : Nat) (f : Arr → Arr) (s : State) : (modArray n f s).glb = s.glb := rfl
@[simp] theorem modArray_eps (n : Nat) (f : Arr → Arr) (s : State) : (modArray n f s).eps = s.eps := rfl
@[simp] theorem modArray_swc (n : Nat) (f : Arr → Arr) (s : State) : (modArray n f s).swc = s.swc := rfl
@[simp] theorem modArray_pool (n : Nat) (f : Arr → Arr) (s : State) : (modArray n f s).pool = s.pool := rfl
@[simp] theorem modArray_rte (n : Nat) (f : Arr → Arr) (s : State) : (modArray n f s).rte = s.rte := rfl
@[simp] theorem modArray_tick (n : Nat) (f : Arr → Arr) (s : State) : (modArray n f s).tick = s.tick := rfl
@[simp] theorem modArray_mem (n : Nat) (f : Arr → Arr) (s : State) : (modArray n f s).mem = s.mem := rfl
@[simp] theorem modArray_tly (n : Nat) (f : Arr → Arr) (s : State) : (modArray n f s).tly = s.tly := rfl
@[simp] theorem modArray_col (n : Nat) (f : Arr → Arr) (s : State) : (modArray n f s).col = s.col := rfl
@[simp] theorem modArray_svc (n : Nat) (f : Arr → Arr) (s : State) : (modArray n f s).svc = s.svc := rfl
@[simp] theorem modArray_pwr (n : Nat) (f : Arr → Arr) (s : State) : (modArray n f s).pwr = s.pwr := rfl
@[simp] theorem modArray_lanes (n : Nat) (f : Arr → Arr) (s : State) : (modArray n f s).lanes = s.lanes := rfl
@[simp] theorem modArray_mgt (n : Nat) (f : Arr → Arr) (s : State) : (modArray n f s).mgt = s.mgt := rfl
@[simp] theorem modArray_fuses (n : Nat) (f : Arr → Arr) (s : State) : (modArray n f s).fuses = s.fuses := rfl
@[simp] theorem modArray_freeCount (n : Nat) (f : Arr → Arr) (s : State) : (modArray n f s).freeCount = s.freeCount := rfl
@[simp] theorem modArray_attachBuf (n : Nat) (f : Arr → Arr) (s : State) : (modArray n f s).attachBuf = s.attachBuf := rfl

/-! ## modSvcN -/

@[simp] theorem modSvcN_pending (n : Nat) (f : Svc → Svc) (s : State) : (modSvcN n f s).pending = s.pending := rfl
@[simp] theorem modSvcN_glb (n : Nat) (f : Svc → Svc) (s : State) : (modSvcN n f s).glb = s.glb := rfl
@[simp] theorem modSvcN_eps (n : Nat) (f : Svc → Svc) (s : State) : (modSvcN n f s).eps = s.eps := rfl
@[simp] theorem modSvcN_swc (n : Nat) (f : Svc → Svc) (s : State) : (modSvcN n f s).swc = s.swc := rfl
@[simp] theorem modSvcN_pool (n : Nat) (f : Svc → Svc) (s : State) : (modSvcN n f s).pool = s.pool := rfl
@[simp] theorem modSvcN_rte (n : Nat) (f : Svc → Svc) (s : State) : (modSvcN n f s).rte = s.rte := rfl
@[simp] theorem modSvcN_tick (n : Nat) (f : Svc → Svc) (s : State) : (modSvcN n f s).tick = s.tick := rfl
@[simp] theorem modSvcN_mem (n : Nat) (f : Svc → Svc) (s : State) : (modSvcN n f s).mem = s.mem := rfl
@[simp] theorem modSvcN_tly (n : Nat) (f : Svc → Svc) (s : State) : (modSvcN n f s).tly = s.tly := rfl
@[simp] theorem modSvcN_col (n : Nat) (f : Svc → Svc) (s : State) : (modSvcN n f s).col = s.col := rfl
@[simp] theorem modSvcN_arr (n : Nat) (f : Svc → Svc) (s : State) : (modSvcN n f s).arr = s.arr := rfl
@[simp] theorem modSvcN_pwr (n : Nat) (f : Svc → Svc) (s : State) : (modSvcN n f s).pwr = s.pwr := rfl
@[simp] theorem modSvcN_lanes (n : Nat) (f : Svc → Svc) (s : State) : (modSvcN n f s).lanes = s.lanes := rfl
@[simp] theorem modSvcN_mgt (n : Nat) (f : Svc → Svc) (s : State) : (modSvcN n f s).mgt = s.mgt := rfl
@[simp] theorem modSvcN_fuses (n : Nat) (f : Svc → Svc) (s : State) : (modSvcN n f s).fuses = s.fuses := rfl
@[simp] theorem modSvcN_freeCount (n : Nat) (f : Svc → Svc) (s : State) : (modSvcN n f s).freeCount = s.freeCount := rfl
@[simp] theorem modSvcN_attachBuf (n : Nat) (f : Svc → Svc) (s : State) : (modSvcN n f s).attachBuf = s.attachBuf := rfl

/-! ## modNv -/

@[simp] theorem modNv_pending (f : Nv → Nv) (s : State) : (modNv f s).pending = s.pending := rfl
@[simp] theorem modNv_glb (f : Nv → Nv) (s : State) : (modNv f s).glb = s.glb := rfl
@[simp] theorem modNv_eps (f : Nv → Nv) (s : State) : (modNv f s).eps = s.eps := rfl
@[simp] theorem modNv_swc (f : Nv → Nv) (s : State) : (modNv f s).swc = s.swc := rfl
@[simp] theorem modNv_pool (f : Nv → Nv) (s : State) : (modNv f s).pool = s.pool := rfl
@[simp] theorem modNv_rte (f : Nv → Nv) (s : State) : (modNv f s).rte = s.rte := rfl
@[simp] theorem modNv_tick (f : Nv → Nv) (s : State) : (modNv f s).tick = s.tick := rfl
@[simp] theorem modNv_mem (f : Nv → Nv) (s : State) : (modNv f s).mem = s.mem := rfl
@[simp] theorem modNv_tly (f : Nv → Nv) (s : State) : (modNv f s).tly = s.tly := rfl
@[simp] theorem modNv_col (f : Nv → Nv) (s : State) : (modNv f s).col = s.col := rfl
@[simp] theorem modNv_arr (f : Nv → Nv) (s : State) : (modNv f s).arr = s.arr := rfl
@[simp] theorem modNv_svc (f : Nv → Nv) (s : State) : (modNv f s).svc = s.svc := rfl
@[simp] theorem modNv_pwr (f : Nv → Nv) (s : State) : (modNv f s).pwr = s.pwr := rfl
@[simp] theorem modNv_lanes (f : Nv → Nv) (s : State) : (modNv f s).lanes = s.lanes := rfl
@[simp] theorem modNv_fuses (f : Nv → Nv) (s : State) : (modNv f s).fuses = s.fuses := rfl
@[simp] theorem modNv_freeCount (f : Nv → Nv) (s : State) : (modNv f s).freeCount = s.freeCount := rfl
@[simp] theorem modNv_attachBuf (f : Nv → Nv) (s : State) : (modNv f s).attachBuf = s.attachBuf := rfl

/-! ## nvMod -/

@[simp] theorem nvMod_pending (f : Nv → Nv) (s : State) : (nvMod f s).pending = s.pending := rfl
@[simp] theorem nvMod_glb (f : Nv → Nv) (s : State) : (nvMod f s).glb = s.glb := rfl
@[simp] theorem nvMod_eps (f : Nv → Nv) (s : State) : (nvMod f s).eps = s.eps := rfl
@[simp] theorem nvMod_swc (f : Nv → Nv) (s : State) : (nvMod f s).swc = s.swc := rfl
@[simp] theorem nvMod_pool (f : Nv → Nv) (s : State) : (nvMod f s).pool = s.pool := rfl
@[simp] theorem nvMod_rte (f : Nv → Nv) (s : State) : (nvMod f s).rte = s.rte := rfl
@[simp] theorem nvMod_tick (f : Nv → Nv) (s : State) : (nvMod f s).tick = s.tick := rfl
@[simp] theorem nvMod_mem (f : Nv → Nv) (s : State) : (nvMod f s).mem = s.mem := rfl
@[simp] theorem nvMod_tly (f : Nv → Nv) (s : State) : (nvMod f s).tly = s.tly := rfl
@[simp] theorem nvMod_col (f : Nv → Nv) (s : State) : (nvMod f s).col = s.col := rfl
@[simp] theorem nvMod_arr (f : Nv → Nv) (s : State) : (nvMod f s).arr = s.arr := rfl
@[simp] theorem nvMod_svc (f : Nv → Nv) (s : State) : (nvMod f s).svc = s.svc := rfl
@[simp] theorem nvMod_pwr (f : Nv → Nv) (s : State) : (nvMod f s).pwr = s.pwr := rfl
@[simp] theorem nvMod_lanes (f : Nv → Nv) (s : State) : (nvMod f s).lanes = s.lanes := rfl
@[simp] theorem nvMod_fuses (f : Nv → Nv) (s : State) : (nvMod f s).fuses = s.fuses := rfl
@[simp] theorem nvMod_freeCount (f : Nv → Nv) (s : State) : (nvMod f s).freeCount = s.freeCount := rfl
@[simp] theorem nvMod_attachBuf (f : Nv → Nv) (s : State) : (nvMod f s).attachBuf = s.attachBuf := rfl

/-! ## modSess -/

@[simp] theorem modSess_pending (n : Nat) (f : Session → Session) (s : State) : (modSess n f s).pending = s.pending := rfl
@[simp] theorem modSess_glb (n : Nat) (f : Session → Session) (s : State) : (modSess n f s).glb = s.glb := rfl
@[simp] theorem modSess_eps (n : Nat) (f : Session → Session) (s : State) : (modSess n f s).eps = s.eps := rfl
@[simp] theorem modSess_swc (n : Nat) (f : Session → Session) (s : State) : (modSess n f s).swc = s.swc := rfl
@[simp] theorem modSess_pool (n : Nat) (f : Session → Session) (s : State) : (modSess n f s).pool = s.pool := rfl
@[simp] theorem modSess_rte (n : Nat) (f : Session → Session) (s : State) : (modSess n f s).rte = s.rte := rfl
@[simp] theorem modSess_tick (n : Nat) (f : Session → Session) (s : State) : (modSess n f s).tick = s.tick := rfl
@[simp] theorem modSess_mem (n : Nat) (f : Session → Session) (s : State) : (modSess n f s).mem = s.mem := rfl
@[simp] theorem modSess_tly (n : Nat) (f : Session → Session) (s : State) : (modSess n f s).tly = s.tly := rfl
@[simp] theorem modSess_col (n : Nat) (f : Session → Session) (s : State) : (modSess n f s).col = s.col := rfl
@[simp] theorem modSess_arr (n : Nat) (f : Session → Session) (s : State) : (modSess n f s).arr = s.arr := rfl
@[simp] theorem modSess_svc (n : Nat) (f : Session → Session) (s : State) : (modSess n f s).svc = s.svc := rfl
@[simp] theorem modSess_pwr (n : Nat) (f : Session → Session) (s : State) : (modSess n f s).pwr = s.pwr := rfl
@[simp] theorem modSess_lanes (n : Nat) (f : Session → Session) (s : State) : (modSess n f s).lanes = s.lanes := rfl
@[simp] theorem modSess_fuses (n : Nat) (f : Session → Session) (s : State) : (modSess n f s).fuses = s.fuses := rfl
@[simp] theorem modSess_freeCount (n : Nat) (f : Session → Session) (s : State) : (modSess n f s).freeCount = s.freeCount := rfl
@[simp] theorem modSess_attachBuf (n : Nat) (f : Session → Session) (s : State) : (modSess n f s).attachBuf = s.attachBuf := rfl

/-! ## modRel -/

@[simp] theorem modRel_pending (p : Point) (f : Rel → Rel) (s : State) : (modRel p f s).pending = s.pending := by cases p <;> rfl
@[simp] theorem modRel_glb (p : Point) (f : Rel → Rel) (s : State) : (modRel p f s).glb = s.glb := by cases p <;> rfl
@[simp] theorem modRel_swc (p : Point) (f : Rel → Rel) (s : State) : (modRel p f s).swc = s.swc := by cases p <;> rfl
@[simp] theorem modRel_pool (p : Point) (f : Rel → Rel) (s : State) : (modRel p f s).pool = s.pool := by cases p <;> rfl
@[simp] theorem modRel_tick (p : Point) (f : Rel → Rel) (s : State) : (modRel p f s).tick = s.tick := by cases p <;> rfl
@[simp] theorem modRel_mem (p : Point) (f : Rel → Rel) (s : State) : (modRel p f s).mem = s.mem := by cases p <;> rfl
@[simp] theorem modRel_tly (p : Point) (f : Rel → Rel) (s : State) : (modRel p f s).tly = s.tly := by cases p <;> rfl
@[simp] theorem modRel_col (p : Point) (f : Rel → Rel) (s : State) : (modRel p f s).col = s.col := by cases p <;> rfl
@[simp] theorem modRel_arr (p : Point) (f : Rel → Rel) (s : State) : (modRel p f s).arr = s.arr := by cases p <;> rfl
@[simp] theorem modRel_svc (p : Point) (f : Rel → Rel) (s : State) : (modRel p f s).svc = s.svc := by cases p <;> rfl
@[simp] theorem modRel_pwr (p : Point) (f : Rel → Rel) (s : State) : (modRel p f s).pwr = s.pwr := by cases p <;> rfl
@[simp] theorem modRel_lanes (p : Point) (f : Rel → Rel) (s : State) : (modRel p f s).lanes = s.lanes := by cases p <;> rfl
@[simp] theorem modRel_mgt (p : Point) (f : Rel → Rel) (s : State) : (modRel p f s).mgt = s.mgt := by cases p <;> rfl
@[simp] theorem modRel_fuses (p : Point) (f : Rel → Rel) (s : State) : (modRel p f s).fuses = s.fuses := by cases p <;> rfl
@[simp] theorem modRel_freeCount (p : Point) (f : Rel → Rel) (s : State) : (modRel p f s).freeCount = s.freeCount := by cases p <;> rfl
@[simp] theorem modRel_attachBuf (p : Point) (f : Rel → Rel) (s : State) : (modRel p f s).attachBuf = s.attachBuf := by cases p <;> rfl

/-! ## keepFixed -/

@[simp] theorem keepFixed_pending (s t : State) : (keepFixed s t).pending = s.pending := rfl
@[simp] theorem keepFixed_glb (s t : State) : (keepFixed s t).glb = t.glb := rfl
@[simp] theorem keepFixed_eps (s t : State) : (keepFixed s t).eps = t.eps := rfl
@[simp] theorem keepFixed_swc (s t : State) : (keepFixed s t).swc = t.swc := rfl
@[simp] theorem keepFixed_pool (s t : State) : (keepFixed s t).pool = t.pool := rfl
@[simp] theorem keepFixed_rte (s t : State) : (keepFixed s t).rte = t.rte := rfl
@[simp] theorem keepFixed_tick (s t : State) : (keepFixed s t).tick = t.tick := rfl
@[simp] theorem keepFixed_mem (s t : State) : (keepFixed s t).mem = t.mem := rfl
@[simp] theorem keepFixed_tly (s t : State) : (keepFixed s t).tly = t.tly := rfl
@[simp] theorem keepFixed_col (s t : State) : (keepFixed s t).col = t.col := rfl
@[simp] theorem keepFixed_arr (s t : State) : (keepFixed s t).arr = t.arr := rfl
@[simp] theorem keepFixed_svc (s t : State) : (keepFixed s t).svc = t.svc := rfl
@[simp] theorem keepFixed_pwr (s t : State) : (keepFixed s t).pwr = t.pwr := rfl
@[simp] theorem keepFixed_lanes (s t : State) : (keepFixed s t).lanes = t.lanes := rfl
@[simp] theorem keepFixed_mgt (s t : State) : (keepFixed s t).mgt = t.mgt := rfl
@[simp] theorem keepFixed_fuses (s t : State) : (keepFixed s t).fuses = s.fuses := rfl
@[simp] theorem keepFixed_freeCount (s t : State) : (keepFixed s t).freeCount = t.freeCount := rfl
@[simp] theorem keepFixed_attachBuf (s t : State) : (keepFixed s t).attachBuf = s.attachBuf := rfl

/-! ## The parts within the parts -/

@[simp] theorem epOf_modEp (n : Nat) (f : Ep → Ep) (s : State) : epOf (modEp n f s) n = f (epOf s n) := tabGet_mod_same _ _ _ _
theorem epOf_modEp_other {n m : Nat} (f : Ep → Ep) (s : State) (h : m ≠ n) : epOf (modEp n f s) m = epOf s m :=
  tabGet_mod_other _ _ _ h
@[simp] theorem portOf_modPort (n : Nat) (f : Port → Port) (s : State) : portOf (modPort n f s) n = f (portOf s n) := tabGet_mod_same _ _ _ _
theorem portOf_modPort_other {n m : Nat} (f : Port → Port) (s : State) (h : m ≠ n) : portOf (modPort n f s) m = portOf s m :=
  tabGet_mod_other _ _ _ h
@[simp] theorem laneAt_modLane (n : Nat) (f : Lane → Lane) (s : State) : laneAt (modLane n f s) n = f (laneAt s n) := tabGet_mod_same _ _ _ _
theorem laneAt_modLane_other {n m : Nat} (f : Lane → Lane) (s : State) (h : m ≠ n) : laneAt (modLane n f s) m = laneAt s m :=
  tabGet_mod_other _ _ _ h
@[simp] theorem chanOf_modChan (n : Nat) (f : Channel → Channel) (s : State) : chanOf (modChan n f s) n = f (chanOf s n) := tabGet_mod_same _ _ _ _
theorem chanOf_modChan_other {n m : Nat} (f : Channel → Channel) (s : State) (h : m ≠ n) : chanOf (modChan n f s) m = chanOf s m :=
  tabGet_mod_other _ _ _ h
@[simp] theorem stackOfN_modStack (n : Nat) (f : Stack → Stack) (s : State) : stackOfN (modStack n f s) n = f (stackOfN s n) := tabGet_mod_same _ _ _ _
@[simp] theorem slotOf_modSlot (n : Nat) (f : ColSlot → ColSlot) (s : State) : slotOf (modSlot n f s) n = f (slotOf s n) := tabGet_mod_same _ _ _ _
theorem slotOf_modSlot_other {n m : Nat} (f : ColSlot → ColSlot) (s : State) (h : m ≠ n) : slotOf (modSlot n f s) m = slotOf s m :=
  tabGet_mod_other _ _ _ h
@[simp] theorem arrOf_modArray (n : Nat) (f : Arr → Arr) (s : State) : arrOf (modArray n f s) n = f (arrOf s n) := tabGet_mod_same _ _ _ _
@[simp] theorem svcOf_modSvcN (n : Nat) (f : Svc → Svc) (s : State) : svcOf (modSvcN n f s) n = f (svcOf s n) := tabGet_mod_same _ _ _ _
@[simp] theorem sessAt_modSess (n : Nat) (f : Session → Session) (s : State) : sessAt (modSess n f s) n = (sessAt s n).map f :=
  tabGet_mod_same _ _ _ _
theorem sessAt_modSess_other {n m : Nat} (f : Session → Session) (s : State) (h : m ≠ n) : sessAt (modSess n f s) m = sessAt s m :=
  tabGet_mod_other _ _ _ h
@[simp] theorem relOf_modRel (p : Point) (f : Rel → Rel) (s : State) : relOf (modRel p f s) p = f (relOf s p) := by
  cases p with
  | ep n => simp [relOf, modRel]
  | rte => rfl
@[simp] theorem nvMod_nv (f : Nv → Nv) (s : State) : (nvMod f s).mgt.nv = f s.mgt.nv := rfl
@[simp] theorem modSess_nv (n : Nat) (f : Session → Session) (s : State) : (modSess n f s).mgt.nv = s.mgt.nv := rfl

/-! ## Two updates of one part -/

theorem modGlb_modGlb (f g : Glb → Glb) (s : State) : modGlb f (modGlb g s) = modGlb (fun x => f (g x)) s := rfl
theorem modSwc_modSwc (f g : Swc → Swc) (s : State) : modSwc f (modSwc g s) = modSwc (fun x => f (g x)) s := rfl
theorem modPool_modPool (f g : Pool → Pool) (s : State) : modPool f (modPool g s) = modPool (fun x => f (g x)) s := rfl
theorem modRte_modRte (f g : Rte → Rte) (s : State) : modRte f (modRte g s) = modRte (fun x => f (g x)) s := rfl
theorem modTick_modTick (f g : TickUnit → TickUnit) (s : State) : modTick f (modTick g s) = modTick (fun x => f (g x)) s := rfl
theorem modMem_modMem (f g : Mem → Mem) (s : State) : modMem f (modMem g s) = modMem (fun x => f (g x)) s := rfl
theorem modTly_modTly (f g : Tly → Tly) (s : State) : modTly f (modTly g s) = modTly (fun x => f (g x)) s := rfl
theorem modCol_modCol (f g : Col → Col) (s : State) : modCol f (modCol g s) = modCol (fun x => f (g x)) s := rfl
theorem modArr_modArr (f g : ArrUnit → ArrUnit) (s : State) : modArr f (modArr g s) = modArr (fun x => f (g x)) s := rfl
theorem modSvc_modSvc (f g : SvcUnit → SvcUnit) (s : State) : modSvc f (modSvc g s) = modSvc (fun x => f (g x)) s := rfl
theorem modPwr_modPwr (f g : Pwr → Pwr) (s : State) : modPwr f (modPwr g s) = modPwr (fun x => f (g x)) s := rfl
theorem modLanes_modLanes (f g : LaneUnit → LaneUnit) (s : State) : modLanes f (modLanes g s) = modLanes (fun x => f (g x)) s := rfl
theorem modMgt_modMgt (f g : Mgt → Mgt) (s : State) : modMgt f (modMgt g s) = modMgt (fun x => f (g x)) s := rfl
theorem modEp_modEp (n : Nat) (f g : Ep → Ep) (s : State) : modEp n f (modEp n g s) = modEp n (fun x => f (g x)) s := by
  simp [modEp, modEp]
theorem modPort_modPort (n : Nat) (f g : Port → Port) (s : State) : modPort n f (modPort n g s) = modPort n (fun x => f (g x)) s := by
  simp [modPort, modLanes]
theorem modLane_modLane (n : Nat) (f g : Lane → Lane) (s : State) : modLane n f (modLane n g s) = modLane n (fun x => f (g x)) s := by
  simp [modLane, modLanes]
theorem modChan_modChan (n : Nat) (f g : Channel → Channel) (s : State) : modChan n f (modChan n g s) = modChan n (fun x => f (g x)) s := by
  simp [modChan, modMem]
theorem modStack_modStack (n : Nat) (f g : Stack → Stack) (s : State) : modStack n f (modStack n g s) = modStack n (fun x => f (g x)) s := by
  simp [modStack, modMem]
theorem modSlot_modSlot (n : Nat) (f g : ColSlot → ColSlot) (s : State) : modSlot n f (modSlot n g s) = modSlot n (fun x => f (g x)) s := by
  simp [modSlot, modCol]
theorem modArray_modArray (n : Nat) (f g : Arr → Arr) (s : State) : modArray n f (modArray n g s) = modArray n (fun x => f (g x)) s := by
  simp [modArray, modArr]
theorem modSvcN_modSvcN (n : Nat) (f g : Svc → Svc) (s : State) : modSvcN n f (modSvcN n g s) = modSvcN n (fun x => f (g x)) s := by
  simp [modSvcN, modSvc]

/-! ## Outcomes -/

/-- A powered module takes the command's effect. -/
theorem live_next {s t : State} (h : s.pwr.powered = true) : live s t = .next (keepFixed s t) := by simp [live, h]
theorem liveFuses_next {s t : State} (h : s.pwr.powered = true) :
    liveFuses s t = .next { keepFixed s t with fuses := t.fuses } := by simp [liveFuses, h]
theorem liveIf_next {ok : Bool} {u : String} {s t : State} (hok : ok = true) (h : s.pwr.powered = true) :
    liveIf ok u s t = .next (keepFixed s t) := by simp [liveIf, hok, live, h]
/-- A command whose unit does not exist is refused, and no other is. -/
theorem liveIf_refused {u : String} {s t : State} : liveIf false u s t = .refused (.noSuchUnit u) := rfl

end Sys2Proof.Machine
end

