-- ==== Sys2Proof/Laws/Ops.lean ====
section
/-! SUPPORT. What the shared operations can do: the ledger, device fault records, and an answered session command. -/

namespace Sys2Proof.Machine

open Sys2Proof

/-! ## The free counter and the ledger -/

theorem tallyInc_tly (i : Nat) (s : State) : tallyInc i s = { s with tly := (tallyInc i s).tly } := rfl

theorem ledgerStoreOne_frame (s : State) : ledgerStoreOne s = { s with mgt := { s.mgt with
    queue := (ledgerStoreOne s).mgt.queue, store := (ledgerStoreOne s).mgt.store, headSeq := (ledgerStoreOne s).mgt.headSeq
    overwritten := (ledgerStoreOne s).mgt.overwritten } } := by
  unfold ledgerStoreOne
  split <;> rfl

/-- A session entry changes the ledger and the free counter, and nothing else. -/
theorem ledgerSession_frame (type role result : Nat) (cred : BitVec 64) (d : BitVec 352) (s : State) :
    ∃ q st h o, ledgerSession type role result cred d s =
      { s with mgt := { s.mgt with queue := q, store := st, headSeq := h, overwritten := o }, freeCount := s.freeCount + 1 } := by
  unfold ledgerSession ledgerEntry takeFree modMgt
  split
  · rw [ledgerStoreOne_frame]
    exact ⟨_, _, _, _, rfl⟩
  · exact ⟨_, _, _, _, rfl⟩

/-! ## Device faults -/

theorem FaultOnly.refl (s : State) : FaultOnly s s := rfl

theorem FaultOnly.trans {s t u : State} (h : FaultOnly s t) (k : FaultOnly t u) : FaultOnly s u := by
  unfold FaultOnly at *
  rw [k, h]

theorem ledgerDevice_only (type result : Nat) (d : BitVec 352) (s : State) : FaultOnly s (ledgerDevice type result d s) := by
  unfold ledgerDevice ledgerEntry takeFree FaultOnly
  split <;> rfl

theorem modGlb_only {f : Glb → Glb} {s : State} (h : f s.glb = { s.glb with
    faults := (f s.glb).faults, overflow := (f s.glb).overflow, fatal := (f s.glb).fatal, lost := (f s.glb).lost }) :
    FaultOnly s (modGlb f s) := by
  unfold FaultOnly
  simp only [modGlb] at *
  rw [← h]

theorem setFatal_only (c : Prop) [Decidable c] (s : State) :
    FaultOnly s (if c then modGlb (fun g => { g with fatal := true }) s else s) := by
  split
  · exact modGlb_only (f := fun g => { g with fatal := true }) rfl
  · exact FaultOnly.refl _

theorem faultEscalate_only (r : FaultRec) (s : State) : FaultOnly s (faultEscalate r s) := by
  have h : FaultOnly s (if sevError ≤ r.severity then ledgerDevice 7 0 (BitVec.ofNat 352 (leNat (faultBytes r))) s else s) := by
    split
    · exact ledgerDevice_only _ _ _ _
    · exact FaultOnly.refl _
  exact h.trans (setFatal_only _ _)

theorem faultNotify_only (r : FaultRec) (s : State) : FaultOnly s (faultNotify r s) := by
  unfold faultNotify
  split
  · exact rfl
  · exact FaultOnly.refl _

theorem devMerge_only (i : Nat) (r : FaultRec) (s : State) : FaultOnly s (devMerge i r s) := by
  unfold devMerge
  split
  · exact FaultOnly.refl _
  · dsimp only
    split
    · exact (modGlb_only rfl).trans (faultEscalate_only _ _)
    · exact modGlb_only rfl

theorem devRecord_only (r : FaultRec) (s : State) : FaultOnly s (devRecord r s) := by
  unfold devRecord
  dsimp only
  split
  · exact devMerge_only _ _ _
  · split
    · exact ((modGlb_only rfl).trans (faultEscalate_only _ _)).trans (faultNotify_only _ _)
    · split
      · exact (devMerge_only _ _ _).trans (modGlb_only rfl)
      · split
        · exact ((modGlb_only rfl).trans (faultEscalate_only _ _)).trans (faultNotify_only _ _)
        · exact modGlb_only rfl

theorem devFault_only (kind : Byte) (sev : BitVec 2) (code : Byte) (port key detail : Nat) (src : BitVec 12) (s : State) :
    FaultOnly s (devFault kind sev code port key detail src s) := devRecord_only _ _

theorem devFault0_only (kind : Byte) (sev : BitVec 2) (key detail : Nat) (s : State) :
    FaultOnly s (devFault0 kind sev key detail s) := devRecord_only _ _

/-! ## That a record is there -/

@[simp] theorem ledgerDevice_glb (type result : Nat) (d : BitVec 352) (s : State) : (ledgerDevice type result d s).glb = s.glb := by
  unfold ledgerDevice ledgerEntry takeFree
  split <;> rfl

@[simp] theorem faultEscalate_faults (r : FaultRec) (s : State) : (faultEscalate r s).glb.faults = s.glb.faults := by
  unfold faultEscalate
  dsimp only
  split <;> split <;> simp [modGlb]

@[simp] theorem faultNotify_glb (r : FaultRec) (s : State) : (faultNotify r s).glb = s.glb := by
  unfold faultNotify
  split <;> rfl

theorem nthMod_mem {α : Type} {l : List α} {i : Nat} {o : α} (m : α) (h : l[i]? = some o) : m ∈ nthMod l i (fun _ => m) := by
  induction l generalizing i with
  | nil => simp at h
  | cons x t ih =>
    cases i with
    | zero => simp [nthMod]
    | succ i => simp only [List.getElem?_cons_succ] at h; simp [nthMod, ih h]

theorem devMerge_faults {i : Nat} {r o : FaultRec} {s : State} (h : s.glb.faults[i]? = some o) :
    mergeRec o r ∈ (devMerge i r s).glb.faults := by
  unfold devMerge
  rw [h]
  dsimp only
  split <;> simpa [modGlb] using nthMod_mem (mergeRec o r) h

theorem mergeRec_severity (o r : FaultRec) : r.severity ≤ (mergeRec o r).severity := by
  unfold mergeRec
  dsimp only
  split
  · exact BitVec.le_refl _
  · exact BitVec.not_lt.mp (by assumption)

/-- A fault offered while the queue has space is in it, merged or new (R392). -/
theorem devRecord_recorded (r : FaultRec) (s : State) (h : s.glb.faults.length < 1024) :
    ∃ q ∈ (devRecord r s).glb.faults, q.kind = r.kind ∧ q.key = r.key ∧ r.severity ≤ q.severity := by
  unfold devRecord
  dsimp only
  split
  · rename_i i hi
    obtain ⟨hlt, hp, -⟩ := List.findIdx?_eq_some_iff_getElem.mp hi
    have hget : s.glb.faults[i + ofB s.glb.shown]? = some (s.glb.faults.drop (ofB s.glb.shown))[i] := by
      rw [← List.getElem?_eq_getElem hlt, List.getElem?_drop, Nat.add_comm]
    simp only [Bool.and_eq_true, decide_eq_true_eq] at hp
    exact ⟨_, devMerge_faults hget, hp.1, hp.2, mergeRec_severity _ _⟩
  · rw [if_pos h]
    exact ⟨r, by simp [modGlb], rfl, rfl, BitVec.le_refl _⟩

theorem devFault_recorded (kind : Byte) (sev : BitVec 2) (code : Byte) (port key detail : Nat) (src : BitVec 12) (s : State)
    (h : s.glb.faults.length < 1024) : Recorded (devFault kind sev code port key detail src s) kind sev key := devRecord_recorded _ _ h

theorem devFault0_recorded (kind : Byte) (sev : BitVec 2) (key detail : Nat) (s : State) (h : s.glb.faults.length < 1024) :
    Recorded (devFault0 kind sev key detail s) kind sev key := devRecord_recorded _ _ h

/-! ## What keeps the queue, the fuses and the buffers' size -/

theorem keepFixed_self {s t : State} (hp : t.pending = s.pending) (hf : t.fuses = s.fuses) (ha : t.attachBuf = s.attachBuf) :
    keepFixed s t = t := by
  unfold keepFixed
  rw [← hp, ← hf, ← ha]

theorem FaultOnly.keepFixed {s u t : State} (h : FaultOnly u t) (hp : u.pending = s.pending) (hf : u.fuses = s.fuses)
    (ha : u.attachBuf = s.attachBuf) : keepFixed s t = t := by
  unfold FaultOnly at h
  apply keepFixed_self <;> rw [h] <;> assumption

end Sys2Proof.Machine
end

