-- ==== Sys2Proof/Laws/Mahel.lean ====
section
/-! SUPPORT. Session commands: what withSession, a reply and an entry leave, and what a register write under its own row does. -/

namespace Sys2Proof.Machine

open Sys2Proof

/-- The state in which a session's command runs: its message is counted. -/
abbrev countIn (i : Nat) (s : State) : State := modSess i (fun y => { y with inCount := y.inCount + 1 }) s

theorem withSession_open {s : State} {i : Nat} {x : Session} (h : HasSession s i x) (f : Session → State → State) :
    withSession i f s = f x (countIn i s) := by
  unfold withSession
  rw [h.1]
  exact if_pos h.2

/-- A connection without an OPEN session serves nothing (R463). -/
theorem withSession_closed {s : State} {i : Nat} (h : ∀ x, ¬ HasSession s i x) (f : Session → State → State) :
    withSession i f s = s := by
  unfold withSession
  split
  · rename_i x hx
    rw [if_neg fun ho => h x ⟨hx, ho⟩]
  · rfl

/-- An entry of the session and a reply, on the state that the command's effect gives `u`. -/
theorem reply_answered (i : Nat) (mtype result : Byte) (body : List Byte) (type role res : Nat) (cred : BitVec 64) (d : BitVec 352) (u : State) :
    Answered u (reply i mtype result body (ledgerSession type role res cred d (countIn i u))) i ⟨i, mtype ||| 0x80, some result, body⟩ := by
  obtain ⟨q, st, h, o, he⟩ := ledgerSession_frame type role res cred d (countIn i u)
  rw [he]
  constructor
  · rfl
  · rfl
  · simp [reply, modSess, modMgt, sessAt]
    cases tabGet none u.mgt.sessions i <;> rfl
  · intro j hj
    simp [reply, modSess, modMgt, sessAt, tabGet_mod_other _ _ _ hj]

/-- A reply alone. -/
theorem reply_only (i : Nat) (mtype result : Byte) (body : List Byte) (u : State) :
    Answered u (reply i mtype result body (countIn i u)) i ⟨i, mtype ||| 0x80, some result, body⟩ := by
  constructor
  · rfl
  · rfl
  · simp [reply, modSess, modMgt, sessAt]
    cases tabGet none u.mgt.sessions i <;> rfl
  · intro j hj
    simp [reply, modSess, modMgt, sessAt, tabGet_mod_other _ _ _ hj]

theorem sessEntry_reply (i : Nat) (mtype result : Byte) (body : List Byte) (type : Nat) (x : Session) (res : Byte)
    (fields : List (Nat × Nat × Nat)) (u : State) :
    Answered u (reply i mtype result body (sessEntry type x res fields (countIn i u))) i ⟨i, mtype ||| 0x80, some result, body⟩ :=
  reply_answered _ _ _ _ _ _ _ _ _ _

/-- What a register shows does not rest on message counts. -/
theorem peekReg_countIn (i : Nat) (u : State) (r : Reg) : peekReg (countIn i u) r = peekReg u r := by
  cases r <;> rfl

/-- A register write carried out, whose effect on `s` is `u`. -/
theorem writeDone_answered (i : Nat) (x : Session) (r : Reg) (off old v : W32) (w : Wrote) (u : State) (hw : w.state = countIn i u) :
    Answered u (writeDone i x r off old v w) i (writeReply i u r w.busy) := by
  unfold writeDone writeReply
  rw [hw, peekReg_countIn]
  dsimp only
  by_cases h : w.refused = true
  · rw [if_pos h]
    exact sessEntry_reply _ _ _ _ _ _ _ _ _
  · rw [if_neg h]
    exact sessEntry_reply _ _ _ _ _ _ _ _ _

theorem Answered.fixed {s t : State} {i : Nat} {r : Reply} (h : Answered s t i r) :
    t.pending = s.pending ∧ t.fuses = s.fuses ∧ t.attachBuf = s.attachBuf ∧ t.pwr = s.pwr := by
  rw [h.frame]
  exact ⟨rfl, rfl, rfl, rfl⟩

/-- A WRITE by a role that may make it, in a module that serves the map (R466, R492, R493). -/
theorem write_row {s u : State} {i : Nat} {x : Session} {r : Reg} {off v : W32} {b : Bool} (hs : Serving s) (ho : HasSession s i x)
    (hr : regOf off.toNat = some r) (hm : mayWrite x.role r = true)
    (hw : (writeReg x.role r v (countIn i s)).state = countIn i u) (hb : (writeReg x.role r v (countIn i s)).busy = b)
    (hp : u.pending = s.pending) (hf : u.fuses = s.fuses) (ha : u.attachBuf = s.attachBuf) :
    ∃ t, live s (mahelWrite i off v s) = .next t ∧ Answered u t i (writeReply i u r b) := by
  have hd := writeDone_answered i x r off (peekReg (countIn i s) r) v (writeReg x.role r v (countIn i s)) u hw
  rw [hb] at hd
  refine ⟨_, ?_, hd⟩
  obtain ⟨h1, h2, h3, -⟩ := hd.fixed
  rw [live_next hs.1, mahelWrite, withSession_open ho, hr]
  dsimp only
  have hsv : served (countIn i s) r = true := by
    have hrec : (countIn i s).mgt.recovery = false := hs.2
    simp only [served, hrec, Bool.not_false, Bool.true_or]
  rw [if_neg (by simp [hsv]), if_neg (by simp [hm]), keepFixed_self]
  · rw [h1, hp]
  · rw [h2, hf]
  · rw [h3, ha]

/-- Any WRITE carried out: everything but the session, the reply and the ledger stands as the register's write left it. -/
theorem write_state {s : State} {i : Nat} {x : Session} {r : Reg} {off v : W32} (hs : Serving s) (ho : HasSession s i x)
    (hr : regOf off.toNat = some r) (hm : mayWrite x.role r = true) :
    ∃ t w, live s (mahelWrite i off v s) = .next t
      ∧ t = { keepFixed s (writeReg x.role r v (countIn i s)).state with mgt := t.mgt, freeCount := t.freeCount }
      ∧ t.mgt = { (writeReg x.role r v (countIn i s)).state.mgt with
        sessions := t.mgt.sessions, replies := (writeReg x.role r v (countIn i s)).state.mgt.replies ++ [⟨i, 0x91, some resOk, bvBytes w⟩]
        wire := t.mgt.wire, queue := t.mgt.queue, store := t.mgt.store, headSeq := t.mgt.headSeq, overwritten := t.mgt.overwritten }
      ∧ w = peekReg (writeReg x.role r v (countIn i s)).state r ||| (if (writeReg x.role r v (countIn i s)).busy then 0x80000000 else 0) := by
  have hsv : served (countIn i s) r = true := by
    have hrec : (countIn i s).mgt.recovery = false := hs.2
    simp only [served, hrec, Bool.not_false, Bool.true_or]
  rw [live_next hs.1, mahelWrite, withSession_open ho, hr]
  dsimp only
  rw [if_neg (by simp [hsv]), if_neg (by simp [hm])]
  generalize writeReg x.role r v (countIn i s) = W
  refine ⟨_, _, rfl, ?_, ?_, rfl⟩
  all_goals
    unfold writeDone sessEntry
    dsimp only
    by_cases h : W.refused = true
    · rw [if_pos h]
      obtain ⟨a, b, c, d, he⟩ := ledgerSession_frame 3 x.role.toNat resOk.toNat x.credId
        (detailOf (writeFields off (peekReg (countIn i s) r) (peekReg W.state r ||| (if W.busy then 0x80000000 else 0)) v ++ [(16, 1, 0x11)])) W.state
      rw [he]
      rfl
    · rw [if_neg h]
      obtain ⟨a, b, c, d, he⟩ := ledgerSession_frame 2 x.role.toNat resOk.toNat x.credId
        (detailOf (writeFields off (peekReg (countIn i s) r) (peekReg W.state r ||| (if W.busy then 0x80000000 else 0)) v)) W.state
      rw [he]
      rfl

/-! ## Roles that may write (R493) -/

theorem may_both {x : Session} {r : Reg} (h : x.role = 1 ∨ x.role = 2) (hw : writersOf r = .both) : mayWrite x.role r = true := by
  rcases h with h | h <;> simp [mayWrite, hw, h]

theorem may_operator {x : Session} {r : Reg} (h : x.role = 1) (hw : writersOf r = .operator) : mayWrite x.role r = true := by
  simp [mayWrite, hw, h]

theorem may_installer {x : Session} {r : Reg} (h : x.role = 2) (hw : writersOf r = .installer) : mayWrite x.role r = true := by
  simp [mayWrite, hw, h]

/-! ## The FNID -/

theorem evalFnid_frame (s : State) : evalFnid s = { s with glb := (evalFnid s).glb } := by
  unfold evalFnid
  dsimp only
  split
  · rfl
  · split <;> rfl
  · rfl

theorem fnidCause_evalFnid (s : State) : fnidCause (evalFnid s) = fnidCause s := by
  unfold evalFnid
  dsimp only
  split
  · rfl
  · split <;> rfl
  · rfl

/-- Evaluating again changes nothing. -/
theorem evalFnid_idem (s : State) : evalFnid (evalFnid s) = evalFnid s := by
  have h := fnidCause_evalFnid s
  have hm : (evalFnid s).mgt = s.mgt := by rw [evalFnid_frame]
  rw [evalFnid, h, hm]
  conv => lhs; rw [evalFnid]
  unfold evalFnid
  dsimp only
  split
  · rfl
  · split <;> rfl
  · rename_i c hne _
    cases c with
    | zero => exact absurd rfl hne
    | succ c => rfl

theorem evalFnid_countIn (i : Nat) (s : State) : evalFnid (countIn i s) = countIn i (evalFnid s) := by
  have h : fnidCause (countIn i s) = fnidCause s := rfl
  unfold evalFnid
  rw [h]
  dsimp only
  cases fnidCause s with
  | none => rfl
  | some c =>
    cases c with
    | zero =>
      by_cases hb : bitAt s.mgt.nv.fnidPin 31 = true
      · have hb' : bitAt (countIn i s).mgt.nv.fnidPin 31 = true := hb
        simp only [if_pos hb, if_pos hb']
        rfl
      · have hb' : ¬ bitAt (countIn i s).mgt.nv.fnidPin 31 = true := hb
        simp only [if_neg hb, if_neg hb']
        rfl
    | succ c => rfl

end Sys2Proof.Machine
end

