-- ==== Sys2Proof/Laws/RegMap.lean ====
section
/-! SUPPORT. The register at a computed offset (R489, R490, R496-R511). -/

namespace Sys2Proof.Machine

open Sys2Proof

theorem offOf_toNat {base o : Nat} (h : base + o < 2 ^ 32) : (offOf base o).toNat = base + o := by
  rw [offOf, BitVec.toNat_ofNat, Nat.mod_eq_of_lt h]

theorem regOf_portCfg {n : Nat} (h : n < 64) : regOf (offOf 0x02000000 (0x10 * n)).toNat = some (.portCfg n) := by
  revert n; decide

theorem regOf_srcFnid {n : Nat} (h : n < 64) : regOf (epOff n 0).toNat = some (.srcFnid n) := by
  revert n; decide

theorem regOf_winCtl {n : Nat} (h : n < 64) : regOf (epOff n 4).toNat = some (.winCtl n) := by
  revert n; decide

theorem regOf_retxCfg {n : Nat} (h : n < 64) : regOf (epOff n 0x34).toNat = some (.retxCfg (.ep n)) := by
  revert n; decide

theorem regOf_ltrPort {n : Nat} (h : n < 64) : regOf (offOf 0x0D000000 (4 * n)).toNat = some (.ltrPort n) := by
  revert n; decide

theorem regOf_classCfg {c : Nat} (h : c < 4) : regOf (offOf 0x05000000 (4 * c)).toNat = some (.classCfg c) := by
  revert c; decide

theorem regOf_thresh {c : Nat} (h : c < 4) : regOf (offOf 0x05000010 (4 * c)).toNat = some (.thresh c) := by
  revert c; decide

theorem regOf_portLimit {c : Nat} (h : c < 4) : regOf (offOf 0x05000020 (4 * c)).toNat = some (.portLimit c) := by
  revert c; decide

theorem regOf_trunkEn {k : Nat} (h : k < 2) : regOf (offOf 0x06000010 (4 * k)).toNat = some (.trunkEn k) := by
  revert k; decide

theorem rteReg_dest {f : Nat} (h : f < 2048) : rteReg (0x4000 + 4 * f) = some (.dest f) := by
  unfold rteReg pairIn regAt
  split <;> first | omega | skip
  repeat rw [if_neg (by omega)]
  simp only [Option.none_or]
  rw [if_pos (by omega)]
  congr 2
  omega

theorem regOf_dest {f : Nat} (h : f < 2048) : regOf (offOf 0x06004000 (4 * f)).toNat = some (.dest f) := by
  rw [offOf_toNat (by omega)]
  have h1 : (0x06004000 + 4 * f) % 4 = 0 := by omega
  have h2 : (0x06004000 + 4 * f) / 2 ^ 24 = 6 := by omega
  have h3 : (0x06004000 + 4 * f) % 2 ^ 24 = 0x4000 + 4 * f := by omega
  unfold regOf
  simp only [h1, h2, h3]
  exact rteReg_dest h

theorem colReg_colMember {i : Nat} (h : i < 32768) : colReg (0x20000 + 4 * i) = some (.colMember i) := by
  unfold colReg regAt
  split <;> first | omega | skip
  repeat rw [if_neg (by omega)]
  simp only [Option.none_or]
  rw [if_pos (by omega)]
  congr 2
  omega

theorem regOf_colMember {i : Nat} (h : i < 32768) : regOf (offOf 0x07020000 (4 * i)).toNat = some (.colMember i) := by
  rw [offOf_toNat (by omega)]
  have h1 : (0x07020000 + 4 * i) % 4 = 0 := by omega
  have h2 : (0x07020000 + 4 * i) / 2 ^ 24 = 7 := by omega
  have h3 : (0x07020000 + 4 * i) % 2 ^ 24 = 0x20000 + 4 * i := by omega
  unfold regOf
  simp only [h1, h2, h3]
  exact colReg_colMember h

end Sys2Proof.Machine
end

