-- ==== Sys2Proof/Laws/EndPoint.lean ====
section
/-! SUPPORT. End-point blocks: the write of a window operation, and a block with no descriptor and no ring. -/

namespace Sys2Proof.Machine

open Sys2Proof

theorem winCtl_read (k : BitVec 10) :
    (bitsOf (pack [(26, 1), (0, k.toNat)]) 26 2).toNat = 1 ∧ (bitsOf (pack [(26, 1), (0, k.toNat)]) 0 10 : BitVec 10) = k
    ∧ (bitsOf (pack [(26, 2), (0, k.toNat)]) 26 2).toNat = 2 ∧ (bitsOf (pack [(26, 2), (0, k.toNat)]) 0 10 : BitVec 10) = k
    ∧ (bitsOf (pack [(26, 3), (0, k.toNat)]) 26 2).toNat = 3 ∧ (bitsOf (pack [(26, 3), (0, k.toNat)]) 0 10 : BitVec 10) = k := by
  revert k; decide

/-- A block with no descriptor has nothing to pass over. -/
theorem ringPasses_idle {n : Nat} {s : State} (hd : (epOf s n).descs = []) (k : Nat) : ringPasses n k s = s := by
  have h : ringPass n s = s := by simp [ringPass, hd, forEach]
  induction k with
  | zero => rfl
  | succ k ih => rw [ringPasses, h]; exact ih

theorem workPasses_idle {n : Nat} {s : State} (hd : (epOf s n).descs = []) (k : Nat) : workPasses n k s = s := by
  have h : workPass n s = s := by
    unfold workPass ringWork
    simp only [ringPasses_idle hd, hd, forEach, List.map_nil, List.foldl_nil]
  induction k with
  | zero => rfl
  | succ k ih => rw [workPasses, h]; exact ih

/-- A block with no descriptor and no ring has nothing to start or to close. -/
theorem epWork_idle {n : Nat} {s : State} (hd : (epOf s n).descs = []) (hr : (epOf s n).rings = []) : epWork n s = s := by
  unfold epWork ringWork
  simp only [workPasses_idle hd, ringPasses_idle hd, hr, List.map_nil, List.filter_nil, forEach, List.foldl_nil]

end Sys2Proof.Machine
end

