-- ==== Sys2Proof/Laws/Memory.lean ====
section
/-! SUPPORT. What the operations over stacked memory do to its cells: every one keeps the canonical form, a write-back changes its
line alone, and memory after reset has the form. -/

namespace Sys2Proof.Machine

open Sys2Proof

/-- Memory after reset lists nothing. -/
theorem reset_memory_wf : Memory.wf State.reset.mem.cells := rfl

/-! ## Cells -/

theorem cellsPut_wf (a : Nat) (bs : List Byte) {c : List Host.Cell} (h : Memory.wf c) : Memory.wf (cellsPut c a bs) := by
  induction bs generalizing c a with
  | nil => exact h
  | cons b bs ih => exact ih (a + 1) (tabWf_set 0 b a h)

/-- The bytes stored. -/
theorem cellsPut_inside (bs : List Byte) (c : List Host.Cell) (a i : Nat) (h : i < bs.length) :
    tabGet 0 (cellsPut c a bs) (a + i) = bs.getD i 0 := by
  induction bs generalizing c a i with
  | nil => simp at h
  | cons b bs ih =>
    cases i with
    | zero =>
      have aux : ∀ (bs : List Byte) (c : List Host.Cell) (k j : Nat), j < k → tabGet 0 (cellsPut c k bs) j = tabGet 0 c j := by
        intro bs
        induction bs with
        | nil => intros; rfl
        | cons b bs ih2 => intro c k j hj; rw [cellsPut, ih2 _ _ _ (by omega), tabGet_set_other 0 b c (by omega)]
      rw [cellsPut, Nat.add_zero, aux _ _ _ _ (by omega)]; simp
    | succ i =>
      rw [cellsPut, show a + (i + 1) = a + 1 + i by omega, ih _ _ _ (by simpa using h)]; simp

/-- Every other byte stays. -/
theorem cellsPut_outside (bs : List Byte) (c : List Host.Cell) (a j : Nat) (h : j < a ∨ a + bs.length ≤ j) :
    tabGet 0 (cellsPut c a bs) j = tabGet 0 c j := by
  induction bs generalizing c a with
  | nil => rfl
  | cons b bs ih =>
    simp only [List.length_cons] at h
    rw [cellsPut, ih _ _ (by omega), tabGet_set_other 0 b c (by omega)]

/-! ## Lines and combining buffers -/

theorem dramStore_wf (l : Nat) (d : List Byte) (p : Bool) {s : State} (h : Memory.wf s.mem.cells) :
    Memory.wf (dramStore l d p s).mem.cells := cellsPut_wf (l * 64) d h

theorem writeBack_wf (e : CombEntry) {s : State} (h : Memory.wf s.mem.cells) : Memory.wf (writeBack e s).mem.cells := by
  unfold writeBack
  split
  · exact dramStore_wf e.line _ _ h
  · exact h

theorem forEach_wf {α : Type} (f : α → State → State) (hf : ∀ (x : α) (s : State), Memory.wf s.mem.cells → Memory.wf (f x s).mem.cells) (l : List α)
    {s : State} (h : Memory.wf s.mem.cells) : Memory.wf (forEach l f s).mem.cells := by
  induction l generalizing s with
  | nil => exact h
  | cons x l ih => exact ih (hf x s h)

theorem modChan_cells (c : Nat) (f : Channel → Channel) (s : State) : (modChan c f s).mem.cells = s.mem.cells := rfl

theorem drainChannel_wf (c : Nat) {s : State} (h : Memory.wf s.mem.cells) : Memory.wf (drainChannel c s).mem.cells := by
  have hf := forEach_wf writeBack (fun e s h => writeBack_wf e h) (chanOf s c).comb h
  exact hf

theorem combPlace_wf (c : Nat) (e : CombEntry) {s : State} (h : Memory.wf s.mem.cells) : Memory.wf (combPlace c e s).mem.cells := by
  unfold combPlace
  dsimp only
  split
  · exact h
  · split
    · exact writeBack_wf _ h
    · exact h

/-! ## Accesses -/

theorem devFault0_mem (kind : Byte) (sev : BitVec 2) (key detail : Nat) (s : State) : (devFault0 kind sev key detail s).mem = s.mem := by
  rw [devFault0_only kind sev key detail s]

/-- The decoder's finding changes no memory. -/
theorem judgeEcc_mem (n : Nat) (s : State) : (judgeEcc n s).2.mem = s.mem := by
  unfold judgeEcc
  split <;> rfl

theorem corrected_wf (l : Nat) (data : List Byte) {s : State} (h : Memory.wf s.mem.cells) : Memory.wf (corrected l data s).mem.cells := by
  refine combPlace_wf _ _ ?_
  rw [devFault0_mem]
  exact h

theorem eccFound_wf (l : Nat) (b : Bool) {s : State} (h : Memory.wf s.mem.cells) : Memory.wf (eccFound l b s).mem.cells := by
  unfold eccFound
  dsimp only
  split
  · exact h
  · have h1 : Memory.wf (judgeEcc (tabGet 0 s.mem.errs l) s).2.mem.cells := by rw [judgeEcc_mem]; exact h
    generalize judgeEcc (tabGet 0 s.mem.errs l) s = r at h1
    split
    · exact h1
    · exact dramStore_wf l _ _ h1
    · exact corrected_wf l _ h1
    · exact corrected_wf l _ h1
    · rw [devFault0_mem]
      split <;> exact h1

theorem lineLoad_wf (l : Nat) {s : State} (h : Memory.wf s.mem.cells) : Memory.wf (lineLoad l s).2.mem.cells := by
  unfold lineLoad
  dsimp only
  split
  · exact combPlace_wf _ _ h
  · exact eccFound_wf l false h

/-- A line stored with poison. -/
theorem linePoisoned_wf (l : Nat) (data : List Byte) {s : State} (h : Memory.wf s.mem.cells) : Memory.wf (linePoisoned l data s).mem.cells :=
  combPlace_wf _ _ h

theorem lineStore_wf (l : Nat) (whole : Bool) (f : List Byte → List Byte) {s : State} (h : Memory.wf s.mem.cells) :
    Memory.wf (lineStore l whole f s).2.mem.cells := by
  have h1 := lineLoad_wf l h
  unfold lineStore
  dsimp only
  split <;> exact combPlace_wf _ _ h1

theorem memRead_wf (ls : List Nat) (off len : Nat) {s : State} (h : Memory.wf s.mem.cells) :
    Memory.wf (memRead ls off len s).2.mem.cells := by
  induction ls generalizing s with
  | nil => exact h
  | cons l ls ih => exact ih (lineLoad_wf l h)

theorem memWrite_wf (ls : List Nat) (off len : Nat) (data : List Byte) (isStore : Bool) (g : List Byte → List Byte → List Byte)
    {s : State} (h : Memory.wf s.mem.cells) : Memory.wf (memWrite ls off len data isStore g s).2.mem.cells := by
  induction ls generalizing s with
  | nil => exact h
  | cons l ls ih =>
    unfold memWrite
    dsimp only
    exact ih (lineStore_wf l _ _ h)

theorem notePoison_mem (c l : Nat) (s : State) : (notePoison c l s).mem = s.mem := devFault0_mem _ _ _ _ _

theorem notePoisonIn_mem (ls : List Nat) (s : State) : (notePoisonIn ls s).mem = s.mem := by
  unfold notePoisonIn
  split
  · exact notePoison_mem _ _ s
  · rfl

/-- The changes of the sync state touch no memory. -/
theorem enterSync_mem (new : SyncState) (promoted : Bool) (s : State) : (enterSync new promoted s).mem = s.mem := by
  unfold enterSync
  dsimp only
  cases new <;> dsimp only
  · rw [devFault0_mem]; dsimp only [modTick]; split <;> rfl
  · dsimp only [modTick]; split <;> rfl
  · rw [devFault0_mem]; dsimp only [modTick]; split <;> rfl
  · split
    · rw [devFault0_mem]; dsimp only [modTick]; split <;> rfl
    · dsimp only [modTick]; split <;> rfl

theorem applyForce_mem (s : State) : (applyForce s).mem = s.mem := by
  unfold applyForce
  dsimp only
  split
  · split
    · rfl
    · exact enterSync_mem _ _ s
  · split <;> rfl

/-- A wake changes the stacks' states alone. -/
theorem wakeNode_cells (s : State) : (wakeNode s).mem.cells = s.mem.cells := by
  unfold wakeNode
  dsimp only
  split
  · rfl
  · split
    · rw [applyForce_mem]
      show (enterSync _ _ _).mem.cells = _
      rw [enterSync_mem]
      rfl
    · rfl

theorem dieRead_wf (off len : Nat) {s : State} (h : Memory.wf s.mem.cells) : Memory.wf (dieRead off len s).2.mem.cells := by
  have h0 : Memory.wf (wakeNode s).mem.cells := by rw [wakeNode_cells]; exact h
  have h1 := memRead_wf (linesOf off len) off len h0
  unfold dieRead
  dsimp only
  split
  · exact h0
  · split
    · rw [notePoisonIn_mem]; exact h1
    · exact h1

theorem dieWrite_wf (off : Nat) (data : List Byte) {s : State} (h : Memory.wf s.mem.cells) : Memory.wf (dieWrite off data s).2.mem.cells := by
  have h0 : Memory.wf (wakeNode s).mem.cells := by rw [wakeNode_cells]; exact h
  have h1 := memWrite_wf (linesOf off data.length) off data.length data true (fun _ new => new) h0
  unfold dieWrite
  dsimp only
  split
  · exact h0
  · split
    · rw [notePoisonIn_mem]; exact h1
    · exact h1

/-- The scrub of R387 leaves nothing listed. -/
theorem scrubAll_wf (s : State) : Memory.wf (scrubAll s).mem.cells := rfl

end Sys2Proof.Machine
end

