-- ==== Sys2Proof/Laws/Ports.lean ====
section
/-! SUPPORT. Ports: what a move to another state leaves. -/

namespace Sys2Proof.Machine

open Sys2Proof

/-! ## One lane, one port -/

@[simp] theorem portOf_modLane (l : Nat) (f : Lane → Lane) (s : State) (n : Nat) : portOf (modLane l f s) n = portOf s n := rfl

@[simp] theorem laneAt_modPort (n : Nat) (f : Port → Port) (s : State) (l : Nat) : laneAt (modPort n f s) l = laneAt s l := rfl

/-- The four lanes of a port, changed alike. -/
theorem lanes_changed (n : Nat) (f : Nat → Lane → Lane) (s : State) :
    let t := forEach (portLanes n) (fun l => modLane l (f l)) s
    (∀ l, l / 4 = n → laneAt t l = f l (laneAt s l)) ∧ (∀ l, l / 4 ≠ n → laneAt t l = laneAt s l)
      ∧ t = { s with lanes := { s.lanes with lanes := t.lanes.lanes } } := by
  simp only [portLanes, forEach, List.foldl]
  refine ⟨?_, ?_, rfl⟩
  · intro l hl
    have : l = 4 * n ∨ l = 4 * n + 1 ∨ l = 4 * n + 2 ∨ l = 4 * n + 3 := by omega
    rcases this with rfl | rfl | rfl | rfl <;>
      simp (discharger := omega) only [laneAt_modLane, laneAt_modLane_other]
  · intro l hl
    simp (discharger := omega) only [laneAt_modLane_other]

/-! ## Leaving traffic -/

/-- An empty queue dropped: its entry goes, and it still reads as empty. -/
theorem dropQueue_empty {s : State} {n c : Nat} (h : queueOf s n c = []) :
    dropQueue n c s = modSwc (fun w => { w with queues := tabSet [] w.queues (pcKey n c) [] }) s
      ∧ ∀ p d, queueOf (dropQueue n c s) p d = queueOf s p d := by
  have he : dropQueue n c s = modSwc (fun w => { w with queues := tabSet [] w.queues (pcKey n c) [] }) s := by
    unfold dropQueue
    rw [h]
    rfl
  refine ⟨he, fun p d => ?_⟩
  rw [he]
  show tabGet [] (tabSet [] s.swc.queues (pcKey n c) []) (pcKey p d) = tabGet [] s.swc.queues (pcKey p d)
  by_cases hk : pcKey p d = pcKey n c
  · rw [hk, tabGet_set_same]
    exact h.symm
  · rw [tabGet_set_other _ _ _ hk]

/-- What a port with empty egress queues loses is nothing. -/
theorem dropEgress_empty {s : State} {n : Nat} (h : ∀ c, c < 4 → queueOf s n c = []) :
    (dropEgress n s = { s with swc := { s.swc with queues := (dropEgress n s).swc.queues, noRoute := (dropEgress n s).swc.noRoute } })
      ∧ ∀ p d, queueOf (dropEgress n s) p d = queueOf s p d := by
  have step : ∀ (l : List Nat) (t : State), (∀ c ∈ l, c < 4) → (∀ c, c < 4 → queueOf t n c = []) →
      let u := forEach l (fun c s => modSwc (fun w => { w with noRoute := satAdd w.noRoute (queueOf s n c).length }) (dropQueue n c s)) t
      (u = { t with swc := { t.swc with queues := u.swc.queues, noRoute := u.swc.noRoute } }) ∧ ∀ p d, queueOf u p d = queueOf t p d := by
    intro l
    induction l with
    | nil => intro t _ _; exact ⟨rfl, fun _ _ => rfl⟩
    | cons c l ih =>
      intro t hl ht
      obtain ⟨he, hq⟩ := dropQueue_empty (ht c (hl c (by simp)))
      have hq' : ∀ p d, queueOf (modSwc (fun w => { w with noRoute := satAdd w.noRoute (queueOf t n c).length }) (dropQueue n c t)) p d = queueOf t p d := hq
      obtain ⟨h1, h2⟩ := ih _ (fun d hd => hl d (by simp [hd])) (fun d hd => by rw [hq']; exact ht d hd)
      refine ⟨?_, fun p d => by rw [← hq']; exact h2 p d⟩
      simp only [forEach, List.foldl] at h1 ⊢
      rw [h1, he]
      rfl
  exact step [0, 1, 2, 3] s (by decide) h

theorem scanLost_frame (n : Nat) (u : State) :
    ∃ b a e, scanLost n u = { u with lanes := { u.lanes with eyeBusy := b, eyeAborted := a, eyeErrs := e } } := by
  unfold scanLost
  split
  · exact ⟨_, _, _, rfl⟩
  · exact ⟨_, _, _, rfl⟩

theorem dropEgress_free {s : State} {n : Nat} (h : ∀ c, c < 4 → queueOf s n c = []) :
    ∃ q r, dropEgress n s = { s with swc := { s.swc with queues := q, noRoute := r } }
      ∧ ∀ p d, tabGet [] q (pcKey p d) = tabGet [] s.swc.queues (pcKey p d) := by
  obtain ⟨h1, h2⟩ := dropEgress_empty h
  exact ⟨_, _, h1, h2⟩

theorem leftTraffic_free {s : State} {n : Nat} (h : PortFree s n) :
    ∃ b a e w q r, leftTraffic n s = { s with
        lanes := { s.lanes with eyeBusy := b, eyeAborted := a, eyeErrs := e }
        pwr := { s.pwr with portState := w }
        swc := { s.swc with queues := q, noRoute := r } } ∧ ∀ p d, tabGet [] q (pcKey p d) = tabGet [] s.swc.queues (pcKey p d) := by
  obtain ⟨ha, hq⟩ := h
  unfold leftTraffic
  generalize hx : modPwr (fun p => { p with portState := tabSet 0 p.portState n 0 }) s = x
  have hx' : ∃ w, x = { s with pwr := { s.pwr with portState := w } } := ⟨_, hx.symm⟩
  clear hx
  obtain ⟨w, rfl⟩ := hx'
  obtain ⟨q, r, hd, hk⟩ := dropEgress_free (s := { s with pwr := { s.pwr with portState := w } }) (n := n) hq
  rw [hd]
  have he : epDown n { s with pwr := { s.pwr with portState := w }, swc := { s.swc with queues := q, noRoute := r } }
      = { s with pwr := { s.pwr with portState := w }, swc := { s.swc with queues := q, noRoute := r } } := by
    unfold epDown
    exact if_pos ha
  rw [he]
  obtain ⟨b, a, e, hs⟩ := scanLost_frame n { s with pwr := { s.pwr with portState := w }, swc := { s.swc with queues := q, noRoute := r } }
  rw [hs]
  exact ⟨b, a, e, w, q, r, rfl, hk⟩

/-! ## Moves -/

/-- What a port forgets with its state. -/
def forgotten (st : PortState) (cause : Option (BitVec 4)) (p : Port) : Port :=
  { p with
    state := st, cause := cause.getD p.cause, quiet := false, quieting := false, enc := false, peerFnid := 0xFFF, samples := []
    peerTrain := none, peerHello := none, ownHello := [], peerOk := false, keys := none, peerPrint := 0, skipAt := none, windowErrs := 0, line := [], encFrom := none, msgFrom := 0 }

/-- What its lanes forget. -/
def unlockedLane (x : Lane) : Lane := { x with sigDet := false, cdrLock := false, cwLock := false, markLock := false, logical := 0, group := none }

/-- A port forgets, and takes a state: all of it. -/
theorem forgetPort_all (n : Nat) (st : PortState) (cause : Option (BitVec 4)) (s : State) :
    let t := forgetPort n st cause s
    portOf t n = forgotten st cause (portOf s n) ∧ (∀ m, m ≠ n → portOf t m = portOf s m)
      ∧ (∀ l, l / 4 = n → laneAt t l = unlockedLane (laneAt s l)) ∧ (∀ l, l / 4 ≠ n → laneAt t l = laneAt s l)
      ∧ t = { s with lanes := { s.lanes with lanes := t.lanes.lanes, ports := t.lanes.ports } } := by
  obtain ⟨l1, l2, l3⟩ := lanes_changed n (fun _ => unlockedLane) (modPort n (forgotten st cause) s)
  have ht : forgetPort n st cause s = forEach (portLanes n) (fun l => modLane l unlockedLane) (modPort n (forgotten st cause) s) := rfl
  dsimp only at l1 l2 l3
  rw [ht]
  generalize forEach (portLanes n) (fun l => modLane l unlockedLane) (modPort n (forgotten st cause) s) = u at l1 l2 l3
  refine ⟨by rw [l3]; exact portOf_modPort n _ s, fun m hm => by rw [l3]; exact portOf_modPort_other _ s hm, l1, l2, ?_⟩
  have : u.lanes.ports = (modPort n (forgotten st cause) s).lanes.ports := by rw [l3]
  rw [this]
  exact l3

/-- A port out of traffic, or with nothing to leave behind, quits traffic: an eye scan may end, and empty queues are dropped. -/
theorem quitTraffic_free {s : State} {n : Nat} (h : (portOf s n).state = .traffic → PortFree s n) :
    ∃ b a e w q r, quitTraffic n s = { s with
        lanes := { s.lanes with eyeBusy := b, eyeAborted := a, eyeErrs := e }
        pwr := { s.pwr with portState := w }
        swc := { s.swc with queues := q, noRoute := r } } ∧ ∀ p d, tabGet [] q (pcKey p d) = tabGet [] s.swc.queues (pcKey p d) := by
  unfold quitTraffic
  split
  · exact leftTraffic_free (h (by assumption))
  · exact ⟨_, _, _, _, _, _, rfl, fun _ _ => rfl⟩

/-- A port out of traffic, or with nothing to leave behind, takes a state: all of it (R447). -/
theorem portTo_all {s : State} {n : Nat} (st : PortState) (cause : Option (BitVec 4)) (h : (portOf s n).state = .traffic → PortFree s n) :
    let t := portTo n st cause s
    portOf t n = forgotten st cause (portOf s n) ∧ (∀ m, m ≠ n → portOf t m = portOf s m)
      ∧ (∀ l, l / 4 = n → laneAt t l = unlockedLane (laneAt s l)) ∧ (∀ l, l / 4 ≠ n → laneAt t l = laneAt s l)
      ∧ (∀ p c, queueOf t p c = queueOf s p c)
      ∧ t = { s with
        lanes := { s.lanes with lanes := t.lanes.lanes, ports := t.lanes.ports, eyeBusy := t.lanes.eyeBusy, eyeAborted := t.lanes.eyeAborted, eyeErrs := t.lanes.eyeErrs }
        pwr := { s.pwr with portState := t.pwr.portState }
        swc := { s.swc with queues := t.swc.queues, noRoute := t.swc.noRoute } } := by
  obtain ⟨b, a, e, w, q, r, hq, hk⟩ := quitTraffic_free h
  obtain ⟨p1, p2, l1, l2, f⟩ := forgetPort_all n st cause (quitTraffic n s)
  unfold portTo
  dsimp only at p1 p2 l1 l2 f ⊢
  generalize forgetPort n st cause (quitTraffic n s) = u at p1 p2 l1 l2 f
  generalize quitTraffic n s = v at hq p1 p2 l1 l2 f
  subst hq
  obtain ⟨x, y, rfl⟩ : ∃ x y, u = { s with
        lanes := { s.lanes with eyeBusy := b, eyeAborted := a, eyeErrs := e, lanes := x, ports := y }
        pwr := { s.pwr with portState := w }
        swc := { s.swc with queues := q, noRoute := r } } := ⟨_, _, f⟩
  exact ⟨p1, p2, l1, l2, hk, rfl⟩

/-- What an operation leaves in the port it names, each of them named once. -/
theorem each_port {g : Nat → State → State} {P : Nat → Port → Prop} (h1 : ∀ k s, P k (portOf (g k s) k))
    (h2 : ∀ k s m, m ≠ k → portOf (g k s) m = portOf s m) (ps : List Nat) (hps : ps.Nodup) (s : State) :
    ∀ n ∈ ps, P n (portOf (forEach ps g s) n) := by
  have keep : ∀ (l : List Nat) (k : Nat) (u : State), ¬ k ∈ l → portOf (forEach l g u) k = portOf u k := by
    intro l k
    induction l with
    | nil => intros; rfl
    | cons m l ih =>
      intro u hu
      simp only [List.mem_cons, not_or] at hu
      exact (ih _ hu.2).trans (h2 m u k hu.1)
  induction ps generalizing s with
  | nil => intro n h; simp at h
  | cons k ps ih =>
    rw [List.nodup_cons] at hps
    intro n hn
    rcases List.mem_cons.mp hn with rfl | hn
    · show P n (portOf (forEach ps g (g n s)) n)
      rw [keep ps n _ hps.1]
      exact h1 n s
    · exact ih hps.2 (g k s) n hn

/-- What a module whose ports are stopped has in each of them (R413, R431). -/
theorem portsDown_port (s : State) {n : Nat} (h : n < 64) :
    ∃ p, portOf (portsDown s) n
      = forgotten (if (portOf s n).state = .disabled then .disabled else .reset) (some (portOf s n).cause) p := by
  have h1 := each_port (g := fun n => forgetPort n (if (portOf s n).state = .disabled then .disabled else .reset) (some (portOf s n).cause))
    (P := fun n x => ∃ p, x = forgotten (if (portOf s n).state = .disabled then .disabled else .reset) (some (portOf s n).cause) p)
    (fun k u => ⟨_, (forgetPort_all k _ _ u).1⟩) (fun k u m hm => (forgetPort_all k _ _ u).2.1 m hm)
    (List.range 64) List.nodup_range (forEach (List.range 64) quitTraffic s)
  exact h1 n (List.mem_range.mpr h)

theorem portTo_moves {s : State} {n : Nat} (st : PortState) (cause : Option (BitVec 4)) (h : (portOf s n).state = .traffic → PortFree s n) :
    PortMoves s (portTo n st cause s) n st (cause.getD (portOf s n).cause) := by
  obtain ⟨p1, p2, l1, l2, q, e⟩ := portTo_all st cause h
  dsimp only at p1 p2 l1 l2 q e
  generalize portTo n st cause s = t at p1 p2 l1 l2 q e
  refine ⟨⟨p2, l2, q, ?_⟩, by rw [p1]; rfl, by rw [p1]; rfl, by rw [p1]; exact ⟨rfl, rfl, rfl, rfl⟩, fun l k => by rw [l1 l k]; exact ⟨rfl, rfl⟩⟩
  rw [← e]
  exact FaultOnly.refl _

theorem FaultOnly.fields {s t : State} (h : FaultOnly s t) : t.lanes = s.lanes ∧ t.pwr = s.pwr ∧ t.swc = s.swc ∧ t.eps = s.eps ∧ t.pool = s.pool
    ∧ t.mem = s.mem ∧ t.rte = s.rte ∧ t.pending = s.pending ∧ t.fuses = s.fuses ∧ t.attachBuf = s.attachBuf := by
  unfold FaultOnly at h
  rw [h]
  exact ⟨rfl, rfl, rfl, rfl, rfl, rfl, rfl, rfl, rfl, rfl⟩

/-- Records after a move leave it as it is. -/
theorem PortMoves.faults {s t u : State} {n : Nat} {st : PortState} {c : BitVec 4} (h : PortMoves s t n st c) (k : FaultOnly t u) :
    PortMoves s u n st c := by
  obtain ⟨k1, k2, k3, -⟩ := k.fields
  have hp : ∀ m, portOf u m = portOf t m := fun m => by unfold portOf; rw [k1]
  have hl : ∀ l, laneAt u l = laneAt t l := fun l => by unfold laneAt; rw [k1]
  have hq : ∀ p c, queueOf u p c = queueOf t p c := fun p c => by unfold queueOf; rw [k3]
  refine ⟨⟨fun m hm => (hp m).trans (h.only.others m hm), fun l k => (hl l).trans (h.only.lanes l k), fun p c => (hq p c).trans (h.only.queues p c), ?_⟩, ?_, ?_, ?_, ?_⟩
  · have f := h.only.frame.trans k
    rw [k1, k2, k3]
    exact f
  · rw [hp]; exact h.state
  · rw [hp]; exact h.cause
  · rw [hp]; exact h.forgets
  · intro l k; rw [hl]; exact h.unlocked l k

theorem portFault_fails {s : State} {n : Nat} (cause : BitVec 4) (h : (portOf s n).state = .traffic → PortFree s n) :
    PortFails s (portFault n cause s) n cause := by
  have m := portTo_moves .fault (some cause) h
  obtain ⟨e, -, -, -, -, g⟩ := portTo_all .fault (some cause) h
  dsimp only at e g
  unfold portFault
  dsimp only
  generalize portTo n .fault (some cause) s = t at m e g
  have m' : PortMoves s (modPort n (fun p => { p with downCnt := satAdd p.downCnt 1 }) t) n .fault cause := by
    refine ⟨⟨fun k hk => (portOf_modPort_other _ t hk).trans (m.only.others k hk), m.only.lanes, m.only.queues, ?_⟩, ?_, ?_, ?_, m.unlocked⟩
    · have f := m.only.frame
      unfold FaultOnly at *
      rw [f]
      rfl
    · rw [portOf_modPort]; exact m.state
    · rw [portOf_modPort]; exact m.cause
    · rw [portOf_modPort]; exact m.forgets
  refine ⟨m'.faults (devFault_only _ _ _ _ _ _ _ _), ?_, ?_⟩
  · have k := (devFault_only 0xB0 sevError 0 n n cause.toNat 0xFFF (modPort n (fun p => { p with downCnt := satAdd p.downCnt 1 }) t)).fields.1
    unfold portOf
    rw [k]
    show (portOf (modPort n (fun p => { p with downCnt := satAdd p.downCnt 1 }) t) n).downCnt = _
    rw [portOf_modPort, e]
    rfl
  · intro hl
    apply devFault_recorded
    have : t.glb = s.glb := by rw [g]
    show t.glb.faults.length < 1024
    rw [this]
    exact hl

theorem PortMoves.kept {s t : State} {n : Nat} {st : PortState} {c : BitVec 4} (h : PortMoves s t n st c) : keepFixed s t = t :=
  h.only.frame.keepFixed rfl rfl rfl

/-- With nothing to hold the port, an event of its bring-up acts. -/
theorem bringup_free {s : State} {n : Nat} (f : State → State) (h : portsHeld s = false) : bringup n f s = f s := by
  unfold bringup
  rw [h, Bool.and_false]
  rfl

/-- Out of bring-up, it acts in any case. -/
theorem bringup_out {s : State} {n : Nat} (f : State → State) (h : inBringup (portOf s n).state = false) : bringup n f s = f s := by
  unfold bringup
  rw [h, Bool.false_and]
  rfl

end Sys2Proof.Machine
end

