-- ==== Sys2Proof/Tests/Slice0.lean ====
section
/-! SUPPORT. Tests: an ill-formed command for each check, witnesses for the hypotheses of the statements, and worked examples of the
spec. -/

-- One theorem at a time: a thread with its own stack for each would need too much memory.
set_option Elab.async false

namespace Sys2Proof.Tests

open Sys2Proof Sys2Proof.Machine

/-! ## States -/

def sess (r : Byte) : Session := { state := .open_, role := r, credId := 0, voucher := none, th := 0, keys := 0, ip := 0, tcp := 0 }

/-- A module after reset with a change, and with session 0 open in a role. -/
def mk (r : Byte) (f : State → State) : State := f (modMgt (fun m => { m with sessions := [(0, some (sess r))] }) State.reset)
def op : State := mk 1 id
def ins : State := mk 2 id

theorem opened {s : State} {r : Byte} (h : (s.pwr.powered && !s.mgt.recovery && decide (sessAt s 0 = some (sess r))) = true) :
    Serving s ∧ HasSession s 0 (sess r) := by
  simp only [Bool.and_eq_true, Bool.not_eq_true', decide_eq_true_eq] at h
  exact ⟨⟨h.1.1, h.1.2⟩, h.2, rfl⟩

/-! ## Witnesses: registers -/

theorem wit_fnid : ((Serving ins ∧ HasSession ins 0 (sess 2)) ∧ (sess 2).role = 2 ∧ ins.glb.locked = false)
    ∧ (let s := mk 2 (modGlb fun g => { g with locked := true })
      (Serving s ∧ HasSession s 0 (sess 2)) ∧ s.glb.locked = true) :=
  ⟨⟨opened (by decide +kernel), by decide +kernel⟩, opened (by decide +kernel), by decide +kernel⟩

theorem wit_endPoint : (Serving op ∧ HasSession op 0 (sess 1)) ∧ (sess 1).role = 1 ∧ 63 < 64
    ∧ ((bitsOf (0x7FF : W32) 0 12 : BitVec 12).toNat < 0x800 ∧ ctxsUsed (epOf op 63).rel = 0 ∧ (epOf op 63).descs = [])
    ∧ ((epOf op 63).winBusy = false ∧ steerActive (epOf op 63) = false ∧ (epOf op 63).rings = [])
    ∧ retxBase 0x08514032 * (2 ^ (retxMax 0x08514032 + 1) - 1) + 1000 ≤ retxHold 0x08514032 * 1000 :=
  ⟨opened (by decide +kernel), by decide +kernel⟩

def eyeState : State := mk 2 fun s => modPort 63 (fun p => { p with state := .reset }) (modLanes (fun l => { l with eyeBusy := true })
  (nvMod (fun n => { n with pers := [(62, 2), (63, 1)] }) s))

theorem wit_lanes : ((Serving eyeState ∧ HasSession eyeState 0 (sess 2)) ∧ eyeState.lanes.eyeBusy = true
      ∧ (persOf eyeState 63 = 1 ∧ (portOf eyeState 63).state ≠ .traffic) ∧ (persOf eyeState 62 ≠ 1 ∧ (portOf eyeState 62).state ≠ .traffic
        ∧ bitsOf (0x40000000 : W32) 30 2 ≠ tabGet 0 eyeState.mgt.nv.pers 62
        ∧ bitsOf (0x80000000 : W32) 30 2 = tabGet 0 eyeState.mgt.nv.pers 62 ∧ bitAt (0x80000000 : W32) 29 = false))
    ∧ ((Serving ins ∧ HasSession ins 0 (sess 2)) ∧ (sess 2).role = 2 ∧ ins.lanes.eyeBusy = false ∧ bitAt (0xFF : W32) 30 = false)
    ∧ ((Serving op ∧ HasSession op 0 (sess 1)) ∧ (sess 1).role = 1) :=
  ⟨⟨opened (by decide +kernel), by decide +kernel⟩, ⟨opened (by decide +kernel), by decide +kernel⟩, opened (by decide +kernel), rfl⟩

theorem wit_switch : (Serving op ∧ HasSession op 0 (sess 1)) ∧ (sess 1).role = 1 ∧ (bitsOf op.swc.mcastData 64 30 = 0 ∧ isSpine op = false)
    ∧ bitsOf (mk 1 (modSwc fun w => { w with mcastData := 2 ^ 64 })).swc.mcastData 64 30 ≠ 0
    ∧ (let s := mk 1 fun s => modSwc (fun w => { w with mcastData := 8, mirrorCtl := 0x80140000 }) (nvMod (fun n => { n with topology := 0x80010000 }) s)
      (isSpine s = true ∧ 2 ^ (leavesM1 s + 1) ≤ (bitsOf s.swc.mcastData 0 64 : BitVec 64).toNat) ∧ mirEn s.swc.mirrorCtl = true)
    ∧ (bitAt (0 : W32) 31 = false ∧ mirLog2 ((0x80000000 : W32) &&& 0xFFFFE000) < 10)
    ∧ (mirEn op.swc.mirrorCtl = false ∧ bitAt (0x80140000 : W32) 31 = true ∧ 10 ≤ mirLog2 ((0x80140000 : W32) &&& 0xFFFFE000)
      ∧ mirLog2 ((0x80140000 : W32) &&& 0xFFFFE000) ≤ 24 ∧ op.swc.mirrorBase.toNat % 4096 = 0
      ∧ op.swc.mirrorBase.toNat + 2 ^ mirLog2 ((0x80140000 : W32) &&& 0xFFFFE000) * 64 ≤ stackedSize)
    ∧ ((List.range 4).map fun d => if d = 3 then (bitsOf (0x20000 : W32) 0 22).toNat else poolSize op d).sum ≤ 3145728
    ∧ ((bitsOf (0x08218842 : W32) 0 10 : BitVec 10) ≤ bitsOf (0x08218842 : W32) 10 10 ∧ (bitsOf (0x08218842 : W32) 10 10 : BitVec 10) ≤ bitsOf (0x08218842 : W32) 20 10)
    ∧ (bitsOf (0x01000080 : W32) 0 16 : BitVec 16) ≤ bitsOf (0x01000080 : W32) 16 16 :=
  ⟨opened (by decide +kernel), by decide +kernel⟩

theorem wit_switchRefused : 3145728 < ((List.range 4).map fun d => if d = 3 then (bitsOf (0x3FFFFF : W32) 0 22).toNat else poolSize op d).sum
    ∧ ¬ ((bitsOf (1 : W32) 0 10 : BitVec 10) ≤ bitsOf (1 : W32) 10 10 ∧ (bitsOf (1 : W32) 10 10 : BitVec 10) ≤ bitsOf (1 : W32) 20 10)
    ∧ ¬ (bitsOf (1 : W32) 0 16 : BitVec 16) ≤ bitsOf (1 : W32) 16 16
    ∧ (∃ s, (Serving s ∧ HasSession s 0 (sess 3)) ∧ (sess 3).role ≠ 1 ∧ (sess 3).role ≠ 2) :=
  ⟨by decide +kernel, by decide +kernel, by decide +kernel, mk 3 id, opened (by decide +kernel), by decide +kernel⟩

theorem wit_routing : (Serving op ∧ HasSession op 0 (sess 1)) ∧ (sess 1).role = 1 ∧ op.rte.planePending = false
    ∧ (2047 < 2048 ∧ (bitsOf (31 : W32) 16 6).toNat ≤ leavesM1 op ∧ (isLeaf op = true → (bitsOf (31 : W32) 0 6).toNat < 32))
    ∧ (1 < 2 ∧ ∀ p, isTrunk op p = true → bitAt op.rte.trunkEn p = true → bitAt (putBits op.rte.trunkEn (32 * 1) 32 0xFFFFFFFF) p = true)
    ∧ (bitAt (0x80000000 : W32) 31 = true ∧ op.rte.cmapBase.toNat % 4096 = 0 ∧ op.rte.cmapBase.toNat + 0x4000 ≤ stackedSize ∧ op.rte.cmapEn = false) := by
  refine ⟨opened (by decide +kernel), rfl, rfl, by decide +kernel, ⟨by decide, ?_⟩, by decide +kernel⟩
  intro p h
  simp [isTrunk, persOf, tabGet, op, mk, modMgt, State.reset] at h

/-- Array 863 holds a program without phases. -/
def prog0 : Prog := { hdr := BitVec.ofNat 512 0, phases := [], streams := [], convs := [] }
def arrState : State := mk 1 (modArray 863 fun a => { a with dir := [prog0] })

theorem wit_tables : (Serving arrState ∧ HasSession arrState 0 (sess 1)) ∧ (sess 1).role = 1 ∧ groupLive arrState 4095 = false
    ∧ (32767 < 32768 ∧ memberInUse arrState (2 * 32767) = false ∧ memberInUse arrState (2 * 32767 + 1) = false)
    ∧ (arrState.arr.loadBusy = none ∧ (residentProg (arrOf arrState 863) (bitsOf arrState.arr.loadProg 0 16)).isSome = true
      ∧ runsProg (arrOf arrState 863) (bitsOf arrState.arr.loadProg 0 16) = false)
    ∧ (11 : BitVec 4).toNat < 12 :=
  ⟨opened (by decide +kernel), by decide +kernel⟩

def faultState : State := mk 1 (modEp 63 fun e => { e with faults := [{ kind := 1, severity := 1 }] })

theorem wit_faults : (Serving faultState ∧ HasSession faultState 0 (sess 1)) ∧ (sess 1).role = 1 ∧ 63 < 64
    ∧ (epOf faultState 63).faults = { kind := 1, severity := 1 } :: [] :=
  ⟨opened (by decide +kernel), by decide +kernel⟩

theorem wit_readWrite : (Serving op ∧ HasSession op 0 (sess 1))
    ∧ ((0 : W32).toNat % 4 = 0 ∧ (256 : BitVec 16) ≠ 0 ∧ (256 : BitVec 16).toNat ≤ 256)
    ∧ regOf (0x20 : W32).toNat = some .drainCtl ∧ readEffect .drainCtl op = op
    ∧ mayWrite (sess 1).role .drainCtl = true ∧ (regOf (0x10 : W32).toNat = some .topology ∧ mayWrite (sess 1).role .topology = false)
    ∧ regOf (0xFFFFFFFC : W32).toNat = none :=
  ⟨opened (by decide +kernel), by decide +kernel⟩

/-! ## Witnesses: sessions, settings, firmware, the chain -/

def proving (v : Option Voucher) : Session := { sess 1 with state := .proving, voucher := v }
def aVoucher : Voucher := { fingerprint := 0, key := 5, sig := 0, sigOk := true }
def proveState (v : Option Voucher) : State := modMgt (fun m => { m with
  sessions := [(0, some (proving v))], nv := { m.nv with operators := [⟨0, 5⟩] } }) State.reset

theorem wit_sessions : ((State.reset.pwr.powered = true ∧ State.reset.pwr.node ≠ 4) ∧ sessAt State.reset 0 = none ∧ withinLimits State.reset 3 = true ∧ lockedOut State.reset 3 0 = false
      ∧ State.reset.mgt.recovery = false ∧ ((3 : Byte) = 3 ∧ State.reset.mgt.claimed = false))
    ∧ ((proveState none).pwr.powered = true ∧ sessAt (proveState none) 0 = some (proving none) ∧ (proving none).state = .proving
      ∧ (proving none).voucher = none ∧ provable (proveState none) (proving none) = true)
    ∧ (sessAt (proveState (some aVoucher)) 0 = some (proving (some aVoucher)) ∧ (proving (some aVoucher)).voucher = some aVoucher)
    ∧ (sessAt op 0 = some (sess 1) ∧ (sess 1).state = .open_) :=
  ⟨by decide +kernel, by decide +kernel, by decide +kernel, by decide +kernel⟩

def anEntry : LedgerEntry := { tick := 0, uptime := 0, type := 3, role := 1, result := 0, credId := 0, detail := 0 }

theorem wit_settings : ((Serving op ∧ HasSession op 0 (sess 1)) ∧ (sess 1).role = 1 ∧ op.mgt.storing = none)
    ∧ (let s := modMgt (fun m => { m with storing := some {}, queue := [anEntry], lostWaiting := 1 }) State.reset
      (s.pwr.powered = true ∧ s.pwr.node ≠ 4) ∧ s.mgt.storing = some {} ∧ s.mgt.queue = anEntry :: [] ∧ s.mgt.lostWaiting ≠ 0 ∧ s.mgt.queue.length < 255)
    ∧ ((15 : BitVec 16) ≠ 0 ∧ (15 : BitVec 16).toNat ≤ 15)
    ∧ ((Serving ins ∧ HasSession ins 0 (sess 2)) ∧ (sess 2).role = 2 ∧ (¬ (bitsOf (5 : BitVec 776) 0 384 : BitVec 384) ∈ ins.mgt.nv.peers ∧ ins.mgt.nv.peers.length < 128)
      ∧ portsOfPeer ins (bitsOf (5 : BitVec 776) 0 384) = [] ∧ ins.mgt.nv.operators = [] ∧ ins.mgt.nv.installers = []) :=
  ⟨⟨opened (by decide +kernel), by decide +kernel⟩, by decide +kernel, by decide +kernel, opened (by decide +kernel), by decide +kernel⟩

theorem wit_firmware : ((ins.pwr.powered = true ∧ ins.pwr.node ≠ 4) ∧ HasSession ins 0 (sess 2) ∧ (sess 2).role = 2)
    ∧ ((1 : BitVec 16) ≠ 0 ∧ (1 : BitVec 16).toNat ≤ 1024 ∧ [(7 : Byte)].length = (1 : BitVec 16).toNat ∧ (1572863 : W32).toNat + (1 : BitVec 16).toNat ≤ 1572864)
    ∧ (slotAt ins (!ins.mgt.runB)).state = slotValid
    ∧ (slotAt (modMgt (fun m => { m with slotB := {} }) ins) (!ins.mgt.runB)).state ≠ slotValid
    ∧ (let s := modMgt (fun m => { m with trial := true }) ins
      (s.pwr.powered = true ∧ s.pwr.node ≠ 4) ∧ HasSession s 0 (sess 2) ∧ s.mgt.trial = true) :=
  ⟨⟨by decide +kernel, (opened (by decide +kernel)).2, by decide +kernel⟩, by decide +kernel, by decide +kernel, by decide +kernel,
    by decide +kernel, (opened (by decide +kernel)).2, by decide +kernel⟩

/-- Image A has one service image, of a length that is a field of Config, so that it is copied to place 0. -/
def imaged : State := modMgt (fun m => { m with slotA := { m.slotA with image := tabSet 0 m.slotA.image 64 1 } }) op

theorem wit_imageCopy : (Serving imaged ∧ HasSession imaged 0 (sess 1)) ∧ (sess 1).role = 1 ∧ (0 : BitVec 16).toNat < imgCount (slotAt imaged imaged.mgt.runB)
    ∧ (0 : BitVec 64).toNat + serviceLen imaged (0 : BitVec 16).toNat ≤ stackedSize ∧ MemServes imaged ∧ imaged.pwr.tripped = false := by
  have h : serviceLen imaged (0 : BitVec 16).toNat < 2 ^ 32 := BitVec.isLt _
  exact ⟨opened (by decide +kernel), by decide +kernel, by decide +kernel, by rw [show (0 : BitVec 64).toNat = 0 from rfl]; simp only [stackedSize]; omega, by unfold MemServes; decide +kernel, rfl⟩

theorem wit_imageCopyRefused : let s := mk 1 (modMem fun m => { m with tenantBusy := true })
    (Serving s ∧ HasSession s 0 (sess 1)) ∧ (sess 1).role = 1 ∧ s.mem.tenantBusy = true := ⟨opened (by decide +kernel), by decide +kernel⟩

theorem wit_fuses : let s := mk 3 (modGlb fun g => { g with drainReq := true })
    (Serving s ∧ HasSession s 0 (sess 3)) ∧ (sess 3).role = 3 ∧ (burn s.fuses .svn 63).isSome = true ∧ burn s.fuses .svn 64 = none ∧ burn s.fuses .other 0 = none
    ∧ (burn s.fuses (.mapWord 26) (wordOf s.fuses.map 26)).isSome = true ∧ burn s.fuses (.mapWord 27) 0 = none
    ∧ (drained s = true ∧ s.mem.gen ≠ 0xFFFF_FFFF) ∧ (s.fuses.testLock = true ∧ s.mgt.tapOpen = false)
    ∧ drained (mk 3 id) = false ∧ (mk 3 (modMgt fun m => { m with tapOpen := true })).mgt.tapOpen = true :=
  ⟨opened (by decide +kernel), by decide +kernel⟩

/-- The shipped image passes the checks of R476: its body is empty, and BODY_HASH is the hash of the empty string. -/
theorem wit_reset : (Serving ins ∧ HasSession ins 0 (sess 2)) ∧ (sess 2).role = 2 ∧ imgFormat (slotAt ins ins.mgt.nextB) = true
    ∧ imgLen (slotAt ins ins.mgt.nextB) = 0 ∧ imgSvn (slotAt ins ins.mgt.nextB) = ins.fuses.svn.toNat ∧ ins.mem.gen ≠ 0xFFFF_FFFF
    ∧ (modPwr (fun p => { p with powered := false }) ins).pwr.powered = false
    ∧ (21000 ≤ (21000 : BitVec 16).toNat ∧ (27000 : BitVec 16).toNat ≤ 27000) :=
  ⟨opened (by decide +kernel), by decide +kernel⟩

theorem wit_resetHash : sha384 [] = imgBytes (slotAt ins ins.mgt.nextB) 16 48 := by decide +kernel

def rollMsg1 : BitVec 128 := rollMsg 0x7FD 9

theorem wit_roll : let s := modGlb (fun g => { g with step := 3 }) State.reset
    let u := modMgt (fun m => { m with head := true }) s
    ((s.pwr.powered = true ∧ s.pwr.node ≠ 4) ∧ 3 ≤ s.glb.step.toNat ∧ bitsOf rollMsg1 0 8 = (1 : Byte) ∧ (bitsOf rollMsg1 16 11 : BitVec 11).toNat < 0x7FE)
    ∧ (s.mgt.head = false ∧ s.mgt.rackSeen = none) ∧ u.mgt.head = true ∧ (s.mgt.inSig = false ∧ s.mgt.head = false)
    ∧ (s.mgt.adopted = false ∧ bitAt s.mgt.nv.fnidPin 31 = false ∧ s.mgt.rackSeen = none) := by decide +kernel

/-! ## The shipped profile can be used (R443, R444): its CRC-32C in blocks of 64 bytes -/

def eight : List Byte := [0, 0, 0, 0, 0, 0x10, 0, 0]
def b64 : List Byte := (List.replicate 8 eight).flatten

/-- The CRC register after each block. -/
def linked : W32 → List W32 → Bool
  | _, [] => true
  | v, w :: ws => decide (b64.foldl crcByte v = w) && linked w ws

theorem linked_foldl (ws : List W32) : ∀ v, linked v ws = true → ((List.replicate ws.length b64).flatten).foldl crcByte v = ws.getLastD v := by
  induction ws with
  | nil => intro v _; rfl
  | cons w ws ih =>
    intro v h
    simp only [linked, Bool.and_eq_true, decide_eq_true_eq] at h
    rw [List.length_cons, List.replicate_succ, List.flatten_cons, List.foldl_append, h.1, ih w h.2]
    cases ws <;> rfl

def crcMarks : List W32 := [1548039486, 4138136332, 2815661859, 1401402888, 3399998908, 3408225815, 592670697, 1344711662, 2275618763,
  1939390190, 886607103, 730231390, 54467448, 364811181, 535389103, 3326232879, 882383262, 1157524404, 429990174, 4163135853, 3300591384,
  3461680787, 3322784298, 725723768, 714583514, 1543394031, 2610700236, 1312897155, 1827964309, 4119388850, 1883743475, 3137992717]

theorem shippedLanes_b64 : shippedLanes = (List.replicate 32 b64).flatten := by decide +kernel

theorem shipped_crc : crc32c shippedLanes = 3137992717 ^^^ 0xFFFF_FFFF := by
  rw [crc32c, shippedLanes_b64]
  exact congrArg (· ^^^ (0xFFFF_FFFF : W32)) (linked_foldl crcMarks 0xFFFF_FFFF (by decide +kernel))

theorem eight_at (l : Nat) : ∀ n, l < n → (((List.replicate n eight).flatten).drop (8 * l)).take 8 = eight := by
  induction l with
  | zero => intro n h; obtain ⟨m, rfl⟩ : ∃ m, n = m + 1 := ⟨n - 1, by omega⟩; rfl
  | succ l ih =>
    intro n h
    obtain ⟨m, rfl⟩ : ∃ m, n = m + 1 := ⟨n - 1, by omega⟩
    have : 8 * (l + 1) = eight.length + 8 * l := by simp [eight]; omega
    rw [List.replicate_succ, List.flatten_cons, this, ← List.drop_drop, List.drop_left]
    exact ih m (by omega)

theorem shipped_usable : profileUsable shippedProfile = true := by
  simp only [profileUsable, Bool.and_eq_true, decide_eq_true_eq, List.all_eq_true, List.mem_range]
  refine ⟨⟨⟨by decide +kernel, ?_⟩, by decide +kernel⟩, fun l hl => ?_⟩
  · have : shippedProfile.drop 16 = shippedLanes := rfl
    rw [this, shipped_crc]
    decide +kernel
  · have h : shippedProfile.drop (16 + 8 * l) = shippedLanes.drop (8 * l) := by rw [← List.drop_drop]; rfl
    have e : profileEntry shippedProfile l = BitVec.ofNat 64 (leNat eight) := by
      rw [profileEntry, fieldNat, h, shippedLanes]; exact congrArg _ (congrArg leNat (eight_at l 256 hl))
    rw [e]; decide +kernel


/-- Port 63 in a state, with a personality. -/
def port63 (pers : BitVec 2) (p : Port) : State :=
  modGlb (fun g => { g with step := 8 }) (modPort 63 (fun _ => p) (nvMod (fun n => { n with pers := [(63, pers)] }) State.reset))

/-- Nothing holds the ports of a state with the shipped profile. -/
theorem held_free {s : State} (hp : s.mgt.nv.profiles = [shippedProfile]) (hi : s.mgt.nv.profileId = 0)
    (h : (topoErr s || s.glb.fnidErr || s.glb.scrubHold || s.mgt.tapOpen || s.mgt.recovery || s.pwr.tripped) = false) : portsHeld s = false := by
  simp only [Bool.or_eq_false_iff] at h
  obtain ⟨⟨⟨⟨⟨h1, h2⟩, h3⟩, h4⟩, h5⟩, h6⟩ := h
  have hs : selectedProfile s = some shippedProfile := by rw [selectedProfile, hp, hi]; rfl
  simp only [portsHeld, tableErr, hs, shipped_usable, h1, h2, h3, h4, h5, h6, Bool.not_true, Bool.or_false]

theorem held63 (pers : BitVec 2) (p : Port) : portsHeld (port63 pers p) = false :=
  held_free rfl rfl (show (topoErr State.reset || State.reset.glb.fnidErr || State.reset.glb.scrubHold || State.reset.mgt.tapOpen || State.reset.mgt.recovery
    || State.reset.pwr.tripped) = false by decide +kernel)

theorem wit_bringUp : (let s := port63 1 { state := .reset }
      (s.pwr.powered = true ∧ s.pwr.node ≠ 4) ∧ (selectedProfile s).isSome = true ∧ (portOf s 63).state = .reset ∧ 6 ≤ s.glb.step.toNat ∧ persOf s 63 = 1 ∧ portsHeld s = false)
    ∧ (let s := port63 1 { state := .signal }
      (s.pwr.powered = true ∧ s.pwr.node ≠ 4) ∧ (portOf s 63).state = .signal ∧ portsHeld s = false)
    ∧ (let s := modGlb (fun g => { g with fnidErr := true }) (port63 2 { state := .auth })
      (s.pwr.powered = true ∧ s.pwr.node ≠ 4) ∧ inBringup (portOf s 63).state = true ∧ portsHeld s = true) :=
  ⟨⟨by decide +kernel, by decide +kernel, by decide +kernel, by decide +kernel, by decide +kernel, held63 _ _⟩,
    ⟨by decide +kernel, by decide +kernel, held63 _ _⟩, by decide +kernel⟩

def aligned : Port := { state := .align, samples := List.replicate 16 0, peerTrain := some (3, 1) }

theorem wit_align : (let s := port63 1 aligned
      ((s.pwr.powered = true ∧ s.pwr.node ≠ 4) ∧ 63 < 64 ∧ (portOf s 63).state = .align ∧ orderOk [3, 2, 1, 0] = true ∧ 80000 ≤ 80000
        ∧ trainOk s 63 = some true ∧ 16 ≤ (portOf s 63).samples.length ∧ rttOver s 63 = false) ∧ portsHeld s = false)
    ∧ orderOk [0, 1, 2, 2] = false ∧ 80000 < 80001
    ∧ (∀ k ∈ [2, 3, 4], cellKind (ctlCell (mkCell [BitVec.ofNat 8 k])) = .control ∧ cellByte (ctlCell (mkCell [BitVec.ofNat 8 k])).data 0 = BitVec.ofNat 8 k)
    ∧ cellKind { data := mkCell [2], h0 := false, h1 := true } ≠ .control
    ∧ (∀ n ∈ [0, 14, 15], let s := port63 1 { aligned with samples := List.replicate n 0 }
      exchanges s 63 = true ∧ (portOf s 63).state = .align ∧ (portOf s 63).samples.length = n) :=
  ⟨⟨by decide +kernel, held63 _ _⟩, by decide +kernel⟩

theorem portFree63 (pers : BitVec 2) (p : Port) : PortFree (port63 pers p) 63 := ⟨rfl, fun _ _ => rfl⟩

theorem wit_traffic : (let s := port63 1 { state := .traffic }
      ((s.pwr.powered = true ∧ s.pwr.node ≠ 4) ∧ (portOf s 63).state = .traffic ∧ (portOf s 63).quiet = false ∧ exchanges s 63 = true ∧ 255 / 4 = 63) ∧ portsHeld s = false)
    ∧ PortFree (port63 1 { state := .traffic }) 63 := ⟨⟨by decide +kernel, held63 _ _⟩, portFree63 _ _⟩

theorem wit_qualify : (let s := port63 1 { state := .qualify }
      ((s.pwr.powered = true ∧ s.pwr.node ≠ 4) ∧ (portOf s 63).state = .qualify ∧ (portOf s 63).quiet = false ∧ persOf s 63 = 1
        ∧ (portOf s 63).windowErrs = 0 ∧ ∀ i, i < 4 → ([0, 0, 0, 4096] : List Nat).getD i 0 ≤ s.lanes.symMax.toNat * 256) ∧ portsHeld s = false)
    ∧ persOf (port63 2 { state := .qualify }) 63 = 2 ∧ (modPwr (fun p => { p with node := 4 }) (port63 1 { state := .qualify })).pwr.node = 4
    ∧ (portOf (port63 2 { state := .qualify, windowErrs := 1 }) 63).windowErrs ≠ 0 := ⟨⟨by decide +kernel, held63 _ _⟩, by decide +kernel⟩

def aHello : List Byte := [0x48, 0, 0, 0, 0, 0, 1, 0] ++ zeros 244
def authed : State := nvMod (fun n => { n with peers := [sha384v (helloIdPub aHello)] }) (port63 2 { state := .auth, peerHello := some aHello })

theorem wit_auth : (let s := port63 2 { state := .auth }
      ((s.pwr.powered = true ∧ s.pwr.node ≠ 4) ∧ (portOf s 63).state = .auth ∧ aHello.length = 252 ∧ (portOf s 63).peerHello = none) ∧ portsHeld s = false)
    ∧ (((portOf authed 63).peerHello = some aHello ∧ (portOf authed 63).peerOk = false
      ∧ helloRack aHello = (bitsOf authed.mgt.nv.rackId 0 16 : BitVec 16).toNat ∧ helloFnid aHello ≠ (myFnid authed).toNat) ∧ portsHeld authed = false)
    ∧ helloRack aHello ≠ (bitsOf (nvMod (fun n => { n with rackId := 7 }) authed).mgt.nv.rackId 0 16 : BitVec 16).toNat :=
  ⟨⟨by decide +kernel, held63 _ _⟩, ⟨by decide +kernel, held_free rfl rfl (by decide +kernel)⟩, by decide +kernel⟩

theorem wit_authPeer : sha384v (helloIdPub aHello) ∈ authed.mgt.nv.peers := List.mem_singleton.mpr rfl

theorem wit_marks : (let s := port63 2 { state := .auth, peerOk := true }
      (s.pwr.powered = true ∧ s.pwr.node ≠ 4) ∧ 3 < 4 ∧ (cellKind (ctlCell (mkCell [1, 0, 1])) = .control ∧ cellByte (ctlCell (mkCell [1, 0, 1])).data 0 = 1)
        ∧ (portOf s 63).state = .auth ∧ (portOf s 63).peerOk = true ∧ bitAt (cellByte (ctlCell (mkCell [1, 0, 1])).data 2) 0 = true ∧ portsHeld s = false)
    ∧ (let s := port63 2 { state := .traffic, enc := true, skipAt := some 5 }
      (portOf s 63).state = .traffic ∧ (portOf s 63).enc = true ∧ (∀ u, (portOf s 63).skipAt = some u → u + 10000 < 10006))
    ∧ (portOf (port63 2 { state := .fault }) 63).state = .fault
    ∧ ((∀ st, st ∈ [PortState.traffic, .align, .qualify, .signal, .auth] → (portOf (port63 2 { state := st }) 63).state = st ∧ (portOf (port63 2 { state := st }) 63).quiet = false)
      ∧ (∀ st, portsHeld (port63 2 { state := st }) = false ∧ PortFree (port63 2 { state := st }) 63) ∧ 255 / 4 = 63 ∧ 8 ≤ 8 ∧ 7 < 8) :=
  ⟨⟨by decide +kernel, by decide, by decide +kernel, by decide +kernel, by decide +kernel, by decide +kernel, held63 _ _⟩,
    ⟨by decide +kernel, by decide +kernel, by intro u h; cases h; decide⟩, by decide +kernel,
    by decide +kernel, fun st => ⟨held63 _ _, portFree63 _ _⟩, by decide⟩

def tolerant (s : State) : State := modPwr (fun p => { p with ltrPort := [(63, 50000)], ltrNode := 5000000 }) s

theorem wit_quiet : (let s := tolerant (port63 1 { state := .traffic })
      (s.pwr.powered = true ∧ s.pwr.node ≠ 4) ∧ (portOf s 63).state = .traffic ∧ portPower s 63 = 0 ∧ (portOf s 63).quieting = false ∧ (portOf s 63).quiet = false
        ∧ exitP1 ≤ portTolerance s 63 ∧ exitP3 ≤ portTolerance s 63 ∧ portIdle s 63 = true ∧ portMayQuiet s 63 = true)
    ∧ (portOf (port63 1 { state := .traffic, quieting := true }) 63).quieting = true
    ∧ (portOf (port63 1 { state := .traffic, quiet := true }) 63).quiet = true
    ∧ PortFree (port63 1 { state := .traffic, quiet := true }) 63
    ∧ (let s := modPwr (fun p => { p with node := 4 }) (port63 1 { state := .traffic, quiet := true })
      s.pwr.powered = true ∧ s.pwr.node = 4 ∧ s.pwr.tripped = false ∧ (portOf s 63).quiet = true ∧ (portOf s 63).state = .traffic)
    ∧ (Instr.onCore .auditPass = true ∧ Instr.wf .auditPass = true) :=
  ⟨by decide +kernel, by decide +kernel, by decide +kernel, portFree63 _ _, by decide +kernel, by decide⟩

theorem wit_sleep : (let s := tolerant State.reset
      (s.pwr.powered = true ∧ s.pwr.node ≠ 4) ∧ 11 < 12 ∧ exitP2 ≤ nodeTolerance s ∧ groupMayGate s 11 0 = true ∧ s.pwr.tripped = false ∧ s.pwr.node = 0)
    ∧ (let s := modPwr (fun p => { p with gated := 0xFFF }) (tolerant State.reset)
      s.pwr.node = 0 ∧ exitP3 ≤ nodeTolerance s ∧ nodeMaySleep s = true)
    ∧ (let s := modPwr (fun p => { p with node := 3 }) (tolerant State.reset)
      s.pwr.node = 3 ∧ exitP4 ≤ nodeTolerance s ∧ (∀ n, n < 64 → persOf s n = 1 → portPower s n = 3) ∧ (∀ n, n < 64 → persOf s n = 2 → (portOf s n).state ≠ .traffic)
        ∧ s.pwr.tripped = false)
    ∧ (modPwr (fun p => { p with node := 4 }) (tolerant State.reset)).pwr.node = 4
    ∧ (let s := modTick (fun t => { t with active := [3 * 2 ^ 124] }) State.reset
      ∃ x, s.tick.active[0]? = some x ∧ (entKind x = kindArray ∨ entKind x ≠ kindArray)) :=
  ⟨by decide +kernel, by decide +kernel, by decide +kernel, by decide +kernel, _, rfl, Decidable.em _⟩

theorem wit_cap : (State.reset.pwr.powered = true ∧ State.reset.pwr.node ≠ 4) ∧ 1000 ≠ 0 ∧ 1000 ≤ 1000 ∧ State.reset.pwr.alert = false ∧ appliedLevel State.reset = 0
    ∧ (let s := modPwr (fun p => { p with thermLevel := 3 }) State.reset
      appliedLevel s ≠ 0 ∧ s.pwr.level = 0 ∧ capW s < capW s + 1) := by decide +kernel

theorem wit_temps : (114 : Byte).toNat < 115 ∧ 115 ≤ (115 : Byte).toNat
    ∧ (let s := modPwr (fun p => { p with dieHot := 1, thermLevel := 18 }) State.reset
      (s.pwr.powered = true ∧ s.pwr.node ≠ 4) ∧ s.pwr.dieHot ≠ 0 ∧ s.pwr.tripped = false ∧ s.pwr.thermLevel.toNat < 19 ∧ s.pwr.thermLevel ≠ 0 ∧ hotStacks s = [])
    ∧ 23 < 24 ∧ (stackOfN (modStack 23 (fun y => { y with hotSamples := 1 }) State.reset) 23).hotSamples ≠ 0 := by decide +kernel

/-! ## Witnesses: ticks -/

theorem wit_tickSettings : ((Serving ins ∧ HasSession ins 0 (sess 2)) ∧ (sess 2).role = 2 ∧ bitAt (0x80000000 : W32) 31 = true ∧ bitAt (250 : W32) 31 = false)
    ∧ ((Serving op ∧ HasSession op 0 (sess 1)) ∧ (sess 1).role = 1 ∧ op.tick.checking = false ∧ op.tick.pending = false)
    ∧ (let s := mk 1 (modTick fun y => { y with checking := true })
      (Serving s ∧ HasSession s 0 (sess 1)) ∧ (s.pwr.powered = true ∧ s.pwr.node ≠ 4) ∧ s.tick.checking = true ∧ (itinCheck s).1 = 0)
    ∧ (itinCheck (mk 1 (modTick fun y => { y with checking := true, stage := [(0, 15 * 2 ^ 124)] }))).1 ≠ 0 :=
  ⟨⟨opened (by decide +kernel), by decide +kernel⟩, ⟨opened (by decide +kernel), by decide +kernel⟩, ⟨opened (by decide +kernel), by decide +kernel⟩,
    by decide +kernel⟩

/-- No descriptor, collective, run or frame; a commit is due at the next tick. -/
theorem wit_boundary : let s := modTick (fun y => { y with pending := true, latchedTick := 1, latchedLoad := true }) State.reset
    (s.pwr.powered = true ∧ s.pwr.node ≠ 4) ∧ s.eps = [] ∧ s.col.slots = [] ∧ s.arr.arrays = [] ∧ s.swc.nodeIn = [] ∧ s.swc.inbound = [] ∧ s.swc.queues = []
    ∧ s.tick.active ++ staged s = [] ∧ s.rte.planePending = false ∧ (s.tick.pending = true ∧ s.tick.latchedTick ≤ s.tick.takeFrom.getD s.tick.now + 1)
    ∧ (s.tick.latchedLoad = true) ∧ State.reset.tick.pending = false := by decide +kernel

def entry (kind : Nat) : BitVec 128 := BitVec.ofNat 128 (kind * 2 ^ 124)
def ticking : State := modTick (fun y => { y with state := .master, active := [entry 1, entry 4] }) State.reset

theorem wit_entries : ticking.pwr.powered = true ∧ (entryNow ticking 0 = some (entry 1) ∧ ¬ 0 ∈ ticking.tick.started ∧ mayStart ticking = true ∧ entKind (entry 1) = kindXfer)
    ∧ (entryNow ticking 1 = some (entry 4) ∧ ¬ 1 ∈ ticking.tick.started ∧ entKind (entry 4) = kindRefresh)
    ∧ ¬ 0 ∈ ticking.tick.finished ∧ 383 < 384 ∧ ticking.glb.faults.length < 1024 ∧ (ticking.pwr.node ≠ 4 ∧ ticking.arr.arrays = [] ∧ tabGet [] ticking.arr.writeSlots 383 = [])
    ∧ (23 < 24 ∧ stackAuto ticking 23 = true ∧ (stackOfN ticking 23).state ≠ .selfRefresh) := by decide +kernel

/-- A beacon from a master with another FNID. -/
def beacon (kind : Nat) : List Byte := beaconPayload (modTick (fun y => { y with state := .master, mclass := 1, stratum := 0 }) State.reset) kind 100 7
def beaconFrame (kind : Nat) : Frame := mkFrame (mkWb { type := 0x30, cls := .ctrl, plen := 1, plane := 0, src := 5, dst := 0xFFF, length := 32 }) (beacon kind)
def beaconWord (kind : Nat) : BitVec 256 := BitVec.ofNat 256 (leNat (beacon kind))
/-- A module with an FNID, that follows the chain. -/
def following (st : SyncState) : State := modGlb (fun g => { g with step := 8, fnid := 3 }) (modTick (fun y => { y with
  state := st, upstream := 0x40, goodSyncs := 15, carriers := [(0x40, { reqOut := some 90, samples := List.replicate 16 0 })] }) State.reset)

theorem wit_beacons : (let s := following .locked
      (s.pwr.powered = true ∧ s.pwr.node ≠ 4) ∧ 0x40 ≤ chainOut ∧ carrierUp s 0x40 = true ∧ carrierUp s 0x41 = true ∧ (carrierOf s 0x41).reqOut = none
        ∧ beaconIn s 0x40 1 (beaconFrame 1) = some (beaconWord 1) ∧ beaconIn s 0x40 2 (beaconFrame 2) = some (beaconWord 2) ∧ (carrierOf s 0x40).reqOut = some 90
        ∧ beaconIn s 0x40 0 (beaconFrame 0) = some (beaconWord 0) ∧ ignoresBeacons s = false)
    ∧ (let s := following .locked
      let u := modCarrier 0x40 (fun c => { c with heard := true, sync := some (beaconWord 0), src := 5 }) (noteSignal 0x40 s)
      s.tick.state = .locked ∧ s.tick.upstream.toNat = 0x40 ∧ bestSource u = some 0x40)
    ∧ (let s := following .acquire
      let u := modCarrier 0x40 (fun c => { c with heard := true, sync := some (beaconWord 0), src := 5 }) (noteSignal 0x40 s)
      s.tick.state = .acquire ∧ s.tick.upstream.toNat = 0x40 ∧ bestSource u = some 0x40 ∧ 15 ≤ s.tick.goodSyncs ∧ 16 ≤ (carrierOf s 0x40).samples.length
        ∧ -lim2ns ≤ errOf u 0x40 (beaconWord 0) 99 ∧ errOf u 0x40 (beaconWord 0) 99 ≤ lim2ns) := by decide +kernel

/-- A TRUNK port carries beacons, too. -/
theorem wit_trunkBeacons : let s := modPort 63 (fun p => { p with state := .traffic }) (nvMod (fun n => { n with pers := [(63, 2)] }) (following .locked))
    (s.pwr.powered = true ∧ s.pwr.node ≠ 4) ∧ carrierUp s 63 = true ∧ (carrierOf s 63).reqOut = none ∧ beaconIn s 63 1 (beaconFrame 1) = some (beaconWord 1) ∧ s.rte.cmapEn = false := by
  decide +kernel

theorem wit_sync : (let s := following .locked
      (s.pwr.powered = true ∧ s.pwr.node ≠ 4) ∧ s.tick.state = .locked ∧ (∀ k, k ≤ chainIn → qualifies s k = true → k ∈ ([0x40] : List Nat)) ∧ s.glb.faults.length < 1023)
    ∧ (let s := modMgt (fun m => { m with adopted := true, addr := 0 }) (following .acquire)
      s.tick.state = .acquire ∧ s.mgt.adopted = true ∧ s.mgt.addr = 0 ∧ masterForce s = false ∧ s.tick.forcedSeen = false)
    ∧ (let s := nvMod (fun n => { n with syncCfg := 0x40000000 }) (following .holdover)
      s.tick.state = .holdover ∧ s.tick.upstream.toNat = chainIn ∧ bitAt s.mgt.nv.syncCfg 30 = true ∧ chainIn ∈ [chainIn])
    ∧ (let s := modTick (fun y => { y with upstream := 0 }) (following .holdover)
      s.tick.upstream.toNat ≠ chainIn ∧ s.tick.upstream.toNat ∈ [0]) := by decide +kernel

/-! ## Witnesses: loads, bindings, tables, scrubs -/

theorem wit_loads : (Serving op ∧ HasSession op 0 (sess 1)) ∧ (sess 1).role = 1 ∧ op.arr.loadBusy = none
    ∧ (1 = 1 ∧ arrayEnabled (mk 1 (modArr fun w => { w with map := 0 })) 863 = false)
    ∧ (let s := mk 1 fun s => modArr (fun w => { w with map := 1 }) (modPwr (fun p => { p with gated := 1 }) s)
      (Serving s ∧ HasSession s 0 (sess 1)) ∧ arrayEnabled s 0 = true ∧ groupGated s (0 / 72) = true)
    ∧ (let s := modArr (fun w => { w with loadBusy := some (863, prog0, []) }) State.reset
      (s.pwr.powered = true ∧ s.pwr.node ≠ 4) ∧ s.arr.loadBusy = some (863, prog0, []) ∧ (arrOf s 863).run = none) :=
  ⟨opened (by decide +kernel), by decide +kernel, by decide +kernel, by decide +kernel, ⟨opened (by decide +kernel), by decide +kernel⟩, by decide +kernel⟩

/-- A barrier of group 0, of which array group 0 of FNID 3 is rank 0. -/
def barrier : BitVec 512 := BitVec.ofNat 512 (7 * 2 ^ 16 + 0x10)

theorem wit_binding : let s := mk 1 fun s => modGlb (fun g => { g with fnid := 3 }) (modCol (fun c => { c with groups := [(0, BitVec.ofNat 64 (2 ^ 63))], members := [(0, 0xC003)] })
      (modArr (fun w => { w with cbData := barrier }) s))
    (Serving s ∧ HasSession s 0 (sess 1)) ∧ ((11 : BitVec 4).toNat < 12 ∧ colFormatOk s s.arr.cbData stackedSize true = true ∧ dField s.arr.cbData 0 1 = 0x10
      ∧ colRank s s.arr.cbData (myFnid s) ((11 : BitVec 4).toNat + 1) = some 0 ∧ tabGet 0 s.col.cb (cbKey 11 15) = 0
      ∧ (slotOf s (colSlotOf (cColId s.arr.cbData))).state = .free)
    ∧ tabGet 0 (modCol (fun c => { c with cb := [(cbKey 11 15, barrier)] }) s).col.cb (cbKey 11 15) ≠ 0 :=
  ⟨opened (by decide +kernel), by decide +kernel⟩

theorem wit_tenant : ((Serving op ∧ HasSession op 0 (sess 1)) ∧ (sess 1).role = 1 ∧ op.mem.tenantBusy = false ∧ tenantCheck op = 0)
    ∧ tenantCheck (mk 1 (modMem fun m => { m with gen := 0xFFFF_FFFF })) = 6
    ∧ (let s := modMem (fun m => { m with tenantBusy := true }) State.reset
      (s.pwr.powered = true ∧ s.pwr.node ≠ 4) ∧ s.mem.tenantBusy = true ∧ s.mgt.queue.length < 256)
    ∧ (op.pwr.tripped = false ∧ op.pwr.node.toNat < 3)
    ∧ (let s := mk 1 (modPwr fun p => { p with tripped := true })
      (Serving s ∧ HasSession s 0 (sess 1)) ∧ tenantCheck s = 0 ∧ s.pwr.tripped = true) :=
  ⟨⟨opened (by decide +kernel), by decide +kernel⟩, by decide +kernel, by decide +kernel, by decide +kernel, opened (by decide +kernel), by decide +kernel⟩

/-- A valid shard entry: 2^16-byte shards, one stripe, rank 0. -/
def shards : BitVec 384 := BitVec.ofNat 384 (1 + 16 * 2 ^ 24 + 2 ^ 32)
/-- One of rank `r` with a RELAY area at port 63, and every member on another plane. -/
def relayed (r : Nat) : BitVec 384 :=
  BitVec.ofNat 384 (1 + r * 2 ^ 16 + 16 * 2 ^ 24 + 2 ^ 32 + ((List.range 10).map fun k => 0x80 * 2 ^ (128 + 12 * k)).sum + 2 ^ 273 + 63 * 2 ^ 280)
/-- The least of an end-point block that hands an access to its controller. -/
def readyEp : Ep := { attach := .ready, dlvMax := 64 }

theorem wit_shards : (let s := mk 1 (modMem fun m => { m with ecData := shards, ecEntries := [(7, shards)] })
      let t := modGlb (fun g => { g with viewWords := [(0, 0x3FF)] }) s
      let u := modGlb (fun g => { g with viewWords := [(0, 0x807FD)] }) s
      (Serving s ∧ HasSession s 0 (sess 1)) ∧ (sess 1).role = 1 ∧ s.mem.ecOp = none
        ∧ (!ecValid s.mem.ecData || ecEntryOk s s.mem.ecData) = true ∧ ecStart s false 0 (ecEntryOf s 7) = 2
        ∧ ecStart t false 0 (ecEntryOf t 7) = 0 ∧ ecStart u true 9 (ecEntryOf u 7) = 0 ∧ ecStart u true 10 (ecEntryOf u 7) = 2
        ∧ nextPart (fun i => !(stripReceivers t { rebuild := false, entry := 7, rank := 0, vepoch := 0, num := 1 } i).isEmpty) 1 0 = ecStripes (ecEntryOf t 7))
    ∧ (let s := mk 1 fun s => modEp 63 (fun _ => readyEp) (modMem (fun m => { m with ecEntries := [(7, relayed 9)] }) (modGlb (fun g => { g with viewWords := [(0, 0x3FF)] }) s))
      let e := ecEntryOf s 7
      let o : EcOp := { rebuild := false, entry := 7, rank := 0, vepoch := 0, num := 1 }
      (Serving s ∧ HasSession s 0 (sess 1)) ∧ ecStart s false 0 e = 0 ∧ nextPart (fun i => !(stripReceivers s o i).isEmpty) (ecStripes e) 0 < ecStripes e
        ∧ stripReceivers s o 0 = 0 :: [1] ∧ ecOnPlane s e 0 = false ∧ ecRelay e = true ∧ ecRelayPort e = 63 ∧ (portOf s 63).quiet = false ∧ DlvRoom s 63 0)
    ∧ (let s := mk 1 (modMem fun m => { m with ecOp := some { rebuild := true, entry := 7, rank := 9, vepoch := 0 } })
      (Serving s ∧ HasSession s 0 (sess 1)) ∧ s.mem.ecOp.isSome = true) :=
  ⟨⟨opened (by decide +kernel), by decide +kernel⟩, ⟨opened (by decide +kernel), by unfold DlvRoom; decide +kernel⟩, opened (by decide +kernel), by decide +kernel⟩

/-- A tensor pool of one block of 2^8 bytes with RDTYPE 4, on array 0 of group 0, with the program 0. -/
def pool : BitVec 512 := BitVec.ofNat 512 (1 + 2 ^ 64 + 4096 * 2 ^ 192 + 8 * 2 ^ 320 + 4 * 2 ^ 328 + 2 ^ 352)
def poolState (f : State → State) : State := mk 1 fun s => f (modArray 0 (fun a => { a with dir := [{ prog0 with hdr := BitVec.ofNat 512 (2 ^ 49) }] })
  (modArr (fun w => { w with map := 1 }) (modSvc (fun w => { w with data := pool }) s)))

theorem wit_services : (let s := poolState id
      (Serving s ∧ HasSession s 0 (sess 1)) ∧ (sess 1).role = 1 ∧ s.svc.busy = false ∧ eKind s.svc.data = 1 ∧ eImage s.svc.data = 0
        ∧ (entryCheck 15 s.svc.data s).1 = 0)
    ∧ (let s := poolState (modSvcN 15 fun v => { v with state := .active, entry := pool })
      (svcOf s 15).state = .active ∧ svcLive s 15 = true)
    ∧ (eKind (0 : BitVec 512) = 0 ∧ svcLive op 15 = false) ∧ (eKind (3 : BitVec 512) ≠ 0 ∧ entryFormatOk 3 = false)
    ∧ (entryFormatOk (pool ^^^ BitVec.ofNat 512 (4096 * 2 ^ 192)) = true ∧ entryRangeOk (pool ^^^ BitVec.ofNat 512 (4096 * 2 ^ 192)) = false)
    ∧ (let e := pool + BitVec.ofNat 512 (stackedSize * 2 ^ 256)
      eKind e ≠ 0 ∧ entryFormatOk e = true ∧ entryRangeOk e = true ∧ stackedSize < eImage e + 64 ∧ eImage e ≠ 0)
    ∧ (let s := poolState (modSvcN 14 fun v => { v with state := .active, entry := pool })
      entryFormatOk s.svc.data = true ∧ entryRangeOk s.svc.data = true ∧ entryOverlaps s 15 s.svc.data = true)
    ∧ (let s := poolState (modSvcN 15 fun v => { v with state := .draining, entry := pool })
      (s.pwr.powered = true ∧ s.pwr.node ≠ 4) ∧ 15 < 16 ∧ (svcOf s 15).state = .draining ∧ svcQuiet s 15 = true ∧ eKind (svcOf s 15).entry = 1) :=
  ⟨⟨opened (by decide +kernel), by decide +kernel⟩, by decide +kernel⟩

/-! ## Witnesses: the attach link and manifest rings -/

theorem crcOk (h : Header) (p : List Byte) : msgCrcOk (mkMsg h p) = true := decide_eq_true rfl

/-- A window of one page of FNID 3 with every right and plane. -/
def window : BitVec 128 := BitVec.ofNat 128 (2 ^ 127 + 15 * 2 ^ 121 + 3 * 2 ^ 96 + 0xFFFF * 2 ^ 80 + 2 ^ 40)
def anEp : Ep := { srcFnid := 5, win := [(1022, window - BitVec.ofNat 128 (15 * 2 ^ 121)), (1023, window)], attach := .ready, dlvMax := 64 }
/-- Block 63 of an EDGE port as given; FNIDs 3 and 5 share a partition. -/
def ep63 (e : Ep) : State := modRte (fun r => { r with part := [(1, 0x10000), (2, 0x10000)] }) (modEp 63 (fun _ => e)
  (nvMod (fun n => { n with pers := [(63, 1)] }) State.reset))

/-- Its port takes messages at once, and has room for a delivery. -/
theorem awake63 (e : Ep) : EpAwake (ep63 e) 63 := ⟨⟨rfl, show (0 : BitVec 3) ≠ 4 by decide⟩, rfl, show (0 : BitVec 2) ≠ 1 by decide⟩

/-- A LOAD of 8 bytes through window `w`. -/
def loadMsg (w : Nat) : AttachMsg := mkMsg (mkHdr 0x01 0 0 [(2, 9), (6, w), (16, 8)]) []
/-- A flagged STORE of 8 bytes through window 1023. -/
def flagMsg : AttachMsg := mkMsg (mkHdr 0x02 0 1 [(2, 9), (6, 1023), (16, 8), (20, 1)]) (zeros 32)
def reqOf (s : State) (m : AttachMsg) : DirectReq :=
  { msg := m, addr := stampAddr (winOf s 63 (msgWindow m)) (msgOffset m), win := msgWindow m, ord := (epOf s 63).reqCount, held := false }
def noCtx (e : Ep) : Ep := { e with rel := { e.rel with freshCtx := 4096 } }

theorem wit_direct : (let s := ep63 anEp
      (s.pwr.powered = true ∧ s.pwr.node ≠ 4) ∧ 63 < 64 ∧ (epOf s 63).attach = .ready ∧ (epOf s 63).offRspRx = false ∧ (epOf s 63).rspWait = []
        ∧ reqFormatOk (mkMsg (mkHdr 0x01 0 0 [(16, 257)]) []) = false
        ∧ (reqFormatOk (loadMsg 0) = true ∧ tollDirect s 63 (loadMsg 0) = 1)
        ∧ (tollDirect s 63 (loadMsg 1022) = 3 ∧ lineUnanswered (epOf s 63) (reqOf s (loadMsg 1022)) = false)
        ∧ (reqFlagged flagMsg = true ∧ flagMayGo s 63 (epOf s 63).reqCount = true)
        ∧ (reqFormatOk (loadMsg 1023) = true ∧ tollDirect s 63 (loadMsg 1023) = 0 ∧ reqFlagged (loadMsg 1023) = false
          ∧ (epOf s 63).aReq = [] ∧ ctxHead (epOf s 63).rel = some 0 ∧ canSend s (.ep 63) (directFrame s 63 (reqOf s (loadMsg 1023))) = true))
    ∧ (let s := ep63 (noCtx anEp)
      canSend s (.ep 63) (directFrame s 63 (reqOf s (loadMsg 1023))) = false)
    ∧ (let s := ep63 { noCtx anEp with reqCount := 1, aReq := [reqOf (ep63 anEp) (loadMsg 1023)] }
      (reqFormatOk flagMsg = true ∧ tollDirect s 63 flagMsg = 0 ∧ reqFlagged flagMsg = true ∧ flagMayGo s 63 (reqOf s flagMsg).ord = false)
        ∧ reqFormatOk (loadMsg 1022) = true ∧ tollDirect s 63 (loadMsg 1022) = 3 ∧ lineUnanswered (epOf s 63) (reqOf s (loadMsg 1022)) = true) := by
  decide +kernel

/-- A LOAD of 8 bytes that arrived as a frame, and its delivery. -/
def loadWb : Header := mkWb { type := 0x01, cls := .req, plen := 0, plane := 0, src := 7, dst := 5, length := 8 }
def delivery : Delivery := { use := .remote loadWb false, opcode := 0x41, addr := 0, len := 8 }
def delivering : State := ep63 { anEp with dlvSlots := [(4095, ⟨63, some delivery⟩)] }
def rspMsg (tag : Nat) : AttachMsg := mkMsg (mkHdr 0x81 1 1 [(2, tag)]) (zeros 32)

theorem wit_deliveries : (let s := delivering
      let m := rspMsg 0xFFFFFF
      (s.pwr.powered = true ∧ s.pwr.node ≠ 4) ∧ (epOf s 63).attach = .ready ∧ msgOpcode m = 0x81 ∧ msgChan m = 1 ∧ bitsOf m.hdr 12 2 = (0 : BitVec 2)
        ∧ bitsOf m.hdr 48 208 = (0 : BitVec 208) ∧ m.payload.length = 32 * msgPlen m
        ∧ (tabGet {} (epOf s 63).dlvSlots ((msgTag m).toNat % 4096) = ⟨63, some delivery⟩ ∧ delivery.use = .remote loadWb false
          ∧ (msgTag m).toNat / 2 ^ 18 = (63 : BitVec 6).toNat ∧ (msgTag m).toNat / 2 ^ 12 % 64 = 63 ∧ msgStatus m = 0 ∧ msgPlen m = rspPlen delivery 0
          ∧ (epOf s 63).dlvQueue = [] ∧ wbVary loadWb = false ∧ (epOf s 63).aRsp = [] ∧ ingressOff s 63 2 = false
          ∧ ingressOff (modPool (fun p => { p with xoff := [(2, true)] }) s) 63 2 = true)
        ∧ (tabGet {} (epOf s 63).dlvSlots ((msgTag (rspMsg 0)).toNat % 4096)).busy = none)
    ∧ (let s := delivering
      let m := ctlMsg 0x28 [(2, 3)]
      ctlOk m 0x28 [(2, 1)] = true ∧ hdrField m.hdr 2 1 < 4 ∧ (epOf s 63).rspWait = [] ∧ 4095 < 4096
        ∧ (tabGet {} (epOf s 63).dlvSlots 4095).busy = some delivery ∧ answerWaits (epOf s 63) 4095 = false ∧ (epOf s 63).faults.length < 64)
    ∧ (epOf (ep63 { anEp with attach := .steering }) 63).attach = .steering := by decide +kernel

theorem wit_handshake : (∀ v, v ∈ [64, 4096] → ctlOk (ctlMsg 0x20 [(2, 1), (4, v)]) 0x20 [(2, 1), (4, 2)] = true
      ∧ hdrField (ctlMsg 0x20 [(2, 1), (4, v)]).hdr 2 1 = 1 ∧ hdrField (ctlMsg 0x20 [(2, 1), (4, v)]).hdr 4 2 = v)
    ∧ (ctlOk (ctlMsg 0x20 [(2, 2), (4, 64)]) 0x20 [(2, 1), (4, 2)] = true ∧ hdrField (ctlMsg 0x20 [(2, 2), (4, 64)]).hdr 2 1 ≠ 1)
    ∧ (∀ v, v ∈ [63, 4097] → ctlOk (ctlMsg 0x20 [(2, 1), (4, v)]) 0x20 [(2, 1), (4, 2)] = true
      ∧ (hdrField (ctlMsg 0x20 [(2, 1), (4, v)]).hdr 4 2 < 64 ∨ 4096 < hdrField (ctlMsg 0x20 [(2, 1), (4, v)]).hdr 4 2))
    ∧ (let s := ep63 { anEp with mapWait := some 3 }
      (epOf s 63).winWait = none ∧ (epOf s 63).mapWait = some 3)
    ∧ (epOf (ep63 { anEp with attach := .waitHello }) 63).attach = .waitHello
    ∧ (let s := ep63 { anEp with attach := .steering, readySent := true, steerSeq := 8 }
      ctlOk (ctlMsg 0x27 [(2, 7)]) 0x27 [(2, 2)] = true ∧ (epOf s 63).attach = .steering ∧ (epOf s 63).readySent = true
        ∧ BitVec.ofNat 16 (hdrField (ctlMsg 0x27 [(2, 7)]).hdr 2 2) = lastSteer (epOf s 63))
    ∧ (let s := ep63 { anEp with steerSeq := 8, winWait := some 7 }
      (epOf s 63).attach = .ready ∧ BitVec.ofNat 16 (hdrField (ctlMsg 0x27 [(2, 7)]).hdr 2 2) - lastSteer (epOf s 63) = 0 ∧ (epOf s 63).winWait = some 7
        ∧ (epOf s 63).faults.length < 64)
    ∧ (let s := ep63 { anEp with attach := .steering }
      (epOf s 63).attach = .steering ∧ (epOf s 63).readySent = false ∧ (epOf s 63).srcFnid ≠ 0xFFF ∧ (portOf s 63).quiet = false)
    ∧ (portOf (modPort 63 (fun p => { p with quiet := true }) (ep63 anEp)) 63).quiet = true := by decide +kernel

/-- Block 63 with ring 63 as given. -/
def ring63 (g : Ring) (f : Ep → Ep) : State := ep63 (f { anEp with rings := [(63, g)] })
def active : Ring := { state := .active, logSize := 4, planeSet := 1, head := 3, tail := 5, cqHead := 1 }
def bell (which v : Nat) : AttachMsg := ctlMsg 0x22 [(2, 63), (3, which), (4, v)]
def config (op : Nat) : AttachMsg := ctlMsg 0x23 [(2, 63), (3, op), (4, 16), (6, 1), (8, 4096), (16, 8192)]
/-- A descriptor of ring 63 that moves nothing more. -/
def aDesc (raw : BitVec 512) : Desc := { ring := 63, index := 2, raw := raw }

theorem wit_doorbells : (let s := ring63 active id
      (s.pwr.powered = true ∧ s.pwr.node ≠ 4) ∧ 63 < 64 ∧ (epOf s 63).attach = .ready ∧ (ringOf s 63 63).state = .active
        ∧ ctlOk (bell 0 19) 0x22 [(2, 2), (4, 4)] = true ∧ hdrField (bell 0 19).hdr 2 1 = 63 ∧ hdrField (bell 0 19).hdr 3 1 = 0
        ∧ hdrField (bell 1 3).hdr 3 1 = 1 ∧ BitVec.ofNat 32 (hdrField (bell 0 19).hdr 4 4) = 19
        ∧ ((19 - active.head).toNat ≤ 2 ^ active.logSize.toNat ∧ (19 - active.tail).toNat < 2 ^ 31)
        ∧ 2 ^ active.logSize.toNat < (20 - active.head).toNat ∧ ((4 - active.head).toNat ≤ 2 ^ active.logSize.toNat ∧ 2 ^ 31 ≤ (4 - active.tail).toNat)
        ∧ (3 ≠ active.cqHead ∧ (3 - active.cqHead).toNat ≤ (active.head - active.cqHead).toNat)
        ∧ (active.head - active.cqHead).toNat < (4 - active.cqHead).toNat)
    ∧ (let s := ring63 {} id
      ctlOk (config 1) 0x23 [(2, 3), (6, 2), (8, 16)] = true ∧ ringCfgOk s (config 1).hdr = true ∧ ringCfgOk s (config 3).hdr = false
        ∧ (ringOf s 63 63).closing = none ∧ (ringOf s 63 63).state = .disabled ∧ hdrField (config 1).hdr 3 1 = 1)
    ∧ (let s := ring63 active id
      (ringOf s 63 63).state ≠ .disabled ∧ (hdrField (config 2).hdr 3 1 ≠ 1 ∧ ringQuiet s 63 63 = true)
        ∧ (ringOf s 63 63).closing = none ∧ (ringOf s 63 63).closeNext = [])
    ∧ (let s := ring63 active (fun e => { e with descs := [(0, some (aDesc 0))] })
      ringQuiet s 63 63 = false)
    ∧ (let s := ring63 { active with closing := some true } id
      (ringOf s 63 63).closing = some true ∧ (ringOf s 63 63).closeNext = [] ∧ ringQuiet s 63 63 = true) := by decide +kernel

theorem wit_dlvRoom : DlvRoom (ring63 active id) 63 0 := by unfold DlvRoom; decide +kernel

theorem wit_fetches : (let s := ring63 active id
      let g := ringOf s 63 63
      g.state = .active ∧ g.fetching = false ∧ g.closing = none ∧ fetchBlocked s 63 63 = false ∧ g.tail ≠ g.head
        ∧ ((epOf s 63).descs.filter fun x => x.2.isSome).length + ((epOf s 63).rings.filter fun x => x.2.fetching).length < 256
        ∧ (g.head - g.cqHead).toNat < 2 ^ g.logSize.toNat)
    ∧ (let s := ring63 { active with head := 17, tail := 18 } id
      2 ^ (ringOf s 63 63).logSize.toNat ≤ ((ringOf s 63 63).head - (ringOf s 63 63).cqHead).toNat)
    ∧ (let s := ep63 { anEp with aReq := [reqOf (ep63 anEp) (loadMsg 1023)], reqCount := 1 }
      (epOf s 63).descs = [] ∧ (epOf s 63).rings = [] ∧ (epOf s 63).turn = 0 ∧ nextDirect s 63 = some (reqOf (ep63 anEp) (loadMsg 1023))
        ∧ ctxHead (epOf s 63).rel = some 0 ∧ (epOf s 63).rel.waiting = [] ∧ (epOf s 63).aRsp = [])
    ∧ (let f : NewFrame := { type := 0x20, src := 5, addr := 0, length := 0, port := 127, owner := .other }
      let s := modRte (fun r => { r with rel := { r.rel with waiting := [f] } }) State.reset
      s.rte.rel.waiting = f :: [] ∧ frameAlive s f = true ∧ waitingNext s .rte = some f ∧ ctxHead s.rte.rel = some 0) := by decide +kernel

def point (k : Bool) : CairnPoint := { num := 1, index := 2, slot := some 0, kernelStart := k, ownsFlag := !k }
/-- A KERNEL_START, and a PUT of 64 bytes with FLAG that is to send its one line. -/
def startRaw : BitVec 512 := 6
def putRaw : BitVec 512 := BitVec.ofNat 512 (0x101 + 64 * 2 ^ 96)

theorem wit_cairn : (let q : DirectReq := { reqOf (ep63 anEp) flagMsg with held := true }
      let s := ep63 { anEp with aReq := [q], reqCount := 1 }
      ((epOf s 63).aReq.find? fun x => x.held && flagMayGo s 63 x.ord) = some q ∧ tollDirect s 63 q.msg = 0 ∧ ctxHead (epOf s 63).rel = some 0
        ∧ canSend s (.ep 63) (directFrame s 63 { q with held := false }) = true)
    ∧ (let s := ring63 { active with planeSet := 3, points := [{ point true with slot := none }] } id
      let g := ringOf s 63 63
      (g.points.find? fun p => decide (p.num = g.reportedTo + 1)) = some { point true with slot := none }
        ∧ mayReport s 63 63 { point true with slot := none } = true ∧ soloRing s g = false ∧ (epOf s 63).descs = []
        ∧ (∀ e ∈ (epOf s 63).rings, e.2.closing = none))
    ∧ (let s := ring63 { active with points := [{ point true with reported := true, answered := true }] } id
      ((ringOf s 63 63).points.find? fun p => pointWaits p && p.answered && !p.reading) = some { point true with reported := true, answered := true })
    ∧ (∀ k, k ∈ [true, false] → let p : CairnPoint := { point k with reported := true }
      let s := ring63 { active with points := [p] } (fun e => { e with descs := [(0, some (aDesc startRaw))] })
      (epOf s 63).descs = [(0, some (aDesc startRaw))] ∧ (aDesc startRaw).ring = 63 ∧ p.slot = some 0 ∧ (∀ e ∈ (epOf s 63).rings, e.2.closing = none)
        ∧ ((ringOf s 63 63).points.find? fun p => p.kernelStart == k && pointWaits p) = some p ∧ (ringOf s 63 63).state = .active) := by decide +kernel

theorem wit_flagRefused : let q : DirectReq := { reqOf (ep63 anEp) flagMsg with held := true }
      let s := ep63 { anEp with aReq := [q], reqCount := 1, win := [] }
      (epOf s 63).aReq = [q] ∧ q.held = true ∧ flagMayGo s 63 q.ord = true ∧ tollDirect s 63 q.msg ≠ 0 ∧ (epOf s 63).attach = .ready ∧ (portOf s 63).quiet = false
        ∧ (epOf s 63).offRspRx = false ∧ (epOf s 63).rspWait = [] ∧ (epOf s 63).refusals = [] ∧ (epOf s 63).aRsp = [] ∧ (epOf s 63).offReqTx = false
        ∧ (epOf s 63).offRspTx = false ∧ 0x10000 ≤ s.attachBuf ∧ (∀ c ∈ (epOf s 63).rel.ctxs, c.2.st ≠ .held) ∧ (epOf s 63).faults.length < 64 := by decide +kernel

/-- A live descriptor with the point, on a ring of one plane or of two, with a write that failed. -/
def atPoint (k : Bool) : Desc := { aDesc (if k then startRaw else putRaw) with started := true, point := some 1 }
def reports (k : Bool) (ps : BitVec 16) : State :=
  ring63 { active with planeSet := ps, points := [point k], failed := [1] } (fun e => { e with descs := [(0, some (atPoint k))] })

theorem wit_cairnReports : (∀ k, mayReport (reports k 1) 63 63 (point k) = true ∧ mayReport (reports k 3) 63 63 (point k) = true)
    ∧ (∀ k, (epOf (reports k 1) 63).descs = [(0, some (atPoint k))] ∧ pointOf (ringOf (reports k 1) 63 63) 0 = some (point k))
    ∧ (∀ k, soloRing (reports k 1) (ringOf (reports k 1) 63 63) = true ∧ soloRing (reports k 3) (ringOf (reports k 3) 63 63) = false)
    ∧ (∀ k, ((ringOf (reports k 1) 63 63).points.find? fun p => decide (p.num = (ringOf (reports k 1) 63 63).reportedTo + 1)) = some (point k))
    ∧ (∀ k, (∀ e ∈ (epOf (reports k 1) 63).rings, e.2.closing = none) ∧ pointErr (ringOf (reports k 1) 63 63) (point k) = true)
    ∧ (∀ k, (atPoint k).ring = 63 ∧ (point k).slot = some 0 ∧ (point k).confirmed = false ∧ mayEnd (atPoint k) = true)
    ∧ (isKernelStart (atPoint true).raw = true ∧ (point false).ownsFlag = true ∧ (atPoint false).flagSent = false ∧ dMoves (atPoint false).raw = true) :=
  ⟨by decide +kernel, by decide +kernel, by decide +kernel, by decide +kernel, by decide +kernel, by decide +kernel, by decide +kernel⟩

/-! ## Witnesses: the switch core, end-to-end recovery -/

/-- A module with FNID 0x800. -/
def module (f : State → State) : State := f (modGlb (fun g => { g with step := 8, fnid := 0x800 }) State.reset)
def wbTo (t : Byte) (c : FClass) (f : WbFields → WbFields) : Header := mkWb (f { type := t, cls := c, src := 0x801, dst := 0x800, addr := (mkAddr 0x800 0).toNat })
/-- A LOAD of 8 bytes to this module, a SCHED load, a STORE, and CTRL and RSP frames. -/
def reqFrame : Frame := mkFrame (wbTo 0x01 .req fun w => { w with length := 8 }) []
def schedFrame : Frame := mkFrame (wbTo 0x20 .sched fun w => { w with plen := 1, length := 8 }) (zeros 32)
def storeFrame (seq : Nat) : Frame := mkFrame (wbTo 0x02 .req fun w => { w with plen := 1, length := 8, seq := seq }) (zeros 32)
def ackFrame (f : WbFields → WbFields) : Frame := mkFrame (mkWb (f { type := 0x10, cls := .rsp, src := 0x801, dst := 0x800 })) []
def ctrlFrame : Frame := mkFrame (mkWb { type := 0x31, cls := .ctrl, src := 0x801, dst := 0x800 }) []
def strange : Frame := mkFrame (mkWb { type := 0x06, cls := .req, src := 5, dst := 3 }) []
def foreign : Frame := mkFrame (mkWb { type := 0x01, cls := .req, src := 5, dst := 3, addr := (mkAddr 3 0).toNat, length := 8 }) []

theorem wit_unobserved : Unobserved (module id) := ⟨rfl, rfl⟩

theorem wit_ingress : (let s := module id
      (s.pwr.powered = true ∧ s.pwr.node ≠ 4) ∧ 127 < 128 ∧ isTrunk s 127 = false ∧ receives s 127 = true ∧ tabGet 0 s.pwr.portState 127 ≠ 1 ∧ frameFormatOk strange.wb = false
        ∧ wbType strange.wb ≠ 0x3F ∧ wbMcast strange.wb = false
        ∧ (frameFormatOk foreign.wb = true ∧ partitionOk s foreign.wb = false) ∧ s.glb.faults.length < 1024)
    ∧ (let s := module (modRte fun r => { r with part := [(1, 0x10000), (2, 0x10000)] })
      frameFormatOk foreign.wb = true ∧ partitionOk s foreign.wb = true ∧ wbDst foreign.wb ≠ myFnid s ∧ (pathSet s (wbDst foreign.wb)).1 = [])
    ∧ (let s := module id
      frameFormatOk reqFrame.wb = true ∧ partitionOk s reqFrame.wb = true ∧ wbDst reqFrame.wb = myFnid s ∧ localPort reqFrame.wb = 64
        ∧ wbClass reqFrame.wb ≠ 1 ∧ frameGood reqFrame = true ∧ (takeCells 127 (wbClass reqFrame.wb) (frameCells reqFrame) s).1.length = frameCells reqFrame)
    ∧ (wbClass schedFrame.wb = 1 ∧ inGuard (module id) 600 = false) := by decide +kernel

def queued (p c : Nat) (f : Frame) : State → State := modSwc fun w => { w with queues := tabSet [] w.queues (pcKey p c) [⟨f, 0, 127, [0, 65536]⟩] }
def trunk63 : State → State := fun s => modPort 63 (fun p => { p with state := .traffic }) (nvMod (fun n => { n with pers := [(63, 2)] }) s)

theorem wit_egress : (let s := module fun s => queued 63 3 ctrlFrame (trunk63 s)
      (s.pwr.powered = true ∧ s.pwr.node ≠ 4) ∧ 63 < 128 ∧ sends s 63 = true ∧ isTrunk s 63 = true ∧ tabGet false s.swc.flowDue 63 = false
        ∧ (queueOf s 63 3 = [⟨ctrlFrame, 0, 127, [0, 65536]⟩] ∧ peerOff s 63 3 = false ∧ wbClass ctrlFrame.wb = 3))
    ∧ tabGet false (modSwc (fun w => { w with flowDue := [(63, true)] }) (module trunk63)).swc.flowDue 63 = true
    ∧ (let s := module (queued 127 3 ctrlFrame)
      sends s 127 = true ∧ isTrunk s 127 = false ∧ queueOf s 127 3 = [⟨ctrlFrame, 0, 127, [0, 65536]⟩])
    ∧ (let s := module (queued 64 1 schedFrame)
      queueOf s 64 1 = [⟨schedFrame, 0, 127, [0, 65536]⟩] ∧ peerOff s 64 1 = false ∧ wbClass schedFrame.wb = 1 ∧ queueOf s 64 3 = [] ∧ wbMcast schedFrame.wb = false)
    ∧ (let s := module (queued 64 2 (ackFrame id))
      queueOf s 64 2 = [⟨ackFrame id, 0, 127, [0, 65536]⟩] ∧ peerOff s 64 2 = false ∧ wbClass (ackFrame id).wb = 2 ∧ queueOf s 64 3 = [] ∧ queueOf s 64 1 = []
        ∧ (∀ d, d < 4 → tabGet 0 s.swc.deficit (pcKey 64 d) = 0)) := by decide +kernel

theorem wit_flow : (let s := module trunk63
      (s.pwr.powered = true ∧ s.pwr.node ≠ 4) ∧ 63 < 64 ∧ isTrunk s 63 = true ∧ receives s 63 = true ∧ hopGood (mkHop 0 0xF 0 0) = true ∧ hopGood 0 = false ∧ s.rte.cmapEn = false
        ∧ (wbHchk flowWb = hdrCheck flowWb ∧ bitsOf flowWb 0 224 = (0xC03F : BitVec 224))
        ∧ (let w := mkWb { type := 0x3F, cls := .ctrl, src := 1, dst := 0 }
          wbHchk w = hdrCheck w ∧ bitsOf w 0 224 ≠ (0xC03F : BitVec 224)))
    ∧ (let s := module id
      s.pool.auditEn = true ∧ s.pool.auditActive = false ∧ (∀ x ∈ s.pool.alloc, x ∈ ownedCells s)
        ∧ (∀ b, b < 48 → 65536 - (bankAlloc s b).length = tabGet 65536 s.pool.freeLen b))
    ∧ (let s := module (modPool fun p => { p with alloc := [0] })
      0 ∈ s.pool.alloc ∧ ¬ 0 ∈ ownedCells s)
    ∧ (modPool (fun p => { p with auditActive := true }) State.reset).pool.auditActive = true
    ∧ (modRte (fun r => { r with cmapEn := true }) State.reset).rte.cmapEn = true := by decide +kernel

theorem wit_memSound : MemSound State.reset :=
  ⟨⟨rfl, by decide, rfl⟩, fun _ => rfl, rfl, fun _ e h => absurd h (List.not_mem_nil (a := e))⟩

/-- The receive state of FNID 0x801 at the route engine. -/
def receiving (x : RxState) : State := module (modRte fun r => { r with rel := { r.rel with rx := [(seriesKey 0x801 0, x)] } })
def damaged : Frame := { storeFrame 0 with crc := 0 }
def aHeld : HeldFrame := ⟨storeFrame 1, 64, []⟩

theorem wit_admission : (let s := receiving { e := 2, d := 2, g := 1 }
      (s.pwr.powered = true ∧ s.pwr.node ≠ 4) ∧ 64 < 127 ∧ wbClass (storeFrame 0).wb = 0 ∧ svcQueueFull s 64 (storeFrame 0).wb = false
        ∧ wbHchk (storeFrame 0).wb = hdrCheck (storeFrame 0).wb ∧ (wbClass schedFrame.wb = 1 ∧ wbHchk schedFrame.wb = hdrCheck schedFrame.wb)
        ∧ (frameGood damaged = false ∧ wbHchk damaged.wb = hdrCheck damaged.wb)
        ∧ (frameGood (storeFrame 0) = true ∧ genOlder (seqGen (wbSeq (storeFrame 0).wb)) (rxOf s .rte (seriesKey 0x801 0)).g = true)
        ∧ (seqGen (wbSeq (storeFrame 0x100002).wb) = 1 ∧ seqCount (wbSeq (storeFrame 0x100002).wb) = 2 ∧ wbType (storeFrame 0x100002).wb = 0x02
          ∧ regionOf (addrOff (wbAddr (storeFrame 0x100002).wb)) = .stacked)
        ∧ (countPrecedes 2 (seqCount (wbSeq (storeFrame 0x100801).wb)) = true ∧ (seqCount (wbSeq (storeFrame 0x100801).wb) - 2).toNat < 2048)
        ∧ (seqCount (wbSeq (storeFrame 0x100001).wb) ≠ 2 ∧ countPrecedes 2 1 = false ∧ countPrecedes 1 2 = true))
    ∧ (rxOf (receiving { held := [aHeld] }) .rte (seriesKey 0x801 0)).held = aHeld :: [] ∧ pointOk (.ep 63) = true
    ∧ (let s := modPwr (fun p => { p with node := 3 }) (receiving {})
      (s.pwr.powered = true ∧ s.pwr.node ≠ 4) ∧ portAsleep s 64 = true ∧ portAsleep s 127 = false) := by decide +kernel

theorem wit_nothingHeld : NothingHeld (receiving { e := 2, d := 2, g := 1 }) .rte := by
  simp [NothingHeld, receiving, module, relOf, modRte, modGlb]

/-- An ISSUED context 4095 of block 63. -/
def sentFrame : Frame := mkFrame (mkWb { type := 0x01, cls := .req, src := 5, dst := 0x800, addr := (mkAddr 0x800 0).toNat, seq := 6, tag := 0xABCFFF, length := 8 }) []
def issued (o : CtxOwner) (f : Ctx → Ctx) : State := ep63 { anEp with rel := { anEp.rel with ctxs := [(4095, f { st := .issued, gen := 63, frame := sentFrame, owner := o, port := 63 })] } }
def answerOf (t : Byte) (f : WbFields → WbFields) : Frame := mkFrame (mkWb (f { type := t, cls := .rsp, src := 0x800, dst := 5, seq := 6, tag := 0xFFFFFF })) []
def nackOf (reason : Nat) : Frame := mkFrame (respWb (mkWb { type := 0x01, cls := .req, src := 5, dst := 0x800, seq := 6, tag := 0xFFFFFF }) 0x12 0 (rflagsOf reason false false 0) 0) []

theorem wit_responses : (let s := issued (.direct 9 0 0x01 1023) id
      (s.pwr.powered = true ∧ s.pwr.node ≠ 4) ∧ pointOk (.ep 63) = true ∧ (frameGood (answerOf 0x10 id) = true ∧ wbType (answerOf 0x10 id).wb = 0x10)
        ∧ wbType (answerOf 0x11 fun w => { w with plen := 1, length := 8 }).wb = 0x11
        ∧ matchTag s (.ep 63) (answerOf 0x10 fun w => { w with tag := 0 }).wb = none
        ∧ matchTag s (.ep 63) (answerOf 0x10 id).wb = some 4095 ∧ (ctxOf s (.ep 63) 4095).st = .issued ∧ (ctxOf s (.ep 63) 4095).owner = .direct 9 0 0x01 1023
        ∧ (ctxOf s (.ep 63) 4095).silent = false ∧ (∀ e ∈ (epOf s 63).rel.ctxs, e.1 = 4095) ∧ (epOf s 63).offRspRx = false ∧ (epOf s 63).rspWait = [] ∧ (epOf s 63).refusals = []
        ∧ (epOf s 63).attach ≠ .down ∧ (portOf s 63).quiet = false ∧ (ctxOf s (.ep 63) 4095).attempt < retxMax (relOf s (.ep 63)).retxCfg)
    ∧ (∀ r, r ∈ [1, 2, 4, 5] → frameGood (nackOf r) = true ∧ matchTag (issued .other id) (.ep 63) (nackOf r).wb = some 4095 ∧ wbType (nackOf r).wb = 0x12
      ∧ rspBySeq (nackOf r).wb = false ∧ rspReason (nackOf r).wb = r) := by decide +kernel

def pending (w : SealWait) (x : RxState) : State := ep63 { anEp with rel := { anEp.rel with
  series := [(seriesKey 0x801 0, { gen := 2, sealing := some w })], rx := [(seriesKey 0x801 0, x)] } }
def cairnFrame (kind gen : Nat) : Frame := mkFrame (mkWb { type := 0x32, cls := .ctrl, src := 0x801, dst := 5, addr := kind + gen * 2 ^ 16 }) []
def sealedFrame : Frame := mkFrame (mkWb { type := 0x32, cls := .ctrl, plen := 1, src := 0x801, dst := 5, addr := 2 + 2 * 2 ^ 16 }) (zeros 32)

theorem wit_timers : (let s := issued .other fun c => { c with attempt := 15 }
      (s.pwr.powered = true ∧ s.pwr.node ≠ 4) ∧ pointOk (.ep 63) = true ∧ 4095 < 4096 ∧ (ctxOf s (.ep 63) 4095).st = .issued ∧ (ctxOf s (.ep 63) 4095).atExpiry = false
        ∧ retxMax (relOf s (.ep 63)).retxCfg ≤ (ctxOf s (.ep 63) 4095).attempt ∧ (ctxOf s (.ep 63) 4095).owner = .other
        ∧ (∀ e ∈ (relOf s (.ep 63)).ctxs, e.1 = 4095) ∧ (epOf s 63).faults.length < 64)
    ∧ (let s := ep63 { anEp with rel := { anEp.rel with dedup := [(dedupKey 0x801 0 6, some { done := true, status := 0, isData := false, long := false, result := [] })] } }
      (tabGet none (relOf s (.ep 63)).dedup (dedupKey 0x801 (kindCode .ordered) 6)).isSome = true)
    ∧ (let s := pending ⟨2, 0⟩ {}
      (tabGet {} (relOf s (.ep 63)).series (seriesKey 0x801 (kindCode .ordered))).sealing = some ⟨2, 0⟩ ∧ 0 ≤ retxMax (relOf s (.ep 63)).retxCfg
        ∧ retxMax (relOf s (.ep 63)).retxCfg < 16
        ∧ (sealedPick sealedFrame.wb = true ∧ frameGood sealedFrame = true ∧ wbSrc sealedFrame.wb = 0x801 ∧ cairnSkind sealedFrame.wb = 0 ∧ wbPlen sealedFrame.wb = 1
          ∧ cairnGen sealedFrame.wb = 2))
    ∧ (let x := rxOf (pending ⟨2, 16⟩ { g := 2, sealed := some (cairnFrame 1 2).wb, unanswered := [0x200003] }) (.ep 63) (seriesKey 0x801 0)
      x.sealed = some (cairnFrame 1 2).wb ∧ (x.unanswered = [0x200003] ∧ seqGen 0x200003 = x.g)
        ∧ (sealPick (cairnFrame 1 1).wb = true ∧ frameGood (cairnFrame 1 1) = true ∧ cairnKind (cairnFrame 1 1).wb = 1 ∧ wbPlen (cairnFrame 1 1).wb = 0)
        ∧ genOlder (cairnGen (cairnFrame 1 1).wb) x.g = true ∧ genNewer (cairnGen (cairnFrame 1 3).wb) x.g = true ∧ pointAt 63 = .ep 63) := by decide +kernel

/-! ## Witnesses: memory, tallies, membership -/

/-- 8 bytes of the first line of channel 383. -/
def acc (op : MemOp) : MemAcc := { op := op, off := BitVec.ofNat 52 (383 * 256), len := 8, subop := 0, dtype := if op = .load ∨ op = .store then 0 else 2, data := zeros 16, sched := false, back := .nowhere }
def sleeping : State := modStack 23 (fun y => { y with state := .selfRefresh }) State.reset
/-- The line of the access stands dirty in the combining buffer, poisoned or not. -/
def combining (p : Bool) : State := modChan 383 (fun ch => { ch with comb := [{ line := 383 * 4, data := 1, dirty := true, poison := p }] }) State.reset

theorem wit_access : (State.reset.pwr.powered = true ∧ State.reset.pwr.node ≠ 4) ∧ 383 < 384 ∧ accAt (acc .load) 383 = true ∧ chanAsleep sleeping 383 = true
    ∧ (chanAsleep State.reset 383 = false ∧ State.reset.mem.tenantBusy = false ∧ (chanOf State.reset 383).comb.length ≤ 28 ∧ (chanOf State.reset 383).queue = [])
    ∧ (chanOf (modChan 383 (fun ch => { ch with queue := [acc .load, acc .store] }) State.reset) 383).queue = acc .load :: [acc .store]
    ∧ (modMem (fun m => { m with tenantBusy := true }) State.reset).mem.tenantBusy = true
    ∧ (let a := { acc .store with poison := [0] }
      accOk a = true ∧ ∀ k ∈ a.poison, a.off.toNat / 64 + k ∈ linesOf a.off.toNat a.len)
    ∧ accOk { acc .load with len := 0 } = false
    ∧ (∀ op, op ∈ [MemOp.load, .store, .reduce, .atomic] → (accOk (acc op) && accAt (acc op) 383 && !backVary (acc op).back) = true)
    ∧ linesOf (acc .load).off.toNat 8 = [383 * 4] ∧ (lineNow State.reset (383 * 4)).2 = false
    ∧ (lineNow (combining true) (383 * 4)).2 = true ∧ State.reset.glb.faults.length < 1023
    ∧ (∀ l, l ∈ linesOf (acc .load).off.toNat 8 → tabGet 0 State.reset.mem.errs l = 0)
    ∧ ((acc .load).op = .load ∧ combFind (chanOf State.reset 383) (383 * 4) = none ∧ State.reset.mem.poison.contains (383 * 4) = false) := by decide +kernel

theorem wit_writeback : lineChan (383 * 4) = 383 ∧ combFind (chanOf (combining false) 383) (383 * 4) = some { line := 383 * 4, data := 1, dirty := true, poison := false }
    ∧ (State.reset.mem.scrubEn = true ∧ chanAsleep State.reset 383 = false ∧ (chanOf State.reset 383).scrubPtr.toNat + 1 < channelLines)
    ∧ (let l := offOfLocal 383 ((chanOf State.reset 383).scrubPtr.toNat * 64) / 64
      lineChan l = 383 ∧ combFind (chanOf State.reset 383) l = none ∧ State.reset.mem.poison.contains l = false ∧ tabGet 0 State.reset.mem.errs l = 0
        ∧ (chanOf State.reset 383).comb.length < 32) := by decide +kernel

def tacc (op : MemOp) (o : Nat) : TlyAcc :=
  { op := op, off := BitVec.ofNat 24 (65535 * 256 + o), len := 8, subop := 0, dtype := if op = .load ∨ op = .store then 0 else 2, data := zeros 16, src := 5, back := .nowhere }

theorem wit_tally : (State.reset.pwr.powered = true ∧ State.reset.pwr.node ≠ 4) ∧ State.reset.tly.notifyQ = [] ∧ State.reset.mem.tenantBusy = false
    ∧ ((tacc .load 24).off.toNat % 256 < 32 ∧ tallyAccOk (tacc .load 24) = true ∧ 32 ≤ (tacc .load 32).off.toNat % 256 ∧ tallyAccOk (tacc .load 4) = false)
    ∧ (tallyAccOk (tacc .store 8) = true ∧ tallyAccOk (tacc .reduce 0) = true ∧ tallyAccOk (tacc .atomic 0) = true ∧ (tacc .atomic 0).op ≠ .load)
    ∧ (tallyWrite (tacc .reduce 0) { thresh := 1 }).count < (tallyWrite (tacc .reduce 0) { thresh := 1 }).thresh := by decide +kernel

/-- A leaf or a spine of two leaves. -/
def inStage (role : Nat) (f : State → State) : State := module fun s => f (nvMod (fun n => { n with topology := BitVec.ofNat 32 (role * 2 ^ 30 + 2 ^ 16) }) s)
def mFrame (kind : Nat) : Frame := memberFrame (inStage 2 id) 0x802 0x800 kind 0 5 1 (if kind = mkReach then zeros 32 else [])

theorem wit_members : (let s := inStage 1 id
      (s.pwr.powered = true ∧ s.pwr.node ≠ 4) ∧ 127 < 128 ∧ isLeaf s = true ∧ isSpine s = false ∧ tabGet none s.rte.reachOf (mbSpine s (mFrame mkReach).wb) = none
        ∧ tabGet none s.rte.origins (mbSubject (mFrame mkAttach).wb).toNat = none)
    ∧ (∀ k, k ∈ [0, mkReach, mkAttach, mkDetach, mkLeaving, 5] → wbType (mFrame k).wb = 0x31 ∧ frameGood (mFrame k) = true ∧ mbKind (mFrame k).wb = k)
    ∧ (let s := inStage 1 (modRte fun r => { r with reachOf := [(0, some (0, 0))] })
      tabGet none s.rte.reachOf (mbSpine s (mFrame mkReach).wb) = some (0, 0) ∧ BitVec.ofNat 32 (fieldNat (mFrame mkReach).payload 8 4) = 0)
    ∧ isSpine (inStage 2 id) = true
    ∧ (let s := inStage 1 (fun s => modEp 31 (fun _ => { anEp with incarn := 1 }) (nvMod (fun n => { n with pers := [(31, 1)] }) s))
      31 < 64 ∧ isEdge s 31 = true ∧ (epOf s 31).incarn ≠ 0 ∧ (epOf s 31).srcFnid.toNat < 0x800 ∧ 0x802 ∈ spineFnids s)
    ∧ (let s := inStage 1 fun s => modGlb (fun g => { g with drainReq := true }) (modPort 63 (fun p => { p with state := .traffic, peerFnid := 0x802 }) (nvMod (fun n => { n with pers := [(63, 2)] }) s))
      s.glb.drainReq = true ∧ trunkUsable s 63 = true ∧ trunkPeer s 63 = some 0x802) := by decide +kernel

/-- ANNO 0 is newer than 0xFFFF_FFFF, which a spine's reach had. -/
theorem wit_newerReach : let s := inStage 1 (modRte fun r => { r with reachOf := [(0, some (0, 0xFFFFFFFF))] })
    tabGet none s.rte.reachOf 0 = some (0, 0xFFFFFFFF) ∧ 1 ≤ ((0 : W32) - 0xFFFFFFFF).toNat ∧ ((0 : W32) - 0xFFFFFFFF).toNat < 2 ^ 31 := by decide +kernel

/-- The origin that an ATTACH gives is held already, or another INCARN of it. -/
def originated (x : Origin) : State := inStage 1 (modRte fun r => { r with origins := [((mbSubject (mFrame mkAttach).wb).toNat, some x)] })

theorem wit_origins (n : W32) : let o := mbOrigin (inStage 1 id) (mFrame mkAttach).wb true
    mbOrigin (originated { o with incarn := n }) (mFrame mkAttach).wb true = o
      ∧ tabGet none (originated { o with incarn := n }).rte.origins (mbSubject (mFrame mkAttach).wb).toNat = some { o with incarn := n } :=
  ⟨rfl, by simp [originated, inStage, module, modRte, tabGet, nvMod, modGlb]⟩

/-- An encode or a rebuild of entry 7 with a RELAY region, at rank 9; the relay's block and the roster's host 0 are READY. -/
def shardOp (o : EcOp) : State := modEp 0 (fun _ => readyEp) (modEp 63 (fun _ => readyEp)
  (modMem (fun m => { m with ecEntries := [(7, relayed 9)], ecOp := some o }) (modGlb (fun g => { g with viewWords := [(0, 0x801FF)] }) State.reset)))

theorem wit_shardOps : (let s := modGlb (fun g => { g with membEn := true }) State.reset
      (s.pwr.powered = true ∧ s.pwr.node ≠ 4) ∧ s.glb.membEn = true ∧ ecGroups s = [] ∧ s.mem.ecOp = none ∧ s.glb.missed + 1 < missLimit s)
    ∧ (let s := modGlb (fun g => { g with membEn := true, membMiss := 1, rosterCfg := [(1, 0x80000000)] }) State.reset
      missLimit s ≤ s.glb.missed + 1 ∧ rosterEn s 1 = true ∧ s.glb.faults.length < 1023)
    ∧ (let s := modEp 0 (fun _ => readyEp) (modGlb (fun g => { g with membEn := true, rosterCfg := [(0, 0x80000000)] }) State.reset)
      rosterEn s 0 = true ∧ rosterEn s 1 = false ∧ rosterPort (tabGet 0 s.glb.rosterCfg 0) = 0 ∧ (epOf s 0).attach = .ready ∧ ecGroups s = [])
    ∧ (let o : EcOp := { rebuild := true, entry := 7, rank := 9, vepoch := 0 }
      let s := shardOp o
      let x : RelayStrip := { slot := 3, sender := 7, stripe := 0, data := zeros 65536 }
      s.mem.ecOp = some o ∧ o.entry < 8 ∧ ecRelay (ecEntryOf s 7) = true ∧ slotReady (BitVec.ofNat 512 ((2 * 2 ^ 62 + 7 * 2 ^ 58) * 2 ^ 192)) x = true
        ∧ x.stripe < ecStripes (ecEntryOf s 7) ∧ x.sender ∈ stripSenders s o x.stripe ∧ ecRelayPort (ecEntryOf s 7) = 63 ∧ (epOf s 63).attach = .ready ∧ ecOnPlane s (ecEntryOf s 7) x.sender = false
        ∧ o.written = x.stripe ∧ ecReady s o = false
        ∧ (∃ r ∈ stripSenders s o x.stripe, r ≠ x.sender ∧ r < 16 ∧ x.sender < 16 ∧ ecOnPlane s (ecEntryOf s 7) r = false ∧ stripIn s x.stripe r = none)
        ∧ ecMyRank (ecEntryOf s 7) = o.rank ∧ 2 ^ ecLog (ecEntryOf s 7) = 65536 ∧ s.glb.faults.length < 1024) := by decide +kernel

theorem wit_shardEnds : (let o : EcOp := { rebuild := true, entry := 7, rank := 9, vepoch := 0 }
      let s := modEp 63 (fun _ => {}) (shardOp o)
      ecRelay (ecEntryOf s 7) = true ∧ (epOf s (ecRelayPort (ecEntryOf s 7))).attach ≠ .ready)
    ∧ (∀ b, b ∈ [true, false] → let o : EcOp := { rebuild := b, entry := 7, rank := 9, vepoch := 0, sendAt := 1, written := 1 }
      let s := shardOp o
      ecReady s o = true ∧ o.written = ecStripes (ecEntryOf s 7) ∧ ecMyRank (ecEntryOf s 7) = o.rank ∧ (epOf s (rosterPort (tabGet 0 s.glb.rosterCfg 0))).attach = .ready)
    ∧ (EcEnd.transport = .transport ∧ CasEnd.won = .won) := by decide +kernel

theorem wit_shardRoom : let s := shardOp { rebuild := true, entry := 7, rank := 9, vepoch := 0 }
    DlvRoom s 63 0 ∧ DlvRoom s 0 0 := by unfold DlvRoom; decide +kernel

theorem wit_strip : (zeros 65536).length = 65536 := List.length_replicate

/-! ## Witnesses: collectives -/

/-- A COL_CHUNK frame of instance (2047, 3). -/
def colFrame (ck ord : Nat) (payload : List Byte) : Frame :=
  mkFrame (mkWb { type := 0x21, cls := .sched, plen := payload.length / 32, src := if ck = ckUp then 5 else 0x800, dst := 0x800
                  addr := (mkAddr 0x800 (ck * 2 ^ 48 + 2047 * 2 ^ 32 + 3 * 2 ^ 24 + ord)).toNat, length := payload.length }) payload
def colSlot : ColSlot := { colId := 2047, epoch := 3, state := .live }
/-- Slot 2047 as given; group 0 is FNID 5, at port 63. -/
def inCol (x : ColSlot) (s : State) : State := modRte (fun r => { r with dest := [(5, BitVec.ofNat 32 (2 ^ 31 + 63))] })
  (modCol (fun c => { c with
    slots := [(2047, x)], groups := [(0, BitVec.ofNat 64 (2 ^ 63))], members := [(0, 5)],
    grpLocal := [(0, [(0, 63)])], grpLeaves := [(0, [1])] }) s)
def aChunk : Chunk := { ordinal := 1, entry := 0 }
def phdr : BitVec 256 := 1

theorem wit_chunks : (let s := module (inCol { colSlot with chunks := [aChunk], first := some barrier, bound := [{ binder := .ep 63 0, rank := 0, raw := barrier }] })
      (s.pwr.powered = true ∧ s.pwr.node ≠ 4) ∧ 127 < 128 ∧ (∀ ck, ck ∈ [ckUp, ckPart, ckDown, ckXchg, ckAck, ckFault, ckAbort, ckAbortAck] →
          fCkind (colFrame ck 1 []).wb = ck ∧ frameHeld s (colFrame ck 1 []).wb = true ∧ frameHeld State.reset (colFrame ck 1 []).wb = false)
        ∧ wbVary (colFrame ckUp 1 []).wb = false ∧ wbMcast (colFrame ckUp 1 []).wb = false ∧ colSlotOf (fColId (colFrame ckUp 1 []).wb) = 2047
        ∧ (slotOf s 2047).state = .live ∧ fOrd (colFrame ckUp 1 []).wb = 1 ∧ chunkAt (slotOf s 2047) 1 = some aChunk
        ∧ upRank s (slotOf s 2047) (colFrame ckUp 1 []).wb = some 0 ∧ inTurn s (slotOf s 2047) aChunk 0 = true ∧ (slotOf s 2047).first = some barrier
        ∧ epRank (slotOf s 2047) 63 = some 0)
    ∧ (let s := module (inCol { colSlot with cursor := 2 })
      chunkAt (slotOf s 2047) (ordinalOfChunk (slotOf s 2047).map (planeIdx s) (fOrd (colFrame ckXchg 0 []).wb)) = none
        ∧ ordinalOfChunk (slotOf s 2047).map (planeIdx s) (fOrd (colFrame ckXchg 0 []).wb) < (slotOf s 2047).cursor ∧ (slotOf s 2047).state ≠ .aborted)
    ∧ (let s := inStage 2 (inCol { colSlot with chunks := [{ aChunk with hdr := some phdr, downSent := true, leaves := [1] }] })
      (chunkAt (slotOf s 2047) 1).isSome = true ∧ (∀ l ∈ memberLeaves s (phGroup phdr), l ∈ [1] ∨ l = slotLeaf (colFrame ckAck 1 []).wb)
        ∧ isSpine s = true ∧ (slotOf s 2047).bound = [])
    ∧ (let s := inStage 2 (inCol { colSlot with state := .complete })
      (slotOf s 2047).state ≠ .live ∧ (slotOf s 2047).state ≠ .aborted ∧ (slotOf s 2047).bound = [] ∧ frameHeld s (colFrame ckAbort 1 []).wb = true)
    ∧ (let s := inStage 2 (inCol { colSlot with state := .aborted })
      (slotOf s 2047).state = .aborted ∧ frameHeld s (colFrame ckAbort 1 []).wb = true) := by decide +kernel

/-- A frame of an exchange for rank 0, which a ring of block 63 binds. -/
def xchgFrame : Frame := colFrame ckXchg 1 (zeros 32)
def exchanging (e : Ep) : State := module fun s => modEp 63 (fun _ => e) (inCol { colSlot with
  chunks := [aChunk], first := some barrier, bound := [{ binder := .ep 63 0, rank := 0, raw := barrier }] } s)

theorem wit_xchg : (let s := exchanging readyEp
      let x := slotOf s 2047
      let d := barrier
      let n := grpSize (grpOf s (cGroup d))
      let dst := (receivers d n (fOrd xchgFrame.wb)).headD 0
      fCkind xchgFrame.wb = ckXchg ∧ wbVary xchgFrame.wb = false ∧ frameHeld s xchgFrame.wb = true ∧ chunkAt x (ordinalOfChunk x.map (planeIdx s) (fOrd xchgFrame.wb)) = some aChunk ∧ x.first = some d
        ∧ memberAt x dst = some { binder := .ep 63 0, rank := 0, raw := barrier } ∧ aChunk.got.contains (dst, 0) = false
        ∧ granCuts (cRecv d + recvOff d n dst (chunkOfOrdinal x.map (planeIdx s) 1) + 0 * 256) 3 (xchgFrame.payload.take (wbLength xchgFrame.wb)) ≠ []
        ∧ (epOf s 63).attach = .ready)
    ∧ (epOf (exchanging {}) 63).attach ≠ .ready := by decide +kernel

def anAbort (n : Nat) : OldAbort := { slot := 2047, peer := 5, colId := 2047, epoch := 2, redop := 0, dtype := 0, sends := n }

/-- A spine in an occurrence of the instance, whose group has a member on leaf 1. -/
def occurring : State := inStage 2 fun s => modCol (fun c => { c with members := [(0, 0x1801)] }) (inCol { colSlot with cursor := 2, released := [(0, 0)] }
  (modTick (fun t => { t with state := .master, active := [BitVec.ofNat 128 (2 * 2 ^ 124 + 2047 * 2 ^ 44 + 3 * 2 ^ 36 + 255 * 2 ^ 28)] }) s))
def partFrame : Frame := colFrame ckPart 1 (bvBytes phdr ++ zeros 32)

theorem wit_part : let s := occurring
    fCkind partFrame.wb = ckPart ∧ (slotOf s 2047).state = .live ∧ isSpine s = true ∧ ordEntry (slotOf s 2047) (fOrd partFrame.wb) = some 0
    ∧ chunkAt (slotOf s 2047) (fOrd partFrame.wb) = none ∧ (slotOf s 2047).next ≤ fOrd partFrame.wb ∧ (slotOf s 2047).unproved = [] ∧ partReady s partFrame = true
    ∧ (partLeaves s (partHdrOf partFrame) (slotLeaf partFrame.wb)).any (fun l => decide (l ≠ slotLeaf partFrame.wb)) = true
    ∧ (∃ x, entryNow s 0 = some x ∧ entKind x = kindCol ∧ ¬ 0 ∈ s.tick.started ∧ mayStart s = true ∧ colSlotOf (entColId x) = 2047
      ∧ slotHolds (slotOf s 2047) (entColId x) (entEpoch x) = true ∧ (slotOf s 2047).first = none) :=
  ⟨by decide +kernel, by decide +kernel, by decide +kernel, by decide +kernel, by decide +kernel, by decide +kernel, by decide +kernel,
    by decide +kernel, by decide +kernel, _, rfl, by decide +kernel⟩

theorem wit_aborts : (let s := module (inCol { colSlot with state := .aborted, aborts := [(5, 1), (6, 16)] })
      (s.pwr.powered = true ∧ s.pwr.node ≠ 4) ∧ 2047 < 2048 ∧ 0 < tabGet 0 (slotOf s 2047).aborts 5 ∧ tabGet 0 (slotOf s 2047).aborts 5 ≤ retxMax s.rte.rel.retxCfg
        ∧ retxMax s.rte.rel.retxCfg < tabGet 0 (slotOf s 2047).aborts 6 ∧ s.col.oldAborts = [])
    ∧ (∀ n, n ∈ [5, 6] → let s := module fun s => modCol (fun c => { c with oldAborts := [anAbort n] }) (inCol colSlot s)
      (s.col.oldAborts.filter fun o => decide (o.slot = 2047) && decide (o.peer = 5)) = [anAbort n] ∧ tabGet 0 (slotOf s 2047).aborts 5 = 0
        ∧ (n = 5 → n ≤ retxMax s.rte.rel.retxCfg) ∧ (n = 6 → retxMax s.rte.rel.retxCfg < n))
    ∧ (let c : Chunk := { aChunk with downSent := true, down := zeros 256 }
      let s := module (inCol { colSlot with chunks := [c], first := some barrier })
      chunkAt (slotOf s 2047) 1 = some c ∧ c.downSent = true ∧ c.downTo = none ∧ entryOver s c.entry = false ∧ singleStage s = true ∧ (slotOf s 2047).first = some barrier
        ∧ 0 < c.down.length ∧ c.down.length ≤ 256)
    ∧ (let m : Member := { binder := .ep 63 255, rank := 0, raw := barrier }
      let s := modCol (fun c => { c with held := [m] }) (ring63 active (fun e => { e with descs := [(255, some (aDesc barrier))] }))
      (s.col.held.find? fun m => decide (m.binder = .ep 63 255)) = some m ∧ descOf s 63 255 = some (aDesc barrier)) := by decide +kernel

/-! ## Witnesses: compute arrays, services, the block -/

/-- A program that may run in a tick, with a stream of one access, of a KIND; a READ. -/
def progOf (kind : Nat) : Prog := { hdr := BitVec.ofNat 512 (2 ^ 50), phases := [], streams := [BitVec.ofNat 256 (kind + 2 ^ 64)], convs := [] }
def prog1 : Prog := progOf 1
def arr863 (a : Arr) : State := modArray 863 (fun _ => a)
  (modTick (fun t => { t with state := .master, active := [BitVec.ofNat 128 (3 * 2 ^ 124 + 863 * 2 ^ 50)] }) State.reset)
def aRun : Run := { prog := 0, service := false }

theorem wit_runs : (let s := arr863 { dir := [prog1] }
      (s.pwr.powered = true ∧ s.pwr.node ≠ 4) ∧ entryNow s 0 = some (BitVec.ofNat 128 (3 * 2 ^ 124 + 863 * 2 ^ 50)) ∧ entArray (BitVec.ofNat 128 (3 * 2 ^ 124 + 863 * 2 ^ 50)) = 863
        ∧ ¬ 0 ∈ s.tick.started ∧ mayStart s = true ∧ startCause s 863 0 = 0 ∧ s.glb.faults.length < 512)
    ∧ residentProg (arrOf (arr863 {}) 863) 0 = none
    ∧ (let s := arr863 { dir := [prog1], run := some aRun }
      startCause s 863 0 ≠ 0 ∧ residentProg (arrOf s 863) 0 = some prog1 ∧ 863 < 864 ∧ (arrOf s 863).run = some aRun ∧ aRun.halted = false
        ∧ mayIssue s 863 0 prog1 aRun = true ∧ stKind (prog1.streams.getD 0 0) = 1 ∧ aRun.service = false ∧ appliedLevel s = 0
        ∧ mayIssue (modPwr (fun p => { p with thermLevel := 19 }) s) 863 0 prog1 aRun = true
        ∧ callWaits s 863 = false ∧ stepOn s 863 = false)
    ∧ (∀ k, k ∈ [1, 2, 3, 4, 5] → let s := arr863 { dir := [progOf k], run := some aRun }
      residentProg (arrOf s 863) 0 = some (progOf k) ∧ (arrOf s 863).run = some aRun ∧ mayIssue s 863 0 (progOf k) aRun = true ∧ stKind ((progOf k).streams.getD 0 0) = k)
    ∧ (let s := arr863 { dir := [prog1], run := some { aRun with service := true } }
      mayIssue s 863 0 prog1 { aRun with service := true } = true)
    ∧ appliedLevel (modPwr (fun p => { p with thermLevel := 19 }) State.reset) ≠ 0
    ∧ runQuiet prog1 { aRun with halted := true } = true ∧ runQuiet prog1 { aRun with next := [(0, 1)] } = true
    ∧ ((arrOf State.reset 863).run = none ∧ State.reset.svc.running = [] ∧ ∀ k, k < 16 → eKind (svcEntry State.reset k) = 0) := by decide +kernel

/-- A call of service 15 with the header's fields, as (byte, value), and inline bytes. -/
def call (fields : List (Nat × Nat)) (inline : List Byte) : SvcCallIn :=
  { svc := 15, payload := leBytes 32 ((fields.map fun f => f.2 * 2 ^ (8 * f.1)).sum) ++ inline, back := .nowhere }
/-- The pool as service 15, with slot 0 as given. -/
def pooling (x : PoolSlot) : State := poolState (modSvcN 15 fun v => { v with state := .active, entry := pool, slots := [(0, x)] })
def key9 : PoolSlot := { state := .committed, gen := 1, key := 9 }
def open9 : PoolSlot := { state := .openPut, gen := 1, key := 9 }

theorem wit_pool : (let s := pooling key9
      (s.pwr.powered = true ∧ s.pwr.node ≠ 4) ∧ (svcOf s 15).state = .active ∧ keySlot s 15 9 = some 0 ∧ keySlot s 15 8 = none ∧ handleSlot s 15 0x1000000 = some 0
        ∧ handleSlot s 15 0x2000000 = none ∧ (poolSlot s 15 0).state = .committed ∧ blockSize s 15 = 256
        ∧ (linesOf (slotAddr s 15 0) 256).all (fun l => !(lineNow s l).2 && decide (tabGet 0 s.mem.errs l = 0) && (chanOf s (lineChan l)).comb.isEmpty) = true
        ∧ (∀ c, c ∈ [call [(0, sopGet), (8, 9)] [], call [(0, sopRead), (2, 256), (16, 0x1000000)] [], call [(0, sopPut), (8, 9)] [], call [(0, sopDelete), (8, 9)] [],
            call [(0, sopPooled), (2, 32), (20, 4)] (leBytes 8 9 ++ zeros 184)] →
          (callRefused c s).isNone = true ∧ (cSop c.payload = sopPooled ∨ fieldsOk c.payload = true)))
    ∧ (cKey (call [(0, sopGet), (8, 9)] []).payload = 9 ∧ readFields (call [(0, sopRead), (2, 256), (16, 0x1000000)] []).payload = true
      ∧ cHandle (call [(0, sopRead), (2, 256), (16, 0x1000000)] []).payload = 0x1000000 ∧ cFlags (call [(0, sopPut), (8, 9)] []).payload / 2 % 2 = 0)
    ∧ (let p := (call [(0, sopPooled), (2, 32), (20, 4)] (leBytes 8 9 ++ zeros 184)).payload
      readFields p = true ∧ cOdtype p = 4 ∧ pooledList p = [(9, 0)] ∧ cBoff p / elemSize 4 + cDlen p / elemSize 4 ≤ blockSize (pooling key9) 15 / elemSize (eRdtype (svcEntry (pooling key9) 15)))
    ∧ (keySlot (pooling {}) 15 9 = none ∧ firstFreeSlot (svcOf (pooling {}) 15).slots (eBlocks (svcEntry (pooling {}) 15)) 0 = some 0)
    ∧ (let s := pooling open9
      let p := (call [(0, sopPutData), (2, 224), (16, 0x1000000)] (zeros 224)).payload
      openSlot s 15 p = .inl 0 ∧ (callRefused (call [(0, sopPutData), (2, 224), (16, 0x1000000)] (zeros 224)) s).isNone = true ∧ cDlen p = 224 ∧ cBoff p % 32 = 0 ∧ fieldsOk p = true
        ∧ cBoff p + cDlen p ≤ blockSize s 15 ∧ (poolSlot s 15 0).sawCommit = false ∧ keySlot s 15 (poolSlot s 15 0).key ≠ some 0
        ∧ (∀ c, c ∈ [call [(0, sopCommit), (16, 0x1000000)] [], call [(0, sopAbort), (16, 0x1000000)] []] → (callRefused c s).isNone = true ∧ openSlot s 15 c.payload = .inl 0)
        ∧ 15 < 16 ∧ svcKind s 15 = 1 ∧ (poolSlot s 15 0).state = .openPut) := by decide +kernel

/-- An optimizer service on array 0 of group 0. -/
def optimizer (v : Svc) : State := modArray 0 (fun a => { a with dir := [{ prog0 with hdr := BitVec.ofNat 512 (2 ^ 49) }] }) (modArr (fun w => { w with map := 1 })
  (modSvcN 15 (fun _ => { v with entry := BitVec.ofNat 512 (2 + 2 ^ 64) }) State.reset))
def optCall : SvcCallIn := call [(0, sopOpt)] []

theorem wit_calls : (let s := modSvc (fun u => { u with queue := [optCall] }) (optimizer { state := .active })
      (s.pwr.powered = true ∧ s.pwr.node ≠ 4) ∧ s.svc.queue = optCall :: [] ∧ s.svc.running = [] ∧ callRefused optCall s = none ∧ stepWaits s optCall.svc = false ∧ freeArray s optCall.svc = some 0 ∧ 15 < 16 ∧ optCall.svc = 15
        ∧ (svcOf s 15).state = .active ∧ cSop optCall.payload = sopOpt ∧ fieldsOk optCall.payload = true ∧ (svcOf s 15).stepRunning = false ∧ svcKind s 15 = 2)
    ∧ (let s := modSvc (fun u => { u with running := [(optCall, none)] }) (optimizer { state := .active })
      lostCall s = some (optCall, 0))
    ∧ (∀ b, b ∈ [true, false] → let s := optimizer { state := .active, stepRunning := true, stepPending := b }
      callRefused optCall s = none ∧ (svcOf s 15).stepRunning = true ∧ (svcOf s 15).stepPending = b)
    ∧ (let s := modArray 0 (fun a => { a with run := none }) (optimizer { state := .active, stepRunning := true, stepArray := some 0 })
      (svcOf s 15).stepArray = some 0 ∧ stepRunQuiet s 0 = true)
    ∧ (svcOf (optimizer { state := .draining }) 15).state ≠ .active := by decide +kernel

theorem wit_steps : (svcOf (stepRun 15 (optimizer { state := .active, stepRunning := true })) 15).stepPending = false
    ∧ (svcOf (stepRun 15 (optimizer { state := .active, stepRunning := true, stepPending := true })) 15).stepPending = true := by decide +kernel

theorem wit_poolServes : MemServes (pooling key9) := ⟨rfl, show (0 : BitVec 3).toNat < 3 by decide, rfl⟩

theorem wit_poolData : (dieWrite (slotAddr (pooling open9) 15 0) (zeros 224) (pooling open9)).1 = false
    ∧ (dieWrite (slotAddr (pooling open9) 15 0) (zeros 224) (modMem (fun m => { m with poison := [3] }) (pooling open9))).1 = true
    ∧ (pooledRows 15 0 32 [(0, 0)] (pooling key9)).1.2 = false := by decide +kernel

/-- A module in RESET without accesses shuts down; one whose regulators are off answers a command with the same state. -/
theorem wit_input : ((State.reset.pwr.powered = true ∧ State.reset.pwr.node ≠ 4) ∧ State.reset.mem.channels = [] ∧ (∀ n, n < 64 → (portOf State.reset n).state ≠ .traffic) ∧ State.reset.glb.faults.length < 1024)
    ∧ (let s := modPwr (fun p => { p with powered := false }) State.reset
      s.pwr.powered = false ∧ exec .tickBoundary s = .next s) := ⟨by decide +kernel, rfl, rfl⟩

theorem wit_inv : Inv { State.reset with pending := [.tickBoundary, .testAccessInstruction 0x3FF] }
    ∧ mapOk State.reset.fuses.map = true ∧ Instr.answered (.arrayRunEnd 863) = true := ⟨⟨by decide +kernel, by decide +kernel⟩, by decide +kernel⟩

theorem wit_numbers : ctxHead (relOf State.reset (.ep 63)) = some 0 ∧ (3 < 4 ∧ (2 ^ 64 - 1 < 2 ^ (8 * elemSize 3))) ∧ (2 ^ 32 - 1 < 2 ^ (8 * elemSize 0)) := by decide +kernel

/-! ## Ill-formed commands: one for each check, at the first number that no unit has, and refused by name -/

/-- Each check's bound: the last unit's command is well formed and the next is not. -/
def wfEdge (c : Nat → Instr) (last : Nat) : Bool := (c last).wf && !(c (last + 1)).wf

theorem test_wf : wfEdge .steeringPass 63 = true ∧ wfEdge (.frameEgress · 0) 127 = true ∧ wfEdge (.frameAdmit · (.given strange) false) 126 = true
    ∧ wfEdge (.rteTrunkEnWrite 0 · 0) 1 = true ∧ wfEdge (.poolClassCfgWrite 0 · 0) 3 = true ∧ wfEdge (.dlvTimeout 0 ·) 4095 = true
    ∧ wfEdge (.rteDestWrite 0 · 0) 2047 = true ∧ wfEdge (.scrubLag ·) 383 = true ∧ wfEdge (.stackTempSample · 0) 23 = true
    ∧ wfEdge (.arrayRunEnd ·) 863 = true ∧ wfEdge (.svcStarve ·) 15 = true ∧ wfEdge (.syncSend · 0) 0x41 = true
    ∧ wfEdge (fun n => .contextGrant (.ep n)) 63 = true ∧ (Instr.contextGrant .rte).wf = true := by decide

theorem test_wf_more : wfEdge (.colMemberWrite 0 · 0) 32767 = true ∧ wfEdge (.groupP2Entry · 0) 11 = true ∧ wfEdge (.relayPoll · 0 []) 7 = true
    ∧ wfEdge (fun k => .markerLockLoss 63 ⟨k, .marker⟩) 3 = true ∧ wfEdge (fun l => .fecUncorrectable ⟨l, 1⟩) 255 = true ∧ wfEdge (fun n => .pwrLtrWrite 0 (some n) 0) 63 = true
    ∧ (Instr.pwrLtrWrite 0 none 0).wf = true ∧ wfEdge (fun n => .wake (.port n true)) 63 = true ∧ wfEdge (fun g => .wake (.group g)) 11 = true
    ∧ wfEdge (.descriptorFetch 63 ·) 63 = true ∧ wfEdge (.arrayStreamAccess 863 · []) 15 = true := by decide

theorem test_refused : exec (.steeringPass 64) State.reset = .refused (.noSuchUnit "end-point block") ∧ exec (.scrubLag 384) State.reset = .refused (.noSuchUnit "channel")
    ∧ exec (.arrayRunEnd 864) State.reset = .refused (.noSuchUnit "array") := ⟨rfl, rfl, rfl⟩

/-! ## The spec's worked examples -/

/-- R63: the load of the example reaches channel 366 through node port 108, at local address 0x0C22_E400; its plane is 3 (R58). -/
theorem test_channelHash : channelOf 0x1234567800 = 366 ∧ localOf 0x1234567800 = 0x0C22E400 ∧ nodePortOf 0x1234567800 = 108
    ∧ planeAt State.reset 0x980 0x1234567800 = 3 := by decide +kernel

/-- R58: under the failover map of the example, the store of accelerator 0x040 goes out on plane 3. -/
theorem test_planeMap : planeAt (modRte (fun r => { r with planeMap := putBits (resetMap 15) 176 4 3 }) State.reset) 0x04C 0x812340 = 3
    ∧ mkAddr 0x04C 0x812340 = 0x04C0000000812340 ∧ (bitsOf (resetMap 15) 176 4 : BitVec 4) = 12 := by decide +kernel

/-- R22: the GLB_TOPOLOGY of the example's leaf. -/
theorem test_topology : let s := nvMod (fun n => { n with topology := 0x55DF7800 }) State.reset
    isLeaf s = true ∧ planeIdx s = 5 ∧ planesM1 s = 7 ∧ leavesM1 s = 31 ∧ spinesM1 s = 15 ∧ topoErr s = false := by decide +kernel

/-- R36, R490: the window that the example of chapter 17 stages at 0x0300_5010. -/
theorem test_window : let w : BitVec 128 := 0x8600104CFFFF00000001000000000800
    regOf 0x03005010 = some (.winData 5 0) ∧ regOf 0x03005004 = some (.winCtl 5) ∧ winValid w = true ∧ winFnid w = 0x04C ∧ winEpoch w = 1 ∧ winBase w = 0x800
      ∧ winSize w = 0x100 ∧ winMask w = 0xFFFF ∧ bitAt w 121 = true ∧ bitAt w 122 = true ∧ bitAt w 123 = false := by decide +kernel

/-- R249-R254: the rows of the example's table, under RNE with the flags, and under RTZ. -/
theorem test_convert_rne : let c (t x : Nat) : Nat × Nat := convertF (fmtOf t) .rne (decodeF f32 x)
    c 7 0x3F880000 = (0x38, flInexact) ∧ c 7 0x3F980000 = (0x3A, flInexact) ∧ c 7 0x3E9A0000 = (0x2A, flInexact) ∧ c 7 0x437A0000 = (0x78, flOverflow + flInexact)
    ∧ c 7 0x3A800000 = (0, flUnderflow + flInexact) ∧ c 8 0x476A6000 = (0x7B, flInexact) ∧ c 5 0x3F808000 = (0x3F80, flInexact)
    ∧ c 7 0x7F800001 = (0x7C, flInvalid + flNanIn) := by decide +kernel

theorem test_convert_rtz : let c (t x : Nat) : Nat := (convertF (fmtOf t) .rtz (decodeF f32 x)).1
    c 7 0x3F980000 = 0x39 ∧ c 7 0x3E9A0000 = 0x29 ∧ c 7 0x437A0000 = 0x77 ∧ c 8 0x476A6000 = 0x7B := by decide +kernel

/-- R254: a stochastic rounding goes up with the probability of the table, 0.625 in row 3: F = 0xA000_0000. -/
theorem test_convert_sr : (convertF (fmtOf 7) (.sr 0x60000000) (decodeF f32 0x3E9A0000)).1 = 0x2A ∧ (convertF (fmtOf 7) (.sr 0x5FFFFFFF) (decodeF f32 0x3E9A0000)).1 = 0x29 := by
  decide +kernel

/-- R259: the block of the example has exponent 3, and 1,000.0 becomes 0x70. -/
theorem test_block : blockExp (fmtOf 7) [dec32 0x447A0000, dec32 0x40400000, dec32 0x3A800000] = 3
    ∧ (convertF (fmtOf 7) .rne (scale2 (dec32 0x447A0000) (-3))).1 = 0x70 ∧ (convertF (fmtOf 7) .rne (scale2 (dec32 0x40400000) (-3))).1 = 0x2C := by decide +kernel

/-- R263, R264: the four contributions of the example sum to 2.0 exactly; FAST in order of arrival gives 0.0. -/
theorem test_exact : let l : List W32 := [0x4B800000, 0x3F800000, 0x3F800000, 0xCB800000]
    (exactRound 0x4000 0 0 0 0 ((l.map dec32).foldl exactAdd exactClear)).1 = 0x40000000
      ∧ [0x3F800000, 0x3F800000, 0xCB800000].foldl (fun a x => elemOp 0 4 a x 0) 0x4B800000 = 0 := by decide +kernel

/-! ## Codes -/

/-- R375: a codeword is divisible by the generator, so it is 0 at each root. -/
theorem test_lineCode : let d := (List.range 64).map fun i => BitVec.ofNat 8 (7 * i + 1)
    (lineCodeword d false).length = 72
      ∧ (List.range 8).all (fun i => decide ((lineCodeword d false).foldl (fun a b => gfMul a (gfPow i) ^^^ b) 0 = 0)) = true
      ∧ gfMul 0x80 2 = 0x1D ∧ rsFinding 2 = some .correctable ∧ rsFinding 3 = some .uncorrectable ∧ rsFinding 7 = none := by decide +kernel

/-- AES-256 of FIPS 197, appendix C.3. -/
theorem test_aes : let rks := aesKeys ((List.range 32).map fun i => BitVec.ofNat 8 i)
    let x := (List.range 16).map fun i => BitVec.ofNat 8 (0x11 * i)
    let y : List Byte := [0x8e, 0xa2, 0xb7, 0xca, 0x51, 0x67, 0x45, 0xbf, 0xea, 0xfc, 0x49, 0x90, 0x4b, 0x49, 0x60, 0x89]
    aesEncrypt rks x = y ∧ aesDecrypt rks y = x := by decide +kernel

/-- AES-256-GCM: case 14 of the mode's specification, a block of zeros under a zero key and IV. -/
theorem test_gcm : let c : List Byte := [0xce, 0xa7, 0x40, 0x3d, 0x4d, 0x60, 0x6b, 0x6e, 0x07, 0x4e, 0xc5, 0xd3, 0xba, 0xf3, 0x9d, 0x18]
    (bvBytes (gcmStream 0 (zeros 12) 0)).take 16 = c
      ∧ bvBytes (gcmTag 0 (zeros 12) [] c) = [0xd0, 0xd1, 0xc8, 0xa7, 0x99, 0x99, 0x6b, 0xf0, 0x26, 0x5b, 0x98, 0xb5, 0xd4, 0x8a, 0xb9, 0x19] := by decide +kernel

/-- R373: the first line of the data unit of vector 10 of IEEE 1619, under its two keys and the unit number 0xFF. -/
theorem test_xts : xtsEncrypt (BitVec.ofNat 512 (leNat (
    [0x27, 0x18, 0x28, 0x18, 0x28, 0x45, 0x90, 0x45, 0x23, 0x53, 0x60, 0x28, 0x74, 0x71, 0x35, 0x26, 0x62, 0x49, 0x77, 0x57, 0x24, 0x70, 0x93, 0x69, 0x99, 0x59, 0x57, 0x49, 0x66, 0x96, 0x76, 0x27]
      ++ [0x31, 0x41, 0x59, 0x26, 0x53, 0x58, 0x97, 0x93, 0x23, 0x84, 0x62, 0x64, 0x33, 0x83, 0x27, 0x95, 0x02, 0x88, 0x41, 0x97, 0x16, 0x93, 0x99, 0x37, 0x51, 0x05, 0x82, 0x09, 0x74, 0x94, 0x45, 0x92]))) 0xFF
      ((List.range 64).map fun i => BitVec.ofNat 8 i)
    = [0x1c, 0x3b, 0x3a, 0x10, 0x2f, 0x77, 0x03, 0x86, 0xe4, 0x83, 0x6c, 0x99, 0xe3, 0x70, 0xcf, 0x9b, 0xea, 0x00, 0x80, 0x3f, 0x5e, 0x48, 0x23, 0x57, 0xa4, 0xae, 0x12, 0xd4, 0x14, 0xa3, 0xe6, 0x3b]
      ++ [0x5d, 0x31, 0xe2, 0x76, 0xf8, 0xfe, 0x4a, 0x8d, 0x66, 0xb3, 0x17, 0xf9, 0xac, 0x68, 0x3f, 0x44, 0x68, 0x0a, 0x86, 0xac, 0x35, 0xad, 0xfc, 0x33, 0x45, 0xbe, 0xfe, 0xcb, 0x4b, 0xb1, 0x88, 0xfd] := by decide +kernel

/-- R377: the codeword of a poisoned line has each check byte inverted. -/
theorem test_poisonWord : let d := (List.range 64).map fun i => BitVec.ofNat 8 (7 * i + 1)
    (lineCodeword d true).take 64 = d ∧ (lineCodeword d true).drop 64 = (((lineCodeword d false).drop 64).map fun b => b ^^^ 0xFF) := by decide +kernel

/-- R437: a 1 comes back 39 and 58 bits later. R439: the four levels, and the precoder by hand. -/
theorem test_lineCoding : (scrambleBits 60 0 1).2 = 1 + 2 ^ 39 + 2 ^ 58 ∧ symbolLevels 0b0110110100 = [0, 1, 2, 3, 1] ∧ precode 0 [1, 1, 3] = [1, 0, 3]
    ∧ (gf10Double 512 = 9 ∧ fecGen.length = 30) := by decide +kernel

/-- R108: the hop record stands at bytes 32-63 of cell 0, and the tail at 60-63 of cell 1. R436: a message of P bytes takes ⌈(36 + P) / 64⌉ cells. -/
theorem test_cells : let hop := mkHop 3 0 7 0
    let l := frameLine (storeFrame 0) hop
    l.length = frameCells (storeFrame 0) ∧ (l.map fun c => (c.h0, c.h1)) = [(true, false), (false, false)]
      ∧ (l.head?.map fun (c : TxCell) => (c.data >>> 256).setWidth 256) = some hop ∧ (l[1]?.map fun (c : TxCell) => (c.data >>> 480).setWidth 32) = some (storeFrame 0).tail
      ∧ (msgLine (ctlMsg 0x28 [])).length = 1 ∧ (msgLine flagMsg).length = 2 ∧ (msgLine (mkMsg 0 (zeros 256))).length = 5 := by decide +kernel

/-- R223: 31,250 cycles leave 31,232 usable; R200: the cairn line of the example lies at 0x4001_1000. -/
theorem test_usable : usable 31250 = 31232 ∧ cairnAddr { logSize := 8, cqBase := 0x40010000 } = 0x40011000 := by decide +kernel

end Sys2Proof.Tests
end

section
/-! SUPPORT. Addresses: the plane of a fabric address (R58), and the channel and local address of an offset with their inverse (R63). -/

namespace Sys2Proof.Machine

open Sys2Proof

/-! ## The plane hash (R58) -/

/-- The 58 bits that R58 hashes: the FNID over the line number of the offset. -/
def planeKey (fnid : BitVec 12) (off : BitVec 52) : BitVec 58 := (fnid.setWidth 58 <<< 46) ||| (off.extractLsb' 6 46).setWidth 58

theorem toNat_planeKey (fnid : BitVec 12) (off : BitVec 52) : (planeKey fnid off).toNat = fnid.toNat * 2 ^ 46 + off.toNat / 64 := by
  have hf := fnid.isLt
  have ho := off.isLt
  have hline : (off.toNat >>> 6) % 2 ^ 46 = off.toNat / 64 := by
    rw [Nat.shiftRight_eq_div_pow]
    omega
  have hhigh : ((fnid.setWidth 58 <<< 46 : BitVec 58)).toNat = fnid.toNat <<< 46 := by
    simp only [BitVec.toNat_shiftLeft, BitVec.toNat_setWidth, Nat.shiftLeft_eq]
    omega
  have hlow : ((off.extractLsb' 6 46).setWidth 58).toNat = off.toNat / 64 := by
    rw [BitVec.toNat_setWidth, BitVec.extractLsb'_toNat, hline]
    omega
  rw [planeKey, BitVec.toNat_or, hhigh, hlow, ← Nat.shiftLeft_add_eq_or_of_lt (by omega), Nat.shiftLeft_eq]

/-- A six-bit chunk of a vector, as bits and as a number. -/
theorem toNat_chunk (v : BitVec 58) (n : Nat) : ((v >>> n).setWidth 6).toNat = v.toNat / 2 ^ n % 64 := by
  rw [BitVec.toNat_setWidth, BitVec.toNat_ushiftRight, Nat.shiftRight_eq_div_pow]

/-- The XOR of the chunks over any list of positions: bits and numbers agree. -/
theorem toNat_xorChunks (v : BitVec 58) (l : List Nat) (h : BitVec 6) :
    (l.foldl (fun h k => h ^^^ (v >>> (6 * k)).setWidth 6) h).toNat = l.foldl (fun h k => h ^^^ (v.toNat / 2 ^ (6 * k) % 64)) h.toNat := by
  induction l generalizing h with
  | nil => rfl
  | cons k l ih => rw [List.foldl_cons, List.foldl_cons, ih, BitVec.toNat_xor, toNat_chunk]

/-- The model's hash is the one that R58 computes on 58 bits. -/
theorem planeHash_eq_toNat (fnid : BitVec 12) (off : BitVec 52) :
    planeHash fnid off.toNat = ((List.range 10).foldl (fun h k => h ^^^ (planeKey fnid off >>> (6 * k)).setWidth 6) (0 : BitVec 6)).toNat := by
  rw [toNat_xorChunks, toNat_planeKey]
  rfl

/-- A module serves its own plane, whatever the map. -/
theorem planeAt_module (s : State) {fnid : BitVec 12} (off : Nat) (h : fnid.getLsbD 11 = true) :
    planeAt s fnid off = (fnid.extractLsb' 7 4).toNat := if_pos h

theorem planeAt_mapped (s : State) {fnid : BitVec 12} (off : Nat) (h : fnid.getLsbD 11 = false) :
    planeAt s fnid off = (s.rte.planeMap.extractLsb' (4 * planeHash fnid off) 4).toNat := if_neg (Bool.eq_false_iff.mp h)

/-- The hash sees the line of an offset alone. -/
theorem planeAt_congr_line (s : State) (fnid : BitVec 12) {a b : Nat} (h : a / 64 = b / 64) : planeAt s fnid a = planeAt s fnid b := by
  have hash : planeHash fnid a = planeHash fnid b := by rw [planeHash, planeHash, h]
  rw [planeAt, planeAt, planeOf, planeOf, hash]

/-! ## The channel hash (R63) -/

/-- The rotation `f` of run `q`. -/
def chanRot (q : Nat) : Nat := (q % 2 ^ 9) ^^^ (q / 2 ^ 9 % 2 ^ 9) ^^^ (q / 2 ^ 18 % 2 ^ 5)

theorem channelOf_eq (off : Nat) : channelOf off = (off / 256 % 384 + chanRot (off / 256 / 384) % 384) % 384 := rfl

theorem offOfLocal_eq (c loc : Nat) :
    offOfLocal c loc = (loc / 256 * 384 + (c + 384 - chanRot (loc / 256) % 384) % 384) * 256 + loc % 256 := rfl

/-- An offset from its run, its granule in the run and its byte in the granule. -/
theorem channelOf_parts {q r b : Nat} (hr : r < 384) (hb : b < 256) : channelOf ((q * 384 + r) * 256 + b) = (r + chanRot q % 384) % 384 := by
  rw [channelOf_eq, show ((q * 384 + r) * 256 + b) / 256 = q * 384 + r by omega, show (q * 384 + r) / 384 = q by omega,
    show (q * 384 + r) % 384 = r by omega]

theorem channelOf_granule {q r : Nat} (hr : r < 384) : channelOf ((q * 384 + r) * 256) = (r + chanRot q % 384) % 384 := by
  rw [← channelOf_parts hr (show 0 < 256 by decide), Nat.add_zero]

theorem localOf_parts {q r b : Nat} (hr : r < 384) (hb : b < 256) : localOf ((q * 384 + r) * 256 + b) = q * 256 + b := by
  rw [localOf]
  omega

/-- A rotation turned back, and a rotation of what was turned back. -/
theorem rotate_back {r : Nat} (f : Nat) (hr : r < 384) : ((r + f % 384) % 384 + 384 - f % 384) % 384 = r := by omega

theorem rotate_forth {c : Nat} (f : Nat) (hc : c < 384) : ((c + 384 - f % 384) % 384 + f % 384) % 384 = c := by omega

/-- The 384 channels take 3 * 2^21 granules each of the stacked memory. -/
theorem run_lt_of_stacked {off : Nat} (h : off < stackedSize) : off / 256 / 384 < 6291456 := by
  rw [stackedSize] at h
  omega

theorem localOf_lt {off : Nat} (h : off < stackedSize) : localOf off < 6291456 * 256 := by
  have hq := run_lt_of_stacked h
  rw [localOf]
  omega

/-- R14 takes the low bit of the channel; it is that of the channel within its stack. -/
theorem nodePortOf_stacked {off : Nat} (h : off < stackedSize) :
    nodePortOf off = 64 + 2 * (channelOf off / 16) + channelOf off % 16 % 2 := by
  rw [nodePortOf, regionOf, if_pos h, Nat.mod_mod_of_dvd _ (by decide)]

theorem offOfLocal_channelOf (off : Nat) : offOfLocal (channelOf off) (localOf off) = off := by
  have hrun : localOf off / 256 = off / 256 / 384 := by rw [localOf]; omega
  have hbyte : localOf off % 256 = off % 256 := by rw [localOf]; omega
  rw [offOfLocal_eq, hrun, hbyte, channelOf_eq, rotate_back _ (Nat.mod_lt _ (by decide))]
  omega

theorem channelOf_offOfLocal {c : Nat} (loc : Nat) (hc : c < 384) : channelOf (offOfLocal c loc) = c := by
  rw [offOfLocal_eq, channelOf_parts (Nat.mod_lt _ (by decide)) (Nat.mod_lt _ (by decide)), rotate_forth _ hc]

theorem localOf_offOfLocal (c loc : Nat) : localOf (offOfLocal c loc) = loc := by
  rw [offOfLocal_eq, localOf_parts (Nat.mod_lt _ (by decide)) (Nat.mod_lt _ (by decide))]
  omega

theorem offOfLocal_lt (c : Nat) {loc : Nat} (h : loc < 6291456 * 256) : offOfLocal c loc < stackedSize := by
  have hr : (c + 384 - chanRot (loc / 256) % 384) % 384 < 384 := Nat.mod_lt _ (by decide)
  rw [offOfLocal_eq, stackedSize]
  omega

/-- Within one run the rotation is one, so two granules of it share no channel. -/
theorem channelOf_injOn_run {run i j : Nat} (hi : i < 384) (hj : j < 384)
    (h : channelOf ((384 * run + i) * 256) = channelOf ((384 * run + j) * 256)) : i = j := by
  rw [Nat.mul_comm 384 run] at h
  have hrot : (i + chanRot run % 384) % 384 = (j + chanRot run % 384) % 384 :=
    (channelOf_granule hi).symm.trans (h.trans (channelOf_granule hj))
  omega

/-- Settles O58: the number that the model hashes is R58's vector, the hash sees the line alone, and a run's rotation can be turned back. -/
theorem addressesHavePlanesAndChannels : Obligations.AddressesHavePlanesAndChannels := by
  refine ⟨fun s fnid off => ⟨planeAt_module s _, fun h => ?_, fun k hk => ?_⟩, fun off h => ?_,
    fun _ _ _ hi hj h => channelOf_injOn_run hi hj h,
    fun c loc hc hl => ⟨offOfLocal_lt c hl, channelOf_offOfLocal loc hc, localOf_offOfLocal c loc⟩⟩
  · exact (planeAt_mapped s _ h).trans (by rw [planeHash_eq_toNat]; rfl)
  · exact planeAt_congr_line s fnid (by omega)
  · have hq : off / 256 / 384 < 2 ^ 23 := (run_lt_of_stacked h).trans (by decide)
    exact ⟨rfl, rfl, hq, localOf_lt h, nodePortOf_stacked h, offOfLocal_channelOf off⟩

end Sys2Proof.Machine
end

section
/-! SUPPORT. Sequence numbers (R154): the fields of SEQ and where a waybill carries them, the frame that a source issues, and what a new
generation leaves of its series. -/

namespace Sys2Proof.Machine

open Sys2Proof

/-! ## SEQ and its comparisons -/

theorem toNat_seqGen (q : BitVec 24) : (seqGen q).toNat = q.toNat / 2 ^ 20 := by
  have hq := q.isLt
  rw [seqGen, bitsOf, BitVec.extractLsb'_toNat, Nat.shiftRight_eq_div_pow]
  omega

theorem toNat_seqCount (q : BitVec 24) : (seqCount q).toNat = q.toNat % 2 ^ 20 := by
  rw [seqCount, bitsOf, BitVec.extractLsb'_toNat, Nat.shiftRight_zero]

/-- The two fields make up the whole of SEQ. -/
theorem mkSeq_seqGen_seqCount (q : BitVec 24) : mkSeq (seqGen q) (seqCount q) = q :=
  (BitVec.extractLsb'_append_extractLsb'_eq_extractLsb' rfl).trans BitVec.extractLsb'_eq_self

theorem countPrecedes_iff (a b : BitVec 20) : countPrecedes a b = true ↔
    1 ≤ (b.toNat + 2 ^ 20 - a.toNat) % 2 ^ 20 ∧ (b.toNat + 2 ^ 20 - a.toNat) % 2 ^ 20 ≤ 2 ^ 19 - 1 := by
  have hdist : (b - a).toNat = (b.toNat + 2 ^ 20 - a.toNat) % 2 ^ 20 := by bv_omega
  rw [countPrecedes, hdist, Bool.and_eq_true, decide_eq_true_eq, decide_eq_true_eq]

theorem toNat_genSub (g h : BitVec 4) : (g - h).toNat = (g.toNat + 16 - h.toNat) % 16 := by bv_omega

theorem genNewer_iff (g h : BitVec 4) :
    genNewer g h = true ↔ 1 ≤ (g.toNat + 16 - h.toNat) % 16 ∧ (g.toNat + 16 - h.toNat) % 16 ≤ 7 := by
  rw [genNewer, toNat_genSub, Bool.and_eq_true, decide_eq_true_eq, decide_eq_true_eq]

theorem genOlder_iff (g h : BitVec 4) : genOlder g h = true ↔ 8 ≤ (g.toNat + 16 - h.toNat) % 16 := by
  rw [genOlder, toNat_genSub, decide_eq_true_eq]

/-! ## SEQ in a waybill (R111) -/

/-- A field written into a header leaves the bits below it. -/
theorem getLsbD_hdrPut_below (h : Header) {off n x i : Nat} (hi : i < 8 * off) : (hdrPut h off n x).getLsbD i = h.getLsbD i := by
  have shifted (y : Nat) : (BitVec.ofNat 256 (y * 2 ^ (8 * off))).getLsbD i = false := by
    rw [BitVec.getLsbD_ofNat, Nat.testBit_mul_two_pow, decide_eq_false (Nat.not_le.mpr hi), Bool.false_and, Bool.and_false]
  rw [hdrPut, BitVec.getLsbD_or, BitVec.getLsbD_and, BitVec.getLsbD_not, shifted, shifted, Bool.or_false, Bool.not_false, Bool.and_true]
  exact Bool.and_eq_left_iff_imp.mpr fun hset => decide_eq_true (BitVec.lt_of_getLsbD hset)

/-- HCHK takes the last four bytes, so the fields below bit 224 stand as they were. -/
theorem bitsOf_sealHdr (h : Header) {lo n : Nat} (hle : lo + n ≤ 224) : bitsOf (sealHdr h) lo n = bitsOf h lo n := by
  ext i hi
  rw [bitsOf, bitsOf, BitVec.getElem_extractLsb', BitVec.getElem_extractLsb', sealHdr, getLsbD_hdrPut_below h (by omega)]

/-- A waybill carries the SEQ it is built with when no field before SEQ runs over its own place. -/
theorem wbSeq_mkWb (f : WbFields) (hplen : f.plen < 64) (hflags : f.flags < 256) (hplane : f.plane < 256) (hsrc : f.src < 2 ^ 16)
    (hdst : f.dst < 2 ^ 16) (haddr : f.addr < 2 ^ 64) : wbSeq (mkWb f) = BitVec.ofNat 24 f.seq := by
  have htype := f.type.isLt
  have hcls : classCode f.cls ≤ 3 := by cases f.cls <;> decide
  apply BitVec.eq_of_toNat_eq
  rw [wbSeq, mkWb, bitsOf_sealHdr _ (by decide), bitsOf, BitVec.extractLsb'_toNat, BitVec.toNat_ofNat, BitVec.toNat_ofNat,
    Nat.shiftRight_eq_div_pow]
  omega

/-- The copy that a source resends differs in RETX and the checks alone. -/
theorem wbSeq_resendOf (f : Frame) : wbSeq (resendOf f).wb = wbSeq f.wb := by
  have hretx : (BitVec.ofNat 256 (2 ^ 18)).extractLsb' 128 24 = 0 := by decide
  calc wbSeq (resendOf f).wb
      = bitsOf (f.wb ||| BitVec.ofNat 256 (2 ^ 18)) 128 24 := bitsOf_sealHdr _ (by decide)
    _ = wbSeq f.wb := by rw [bitsOf, BitVec.extractLsb'_or, hretx]; exact BitVec.or_zero

theorem planeIdx_lt (s : State) : planeIdx s < 16 := (bitsOf s.mgt.nv.topology 26 4).isLt

/-- The waybill of a new frame carries the SEQ that its source gives it. -/
theorem wbSeq_newWb (s : State) (f : NewFrame) (seq tag : BitVec 24) (hlen : f.length ≤ 256) (hflags : f.flags < 256) :
    wbSeq (newWb s f seq tag) = seq := by
  have hvary (b : Bool) : f.flags ||| 8 * ofB b < 256 := Nat.or_lt_two_pow (n := 8) hflags (by cases b <;> decide)
  have hplen : (if f.type = 0x01 then 0 else if f.type = 0x03 then 1 else (f.length + 31) / 32) < 64 := by
    split
    · decide
    · split
      · decide
      · omega
  have hplane : planeIdx s < 256 := (planeIdx_lt s).trans (by decide)
  have hsrc : f.src.toNat < 2 ^ 16 := f.src.isLt.trans (by decide)
  have hdst : (addrFnid f.addr).toNat < 2 ^ 16 := (addrFnid f.addr).isLt.trans (by decide)
  exact (wbSeq_mkWb _ hplen (hvary _) hplane hsrc hdst f.addr.isLt).trans ((BitVec.ofNat_toNat 24 seq).trans (BitVec.setWidth_eq seq))

/-! ## Issuing a new frame (R84) -/

@[simp] theorem relOf_emitFrame (port : Nat) (f : Frame) (s : State) (p : Point) : relOf (emitFrame port f s) p = relOf s p := by
  cases p <;> rfl

theorem relOf_modEp (n : Nat) (f : Ep → Ep) (s : State) : relOf (modEp n f s) (.ep n) = (f (epOf s n)).rel :=
  congrArg Ep.rel (epOf_modEp n f s)

@[simp] theorem relOf_noteMinFree (p : Point) (s : State) : relOf (noteMinFree p s) p = relOf s p := by
  cases p with
  | ep n => exact relOf_modEp n _ s
  | rte => rfl

@[simp] theorem noteMinFree_swc (p : Point) (s : State) : (noteMinFree p s).swc = s.swc := by
  cases p <;> rfl

@[simp] theorem ctxPop_ctxs (r : Rel) : (ctxPop r).ctxs = r.ctxs := by
  unfold ctxPop
  split <;> rfl

@[simp] theorem ctxPop_series (r : Rel) : (ctxPop r).series = r.series := by
  unfold ctxPop
  split <;> rfl

/-- The key of the series that a new frame belongs to (R153). -/
def newKey (f : NewFrame) : Nat := seriesKey (addrFnid f.addr) (newKind f)

/-- The SEQ of the next frame of a series (R154). -/
def nextSeq (r : Rel) (key : Nat) : BitVec 24 := mkSeq (tabGet {} r.series key).gen (tabGet {} r.series key).count

/-- The frame that `sendNew` sends in context `i`. -/
def newFrameIn (s : State) (p : Point) (f : NewFrame) (i : Nat) : Frame :=
  { mkFrame (newWb s f (nextSeq (relOf s p) (newKey f)) (tagOf p i (ctxOf s p i).gen)) f.payload with poison := f.poison }

/-- The context that `sendNew` fills, but for the time at which it is issued. -/
def newCtxIn (s : State) (p : Point) (f : NewFrame) (i : Nat) : Ctx :=
  { st := .issued, gen := (ctxOf s p i).gen, frame := newFrameIn s p f i, owner := f.owner, port := f.port }

/-- A source fills context `i`, the head of its free list, with `c`, whose frame belongs to the series of `key`. -/
def issueCtx (key i : Nat) (c : Ctx) (r : Rel) : Rel :=
  { ctxPop r with
    series := tabMod {} (ctxPop r).series key (fun x => { x with count := x.count + 1 })
    issueClock := (ctxPop r).issueClock + 1
    ctxs := tabSet {} (ctxPop r).ctxs i { c with issuedAt := (ctxPop r).issueClock } }

section Sent
variable {s : State} {p : Point} {i : Nat} (f : NewFrame) (hi : ctxHead (relOf s p) = some i)
include hi

/-- Sending is one update of the source and one frame that enters the switch core. -/
theorem sendNew_of_ctxHead : sendNew p f s =
    emitFrame f.port (newFrameIn s p f i) (noteMinFree p (modRel p (issueCtx (newKey f) i (newCtxIn s p f i)) s)) := by
  rw [sendNew, hi]
  rfl

theorem relOf_sendNew : relOf (sendNew p f s) p = issueCtx (newKey f) i (newCtxIn s p f i) (relOf s p) := by
  rw [sendNew_of_ctxHead f hi, relOf_emitFrame, relOf_noteMinFree, relOf_modRel]

theorem ctxOf_sendNew_same : ctxOf (sendNew p f s) p i =
    { newCtxIn s p f i with issuedAt := (ctxPop (relOf s p)).issueClock } := by
  rw [ctxOf, relOf_sendNew f hi, issueCtx, tabGet_set_same]

theorem ctxOf_sendNew_other {j : Nat} (hj : j ≠ i) : ctxOf (sendNew p f s) p j = ctxOf s p j := by
  rw [ctxOf, relOf_sendNew f hi, issueCtx, tabGet_set_other _ _ _ hj, ctxPop_ctxs, ctxOf]

theorem inbound_sendNew :
    tabGet [] (sendNew p f s).swc.inbound f.port = tabGet [] s.swc.inbound f.port ++ [(newFrameIn s p f i, 0)] := by
  rw [sendNew_of_ctxHead f hi, emitFrame, modSwc, tabGet_mod_same, noteMinFree_swc, modRel_swc]

theorem sendNew_issues : Issues s (sendNew p f s) p i f where
  issued := ⟨_, ctxOf_sendNew_same f hi⟩
  sent := by rw [ctxOf_sendNew_same f hi]; exact inbound_sendNew f hi
  others := fun _ => ctxOf_sendNew_other f hi

/-- A new frame advances COUNT of its series. -/
theorem series_sendNew : tabGet {} (relOf (sendNew p f s) p).series (newKey f) =
    { tabGet {} (relOf s p).series (newKey f) with count := (tabGet {} (relOf s p).series (newKey f)).count + 1 } := by
  rw [relOf_sendNew f hi, issueCtx, tabGet_mod_same, ctxPop_series]

theorem wbSeq_sendNew (hlen : f.length ≤ 256) (hflags : f.flags < 256) :
    wbSeq (ctxOf (sendNew p f s) p i).frame.wb = nextSeq (relOf s p) (newKey f) := by
  rw [ctxOf_sendNew_same f hi]
  exact wbSeq_newWb s f _ _ hlen hflags

end Sent

/-! ## A new generation (R175) -/

theorem relOf_epFault (n : Nat) (kind : Byte) (sev : BitVec 2) (code : Byte) (key detail : Nat) (src : BitVec 12) (s : State) :
    relOf (epFault n kind sev code key detail src s) (.ep n) = relOf s (.ep n) := by
  unfold epFault
  dsimp only
  split
  · exact relOf_modEp n _ s
  · split <;> exact relOf_modEp n _ s

/-- A device record leaves every source as it was. -/
theorem FaultOnly.relOf_eq {s t : State} (h : FaultOnly s t) (p : Point) : relOf t p = relOf s p := by
  unfold FaultOnly at h
  rw [h]
  cases p <;> rfl

@[simp] theorem relOf_relFault (p : Point) (epKind rteKind : Byte) (sev : BitVec 2) (code : Byte) (key detail : Nat) (src : BitVec 12) (s : State) :
    relOf (relFault p epKind rteKind sev code key detail src s) p = relOf s p := by
  cases p with
  | ep n => exact relOf_epFault n epKind sev code key detail src s
  | rte => exact (devFault_only rteKind sev code 0xFF key detail src s).relOf_eq .rte

/-- A SEAL that is sent changes what is noted of the sealing, and nothing else of the series. -/
theorem series_sendSeal (p : Point) (key : Nat) (s : State) : ∃ w, tabGet {} (relOf (sendSeal p key s) p).series key =
    { tabGet {} (relOf s p).series key with sealing := w } := by
  rw [sendSeal, relOf_modRel, tabGet_mod_same, sendLoose, relOf_emitFrame]
  exact ⟨_, rfl⟩

/-- The next generation starts at COUNT 0, with one more timer running. -/
theorem series_bumpSeries (p : Point) (key : Nat) (s : State) : ∃ w, tabGet {} (relOf (bumpSeries p key s) p).series key =
    { gen := (tabGet {} (relOf s p).series key).gen + 1, count := 0
      timers := (tabGet {} (relOf s p).series key).timers + 1, sealing := w } := by
  obtain ⟨w, hw⟩ := series_sendSeal p key (relFault p 0x0A 0x31 sevWarn 0 (key / 2) 0 0xFFF (modRel p (fun r => { r with
    series := tabMod {} r.series key (fun x => { x with gen := x.gen + 1, count := 0, timers := x.timers + 1 })
    seriesReset := satAdd r.seriesReset 1 }) s))
  refine ⟨w, hw.trans ?_⟩
  rw [relOf_relFault, relOf_modRel, tabGet_mod_same]

/-- A full reset leaves every source with the reset values of its registers and tables. -/
theorem relOf_reset (p : Point) : relOf State.reset p = {} := by
  cases p <;> rfl

/-- Settles O59: HCHK stands above SEQ and the fields below keep to their places, so a frame carries the SEQ of its series, also when it is
sent again; and a source's series changes by the count of a frame sent and by a new generation. -/
theorem sequenceNumbers : Obligations.SequenceNumbers := by
  refine ⟨fun q => ⟨toNat_seqGen q, toNat_seqCount q, mkSeq_seqGen_seqCount q⟩, countPrecedes_iff,
    fun g h => ⟨genNewer_iff g h, genOlder_iff g h⟩,
    fun s p f i hi => ⟨sendNew_issues f hi, series_sendNew f hi, wbSeq_sendNew f hi⟩,
    fun s p key => ?_, fun p key => ?_, wbSeq_resendOf⟩
  · obtain ⟨w, hw⟩ := series_bumpSeries p key s
    rw [hw]
    exact ⟨rfl, rfl⟩
  · rw [relOf_reset]
    rfl

end Sys2Proof.Machine
end

section
/-! SUPPORT. The outcome of every command: it completes, and leaves the queue and the fuses, or names a unit that does not exist; what a
burn may change (R480); and the integer operations of R248. -/

namespace Sys2Proof.Machine

open Sys2Proof

/-! ## Gates -/

/-- The outcome of a command that completes: the queue and the fuses stay. -/
def Answers (s : State) (o : Out) : Prop := ∃ t, o = .next t ∧ t.pending = s.pending ∧ t.fuses = s.fuses

/-- It changes nothing while the regulators are off (R413), nor, where the core clock serves it (`core`), in P4 (R415). -/
def Waits (core : Bool) (s : State) (o : Out) : Prop :=
  (s.pwr.powered = false → o = .next s) ∧ (core = true → s.pwr.node = 4 → o = .next s)

/-- The outcome of a command whose units exist if `ok`: it completes, or is refused by the name of a unit that does not exist. -/
def Gated (ok core : Bool) (s : State) (o : Out) : Prop := if ok then Answers s o ∧ Waits core s o else ∃ name, o = .refused (.noSuchUnit name)

theorem coreRuns_off {s : State} (h : s.pwr.powered = false) : coreRuns s = false := by
  unfold coreRuns
  rw [h]
  rfl

theorem coreRuns_parked {s : State} (h : s.pwr.node = 4) : coreRuns s = false := by
  unfold coreRuns
  rw [h]
  exact Bool.and_false _

theorem live_gated (s t : State) : Gated true false s (live s t) := by
  refine ⟨⟨_, rfl, ?_⟩, fun h => ?_, fun h => nomatch h⟩
  · split <;> exact ⟨rfl, rfl⟩
  · unfold live
    rw [if_neg (by rw [h]; decide)]

theorem coreLive_off (t : State) {s : State} (h : coreRuns s = false) : coreLive s t = .next s := by
  unfold coreLive
  rw [if_neg (by rw [h]; decide)]

theorem coreLive_gated (s t : State) : Gated true true s (coreLive s t) := by
  refine ⟨⟨_, rfl, ?_⟩, fun h => coreLive_off t (coreRuns_off h), fun _ h => coreLive_off t (coreRuns_parked h)⟩
  split <;> exact ⟨rfl, rfl⟩

theorem portLive_off (n : Nat) (f : State → State) {s : State} (h : coreRuns s = false) : portLive n f s = .next s := by
  unfold portLive
  rw [h]
  rfl

theorem portLive_gated (n : Nat) (f : State → State) (s : State) : Gated true true s (portLive n f s) := by
  refine ⟨⟨_, rfl, ?_⟩, fun h => portLive_off n f (coreRuns_off h), fun _ h => portLive_off n f (coreRuns_parked h)⟩
  split <;> exact ⟨rfl, rfl⟩

theorem liveIf_gated (ok : Bool) (u : String) (s t : State) : Gated ok false s (liveIf ok u s t) := by
  cases ok with
  | true => exact live_gated s t
  | false => exact ⟨u, rfl⟩

theorem coreIf_gated (ok : Bool) (u : String) (s t : State) : Gated ok true s (coreIf ok u s t) := by
  cases ok with
  | true => exact coreLive_gated s t
  | false => exact ⟨u, rfl⟩

theorem portIf_gated (ok : Bool) (u : String) (n : Nat) (f : State → State) (s : State) : Gated ok true s (portIf ok u n f s) := by
  cases ok with
  | true => exact portLive_gated n f s
  | false => exact ⟨u, rfl⟩

theorem powerUp_answers (a b : Bool) (s : State) : Answers s (exec (.powerUp a b) s) := ⟨_, rfl, rfl, rfl⟩

theorem inputRestored_answers (mv : BitVec 16) (sigs : Bool × Bool) (s : State) : Answers s (execInputRestored mv sigs s) := by
  unfold execInputRestored
  generalize modPwr _ _ = t
  refine ⟨_, rfl, ?_⟩
  split <;> exact ⟨rfl, rfl⟩

/-- The commands that burn a fuse, those that start a module whose regulators are off, and the one that the spec does not define in full. -/
def Instr.special (c : Instr) : Bool :=
  match c with
  | .fuse .. | .fwConfirm .. | .testAccessInstruction .. | .powerUp .. | .inputRestored .. => true
  | _ => false

/-- Each command but those five stands behind one of the gates. -/
theorem exec_gated (s : State) : ∀ c : Instr, Instr.special c = false → Gated c.wf (Instr.onCore c) s (exec c s)
  | .fuse .., h | .fwConfirm .., h | .testAccessInstruction .., h | .powerUp .., h | .inputRestored .., h => nomatch h
  | .contextGrant (.ep _), _ => coreIf_gated _ _ _ _
  | .contextGrant .rte, _ => coreLive_gated _ _
  | .retxCfgWrite _ (.ep _) _, _ => liveIf_gated _ _ _ _
  | .retxCfgWrite _ .rte _, _ => live_gated _ _
  | .wake (.port ..), _ | .wake (.group _), _ => liveIf_gated _ _ _ _
  | .wake .node, _ => live_gated _ _
  | .pwrLtrWrite _ (some _) _, _ => liveIf_gated _ _ _ _
  | .pwrLtrWrite _ none _, _ => live_gated _ _
  | .resetN .., _ | .vinWarn .., _ | .inputShutdown .., _ | .watchdogRestart, _ | .openSession .., _ | .prove .., _ | .proveTimeout .., _
  | .sessionIdleTimeout .., _ | .sessionMessageError .., _ | .read .., _ | .write .., _ | .storeSettings .., _ | .storeDone, _
  | .ledgerRead .., _ | .ledgerFlush, _ | .ledgerLost, _ | .fwWrite .., _ | .fwVerify .., _ | .fwActivate .., _ | .trialExpiry, _
  | .fwImageCopy .., _ | .enroll .., _ | .fullReset .., _ | .tapUnlock .., _ | .closeSession .., _ | .roll .., _ | .chainHeadTimeout, _
  | .headRollSend, _ | .rollCallTimeout, _ | .glbTopologyWrite .., _ | .glbFnidPinWrite .., _ | .glbRackIdWrite .., _ | .rtePlaneArm .., _
  | .rtePlaneCancel .., _ | .mcastWrite .., _ | .mcastRead .., _ | .swcMirrorCtlWrite .., _ | .rteCmapCtlWrite .., _ | .tickBoundary, _
  | .upstreamTimeout .., _ | .acquireMasterTimeout, _ | .holdoverExpiry .., _ | .holdoverLimitExpiry, _ | .tickSyncCfgWrite .., _
  | .itinCheckDone, _ | .schedRelease .., _ | .xferEnd .., _ | .refreshWindow .., _ | .arrLoad .., _ | .arrUnload .., _
  | .tenantScrub .., _ | .glbFltDataRead .., _ | .pop .., _ | .glbDrainCtlWrite .., _ | .nodeP3Entry, _ | .nodeP4Entry, _
  | .groupPrewake .., _ | .capPwmPeriod .., _ | .capPwmLoss, _ | .capAlertN, _ | .powerSample .., _ | .powerSettle .., _
  | .dieTempSample .., _ | .laneProfileWrite .., _ | .eyeScanStart .., _ | .eyeScanAbort .., _ | .eyeScanDone .., _ | .capAlertNRelease, _
  | .itinOpWrite .., _ | .itinOpReadStage .., _ | .itinOpReadActive .., _ | .itinArm .., _ | .itinCancel .., _ | .colGrpWrite .., _
  | .colGrpRead .., _ | .colGrpInvalidate .., _ | .arrCbWrite .., _ | .arrCbRead .., _ | .svcTabWrite .., _ | .svcTabRead .., _
  | .svcTabDrain .., _ | .ecWrite .., _ | .encode .., _ | .rebuild .., _ | .ecAbort .., _ => live_gated _ _
  | .syncSend .., _ | .sync .., _ | .delayReqSend .., _ | .delayReq .., _ | .delayRsp .., _ | .delayRspAbandon .., _ | .autoRefresh .., _
  | .stackTempSample .., _ | .faultMove .., _ | .portP1Entry .., _ | .quietEntry .., _ | .quiet .., _ | .quietTimeout .., _
  | .groupP2Entry .., _ | .portResetExit .., _ | .portHold .., _ | .lanesLocked .., _ | .signalTimeout .., _ | .alignDone .., _
  | .alignTimeout .., _ | .train .., _ | .loopReq .., _ | .loopRsp .., _ | .loopRepeat .., _ | .qualifyWindowEnd .., _ | .authHello .., _
  | .authSig .., _ | .authTimeout .., _ | .mark .., _ | .markerLockLoss .., _ | .faultRecoveryTimer .., _ | .fecUncorrectable .., _
  | .laneWakeDetect .., _ | .epSrcFnidWrite .., _ | .rteDestWrite .., _ | .rteTrunkEnWrite .., _ | .colMemberWrite .., _
  | .portCfgWrite .., _ | .restart .., _ | .winWrite .., _ | .winRead .., _ | .winInvalidate .., _ | .poolClassCfgWrite .., _
  | .poolThreshWrite .., _ | .poolPortLimitWrite .., _ => liveIf_gated _ _ _ _
  | .auditPass, _ | .reachAnnounce, _ | .attachResend, _ | .leavingSend, _ | .cmapPeriod .., _ | .tallyAccess .., _
  | .colHoldTimeout .., _ | .colOccurrenceStart .., _ | .arrLoadDone .., _ | .arrayEntryStart .., _ | .svcDispatch, _ | .lookup .., _
  | .tpoolRead .., _ | .putBegin .., _ | .putData .., _ | .putCommit .., _ | .putAbort .., _ | .delete .., _ | .pooled .., _
  | .optStep .., _ | .tenantScrubDone, _ | .rosterHeartbeat .., _ | .ecOpDone .., _ | .auditPassEnd, _ => coreLive_gated _ _
  | .steerTimeout .., _ | .steeringPass .., _ | .steeringTimeout .., _ | .ringQuiesced .., _ | .dlvTimeout .., _ | .descriptorFetch .., _
  | .kernelStartTimeout .., _ | .frameIngress .., _ | .frameEgress .., _ | .flowFrame .., _ | .flowRepeat .., _ | .reach .., _
  | .attach .., _ | .detach .., _ | .leaving .., _ | .frameAdmit .., _ | .gapNack .., _ | .rspAck .., _ | .rspData .., _ | .rspNack .., _
  | .retxTimer .., _ | .contextLifeExpiry .., _ | .seriesHoldRelease .., _ | .dedupHoldExpiry .., _ | .flagRelease .., _
  | .cairnReport .., _ | .cairnPoll .., _ | .cairnWaitTimeout .., _ | .sealResend .., _ | .sealFrame .., _ | .sealedSend .., _
  | .sealed .., _ | .combineWriteback .., _ | .channelAccess .., _ | .forcedRefresh .., _ | .up .., _ | .part .., _ | .down .., _
  | .xchg .., _ | .ack .., _ | .colFault .., _ | .abort .., _ | .abortAck .., _ | .downRepeat .., _ | .abortResend .., _
  | .arrayStreamAccess .., _ | .arrayRunEnd .., _ | .arrayRunHalt .., _ | .arraySlotEcc .., _ | .svcDrainDone .., _ | .svcStarve .., _
  | .putTimeout .., _ | .optTrigger .., _ | .optStepDone .., _ | .patrolScrubRead .., _ | .scrubLag .., _ | .relayPoll .., _
  | .arrayStoreEcc .., _ => coreIf_gated _ _ _ _
  | .load .., _ | .storeMsg .., _ | .atomic .., _ | .reduce .., _ | .svcCall .., _ | .rsp .., _ | .hello .., _ | .steerAck .., _
  | .doorbellSqTail .., _ | .doorbellCqHead .., _ | .ringCfgEnable .., _ | .ringCfgDisable .., _ | .ringCfgReset .., _ | .flow .., _ => portIf_gated _ _ _ _ _

/-- A test access instruction completes, or has a code that the spec does not give (R482). -/
theorem testAccessInstruction_outcome (ir : BitVec 10) (s : State) :
    Answers s (exec (.testAccessInstruction ir) s) ∨ exec (.testAccessInstruction ir) s = .refused .testInstruction ∧ ir ≠ 0x3FF ∧ ir ≠ Config.idcodeIr := by
  show Answers s (execTestAccessInstruction ir s) ∨ execTestAccessInstruction ir s = _ ∧ _
  unfold execTestAccessInstruction
  split
  · exact .inl (live_gated _ _).1
  · split
    · exact .inl (live_gated _ _).1
    · rename_i hi hb
      exact .inr ⟨rfl, fun h => hb (.inl h), hi⟩

/-! ## Burns (R480) -/

/-- What any number of burns may do to the fuses. -/
structure Burned (f g : Fuses) : Prop where
  svn : f.svn ≤ g.svn
  map : ∀ i, i < 864 → bitAt g.map i = true → bitAt f.map i = true
  groups : mapOk f.map = true → mapOk g.map = true
  trims : ∀ k, tabGet 0 f.trims k ≠ 0 → tabGet 0 g.trims k = tabGet 0 f.trims k
  rest : g = { f with svn := g.svn, map := g.map, trims := g.trims }

theorem Burned.refl (f : Fuses) : Burned f f := ⟨BitVec.le_refl _, fun _ _ h => h, id, fun _ _ => rfl, rfl⟩

/-- The bits of a field that is put, and those around it. -/
theorem getLsbD_putBits {w : Nat} (x : BitVec w) (lo n y i : Nat) :
    (putBits x lo n y).getLsbD i = if lo ≤ i ∧ i < lo + n then decide (i < w) && y.testBit (i - lo) else x.getLsbD i := by
  unfold putBits
  simp only [BitVec.getLsbD_or, BitVec.getLsbD_and, BitVec.getLsbD_not, BitVec.getLsbD_ofNat, Nat.testBit_mul_two_pow, Nat.testBit_two_pow_sub_one,
    Nat.testBit_mod_two_pow]
  by_cases hw : i < w
  · by_cases hlo : lo ≤ i
    · by_cases hn : i < lo + n
      · simp [hw, hlo, hn, show i - lo < n by omega]
      · simp [hw, hlo, hn, show ¬ i - lo < n by omega]
    · simp [hw, hlo]
  · simp [hw, BitVec.getLsbD_of_ge x i (Nat.le_of_not_lt hw)]

/-- A word of a vector that a write lowers bit by bit lowers the vector. -/
theorem bitAt_putReg_le {w : Nat} {x : BitVec w} {k : Nat} {v : W32} (h : v &&& ~~~wordOf x k = 0) {i : Nat} (hi : bitAt (putReg x k v) i = true) :
    bitAt x i = true := by
  unfold bitAt putReg at *
  rw [getLsbD_putBits] at hi
  split at hi
  · rename_i hin
    simp only [Bool.and_eq_true, decide_eq_true_eq] at hi
    have hv : v.getLsbD (i - 32 * k) = true := hi.2
    have hbit := congrArg (BitVec.getLsbD · (i - 32 * k)) h
    simpa [wordOf, bitsOf, hv, show i - 32 * k < 32 by omega, show 32 * k + (i - 32 * k) = i by omega] using hbit
  · exact hi

theorem burn_burned {f g : Fuses} {item : FuseItem} {v after : W32} (h : burn f item v = some (g, after)) : Burned f g := by
  unfold burn at h
  cases item with
  | mapWord k =>
    dsimp only at h
    split at h
    · cases h
    · rename_i hc
      cases h
      simp only [not_or, ne_eq, not_not, Bool.not_eq_true', Bool.not_eq_false] at hc
      exact { Burned.refl f with map := fun _ _ => bitAt_putReg_le hc.2.1, groups := fun _ => hc.2.2, rest := rfl }
  | svn =>
    dsimp only at h
    split at h
    · cases h
    · rename_i hc
      cases h
      exact { Burned.refl f with svn := by bv_omega, rest := rfl }
  | trim k =>
    dsimp only at h
    split at h
    · cases h
    · rename_i hc
      cases h
      refine { Burned.refl f with trims := fun j hj => ?_, rest := rfl }
      by_cases hk : j = k
      · subst hk
        rw [tabGet_set_same]
        exact (Decidable.not_not.mp fun hne => hc ⟨hj, hne⟩).symm
      · exact tabGet_set_other 0 v f.trims hk
  | other => cases h

@[simp] theorem reply_fuses (i : Nat) (mtype result : Byte) (body : List Byte) (s : State) : (reply i mtype result body s).fuses = s.fuses := rfl

@[simp] theorem sessEntry_fuses (type : Nat) (x : Session) (result : Byte) (fields : List (Nat × Nat × Nat)) (s : State) :
    (sessEntry type x result fields s).fuses = s.fuses := by
  obtain ⟨q, st, h, o, he⟩ := ledgerSession_frame type x.role.toNat result.toNat x.credId (detailOf fields) s
  unfold sessEntry
  rw [he]

/-- A session command changes a fuse only by what it does. -/
theorem command_fuses {P : Fuses → Prop} (i : Nat) (mtype : Byte) (right : Byte → Bool) (rec : Bool) (f : Session → State → State) (s : State)
    (hs : P s.fuses) (hf : ∀ x u, u.fuses = s.fuses → P (f x u).fuses) : P (command i mtype right rec f s).fuses := by
  unfold command withSession
  split
  · split
    · dsimp only
      split
      · exact hs
      · split
        · rw [reply_fuses, sessEntry_fuses]
          exact hs
        · exact hf _ _ rfl
    · exact hs
  · exact hs

theorem fuse_burned (i : Nat) (id : BitVec 16) (item : FuseItem) (v : W32) (s : State) : Burned s.fuses (fuse i id item v s).fuses := by
  refine command_fuses (P := Burned s.fuses) i 0x1B isMaker false _ s (Burned.refl _) fun x u hu => ?_
  split
  · rw [reply_fuses, hu]
    exact Burned.refl _
  · rename_i f after hb
    rw [reply_fuses, sessEntry_fuses]
    exact burn_burned (hu ▸ hb)

theorem burnSvn_burned (x : Session) (svn : Nat) (s : State) : Burned s.fuses (burnSvn x svn s).fuses := by
  unfold burnSvn takeFree
  dsimp only
  split
  · exact Burned.refl _
  · rw [sessEntry_fuses]
    exact { Burned.refl s.fuses with svn := by bv_omega, rest := rfl }

theorem modFw_fuses (b : Bool) (f : FwSlot → FwSlot) (s : State) : (modFw b f s).fuses = s.fuses := rfl

theorem fwConfirm_burned (i : Nat) (s : State) : Burned s.fuses (fwConfirm i s).fuses := by
  refine command_fuses (P := Burned s.fuses) i 0x17 isInstaller true _ s (Burned.refl _) fun x u hu => ?_
  split
  · rw [reply_fuses, hu]
    exact Burned.refl _
  · rw [reply_fuses]
    have hb := burnSvn_burned x (imgSvn (slotAt (modFw u.mgt.runB (fun y => { y with confirmed := true })
      (modMgt (fun m => { m with trial := false, trialLeft := 0, earlierB := u.mgt.runB }) u)) u.mgt.runB))
      (sessEntry 5 x resOk (fwFields (modFw u.mgt.runB (fun y => { y with confirmed := true })
        (modMgt (fun m => { m with trial := false, trialLeft := 0, earlierB := u.mgt.runB }) u)) 4 u.mgt.runB)
        (modFw u.mgt.runB (fun y => { y with confirmed := true }) (modMgt (fun m => { m with trial := false, trialLeft := 0, earlierB := u.mgt.runB }) u)))
    rw [sessEntry_fuses, modFw_fuses, modMgt_fuses, hu] at hb
    exact hb

theorem liveFuses_burned {s t : State} (h : Burned s.fuses t.fuses) :
    ∃ u, liveFuses s t = .next u ∧ u.pending = s.pending ∧ Burned s.fuses u.fuses := by
  refine ⟨_, rfl, ?_⟩
  split
  · exact ⟨rfl, h⟩
  · exact ⟨rfl, Burned.refl _⟩

/-! ## The obligations -/

/-- A command that is answered completes, leaves the queue, and burns at most (R480). -/
theorem exec_answered (s : State) (c : Instr) (h : Instr.answered c = true) :
    ∃ t, exec c s = .next t ∧ t.pending = s.pending ∧ Burned s.fuses t.fuses := by
  have kept {o : Out} (ho : Answers s o) : ∃ t, o = .next t ∧ t.pending = s.pending ∧ Burned s.fuses t.fuses := by
    obtain ⟨t, he, hp, hf⟩ := ho
    exact ⟨t, he, hp, hf ▸ Burned.refl _⟩
  unfold Instr.answered at h
  rw [Bool.and_eq_true] at h
  obtain ⟨hwf, htap⟩ := h
  cases hs : Instr.special c with
  | false =>
    have hg := exec_gated s c hs
    rw [hwf] at hg
    exact kept hg.1
  | true =>
    unfold Instr.special at hs
    split at hs
    · exact liveFuses_burned (fuse_burned _ _ _ _ s)
    · exact liveFuses_burned (fwConfirm_burned _ s)
    · rename_i ir
      simp only [Bool.or_eq_true, decide_eq_true_eq] at htap
      rcases testAccessInstruction_outcome ir s with ho | ⟨-, h1, h2⟩
      · exact kept ho
      · exact absurd htap (not_or.mpr ⟨h1, h2⟩)
    · exact kept (powerUp_answers _ _ s)
    · exact kept (inputRestored_answers _ _ s)
    · cases hs

/-- Settles O55: every command stands behind a gate that keeps the queue and the fuses, but for the two that burn, and a burn keeps 64 arrays
in each group. -/
theorem stepKeepsInv : Obligations.StepKeepsInv := by
  have hexec (s : State) (c : Instr) (hm : mapOk s.fuses.map = true) (hc : Instr.answered c = true) :
      ∃ t, exec c s = .next t ∧ mapOk t.fuses.map = true ∧ t.pending = s.pending := by
    obtain ⟨t, he, hp, hb⟩ := exec_answered s c hc
    exact ⟨t, he, hb.groups hm, hp⟩
  refine ⟨fun s ⟨hm, hq⟩ => ?_, hexec⟩
  unfold step
  cases hpend : s.pending with
  | nil => exact ⟨s, rfl, hm, hq⟩
  | cons c rest =>
    rw [hpend] at hq
    obtain ⟨t, he, hmt, hp⟩ := hexec { s with pending := rest } c hm (hq c (by simp))
    refine ⟨t, he, hmt, fun d hd => hq d (List.mem_cons_of_mem c ?_)⟩
    rw [hp] at hd
    exact hd

/-- Settles O54: no array is fused off after reset, and no command waits. -/
theorem resetHasInv : Obligations.ResetHasInv := ⟨by decide +kernel, fun _ h => nomatch h⟩

/-- Settles O57: the gate of a command refuses what does not exist. -/
theorem unitsThatDoNotExistAreRefused : Obligations.UnitsThatDoNotExistAreRefused := by
  intro s c hwf
  have hs : Instr.special c = false := by
    unfold Instr.special
    split
    · cases hwf
    · cases hwf
    · cases hwf
    · cases hwf
    · cases hwf
    · rfl
  have hg := exec_gated s c hs
  rw [hwf] at hg
  exact hg

/-- Settles O56: only two commands burn, and each burn lowers bits of the map, raises the SVN, or sets a trim that is 0. -/
theorem fusesOnlyBurn : Obligations.FusesOnlyBurn := by
  intro s t c he
  have hb : Burned s.fuses t.fuses ∧ ((∀ i id item v, c ≠ .fuse i id item v) → (∀ i, c ≠ .fwConfirm i) → t.fuses = s.fuses) := by
    have kept {o : Out} (ho : Answers s o) (he : o = .next t) : t.fuses = s.fuses := by
      obtain ⟨u, hu, -, hf⟩ := ho
      cases hu.symm.trans he
      exact hf
    have same (h : t.fuses = s.fuses) : Burned s.fuses t.fuses ∧ ((∀ i id item v, c ≠ .fuse i id item v) → (∀ i, c ≠ .fwConfirm i) → t.fuses = s.fuses) :=
      ⟨h ▸ Burned.refl _, fun _ _ => h⟩
    cases hs : Instr.special c with
    | false =>
      cases hwf : c.wf with
      | false =>
        obtain ⟨name, hn⟩ := unitsThatDoNotExistAreRefused s c hwf
        cases hn.symm.trans he
      | true =>
        have hg := exec_gated s c hs
        rw [hwf] at hg
        exact same (kept hg.1 he)
    | true =>
      unfold Instr.special at hs
      split at hs
      · rename_i i id item v
        obtain ⟨u, hu, -, hf⟩ := liveFuses_burned (fuse_burned i id item v s)
        cases hu.symm.trans he
        exact ⟨hf, fun hn => absurd rfl (hn i id item v)⟩
      · rename_i i
        obtain ⟨u, hu, -, hf⟩ := liveFuses_burned (fwConfirm_burned i s)
        cases hu.symm.trans he
        exact ⟨hf, fun _ hn => absurd rfl (hn i)⟩
      · rename_i ir
        rcases testAccessInstruction_outcome ir s with ho | ⟨hr, -⟩
        · exact same (kept ho he)
        · cases hr.symm.trans he
      · exact same (kept (powerUp_answers _ _ s) he)
      · exact same (kept (inputRestored_answers _ _ s) he)
      · cases hs
  obtain ⟨⟨hsvn, hmap, -, htrims, hrest⟩, hsame⟩ := hb
  refine ⟨hsvn, hmap, htrims, ?_, ?_, ?_, ?_, ?_, ?_, ?_, hsame⟩ <;> rw [hrest]

/-- While the regulators are off, only the two commands that start the module change it (R413). -/
theorem exec_unpowered {s t : State} {c : Instr} (h : s.pwr.powered = false) (he : exec c s = .next t) :
    t = s ∨ (∃ a b, c = .powerUp a b) ∨ (∃ mv b, c = .inputRestored mv b) := by
  have stays {o : Out} (ho : o = .next s) (he : o = .next t) : t = s := by
    cases ho.symm.trans he
    rfl
  have hburn (u : State) : liveFuses s u = .next s := by
    unfold liveFuses
    rw [if_neg (by rw [h]; decide)]
  cases hs : Instr.special c with
  | false =>
    have hg := exec_gated s c hs
    cases hwf : c.wf with
    | false =>
      obtain ⟨name, hn⟩ := unitsThatDoNotExistAreRefused s c hwf
      cases hn.symm.trans he
    | true =>
      rw [hwf] at hg
      exact .inl (stays (hg.2.1 h) he)
  | true =>
    unfold Instr.special at hs
    split at hs
    · exact .inl (stays (hburn _) he)
    · exact .inl (stays (hburn _) he)
    · rename_i ir
      change execTestAccessInstruction ir s = _ at he
      unfold execTestAccessInstruction at he
      split at he
      · exact .inl (stays ((live_gated s _).2.1 h) he)
      · split at he
        · exact .inl (stays ((live_gated s _).2.1 h) he)
        · cases he
    · exact .inr (.inl ⟨_, _, rfl⟩)
    · exact .inr (.inr ⟨_, _, rfl⟩)
    · cases hs

/-- In P4 a command that the core clock serves changes nothing (R415). -/
theorem exec_parked {s : State} {c : Instr} (h : s.pwr.node = 4) (hc : Instr.onCore c = true) (hwf : c.wf = true) : exec c s = .next s := by
  have hs : Instr.special c = false := by
    unfold Instr.special
    split
    · cases hc
    · cases hc
    · cases hc
    · cases hc
    · cases hc
    · rfl
  have hg := exec_gated s c hs
  rw [hwf, hc] at hg
  exact hg.2.2 rfl h

/-- Settles O52: it is what `step` says, on a queue with a command and on an empty one. -/
theorem stepRunsFrontCommand : Obligations.StepRunsFrontCommand := fun _ _ _ => ⟨rfl, rfl⟩

/-- Settles O53: each register named is evaluated in the one state after reset. -/
theorem resetRegisterValues : Obligations.ResetRegisterValues := by
  unfold Obligations.ResetRegisterValues
  decide +kernel

end Sys2Proof.Machine
end

section
/-! SUPPORT. Integer operations (R248): the value of a pattern under its type, and the operations that compare. -/

namespace Sys2Proof.Machine

open Sys2Proof

/-- The patterns of an integer type are of 32 or 64 bits. -/
theorem elemSize_int {dt : Nat} (h : dt < 4) : elemSize dt = if dt = 0 ∨ dt = 1 then 4 else 8 := by
  revert h
  revert dt
  decide

theorem intVal_unsigned {dt : Nat} (h : dt = 0 ∨ dt = 2) (size x : Nat) : intVal dt size x = x := by
  unfold intVal
  rw [if_neg (by omega)]

/-- A signed type reads a pattern as two's complement. -/
theorem intVal_signed {dt size x : Nat} (h : dt = 1 ∨ dt = 3) (hs : 0 < size) (hx : x < 2 ^ (8 * size)) :
    intVal dt size x = (BitVec.ofNat (8 * size) x).toInt := by
  have hpow : 2 ^ (8 * size) = 2 * 2 ^ (8 * size - 1) := by
    rw [← Nat.pow_succ']
    congr 1
    omega
  rw [BitVec.toInt_eq_toNat_cond, BitVec.toNat_ofNat, Nat.mod_eq_of_lt hx]
  unfold intVal
  by_cases hneg : 2 ^ (8 * size - 1) ≤ x
  · rw [if_pos ⟨h, hneg⟩, if_neg (by omega)]
    push_cast
    rfl
  · rw [if_neg fun hc => hneg hc.2, if_pos (by omega)]

/-- On an integer type, ADD wraps, and the remaining operations compare values. -/
theorem elemOp_int {dt : Nat} (h : dt < 4) (old x cmp : Nat) :
    elemOp 0 dt old x cmp = (old + x) % 2 ^ (8 * elemSize dt)
    ∧ elemOp 4 dt old x cmp = (if intVal dt (elemSize dt) x < intVal dt (elemSize dt) old then x else old)
    ∧ elemOp 5 dt old x cmp = (if intVal dt (elemSize dt) old < intVal dt (elemSize dt) x then x else old) := by
  have hnot : ¬ 4 ≤ dt := by omega
  refine ⟨?_, ?_, ?_⟩ <;> simp only [elemOp, Nat.reduceMod, if_neg hnot, if_true, reduceIte, Nat.reduceEqDiff]

/-- Settles O60: an unsigned type compares the patterns as numbers, a signed one as two's complement. -/
theorem integerOperations : Obligations.IntegerOperations := by
  intro dt old x cmp hdt n hold hx
  obtain ⟨hadd, hmin, hmax⟩ := elemOp_int hdt old x cmp
  have hpos : 0 < elemSize dt := by
    rw [elemSize_int hdt]
    split <;> decide
  refine ⟨?_, hadd, rfl, rfl, rfl, rfl, rfl, fun hu => ?_, fun hs => ?_⟩
  · show 8 * elemSize dt = _
    rw [elemSize_int hdt]
    split <;> rfl
  · rw [hmin, hmax, intVal_unsigned hu, intVal_unsigned hu]
    simp only [Nat.cast_lt]
    exact ⟨by split <;> omega, by split <;> omega⟩
  · rw [hmin, hmax, intVal_signed hs hpos hold, intVal_signed hs hpos hx]
    simp only [BitVec.slt, decide_eq_true_eq]
    exact ⟨rfl, rfl⟩

end Sys2Proof.Machine
end

section
/-! SUPPORT. Register writes under their own rows (R459-R512): the answer to one, from what the register's write does to the state. -/

namespace Sys2Proof.Machine

open Sys2Proof

/-! ## The fields of an operation's word -/

/-- An operation above an index, as a number. -/
theorem toNat_pack_op {lo a k : Nat} (hk : k < 2 ^ lo) : (pack [(lo, a), (0, k)]).toNat = (a * 2 ^ lo + k) % 2 ^ 32 := by
  have hor : a * 2 ^ lo + k = a * 2 ^ lo ||| k := by
    rw [← Nat.shiftLeft_eq, Nat.shiftLeft_add_eq_or_of_lt hk]
  rw [hor, Nat.or_mod_two_pow]
  simp [pack]

/-- The operation that the word names. -/
theorem pack_op {lo a k n : Nat} (hk : k < 2 ^ lo) (ha : a < 2 ^ n) (hn : lo + n ≤ 32) : (bitsOf (pack [(lo, a), (0, k)]) lo n).toNat = a := by
  have hlt : a * 2 ^ lo + k < 2 ^ 32 := calc
    a * 2 ^ lo + k < (a + 1) * 2 ^ lo := by rw [Nat.succ_mul]; omega
    _ ≤ 2 ^ n * 2 ^ lo := Nat.mul_le_mul_right _ ha
    _ = 2 ^ (lo + n) := by rw [← Nat.pow_add, Nat.add_comm]
    _ ≤ 2 ^ 32 := Nat.pow_le_pow_right (by decide) hn
  rw [bitsOf, BitVec.extractLsb'_toNat, toNat_pack_op hk, Nat.mod_eq_of_lt hlt, Nat.shiftRight_eq_div_pow, Nat.mul_comm,
    Nat.mul_add_div (Nat.two_pow_pos lo), Nat.div_eq_of_lt hk, Nat.add_zero, Nat.mod_eq_of_lt ha]

/-- The index that the word names. -/
theorem pack_index {lo a w : Nat} (k : BitVec w) (hw : w ≤ lo) (hlo : w ≤ 32) : (bitsOf (pack [(lo, a), (0, k.toNat)]) 0 w : BitVec w) = k := by
  have hk : k.toNat < 2 ^ lo := k.isLt.trans_le (Nat.pow_le_pow_right (by decide) hw)
  apply BitVec.eq_of_toNat_eq
  rw [bitsOf, BitVec.extractLsb'_toNat, toNat_pack_op hk, Nat.shiftRight_zero, Nat.mod_mod_of_dvd _ (Nat.pow_dvd_pow 2 hlo), Nat.add_mod,
    Nat.mod_eq_zero_of_dvd ((Nat.pow_dvd_pow 2 hw).mul_left a), Nat.zero_add, Nat.mod_mod, Nat.mod_eq_of_lt k.isLt]

/-! ## An answered WRITE -/

section Write
variable {s u : State} {i : Nat} {x : Session} {r : Reg} {off v : W32} {b rf : Bool}
  (hs : Serving s) (ho : HasSession s i x) (hr : regOf off.toNat = some r) (hm : mayWrite x.role r = true)
include hs ho hr hm

/-- A write that takes `s` to `u`, on whatever message counts, is answered so. -/
theorem live_write (hw : writeReg x.role r v (countIn i s) = ⟨countIn i u, rf, b⟩)
    (hfix : u.pending = s.pending ∧ u.fuses = s.fuses ∧ u.attachBuf = s.attachBuf := by exact ⟨rfl, rfl, rfl⟩) :
    ∃ t, live s (mahelWrite i off v s) = .next t ∧ Answered u t i (writeReply i u r b) :=
  write_row hs ho hr hm (congrArg Wrote.state hw) (congrArg Wrote.busy hw) hfix.1 hfix.2.1 hfix.2.2

theorem unit_write {ok : Bool} {unit : String} (hok : ok = true) (hw : writeReg x.role r v (countIn i s) = ⟨countIn i u, rf, b⟩)
    (hfix : u.pending = s.pending ∧ u.fuses = s.fuses ∧ u.attachBuf = s.attachBuf := by exact ⟨rfl, rfl, rfl⟩) :
    ∃ t, unitWrite ok unit i off v s = .next t ∧ Answered u t i (writeReply i u r b) := by
  rw [hok]
  exact live_write hs ho hr hm hw hfix

end Write

end Sys2Proof.Machine
end

section
/-! SUPPORT. Routing registers (R60, R163, R164, R185). -/

namespace Sys2Proof.Machine

open Sys2Proof

/-! ## What each register's write does -/

theorem planeCtlWrite_arm {s : State} (h : s.rte.planePending = false) :
    planeCtlWrite 0x40000000 s = wrote (modRte (fun r => { r with planePending := true, planeLatched := r.planeCommit }) s) := by
  unfold planeCtlWrite
  rw [if_neg (by decide), if_pos (by rw [h]; decide)]

theorem planeCtlWrite_cancel (also : Bool) (s : State) :
    planeCtlWrite (pack [(30, ofB also), (29, 1)]) s = wrote (modRte (fun r => { r with planePending := false }) s) :=
  if_pos (by cases also <;> decide)

theorem destWrite_inRange {s : State} (f : Nat) {v : W32} (hp : (bitsOf v 16 6).toNat ≤ leavesM1 s) (hl : isLeaf s = true → (bitsOf v 0 6).toNat < 32) :
    destWrite f v s = wrote (modRte (fun r => { r with dest := tabSet 0 r.dest f (v &&& 0x803F003F) }) s) :=
  if_neg (not_or.mpr ⟨by omega, fun h => Nat.not_le.mpr (hl h.1) h.2⟩)

/-- No TRUNK port loses its bit, so no queue is dropped. -/
theorem trunkEnWrite_keeping {s : State} (k : Nat) {v : W32}
    (h : ∀ p, isTrunk s p = true → bitAt s.rte.trunkEn p = true → bitAt (putBits s.rte.trunkEn (32 * k) 32 v.toNat) p = true) :
    trunkEnWrite k v s = wrote (modRte (fun r => { r with trunkEn := putBits r.trunkEn (32 * k) 32 v.toNat }) s) := by
  have hnone : ((List.range 64).filter fun p => isTrunk s p && bitAt s.rte.trunkEn p && !bitAt (putBits s.rte.trunkEn (32 * k) 32 v.toNat) p) = [] := by
    refine List.filter_eq_nil_iff.mpr fun p _ hp => ?_
    simp only [Bool.and_eq_true, Bool.not_eq_true'] at hp
    obtain ⟨⟨ht, hb⟩, hn⟩ := hp
    rw [h p ht hb] at hn
    cases hn
  show wrote (forEach ((List.range 64).filter fun p => isTrunk s p && bitAt s.rte.trunkEn p && !bitAt (putBits s.rte.trunkEn (32 * k) 32 v.toNat) p) _ _) = _
  rw [hnone]
  rfl

theorem cmapCtlWrite_start {s : State} {v : W32} (hv : bitAt v 31 = true) (ha : s.rte.cmapBase.toNat % 4096 = 0)
    (hf : s.rte.cmapBase.toNat + 0x4000 ≤ stackedSize) (he : s.rte.cmapEn = false) :
    cmapCtlWrite v s = wrote (modRte (fun r => { r with
      cmapPeriodUs := bitsOf v 0 16, cmapEn := true, cmapCfgErr := false, cmapCount := 0, cmapPorts := cmapFresh s
      cmapStart := s.tick.now, cmapRetx := 0, cmapTimeout := 0, cmapPeriods := 0 }) s) := by
  have hfits : ringFits s.rte.cmapBase 0x4000 = true := by simp [ringFits, ha, hf]
  unfold cmapCtlWrite
  rw [if_neg (by simp [hv]), if_neg (by simp [hfits]), if_neg (by simp [he])]
  rfl

/-- Settles O5: each row is a WRITE whose register takes the value. -/
theorem routingRegistersTakeEffect : Obligations.RoutingRegistersTakeEffect := by
  intro s i x v hs ho
  refine ⟨fun hr hp => ?_, fun also hr => ?_, fun f hf hr hp hl => ?_, fun k hk hr hkeep => ?_, fun hr hv ha hf he => ?_⟩
  · exact live_write hs ho rfl (may_both hr rfl) (planeCtlWrite_arm (s := countIn i s) hp)
  · exact live_write hs ho rfl (may_both hr rfl) (planeCtlWrite_cancel also (countIn i s))
  · exact unit_write hs ho (regOf_dest hf) (may_both hr rfl) (decide_eq_true hf) (destWrite_inRange (s := countIn i s) f hp hl)
  · exact unit_write hs ho (regOf_trunkEn hk) (may_both hr rfl) (decide_eq_true hk) (trunkEnWrite_keeping (s := countIn i s) k hkeep)
  · exact live_write hs ho rfl (may_operator hr rfl) (cmapCtlWrite_start (s := countIn i s) hv ha hf he)

end Sys2Proof.Machine
end

section
/-! SUPPORT. The settings that the FNID rests on (R22-R24, R31-R35, R59). -/

namespace Sys2Proof.Machine

open Sys2Proof

/-! ## What a message to a controller may change -/

/-- `t` is `s` but for end-point blocks, and for ports that left P1. -/
def EpsOnly (s t : State) : Prop := t = { s with eps := t.eps, pwr := { s.pwr with portState := t.pwr.portState } }

theorem EpsOnly.refl (s : State) : EpsOnly s s := rfl

theorem EpsOnly.parts {s t : State} (h : EpsOnly s t) : ∃ e w, t = { s with eps := e, pwr := { s.pwr with portState := w } } := ⟨_, _, h⟩

theorem EpsOnly.trans {s t u : State} (h : EpsOnly s t) (k : EpsOnly t u) : EpsOnly s u := by
  unfold EpsOnly at *
  rw [k, h]

theorem modEp_epsOnly (n : Nat) (f : Ep → Ep) (s : State) : EpsOnly s (modEp n f s) := rfl

theorem unrest_epsOnly (n : Nat) (s : State) : EpsOnly s (unrest n s) := by
  unfold unrest
  split <;> exact rfl

theorem epSend_epsOnly (n : Nat) (m : AttachMsg) (s : State) : EpsOnly s (epSend n m s) := by
  unfold epSend
  split
  · exact .refl s
  · split
    · exact modEp_epsOnly n _ s
    · exact (modEp_epsOnly n _ s).trans (unrest_epsOnly n _)

theorem sendSteer_epsOnly (n : Nat) (mk : Nat → AttachMsg) (s : State) : EpsOnly s (sendSteer n mk s) :=
  (modEp_epsOnly n _ s).trans (epSend_epsOnly n _ _)

theorem forEach_epsOnly {α : Type} {f : α → State → State} (hf : ∀ x s, EpsOnly s (f x s)) (l : List α) (s : State) : EpsOnly s (forEach l f s) := by
  induction l generalizing s with
  | nil => exact .refl s
  | cons x l ih => exact (hf x s).trans (ih (f x s))

theorem steerMapAll_epsOnly (s : State) : EpsOnly s (steerMapAll s) := by
  refine forEach_epsOnly (fun n u => ?_) _ s
  split
  · exact (sendSteer_epsOnly n _ u).trans (modEp_epsOnly n _ _)
  · exact .refl u

/-! ## Evaluation -/

/-- The evaluation sees the settings, the chain's address, and the boot step alone. -/
theorem evalFnid_glb_congr {a b : State} (hg : a.glb = b.glb) (hnv : a.mgt.nv = b.mgt.nv) (haddr : a.mgt.addr = b.mgt.addr)
    (hrack : a.mgt.rackSeen = b.mgt.rackSeen) (hadopted : a.mgt.adopted = b.mgt.adopted) : (evalFnid a).glb = (evalFnid b).glb := by
  have hcause : fnidCause a = fnidCause b := by
    show fnidCause { b with glb := a.glb, mgt := { b.mgt with
      nv := a.mgt.nv, addr := a.mgt.addr, rackSeen := a.mgt.rackSeen, adopted := a.mgt.adopted } } = _
    rw [hg, hnv, haddr, hrack, hadopted]
  unfold evalFnid
  rw [hcause, hnv]
  simp only [planesM1, slotFnid, planeIdx, hnv, haddr]
  split
  · simp only [modGlb_glb, hg]
  · split <;> simp only [modGlb_glb, hg]
  · simp only [modGlb_glb, hg]

/-- A state whose FNID was evaluated under its own settings stands. -/
theorem evalFnid_fixed {t y : State} (hg : t.glb = (evalFnid y).glb) (hnv : t.mgt.nv = y.mgt.nv) (haddr : t.mgt.addr = y.mgt.addr)
    (hrack : t.mgt.rackSeen = y.mgt.rackSeen) (hadopted : t.mgt.adopted = y.mgt.adopted) : evalFnid t = t := by
  have hmgt : (evalFnid y).mgt = y.mgt := by rw [evalFnid_frame]
  have h := evalFnid_glb_congr (a := t) (b := evalFnid y) hg (by rw [hmgt, hnv]) (by rw [hmgt, haddr]) (by rw [hmgt, hrack]) (by rw [hmgt, hadopted])
  rw [evalFnid_frame, h, evalFnid_idem, ← hg]

theorem evalFnid_keeps (s : State) : ((evalFnid s).pending = s.pending ∧ (evalFnid s).fuses = s.fuses ∧ (evalFnid s).attachBuf = s.attachBuf) := by
  rw [evalFnid_frame]
  exact ⟨rfl, rfl, rfl⟩

/-! ## The writes -/

/-- A plane map taken as the active and the staged one, and sent to the controllers. -/
def loadMap (m : BitVec 256) (s : State) : State :=
  steerMapAll (modRte (fun r => { r with planeMap := m, planeStage := m, planePending := false }) s)

theorem loadMap_parts (m : BitVec 256) (s : State) : ∃ e p, loadMap m s = { s with
    eps := e, pwr := { s.pwr with portState := p }, rte := { s.rte with planeMap := m, planeStage := m, planePending := false } } :=
  (steerMapAll_epsOnly _).parts

/-- The topology's settings with a value. -/
def topologyNv (v : W32) (s : State) : State := nvMod (fun n => { n with topology := v &&& 0xFFFFF800 }) s

/-- A topology write leaves the state with its map reloaded where the number of planes is new. -/
def topologySet (v : W32) (s : State) : State :=
  if planesM1 (topologyNv v s) = planesM1 s then topologyNv v s else loadMap (resetMap (planesM1 (topologyNv v s))) (topologyNv v s)

theorem topologyWrite_unlocked {s : State} (h : s.glb.locked = false) (v : W32) : topologyWrite v s = wrote (evalFnid (topologySet v s)) :=
  if_neg (by simp [h])

theorem topologySet_frame (v : W32) (s : State) :
    let u := topologySet v s
    u = { s with eps := u.eps, rte := u.rte, pwr := u.pwr, mgt := { s.mgt with nv := { s.mgt.nv with topology := v &&& 0xFFFFF800 } } }
      ∧ (planesM1 u = planesM1 s → u.rte = s.rte ∧ u.eps = s.eps)
      ∧ (planesM1 u ≠ planesM1 s →
        u.rte = { s.rte with planeMap := resetMap (planesM1 u), planeStage := resetMap (planesM1 u), planePending := false }) := by
  unfold topologySet
  by_cases h : planesM1 (topologyNv v s) = planesM1 s
  · rw [if_pos h]
    exact ⟨rfl, fun _ => ⟨rfl, rfl⟩, fun hne => absurd h hne⟩
  · rw [if_neg h]
    obtain ⟨e, p, hload⟩ := loadMap_parts (resetMap (planesM1 (topologyNv v s))) (topologyNv v s)
    generalize loadMap _ _ = w at hload ⊢
    have hplanes : planesM1 w = planesM1 (topologyNv v s) := by rw [hload]; rfl
    rw [← hplanes] at h hload
    dsimp only
    generalize resetMap (planesM1 w) = m at hload ⊢
    refine ⟨by rw [hload]; rfl, fun he => absurd he h, fun _ => by rw [hload]; rfl⟩

/-- A new value of the pin, with the step that it brings. -/
def pinSet (v : W32) (s : State) : State :=
  evalFnid (nvMod (fun n => { n with fnidPin := v &&& 0x80000FFF }) (if bitAt v 31 ∧ 5 ≤ s.glb.step.toNat then reachStep 6 s else s))

theorem fnidPinWrite_unlocked {s : State} (h : s.glb.locked = false) (v : W32) : fnidPinWrite v s = wrote (pinSet v s) := by
  have hbit : bitAt (v &&& 0x80000FFF) 31 = bitAt v 31 := by simp [bitAt]
  unfold fnidPinWrite pinSet
  rw [if_neg (by simp [h])]
  congr 2
  unfold pinStep
  rw [nvMod_nv, nvMod_glb]
  dsimp only
  rw [hbit]
  split <;> rfl

theorem pinSet_countIn (i : Nat) (v : W32) (s : State) : pinSet v (countIn i s) = countIn i (pinSet v s) := by
  unfold pinSet
  rw [← evalFnid_countIn]
  congr 1
  show nvMod _ (if bitAt v 31 = true ∧ 5 ≤ s.glb.step.toNat then reachStep 6 (countIn i s) else countIn i s) = _
  split <;> rfl

theorem pinSet_fixed (v : W32) (s : State) :
    (pinSet v s).pending = s.pending ∧ (pinSet v s).fuses = s.fuses ∧ (pinSet v s).attachBuf = s.attachBuf := by
  unfold pinSet
  rw [evalFnid_frame]
  dsimp only [nvMod_pending, nvMod_fuses, nvMod_attachBuf]
  split <;> exact ⟨rfl, rfl, rfl⟩

theorem rackIdWrite_unlocked {s : State} (h : s.glb.locked = false) (v : W32) :
    rackIdWrite v s = wrote (evalFnid (nvMod (fun n => { n with rackId := v &&& 0xFFFF }) s)) := if_neg (by simp [h])

/-- Settles O1: a locked setting is refused, and an unlocked one evaluates the FNID under the new value. -/
theorem fnidSettingsLockAndEvaluate : Obligations.FnidSettingsLockAndEvaluate := by
  intro s i x v hs ho hr
  cases hl : s.glb.locked with
  | true =>
    have topo := live_write (v := v) (b := false) (rf := true) (u := s) (off := 0x10) hs ho rfl (may_installer hr rfl) (if_pos hl)
    have pin := live_write (v := v) (b := false) (rf := true) (u := s) (off := 0x18) hs ho rfl (may_installer hr rfl) (if_pos hl)
    have rack := live_write (v := v) (b := false) (rf := true) (u := s) (off := 0x1C) hs ho rfl (may_installer hr rfl) (if_pos hl)
    obtain ⟨t, he, ha⟩ := topo
    exact ⟨⟨t, he, fun _ => ha, fun h => nomatch h⟩, pin, rack⟩
  | false =>
    refine ⟨?_, ?_, ?_⟩
    · obtain ⟨t, w, he, ht, hm, -⟩ := write_state (v := v) (off := 0x10) (r := .topology) hs ho rfl (may_installer hr rfl)
      have hwr : (writeReg x.role .topology v (countIn i s)).state = evalFnid (topologySet v (countIn i s)) :=
        congrArg Wrote.state (topologyWrite_unlocked (s := countIn i s) hl v)
      rw [hwr, evalFnid_frame] at ht hm
      obtain ⟨hframe, hsame, hnew⟩ := topologySet_frame v (countIn i s)
      generalize hy : topologySet v (countIn i s) = y at *
      have hnv : t.mgt.nv = y.mgt.nv := by rw [hm]
      have hplanes : planesM1 t = planesM1 y := by unfold planesM1; rw [hnv]
      have hynv : y.mgt.nv = { s.mgt.nv with topology := v &&& 0xFFFFF800 } := by rw [hframe]; rfl
      refine ⟨t, he, fun h => (nomatch h), fun _ => ⟨hnv.trans hynv, ?_, ?_, ?_, fun h => ?_, fun h => ?_⟩⟩
      · exact evalFnid_fixed (y := y) (by rw [ht]; rfl) hnv (by rw [hm]) (by rw [hm]) (by rw [hm])
      · rw [ht]
        show y.mem = s.mem
        rw [hframe]
        rfl
      · rw [ht]
        show y.swc = s.swc
        rw [hframe]
        rfl
      · rw [ht]
        exact hsame (hplanes.symm.trans h)
      · have hrte : t.rte = y.rte := by rw [ht]; rfl
        rw [hplanes] at h ⊢
        exact hrte.trans (hnew h)
    · exact live_write hs ho rfl (may_installer hr rfl) ((fnidPinWrite_unlocked (s := countIn i s) hl v).trans (congrArg wrote (pinSet_countIn i v s)))
        (pinSet_fixed v s)
    · exact live_write hs ho rfl (may_installer hr rfl) ((rackIdWrite_unlocked (s := countIn i s) hl v).trans (congrArg wrote (evalFnid_countIn i
        (nvMod (fun n => { n with rackId := v &&& 0xFFFF }) s)))) (evalFnid_keeps _)

end Sys2Proof.Machine
end

section
/-! SUPPORT. The window and identity registers of an end-point block (R36, R40-R44, R177). -/

namespace Sys2Proof.Machine

open Sys2Proof

theorem srcFnidWrite_taken {s : State} {n : Nat} {v : W32} (hf : (bitsOf v 0 12).toNat < 0x800 ∨ bitsOf v 0 12 = (0xFFF : BitVec 12))
    (hc : ctxsUsed (epOf s n).rel = 0) (hd : (epOf s n).descs = []) :
    srcFnidWrite n v s = wrote (modEp n (fun e => { e with srcFnid := bitsOf v 0 12 }) s) := by
  have haccel : (bitAt (bitsOf v 0 12 : BitVec 12) 11 && decide ((bitsOf v 0 12 : BitVec 12) ≠ 0xFFF)) = false := by
    rcases hf with hlt | heq
    · have hbit : bitAt (bitsOf v 0 12 : BitVec 12) 11 = false := by
        rw [bitAt, BitVec.getLsbD, Nat.testBit_lt_two_pow hlt]
      rw [hbit]
      rfl
    · rw [heq]
      rfl
  unfold srcFnidWrite
  exact if_neg (by rw [haccel, hc, hd]; decide)

section Window
variable {s : State} {n : Nat} (k : BitVec 10) (hb : (epOf s n).winBusy = false)
include hb

/-- WRITE, with no controller to tell. -/
theorem winCtlWrite_write (ha : steerActive (epOf s n) = false) : winCtlWrite n (pack [(26, 1), (0, k.toNat)]) s
    = started (let c := winCheck (modEp n (fun e => { e with winIndex := k }) s) n k (epOf s n).winData
        modEp n (fun e => { e with
          winIndex := k, winStatus := BitVec.ofNat 3 c, win := if c = 0 then tabSet 0 e.win k.toNat e.winData else e.win }) s) := by
  obtain ⟨hop, hidx, -⟩ := winCtl_read k
  unfold winCtlWrite
  rw [if_neg (by simp [hb])]
  simp only [hop, hidx]
  congr 1
  unfold winCommit
  simp only [epOf_modEp]
  generalize winCheck (modEp n (fun e => { e with winIndex := k }) s) n k (epOf s n).winData = c
  by_cases hc : c = 0
  · have hsteer (t : State) (ht : steerActive (epOf t n) = false) : steerWin n k t = t := if_neg (by simp [ht])
    rw [if_neg (by simp [hc]), hsteer _ (by simp only [epOf_modEp]; exact ha), modEp_modEp, modEp_modEp]
    simp only [if_pos hc]
    -- the entry staged in the block is the one that was checked
    unfold modEp tabMod
    rfl
  · rw [if_pos hc, modEp_modEp]
    simp only [if_neg hc]

theorem winCtlWrite_read : winCtlWrite n (pack [(26, 2), (0, k.toNat)]) s
    = started (modEp n (fun e => { e with winIndex := k, winStatus := 0, winData := tabGet 0 e.win k.toNat }) s) := by
  obtain ⟨-, -, hop, hidx, -⟩ := winCtl_read k
  unfold winCtlWrite
  rw [if_neg (by simp [hb])]
  simp only [hop, hidx, modEp_modEp]

omit hb in
/-- INVALIDATE, with no controller to tell, no descriptor and no ring. -/
theorem winInvalidate_alone (ha : steerActive (epOf s n) = false) (hd : (epOf s n).descs = []) (hr : (epOf s n).rings = []) :
    winInvalidate n k s = modEp n (fun e => { e with winStatus := 0, win := tabMod 0 e.win k.toNat (putBits · 127 1 0) }) s := by
  unfold winInvalidate
  generalize hu : modEp n _ s = u
  have hu' : epOf u n = { epOf s n with winStatus := 0, win := tabMod 0 (epOf s n).win k.toNat (putBits · 127 1 0) } := by
    rw [← hu, epOf_modEp]
  have hud : (epOf u n).descs = [] := by rw [hu', hd]
  dsimp only
  rw [hud]
  simp only [List.filter_nil, List.map_nil, forEach, List.foldl_nil]
  rw [epWork_idle hud (by rw [hu', hr])]
  have hua : steerActive (epOf u n) = false := by rw [hu']; exact ha
  exact if_neg (by simp [hua])

theorem winCtlWrite_invalidate (ha : steerActive (epOf s n) = false) (hd : (epOf s n).descs = []) (hr : (epOf s n).rings = []) :
    winCtlWrite n (pack [(26, 3), (0, k.toNat)]) s
      = started (modEp n (fun e => { e with winIndex := k, winStatus := 0, win := tabMod 0 e.win k.toNat (putBits · 127 1 0) }) s) := by
  obtain ⟨-, -, -, -, hop, hidx⟩ := winCtl_read k
  unfold winCtlWrite
  rw [if_neg (by simp [hb])]
  simp only [hop, hidx]
  rw [winInvalidate_alone k (by rw [epOf_modEp]; exact ha) (by rw [epOf_modEp]; exact hd) (by rw [epOf_modEp]; exact hr), modEp_modEp]

end Window

theorem retxCfgWrite_bounded {p : Point} {v : W32} (s : State)
    (h : retxBase v * (2 ^ (retxMax v + 1) - 1) + 1000 ≤ retxHold v * 1000) : retxCfgWrite p v s = wrote (modRel p (fun r => { r with retxCfg := v }) s) :=
  if_neg (by omega)

/-- Settles O2: each row is a WRITE whose register does its operation. -/
theorem endPointRegistersTakeEffect : Obligations.EndPointRegistersTakeEffect := by
  intro s i n x v k hs ho hr hn
  have ok : decide (n < 64) = true := decide_eq_true hn
  refine ⟨fun hf hc hd => ?_, fun hb ha => ?_, fun hb => ?_, fun hb ha hd hrings => ?_, fun p hp h => ?_⟩
  · exact unit_write hs ho (regOf_srcFnid hn) (may_both hr rfl) ok (srcFnidWrite_taken (s := countIn i s) hf hc hd)
  · exact unit_write hs ho (regOf_winCtl hn) (may_both hr rfl) ok (winCtlWrite_write (s := countIn i s) k hb ha)
  · exact unit_write hs ho (regOf_winCtl hn) (may_both hr rfl) ok (winCtlWrite_read (s := countIn i s) k hb)
  · exact unit_write hs ho (regOf_winCtl hn) (may_both hr rfl) ok (winCtlWrite_invalidate (s := countIn i s) k hb ha hd hrings)
  · rcases hp with rfl | rfl
    · exact live_write hs ho rfl (may_both hr rfl) (retxCfgWrite_bounded (p := .rte) (countIn i s) h)
    · exact unit_write hs ho (regOf_retxCfg hn) (may_both hr rfl) ok (retxCfgWrite_bounded (p := .ep n) (countIn i s) h)

end Sys2Proof.Machine
end

section
/-! SUPPORT. Switch and pool registers (R129-R133, R147, R150): what a change of the pool's settings leaves, and a WRITE that is denied. -/

namespace Sys2Proof.Machine

open Sys2Proof

/-! ## Applying thresholds (R132, R133) -/

theorem SettledOnly.refl (s : State) : SettledOnly s s := rfl

theorem SettledOnly.trans {s t u : State} (h : SettledOnly s t) (k : SettledOnly t u) : SettledOnly s u := by
  unfold SettledOnly at *
  rw [k, h]

theorem FaultOnly.settled {s t : State} (h : FaultOnly s t) : SettledOnly s t := by
  unfold FaultOnly at h
  unfold SettledOnly
  rw [h]

/-- What settling keeps of the pool: its cells, charges and settings. -/
theorem SettledOnly.pool_eq {s t : State} (h : SettledOnly s t) :
    t.pool = { s.pool with xoff := t.pool.xoff, portOff := t.pool.portOff, warn := t.pool.warn } := by
  unfold SettledOnly at h
  rw [h]

section Settled
variable {s t : State} (h : SettledOnly s t)
include h

theorem SettledOnly.poolCfg_eq (c : Nat) : poolCfg t c = poolCfg s c := by unfold poolCfg; rw [h.pool_eq]
theorem SettledOnly.poolThresh_eq (c : Nat) : poolThresh t c = poolThresh s c := by unfold poolThresh; rw [h.pool_eq]
theorem SettledOnly.poolLimit_eq (c : Nat) : poolLimit t c = poolLimit s c := by unfold poolLimit; rw [h.pool_eq]
theorem SettledOnly.portHeld_eq (p c : Nat) : portHeld t p c = portHeld s p c := by unfold portHeld; rw [h.pool_eq]
theorem SettledOnly.classFree_eq (c : Nat) : classFree t c = classFree s c := by
  unfold classFree poolSize classHeld
  rw [h.poolCfg_eq c, h.pool_eq]

end Settled

theorem settleClass_settled (c : Nat) (s : State) : SettledOnly s (settleClass c s) := by
  unfold settleClass
  dsimp only
  generalize (if classFree s c < (bitsOf (poolThresh s c) 0 10).toNat * 1024 then true
    else if (bitsOf (poolThresh s c) 10 10).toNat * 1024 ≤ classFree s c then false else tabGet false s.pool.xoff c) = x
  have hp : SettledOnly s (modPool (fun p => { p with
      xoff := tabSet false p.xoff c x, warn := tabSet false p.warn c (decide (classFree s c < (bitsOf (poolThresh s c) 20 10).toNat * 1024)) }) s) := rfl
  split
  · exact hp.trans (devFault_only _ _ _ _ _ _ _ _).settled
  · exact hp

/-- The class is OFF below its OFF threshold, and ON from its ON threshold. -/
theorem settleClass_xoff (c : Nat) (s : State) : tabGet false (settleClass c s).pool.xoff c =
    if classFree s c < (bitsOf (poolThresh s c) 0 10).toNat * 1024 then true
    else if (bitsOf (poolThresh s c) 10 10).toNat * 1024 ≤ classFree s c then false else tabGet false s.pool.xoff c := by
  unfold settleClass
  dsimp only
  split
  · rw [(devFault_only _ _ _ _ _ _ _ _).fields.2.2.2.2.1]
    exact tabGet_set_same _ _ _ _
  · exact tabGet_set_same _ _ _ _

/-- Settling an ingress changes its own bit of a class alone. -/
theorem settlePort_eq (c port : Nat) (s : State) : ∃ o, settlePort c port s = { s with pool := { s.pool with portOff := o } }
    ∧ (∀ k, k ≠ pcKey port c → tabGet false o k = tabGet false s.pool.portOff k)
    ∧ ((bitsOf (poolLimit s c) 16 16).toNat * 64 ≤ portHeld s port c → tabGet false o (pcKey port c) = true) := by
  refine ⟨_, rfl, fun k hk => tabGet_set_other _ _ _ hk, fun h => ?_⟩
  rw [tabGet_set_same, if_pos h]

theorem settlePorts_eq (c : Nat) (l : List Nat) (s : State) : ∃ o, forEach l (settlePort c) s = { s with pool := { s.pool with portOff := o } }
    ∧ ∀ p, (p ∈ l ∨ tabGet false s.pool.portOff (pcKey p c) = true) → (bitsOf (poolLimit s c) 16 16).toNat * 64 ≤ portHeld s p c →
      tabGet false o (pcKey p c) = true := by
  induction l generalizing s with
  | nil => exact ⟨_, rfl, fun p hp _ => hp.resolve_left (by simp)⟩
  | cons q l ih =>
    obtain ⟨o, ho, hother, hown⟩ := settlePort_eq c q s
    obtain ⟨o', ho', hset⟩ := ih (settlePort c q s)
    rw [ho] at ho' hset
    refine ⟨o', ?_, fun p hp hlim => hset p ?_ hlim⟩
    · show forEach l (settlePort c) (settlePort c q s) = _
      rw [ho, ho']
    · by_cases hq : p = q
      · subst hq
        exact .inr (hown hlim)
      · rcases hp with hp | hp
        · exact .inl ((List.mem_cons.mp hp).resolve_left hq)
        · refine .inr ((hother _ ?_).trans hp)
          unfold pcKey
          omega

theorem noteFlow_settled {f : State → State} {s : State} (h : SettledOnly s (f s)) : SettledOnly s (noteFlow f s) := by
  unfold noteFlow
  generalize f s = t at h ⊢
  exact h.trans rfl

theorem noteFlow_pool (f : State → State) (s : State) : (noteFlow f s).pool = (f s).pool := rfl

theorem poolRecheck_pool (c : Nat) (s : State) : (poolRecheck c s).pool = (forEach (List.range 128) (settlePort c) (settleClass c s)).pool :=
  noteFlow_pool _ s

theorem poolRecheck_settled (c : Nat) (s : State) : SettledOnly s (poolRecheck c s) := by
  obtain ⟨o, ho, -⟩ := settlePorts_eq c (List.range 128) (settleClass c s)
  have h1 : SettledOnly s (forEach (List.range 128) (settlePort c) (settleClass c s)) := by
    rw [ho]
    exact (settleClass_settled c s).trans rfl
  exact noteFlow_settled h1

theorem poolRecheck_xoff (c : Nat) (s : State) : tabGet false (poolRecheck c s).pool.xoff c = tabGet false (settleClass c s).pool.xoff c := by
  obtain ⟨o, ho, -⟩ := settlePorts_eq c (List.range 128) (settleClass c s)
  rw [poolRecheck_pool, ho]

theorem poolRecheck_portOff (c : Nat) (s : State) {p : Nat} (hp : p < 128) (h : (bitsOf (poolLimit s c) 16 16).toNat * 64 ≤ portHeld s p c) :
    tabGet false (poolRecheck c s).pool.portOff (pcKey p c) = true := by
  obtain ⟨o, ho, hset⟩ := settlePorts_eq c (List.range 128) (settleClass c s)
  rw [poolRecheck_pool, ho]
  have hs := settleClass_settled c s
  exact hset p (.inl (List.mem_range.mpr hp)) (by rw [hs.poolLimit_eq, hs.portHeld_eq]; exact h)

/-- The class and its ingresses stand as the thresholds say. -/
structure PoolFollows (t : State) (c : Nat) : Prop where
  off : classFree t c < (bitsOf (poolThresh t c) 0 10).toNat * 1024 → tabGet false t.pool.xoff c = true
  on : (bitsOf (poolThresh t c) 0 10).toNat * 1024 ≤ classFree t c → (bitsOf (poolThresh t c) 10 10).toNat * 1024 ≤ classFree t c →
    tabGet false t.pool.xoff c = false
  ports : ∀ p, p < 128 → (bitsOf (poolLimit t c) 16 16).toNat * 64 ≤ portHeld t p c → tabGet false t.pool.portOff (pcKey p c) = true

theorem poolRecheck_follows (c : Nat) (s : State) : PoolFollows (poolRecheck c s) c := by
  have h := poolRecheck_settled c s
  refine ⟨fun hlt => ?_, fun hge hon => ?_, fun p hp hlim => ?_⟩
  · rw [h.poolThresh_eq, h.classFree_eq] at hlt
    rw [poolRecheck_xoff, settleClass_xoff, if_pos hlt]
  · rw [h.poolThresh_eq, h.classFree_eq] at hge hon
    rw [poolRecheck_xoff, settleClass_xoff, if_neg (Nat.not_lt.mpr hge), if_pos hon]
  · rw [h.poolLimit_eq, h.portHeld_eq] at hlim
    exact poolRecheck_portOff c s hp hlim

/-! ## A pool register's WRITE -/

/-- A WRITE whose register changes a setting of class `c` by `g`. -/
theorem pool_write {s : State} {i c : Nat} {x : Session} {r : Reg} {off v : W32} {g : Pool → Pool} (hs : Serving s) (ho : HasSession s i x) (hc : c < 4)
    (hr : regOf off.toNat = some r) (hm : mayWrite x.role r = true) (hw : writeReg x.role r v (countIn i s) = wrote (poolRecheck c (modPool g (countIn i s)))) :
    ∃ t, unitWrite (decide (c < 4)) "class pool" i off v s = .next t ∧ t.mgt.nv = s.mgt.nv ∧ SettledOnly { modPool g s with mgt := t.mgt } t ∧ PoolFollows t c := by
  obtain ⟨t, w, he, ht, hmgt, -⟩ := write_state (v := v) hs ho hr hm
  rw [hw] at ht hmgt
  have hset := poolRecheck_settled c (modPool g (countIn i s))
  have hfol := poolRecheck_follows c (modPool g (countIn i s))
  dsimp only [wrote] at ht hmgt
  generalize poolRecheck c (modPool g (countIn i s)) = y at ht hmgt hset hfol
  refine ⟨t, ?_, ?_, ?_, ?_⟩
  · rw [decide_eq_true hc]
    exact he
  · rw [hmgt]
    unfold SettledOnly at hset
    rw [hset]
    rfl
  · unfold SettledOnly at hset ⊢
    rw [ht, hset]
    rfl
  · rw [ht]
    exact ⟨hfol.off, hfol.on, hfol.ports⟩

/-! ## A WRITE that is denied (R492, R493) -/

theorem denied_write {s : State} {i : Nat} {x : Session} {r : Reg} {off v : W32} (hs : Serving s) (ho : HasSession s i x)
    (hr : regOf off.toNat = some r) (hm : mayWrite x.role r = false) :
    ∃ t, live s (mahelWrite i off v s) = .next t ∧ Answered s t i ⟨i, 0x91, some resDenied, zeros 4⟩ := by
  have ha := sessEntry_reply i 0x11 resDenied (zeros 4) 3 x resDenied
    (writeFields off (peekReg (countIn i s) r) (peekReg (countIn i s) r) v ++ [(16, 1, 0x11)]) s
  obtain ⟨h1, h2, h3, -⟩ := ha.fixed
  refine ⟨_, ?_, ha⟩
  have hsv : served (countIn i s) r = true := by
    have hrec : (countIn i s).mgt.recovery = false := hs.2
    simp only [served, hrec, Bool.not_false, Bool.true_or]
  rw [live_next hs.1, mahelWrite, withSession_open ho, hr]
  dsimp only
  rw [if_neg (by simp [hsv]), if_pos (by simp [hm])]
  exact congrArg _ (keepFixed_self h1 h2 h3)

theorem may_not_both {x : Session} {r : Reg} (h1 : x.role ≠ 1) (h2 : x.role ≠ 2) (hw : writersOf r = .both) : mayWrite x.role r = false := by
  unfold mayWrite
  rw [hw]
  exact Bool.or_eq_false_iff.mpr ⟨decide_eq_false h1, decide_eq_false h2⟩

theorem may_not_operator {x : Session} {r : Reg} (h : x.role ≠ 1) (hw : writersOf r = .operator) : mayWrite x.role r = false := by
  unfold mayWrite
  rw [hw]
  exact decide_eq_false h

/-! ## What each register's write does -/

theorem mcastCtl_read (k : BitVec 12) :
    (bitsOf (pack [(27, 1), (0, k.toNat)]) 27 2).toNat = 1 ∧ (bitsOf (pack [(27, 1), (0, k.toNat)]) 0 12 : BitVec 12) = k
    ∧ (bitsOf (pack [(27, 2), (0, k.toNat)]) 27 2).toNat = 2 ∧ (bitsOf (pack [(27, 2), (0, k.toNat)]) 0 12 : BitVec 12) = k :=
  have hk : k.toNat < 2 ^ 27 := k.isLt.trans (by decide)
  ⟨pack_op hk (by decide) (by decide), pack_index k (by decide) (by decide), pack_op hk (by decide) (by decide), pack_index k (by decide) (by decide)⟩

/-- The mask that is staged has bits that no entry of the table may have (R147). -/
def MaskBad (s : State) : Prop :=
  bitsOf s.swc.mcastData 64 30 ≠ 0 ∨ (isSpine s = true ∧ 2 ^ (leavesM1 s + 1) ≤ (bitsOf s.swc.mcastData 0 64 : BitVec 64).toNat)

theorem mcastCtlWrite_good (k : BitVec 12) {s : State} (h : ¬ MaskBad s) : mcastCtlWrite (pack [(27, 1), (0, k.toNat)]) s
    = started (modSwc (fun w => { w with mcastIndex := k, mcastStatus := 0, mcast := tabSet 0 w.mcast k.toNat s.swc.mcastData }) s) := by
  obtain ⟨hop, hidx, -⟩ := mcastCtl_read k
  unfold mcastCtlWrite
  simp only [hop, hidx]
  rw [if_neg]
  · rfl
  · simp only [Bool.or_eq_true, Bool.and_eq_true, decide_eq_true_eq]
    exact h

theorem mcastCtlWrite_bad (k : BitVec 12) {s : State} (h : MaskBad s) : mcastCtlWrite (pack [(27, 1), (0, k.toNat)]) s
    = started (modSwc (fun w => { w with mcastIndex := k, mcastStatus := 1 }) s) := by
  obtain ⟨hop, hidx, -⟩ := mcastCtl_read k
  unfold mcastCtlWrite
  simp only [hop, hidx]
  rw [if_pos]
  · rfl
  · simp only [Bool.or_eq_true, Bool.and_eq_true, decide_eq_true_eq]
    exact h

theorem mcastCtlWrite_read (k : BitVec 12) (s : State) : mcastCtlWrite (pack [(27, 2), (0, k.toNat)]) s
    = started (modSwc (fun w => { w with mcastIndex := k, mcastStatus := 0, mcastData := tabGet 0 w.mcast k.toNat }) s) := by
  obtain ⟨-, -, hop, hidx⟩ := mcastCtl_read k
  unfold mcastCtlWrite
  simp only [hop, hidx]
  rfl

/-- A size and a base that the ring may have (R150). -/
def MirrorFits (s : State) (v : W32) : Prop :=
  10 ≤ mirLog2 (v &&& 0xFFFFE000) ∧ mirLog2 (v &&& 0xFFFFE000) ≤ 24 ∧ s.swc.mirrorBase.toNat % 4096 = 0
    ∧ s.swc.mirrorBase.toNat + 2 ^ mirLog2 (v &&& 0xFFFFE000) * 64 ≤ stackedSize

theorem mirrorFits_iff (s : State) (v : W32) : MirrorFits s v ↔ 10 ≤ mirLog2 (v &&& 0xFFFFE000) ∧ mirLog2 (v &&& 0xFFFFE000) ≤ 24
    ∧ ringFits s.swc.mirrorBase (2 ^ mirLog2 (v &&& 0xFFFFE000) * 64) = true := by
  simp [MirrorFits, ringFits]

section Mirror
variable {s : State} {v : W32}

theorem mirrorCtlWrite_running (h : mirEn s.swc.mirrorCtl = true) : mirrorCtlWrite v s
    = wrote (modSwc (fun w => { w with mirrorCtl := (w.mirrorCtl &&& 0x403E0000) ||| (v &&& 0xBFC1E000) }) s) := if_pos h

variable (h : mirEn s.swc.mirrorCtl = false)
include h

theorem mirrorCtlWrite_off (hv : bitAt v 31 = false) : mirrorCtlWrite v s = wrote (modSwc (fun w => { w with mirrorCtl := v &&& 0xFFFFE000 }) s) := by
  unfold mirrorCtlWrite
  rw [if_neg (by simp [h]), if_pos (by simp [hv])]

theorem mirrorCtlWrite_start (hv : bitAt v 31 = true) (hf : MirrorFits s v) : mirrorCtlWrite v s = wrote (modSwc (fun w => { w with
    mirrorCtl := v &&& 0xFFFFE000, mirrorProd := 0, mirrorCons := 0, mirrorCfgErr := false, mirrorSeen := 0 }) s) := by
  unfold mirrorCtlWrite
  rw [if_neg (by simp [h]), if_neg (by simp [hv]), if_pos ((mirrorFits_iff s v).mp hf)]

theorem mirrorCtlWrite_misfit (hv : bitAt v 31 = true) (hf : ¬ MirrorFits s v) : mirrorCtlWrite v s = wrote (modSwc (fun w => { w with
    mirrorCtl := putBits (v &&& 0xFFFFE000) 31 1 0, mirrorCfgErr := true }) s) := by
  unfold mirrorCtlWrite
  rw [if_neg (by simp [h]), if_neg (by simp [hv]), if_neg fun hc => hf ((mirrorFits_iff s v).mpr hc)]

end Mirror

theorem poolSizes_sum (c : Nat) (a : Nat) (s : State) :
    ((List.range 4).map fun d => if d = c then a else poolSize s d).sum = (if 0 = c then a else poolSize s 0) + (if 1 = c then a else poolSize s 1)
      + (if 2 = c then a else poolSize s 2) + (if 3 = c then a else poolSize s 3) := by
  simp only [List.range, List.range.loop, List.map_cons, List.map_nil, List.sum_cons, List.sum_nil]
  omega

/-- The default of a table matters to the reading alone. -/
theorem tabGet_set_other_default {α : Type} [DecidableEq α] (d e x : α) (t : Tab α) {k j : Nat} (h : j ≠ k) :
    tabGet e (tabSet d t k x) j = tabGet e t j := by
  unfold tabSet
  split
  · exact tabGet_del_other e t h
  · rw [tabGet_put_other e x _ h, tabGet_del_other e t h]

/-- Settles O4: each row is a WRITE whose register takes the value, or keeps its own, or is denied. -/
theorem switchAndPoolRegistersTakeEffect : Obligations.SwitchAndPoolRegistersTakeEffect := by
  intro s i x v k hs ho
  refine ⟨fun hr => ⟨fun hbad => ?_, fun hbad => ?_, ?_⟩, fun hr => ⟨fun he => ?_, fun he hv => ?_, fun he hv hf => ?_, fun he hv hf => ?_⟩,
    fun c hc hr => ⟨fun hsum => ?_, fun hsum => ?_, fun hrise => ?_, fun hrise => ?_, fun hspan => ?_, fun hspan => ?_⟩, fun go hgo => ?_⟩
  · exact live_write hs ho rfl (may_both hr rfl) (mcastCtlWrite_good k (s := countIn i s) hbad)
  · exact live_write hs ho rfl (may_both hr rfl) (mcastCtlWrite_bad k (s := countIn i s) hbad)
  · exact live_write hs ho rfl (may_both hr rfl) (mcastCtlWrite_read k (countIn i s))
  · exact live_write hs ho rfl (may_operator hr rfl) (mirrorCtlWrite_running (s := countIn i s) he)
  · exact live_write hs ho rfl (may_operator hr rfl) (mirrorCtlWrite_off (s := countIn i s) he hv)
  · exact live_write hs ho rfl (may_operator hr rfl) (mirrorCtlWrite_start (s := countIn i s) he hv hf)
  · exact live_write hs ho rfl (may_operator hr rfl) (mirrorCtlWrite_misfit (s := countIn i s) he hv hf)
  · rw [poolSizes_sum] at hsum
    obtain ⟨t, he, hnv, hset, hfol⟩ := pool_write (g := fun p => { p with classCfg := tabSet (poolCfgReset c) p.classCfg c (v &&& 0x3FFFFF) })
      (off := offOf 0x05000000 (4 * c)) (v := v) hs ho hc (regOf_classCfg hc) (may_both hr rfl) (if_neg (Nat.not_lt.mpr hsum))
    have hcfg : t.pool.classCfg = tabSet (poolCfgReset c) s.pool.classCfg c (v &&& 0x3FFFFF) := by rw [hset.pool_eq]; rfl
    refine ⟨t, he, ?_, fun d hd => ?_, hnv, ?_, hfol.off, hfol.on, hfol.ports⟩
    · rw [poolCfg, hcfg, tabGet_set_same]
    · rw [poolCfg, hcfg, tabGet_set_other_default _ _ _ _ hd, poolCfg]
    · rw [hcfg]
      exact hset
  · rw [poolSizes_sum] at hsum
    exact unit_write (u := s) (rf := true) hs ho (regOf_classCfg hc) (may_both hr rfl) (decide_eq_true hc) (if_pos hsum)
  · obtain ⟨t, he, hnv, hset, hfol⟩ := pool_write (g := fun p => { p with thresh := tabSet (poolThreshReset c) p.thresh c (v &&& 0x3FFFFFFF) })
      (off := offOf 0x05000010 (4 * c)) (v := v) hs ho hc (regOf_thresh hc) (may_both hr rfl) (if_pos hrise)
    have hth : t.pool.thresh = tabSet (poolThreshReset c) s.pool.thresh c (v &&& 0x3FFFFFFF) := by rw [hset.pool_eq]; rfl
    refine ⟨t, he, ?_, fun d hd => ?_, hnv, ?_, hfol.off, hfol.on, hfol.ports⟩
    · rw [poolThresh, hth, tabGet_set_same]
    · rw [poolThresh, hth, tabGet_set_other_default _ _ _ _ hd, poolThresh]
    · rw [hth]
      exact hset
  · exact unit_write (u := s) (rf := true) hs ho (regOf_thresh hc) (may_both hr rfl) (decide_eq_true hc) (if_neg hrise)
  · obtain ⟨t, he, hnv, hset, hfol⟩ := pool_write (g := fun p => { p with portLimit := tabSet poolLimitReset p.portLimit c v })
      (off := offOf 0x05000020 (4 * c)) (v := v) hs ho hc (regOf_portLimit hc) (may_both hr rfl) (if_neg (BitVec.not_lt.mpr hspan))
    have hlim : t.pool.portLimit = tabSet poolLimitReset s.pool.portLimit c v := by rw [hset.pool_eq]; rfl
    refine ⟨t, he, ?_, fun d hd => ?_, hnv, ?_, hfol.off, hfol.on, hfol.ports⟩
    · rw [poolLimit, hlim, tabGet_set_same]
    · rw [poolLimit, hlim, tabGet_set_other_default _ _ _ _ hd, poolLimit]
    · rw [hlim]
      exact hset
  · exact unit_write (u := s) (rf := true) hs ho (regOf_portLimit hc) (may_both hr rfl) (decide_eq_true hc) (if_pos (BitVec.not_le.mp hspan))
  · rcases hgo with ⟨hgo, h1, h2⟩ | ⟨rfl, h1⟩ | ⟨c, hc, hgo, h1, h2⟩
    · simp only [List.mem_cons, List.not_mem_nil, or_false] at hgo
      rcases hgo with rfl | rfl
      · exact denied_write (r := .mcastCtl) hs ho rfl (may_not_both h1 h2 rfl)
      · exact denied_write (r := .mcastCtl) hs ho rfl (may_not_both h1 h2 rfl)
    · exact denied_write (r := .mirrorCtl) hs ho rfl (may_not_operator h1 rfl)
    · have denied {r : Reg} {off : W32} (hreg : regOf off.toNat = some r) (hw : writersOf r = .both) :
          ∃ t, unitWrite (decide (c < 4)) "class pool" i off v s = .next t ∧ Answered s t i ⟨i, 0x91, some resDenied, zeros 4⟩ := by
        rw [decide_eq_true hc]
        exact denied_write hs ho hreg (may_not_both h1 h2 hw)
      simp only [List.mem_cons, List.not_mem_nil, or_false] at hgo
      rcases hgo with rfl | rfl | rfl
      · exact denied (regOf_classCfg hc) rfl
      · exact denied (regOf_thresh hc) rfl
      · exact denied (regOf_portLimit hc) rfl

end Sys2Proof.Machine
end

section
/-! SUPPORT. Lane and port registers (R443-R446, R500). -/

namespace Sys2Proof.Machine

open Sys2Proof

/-! ## LANE_PROFILE -/

theorem noteTable_only (s : State) : FaultOnly s (noteTable s) := by
  unfold noteTable
  split
  · exact devFault0_only _ _ _ _ _
  · exact FaultOnly.refl _

theorem tableErr_congr {s t : State} (h : t.mgt.nv = s.mgt.nv) : tableErr t = tableErr s := by
  unfold tableErr selectedProfile
  rw [h]

theorem noteTable_recorded {s : State} (h : tableErr s = true) (hl : s.glb.faults.length < 1024) :
    Recorded (noteTable s) 0xB3 sevError s.mgt.nv.profileId.toNat := by
  unfold noteTable
  rw [if_pos h]
  exact devFault0_recorded _ _ _ _ _ hl

/-! ## LANE_EYE_CTL -/

/-- What is counted as a free value does not show. -/
theorem Answered.of_freeCount {s t : State} {i k : Nat} {r : Reply} (h : Answered { s with freeCount := k } t i r) : Answered s t i r :=
  ⟨h.frame, h.mgt, h.counted, h.others⟩

theorem bitAt_or (v m : W32) (j : Nat) : bitAt (v ||| m) j = (bitAt v j || bitAt m j) := BitVec.getLsbD_or

/-- A bit above the fields does not change them. -/
theorem and_or_disjoint {v m c : W32} (h : m &&& c = 0) : (v ||| m) &&& c = v &&& c := by
  ext j hj
  have hj' := congrArg (fun x : W32 => x.getLsbD j) h
  simp only [BitVec.getLsbD_and, BitVec.ofNat_eq_ofNat, BitVec.getLsbD_zero] at hj'
  simp only [BitVec.getElem_and, BitVec.getElem_or]
  rw [← BitVec.getLsbD_eq_getElem, ← BitVec.getLsbD_eq_getElem, ← BitVec.getLsbD_eq_getElem, Bool.and_or_distrib_right, hj', Bool.or_false]

theorem bitsOf_or_below (v m : W32) {lo n : Nat} (h : (bitsOf m lo n : BitVec n) = 0) : bitsOf (v ||| m) lo n = bitsOf v lo n := by
  unfold bitsOf at *
  rw [BitVec.extractLsb'_or, h]
  exact BitVec.or_zero

theorem eyeCtlWrite_start {s : State} {v : W32} (h30 : bitAt v 30 = false) (hb : s.lanes.eyeBusy = false) :
    ∃ cut, eyeCtlWrite (v ||| 0x80000000) s = wrote (modLanes (fun l => { l with
      eyeCtl := v &&& 0x3FFFFFFF, eyeLane := bitsOf v 22 8
      eyeBusy := decide ((portOf s ((bitsOf v 22 8 : Byte).toNat / 4)).state = .traffic) && !(portOf s ((bitsOf v 22 8 : Byte).toNat / 4)).quiet
      eyeAborted := !(decide ((portOf s ((bitsOf v 22 8 : Byte).toNat / 4)).state = .traffic) && !(portOf s ((bitsOf v 22 8 : Byte).toNat / 4)).quiet)
      eyeErrs := 0, eyeCut := cut }) { s with freeCount := s.freeCount + 1 }) := by
  have e30 : bitAt (v ||| 0x80000000) 30 = false := by rw [bitAt_or, h30]; decide
  have e31 : bitAt (v ||| 0x80000000) 31 = true := by rw [bitAt_or, Bool.or_eq_true]; exact .inr (by decide)
  unfold eyeCtlWrite
  rw [and_or_disjoint (by decide), bitsOf_or_below v 0x80000000 (by decide), e30, e31]
  simp only [Bool.false_and, Bool.false_eq_true, if_false]
  rw [if_neg (by simp [modLanes, hb])]
  exact ⟨_, rfl⟩

theorem eyeCtlWrite_abort {s : State} (hb : s.lanes.eyeBusy = true) :
    eyeCtlWrite (s.lanes.eyeCtl ||| 0x40000000) s = wrote (modLanes (fun l => { l with
      eyeCtl := (l.eyeCtl ||| 0x40000000) &&& 0x3FFFFFFF, eyeBusy := false, eyeAborted := true, eyeErrs := l.eyeCut }) s) := by
  have e30 : bitAt (s.lanes.eyeCtl ||| 0x40000000) 30 = true := by rw [bitAt_or, Bool.or_eq_true]; exact .inr (by decide)
  unfold eyeCtlWrite
  rw [e30]
  simp only [Bool.true_and, Bool.or_true, Bool.true_or, if_true]
  rw [if_pos (by exact hb)]
  rfl

/-! ## PORT[n]_CFG -/

/-- A port that takes a PERS: out of traffic, its block emptied where it is EDGE no more, and the setting. -/
def persTaken (n : Nat) (pers : BitVec 2) (s : State) : State :=
  let old : BitVec 2 := tabGet 0 s.mgt.nv.pers n
  let s := quitTraffic n s
  let s := if old = 1 ∧ pers ≠ 1 then emptyEp n s else s
  if pers = old then s else nvMod (fun x => { x with pers := tabSet 0 x.pers n pers }) s

/-- The state that it starts in. -/
def startState (pers : BitVec 2) : PortState := if pers = 1 ∨ pers = 2 then .reset else .disabled

theorem portCfgWrite_starts {n : Nat} {installer : Bool} {v : W32} {s : State} {pers : BitVec 2}
    (hp : (if installer then bitsOf v 30 2 else tabGet 0 s.mgt.nv.pers n) = pers) (h : pers ≠ tabGet 0 s.mgt.nv.pers n ∨ bitAt v 29 = true) :
    portCfgWrite n installer v s = wrote (forgetPort n (startState pers) (some causeAdmin) (persTaken n pers s)) := by
  unfold portCfgWrite
  dsimp only
  rw [hp]
  exact if_pos h

theorem portCfgWrite_same {n : Nat} {installer : Bool} {v : W32} {s : State}
    (hp : (if installer then bitsOf v 30 2 else tabGet 0 s.mgt.nv.pers n) = tabGet 0 s.mgt.nv.pers n) (h : bitAt v 29 = false) :
    portCfgWrite n installer v s = wrote s := by
  unfold portCfgWrite
  dsimp only
  rw [hp]
  exact if_neg (by simp [h])

/-- A new PERS is in the settings. -/
theorem persTaken_pers {n : Nat} {pers : BitVec 2} {s : State} (h : pers ≠ tabGet 0 s.mgt.nv.pers n) :
    tabGet 0 (persTaken n pers s).mgt.nv.pers n = pers := by
  unfold persTaken
  dsimp only
  rw [if_neg h]
  exact tabGet_set_same 0 pers _ n

/-- Where the block has nothing to give up, only the setting changes. -/
theorem persTaken_alone {n : Nat} {pers : BitVec 2} {s : State} (ht : (portOf s n).state ≠ .traffic)
    (he : ¬ ((tabGet 0 s.mgt.nv.pers n : BitVec 2) = 1 ∧ pers ≠ 1)) :
    persTaken n pers s = if pers = tabGet 0 s.mgt.nv.pers n then s else nvMod (fun x => { x with pers := tabSet 0 x.pers n pers }) s := by
  have hq : quitTraffic n s = s := if_neg ht
  unfold persTaken
  dsimp only
  rw [hq, if_neg he]

/-- A port that starts again: through RESET or DISABLED, by its PERS, with cause ADMIN. -/
def Starts (t : State) (n pers : Nat) : Prop :=
  (portOf t n).state = (if pers = 1 ∨ pers = 2 then .reset else .disabled)
    ∧ (portOf t n).cause = causeAdmin ∧ (portOf t n).keys = none ∧ (portOf t n).peerFnid = 0xFFF ∧ (portOf t n).enc = false
    ∧ (portOf t n).quiet = false ∧ (∀ l, l / 4 = n → (laneAt t l).markLock = false ∧ (laneAt t l).cdrLock = false)

theorem startState_eq (pers : BitVec 2) : startState pers = if pers.toNat = 1 ∨ pers.toNat = 2 then .reset else .disabled := by
  revert pers; decide

theorem forgetPort_starts (n : Nat) (pers : BitVec 2) (s : State) {t : State}
    (ht : t.lanes = (forgetPort n (startState pers) (some causeAdmin) s).lanes) : Starts t n pers.toNat := by
  obtain ⟨hport, -, hlane, -, -⟩ := forgetPort_all n (startState pers) (some causeAdmin) s
  have hp : portOf t n = forgotten (startState pers) (some causeAdmin) (portOf s n) := by rw [← hport]; unfold portOf; rw [ht]
  have hl : ∀ l, l / 4 = n → laneAt t l = unlockedLane (laneAt s l) := fun l k => by rw [← hlane l k]; unfold laneAt; rw [ht]
  unfold Starts
  rw [hp, ← startState_eq]
  exact ⟨rfl, rfl, rfl, rfl, rfl, rfl, fun l k => by rw [hl l k]; exact ⟨rfl, rfl⟩⟩

section PortCfg
variable {s : State} {i n : Nat} {x : Session} {v : W32} {pers : BitVec 2} (hs : Serving s) (ho : HasSession s i x) (hn : n < 64)
  (hp : (if decide (x.role = 2) then bitsOf v 30 2 else tabGet 0 s.mgt.nv.pers n) = pers)
  (h : pers ≠ tabGet 0 s.mgt.nv.pers n ∨ bitAt v 29 = true) (hrole : x.role = 1 ∨ x.role = 2)
include hs ho hn hp h hrole

/-- A write of PORT[n]_CFG that starts the port. -/
theorem portCfg_started :
    ∃ t, exec (.portCfgWrite i n v) s = .next t ∧ Starts t n pers.toNat
      ∧ t.mgt.nv = (persTaken n pers (countIn i s)).mgt.nv
      ∧ ((portOf s n).state ≠ .traffic → ¬ ((tabGet 0 s.mgt.nv.pers n : BitVec 2) = 1 ∧ pers ≠ 1) →
        (∀ m, m ≠ n → portOf t m = portOf s m) ∧ t = { s with mgt := t.mgt, lanes := t.lanes, freeCount := t.freeCount }) := by
  obtain ⟨t, w, he, hf, hm, -⟩ := write_state (v := v) hs ho (regOf_portCfg hn) (may_both hrole rfl)
  have hw : writeReg x.role (.portCfg n) v (countIn i s) = wrote (forgetPort n (startState pers) (some causeAdmin) (persTaken n pers (countIn i s))) :=
    portCfgWrite_starts (s := countIn i s) hp h
  rw [hw] at hf hm
  have hex : exec (.portCfgWrite i n v) s = .next t := by
    show unitWrite (decide (n < 64)) "port" i (offOf 0x02000000 (0x10 * n)) v s = _
    rw [decide_eq_true hn]
    exact he
  obtain ⟨-, hothers, -, -, hframe⟩ := forgetPort_all n (startState pers) (some causeAdmin) (persTaken n pers (countIn i s))
  simp only [wrote] at hf hm
  refine ⟨t, hex, forgetPort_starts n pers _ (by rw [hf]; rfl), ?_, fun ht hempty => ?_⟩
  · rw [hm, hframe]
  · have ht' : (portOf (countIn i s) n).state ≠ .traffic := ht
    have halone := persTaken_alone (s := countIn i s) (pers := pers) ht' hempty
    have hparts : ∃ m, persTaken n pers (countIn i s) = { s with mgt := m } := by
      rw [halone]
      split <;> exact ⟨_, rfl⟩
    obtain ⟨m, hm'⟩ := hparts
    rw [hm'] at hf hothers hframe
    have hl : t.lanes = (forgetPort n (startState pers) (some causeAdmin) { s with mgt := m }).lanes := by rw [hf]; rfl
    refine ⟨fun k hk => ?_, ?_⟩
    · have := hothers k hk
      unfold portOf at *
      rw [hl]
      exact this
    · obtain ⟨l, hl⟩ : ∃ l, forgetPort n (startState pers) (some causeAdmin) { s with mgt := m } = { s with mgt := m, lanes := l } := ⟨_, hframe⟩
      rw [hl] at hf
      rw [hf]
      rfl

end PortCfg

/-- Settles O3: each row is a WRITE, whose register's effect on lanes and port is one of the cases above. -/
theorem laneAndPortRegistersTakeEffect : Obligations.LaneAndPortRegistersTakeEffect := by
  intro s i n x v hs ho hn
  refine ⟨fun hr => ?_, fun hr hb h30 => ?_, fun hr hb => ?_, fun errs lost hb => ?_, ⟨fun hr hp => ?_, fun hr => ?_⟩, fun hr hp h29 => ?_⟩
  · obtain ⟨t, w, he, hf, hm, -⟩ := write_state (v := v) (off := 0x01002000) hs ho (r := .laneProfile) rfl (may_installer hr rfl)
    have honly : FaultOnly (nvMod (fun n => { n with profileId := bitsOf v 0 16 }) (countIn i s))
        (noteTable (nvMod (fun n => { n with profileId := bitsOf v 0 16 }) (countIn i s))) := noteTable_only _
    have hnv : t.mgt.nv = { s.mgt.nv with profileId := bitsOf v 0 16 } := by
      rw [hm]
      show (noteTable (nvMod (fun n => { n with profileId := bitsOf v 0 16 }) (countIn i s))).mgt.nv = _
      rw [honly]
      rfl
    refine ⟨t, he, hnv, ?_, fun herr hl => ?_⟩
    · have hf' : t = { keepFixed s (noteTable (nvMod (fun n => { n with profileId := bitsOf v 0 16 }) (countIn i s))) with
        mgt := t.mgt, freeCount := t.freeCount } := hf
      rw [honly] at hf'
      rw [hf']
      rfl
    · have hrec := noteTable_recorded (s := nvMod (fun n => { n with profileId := bitsOf v 0 16 }) (countIn i s))
        (by rw [← herr]; exact (tableErr_congr (by rw [hnv]; rfl)).symm) hl
      have hg : t.glb = (noteTable (nvMod (fun n => { n with profileId := bitsOf v 0 16 }) (countIn i s))).glb := by rw [hf]; rfl
      unfold Recorded at *
      rw [hg, hnv]
      exact hrec
  · obtain ⟨cut, hw⟩ := eyeCtlWrite_start (s := countIn i s) h30 hb
    refine ⟨cut, ?_⟩
    obtain ⟨t, he, ha⟩ := live_write (u := { modLanes (fun l => { l with
        eyeCtl := v &&& 0x3FFFFFFF, eyeLane := bitsOf v 22 8
        eyeBusy := decide ((portOf s ((bitsOf v 22 8 : Byte).toNat / 4)).state = .traffic) && !(portOf s ((bitsOf v 22 8 : Byte).toNat / 4)).quiet
        eyeAborted := !(decide ((portOf s ((bitsOf v 22 8 : Byte).toNat / 4)).state = .traffic) && !(portOf s ((bitsOf v 22 8 : Byte).toNat / 4)).quiet)
        eyeErrs := 0, eyeCut := cut }) s with freeCount := s.freeCount + 1 }) (off := 0x01002004) hs ho (r := .eyeCtl) rfl (may_both hr rfl) hw
    exact ⟨t, he, ha.of_freeCount⟩
  · exact live_write hs ho rfl (may_both hr rfl) (eyeCtlWrite_abort (s := countIn i s) hb)
  · show live s (eyeScanDone errs lost s) = _
    rw [live_next hs.1, eyeScanDone, if_pos hb]
    rfl
  · obtain ⟨t, he, hstart, hnv, halone⟩ := portCfg_started (v := v) (pers := bitsOf v 30 2) hs ho hn (if_pos (decide_eq_true hr)) (.inl hp) (.inr hr)
    have hpers : tabGet 0 t.mgt.nv.pers n = (bitsOf v 30 2 : BitVec 2) := by rw [hnv]; exact persTaken_pers (s := countIn i s) hp
    have hpersOf : persOf t n = (bitsOf v 30 2 : BitVec 2).toNat := congrArg BitVec.toNat hpers
    refine ⟨t, he, hpersOf, by rw [hpersOf]; exact hstart, fun h1 ht => ⟨halone ht fun h => h1 (congrArg BitVec.toNat h.1), ?_⟩⟩
    have hone : ¬ ((tabGet 0 (countIn i s).mgt.nv.pers n : BitVec 2) = 1 ∧ bitsOf v 30 2 ≠ (1 : BitVec 2)) := fun h => h1 (congrArg BitVec.toNat h.1)
    rw [hnv, persTaken_alone (s := countIn i s) ht hone, if_neg (by exact hp)]
    rfl
  · have hpers : (bitsOf (pack [(30, persOf s n), (29, 1)]) 30 2 : BitVec 2) = tabGet 0 s.mgt.nv.pers n := by
      unfold persOf
      generalize (tabGet 0 s.mgt.nv.pers n : BitVec 2) = p
      revert p
      decide
    have h29 : bitAt (pack [(30, persOf s n), (29, 1)]) 29 = true := by
      unfold persOf
      generalize (tabGet 0 s.mgt.nv.pers n : BitVec 2) = p
      revert p
      decide
    obtain ⟨t, he, hstart, hnv, halone⟩ := portCfg_started (v := pack [(30, persOf s n), (29, 1)]) (pers := tabGet 0 s.mgt.nv.pers n) hs ho hn
      (by rw [hpers, ite_self]) (.inr h29) hr
    have hkeep : ¬ ((tabGet 0 s.mgt.nv.pers n : BitVec 2) = 1 ∧ (tabGet 0 s.mgt.nv.pers n : BitVec 2) ≠ 1) := fun h => h.2 h.1
    refine ⟨t, he, hstart, fun ht => ⟨halone ht hkeep, ?_⟩⟩
    rw [hnv, persTaken_alone (s := countIn i s) ht hkeep, if_pos (by rfl)]
    rfl
  · refine unit_write hs ho (regOf_portCfg hn) (may_both hr rfl) (decide_eq_true hn)
      (portCfgWrite_same (s := countIn i s) (?_ : (if decide (x.role = 2) then bitsOf v 30 2 else tabGet 0 s.mgt.nv.pers n) = tabGet 0 s.mgt.nv.pers n) h29)
    rcases hp with h1 | hp
    · rw [h1]; rfl
    · rw [hp, ite_self]

end Sys2Proof.Machine
end

section
/-! SUPPORT. Ports in bring-up: what they are told, and the events that move them (R441, R447, R448). -/

namespace Sys2Proof.Machine

open Sys2Proof

/-! ## A port's line -/

/-- A change of a port rests on the port alone. -/
theorem modPort_congr {n : Nat} {f g : Port → Port} {s : State} (h : f (portOf s n) = g (portOf s n)) : modPort n f s = modPort n g s := by
  unfold modPort tabMod
  show modLanes (fun l => { l with ports := tabSet {} l.ports n (f (tabGet {} l.ports n)) }) s = _
  unfold modLanes
  dsimp only
  rw [show f (tabGet {} s.lanes.ports n) = g (tabGet {} s.lanes.ports n) from h]

theorem putItems_line (n : Nat) (l : List LineItem) (s : State) :
    putItems n l s = modPort n (fun p => { p with line := lineWith s n l }) s := modPort_congr rfl

theorem sendCells_line (n : Nat) (l : List (BitVec 512)) (s : State) :
    sendCells n l s = modPort n (fun p => { p with line := lineWith s n (l.map fun c => .cell (ctlCell c)) }) s := by
  unfold sendCells putLine
  rw [putItems_line, List.map_map]
  rfl

/-! ## Events -/

section Event
variable {s t : State} {n : Nat} {ok : Bool} {unit : String} (hp : s.pwr.powered = true) (hok : ok = true)
include hp hok

/-- An event at a port that exists, whose effect keeps what every command keeps. -/
theorem port_next (h : keepFixed s t = t) : liveIf ok unit s t = .next t := by
  rw [liveIf_next hok hp, h]

/-- An event that a condition which holds ports would cut short. -/
theorem bringup_next {f : State → State} (hh : portsHeld s = false) (h : keepFixed s (f s) = f s) :
    liveIf ok unit s (bringup n f s) = .next (f s) := by
  rw [bringup_free f hh, port_next hp hok h]

/-- An event at a port that is out of bring-up. -/
theorem settled_next {f : State → State} (hh : inBringup (portOf s n).state = false) (h : keepFixed s (f s) = f s) :
    liveIf ok unit s (bringup n f s) = .next (f s) := by
  rw [bringup_out f hh, port_next hp hok h]

theorem fault_next {c : BitVec 4} {f : State → State} (hh : portsHeld s = false) (hf : f s = portFault n c s)
    (h : (portOf s n).state = .traffic → PortFree s n) :
    ∃ t, liveIf ok unit s (bringup n f s) = .next t ∧ PortFails s t n c := by
  have hfails := portFault_fails c h
  rw [← hf] at hfails
  exact ⟨_, bringup_next hp hok hh hfails.1.kept, hfails⟩

end Event

/-- A port in a state that is none of traffic has nothing to give up. -/
theorem not_traffic {s : State} {n : Nat} {st : PortState} (h : (portOf s n).state = st) (hst : st ≠ .traffic) :
    (portOf s n).state = .traffic → PortFree s n := fun k => absurd (h.symm.trans k) hst

theorem faultFrom_in {n : Nat} {st : PortState} {c : BitVec 4} {s : State} (h : (portOf s n).state = st) :
    faultFrom n st c s = portFault n c s := if_pos h

theorem reachStep_le (k : BitVec 4) (s : State) : k.toNat ≤ (reachStep k s).glb.step.toNat := by
  unfold reachStep
  rw [modGlb_glb]
  dsimp only
  split
  · exact Nat.le_refl _
  · exact Nat.not_lt.mp (by assumption)

/-- RESET is left for SIGNAL, on the state in which the port's lanes are loaded. -/
theorem portResetExit_leaves {s : State} {n : Nat} {p : List Byte} (hp : selectedProfile s = some p) (hst : (portOf s n).state = .reset)
    (hh : portsHeld s = false) (h6 : 6 ≤ s.glb.step.toNat) (hpers : (isEdge s n || isTrunk s n) = true) :
    portResetExit n s =
      let u := forEach (portLanes n) (fun l => modLane l fun x => { x with loaded := profileEntry p l }) s
      let v := modPort n (fun q => { q with state := .signal, msgFrom := (epOf u n).sent.length, bringup := u.freeCount }) u
      reachStep 7 (putItems n [fillWith (trainCell v n .signal)] { v with freeCount := v.freeCount + 1 }) := by
  unfold portResetExit
  rw [hp]
  dsimp only
  exact if_neg (by rw [hst, hh, hpers]; simp [h6])

theorem lanesLocked_aligns {s : State} {n : Nat} (hst : (portOf s n).state = .signal) :
    lanesLocked n s =
      let u := modPort n (fun p => { p with state := .align })
        (forEach (portLanes n) (fun l => modLane l fun x => { x with sigDet := true, cdrLock := true, cwLock := true }) s)
      putItems n [fillWith (trainCell u n .align), .cell (ctlCell (loopReqCell (takeFree u).1))] (takeFree u).2 := by
  unfold lanesLocked
  exact if_neg (not_not.mpr hst)

/-- Settles O16: each event is the model's own step, from the state that it acts in. -/
theorem portsLeaveResetAndLock : Obligations.PortsLeaveResetAndLock := by
  intro s n hp hn
  refine ⟨fun p hsel hst hh h6 hpers => ?_, fun hst hh => ?_, fun hst hh => ?_, fun hb hh => ?_⟩
  · have hkind : (isEdge s n || isTrunk s n) = true := by
      unfold isEdge isTrunk
      rw [decide_eq_true hn]
      rcases hpers with h | h <;> rw [h] <;> rfl
    have he := portResetExit_leaves hsel hst hh h6 hkind
    obtain ⟨hin, hout, hframe⟩ := lanes_changed n (fun l x => { x with loaded := profileEntry p l }) s
    dsimp only at he hin hout hframe
    generalize forEach (portLanes n) (fun l => modLane l fun x => { x with loaded := profileEntry p l }) s = u at he hin hout hframe
    obtain ⟨L, rfl⟩ : ∃ L, u = { s with lanes := { s.lanes with lanes := L } } := ⟨_, hframe⟩
    rw [putItems_line] at he
    have hkeep : keepFixed s (portResetExit n s) = portResetExit n s := by rw [he]; rfl
    refine ⟨_, port_next hp (decide_eq_true hn) hkeep, ?_⟩
    rw [he]
    refine ⟨?_, hin, reachStep_le 7 _, fun m hm => ?_, hout, rfl⟩
    · show portOf (modPort n _ (modPort n _ _)) n = _
      rw [portOf_modPort, portOf_modPort]
      unfold lineWith
      rw [show ∀ (f : Port → Port) (v : State) (k : Nat), portOf { modPort n f v with freeCount := k } n = f (portOf v n) from fun f v _ => portOf_modPort n f v]
      rfl
    · exact (portOf_modPort_other _ _ hm).trans (portOf_modPort_other _ _ hm)
  · have he := lanesLocked_aligns hst
    obtain ⟨hin, hout, hframe⟩ := lanes_changed n (fun _ x => { x with sigDet := true, cdrLock := true, cwLock := true }) s
    dsimp only at he hin hout hframe
    generalize forEach (portLanes n) (fun l => modLane l fun x => { x with sigDet := true, cdrLock := true, cwLock := true }) s = u at he hin hout hframe
    obtain ⟨L, rfl⟩ : ∃ L, u = { s with lanes := { s.lanes with lanes := L } } := ⟨_, hframe⟩
    rw [putItems_line] at he
    have hkeep : keepFixed s (lanesLocked n s) = lanesLocked n s := by rw [he]; rfl
    refine ⟨_, bringup_next hp (decide_eq_true hn) hh hkeep, ?_⟩
    rw [he]
    refine ⟨⟨(takeFree s).1, ?_⟩, hin, fun m hm => ?_, hout, rfl⟩
    · show portOf (modPort n _ (modPort n _ _)) n = _
      rw [portOf_modPort, portOf_modPort]
      unfold lineWith
      rw [show ∀ (f : Port → Port) (v : State) , portOf (takeFree (modPort n f v)).2 n = f (portOf v n) from fun f v => portOf_modPort n f v]
      rfl
    · exact (portOf_modPort_other _ _ hm).trans (portOf_modPort_other _ _ hm)
  · exact fault_next hp (decide_eq_true hn) hh (faultFrom_in hst) (not_traffic hst (by decide))
  · have hb' : bringup n id s = portTo n .reset none s := if_pos (by rw [hb, hh]; rfl)
    have hfree : (portOf s n).state = .traffic → PortFree s n := fun k => by rw [k] at hb; cases hb
    have hm := portTo_moves .reset none hfree
    refine ⟨_, port_next hp (decide_eq_true hn) ?_, ?_⟩
    · rw [hb']; exact hm.kept
    · rw [hb']; exact hm

end Sys2Proof.Machine
end

section
/-! SUPPORT. Ports that align, and the LOOP exchange (R441, R448). -/

namespace Sys2Proof.Machine

open Sys2Proof

/-- The four lanes of a port, each changed by its place in it. -/
theorem lanes_each (n : Nat) (f : Nat → Lane → Lane) (s : State) :
    let t := forEach [0, 1, 2, 3] (fun i => modLane (4 * n + i) (f i)) s
    (∀ i, i < 4 → laneAt t (4 * n + i) = f i (laneAt s (4 * n + i))) ∧ (∀ l, l / 4 ≠ n → laneAt t l = laneAt s l)
      ∧ t = { s with lanes := { s.lanes with lanes := t.lanes.lanes } } := by
  simp only [forEach, List.foldl]
  refine ⟨fun i hi => ?_, fun l hl => ?_, rfl⟩
  · have : i = 0 ∨ i = 1 ∨ i = 2 ∨ i = 3 := by omega
    rcases this with rfl | rfl | rfl | rfl <;>
      simp (discharger := omega) only [laneAt_modLane, laneAt_modLane_other]
  · simp (discharger := omega) only [laneAt_modLane_other]

/-! ## ALIGN_DONE -/

section AlignDone
variable {s : State} {n skew : Nat} {order : List Nat} (hst : (portOf s n).state = .align)
include hst

theorem alignDone_wrongOrder (ho : orderOk order = false) : alignDone n skew order s = portFault n causeLock s := by
  unfold alignDone
  rw [if_neg (not_not.mpr hst), if_pos (by rw [ho]; rfl)]

theorem alignDone_skewed (ho : orderOk order = true) (hk : 80000 < skew) : alignDone n skew order s = portFault n causeSkew s := by
  unfold alignDone
  rw [if_neg (not_not.mpr hst), if_neg (by rw [ho]; decide), if_pos hk]

/-- With all that R448 asks for, the port passes to QUALIFY. -/
theorem alignDone_passes (ho : orderOk order = true) (hk : skew ≤ 80000) (ht : trainOk s n = some true) (hl : 16 ≤ (portOf s n).samples.length)
    (hr : rttOver s n = false) :
    alignDone n skew order s = modPort n (fun p => { p with state := .qualify, windowErrs := 0, line := lineWith s n [fillWith idleCell] })
      (forEach [0, 1, 2, 3] (fun i => modLane (4 * n + i) fun x => { x with markLock := true, logical := BitVec.ofNat 2 (order.getD i 0) }) s) := by
  obtain ⟨-, -, hframe⟩ := lanes_each n (fun i x => { x with markLock := true, logical := BitVec.ofNat 2 (order.getD i 0) }) s
  unfold alignDone
  rw [if_neg (not_not.mpr hst), if_neg (by rw [ho]; decide), if_neg (Nat.not_lt.mpr hk)]
  dsimp only at hframe ⊢
  generalize forEach [0, 1, 2, 3] (fun i => modLane (4 * n + i) fun x => { x with markLock := true, logical := BitVec.ofNat 2 (order.getD i 0) }) s = u at hframe ⊢
  obtain ⟨L, rfl⟩ : ∃ L, u = { s with lanes := { s.lanes with lanes := L } } := ⟨_, hframe⟩
  have ht' : trainOk { s with lanes := { s.lanes with lanes := L } } n = some true := ht
  have hr' : ¬ rttOver { s with lanes := { s.lanes with lanes := L } } n = true := fun k => absurd (hr.symm.trans k) (by decide)
  rw [ht']
  dsimp only
  rw [if_neg (Nat.not_lt.mpr (by exact hl)), if_neg hr', putItems_line, modPort_modPort]
  refine modPort_congr ?_
  unfold lineWith
  rw [portOf_modPort]
  rfl

end AlignDone

/-! ## Control cells -/

theorem isCtl_iff (k : Byte) (c : TxCell) : isCtl k c = true ↔ cellKind c = .control ∧ cellByte c.data 0 = k := by
  unfold isCtl
  rw [Bool.and_eq_true, decide_eq_true_eq, decide_eq_true_eq]

theorem isCtl_true {k : Byte} {c : TxCell} (h : cellKind c = .control) (hb : cellByte c.data 0 = k) : isCtl k c = true := (isCtl_iff k c).mpr ⟨h, hb⟩

theorem train_other {n : Nat} {c : TxCell} {s : State} (h : cellKind c ≠ .control ∨ cellByte c.data 0 ≠ 2) : train n c s = s := by
  have : isCtl 2 c = false := Bool.eq_false_iff.mpr fun k => by
    obtain ⟨hk, hb⟩ := (isCtl_iff 2 c).mp k
    exact h.elim (· hk) (· hb)
  unfold train
  rw [this]
  rfl

theorem train_align {n : Nat} {c : TxCell} {s : State} (hc : isCtl 2 c = true) (hst : (portOf s n).state = .align) :
    train n c s = modPort n (fun p => { p with peerTrain := some (cellByte c.data 2, cellByte c.data 3) }) s := by
  unfold train
  rw [hc, hst]
  rfl

theorem train_traffic {n : Nat} {c : TxCell} {s : State} (hc : isCtl 2 c = true) (hst : (portOf s n).state = .traffic) (hq : (portOf s n).quiet = false) :
    train n c s = portTo n .reset (some causePeer) s := by
  unfold train
  rw [hc, hst, hq]
  rfl

theorem loopReq_answered {n : Nat} {c : TxCell} {turn : W32} {s : State} (hc : isCtl 3 c = true) (he : exchanges s n = true) :
    loopReq n c turn s = modPort n (fun p => { p with
      line := lineWith s n [.cell (ctlCell (mkCell (leBytes 8 4 ++ leBytes 8 (cellField c.data 8 8) ++ bvBytes turn)))] }) s := by
  unfold loopReq
  rw [if_pos ⟨hc, he⟩, sendCells_line]
  rfl

section LoopRsp
variable {s : State} {n : Nat} {c : TxCell} {t4 : BitVec 64} (hc : isCtl 4 c = true)
include hc

theorem loopRsp_last (hst : (portOf s n).state = .align) (hl : (portOf s n).samples.length = 15) :
    loopRsp n c t4 s = modPort n (fun p => { p with
      samples := p.samples ++ [rttSample c.data t4]
      rtt := BitVec.ofNat 16 (min ((p.samples ++ [rttSample c.data t4]).sum / 16) 65535) }) s := by
  unfold loopRsp
  dsimp only
  rw [if_neg (by rw [hc]; decide), if_pos ⟨hst, by omega⟩, if_pos (by rw [List.length_append, hl]; rfl), setRtt, modPort_modPort]
  exact modPort_congr rfl

theorem loopRsp_next (hst : (portOf s n).state = .align) (hl : (portOf s n).samples.length < 15) :
    loopRsp n c t4 s = modPort n (fun p => { p with
      samples := p.samples ++ [rttSample c.data t4]
      line := lineWith s n [.cell (ctlCell (mkCell (leBytes 8 3 ++ bvBytes (Config.freeBits s.freeCount))))] }) { s with freeCount := s.freeCount + 1 } := by
  unfold loopRsp
  dsimp only
  rw [if_neg (by rw [hc]; decide), if_pos ⟨hst, by omega⟩, if_neg (by rw [List.length_append, List.length_singleton]; omega)]
  show sendCells n _ (modPort n (fun p => { p with samples := (portOf s n).samples ++ [rttSample c.data t4] }) { s with freeCount := s.freeCount + 1 }) = _
  rw [sendCells_line, modPort_modPort]
  refine modPort_congr ?_
  unfold lineWith
  rw [portOf_modPort]
  rfl

theorem loopRsp_repeat (hst : (portOf s n).state = .traffic) (hq : (portOf s n).quiet = false) :
    loopRsp n c t4 s = modPort n (fun p => { p with rtt := BitVec.ofNat 16 (min (rttSample c.data t4) 65535) }) s := by
  unfold loopRsp
  dsimp only
  rw [if_neg (by rw [hc]; decide), if_neg (by rw [hst]; rintro ⟨h, -⟩; cases h), if_pos ⟨hst, by rw [hq]; rfl⟩]
  rfl

end LoopRsp

theorem loopRepeat_traffic {s : State} {n : Nat} (t1 : BitVec 64) (hst : (portOf s n).state = .traffic) (hq : (portOf s n).quiet = false) :
    loopRepeat n t1 s = modPort n (fun p => { p with line := lineWith s n [.cell (ctlCell (mkCell (leBytes 8 3 ++ bvBytes t1)))] }) s := by
  unfold loopRepeat
  rw [if_pos ⟨hst, by rw [hq]; rfl⟩, sendCells_line]
  rfl

/-- Settles O17: ALIGN's outcomes and the LOOP exchange, one lemma above for each. -/
theorem portsAlignAndLoopsMeasure : Obligations.PortsAlignAndLoopsMeasure := by
  refine ⟨fun s n hp hn hh => ⟨fun skew order hst => ?_, fun hst => ?_, fun cell hc => ?_, fun cell hk hb => ?_⟩,
    fun s n hp hn hh => ⟨fun cell turn hk hb he => ?_, fun cell t4 hk hb => ?_, fun t1 hst hq => ?_⟩⟩
  · have hfree := not_traffic hst (by decide)
    refine ⟨fun ho hk ht hl hr => ?_, fun ho => ?_, fun ho hk => ?_⟩
    · have he := alignDone_passes (order := order) hst ho hk ht hl hr
      obtain ⟨hin, hout, hframe⟩ := lanes_each n (fun i x => { x with markLock := true, logical := BitVec.ofNat 2 (order.getD i 0) }) s
      dsimp only at he hin hout hframe
      generalize forEach [0, 1, 2, 3] (fun i => modLane (4 * n + i) fun x => { x with markLock := true, logical := BitVec.ofNat 2 (order.getD i 0) }) s = u
        at he hin hout hframe
      obtain ⟨L, rfl⟩ : ∃ L, u = { s with lanes := { s.lanes with lanes := L } } := ⟨_, hframe⟩
      refine ⟨_, bringup_next hp (decide_eq_true hn) hh (by rw [he]; rfl), ?_⟩
      rw [he]
      exact ⟨portOf_modPort n _ _, hin, fun m hm => portOf_modPort_other _ _ hm, hout, rfl⟩
    · exact fault_next hp (decide_eq_true hn) hh (alignDone_wrongOrder hst ho) hfree
    · exact fault_next hp (decide_eq_true hn) hh (alignDone_skewed hst ho hk) hfree
  · exact fault_next (f := fun s => faultFrom n .align (alignCause n s) s) hp (decide_eq_true hn) hh (faultFrom_in hst) (not_traffic hst (by decide))
  · show liveIf (decide (n < 64)) "port" s (bringup n (train n cell) s) = .next s
    rw [bringup_next hp (decide_eq_true hn) hh (by rw [train_other hc]; rfl), train_other hc]
  · have hc := isCtl_true hk hb
    refine ⟨fun hst => ?_, fun hst hq hfree => ?_⟩
    · show liveIf (decide (n < 64)) "port" s (bringup n (train n cell) s) = _
      rw [bringup_next hp (decide_eq_true hn) hh (by rw [train_align hc hst]; rfl), train_align hc hst]
    · have hm := portTo_moves .reset (some causePeer) fun _ => hfree
      rw [← train_traffic hc hst hq] at hm
      exact ⟨_, bringup_next hp (decide_eq_true hn) hh hm.kept, hm⟩
  · have he' := loopReq_answered (turn := turn) (isCtl_true hk hb) he
    show liveIf (decide (n < 64)) "port" s (bringup n (loopReq n cell turn) s) = _
    rw [bringup_next hp (decide_eq_true hn) hh (by rw [he']; rfl), he']
  · have hc := isCtl_true hk hb
    have out {t : State} (h : loopRsp n cell t4 s = t) (hkeep : keepFixed s t = t) : exec (.loopRsp n cell t4) s = .next t := by
      show liveIf (decide (n < 64)) "port" s (bringup n (loopRsp n cell t4) s) = .next t
      rw [bringup_next hp (decide_eq_true hn) hh (by rw [h]; exact hkeep), h]
    exact ⟨fun hst hl => out (loopRsp_last hc hst hl) rfl, fun hst hl => ⟨_, out (loopRsp_next hc hst hl) rfl⟩,
      fun hst hq => out (loopRsp_repeat hc hst hq) rfl⟩
  · show liveIf (decide (n < 64)) "port" s (loopRepeat n t1 s) = _
    rw [loopRepeat_traffic t1 hst hq]
    exact port_next hp (decide_eq_true hn) rfl

end Sys2Proof.Machine
end

section
/-! SUPPORT. The changes of the sync state, and the node's wake (R220, R235, R418-R420). -/

namespace Sys2Proof.Machine

open Sys2Proof

/-- `t` is `s` but for the tick unit and what device faults leave. -/
def TickOnly (s t : State) : Prop := FaultOnly { s with tick := t.tick } t

theorem TickOnly.refl (s : State) : TickOnly s s := FaultOnly.refl s

theorem TickOnly.trans {s t u : State} (h : TickOnly s t) (k : TickOnly t u) : TickOnly s u := by
  unfold TickOnly FaultOnly at *
  rw [k, h]

theorem FaultOnly.tickOnly {s t : State} (h : FaultOnly s t) : TickOnly s t := by
  unfold TickOnly FaultOnly at *
  rw [h]

theorem modTick_tickOnly (f : TickUnit → TickUnit) (s : State) : TickOnly s (modTick f s) := rfl

theorem setRepro_tickOnly (i : Nat) (s : State) : TickOnly s (setRepro i s) := rfl

theorem enterSync_tickOnly (new : SyncState) (promoted : Bool) (s : State) : TickOnly s (enterSync new promoted s) := by
  have hstart : TickOnly s (if (s.tick.state = .locked ∨ s.tick.state = .master) ∧ (new = .holdover ∨ new = .acquire) then setRepro 5 s else s) := by
    split
    · exact setRepro_tickOnly 5 s
    · exact TickOnly.refl s
  unfold enterSync
  dsimp only
  have hset := fun f => hstart.trans (modTick_tickOnly f _)
  cases new with
  | acquire => exact ((hset _).trans (modTick_tickOnly _ _)).trans (devFault0_only _ _ _ _ _).tickOnly
  | locked => exact hset _
  | holdover => exact (hset _).trans (devFault0_only _ _ _ _ _).tickOnly
  | master =>
    dsimp only
    split
    · exact ((hset _).trans (modTick_tickOnly _ _)).trans (devFault0_only _ _ _ _ _).tickOnly
    · exact (hset _).trans (modTick_tickOnly _ _)

theorem becomeMaster_tickOnly (cls : Nat) (promoted : Bool) (s : State) : TickOnly s (becomeMaster cls promoted s) :=
  (enterSync_tickOnly _ _ s).trans (modTick_tickOnly _ _)

theorem applyForce_tickOnly (s : State) : TickOnly s (applyForce s) := by
  unfold applyForce
  dsimp only
  split
  · split
    · exact TickOnly.refl s
    · exact becomeMaster_tickOnly _ _ s
  · split
    · exact modTick_tickOnly _ s
    · exact TickOnly.refl s

theorem applyForce_unforced {s : State} (h : masterForce s = false) (hst : s.tick.state ≠ .master) : applyForce s = s := by
  unfold applyForce
  dsimp only
  rw [if_neg (by rw [h]; decide), if_neg (by simp [hst])]

/-- The node's parts active again, and the node in P0. -/
def nodeUp (s : State) : State :=
  modMem (fun m => { m with stackOf := m.stackOf.map fun x => (x.1, if x.2.state = .selfRefresh then { x.2 with state := .active } else x.2) })
    (modPwr (fun p => { p with node := 0 }) s)

theorem wakeNode_awake {s : State} (h : s.pwr.node.toNat < 3) : wakeNode s = s := if_pos (.inl h)

theorem wakeNode_three {s : State} (ht : s.pwr.tripped = false) (h : s.pwr.node = 3) : wakeNode s = nodeUp s := by
  unfold wakeNode
  rw [if_neg (by rw [h, ht]; decide)]
  dsimp only
  rw [if_neg (by rw [h]; decide)]
  rfl

theorem wakeNode_four {s : State} (ht : s.pwr.tripped = false) (h : s.pwr.node = 4) :
    wakeNode s = applyForce (setRepro 5 (enterSync .acquire false (nodeUp s))) := by
  unfold wakeNode
  rw [if_neg (by rw [h, ht]; decide)]
  dsimp only
  rw [if_pos h]
  rfl

/-- What the node's wake leaves: the node in P0, and nothing but stacks, the tick unit and records changed. -/
theorem wakeNode_four_only {s : State} (ht : s.pwr.tripped = false) (h : s.pwr.node = 4) : TickOnly (nodeUp s) (wakeNode s) := by
  rw [wakeNode_four ht h]
  exact ((enterSync_tickOnly _ _ _).trans (setRepro_tickOnly _ _)).trans (applyForce_tickOnly _)

/-- The parts that a change of the tick unit leaves. -/
theorem TickOnly.fields {s t : State} (h : TickOnly s t) : t.lanes = s.lanes ∧ t.pwr = s.pwr ∧ t.swc = s.swc ∧ t.eps = s.eps ∧ t.pool = s.pool
    ∧ t.mem = s.mem ∧ t.rte = s.rte ∧ t.pending = s.pending ∧ t.fuses = s.fuses ∧ t.attachBuf = s.attachBuf := by
  unfold TickOnly FaultOnly at h
  rw [h]
  exact ⟨rfl, rfl, rfl, rfl, rfl, rfl, rfl, rfl, rfl, rfl⟩

end Sys2Proof.Machine
end

section
/-! SUPPORT. Ports that qualify, authenticate and enter traffic (R449-R451). -/

namespace Sys2Proof.Machine

open Sys2Proof

/-! ## Entry to traffic -/

/-- A port in traffic, before what a TRUNK port records: LOCKED and step 8 are set, and an EDGE port's block waits for HELLO. -/
def inTraffic (n : Nat) (s : State) : State :=
  let s := modPort n (fun p => { p with state := .traffic, windowErrs := 0, enc := p.keys.isSome }) s
  let s := if (portOf s n).enc then putItems n [.secure] s else s
  epUp n (reachStep 8 (modGlb (fun g => { g with locked := true }) s))

theorem enterTraffic_eq (n : Nat) (s : State) :
    enterTraffic n s =
      let u := inTraffic n (if s.pwr.node = 4 then wakeNode s else s)
      if isTrunk u n ∧ trunkPeer u n ≠ some (portOf u n).peerFnid then devFault 0x34 sevWarn 0 n n 0 0xFFF u else u := rfl

theorem enterTraffic_only (n : Nat) (s : State) :
    FaultOnly (inTraffic n (if s.pwr.node = 4 then wakeNode s else s)) (enterTraffic n s) := by
  rw [enterTraffic_eq]
  generalize inTraffic n (if s.pwr.node = 4 then wakeNode s else s) = u
  dsimp only
  split
  · exact devFault_only _ _ _ _ _ _ _ _
  · exact FaultOnly.refl _

theorem epUp_parts (n : Nat) (s : State) : ∃ E, epUp n s = { s with eps := E } ∧ (isEdge s n = true → (epOf s n).attach = .down → (tabGet {} E n).attach = .waitHello) := by
  unfold epUp
  split
  · refine ⟨_, rfl, fun _ _ => ?_⟩
    rw [tabGet_mod_same]
  · next h => exact ⟨_, rfl, fun he ha => absurd ⟨he, ha⟩ h⟩

theorem inTraffic_all (n : Nat) (s : State) :
    let t := inTraffic n s
    (portOf t n).state = .traffic ∧ (portOf t n).enc = (portOf s n).keys.isSome ∧ (∀ m, m ≠ n → portOf t m = portOf s m)
      ∧ t.glb = { s.glb with locked := true, step := if s.glb.step < 8 then 8 else s.glb.step }
      ∧ (isEdge s n = true → (epOf s n).attach = .down → (epOf t n).attach = .waitHello)
      ∧ t = { s with glb := t.glb, lanes := { s.lanes with ports := t.lanes.ports }, eps := t.eps } := by
  have hport : ∃ f : Port → Port, inTraffic n s = epUp n (reachStep 8 (modGlb (fun g => { g with locked := true }) (modPort n f s)))
      ∧ (f (portOf s n)).state = .traffic ∧ (f (portOf s n)).enc = (portOf s n).keys.isSome := by
    unfold inTraffic
    dsimp only
    split
    · rw [putItems_line, modPort_modPort]
      exact ⟨_, rfl, rfl, rfl⟩
    · exact ⟨_, rfl, rfl, rfl⟩
  obtain ⟨f, ht, hst, henc⟩ := hport
  obtain ⟨E, hup, hatt⟩ := epUp_parts n (reachStep 8 (modGlb (fun g => { g with locked := true }) (modPort n f s)))
  rw [hup] at ht
  dsimp only
  rw [ht]
  have hn : portOf (modPort n f s) n = f (portOf s n) := portOf_modPort n f s
  exact ⟨(congrArg Port.state hn).trans hst, (congrArg Port.enc hn).trans henc, fun m hm => portOf_modPort_other f s hm, rfl, hatt, rfl⟩

/-- An EDGE port has no peer to compare. -/
theorem enterTraffic_edge {n : Nat} {s : State} (he : persOf s n = 1) (h4 : s.pwr.node ≠ 4) : enterTraffic n s = inTraffic n s := by
  have hpers : persOf (inTraffic n s) n = 1 := by
    obtain ⟨-, -, -, -, -, hframe⟩ := inTraffic_all n s
    rw [hframe]
    exact he
  rw [enterTraffic_eq, if_neg h4]
  refine if_neg fun h => ?_
  have htrunk := h.1
  unfold isTrunk at htrunk
  rw [hpers, Bool.and_eq_true] at htrunk
  exact absurd htrunk.2 (by decide)


/-! ## QUALIFY -/

/-- A window with no error that R449 judges. -/
def CleanWindow (s : State) (n : Nat) (symbols : List Nat) : Prop :=
  (portOf s n).windowErrs = 0 ∧ ∀ i, i < 4 → symbols.getD i 0 ≤ s.lanes.symMax.toNat * 256

/-- The counts of a window, added to each lane's. -/
def windowCounted (n : Nat) (corrected symbols : List Nat) (s : State) : State :=
  forEach [0, 1, 2, 3] (fun i => modLane (4 * n + i) fun x =>
    { x with corr := satAdd x.corr (corrected.getD i 0), sym := satAdd x.sym (symbols.getD i 0) }) s

theorem windowCounted_parts (n : Nat) (corrected symbols : List Nat) (s : State) :
    ∃ L, windowCounted n corrected symbols s = { s with lanes := { s.lanes with lanes := L } }
      ∧ ∀ i, i < 4 → (tabGet {} L (4 * n + i)).corr = satAdd (laneAt s (4 * n + i)).corr (corrected.getD i 0) := by
  obtain ⟨hin, -, hframe⟩ := lanes_each n (fun i x => { x with corr := satAdd x.corr (corrected.getD i 0), sym := satAdd x.sym (symbols.getD i 0) }) s
  exact ⟨_, hframe, fun i hi => congrArg Lane.corr (hin i hi)⟩

theorem window_clean_iff (s : State) (n : Nat) (symbols : List Nat) :
    CleanWindow s n symbols ↔
      ¬ (0 < (portOf s n).windowErrs ∨ !([0, 1, 2, 3].all fun i => decide (symbols.getD i 0 ≤ s.lanes.symMax.toNat * 256))) := by
  have hall : ([0, 1, 2, 3].all fun i => decide (symbols.getD i 0 ≤ s.lanes.symMax.toNat * 256)) = true
      ↔ ∀ i, i < 4 → symbols.getD i 0 ≤ s.lanes.symMax.toNat * 256 := by
    rw [List.all_eq_true]
    refine ⟨fun h i hi => ?_, fun h i hi => decide_eq_true (h i ?_)⟩
    · exact of_decide_eq_true (h i (by simp only [List.mem_cons, List.not_mem_nil, or_false]; omega))
    · simp only [List.mem_cons, List.not_mem_nil, or_false] at hi; omega
  unfold CleanWindow
  rw [← hall, not_or, Nat.not_lt, Nat.le_zero, Bool.not_eq_true', Bool.not_eq_false]

section Window
variable {s : State} {n : Nat} {corrected symbols : List Nat} (hst : (portOf s n).state = .qualify)
include hst

theorem qualifyWindowEnd_clean (hc : CleanWindow s n symbols) :
    qualifyWindowEnd n corrected symbols s = if isTrunk s n then enterAuth n (windowCounted n corrected symbols s) else
      enterTraffic n (windowCounted n corrected symbols s) := by
  obtain ⟨L, hL, -⟩ := windowCounted_parts n corrected symbols s
  unfold windowCounted at hL
  unfold qualifyWindowEnd windowCounted
  dsimp only
  rw [hL, if_neg (by rw [hst]; decide), if_pos hst, if_neg ((window_clean_iff s n symbols).mp hc)]
  rfl

theorem qualifyWindowEnd_errors (hc : ¬ CleanWindow s n symbols) :
    qualifyWindowEnd n corrected symbols s = portFault n causeQual (windowCounted n corrected symbols s) := by
  obtain ⟨L, hL, -⟩ := windowCounted_parts n corrected symbols s
  unfold windowCounted at hL
  unfold qualifyWindowEnd windowCounted
  dsimp only
  rw [hL, if_neg (by rw [hst]; decide), if_pos hst, if_pos (not_not.mp (mt (window_clean_iff s n symbols).mpr hc))]

end Window

end Sys2Proof.Machine
end

section
/-! SUPPORT. Moves of a port from a state in which only the port, its lanes and the eye scan differ; QUALIFY and AUTH (R449-R451). -/

namespace Sys2Proof.Machine

open Sys2Proof

/-! ## Changes of one port and its lanes -/

/-- `u` is `s` but for port `n`, its lanes, and an eye scan that has ended. -/
structure PortLocal (s u : State) (n : Nat) : Prop where
  ports : ∀ m, m ≠ n → portOf u m = portOf s m
  lanes : ∀ l, l / 4 ≠ n → laneAt u l = laneAt s l
  frame : u = { s with lanes := { s.lanes with
    lanes := u.lanes.lanes, ports := u.lanes.ports, eyeBusy := u.lanes.eyeBusy, eyeAborted := u.lanes.eyeAborted, eyeErrs := u.lanes.eyeErrs } }

theorem modPort_local (n : Nat) (f : Port → Port) (s : State) : PortLocal s (modPort n f s) n :=
  ⟨fun _ h => portOf_modPort_other f s h, fun _ _ => rfl, rfl⟩

theorem windowCounted_local (n : Nat) (corrected symbols : List Nat) (s : State) : PortLocal s (windowCounted n corrected symbols s) n := by
  obtain ⟨-, hout, hframe⟩ := lanes_each n (fun i x => { x with corr := satAdd x.corr (corrected.getD i 0), sym := satAdd x.sym (symbols.getD i 0) }) s
  have h : windowCounted n corrected symbols s = { s with lanes := { s.lanes with lanes := (windowCounted n corrected symbols s).lanes.lanes } } := hframe
  refine ⟨fun m _ => ?_, hout, ?_⟩
  · rw [h]
    rfl
  · rw [h]

section Local
variable {s u t : State} {n : Nat} {st : PortState} {c : BitVec 4} (hl : PortLocal s u n)
include hl

theorem PortLocal.moves (h : PortMoves u t n st c) : PortMoves s t n st c := by
  refine ⟨⟨fun m hm => (h.only.others m hm).trans (hl.ports m hm), fun l hk => (h.only.lanes l hk).trans (hl.lanes l hk), fun p d => ?_, ?_⟩,
    h.state, h.cause, h.forgets, h.unlocked⟩
  · rw [h.only.queues p d, hl.frame]
    rfl
  · have hf := h.only.frame
    unfold FaultOnly at *
    rw [hf, hl.frame]

theorem PortLocal.fails (hd : (portOf u n).downCnt = (portOf s n).downCnt) (h : PortFails u t n c) : PortFails s t n c := by
  obtain ⟨hm, hdown, hrec⟩ := h
  refine ⟨hl.moves hm, by rw [hdown, hd], fun hlen => hrec ?_⟩
  rw [hl.frame]
  exact hlen

end Local

/-- A port that an event takes to FAULT, from a state that differs in the port and its lanes alone. -/
theorem fault_next_local {s u : State} {n : Nat} {c : BitVec 4} {f : State → State} {ok : Bool} {unit : String} (hp : s.pwr.powered = true) (hok : ok = true)
    (hh : portsHeld s = false) (hf : f s = portFault n c u) (hl : PortLocal s u n) (hd : (portOf u n).downCnt = (portOf s n).downCnt)
    (h : (portOf u n).state = .traffic → PortFree u n) :
    ∃ t, liveIf ok unit s (bringup n f s) = .next t ∧ PortFails s t n c := by
  have hfails := hl.fails hd (portFault_fails c h)
  rw [← hf] at hfails
  exact ⟨_, bringup_next hp hok hh hfails.1.kept, hfails⟩

/-! ## AUTH -/

theorem enterAuth_sent (n : Nat) (s : State) :
    enterAuth n s = modPort n (fun p => { p with
      state := .auth, ownHello := helloBytes s n s.freeCount
      line := lineWith s n ((authCells 1 (helloBytes s n s.freeCount)).map fun c => .cell (ctlCell c)) }) { s with freeCount := s.freeCount + 1 } := by
  unfold enterAuth
  dsimp only
  rw [sendCells_line, modPort_modPort]
  refine modPort_congr ?_
  unfold lineWith
  rw [portOf_modPort]
  rfl

theorem authHello_kept {s : State} {n : Nat} {h : List Byte} (hst : (portOf s n).state = .auth) (hlen : h.length = 252) (hnone : (portOf s n).peerHello = none) :
    authHello n h s = modPort n (fun p => { p with
      peerHello := some h
      line := lineWith s n ((authCells 2 (bvBytes (Config.signature
        (handshakeHash p.ownHello h ++ [if isLo p.ownHello h then 1 else 2])))).map fun c => .cell (ctlCell c)) }) s := by
  unfold authHello
  dsimp only
  rw [if_neg (by rw [hst, hlen, hnone]; decide), sendCells_line, modPort_modPort]
  refine modPort_congr ?_
  unfold lineWith
  rw [portOf_modPort]
  rfl

section AuthSig
variable {s : State} {n : Nat} {ok : Bool} {h : List Byte} (hst : (portOf s n).state = .auth) (hsome : (portOf s n).peerHello = some h)
  (hok : (portOf s n).peerOk = false)
include hst hsome hok

theorem authSig_foreign (hr : helloRack h ≠ (bitsOf s.mgt.nv.rackId 0 16 : BitVec 16).toNat) : authSig n ok s = portFault n causeRack s := by
  unfold authSig
  dsimp only
  rw [hsome]
  dsimp only
  rw [if_neg (by rw [hst, hok]; decide), if_pos hr]

theorem authSig_unknown (hr : helloRack h = (bitsOf s.mgt.nv.rackId 0 16 : BitVec 16).toNat)
    (hbad : helloFnid h = (myFnid s).toNat ∨ ¬ sha384v (helloIdPub h) ∈ s.mgt.nv.peers ∨ ok = false) : authSig n ok s = portFault n causeAuth s := by
  unfold authSig
  dsimp only
  rw [hsome]
  dsimp only
  rw [if_neg (by rw [hst, hok]; decide), if_neg (not_not.mpr hr), if_pos]
  rw [Bool.not_eq_true', Bool.not_eq_true', List.contains_eq_mem, decide_eq_false_iff_not]
  exact hbad

theorem authSig_accepted (hr : helloRack h = (bitsOf s.mgt.nv.rackId 0 16 : BitVec 16).toNat) (hf : helloFnid h ≠ (myFnid s).toNat)
    (hpeer : sha384v (helloIdPub h) ∈ s.mgt.nv.peers) (hv : ok = true) :
    authSig n ok s = modPort n (fun p => { p with
      peerOk := true, encFrom := some p.line.length, keys := some (Config.sessionKeys (BitVec.ofNat 384 (leNat (handshakeHash p.ownHello h))))
      peerPrint := sha384v (helloIdPub h), peerFnid := BitVec.ofNat 12 (helloFnid h) }) s := by
  unfold authSig
  dsimp only
  rw [hsome]
  dsimp only
  rw [if_neg (by rw [hst, hok]; decide), if_neg (not_not.mpr hr), if_neg]
  · exact modPort_congr rfl
  · rw [Bool.not_eq_true', Bool.not_eq_true', List.contains_eq_mem, decide_eq_false_iff_not, hv]
    exact fun k => k.elim hf fun k => k.elim (· hpeer) (fun k => nomatch k)

end AuthSig

/-- A held condition is none of a tripped module. -/
theorem portsHeld_untripped {s : State} (h : portsHeld s = false) : s.pwr.tripped = false := by
  unfold portsHeld at h
  rw [Bool.or_eq_false_iff] at h
  exact h.2

/-- Settles O18: the windows of QUALIFY by what they hold, then the handshake's messages. -/
theorem portsQualifyAndAuthenticate : Obligations.PortsQualifyAndAuthenticate := by
  intro s n hp hn hh
  refine ⟨fun corrected symbols hst => ?_, fun hst => ⟨fun hello hlen hnone => ?_, fun sig ok h hsome hok => ?_, ?_⟩⟩
  · obtain ⟨L, hL, hcorr⟩ := windowCounted_parts n corrected symbols s
    have htrunk {k : Nat} (h : persOf s n = k) : isTrunk s n = decide (k = 2) := by
      unfold isTrunk
      rw [h, decide_eq_true hn, Bool.true_and]
    refine ⟨fun hc he h4 => ?_, fun hc he h4 => ?_, fun hc ht => ?_, fun hc => ?_⟩
    · have hq := qualifyWindowEnd_clean (corrected := corrected) hst hc
      have he' : persOf { s with lanes := { s.lanes with lanes := L } } n = 1 := he
      rw [htrunk he, hL, if_neg (by decide), enterTraffic_edge he' h4] at hq
      obtain ⟨htraffic, -, hothers, hglb, hatt, hframe⟩ := inTraffic_all n { s with lanes := { s.lanes with lanes := L } }
      have hedge : isEdge { s with lanes := { s.lanes with lanes := L } } n = true := by
        unfold isEdge
        rw [he', decide_eq_true hn]
        rfl
      dsimp only at htraffic hothers hglb hatt hframe
      generalize inTraffic n { s with lanes := { s.lanes with lanes := L } } = u at hq htraffic hothers hglb hatt hframe
      have hkeep : keepFixed s u = u := by rw [hframe]; rfl
      refine ⟨u, ?_, htraffic, by rw [hglb], by rw [hglb], hatt hedge, fun i hi => ?_, hothers, ?_⟩
      · show liveIf (decide (n < 64)) "port" s (bringup n (qualifyWindowEnd n corrected symbols) s) = _
        rw [bringup_next hp (decide_eq_true hn) hh (by rw [hq]; exact hkeep), hq]
      · rw [hframe]
        exact hcorr i hi
      · rw [hframe]
    · have hq := qualifyWindowEnd_clean (corrected := corrected) hst hc
      rw [htrunk he, hL, if_neg (by decide)] at hq
      have htrip := portsHeld_untripped hh
      have honly := enterTraffic_only n { s with lanes := { s.lanes with lanes := L } }
      have h4' : ({ s with lanes := { s.lanes with lanes := L } } : State).pwr.node = 4 := h4
      rw [if_pos h4'] at honly
      obtain ⟨wlanes, wpwr, -, -, -, -, -, wpend, wfuse, wbuf⟩ := (wakeNode_four_only (s := { s with lanes := { s.lanes with lanes := L } }) htrip h4).fields
      obtain ⟨htraffic, -, hothers, -, -, hframe⟩ := inTraffic_all n (wakeNode { s with lanes := { s.lanes with lanes := L } })
      dsimp only at htraffic hothers hframe
      generalize inTraffic n (wakeNode { s with lanes := { s.lanes with lanes := L } }) = u at honly htraffic hothers hframe
      generalize enterTraffic n { s with lanes := { s.lanes with lanes := L } } = t at hq honly
      obtain ⟨flanes, fpwr, -, -, -, -, -, fpend, ffuse, fbuf⟩ := honly.fields
      have hport : ∀ m, portOf t m = portOf u m := fun m => by unfold portOf; rw [flanes]
      refine ⟨t, ?_, by rw [hport, htraffic], ?_, fun m hm => ?_⟩
      · show liveIf (decide (n < 64)) "port" s (bringup n (qualifyWindowEnd n corrected symbols) s) = _
        rw [bringup_next hp (decide_eq_true hn) hh _, hq]
        rw [hq]
        apply keepFixed_self
        · rw [fpend, hframe]; exact wpend
        · rw [ffuse, hframe]; exact wfuse
        · rw [fbuf, hframe]; exact wbuf
      · rw [fpwr, hframe]
        exact congrArg Pwr.node wpwr
      · rw [hport, hothers m hm]
        unfold portOf
        rw [wlanes]
        rfl
    · have hq := qualifyWindowEnd_clean (corrected := corrected) hst hc
      rw [htrunk ht, if_pos (by decide), hL, enterAuth_sent] at hq
      refine ⟨_, bringup_next hp (decide_eq_true hn) hh (by rw [hq]; rfl), ?_⟩
      rw [hq]
      exact ⟨portOf_modPort n _ _, fun m hm => portOf_modPort_other _ _ hm, rfl⟩
    · have hq := qualifyWindowEnd_errors (corrected := corrected) hst hc
      have hlocal := windowCounted_local n corrected symbols s
      have hport : portOf (windowCounted n corrected symbols s) n = portOf s n := by rw [hL]; rfl
      generalize windowCounted n corrected symbols s = u at hq hlocal hport
      exact fault_next_local (f := qualifyWindowEnd n corrected symbols) hp (decide_eq_true hn) hh hq hlocal (congrArg Port.downCnt hport)
        (not_traffic (st := .qualify) (by rw [hport, hst]) (by decide))
  · show liveIf (decide (n < 64)) "port" s (bringup n (authHello n hello) s) = _
    rw [bringup_next hp (decide_eq_true hn) hh (by rw [authHello_kept hst hlen hnone]; rfl), authHello_kept hst hlen hnone]
  · have hfree := not_traffic hst (by decide)
    refine ⟨fun hr => fault_next hp (decide_eq_true hn) hh (authSig_foreign hst hsome hok hr) hfree,
      fun hr hbad => fault_next hp (decide_eq_true hn) hh (authSig_unknown hst hsome hok hr hbad) hfree, fun hr hf hpeer hv => ?_⟩
    have he := authSig_accepted hst hsome hok hr hf hpeer hv
    show liveIf (decide (n < 64)) "port" s (bringup n (authSig n ok) s) = _
    rw [bringup_next hp (decide_eq_true hn) hh (by rw [he]; rfl), he]
  · exact fault_next hp (decide_eq_true hn) hh (faultFrom_in hst) (not_traffic hst (by decide))

end Sys2Proof.Machine
end

section
/-! SUPPORT. The device fault queue and the ledger queue under further faults (R392-R394, R473). -/

namespace Sys2Proof.Machine

open Sys2Proof

/-! ## Records stay -/

theorem length_nthMod {α : Type} (l : List α) (i : Nat) (f : α → α) : (nthMod l i f).length = l.length := by
  induction l generalizing i with
  | nil => rfl
  | cons x l ih => cases i <;> simp [nthMod, ih]

/-- An element of a list, or the one that was put in its place. -/
theorem mem_nthMod {α : Type} {l : List α} {i : Nat} {m q : α} (h : q ∈ l) : q ∈ nthMod l i (fun _ => m) ∨ l[i]? = some q := by
  induction l generalizing i with
  | nil => cases h
  | cons x l ih =>
    rcases List.mem_cons.mp h with rfl | hq
    · cases i with
      | zero => exact .inr rfl
      | succ i => exact .inl (List.mem_cons_self ..)
    · cases i with
      | zero => exact .inl (List.mem_cons_of_mem _ hq)
      | succ i => exact (ih (i := i) hq).imp (List.mem_cons_of_mem _) id

theorem mergeRec_old (o r : FaultRec) : (mergeRec o r).kind = o.kind ∧ (mergeRec o r).key = o.key ∧ o.severity ≤ (mergeRec o r).severity := by
  refine ⟨rfl, rfl, ?_⟩
  unfold mergeRec
  dsimp only
  split
  · exact BitVec.le_of_lt (by assumption)
  · exact BitVec.le_refl _

theorem devMerge_faults_eq (i : Nat) (r : FaultRec) (s : State) :
    (devMerge i r s).glb.faults = match s.glb.faults[i]? with
      | none => s.glb.faults
      | some o => nthMod s.glb.faults i (fun _ => mergeRec o r) := by
  unfold devMerge
  cases s.glb.faults[i]? with
  | none => rfl
  | some o =>
    dsimp only
    split
    · rw [faultEscalate_faults]
      rfl
    · rfl

theorem faultNotify_faults (r : FaultRec) (s : State) : (faultNotify r s).glb.faults = s.glb.faults := by rw [faultNotify_glb]

/-- With room in the queue, a fault is merged into the record of its kind and key or joins the queue. -/
theorem devRecord_room {r : FaultRec} {s : State} (h : s.glb.faults.length < 1024) :
    (∃ i, devRecord r s = devMerge i r s) ∨ (devRecord r s).glb.faults = s.glb.faults ++ [r] := by
  unfold devRecord
  dsimp only
  split
  · exact .inl ⟨_, rfl⟩
  · rw [if_pos h, faultNotify_faults, faultEscalate_faults]
    exact .inr rfl

theorem devRecord_length {r : FaultRec} {s : State} (h : s.glb.faults.length < 1024) :
    (devRecord r s).glb.faults.length ≤ s.glb.faults.length + 1 := by
  rcases devRecord_room (r := r) h with ⟨i, hi⟩ | hi
  · rw [hi, devMerge_faults_eq]
    split
    · exact Nat.le_succ _
    · rw [length_nthMod]
      exact Nat.le_succ _
  · rw [hi, List.length_append, List.length_singleton]

/-- A record stays, under another fault that the queue has room for. -/
theorem Recorded.after {s : State} {kind : Byte} {sev : BitVec 2} {key : Nat} (hr : Recorded s kind sev key) (r : FaultRec)
    (h : s.glb.faults.length < 1024) : Recorded (devRecord r s) kind sev key := by
  obtain ⟨q, hq, hkind, hkey, hsev⟩ := hr
  rcases devRecord_room (r := r) h with ⟨i, hi⟩ | hi
  · unfold Recorded
    rw [hi, devMerge_faults_eq]
    split
    · exact ⟨q, hq, hkind, hkey, hsev⟩
    · next o ho =>
      rcases mem_nthMod (i := i) (m := mergeRec o r) hq with hm | hm
      · exact ⟨q, hm, hkind, hkey, hsev⟩
      · obtain rfl : o = q := Option.some.inj (ho.symm.trans hm)
        obtain ⟨mkind, mkey, msev⟩ := mergeRec_old o r
        exact ⟨_, nthMod_mem _ ho, mkind.trans hkind, mkey.trans hkey, BitVec.le_trans hsev msev⟩
  · unfold Recorded
    rw [hi]
    exact ⟨q, List.mem_append_left _ hq, hkind, hkey, hsev⟩

/-! ## Entries of the ledger that a fault leaves -/

/-- Device entries that wait, and those that wait to be counted as lost. -/
def entriesDue (s : State) : Nat := s.mgt.queue.length + s.mgt.lostWaiting

theorem ledgerDevice_due (type result : Nat) (d : BitVec 352) (s : State) : entriesDue (ledgerDevice type result d s) = entriesDue s + 1 := by
  unfold ledgerDevice entriesDue
  split
  · exact (Nat.add_assoc _ _ _).symm
  · show (s.mgt.queue ++ [_]).length + s.mgt.lostWaiting = _
    rw [List.length_append, List.length_singleton, Nat.add_right_comm]

/-- `t` has the ledger and all else of Mahel as `s`, or one FAULT entry of the device more. -/
def OneEntry (s t : State) : Prop := t.mgt = s.mgt ∨ ∃ d, t.mgt = (ledgerDevice 7 0 d s).mgt

theorem ledgerDevice_modGlb (type result : Nat) (d : BitVec 352) (f : Glb → Glb) (s : State) :
    ledgerDevice type result d (modGlb f s) = modGlb f (ledgerDevice type result d s) := by
  unfold ledgerDevice
  by_cases h : 256 ≤ s.mgt.queue.length
  · rw [if_pos h, if_pos (show 256 ≤ (modGlb f s).mgt.queue.length from h)]
    rfl
  · rw [if_neg h, if_neg (show ¬ 256 ≤ (modGlb f s).mgt.queue.length from h)]
    rfl

theorem faultEscalate_entry (r : FaultRec) (f : Glb → Glb) (s : State) : OneEntry s (faultEscalate r (modGlb f s)) := by
  have hfatal : ∀ u : State, (if r.severity = sevFatal then modGlb (fun g => { g with fatal := true }) u else u).mgt = u.mgt := fun u => by
    split <;> rfl
  unfold faultEscalate OneEntry
  dsimp only
  rw [hfatal]
  split
  · exact .inr ⟨_, by rw [ledgerDevice_modGlb]; rfl⟩
  · exact .inl rfl

theorem faultNotify_mgt (r : FaultRec) (s : State) : (faultNotify r s).mgt = s.mgt := by
  unfold faultNotify
  split <;> rfl

theorem devMerge_entry (i : Nat) (r : FaultRec) (s : State) : OneEntry s (devMerge i r s) := by
  unfold devMerge
  split
  · exact .inl rfl
  · dsimp only
    split
    · exact faultEscalate_entry _ _ s
    · exact .inl rfl

/-- A fault leaves one entry at most. -/
theorem devRecord_entry (r : FaultRec) (s : State) : OneEntry s (devRecord r s) := by
  have hnew : ∀ f, OneEntry s (faultNotify r (faultEscalate r (modGlb f s))) := fun f => by
    unfold OneEntry
    rw [faultNotify_mgt]
    exact faultEscalate_entry r f s
  unfold devRecord
  dsimp only
  split
  · exact devMerge_entry _ _ _
  · split
    · exact hnew _
    · split
      · exact devMerge_entry _ _ _
      · split
        · exact hnew _
        · exact .inl rfl

/-- A fault takes no entry back. -/
theorem devRecord_due (r : FaultRec) (s : State) : entriesDue s ≤ entriesDue (devRecord r s) := by
  have hdue : ∀ {t u : State}, t.mgt = u.mgt → entriesDue t = entriesDue u := fun h => by
    unfold entriesDue
    rw [h]
  obtain h | ⟨d, h⟩ := devRecord_entry r s
  · exact (hdue h).ge
  · rw [hdue h, ledgerDevice_due]
    exact Nat.le_succ _

theorem ledgerDevice_queue (type result : Nat) (d : BitVec 352) (s : State) : s.mgt.queue <+: (ledgerDevice type result d s).mgt.queue := by
  unfold ledgerDevice
  split
  · exact List.prefix_rfl
  · exact List.prefix_append _ _

/-- A fault leaves the waiting entries in their places. -/
theorem devRecord_queue (r : FaultRec) (s : State) : s.mgt.queue <+: (devRecord r s).mgt.queue := by
  obtain h | ⟨d, h⟩ := devRecord_entry r s
  · rw [h]
  · rw [h]
    exact ledgerDevice_queue ..

end Sys2Proof.Machine
end

section
/-! SUPPORT. Markers, errors and recovery of a port (R438, R441, R447, R449, R452). -/

namespace Sys2Proof.Machine

open Sys2Proof

/-! ## Moves after faults, and changes of one lane -/

/-- A move from a state in which only device faults were recorded. -/
theorem FaultOnly.moves {s u t : State} {n : Nat} {st : PortState} {c : BitVec 4} (h : FaultOnly s u) (m : PortMoves u t n st c) :
    PortMoves s t n st c := by
  obtain ⟨hlanes, -, hswc, -⟩ := h.fields
  refine ⟨⟨fun j hj => (m.only.others j hj).trans (by unfold portOf; rw [hlanes]), fun l hk => (m.only.lanes l hk).trans (by unfold laneAt; rw [hlanes]),
    fun p d => (m.only.queues p d).trans (by unfold queueOf; rw [hswc]), ?_⟩, m.state, m.cause, m.forgets, m.unlocked⟩
  have hf := m.only.frame
  unfold FaultOnly at *
  rw [hf, h]

theorem modLane_local {l n : Nat} (f : Lane → Lane) (s : State) (h : l / 4 = n) : PortLocal s (modLane l f s) n :=
  ⟨fun _ _ => rfl, fun _ hk => laneAt_modLane_other f s (fun e => hk (e ▸ h)), rfl⟩

theorem cutScan_parts (c : Bool) (s : State) : ∃ b a e, (if c then modLanes cutScan s else s)
    = { s with lanes := { s.lanes with eyeBusy := b, eyeAborted := a, eyeErrs := e } } := by
  cases c
  · exact ⟨_, _, _, rfl⟩
  · exact ⟨_, _, _, rfl⟩

/-! ## Locks -/

/-- An eye scan runs on a lane that has no CDR lock. -/
def scanStranded (l : Nat) (s : State) : Bool := s.lanes.eyeBusy && decide (s.lanes.eyeLane.toNat = l) && !(laneAt s l).cdrLock

/-- What a lost lock does to its lane, and to an eye scan that runs there. -/
def lockCleared (n lane : Nat) (w : LostLock) (s : State) : State :=
  let s := modLane (4 * n + lane) (loseLock w) s
  if scanStranded (4 * n + lane) s then modLanes cutScan s else s

theorem lockCleared_all {n lane : Nat} (w : LostLock) (s : State) (h : lane < 4) :
    let t := lockCleared n lane w s
    PortLocal s t n ∧ (∀ m, portOf t m = portOf s m) ∧ laneAt t (4 * n + lane) = loseLock w (laneAt s (4 * n + lane))
      ∧ (∀ l, l ≠ 4 * n + lane → laneAt t l = laneAt s l) ∧ t = { s with lanes := t.lanes } := by
  unfold lockCleared
  dsimp only
  obtain ⟨b, a, e, he⟩ := cutScan_parts (scanStranded (4 * n + lane) (modLane (4 * n + lane) (loseLock w) s)) (modLane (4 * n + lane) (loseLock w) s)
  rw [he]
  have hlane := laneAt_modLane (4 * n + lane) (loseLock w) s
  have hother : ∀ l, l ≠ 4 * n + lane → laneAt (modLane (4 * n + lane) (loseLock w) s) l = laneAt s l := fun l hl => laneAt_modLane_other _ s hl
  exact ⟨⟨fun _ _ => rfl, fun l hl => hother l (by omega), rfl⟩, fun _ => rfl, hlane, hother, rfl⟩

theorem lockLost_eq (n lane : Nat) (w : LostLock) (s : State) :
    lockLost n lane w s = match (portOf (lockCleared n lane w s) n).state with
      | .align => portFault n causeLock (lockCleared n lane w s)
      | .traffic => portFault n causeLock (lockCleared n lane w s)
      | .qualify => portFault n causeQual (lockCleared n lane w s)
      | _ => lockCleared n lane w s := rfl

theorem markerLockLoss_listens {n : Nat} {w : LaneLoss} {s : State} (h : listens s n = true) : markerLockLoss n w s = lockLost n w.lane w.what s := if_pos h

/-- A port that exchanges cells listens. -/
theorem listens_of {s : State} {n : Nat} (h : exchanges s n = true ∨ (portOf s n).state = .signal) : listens s n = true := by
  unfold listens
  rw [Bool.or_eq_true, decide_eq_true_eq]
  exact h

theorem exchanges_of {s : State} {n : Nat} {st : PortState} (hst : (portOf s n).state = st) (hq : (portOf s n).quiet = false)
    (h : st = .align ∨ st = .qualify ∨ st = .auth ∨ st = .traffic) : exchanges s n = true := by
  unfold exchanges
  dsimp only
  rw [hst, hq]
  rcases h with rfl | rfl | rfl | rfl <;> rfl

/-- What leaves a port as it is leaves it free. -/
theorem PortFree.of_eq {s u : State} {n : Nat} (h : PortFree s n) (he : u.eps = s.eps) (hw : u.swc = s.swc) : PortFree u n := by
  obtain ⟨ha, hq⟩ := h
  refine ⟨?_, fun c hc => ?_⟩
  · unfold epOf
    rw [he]
    exact ha
  · unfold queueOf
    rw [hw]
    exact hq c hc

/-! ## A bad tag -/

/-- A tag failure takes the port to FAULT, with its record, and with an entry of its own in the ledger (R452). -/
theorem tagFailed_all {s : State} {n : Nat} (hf : PortFree s n) :
    PortMoves s (tagFailed n s) n .fault causeTag ∧ (s.glb.faults.length < 1023 → Recorded (tagFailed n s) 0xB1 sevError n)
      ∧ entriesDue s < entriesDue (tagFailed n s) := by
  have hfails := portFault_fails causeTag (s := s) (n := n) fun _ => hf
  obtain ⟨-, -, -, -, -, hframe⟩ := portTo_all (s := s) (n := n) .fault (some causeTag) fun _ => hf
  have hdown : ∃ u, u.glb = s.glb ∧ u.mgt = s.mgt ∧ portFault n causeTag s = devFault 0xB0 sevError 0 n n causeTag.toNat 0xFFF u :=
    ⟨modPort n (fun p => { p with downCnt := satAdd p.downCnt 1 }) (portTo n .fault (some causeTag) s), by rw [hframe]; rfl, by rw [hframe]; rfl, rfl⟩
  obtain ⟨u, hglb, hmgt, hu⟩ := hdown
  have hdue : entriesDue s ≤ entriesDue (portFault n causeTag s) := by
    have h : entriesDue u = entriesDue s := by unfold entriesDue; rw [hmgt]
    rw [hu, ← h]
    exact devRecord_due _ _
  have hlen : s.glb.faults.length < 1023 → (portFault n causeTag s).glb.faults.length < 1024 := fun hl => by
    have h1 : u.glb.faults.length < 1024 := by rw [hglb]; omega
    have h2 : (devFault 0xB0 sevError 0 n n causeTag.toNat 0xFFF u).glb.faults.length ≤ u.glb.faults.length + 1 := devRecord_length h1
    rw [hu]
    rw [hglb] at h2
    omega
  have hmark : ∀ r : FaultRec, entriesDue (portFault n causeTag s) ≤ entriesDue (devRecord r (portFault n causeTag s)) := fun r => devRecord_due r _
  unfold tagFailed
  dsimp only
  generalize portFault n causeTag s = v at hfails hdue hlen hmark
  have honly := devFault_only 0xB1 sevError 0 n n 0 (portOf s n).peerFnid v
  have hrec := devFault_recorded 0xB1 sevError 0 n n 0 (portOf s n).peerFnid v
  have hmono : entriesDue v ≤ entriesDue (devFault 0xB1 sevError 0 n n 0 (portOf s n).peerFnid v) := hmark _
  split
  · next hne => exact ⟨hfails.1.faults honly, fun hl => hrec (hlen hl), Nat.lt_of_le_of_lt hdue (Nat.lt_of_le_of_ne hmono (Ne.symm hne))⟩
  · refine ⟨hfails.1.faults (honly.trans (ledgerDevice_only _ _ _ _)), fun hl => ?_, ?_⟩
    · unfold Recorded
      rw [ledgerDevice_glb]
      exact hrec (hlen hl)
    · rw [ledgerDevice_due]
      omega

/-! ## MARK -/

section Mark
variable {s : State} {n lane : Nat} {cell : TxCell} {tagOk had : Bool} {now : Nat} (hc : isCtl 1 cell = true)
include hc

theorem mark_align (hst : (portOf s n).state = .align) : mark n lane cell tagOk had now s = alignMark (4 * n + lane) cell.data s := by
  unfold mark
  dsimp only
  rw [if_neg (by rw [hc]; decide), if_pos hst]

theorem mark_auth (hst : (portOf s n).state = .auth) (hok : (portOf s n).peerOk = true) (henc : bitAt (cellByte cell.data 2) 0 = true) :
    mark n lane cell tagOk had now s = enterTraffic n s := by
  unfold mark
  dsimp only
  rw [if_neg (by rw [hc]; decide), if_neg (by rw [hst]; decide), if_pos hst, if_pos (by rw [hok, henc]; rfl)]

/-- A bad tag of a group with an uncorrectable codeword is counted, once in 10 ms (R452). -/
theorem mark_skipped (hst : (portOf s n).state = .traffic) (he : (portOf s n).enc = true) (ht : tagOk = false) (hhad : had = true)
    (hlate : ∀ u, (portOf s n).skipAt = some u → u + 10000 < now) :
    mark n lane cell tagOk had now s = modPort n (fun p => { p with authSkip := satAdd p.authSkip 1, skipAt := some now }) s := by
  unfold mark
  dsimp only
  rw [if_neg (by rw [hc]; decide), if_neg (by rw [hst]; decide), if_neg (by rw [hst]; decide), if_neg (by rw [hst, he, ht]; decide),
    if_neg (by rw [hhad]; decide), if_neg]
  cases hskip : (portOf s n).skipAt with
  | none => exact Bool.false_ne_true
  | some u => exact fun h => absurd (of_decide_eq_true h) (Nat.not_le.mpr (hlate u hskip))

theorem mark_failed (hst : (portOf s n).state = .traffic) (he : (portOf s n).enc = true) (ht : tagOk = false)
    (hbad : had = false ∨ ∃ u, (portOf s n).skipAt = some u ∧ now ≤ u + 10000) : mark n lane cell tagOk had now s = tagFailed n s := by
  unfold mark
  dsimp only
  rw [if_neg (by rw [hc]; decide), if_neg (by rw [hst]; decide), if_neg (by rw [hst]; decide), if_neg (by rw [hst, he, ht]; decide)]
  rcases hbad with h | ⟨u, hu, hle⟩
  · rw [if_pos (by rw [h]; rfl)]
  · rw [hu]
    dsimp only
    rw [if_pos (decide_eq_true hle), ite_self]

end Mark

/-! ## Codewords -/

/-- An uncorrectable codeword counted on its lane and in the port's window. -/
def uncorrCounted (lane : Nat) (s : State) : State :=
  modPort (lane / 4) (fun p => { p with windowErrs := p.windowErrs + 1 }) (modLane lane (fun x => { x with uncorr := satAdd x.uncorr 1 }) s)

theorem uncorrCounted_lanes (lane : Nat) (s : State) :
    laneAt (uncorrCounted lane s) lane = { laneAt s lane with uncorr := satAdd (laneAt s lane).uncorr 1 }
      ∧ ∀ l, l ≠ lane → laneAt (uncorrCounted lane s) l = laneAt s l := by
  have h : ∀ l, laneAt (uncorrCounted lane s) l = laneAt (modLane lane (fun x => { x with uncorr := satAdd x.uncorr 1 }) s) l := fun _ => rfl
  exact ⟨(h lane).trans (laneAt_modLane lane _ s), fun l hl => (h l).trans (laneAt_modLane_other _ s hl)⟩

theorem fecUncorrectable_counted {lane run : Nat} {s : State} (h : listens s (lane / 4) = true) :
    fecUncorrectable ⟨lane, run⟩ s =
      let u := devFault 0xB2 sevWarn 0 (lane / 4) lane 0 0xFFF (uncorrCounted lane s)
      if 8 ≤ run then lockLost (lane / 4) (lane % 4) .codeword u else u := if_pos h

theorem uncorrCounted_local (lane : Nat) (s : State) : PortLocal s (uncorrCounted lane s) (lane / 4) :=
  ⟨fun _ h => portOf_modPort_other _ _ h, fun _ hk => (uncorrCounted_lanes lane s).2 _ fun e => hk (congrArg (· / 4) e), rfl⟩

/-- Settles O19: each event by the case of the port's state; a move is carried back over the counts and records before it. -/
theorem markersAndErrorsMovePorts : Obligations.MarkersAndErrorsMovePorts := by
  intro s n hp hn
  refine ⟨fun lane cell tagOk had now hlane hk hb => ?_, fun loss hlane hh => ?_, fun lane run hl hrun hst hq hfree => ?_, fun lane run hl hrun hx => ?_, fun hst => ?_⟩
  · have hc := isCtl_true hk hb
    have hunit : (decide (n < 64) && decide (lane < 4)) = true := by rw [decide_eq_true hn, decide_eq_true hlane]; rfl
    refine ⟨fun hst hh => ?_, fun hst hh hok henc h4 => ?_, fun hst he ht => ⟨fun hhad hlate => ?_, fun hfree hbad => ?_⟩⟩
    · have hm := mark_align (lane := lane) (tagOk := tagOk) (had := had) (now := now) hc hst
      show liveIf (decide (n < 64) && decide (lane < 4)) "lane of a port" s (bringup n (mark n lane cell tagOk had now) s) = _
      rw [bringup_next hp hunit hh (by rw [hm]; rfl), hm]
      rfl
    · have hm := mark_auth (lane := lane) (tagOk := tagOk) (had := had) (now := now) hc hst hok henc
      have honly := enterTraffic_only n s
      rw [if_neg h4] at honly
      obtain ⟨htraffic, henc', hothers, hglb, -, hframe⟩ := inTraffic_all n s
      dsimp only at htraffic henc' hothers hglb hframe
      generalize inTraffic n s = u at honly htraffic henc' hothers hglb hframe
      generalize enterTraffic n s = t at hm honly
      have hport : ∀ m, portOf t m = portOf u m := fun m => by unfold portOf; rw [honly.fields.1]
      have hfix : keepFixed s t = t := honly.keepFixed (by rw [hframe]) (by rw [hframe]) (by rw [hframe])
      have hfull := honly
      unfold FaultOnly at hfull
      refine ⟨t, ?_, by rw [hport, htraffic], by rw [hport, henc'], ?_, fun m hm => (hport m).trans (hothers m hm), ?_, ?_⟩
      · show liveIf (decide (n < 64) && decide (lane < 4)) "lane of a port" s (bringup n (mark n lane cell tagOk had now) s) = _
        rw [bringup_next hp hunit hh (by rw [hm]; exact hfix), hm]
      · rw [hfull, hglb]
      · rw [hfull, hframe]
      · rw [hfull, hframe]
    · have hm := mark_skipped (lane := lane) hc hst he ht hhad hlate
      show liveIf (decide (n < 64) && decide (lane < 4)) "lane of a port" s (bringup n (mark n lane cell tagOk had now) s) = _
      rw [settled_next hp hunit (by rw [hst]; rfl) (by rw [hm]; rfl), hm]
    · have hm := mark_failed (lane := lane) hc hst he ht hbad
      have htag := tagFailed_all hfree
      rw [← hm] at htag
      exact ⟨_, settled_next hp hunit (by rw [hst]; rfl) htag.1.kept, htag⟩
  · have hunit : (decide (n < 64) && decide (loss.lane < 4)) = true := by rw [decide_eq_true hn, decide_eq_true hlane]; rfl
    obtain ⟨hlocal, hports, hthis, hother, hframe⟩ := lockCleared_all (n := n) loss.what s hlane
    have heq := lockLost_eq n loss.lane loss.what s
    rw [hports] at heq
    generalize lockCleared n loss.lane loss.what s = u at hlocal hports hthis hother hframe heq
    have fails {st : PortState} {c : BitVec 4} (hst : (portOf s n).state = st) (hq : (portOf s n).quiet = false)
        (hx : st = .align ∨ st = .qualify ∨ st = .auth ∨ st = .traffic) (hf : lockLost n loss.lane loss.what s = portFault n c u)
        (hfree : st = .traffic → PortFree s n) : ∃ t, exec (.markerLockLoss n loss) s = .next t ∧ PortFails s t n c := by
      refine fault_next_local (f := markerLockLoss n loss) hp hunit hh ?_ hlocal (by rw [hports]) fun h => ?_
      · rw [markerLockLoss_listens (listens_of (.inl (exchanges_of hst hq hx))), hf]
      · exact (hfree (by rw [← hst, ← hports, h])).of_eq (by rw [hframe]) (by rw [hframe])
    refine ⟨fun hst hq hfree => ?_, fun hst hq => ?_, fun hst hq => ?_, fun hst => ?_⟩
    · exact fails hst hq (by decide) (by rw [heq, hst]) fun _ => hfree
    · exact fails hst hq (by decide) (by rw [heq, hst]) fun h => nomatch h
    · exact fails hst hq (by decide) (by rw [heq, hst]) fun h => nomatch h
    · have hcleared : markerLockLoss n loss s = u := by
        rcases hst with hst | ⟨hst, hq⟩
        · rw [markerLockLoss_listens (listens_of (.inr hst)), heq, hst]
        · rw [markerLockLoss_listens (listens_of (.inl (exchanges_of hst hq (by decide)))), heq, hst]
      refine ⟨u, ?_, hthis, hports, hother, hframe⟩
      show liveIf (decide (n < 64) && decide (loss.lane < 4)) "lane of a port" s (bringup n (markerLockLoss n loss) s) = _
      rw [bringup_next hp hunit hh (by rw [hcleared, hframe]; rfl), hcleared]
  · subst hl
    have hfec := fecUncorrectable_counted (run := run) (listens_of (.inl (exchanges_of hst hq (by decide))))
    rw [if_pos hrun] at hfec
    have hlocal := uncorrCounted_local lane s
    have hstate : (portOf (uncorrCounted lane s) (lane / 4)).state = .traffic := by
      unfold uncorrCounted
      rw [portOf_modPort]
      exact hst
    have hglb : (uncorrCounted lane s).glb = s.glb := rfl
    have hswc : (uncorrCounted lane s).swc = s.swc := rfl
    have heps : (uncorrCounted lane s).eps = s.eps := rfl
    generalize uncorrCounted lane s = a at hfec hlocal hstate hglb hswc heps
    have honly := devFault_only 0xB2 sevWarn 0 (lane / 4) lane 0 0xFFF a
    have hrec := devFault_recorded 0xB2 sevWarn 0 (lane / 4) lane 0 0xFFF a
    have hlen : a.glb.faults.length < 1024 → (devFault 0xB2 sevWarn 0 (lane / 4) lane 0 0xFFF a).glb.faults.length ≤ a.glb.faults.length + 1 := devRecord_length
    generalize devFault 0xB2 sevWarn 0 (lane / 4) lane 0 0xFFF a = b at hfec honly hrec hlen
    obtain ⟨blanes, -, bswc, beps, -⟩ := honly.fields
    obtain ⟨hlocal', hports, -, -, hframe⟩ := lockCleared_all (n := lane / 4) (lane := lane % 4) .codeword b (by omega)
    have heq := lockLost_eq (lane / 4) (lane % 4) .codeword b
    have hb : (portOf b (lane / 4)).state = .traffic := by unfold portOf; rw [blanes]; exact hstate
    rw [hports, hb] at heq
    dsimp only at heq
    generalize lockCleared (lane / 4) (lane % 4) .codeword b = u at hlocal' hports hframe heq
    have hfreeU : PortFree u (lane / 4) := hfree.of_eq (by rw [hframe]; exact beps.trans heps) (by rw [hframe]; exact bswc.trans hswc)
    have hfails := portFault_fails causeLock (s := u) (n := lane / 4) fun _ => hfreeU
    have hmoves := hlocal.moves (honly.moves (hlocal'.moves hfails.1))
    have hu : u.glb = b.glb := by rw [hframe]
    rw [← heq, ← hfec] at hmoves hfails
    refine ⟨_, port_next hp (decide_eq_true (show lane < 256 by omega)) hmoves.kept, hmoves, fun hl => ⟨?_, ?_⟩⟩
    · have ha : a.glb.faults.length < 1024 := by rw [hglb]; omega
      have hbl := hlen ha
      rw [hglb] at hbl
      obtain ⟨-, -, -, -, -, hto⟩ := portTo_all (s := u) (n := lane / 4) .fault (some causeLock) fun _ => hfreeU
      have hto' : (portTo (lane / 4) .fault (some causeLock) u).glb = b.glb := by rw [hto]; exact hu
      rw [hfec, heq]
      refine Recorded.after (s := modPort (lane / 4) _ (portTo (lane / 4) .fault (some causeLock) u)) ?_ _ ?_
      · unfold Recorded
        rw [modPort_glb, hto']
        exact hrec ha
      · rw [modPort_glb, hto']
        omega
    · refine hfails.2.2 ?_
      have ha : a.glb.faults.length < 1024 := by rw [hglb]; omega
      have hbl := hlen ha
      rw [hglb] at hbl
      rw [hu]
      omega
  · subst hl
    have hfec := fecUncorrectable_counted (run := run) (listens_of hx)
    rw [if_neg (Nat.not_le.mpr hrun)] at hfec
    have honly := devFault_only 0xB2 sevWarn 0 (lane / 4) lane 0 0xFFF (uncorrCounted lane s)
    have hrec := devFault_recorded 0xB2 sevWarn 0 (lane / 4) lane 0 0xFFF (uncorrCounted lane s)
    rw [← hfec] at honly hrec
    obtain ⟨hlanes, -⟩ := honly.fields
    have hport : ∀ m, portOf (fecUncorrectable ⟨lane, run⟩ s) m = portOf (uncorrCounted lane s) m := fun m => by unfold portOf; rw [hlanes]
    have hlane : ∀ l, laneAt (fecUncorrectable ⟨lane, run⟩ s) l = laneAt (uncorrCounted lane s) l := fun l => by unfold laneAt; rw [hlanes]
    refine ⟨_, port_next hp (decide_eq_true (show lane < 256 by omega)) (honly.keepFixed rfl rfl rfl), ?_, ?_, fun m hm => ?_, fun l hl => ?_, fun h => hrec h, ?_⟩
    · rw [hlane]
      exact (uncorrCounted_lanes lane s).1
    · rw [hport]
      exact portOf_modPort _ _ _
    · rw [hport]
      exact portOf_modPort_other _ _ hm
    · rw [hlane]
      exact (uncorrCounted_lanes lane s).2 l hl
    · rw [hlanes]
      exact honly
  · have hm := portTo_moves (s := s) (n := n) .reset none (not_traffic hst (by decide))
    have he : (if (portOf s n).state = .fault then portTo n .reset none s else s) = portTo n .reset none s := if_pos hst
    rw [← he] at hm
    exact ⟨_, port_next hp (decide_eq_true hn) hm.kept, hm⟩

end Sys2Proof.Machine
end

section
/-! SUPPORT. Ports at rest, in quiet, and awake again (R417, R418, R454). -/

namespace Sys2Proof.Machine

open Sys2Proof

/-! ## Power states of ports -/

theorem portPower_eq {s t : State} {m : Nat} (h1 : tabGet 0 t.pwr.portState m = tabGet 0 s.pwr.portState m) (h2 : t.pwr.portRest = s.pwr.portRest)
    (h3 : epOf t m = epOf s m) (h4 : portOf t m = portOf s m) : portPower t m = portPower s m := by
  unfold portPower portSent
  rw [h1, h2, h3, h4]

/-- A power state other than P1 is the one that the port shows. -/
theorem portPower_of {t : State} {n : Nat} {p : BitVec 2} (h : tabGet 0 t.pwr.portState n = p) (hp : p ≠ 1) : portPower t n = p.toNat := by
  unfold portPower
  dsimp only
  rw [h]
  exact if_neg fun k => hp (BitVec.eq_of_toNat_eq k.1)

/-! ## Entry to QUIET -/

theorem quietEntry_asks {s : State} {n : Nat} (hst : (portOf s n).state = .traffic) (hq : (portOf s n).quiet = false)
    (hqq : (portOf s n).quieting = false) (ht : exitP3 ≤ portTolerance s n) (hm : portMayQuiet s n = true) :
    quietEntry n s = modPort n (fun p => { p with
      quieting := true, line := lineWith s n (List.replicate 16 (.cell (ctlCell (mkCell [6])))) }) s := by
  unfold quietEntry
  dsimp only
  rw [if_pos ⟨hst, by rw [hq]; rfl, by rw [hqq]; rfl, ht, hm⟩, sendCells_line, List.map_replicate, modPort_modPort]
  refine modPort_congr ?_
  unfold lineWith
  rw [portOf_modPort]
  rfl

/-- The controller's answer: both transmitters off, no lane with a signal, the port in P3. -/
theorem quietAnswer_all {s : State} {n : Nat} (h : (portOf s n).quieting = true) :
    let t := quietAnswer n s
    portOf t n = { portOf s n with quieting := false, quiet := true, line := lineWith s n [.fill none] } ∧ portPower t n = 3
      ∧ (∀ l, l / 4 = n → laneAt t l = loseLock .signal (laneAt s l))
      ∧ (∀ m, m ≠ n → portOf t m = portOf s m ∧ portPower t m = portPower s m) ∧ (∀ l, l / 4 ≠ n → laneAt t l = laneAt s l)
      ∧ t = { s with lanes := t.lanes, pwr := { s.pwr with portState := t.pwr.portState } } := by
  obtain ⟨b, a, e, hscan⟩ := scanLost_frame n s
  obtain ⟨hin, hout, hframe⟩ := lanes_changed n (fun _ => loseLock .signal) (scanLost n s)
  unfold quietAnswer
  rw [if_pos h]
  dsimp only at hin hout hframe ⊢
  generalize forEach (portLanes n) (fun l => modLane l (loseLock .signal)) (scanLost n s) = u at hin hout hframe
  rw [hscan] at hin hout hframe
  obtain ⟨L, rfl⟩ : ∃ L, u = { s with lanes := { s.lanes with eyeBusy := b, eyeAborted := a, eyeErrs := e, lanes := L } } := ⟨_, hframe⟩
  rw [putItems_line, modPort_modPort]
  have hother : ∀ (f : Port → Port) m, m ≠ n → portOf (modPort n f { s with lanes := { s.lanes with eyeBusy := b, eyeAborted := a, eyeErrs := e, lanes := L } }) m
      = portOf s m := fun f m hm => portOf_modPort_other f _ hm
  refine ⟨?_, portPower_of (p := 3) (tabGet_set_same 0 3 _ n) (by decide), hin, fun m hm => ⟨hother _ m hm, ?_⟩, hout, rfl⟩
  · refine (portOf_modPort n _ _).trans ?_
    unfold lineWith
    rw [portOf_modPort]
    rfl
  · exact portPower_eq (tabGet_set_other 0 3 _ hm) rfl rfl (hother _ m hm)

/-! ## A relock -/

/-- A relock that has ended well, once the node is awake. -/
def relocked (n : Nat) (s : State) : State :=
  let s := forEach (portLanes n) (fun l => modLane l fun x => { x with sigDet := true, cdrLock := true, cwLock := true, markLock := true }) s
  let s := putItems n [fillWith (trainCell s n .traffic), fillWith idleCell] (modPort n (fun p => { p with quiet := false }) s)
  wakePump n (modPwr (fun p => { p with portState := tabSet 0 p.portState n 0 }) s)

theorem relock_ok (n : Nat) (s : State) : relock n true s = relocked n (if s.pwr.node = 4 then wakeNode s else s) := rfl

theorem relock_fails (n : Nat) {s : State} (h : s.pwr.node ≠ 4) : relock n false s = portFault n causeWake s := by
  unfold relock
  rw [if_neg h]
  rfl

theorem relocked_all (n : Nat) (s : State) : Relocked s (relocked n s) n [] := by
  obtain ⟨hin, -, hframe⟩ := lanes_changed n (fun _ x => { x with sigDet := true, cdrLock := true, cwLock := true, markLock := true }) s
  unfold relocked
  dsimp only at hin hframe ⊢
  generalize forEach (portLanes n) (fun l => modLane l fun x => { x with sigDet := true, cdrLock := true, cwLock := true, markLock := true }) s = u at hin hframe
  obtain ⟨L, rfl⟩ : ∃ L, u = { s with lanes := { s.lanes with lanes := L } } := ⟨_, hframe⟩
  rw [putItems_line, modPort_modPort]
  have hother : ∀ (f : Port → Port) m, m ≠ n → portOf (modPort n f { s with lanes := { s.lanes with lanes := L } }) m = portOf s m :=
    fun f m hm => portOf_modPort_other f _ hm
  refine ⟨?_, hin, portPower_of (p := 0) (tabGet_set_same 0 0 _ n) (by decide), epOf_modEp n _ _, rfl, fun m hm => ⟨hother _ m hm, epOf_modEp_other _ _ hm, ?_⟩⟩
  · refine (portOf_modPort n _ _).trans ?_
    unfold lineWith
    rw [portOf_modPort]
    rfl
  · exact portPower_eq (tabGet_set_other 0 0 _ hm) rfl (epOf_modEp_other _ _ hm) (hother _ m hm)

/-- What a transmitter was told before it relocks stands before the cells of the relock. -/
theorem Relocked.told {s t : State} {n : Nat} {told : List LineItem} (h : Relocked (putItems n told s) t n []) : Relocked s t n told := by
  have hport : portOf (putItems n told s) n = { portOf s n with line := lineWith s n told } := by rw [putItems_line]; exact portOf_modPort n _ s
  have hothers : ∀ m, m ≠ n → portOf (putItems n told s) m = portOf s m := fun m hm => portOf_modPort_other _ s hm
  refine ⟨?_, h.lanes, h.power, h.sent, ?_, fun m hm => ?_⟩
  · have hline : ∀ l, lineWith (putItems n told s) n l = lineWith s n (told ++ l) := fun l => by
      unfold lineWith
      rw [hport, List.map_append, ← List.append_assoc]
      rfl
    rw [h.port, hline, hport]
    rfl
  · rw [h.frame]
    rfl
  · obtain ⟨hp, he, hw⟩ := h.others m hm
    exact ⟨hp.trans (hothers m hm), he, hw.trans (portPower_eq rfl rfl rfl (hothers m hm))⟩

theorem laneWakeDetect_quiet {n : Nat} {ok : Bool} {s : State} (hst : (portOf s n).state = .traffic) (hq : (portOf s n).quiet = true) :
    laneWakeDetect n ok s = relock n ok s := by
  unfold laneWakeDetect
  dsimp only
  rw [if_neg (not_not.mpr hst), if_pos hq]

theorem laneWakeDetect_awake {n : Nat} {ok : Bool} {s : State} (hst : (portOf s n).state = .traffic) (hq : (portOf s n).quiet = false) :
    laneWakeDetect n ok s = modPort n (fun p => { p with quieting := false }) s := by
  unfold laneWakeDetect
  dsimp only
  rw [if_neg (not_not.mpr hst), if_neg (by rw [hq]; decide)]

theorem Relocked.kept {s t : State} {n : Nat} {told : List LineItem} (h : Relocked s t n told) : keepFixed s t = t := by
  rw [h.frame]
  rfl

/-- Settles O20: entries, the answer, and wakes, each by the model's own step; a relock is described once, on the state that it starts from. -/
theorem idlePortsGoQuietAndWake : Obligations.IdlePortsGoQuietAndWake := by
  intro s n hp hn
  have hunit : decide (n < 64) = true := decide_eq_true hn
  refine ⟨fun hst h0 hqq ht hi => ?_, fun hst hq hqq ht hm => ?_, fun hqq => ?_, ?_, fun hst hq h4 => ⟨?_, fun hfree => ?_⟩, fun hst hq ok => ?_, fun hq ok => ?_,
    fun hq h4 => ⟨?_, fun hfree => ?_⟩, fun hq h4 htrip go hgo hst => ?_⟩
  · have he : portP1Entry n s = setPortPower n 1 s := if_pos ⟨hst, h0, by rw [hqq]; rfl, ht, hi⟩
    show liveIf (decide (n < 64)) "port" s (portP1Entry n s) = _
    rw [he]
    exact port_next hp hunit rfl
  · show liveIf (decide (n < 64)) "port" s (quietEntry n s) = _
    rw [quietEntry_asks hst hq hqq ht hm]
    exact port_next hp hunit rfl
  · obtain ⟨hport, hpower, hin, hothers, hout, hframe⟩ := quietAnswer_all hqq
    exact ⟨_, port_next hp hunit (by rw [hframe]; rfl), hport, hpower, hin, hothers, hout, hframe⟩
  · exact port_next hp hunit rfl
  · have hr := relocked_all n s
    have he : laneWakeDetect n true s = relocked n s := by rw [laneWakeDetect_quiet hst hq, relock_ok, if_neg h4]
    rw [← he] at hr
    exact ⟨_, port_next hp hunit hr.kept, hr⟩
  · have hf := portFault_fails causeWake fun _ => hfree
    have he : laneWakeDetect n false s = portFault n causeWake s := by rw [laneWakeDetect_quiet hst hq, relock_fails n h4]
    rw [← he] at hf
    exact ⟨_, port_next hp hunit hf.1.kept, hf⟩
  · show liveIf (decide (n < 64)) "port" s (laneWakeDetect n ok s) = _
    rw [laneWakeDetect_awake hst hq]
    exact port_next hp hunit rfl
  · have he : wakePort n ok s = setPortPower n 0 (modPort n (fun p => { p with quieting := false }) s) := if_neg (by rw [hq]; decide)
    show liveIf (decide (n < 64)) "port" s (wakePort n ok s) = _
    rw [he]
    exact port_next hp hunit rfl
  · have he : wakePort n true s = relock n true (putItems n [.wake] s) := if_pos hq
    have hr := (relocked_all n (putItems n [.wake] s)).told
    rw [relock_ok, if_neg (by exact h4)] at he
    rw [← he] at hr
    exact ⟨_, port_next hp hunit hr.kept, hr⟩
  · have he : wakePort n false s = relock n false (putItems n [.wake] s) := if_pos hq
    rw [relock_fails n (by exact h4)] at he
    have hport : portOf (putItems n [.wake] s) n = { portOf s n with line := lineWith s n [.wake] } := by rw [putItems_line]; exact portOf_modPort n _ s
    have hlocal : PortLocal s (putItems n [.wake] s) n := modPort_local n _ s
    have hf := hlocal.fails (by rw [hport])
      (portFault_fails causeWake fun h => (hfree (by rw [hport] at h; exact h)).of_eq rfl rfl)
    rw [← he] at hf
    exact ⟨_, port_next hp hunit hf.1.kept, hf⟩
  · have hback : ∀ u : State, u.pwr.node = 4 → u.pwr.tripped = false → u.pending = s.pending → u.fuses = s.fuses → u.attachBuf = s.attachBuf →
        keepFixed s (relock n true u) = relock n true u ∧ (relock n true u).pwr.node = 0 ∧ (portOf (relock n true u) n).quiet = false
          ∧ portPower (relock n true u) n = 0 := by
      intro u hu4 hut h1 h2 h3
      obtain ⟨-, wpwr, -, -, -, -, -, wpend, wfuse, wbuf⟩ := (wakeNode_four_only hut hu4).fields
      have hr := relocked_all n (wakeNode u)
      rw [relock_ok, if_pos hu4]
      refine ⟨?_, ?_, by rw [hr.port], hr.power⟩
      · apply keepFixed_self
        · rw [hr.frame]; exact wpend.trans h1
        · rw [hr.frame]; exact wfuse.trans h2
        · rw [hr.frame]; exact wbuf.trans h3
      · rw [hr.frame]
        exact congrArg Pwr.node wpwr
    rcases List.mem_cons.mp hgo with rfl | hgo
    · have he := laneWakeDetect_quiet (ok := true) hst hq
      have hb := hback s h4 htrip rfl rfl rfl
      rw [← he] at hb
      exact ⟨_, port_next hp hunit hb.1, hb.2⟩
    · obtain rfl := List.mem_singleton.mp hgo
      have he : wakePort n true s = relock n true (putItems n [.wake] s) := if_pos hq
      have hb := hback (putItems n [.wake] s) h4 htrip rfl rfl rfl
      rw [← he] at hb
      exact ⟨_, port_next hp hunit hb.1, hb.2⟩

end Sys2Proof.Machine
end

section
/-! SUPPORT. Group and member tables, array loads and binding tables under register writes (R276-R278, R331, R339). -/

namespace Sys2Proof.Machine

open Sys2Proof

/-! ## The group table -/

theorem setGroupMask_parts (g : Nat) (x : Option (BitVec 64)) (s : State) :
    ∃ k m, setGroupMask g x s = { s with col := { s.col with grpMask := k }, swc := { s.swc with mcast := m } } := by
  unfold setGroupMask
  split <;> exact ⟨_, _, rfl⟩

/-- What a WRITE of the group table leaves: its STATUS, and the entry where the checks give 0. -/
theorem groupWrite_parts (g : Nat) (s : State) :
    ∃ gs l v k m, groupWrite g s = { s with
        col := { s.col with grpStatus := BitVec.ofNat 3 (groupCheck s g s.col.grpData), groups := gs, grpLocal := l, grpLeaves := v, grpMask := k }
        swc := { s.swc with mcast := m } }
      ∧ (groupCheck s g s.col.grpData = 0 → gs = tabSet 0 s.col.groups g s.col.grpData)
      ∧ (groupCheck s g s.col.grpData ≠ 0 → gs = s.col.groups ∧ m = s.swc.mcast) := by
  unfold groupWrite
  dsimp only
  by_cases hc : groupCheck s g s.col.grpData = 0
  · rw [if_neg (not_not.mpr hc)]
    obtain ⟨k, m, h⟩ := setGroupMask_parts g (some (grpMaskOf (modCol (fun u => { u with grpStatus := BitVec.ofNat 3 (groupCheck s g s.col.grpData) }) s) s.col.grpData))
      (modCol (fun u => { u with
        groups := tabSet 0 u.groups g s.col.grpData
        grpLocal := tabSet [] u.grpLocal g (deriveLocal (modCol (fun u => { u with grpStatus := BitVec.ofNat 3 (groupCheck s g s.col.grpData) }) s) s.col.grpData)
        grpLeaves := tabSet [] u.grpLeaves g (deriveLeaves (modCol (fun u => { u with grpStatus := BitVec.ofNat 3 (groupCheck s g s.col.grpData) }) s) s.col.grpData) })
        (modCol (fun u => { u with grpStatus := BitVec.ofNat 3 (groupCheck s g s.col.grpData) }) s))
    rw [h]
    exact ⟨_, _, _, _, _, rfl, fun _ => rfl, fun h => absurd hc h⟩
  · rw [if_pos hc]
    exact ⟨_, _, _, _, _, rfl, fun h => absurd h hc, fun _ => ⟨rfl, rfl⟩⟩

theorem groupInvalidate_parts {g : Nat} {s : State} (h : groupLive s g = false) :
    ∃ l v k m, groupInvalidate g s = { s with
      col := { s.col with
        grpStatus := 0, groups := tabSet 0 s.col.groups g (putBits (tabGet 0 s.col.groups g) 63 1 0), grpLocal := l, grpLeaves := v, grpMask := k }
      swc := { s.swc with mcast := m } } := by
  unfold groupInvalidate
  rw [if_neg (by rw [h]; decide)]
  obtain ⟨k, m, hm⟩ := setGroupMask_parts g none (modCol (fun u => { u with
    grpStatus := 0, groups := tabSet 0 u.groups g (putBits (tabGet 0 u.groups g) 63 1 0), grpLocal := tabSet [] u.grpLocal g []
    grpLeaves := tabSet [] u.grpLeaves g [] }) s)
  rw [hm]
  exact ⟨_, _, _, _, rfl⟩

section GroupCtl
variable (g : BitVec 12) (s : State)

theorem groupCtlWrite_write : groupCtlWrite (pack [(26, 1), (0, g.toNat)]) s = started (groupWrite g.toNat (modCol (fun u => { u with grpIndex := g }) s)) := by
  unfold groupCtlWrite
  rw [pack_index g (by decide) (by decide), pack_op (k := g.toNat) (by omega) (by decide) (by decide)]
  rfl

theorem groupCtlWrite_read : groupCtlWrite (pack [(26, 2), (0, g.toNat)]) s
    = started (modCol (fun u => { u with grpIndex := g, grpStatus := 0, grpData := tabGet 0 u.groups g.toNat }) s) := by
  unfold groupCtlWrite
  rw [pack_index g (by decide) (by decide), pack_op (k := g.toNat) (by omega) (by decide) (by decide)]
  rfl

theorem groupCtlWrite_invalidate : groupCtlWrite (pack [(26, 3), (0, g.toNat)]) s
    = started (groupInvalidate g.toNat (modCol (fun u => { u with grpIndex := g }) s)) := by
  unfold groupCtlWrite
  rw [pack_index g (by decide) (by decide), pack_op (k := g.toNat) (by omega) (by decide) (by decide)]
  rfl

end GroupCtl

/-- A pair of member entries that no VALID group uses takes its value. -/
theorem memberWrite_free {m : Nat} {v : W32} {s : State} (hlo : memberInUse s (2 * m) = false) (hhi : memberInUse s (2 * m + 1) = false) :
    memberWrite m v s = wrote (modCol (fun w => { w with members := tabSet 0 (tabSet 0 w.members (2 * m) (bitsOf v 0 16)) (2 * m + 1) (bitsOf v 16 16) }) s) := by
  unfold memberWrite
  exact if_neg (by dsimp only; rw [hlo, hhi, Bool.and_false, Bool.and_false]; decide)

/-! ## Arrays -/

/-- UNLOAD, behind its checks. -/
def unloadChecked (array : Nat) (prog : BitVec 16) (c : Nat) (s : State) : State :=
  let s := modArr (fun u => { u with loadStatus := BitVec.ofNat 4 c }) s
  if c = 0 then dropResident array prog s else s

theorem arrLoadCtlWrite_unload {a : BitVec 10} {s : State} (hb : s.arr.loadBusy = none)
    (hres : (residentProg (arrOf s a.toNat) (bitsOf s.arr.loadProg 0 16)).isSome = true) (hrun : runsProg (arrOf s a.toNat) (bitsOf s.arr.loadProg 0 16) = false) :
    arrLoadCtlWrite (pack [(25, 2), (0, a.toNat)]) s
      = started (dropResident a.toNat (bitsOf s.arr.loadProg 0 16) (modArr (fun w => { w with loadArray := a, loadStatus := 0 }) s)) := by
  have hunload : arrUnload a.toNat (modArr (fun u => { u with loadArray := a }) s)
      = dropResident a.toNat (bitsOf s.arr.loadProg 0 16) (modArr (fun w => { w with loadArray := a, loadStatus := 0 }) s) := by
    have hcheck : (if (residentProg (arrOf s a.toNat) (bitsOf s.arr.loadProg 0 16)).isNone then 11
        else if runsProg (arrOf s a.toNat) (bitsOf s.arr.loadProg 0 16) then 12 else 0) = 0 := by
      rw [if_neg (by rw [Option.isNone_iff_eq_none]; exact Option.isSome_iff_ne_none.mp hres), if_neg (by rw [hrun]; decide)]
    have hunfold : arrUnload a.toNat (modArr (fun u => { u with loadArray := a }) s)
        = unloadChecked a.toNat (bitsOf s.arr.loadProg 0 16) (if (residentProg (arrOf s a.toNat) (bitsOf s.arr.loadProg 0 16)).isNone then 11
          else if runsProg (arrOf s a.toNat) (bitsOf s.arr.loadProg 0 16) then 12 else 0) (modArr (fun u => { u with loadArray := a }) s) := rfl
    rw [hunfold, hcheck]
    rfl
  unfold arrLoadCtlWrite
  rw [pack_index a (by decide) (by decide), pack_op (k := a.toNat) (by omega) (by decide) (by decide), hb]
  dsimp only
  rw [hunload]
  rfl

theorem cbCtl_read (b e : BitVec 4) :
    (bitsOf (pack [(26, 2), (4, b.toNat), (0, e.toNat)]) 26 2).toNat = 2 ∧ (bitsOf (pack [(26, 2), (4, b.toNat), (0, e.toNat)]) 4 4 : BitVec 4) = b
      ∧ (bitsOf (pack [(26, 2), (4, b.toNat), (0, e.toNat)]) 0 4 : BitVec 4) = e := by
  revert b e; decide

theorem arrCbCtlWrite_read {b : BitVec 4} (e : BitVec 4) (s : State) (h : b.toNat < 12) :
    arrCbCtlWrite (pack [(26, 2), (4, b.toNat), (0, e.toNat)]) s
      = started (modArr (fun w => { w with cbGroup := b, cbEntry := e, cbStatus := 0, cbData := tabGet 0 s.col.cb (cbKey b.toNat e.toNat) }) s) := by
  obtain ⟨hop, hb, he⟩ := cbCtl_read b e
  have hread : cbRead b.toNat e.toNat (modArr (fun u => { u with cbGroup := b, cbEntry := e }) s)
      = modArr (fun w => { w with cbGroup := b, cbEntry := e, cbStatus := 0, cbData := tabGet 0 s.col.cb (cbKey b.toNat e.toNat) }) s :=
    if_neg (Nat.not_le.mpr h)
  unfold arrCbCtlWrite
  rw [hop, hb, he]
  exact congrArg started hread

/-- Settles O6: table WRITEs by what they leave of the state, the other operations by their answers. -/
theorem groupAndArrayRegistersTakeEffect : Obligations.GroupAndArrayRegistersTakeEffect := by
  intro s i x g a b e v hs ho hr
  refine ⟨?_, ?_, fun hl => ?_, fun m hm hlo hhi => ?_, fun hb hres hrun => ?_, fun hb => ?_⟩
  · obtain ⟨t, w, he, hf, -, -⟩ := write_state (off := 0x07000008) (v := pack [(26, 1), (0, g.toNat)]) hs ho (r := .grpCtl) rfl (may_both hr rfl)
    obtain ⟨gs, l, vs, k, m, hw, hok, hbad⟩ := groupWrite_parts g.toNat (modCol (fun u => { u with grpIndex := g }) (countIn i s))
    have hwrite : (writeReg x.role .grpCtl (pack [(26, 1), (0, g.toNat)]) (countIn i s)).state
        = groupWrite g.toNat (modCol (fun u => { u with grpIndex := g }) (countIn i s)) := by
      show (groupCtlWrite _ _).state = _
      rw [groupCtlWrite_write]
      rfl
    rw [hwrite, hw] at hf
    refine ⟨t, he, ?_, ?_, ?_, fun hc => ?_, fun hc => ?_, ?_, ?_⟩
    · rw [hf]; rfl
    · rw [hf]; rfl
    · rw [hf]; rfl
    · rw [hf]; exact hok hc
    · rw [hf]; obtain ⟨h1, h2⟩ := hbad hc; rw [h1, h2]; exact ⟨rfl, rfl⟩
    · rw [hf]; rfl
    · rw [hf]; rfl
  · exact live_write hs ho rfl (may_both hr rfl) (groupCtlWrite_read g (countIn i s))
  · obtain ⟨t, w, he, hf, -, -⟩ := write_state (off := 0x07000008) (v := pack [(26, 3), (0, g.toNat)]) hs ho (r := .grpCtl) rfl (may_both hr rfl)
    obtain ⟨l, vs, k, m, hw⟩ := groupInvalidate_parts (g := g.toNat) (s := modCol (fun u => { u with grpIndex := g }) (countIn i s)) hl
    have hwrite : (writeReg x.role .grpCtl (pack [(26, 3), (0, g.toNat)]) (countIn i s)).state
        = groupInvalidate g.toNat (modCol (fun u => { u with grpIndex := g }) (countIn i s)) := by
      show (groupCtlWrite _ _).state = _
      rw [groupCtlWrite_invalidate]
      rfl
    rw [hwrite, hw] at hf
    refine ⟨t, he, ?_, ?_, ?_⟩ <;> (rw [hf]; rfl)
  · exact unit_write hs ho (regOf_colMember hm) (may_both hr rfl) (decide_eq_true hm) (memberWrite_free (s := countIn i s) hlo hhi)
  · exact live_write hs ho rfl (may_both hr rfl) (arrLoadCtlWrite_unload (s := countIn i s) hb hres hrun)
  · exact live_write hs ho rfl (may_both hr rfl) (arrCbCtlWrite_read e (countIn i s) hb)

end Sys2Proof.Machine
end

section
/-! SUPPORT. READ, and what a register shows after a WRITE (R466, R491-R493). -/

namespace Sys2Proof.Machine

open Sys2Proof

/-! ## Reads, and the message count of a session -/

theorem readEffect_countIn (i : Nat) (r : Reg) (s : State) : readEffect r (countIn i s) = countIn i (readEffect r s) := by
  cases r with
  | fltData k =>
    show (if k = 0 then showFault (countIn i s) else countIn i s) = countIn i (if k = 0 then showFault s else s)
    split
    · show (if s.glb.faults.isEmpty then countIn i s else modGlb _ (countIn i s)) = countIn i (if s.glb.faults.isEmpty then s else modGlb _ s)
      split <;> rfl
    · rfl
  | relTx p | relRx p | cairnStat p => cases p <;> rfl
  | tickNow hi | tickStep hi | energy hi | ledgerSeq hi => cases hi <;> rfl
  | _ => rfl

theorem readEffect_keeps (r : Reg) (s : State) : (readEffect r s).mgt.replies = s.mgt.replies ∧ (readEffect r s).mgt.recovery = s.mgt.recovery := by
  cases r with
  | fltData k =>
    show (if k = 0 then showFault s else s).mgt.replies = _ ∧ (if k = 0 then showFault s else s).mgt.recovery = _
    split
    · unfold showFault
      split <;> exact ⟨rfl, rfl⟩
    · exact ⟨rfl, rfl⟩
  | relTx p | relRx p | cairnStat p => cases p <;> exact ⟨rfl, rfl⟩
  | tickNow hi | tickStep hi | energy hi | ledgerSeq hi => cases hi <;> exact ⟨rfl, rfl⟩
  | _ => exact ⟨rfl, rfl⟩

/-- One word of a READ, and the state after it. -/
def readWord (off : Nat) (s : State) : W32 × State :=
  match regOf off with
  | none => (0, s)
  | some r => if served s r then (peekReg s r, readEffect r s) else (0, s)

theorem readWords_succ (k off : Nat) (s : State) :
    readWords (k + 1) off s = (bvBytes (readWord off s).1 ++ (readWords k (off + 4) (readWord off s).2).1, (readWords k (off + 4) (readWord off s).2).2) := rfl

theorem readWord_countIn (i off : Nat) (s : State) : readWord off (countIn i s) = ((readWord off s).1, countIn i (readWord off s).2) := by
  unfold readWord
  cases regOf off with
  | none => rfl
  | some r =>
    show (if served s r then (peekReg (countIn i s) r, readEffect r (countIn i s)) else (0, countIn i s)) = _
    dsimp only
    split
    · rw [peekReg_countIn, readEffect_countIn]
    · rfl

theorem readWords_countIn (i k off : Nat) (s : State) : readWords k off (countIn i s) = ((readWords k off s).1, countIn i (readWords k off s).2) := by
  induction k generalizing off s with
  | zero => rfl
  | succ k ih => rw [readWords_succ, readWords_succ, readWord_countIn, ih]

theorem readWord_replies (off : Nat) (s : State) : (readWord off s).2.mgt.replies = s.mgt.replies := by
  unfold readWord
  cases regOf off with
  | none => rfl
  | some r =>
    dsimp only
    split
    · exact (readEffect_keeps r s).1
    · rfl

theorem readWords_replies (k off : Nat) (s : State) : (readWords k off s).2.mgt.replies = s.mgt.replies := by
  induction k generalizing off s with
  | zero => rfl
  | succ k ih => rw [readWords_succ]; exact (ih _ _).trans (readWord_replies off s)

theorem served_of {s : State} (h : Serving s) (r : Reg) : served s r = true := by
  unfold served
  rw [h.2]
  rfl

/-- A READ within its limits answers the words, on the state that its reads leave. -/
theorem mahelRead_words {s : State} {i : Nat} {x : Session} {off : W32} {k : Nat} (ho : HasSession s i x) (ha : off.toNat % 4 = 0) (h0 : k ≠ 0) (hk : k ≤ 256) :
    mahelRead i off k s = reply i 0x10 resOk (readWords k off.toNat s).1 (countIn i (readWords k off.toNat s).2) := by
  unfold mahelRead
  rw [withSession_open ho, readWords_countIn]
  exact if_neg (by omega)

theorem regOf_aligned {off : Nat} {r : Reg} (h : regOf off = some r) : off % 4 = 0 := by
  unfold regOf at h
  dsimp only at h
  split at h
  · cases h
  · omega

/-- One register read. -/
theorem readWords_one {s : State} {off : Nat} {r : Reg} (hs : Serving s) (h : regOf off = some r) :
    readWords 1 off s = (bvBytes (peekReg s r), readEffect r s) := by
  have hw : readWord off s = (peekReg s r, readEffect r s) := by
    unfold readWord
    rw [h]
    exact if_pos (served_of hs r)
  rw [readWords_succ, hw]
  show (bvBytes (peekReg s r) ++ [], readEffect r s) = _
  rw [List.append_nil]

/-! ## What a register shows after a WRITE -/

/-- The state that a session's command leaves around a register's write. -/
def answeredWith (s w : State) (m : Mgt) (k : Nat) : State :=
  { keepFixed s w with
    mgt := { w.mgt with
      sessions := m.sessions, replies := m.replies, wire := m.wire, queue := m.queue, store := m.store, headSeq := m.headSeq, overwritten := m.overwritten }
    freeCount := k }

/-- Only these registers show a fuse or the ledger. -/
def showsFixed (r : Reg) : Bool :=
  match r with
  | .mac _ | .fwStat | .lockStat | .ledgerStat | .ledgerSeq _ => true
  | _ => false

theorem peekReg_answeredWith {r : Reg} (h : showsFixed r = false) (s w : State) (m : Mgt) (k : Nat) : peekReg (answeredWith s w m k) r = peekReg w r := by
  cases r with
  | mac _ | fwStat | lockStat | ledgerStat | ledgerSeq _ => cases h
  | retxCfg p | relTx p | relRx p | relOcc p | cairnStat p => cases p <;> rfl
  | _ => rfl

/-- What a register shows after the answer, it showed after its write: those that show a fuse are not written. -/
theorem peekReg_written {r : Reg} (h1 : r ≠ .ledgerStat) (h2 : ∀ hi, r ≠ .ledgerSeq hi) (s : State) (i : Nat) (role : Byte) (v : W32) (m : Mgt) (k : Nat) :
    peekReg (answeredWith s (writeReg role r v (countIn i s)).state m k) r = peekReg (writeReg role r v (countIn i s)).state r := by
  cases hf : showsFixed r with
  | false => exact peekReg_answeredWith hf s _ m k
  | true =>
    unfold showsFixed at hf
    split at hf
    · rfl
    · rfl
    · rfl
    · exact absurd rfl h1
    · exact absurd rfl (h2 _)
    · cases hf

/-- Settles O8: a READ by its words, one word by its register, and a WRITE by what the register's write left. -/
theorem readAndWriteAnswer : Obligations.ReadAndWriteAnswer := by
  refine ⟨fun s i x off count hs ho ha h0 hk => ?_, fun s i x off r hs ho hr => ?_, fun s i x off v r hs ho hr => ⟨fun hm => ?_, fun hm => ?_⟩,
    fun s i x off v hs ho hr => ?_⟩
  · have hread := mahelRead_words ho ha (k := count.toNat) (fun h => h0 (BitVec.eq_of_toNat_eq h)) hk
    refine ⟨_, live_next hs.1, ?_, rfl, rfl⟩
    rw [keepFixed_mgt, hread]
    show (readWords count.toNat off.toNat s).2.mgt.replies ++ _ = _
    rw [readWords_replies]
    rfl
  · have hread := mahelRead_words ho (regOf_aligned hr) (k := 1) (by decide) (by decide)
    rw [readWords_one hs hr] at hread
    refine ⟨_, live_next hs.1, ?_, fun hsame => ?_⟩
    · rw [keepFixed_mgt]
      show (mahelRead i off 1 s).mgt.replies = _
      rw [hread]
      show (readEffect r s).mgt.replies ++ _ = _
      rw [(readEffect_keeps r s).1]
      rfl
    · show Answered s (keepFixed s (mahelRead i off 1 s)) i _
      rw [hread, hsame]
      exact reply_only i 0x10 resOk (bvBytes (peekReg s r)) s
  · obtain ⟨t, w, he, hf, hmgt, hw⟩ := write_state (v := v) hs ho hr hm
    refine ⟨t, he, (writeReg x.role r v (countIn i s)).busy, w, ?_, fun h1 h2 => ?_⟩
    · rw [hmgt]
      exact List.getLast?_concat ..
    · have ht : t = answeredWith s (writeReg x.role r v (countIn i s)).state t.mgt t.freeCount := by
        have hrep : t.mgt.replies = (writeReg x.role r v (countIn i s)).state.mgt.replies ++ [⟨i, 0x91, some resOk, bvBytes w⟩] := congrArg Mgt.replies hmgt
        rw [← hrep] at hmgt
        rw [hmgt] at hf
        exact hf
      rw [hw, ht, peekReg_written h1 h2]
  · exact denied_write hs ho hr hm
  · have ha := sessEntry_reply i 0x11 resFormat (zeros 4) 3 x resFormat (writeFields off 0 0 v ++ [(16, 1, 0x11)]) s
    obtain ⟨h1, h2, h3, -⟩ := ha.fixed
    refine ⟨_, ?_, ha⟩
    show live s (mahelWrite i off v s) = _
    rw [live_next hs.1, mahelWrite, withSession_open ho, hr]
    exact congrArg _ (keepFixed_self h1 h2 h3)

end Sys2Proof.Machine
end

section
/-! SUPPORT. The combining buffers written back (R212). -/

namespace Sys2Proof.Machine

open Sys2Proof

/-- A key that a table does not list reads as the default. -/
theorem tabGet_unlisted {α : Type} (d : α) {t : Tab α} {k : Nat} (h : ¬ k ∈ t.map (·.1)) : tabGet d t k = d := by
  induction t with
  | nil => rfl
  | cons e t ih =>
    obtain ⟨i, v⟩ := e
    rw [List.map_cons, List.mem_cons, not_or] at h
    rw [tabGet, if_neg h.1]
    exact ih h.2

theorem writeBack_parts (e : CombEntry) (s : State) : ∃ c w p r, writeBack e s
    = { s with mem := { s.mem with cells := c, words := w, poison := p, errs := r } } := by
  unfold writeBack
  split
  · exact ⟨_, _, _, _, rfl⟩
  · exact ⟨_, _, _, _, rfl⟩

theorem writeBacks_parts (l : List CombEntry) (s : State) : ∃ c w p r, forEach l writeBack s
    = { s with mem := { s.mem with cells := c, words := w, poison := p, errs := r } } := by
  induction l generalizing s with
  | nil => exact ⟨_, _, _, _, rfl⟩
  | cons e l ih =>
    obtain ⟨c, w, p, r, h⟩ := writeBack_parts e s
    obtain ⟨c', w', p', r', h'⟩ := ih (writeBack e s)
    refine ⟨c', w', p', r', h'.trans ?_⟩
    rw [h]

theorem drainChannel_parts (c : Nat) (s : State) : ∃ cs w p r, drainChannel c s
    = { s with mem := { s.mem with cells := cs, words := w, poison := p, errs := r, channels := tabMod {} s.mem.channels c fun ch => { ch with comb := [] } } } := by
  obtain ⟨cs, w, p, r, h⟩ := writeBacks_parts (chanOf s c).comb s
  unfold drainChannel
  dsimp only
  rw [h]
  exact ⟨_, _, _, _, rfl⟩

theorem drainChannel_comb (c d : Nat) (s : State) : (chanOf (drainChannel c s) d).comb = if d = c then [] else (chanOf s d).comb := by
  obtain ⟨cs, w, p, r, h⟩ := drainChannel_parts c s
  rw [h]
  show (tabGet {} (tabMod {} s.mem.channels c fun ch => { ch with comb := [] }) d).comb = _
  split
  · next hd => rw [hd, tabGet_mod_same]
  · next hd =>
    rw [tabGet_mod_other _ _ _ hd]
    rfl

/-- Channels drained: memory alone changes, and a drained channel has no line left in its buffer. -/
theorem drainChannels_all (l : List Nat) (s : State) :
    (∃ cs w p r ch, forEach l drainChannel s = { s with mem := { s.mem with cells := cs, words := w, poison := p, errs := r, channels := ch } })
      ∧ ∀ d, (chanOf (forEach l drainChannel s) d).comb = if d ∈ l then [] else (chanOf s d).comb := by
  induction l generalizing s with
  | nil => exact ⟨⟨_, _, _, _, _, rfl⟩, fun d => (if_neg (List.not_mem_nil)).symm⟩
  | cons c l ih =>
    obtain ⟨⟨cs, w, p, r, ch, h⟩, hcomb⟩ := ih (drainChannel c s)
    obtain ⟨cs', w', p', r', h'⟩ := drainChannel_parts c s
    refine ⟨⟨cs, w, p, r, ch, h.trans (by rw [h'])⟩, fun d => (hcomb d).trans ?_⟩
    rw [drainChannel_comb]
    by_cases hl : d ∈ l
    · rw [if_pos hl, if_pos (List.mem_cons_of_mem c hl)]
    · by_cases hd : d = c
      · rw [if_neg hl, if_pos hd, if_pos (by rw [hd]; exact List.mem_cons_self ..)]
      · rw [if_neg hl, if_neg hd, if_neg (by rw [List.mem_cons, not_or]; exact ⟨hd, hl⟩)]

/-- Every channel drained: no line stands in any buffer. -/
theorem allDrained_comb (s : State) (d : Nat) : (chanOf (forEach (s.mem.channels.map (·.1)) drainChannel s) d).comb = [] := by
  rw [(drainChannels_all _ s).2 d]
  split
  · rfl
  · next h =>
    unfold chanOf
    rw [tabGet_unlisted {} h]

theorem drainChannel_countIn (i c : Nat) (s : State) : drainChannel c (countIn i s) = countIn i (drainChannel c s) := by
  have hback : ∀ (l : List CombEntry) (u : State), forEach l writeBack (countIn i u) = countIn i (forEach l writeBack u) := by
    intro l
    induction l with
    | nil => intro u; rfl
    | cons e l ih =>
      intro u
      have he : writeBack e (countIn i u) = countIn i (writeBack e u) := by
        unfold writeBack
        split <;> rfl
      show forEach l writeBack (writeBack e (countIn i u)) = countIn i (forEach l writeBack (writeBack e u))
      rw [he, ih]
  unfold drainChannel
  show modChan c _ (forEach (chanOf s c).comb writeBack (countIn i s)) = _
  rw [hback]
  rfl

theorem drainChannels_countIn (i : Nat) (l : List Nat) (s : State) : forEach l drainChannel (countIn i s) = countIn i (forEach l drainChannel s) := by
  induction l generalizing s with
  | nil => rfl
  | cons c l ih =>
    show forEach l drainChannel (drainChannel c (countIn i s)) = countIn i (forEach l drainChannel (drainChannel c s))
    rw [drainChannel_countIn, ih]

end Sys2Proof.Machine
end

section
/-! SUPPORT. The device fault queue's registers, and the drain (R391-R393, R410). -/

namespace Sys2Proof.Machine

open Sys2Proof

theorem showFault_eq (s : State) : showFault s = modGlb (fun g => { g with shown := if s.glb.faults = [] then g.shown else true }) s := by
  unfold showFault
  cases h : s.glb.faults with
  | nil => rfl
  | cons r l => rfl

theorem fltCtlWrite_pop {v : W32} {s : State} (h : bitAt v 31 = true) : fltCtlWrite v s = wrote (modGlb (fun g => { g with
    notifyEn := bitAt v 30, notifySev := bitsOf v 28 2, notifyTally := bitsOf v 0 16
    faults := if g.shown then g.faults.drop 1 else g.faults, shown := false }) s) := by
  unfold fltCtlWrite popFault
  dsimp only
  rw [if_pos h]
  cases hshown : s.glb.shown with
  | true =>
    rw [if_pos (by exact hshown)]
    unfold modGlb
    dsimp only
    rw [hshown]
    rfl
  | false =>
    rw [if_neg (by rw [modGlb_glb]; exact Bool.eq_false_iff.mp hshown)]
    unfold modGlb
    dsimp only
    rw [hshown]
    rfl

/-- The buffers written back where a drain begins. -/
def drainBegun (v : W32) (s : State) : State :=
  if bitAt v 31 && !s.glb.drainReq then forEach (s.mem.channels.map (·.1)) drainChannel s else s

theorem drainBegun_countIn (i : Nat) (v : W32) (s : State) : drainBegun v (countIn i s) = countIn i (drainBegun v s) := by
  unfold drainBegun
  show (if bitAt v 31 && !s.glb.drainReq then forEach (s.mem.channels.map (·.1)) drainChannel (countIn i s) else countIn i s) = _
  split
  · exact drainChannels_countIn i _ s
  · rfl

theorem drainBegun_parts (v : W32) (s : State) : ∃ m, drainBegun v s = { s with mem := m } := by
  unfold drainBegun
  split
  · obtain ⟨⟨cs, w, p, r, ch, h⟩, -⟩ := drainChannels_all (s.mem.channels.map (·.1)) s
    exact ⟨_, h⟩
  · exact ⟨_, rfl⟩

/-- Settles O7: the shown record, POP, the drain and the move. -/
theorem faultRecordsAreShownPoppedAndMoved : Obligations.FaultRecordsAreShownPoppedAndMoved := by
  refine ⟨fun s i x hs ho => ?_, fun s i x v hs ho hr => ?_, fun s i x v hs ho hr => ?_, fun s n r rest hp hn hf => ?_⟩
  · have hread := mahelRead_words (off := 0x40) (k := 1) ho (by decide) (by decide) (by decide)
    rw [readWords_one (r := .fltData 0) hs rfl] at hread
    refine ⟨_, live_next hs.1, ?_⟩
    rw [hread]
    have hshow : readEffect (.fltData 0) s = modGlb (fun g => { g with shown := if s.glb.faults = [] then g.shown else true }) s := showFault_eq s
    dsimp only
    rw [hshow]
    exact reply_only i 0x10 resOk (bvBytes (fltWord s 0)) _
  · have hpop : bitAt (v ||| 0x80000000) 31 = true := by rw [bitAt_or, Bool.or_eq_true]; exact .inr (by decide)
    exact live_write hs ho rfl (may_both hr rfl) (fltCtlWrite_pop (s := countIn i s) hpop)
  · have hrises : (bitAt v 31 = true ∧ s.glb.drainReq = false) ↔ (bitAt v 31 && !s.glb.drainReq) = true := by
      rw [Bool.and_eq_true, Bool.not_eq_true']
    have hu : (if bitAt v 31 = true ∧ s.glb.drainReq = false then forEach (s.mem.channels.map (·.1)) drainChannel s else s) = drainBegun v s := by
      unfold drainBegun
      exact if_congr hrises rfl rfl
    obtain ⟨m, hm⟩ := drainBegun_parts v s
    have hw : drainCtlWrite v (countIn i s) = wrote (countIn i (modGlb (fun g => { g with drainReq := bitAt v 31 }) (drainBegun v s))) := by
      show wrote (modGlb _ (drainBegun v (countIn i s))) = _
      rw [drainBegun_countIn]
      rfl
    dsimp only
    rw [hu]
    obtain ⟨t, he, ha⟩ := live_write (off := 0x20) (r := .drainCtl) hs ho rfl (may_both hr rfl) hw (by rw [hm]; exact ⟨rfl, rfl, rfl⟩)
    have hframe := ha.frame
    have hmgt := ha.mgt
    refine ⟨t, he, ha, fun hrise c => ?_, ?_, ?_⟩
    · have hmem : t.mem = (drainBegun v s).mem := by rw [hframe]; rfl
      have hd : drainBegun v s = forEach (s.mem.channels.map (·.1)) drainChannel s := if_pos (hrises.mp hrise)
      have hcomb := allDrained_comb s c
      unfold chanOf at *
      rw [hmem, hd]
      exact hcomb
    · rw [hm] at hframe
      rw [hframe]
      rfl
    · rw [hmgt, hm]
      rfl
  · have he : faultMove n s = devRecord r (modEp n (fun e => { e with faults := rest }) s) := by
      unfold faultMove
      rw [hf]
    have honly := devRecord_only r (modEp n (fun e => { e with faults := rest }) s)
    have hrec := devRecord_recorded r (modEp n (fun e => { e with faults := rest }) s)
    rw [← he] at honly hrec
    exact ⟨_, port_next hp (decide_eq_true hn) (honly.keepFixed rfl rfl rfl), honly, fun hl => hrec hl⟩

end Sys2Proof.Machine
end

section
/-! SUPPORT. Sessions: what an entry, a failure and a close leave (R463-R465). -/

namespace Sys2Proof.Machine

open Sys2Proof

theorem sessEntry_frame (type : Nat) (x : Session) (result : Byte) (fields : List (Nat × Nat × Nat)) (s : State) :
    ∃ q st h o, sessEntry type x result fields s =
      { s with mgt := { s.mgt with queue := q, store := st, headSeq := h, overwritten := o }, freeCount := s.freeCount + 1 } :=
  ledgerSession_frame _ _ _ _ _ s

/-! ## A session that ends -/

theorem sessAt_dropSession (i : Nat) (s : State) : sessAt (dropSession i s) i = none := tabGet_set_same none none s.mgt.sessions i

theorem sessAt_dropSession_other {i j : Nat} (h : j ≠ i) (s : State) : sessAt (dropSession i s) j = sessAt s j := tabGet_set_other none none s.mgt.sessions h

theorem dropSession_parts (i : Nat) (s : State) : ∃ l n, dropSession i s = { s with mgt := { s.mgt with sessions := l, net := n } } := ⟨_, _, rfl⟩

/-- The last failure noted is the one just noted. -/
theorem failTimes_noteFailure (role : Byte) (now : Nat) (s : State) : (failTimes (noteFailure role now s) role).getLast? = some now := by
  have h : failTimes (noteFailure role now s) role = (failTimes s role ++ [now]).drop ((failTimes s role ++ [now]).length - 8) := tabGet_set_same _ _ _ _
  have hlen : (failTimes s role ++ [now]).length = (failTimes s role).length + 1 := by rw [List.length_append, List.length_singleton]
  rw [h, List.getLast?_drop, if_neg (by omega)]
  exact List.getLast?_concat ..

/-- What a failure that counts leaves. -/
theorem failSession_all (i reason now : Nat) (x : Session) (s : State) :
    let t := failSession i reason now x s
    sessAt t i = none ∧ (∀ j, j ≠ i → sessAt t j = sessAt s j) ∧ (failTimes t x.role).getLast? = some now
      ∧ (s.glb.faults.length < 1024 → Recorded t 0xC0 sevWarn x.role.toNat)
      ∧ t = { s with glb := t.glb, tly := t.tly, mgt := t.mgt, freeCount := t.freeCount } ∧ t.mgt.nv = s.mgt.nv := by
  have honly := devFault0_only 0xC0 sevWarn x.role.toNat 0 s
  have hrec := devFault0_recorded 0xC0 sevWarn x.role.toNat 0 s
  unfold failSession sessionFailed
  dsimp only
  generalize devFault0 0xC0 sevWarn x.role.toNat 0 s = u at honly hrec ⊢
  obtain ⟨q, st, h, o, he⟩ := sessEntry_frame 1 x resDenied (sessionFields 3 reason x) u
  rw [he]
  refine ⟨sessAt_dropSession i _, fun j hj => ?_, failTimes_noteFailure x.role now _, hrec, ?_, ?_⟩
  · rw [sessAt_dropSession_other hj]
    show tabGet none u.mgt.sessions j = _
    rw [honly]
    rfl
  · unfold FaultOnly at honly
    rw [honly]
    rfl
  · show u.mgt.nv = _
    rw [honly]

/-- What the close of an OPEN session leaves. -/
theorem closeSess_open {i reason : Nat} {x : Session} {s : State} (hx : sessAt s i = some x) (ho : x.state = .open_) :
    let t := closeSess i reason s
    sessAt t i = none ∧ (∀ j, j ≠ i → sessAt t j = sessAt s j)
      ∧ t = { s with mgt := t.mgt, freeCount := t.freeCount } ∧ t.mgt.nv = s.mgt.nv ∧ t.mgt.replies = s.mgt.replies := by
  obtain ⟨q, st, h, o, he⟩ := sessEntry_frame 1 x resOk (sessionFields 2 reason x) s
  unfold closeSess
  rw [hx]
  dsimp only
  rw [if_pos ho, he]
  exact ⟨sessAt_dropSession i _, fun j hj => sessAt_dropSession_other hj _, rfl, rfl, rfl⟩

/-- Any close leaves the die alone, and no session there. -/
theorem closeSess_all (i reason : Nat) (s : State) :
    let t := closeSess i reason s
    sessAt t i = none ∧ (∀ j, j ≠ i → sessAt t j = sessAt s j)
      ∧ t = { s with mgt := t.mgt, freeCount := t.freeCount } ∧ t.mgt.nv = s.mgt.nv := by
  cases hx : sessAt s i with
  | none =>
    have he : closeSess i reason s = s := by
      unfold closeSess
      rw [hx]
    dsimp only
    rw [he]
    exact ⟨hx, fun _ _ => rfl, rfl, rfl⟩
  | some x =>
    by_cases ho : x.state = .open_
    · obtain ⟨h1, h2, h3, h4, -⟩ := closeSess_open (reason := reason) hx ho
      exact ⟨h1, h2, h3, h4⟩
    · have he : closeSess i reason s = dropSession i s := by
        unfold closeSess
        rw [hx]
        dsimp only
        rw [if_neg ho]
      dsimp only
      rw [he]
      exact ⟨sessAt_dropSession i s, fun j hj => sessAt_dropSession_other hj s, rfl, rfl⟩

/-- `t` is `s` but for Mahel and the free counter. -/
def MgtOnly (s t : State) : Prop := t = { s with mgt := t.mgt, freeCount := t.freeCount }

theorem MgtOnly.trans {s t u : State} (h : MgtOnly s t) (k : MgtOnly t u) : MgtOnly s u := by
  unfold MgtOnly at *
  rw [k, h]

/-- Every session closes. -/
theorem closeSessions_all (l : List Nat) (reason : Nat) (s : State) :
    let t := forEach l (closeSess · reason) s
    (∀ j, sessAt t j = if j ∈ l then none else sessAt s j) ∧ t = { s with mgt := t.mgt, freeCount := t.freeCount } ∧ t.mgt.nv = s.mgt.nv := by
  induction l generalizing s with
  | nil => exact ⟨fun j => (if_neg List.not_mem_nil).symm, rfl, rfl⟩
  | cons i l ih =>
    obtain ⟨hi, hother, hframe, hnv⟩ := closeSess_all i reason s
    obtain ⟨hl, hf, hn⟩ := ih (closeSess i reason s)
    refine ⟨fun j => (hl j).trans ?_, MgtOnly.trans hframe hf, hn.trans hnv⟩
    · by_cases hj : j ∈ l
      · rw [if_pos hj, if_pos (List.mem_cons_of_mem i hj)]
      · rw [if_neg hj]
        by_cases hji : j = i
        · rw [hji, hi, if_pos (List.mem_cons_self ..)]
        · rw [hother j hji, if_neg (by rw [List.mem_cons, not_or]; exact ⟨hji, hj⟩)]

theorem closeAll_all (s : State) : (∀ j, sessAt (closeAll s) j = none) ∧ closeAll s = { s with mgt := (closeAll s).mgt, freeCount := (closeAll s).freeCount }
    ∧ (closeAll s).mgt.nv = s.mgt.nv := by
  obtain ⟨hl, hf, hn⟩ := closeSessions_all (s.mgt.sessions.map (·.1)) 3 s
  refine ⟨fun j => (hl j).trans ?_, hf, hn⟩
  split
  · rfl
  · next h => exact tabGet_unlisted none h

end Sys2Proof.Machine
end

section
/-! SUPPORT. OPEN, PROVE and CLOSE (R463, R464). -/

namespace Sys2Proof.Machine

open Sys2Proof

/-- An OPEN within the limits, of a role that may, is answered with ACCEPT. -/
theorem openSession_accepted {s : State} {i : Nat} {role : Byte} {cred : BitVec 64} {nonce : BitVec 384} {epub : BitVec 776} {ip : W32} {tcp : BitVec 16} {now : Nat}
    (hnone : sessAt s i = none) (hlim : withinLimits s role = true) (hlock : lockedOut s role now = false) (hrec : s.mgt.recovery = false)
    (hrole : role = 1 ∨ role = 2 ∨ (role = 3 ∧ (s.mgt.claimed = false ∨ bitAt s.mgt.nv.roleCfg 31 = true))) :
    openSession i role cred nonce epub none ip tcp now s = sendAccept i (openBytes role cred nonce epub none)
      { state := .proving, role := role, credId := cred, voucher := none, th := 0, keys := 0, ip := ip, tcp := tcp } s := by
  have hknown : (isField role || isMaker role) = true := by
    rcases hrole with rfl | rfl | ⟨rfl, -⟩ <;> rfl
  have hmaker : ¬ (isMaker role = true ∧ (!bitAt s.mgt.nv.roleCfg 31) = true ∧ s.mgt.claimed = true) := by
    rintro ⟨hm, hcfg, hcl⟩
    rw [Bool.not_eq_true'] at hcfg
    rcases hrole with rfl | rfl | ⟨rfl, hc | hc⟩
    · cases hm
    · cases hm
    · rw [hc] at hcl; cases hcl
    · rw [hc] at hcfg; cases hcfg
  unfold openSession
  dsimp only
  rw [if_neg (by rw [hnone, hlim, hknown, hrec]; simp), if_neg (by rw [hlock]; decide), if_neg hmaker, if_neg (by decide)]

theorem sessAt_sendAccept (i : Nat) (opened : List Byte) (x : Session) (s : State) : ∃ th, sessAt (sendAccept i opened x s) i = some { x with th := th } := by
  unfold sendAccept
  dsimp only
  generalize sha384v _ = th
  refine ⟨th, ?_⟩
  unfold sessAt modMgt
  dsimp only
  exact tabGet_set_same none _ _ i

theorem sessAt_sendAccept_other {i j : Nat} (h : j ≠ i) (opened : List Byte) (x : Session) (s : State) : sessAt (sendAccept i opened x s) j = sessAt s j := by
  unfold sendAccept
  dsimp only
  generalize sha384v _ = th
  unfold sessAt modMgt
  dsimp only
  exact tabGet_set_other none _ _ h

/-- What a claim does to Mahel: the key is an INSTALLER credential, in the banks that hold settings too. -/
def claimMgt (key : BitVec 776) (m : Mgt) : Mgt :=
  let add (n : Nv) : Nv := { n with installers := n.installers ++ [credOf key] }
  let kept : Bank → Bank := fun b => { b with nv := add b.nv }
  let first : Bank := ⟨add {}, 1⟩
  let m := { m with nv := add m.nv, claimed := true, storing := m.storing.map add }
  if m.bank0.isNone && m.bank1.isNone then { m with bank0 := some first, activeBank := false }
  else if m.activeBank then { m with bank1 := m.bank1.map kept }
  else { m with bank0 := m.bank0.map kept }

theorem claim_eq (x : Session) (key : BitVec 776) (s : State) :
    claim x key s = sessEntry 11 x resOk [(0, 1, 3), (2, 8, (credIdOf key).toNat)] (modMgt (claimMgt key) s) := rfl

theorem claimMgt_parts (key : BitVec 776) (m : Mgt) : (claimMgt key m).claimed = true ∧ (claimMgt key m).sessions = m.sessions
    ∧ (claimMgt key m).nv = { m.nv with installers := m.nv.installers ++ [credOf key] } := by
  unfold claimMgt
  dsimp only
  split
  · exact ⟨rfl, rfl, rfl⟩
  · split <;> exact ⟨rfl, rfl, rfl⟩

/-- The session as a PROVE that verifies opens it. -/
def proved (i : Nat) (s : State) : State := modSess i (fun y => { y with state := .open_, keys := Config.sessionKeys y.th }) s

/-- A PROVE that verifies opens the session. -/
theorem prove_good {s : State} {i : Nat} {x : Session} {now : Nat} (hx : sessAt s i = some x) (hst : x.state = .proving) (hp : provable s x = true)
    (hv : x.voucher = none) : prove i true now s = sessEntry 1 x resOk (sessionFields 1 0 x) (proved i s) := by
  unfold prove
  rw [hx]
  dsimp only
  rw [if_neg (by rw [hst]; decide), if_neg (by rw [hp]; decide), hv, proved]

/-- Under a voucher it claims the module for the voucher's key first. -/
theorem prove_claims {s : State} {i : Nat} {x : Session} {now : Nat} {v : Voucher} (hx : sessAt s i = some x) (hst : x.state = .proving)
    (hv : x.voucher = some v) : prove i true now s = sessEntry 1 x resOk (sessionFields 1 0 x) (claim x v.key (proved i s)) := by
  have hp : provable s x = true := by
    unfold provable
    rw [hv]
    rfl
  unfold prove
  rw [hx]
  dsimp only
  rw [if_neg (by rw [hst]; decide), if_neg (by rw [hp]; decide), hv, proved]

theorem prove_bad {s : State} {i : Nat} {x : Session} {now : Nat} (hx : sessAt s i = some x) (hst : x.state = .proving) :
    prove i false now s = failSession i 1 now x s := by
  unfold prove
  rw [hx]
  dsimp only
  rw [if_neg (by rw [hst]; decide), if_pos (.inr rfl)]

theorem failProving_proving {s : State} {i reason now : Nat} {x : Session} (hx : sessAt s i = some x) (hst : x.state = .proving) :
    failProving i reason now s = failSession i reason now x s := by
  unfold failProving
  rw [hx]
  exact if_pos hst

theorem closeOpen_open {s : State} {i reason : Nat} {x : Session} (hx : sessAt s i = some x) (hst : x.state = .open_) :
    closeOpen i reason s = closeSess i reason s := by
  unfold closeOpen
  rw [hx]
  exact if_pos hst

/-- The command of an OPEN session by a role with the right, in a module that is not in RECOVERY. -/
theorem command_open {s : State} {i : Nat} {x : Session} {mtype : Byte} {right : Byte → Bool} {rec : Bool} {f : Session → State → State}
    (ho : HasSession s i x) (hrec : s.mgt.recovery = false ∨ rec = true) (hr : right x.role = true) : command i mtype right rec f s = f x (countIn i s) := by
  unfold command
  rw [withSession_open ho]
  have hserve : ¬ ((countIn i s).mgt.recovery && !rec) = true := by
    rcases hrec with h | h
    · rw [show (countIn i s).mgt.recovery = false from h, Bool.false_and]
      decide
    · rw [h, Bool.not_true, Bool.and_false]
      decide
  rw [if_neg hserve, if_neg (by rw [hr]; decide)]

/-- Settles O9: OPEN and PROVE by what each answers, then the ends, each the failure or the close of one session. -/
theorem sessionsOpenAndEnd : Obligations.SessionsOpenAndEnd := by
  refine ⟨⟨fun s i role cred nonce epub ip tcp now hp hnone hlim hlock hrec hrole => ?_, fun s i x now hp hx hst => ⟨fun hv hpr => ?_, fun v hv => ?_, ?_⟩⟩,
    fun s i x now hp hx => ⟨fun hst => ?_, fun hst => ?_, ?_, fun hst => ?_⟩, fun s hp => ?_⟩
  · have he := openSession_accepted (cred := cred) (nonce := nonce) (epub := epub) (ip := ip) (tcp := tcp) hnone hlim hlock hrec hrole
    have hex : exec (.openSession i role cred nonce epub none ip tcp now) s = .next (sendAccept i (openBytes role cred nonce epub none)
        { state := .proving, role := role, credId := cred, voucher := none, th := 0, keys := 0, ip := ip, tcp := tcp } s) := by
      show live s (openSession i role cred nonce epub none ip tcp now s) = _
      rw [live_next hp, he]
      rfl
    obtain ⟨th, hth⟩ := sessAt_sendAccept i (openBytes role cred nonce epub none)
      { state := .proving, role := role, credId := cred, voucher := none, th := 0, keys := 0, ip := ip, tcp := tcp } s
    exact ⟨_, hex, ⟨_, hth, rfl, rfl, rfl, rfl, rfl⟩, fun j hj => sessAt_sendAccept_other hj _ _ s, ⟨_, rfl⟩, rfl⟩
  · have he := prove_good (now := now) hx hst hpr hv
    obtain ⟨q, st, h, o, hent⟩ := sessEntry_frame 1 x resOk (sessionFields 1 0 x) (proved i s)
    rw [hent] at he
    refine ⟨_, live_next hp, ?_⟩
    rw [he]
    refine ⟨?_, fun j hj => sessAt_modSess_other _ s hj, rfl, rfl, rfl⟩
    refine (sessAt_modSess i _ s).trans ?_
    rw [hx]
    rfl
  · have he := prove_claims (now := now) hx hst hv
    rw [claim_eq] at he
    obtain ⟨q1, st1, h1, o1, hent1⟩ := sessEntry_frame 11 x resOk [(0, 1, 3), (2, 8, (credIdOf v.key).toNat)]
      (modMgt (claimMgt v.key) (proved i s))
    rw [hent1] at he
    obtain ⟨q, st, h, o, hent⟩ := sessEntry_frame 1 x resOk (sessionFields 1 0 x)
      { modMgt (claimMgt v.key) (proved i s) with
        mgt := { (modMgt (claimMgt v.key) (proved i s)).mgt with
          queue := q1, store := st1, headSeq := h1, overwritten := o1 }
        freeCount := (modMgt (claimMgt v.key) (proved i s)).freeCount + 1 }
    rw [hent] at he
    obtain ⟨hclaimed, hsessions, hnv⟩ := claimMgt_parts v.key (proved i s).mgt
    refine ⟨_, live_next hp, ?_⟩
    rw [he]
    refine ⟨hclaimed, hnv, ⟨{ x with state := .open_, keys := Config.sessionKeys x.th }, ?_, rfl⟩, rfl⟩
    · show tabGet none (claimMgt v.key (proved i s).mgt).sessions i = _
      rw [hsessions]
      refine (sessAt_modSess i _ s).trans ?_
      rw [hx]
      rfl
  · have hf := failSession_all i 1 now x s
    obtain ⟨h1, h2, h3, h4, h5, h6⟩ := hf
    have he := prove_bad (now := now) hx hst
    refine ⟨failSession i 1 now x s, ?_, h1, h2, h3, h4, h5, h6⟩
    show live s (prove i false now s) = _
    rw [live_next hp, he, h5]
    rfl
  · obtain ⟨h1, h2, h3, h4, h5, -⟩ := failSession_all i 2 now x s
    refine ⟨failSession i 2 now x s, ?_, h1, h2, h3, h4⟩
    show live s (failProving i 2 now s) = _
    rw [live_next hp, failProving_proving hx hst, h5]
    rfl
  · obtain ⟨h1, h2, h3, h4, h5⟩ := closeSess_open (reason := 1) hx hst
    refine ⟨closeSess i 1 s, ?_, h1, h2, h3, h4, h5⟩
    show live s (closeOpen i 1 s) = _
    rw [live_next hp, closeOpen_open hx hst, h3]
    rfl
  · cases hst : x.state with
    | proving =>
      have hopen : closeOpen i 2 s = s := by
        unfold closeOpen
        rw [hx]
        exact if_neg (by rw [hst]; decide)
      obtain ⟨h1, h2, -, -, h5, -⟩ := failSession_all i 1 now x s
      refine ⟨failSession i 1 now x s, ?_, h1, h2⟩
      show live s (failProving i 1 now (closeOpen i 2 s)) = _
      rw [live_next hp, hopen, failProving_proving hx hst, h5]
      rfl
    | open_ =>
      obtain ⟨h1, h2, h3, -⟩ := closeSess_open (reason := 2) hx hst
      have hgone : failProving i 1 now (closeSess i 2 s) = closeSess i 2 s := by
        unfold failProving
        rw [h1]
      refine ⟨closeSess i 2 s, ?_, h1, h2⟩
      show live s (failProving i 1 now (closeOpen i 2 s)) = _
      rw [live_next hp, closeOpen_open hx hst, hgone, h3]
      rfl
  · have hcount : sessAt (reply i 0x1F resOk [] (countIn i s)) i = some { x with inCount := x.inCount + 1, outCount := x.outCount + 1 } := by
      have h := (reply_only i 0x1F resOk [] s).counted
      rw [h, hx]
      rfl
    obtain ⟨h1, h2, h3, h4, h5⟩ := closeSess_open (reason := 0) hcount hst
    have hanswer := reply_only i 0x1F resOk [] s
    have he : closeCommand i s = closeSess i 0 (reply i 0x1F resOk [] (countIn i s)) := command_open ⟨hx, hst⟩ (.inr rfl) rfl
    refine ⟨closeSess i 0 (reply i 0x1F resOk [] (countIn i s)), ?_, h1, fun j hj => (h2 j hj).trans (hanswer.others j hj), h5, ?_, h4⟩
    · show live s (closeCommand i s) = _
      rw [live_next hp, he, h3]
      rfl
    · exact MgtOnly.trans hanswer.frame h3
  · obtain ⟨hall, hframe, hnv⟩ := closeAll_all s
    have honly := devFault0_only 0xC5 sevWarn 0 0 (closeAll s)
    have hrec := devFault0_recorded 0xC5 sevWarn 0 0 (closeAll s)
    have hglb : (closeAll s).glb = s.glb := by rw [hframe]
    refine ⟨devFault0 0xC5 sevWarn 0 0 (closeAll s), ?_, fun j => ?_, fun hl => hrec (by rw [hglb]; exact hl), ?_, ?_⟩
    · show live s _ = _
      rw [live_next hp, honly.keepFixed (by rw [hframe]) (by rw [hframe]) (by rw [hframe])]
    · have hsess : (devFault0 0xC5 sevWarn 0 0 (closeAll s)).mgt.sessions = (closeAll s).mgt.sessions := by rw [honly]
      unfold sessAt
      rw [hsess]
      exact hall j
    · unfold FaultOnly at honly
      rw [honly, hframe]
    · rw [honly]
      exact hnv

end Sys2Proof.Machine
end

section
/-! SUPPORT. STORE, the ledger and ENROLL (R466-R474, R481). -/

namespace Sys2Proof.Machine

open Sys2Proof

/-- A session command that is answered, its effect `u` leaving what every command leaves. -/
theorem live_answered {s u t : State} {i : Nat} {r : Reply} (hp : s.pwr.powered = true) (h : Answered u t i r)
    (hq : u.pending = s.pending) (hf : u.fuses = s.fuses) (ha : u.attachBuf = s.attachBuf) : ∃ t', live s t = .next t' ∧ Answered u t' i r := by
  obtain ⟨h1, h2, h3, -⟩ := h.fixed
  refine ⟨t, ?_, h⟩
  rw [live_next hp, keepFixed_self (h1.trans hq) (h2.trans hf) (h3.trans ha)]

/-! ## STORE -/

theorem storeCommand_free {s : State} {i : Nat} {x : Session} (hs : Serving s) (ho : HasSession s i x) (hr : isField x.role = true)
    (h : s.mgt.storing = none) :
    Answered (modMgt (fun m => { m with storing := some s.mgt.nv }) s) (storeCommand i s) i ⟨i, 0x92, some resOk, []⟩ := by
  have he : storeCommand i s = reply i 0x12 resOk [] (countIn i (modMgt (fun m => { m with storing := some s.mgt.nv }) s)) := by
    refine (command_open ho (.inl hs.2) hr).trans (if_neg ?_)
    rw [show (countIn i s).mgt.storing = none from h]
    decide
  rw [he]
  exact reply_only ..

theorem storeCommand_busy {s : State} {i : Nat} {x : Session} (hs : Serving s) (ho : HasSession s i x) (hr : isField x.role = true)
    (h : s.mgt.storing ≠ none) : Answered s (storeCommand i s) i ⟨i, 0x92, some resBusy, []⟩ := by
  have he : storeCommand i s = reply i 0x12 resBusy [] (countIn i s) :=
    (command_open ho (.inl hs.2) hr).trans (if_pos (Option.isSome_iff_ne_none.mpr h))
  rw [he]
  exact reply_only ..

/-- The inactive bank holds the snapshot and is the active one. -/
def bankWritten (n : Nv) (s : State) : State :=
  modMgt (fun m =>
    let m := { m with storing := none, activeBank := !s.mgt.activeBank }
    if !s.mgt.activeBank then { m with bank1 := some ⟨n, activeSeq s + 1⟩, wear1 := m.wear1 + 1 }
    else { m with bank0 := some ⟨n, activeSeq s + 1⟩, wear0 := m.wear0 + 1 }) s

theorem storeDone_written {s : State} {n : Nv} (h : s.mgt.storing = some n) : FaultOnly (bankWritten n s) (storeDone s) := by
  have hentry := ledgerDevice_only 4 0 (detailOf [(0, 8, activeSeq s + 1), (8, 1, ofB !s.mgt.activeBank)]) (bankWritten n s)
  have he : storeDone s = (let u := ledgerDevice 4 0 (detailOf [(0, 8, activeSeq s + 1), (8, 1, ofB !s.mgt.activeBank)]) (bankWritten n s)
      if 100000 < (if !s.mgt.activeBank then u.mgt.wear1 else u.mgt.wear0) then devFault0 0xC2 sevError (ofB !s.mgt.activeBank) 0 u else u) := by
    unfold storeDone
    rw [h]
    rfl
  rw [he]
  dsimp only
  generalize ledgerDevice 4 0 (detailOf [(0, 8, activeSeq s + 1), (8, 1, ofB !s.mgt.activeBank)]) (bankWritten n s) = u at hentry ⊢
  by_cases hworn : 100000 < (if !s.mgt.activeBank then u.mgt.wear1 else u.mgt.wear0)
  · rw [if_pos hworn]
    exact hentry.trans (devFault0_only ..)
  · rw [if_neg hworn]
    exact hentry

theorem bankWritten_parts (n : Nv) (s : State) :
    let t := bankWritten n s
    t.mgt.storing = none ∧ t.mgt.activeBank = !s.mgt.activeBank
      ∧ (if s.mgt.activeBank then t.mgt.bank0 = some ⟨n, activeSeq s + 1⟩ ∧ t.mgt.bank1 = s.mgt.bank1
        else t.mgt.bank1 = some ⟨n, activeSeq s + 1⟩ ∧ t.mgt.bank0 = s.mgt.bank0)
      ∧ t.mgt.nv = s.mgt.nv ∧ t = { s with mgt := t.mgt } := by
  unfold bankWritten modMgt
  dsimp only
  cases s.mgt.activeBank with
  | false => exact ⟨rfl, rfl, ⟨rfl, rfl⟩, rfl, rfl⟩
  | true => exact ⟨rfl, rfl, ⟨rfl, rfl⟩, rfl, rfl⟩

/-- What faults and device entries leave of Mahel. -/
theorem FaultOnly.mgt_parts {s t : State} (h : FaultOnly s t) :
    t.mgt = { s.mgt with queue := t.mgt.queue, lost := t.mgt.lost, lostWaiting := t.mgt.lostWaiting } := congrArg State.mgt h

/-- A powered module takes an effect `u`, and what faults leave of it. -/
theorem FaultOnly.live_next {s u t : State} (h : FaultOnly u t) (hp : s.pwr.powered = true)
    (hq : u.pending = s.pending) (hf : u.fuses = s.fuses) (ha : u.attachBuf = s.attachBuf) : live s t = .next t := by
  rw [Machine.live_next hp, h.keepFixed hq hf ha]

theorem FaultOnly.frame_mgt {s t : State} (h : FaultOnly s t) : t = { s with glb := t.glb, tly := t.tly, mgt := t.mgt, freeCount := t.freeCount } := by
  unfold FaultOnly at h
  rw [h]

/-! ## The ledger -/

theorem ledgerRead_answered {s : State} {i : Nat} {x : Session} {first : BitVec 64} {count : BitVec 16} (nonce : BitVec 384) (hs : Serving s)
    (ho : HasSession s i x) (h0 : count ≠ 0) (h15 : count.toNat ≤ 15) :
    Answered s (ledgerRead i first count nonce s) i ⟨i, 0x93, some resOk, bvBytes s.mgt.headSeq ++ bvBytes (Config.signature (headSigned s nonce))
      ++ [BitVec.ofNat 8 (entriesFrom s first.toNat count.toNat).length] ++ (entriesFrom s first.toNat count.toNat).flatMap bvBytes⟩ := by
  have he := (command_open (mtype := 0x13) (rec := false) (right := anyRole) ho (.inl hs.2) rfl
    (f := fun _ s => if count = 0 ∨ 15 < count.toNat then reply i 0x13 resFormat [] s
      else
        let l := entriesFrom s first.toNat count.toNat
        reply i 0x13 resOk (bvBytes s.mgt.headSeq ++ bvBytes (Config.signature (headSigned s nonce)) ++ [BitVec.ofNat 8 l.length]
          ++ l.flatMap bvBytes) s)).trans (if_neg (not_or.mpr ⟨h0, Nat.not_lt.mpr h15⟩))
  unfold ledgerRead
  rw [he]
  exact reply_only ..

/-- What a LOST entry and its record leave: the entry is the first behind those that wait. -/
theorem ledgerLost_parts {s : State} (h0 : s.mgt.lostWaiting ≠ 0) (hq : s.mgt.queue.length < 256) :
    (∃ l, (ledgerLost s).mgt.queue = s.mgt.queue ++ l ∧ (l.map (·.type)).head? = some 14)
      ∧ (s.glb.faults.length < 1024 → Recorded (ledgerLost s) 0xC1 sevError 0)
      ∧ FaultOnly (modMgt (fun m => { m with lostWaiting := 0 }) s) (ledgerLost s) := by
  have hent := ledgerDevice_only 14 0 (detailOf [(0, 4, s.mgt.lostWaiting)]) (modMgt (fun m => { m with lostWaiting := 0 }) s)
  have hglb := ledgerDevice_glb 14 0 (detailOf [(0, 4, s.mgt.lostWaiting)]) (modMgt (fun m => { m with lostWaiting := 0 }) s)
  have hqueue : ∃ e : LedgerEntry, e.type = 14
      ∧ (ledgerDevice 14 0 (detailOf [(0, 4, s.mgt.lostWaiting)]) (modMgt (fun m => { m with lostWaiting := 0 }) s)).mgt.queue = s.mgt.queue ++ [e] := by
    unfold ledgerDevice
    rw [if_neg (show ¬ 256 ≤ (modMgt (fun m => { m with lostWaiting := 0 }) s).mgt.queue.length from Nat.not_le.mpr hq)]
    exact ⟨_, rfl, rfl⟩
  unfold ledgerLost
  rw [if_neg (not_or.mpr ⟨h0, Nat.not_le.mpr hq⟩)]
  generalize ledgerDevice 14 0 (detailOf [(0, 4, s.mgt.lostWaiting)]) (modMgt (fun m => { m with lostWaiting := 0 }) s) = u at hent hglb hqueue ⊢
  obtain ⟨e, htype, he⟩ := hqueue
  obtain ⟨l, hl⟩ := devRecord_queue { kind := 0xC1, severity := sevError, code := 0, port := 0xFF, key := 0, tick := u.tick.now, detail := 0, src := 0xFFF } u
  refine ⟨⟨e :: l, ?_, congrArg some htype⟩, fun hroom => devFault0_recorded 0xC1 sevError 0 0 u (by rw [hglb]; exact hroom), hent.trans (devFault0_only 0xC1 sevError 0 0 u)⟩
  refine hl.symm.trans ?_
  rw [he, List.append_assoc]
  rfl

/-! ## Enrolment -/

/-- An ENROLL by the INSTALLER that its list takes. -/
theorem enroll_answered {s u : State} {i : Nat} {x : Session} {kind action : Byte} {key : BitVec 776} {used : Nat} (hs : Serving s) (ho : HasSession s i x)
    (hr : x.role = 2) (hk : ¬ (2 < kind.toNat ∨ 1 < action.toNat))
    (he : enrollDo kind.toNat (decide (action = 1)) key (countIn i s) = some (used, countIn i u))
    (hq : u.pending = s.pending) (hf : u.fuses = s.fuses) (ha : u.attachBuf = s.attachBuf) :
    ∃ t, exec (.enroll i kind action key) s = .next t ∧ Answered u t i ⟨i, 0x99, some resOk, [BitVec.ofNat 8 used]⟩ := by
  refine live_answered hs.1 ?_ hq hf ha
  have hc : enroll i kind action key s = reply i 0x19 resOk [BitVec.ofNat 8 used]
      (sessEntry 11 x resOk [(0, 1, kind.toNat), (1, 1, action.toNat), (2, 8, (enrolledId kind.toNat key).toNat)] (countIn i u)) := by
    unfold enroll
    rw [command_open ho (.inl hs.2) (by rw [hr]; rfl), if_neg hk, he]
  rw [hc]
  exact sessEntry_reply ..

/-- A peer that no port names leaves the list, and nothing else changes. -/
theorem removePeer_unnamed {print : BitVec 384} {s : State} (h : portsOfPeer s print = []) :
    removePeer print s = nvMod (fun v => { v with peers := v.peers.filter fun p => decide (p ≠ print) }) s := by
  unfold removePeer
  rw [h]
  rfl

/-- A list with room takes an entry that is new. -/
theorem addTo_new {α : Type} [DecidableEq α] {limit : Nat} {l : List α} {a : α} (hm : ¬ a ∈ l) (hl : l.length < limit) : addTo limit l a = some (l ++ [a]) := by
  unfold addTo
  rw [if_neg (by rw [List.contains_iff_mem]; exact hm), if_neg (Nat.not_le.mpr hl)]

theorem length_concat {α : Type} (l : List α) (a : α) : (l ++ [a]).length = l.length + 1 := List.length_append ..

/-- Settles O10: STORE and its end, the ledger's reads and entries, and the lists of ENROLL. -/
theorem settingsLedgerAndLists : Obligations.SettingsLedgerAndLists := by
  refine ⟨⟨fun s i x hs ho hr => ⟨fun h => ?_, fun h => ?_⟩, fun s n hp h => ?_⟩,
    ⟨fun s i x first count nonce hs ho h0 h15 => ?_, fun s e rest hp hq => ?_, fun s hp h0 hq => ?_⟩,
    fun s i x key hs ho hr => ⟨fun hm hl => ?_, fun hports => ?_, fun hm hl => ?_, fun hm hl => ?_⟩⟩
  · exact live_answered hs.1 (storeCommand_free hs ho (by rcases hr with h | h <;> rw [h] <;> rfl) h) rfl rfl rfl
  · exact live_answered hs.1 (storeCommand_busy hs ho (by rcases hr with h | h <;> rw [h] <;> rfl) h) rfl rfl rfl
  · have honly := storeDone_written h
    obtain ⟨h1, h2, h3, h4, h5⟩ := bankWritten_parts n s
    have hm := honly.mgt_parts
    refine ⟨storeDone s, ?_, ?_, ?_, ?_, ?_, ?_⟩
    · exact honly.live_next hp (by rw [h5]) (by rw [h5]) (by rw [h5])
    · rw [hm]
      exact h1
    · rw [hm]
      exact h2
    · rw [hm]
      exact h3
    · rw [hm]
      exact h4
    · have hf := honly.frame_mgt
      rw [h5] at hf
      exact hf
  · exact live_answered hs.1 (ledgerRead_answered nonce hs ho h0 h15) rfl rfl rfl
  · show live s (ledgerStoreOne s) = _
    rw [live_next hp]
    unfold ledgerStoreOne
    rw [hq]
    dsimp only
    congr 1
    by_cases hfull : 6144 ≤ s.mgt.store.length
    · rw [decide_eq_true hfull, if_pos hfull, if_pos hfull]
      rfl
    · rw [decide_eq_false hfull, if_neg hfull, if_neg hfull]
      rfl
  · obtain ⟨hl, hrec, honly⟩ := ledgerLost_parts h0 (Nat.lt_succ_of_lt hq)
    have hm := honly.mgt_parts
    refine ⟨ledgerLost s, ?_, hl, hrec, honly.frame_mgt, ?_, ?_⟩
    · exact honly.live_next hp rfl rfl rfl
    · rw [hm]
      rfl
    · rw [hm]
      rfl
  · rw [← length_concat]
    refine enroll_answered hs ho hr (by decide) ?_ rfl rfl rfl
    exact congrArg (Option.map _) (addTo_new (l := s.mgt.nv.peers) hm hl)
  · refine enroll_answered hs ho hr (by decide) ?_ rfl rfl rfl
    have he := removePeer_unnamed (s := countIn i s) hports
    exact congrArg (fun u => some (u.mgt.nv.peers.length, u)) he
  · rw [← length_concat]
    refine enroll_answered hs ho hr (by decide) ?_ rfl rfl rfl
    exact congrArg (Option.map _) (addTo_new (l := s.mgt.nv.operators) hm hl)
  · rw [← length_concat]
    refine enroll_answered hs ho hr (by decide) ?_ rfl rfl rfl
    exact congrArg (Option.map _) (addTo_new (l := s.mgt.nv.installers) hm hl)

end Sys2Proof.Machine
end

section
/-! SUPPORT. What faults and memory accesses do does not rest on the message counts of a session (R462). -/

namespace Sys2Proof.Machine

open Sys2Proof

theorem ledgerDevice_countIn (i type result : Nat) (d : BitVec 352) (s : State) :
    ledgerDevice type result d (countIn i s) = countIn i (ledgerDevice type result d s) := by
  unfold ledgerDevice
  show (if 256 ≤ s.mgt.queue.length then _ else _) = _
  split <;> rfl

theorem faultEscalate_countIn (i : Nat) (r : FaultRec) (s : State) : faultEscalate r (countIn i s) = countIn i (faultEscalate r s) := by
  unfold faultEscalate
  rw [ledgerDevice_countIn]
  dsimp only
  split <;> split <;> rfl

theorem faultNotify_countIn (i : Nat) (r : FaultRec) (s : State) : faultNotify r (countIn i s) = countIn i (faultNotify r s) := by
  unfold faultNotify
  show (if (s.glb.notifyEn && decide (s.glb.notifySev ≤ r.severity)) = true then _ else _) = _
  split <;> rfl

theorem modGlb_countIn (i : Nat) (f : Glb → Glb) (s : State) : modGlb f (countIn i s) = countIn i (modGlb f s) := rfl

theorem devMerge_countIn (i k : Nat) (r : FaultRec) (s : State) : devMerge k r (countIn i s) = countIn i (devMerge k r s) := by
  unfold devMerge
  rw [show (countIn i s).glb = s.glb from rfl]
  cases s.glb.faults[k]? with
  | none => rfl
  | some o =>
    dsimp only
    rw [modGlb_countIn, faultEscalate_countIn]
    split <;> rfl

theorem devRecord_countIn (i : Nat) (r : FaultRec) (s : State) : devRecord r (countIn i s) = countIn i (devRecord r s) := by
  have hnew : ∀ f, faultNotify r (faultEscalate r (modGlb f (countIn i s))) = countIn i (faultNotify r (faultEscalate r (modGlb f s))) := fun f => by
    rw [modGlb_countIn, faultEscalate_countIn, faultNotify_countIn]
  unfold devRecord
  rw [show (countIn i s).glb = s.glb from rfl]
  dsimp only
  rw [hnew]
  cases findPos (fun o => decide (o.kind = r.kind) && decide (o.key = r.key)) (s.glb.faults.drop (ofB s.glb.shown)) with
  | some k => exact devMerge_countIn ..
  | none =>
    dsimp only
    split
    · rfl
    · cases findLastPos (fun o => decide (o.kind = r.kind)) (s.glb.faults.drop (ofB s.glb.shown)) with
      | some k =>
        dsimp only
        rw [devMerge_countIn, modGlb_countIn]
      | none =>
        dsimp only
        cases (if sevError ≤ r.severity then findLastPos (fun o => decide (o.severity ≤ sevWarn)) (s.glb.faults.drop (ofB s.glb.shown)) else none) with
        | none => rfl
        | some k => 
          dsimp only
          rw [hnew]

theorem devFault0_countIn (i : Nat) (kind : Byte) (sev : BitVec 2) (key detail : Nat) (s : State) :
    devFault0 kind sev key detail (countIn i s) = countIn i (devFault0 kind sev key detail s) := devRecord_countIn ..

/-! ## Memory -/

theorem modMem_countIn (i : Nat) (f : Mem → Mem) (s : State) : modMem f (countIn i s) = countIn i (modMem f s) := rfl

theorem modChan_countIn (i c : Nat) (f : Channel → Channel) (s : State) : modChan c f (countIn i s) = countIn i (modChan c f s) := rfl

theorem judgeEcc_countIn (i n : Nat) (s : State) : judgeEcc n (countIn i s) = ((judgeEcc n s).1, countIn i (judgeEcc n s).2) := by
  unfold judgeEcc
  cases rsFinding n <;> rfl

theorem writeBack_countIn (i : Nat) (e : CombEntry) (s : State) : writeBack e (countIn i s) = countIn i (writeBack e s) := by
  unfold writeBack
  split <;> rfl

theorem combPlace_countIn (i c : Nat) (e : CombEntry) (s : State) : combPlace c e (countIn i s) = countIn i (combPlace c e s) := by
  unfold combPlace
  rw [show chanOf (countIn i s) = chanOf s from rfl]
  cases (chanOf s c).comb.filter fun x => decide (x.line ≠ e.line) with
  | nil => rfl
  | cons old more =>
    dsimp only
    rw [writeBack_countIn]
    split <;> rfl

theorem corrected_countIn (i l : Nat) (data : List Byte) (s : State) : corrected l data (countIn i s) = countIn i (corrected l data s) := by
  unfold corrected
  dsimp only
  rw [modChan_countIn, devFault0_countIn, combPlace_countIn]

/-- A line is found uncorrectable: it is counted and poisoned, `word` stands in DRAM, and the first such error is kept. -/
def poisonFound (l : Nat) (byScrub : Bool) (word : BitVec 576) (s : State) : State :=
  let s := modMem (fun m => { m with poison := m.poison ++ [l], words := tabSet none m.words l (some word), errs := tabSet 0 m.errs l 0 })
    { modChan (lineChan l) (fun ch => { ch with uncorr := satAdd ch.uncorr 1 }) s with freeCount := s.freeCount + 1 }
  if s.mem.errValid then s else modMem (fun m => { m with
    errValid := true, errByScrub := byScrub, errChannel := BitVec.ofNat 9 (lineChan l), errLine := BitVec.ofNat 25 (lineLocal l) }) s

theorem poisonFound_countIn (i l : Nat) (byScrub : Bool) (word : BitVec 576) (s : State) :
    poisonFound l byScrub word (countIn i s) = countIn i (poisonFound l byScrub word s) := by
  unfold poisonFound
  show (if s.mem.errValid = true then _ else _) = countIn i (if s.mem.errValid = true then _ else _)
  split <;> rfl

section
variable {l : Nat} {byScrub : Bool} {s u : State}

theorem eccFound_poisoned (hp : s.mem.poison.contains l = true) : eccFound l byScrub s = s := if_pos hp

/-- What a read of a line's codeword does, by what its decoder finds (R372, R376, R377). -/
theorem eccFound_good (hp : ¬ s.mem.poison.contains l = true) (hj : judgeEcc (tabGet 0 s.mem.errs l) s = (.good, u)) : eccFound l byScrub s = u := by
  unfold eccFound
  rw [hj]
  exact if_neg hp

theorem eccFound_correctable (hp : ¬ s.mem.poison.contains l = true) (hj : judgeEcc (tabGet 0 s.mem.errs l) s = (.correctable, u)) :
    eccFound l byScrub s = corrected l (dramLine u.mem l) u := by
  unfold eccFound
  rw [hj]
  exact if_neg hp

theorem eccFound_wrong {cipher : BitVec 512} (hp : ¬ s.mem.poison.contains l = true) (hj : judgeEcc (tabGet 0 s.mem.errs l) s = (.wrong cipher false, u)) :
    eccFound l byScrub s = dramStore l (xtsDecrypt u.fuses.memKey (memTweak u l) (bvBytes cipher)) false u := by
  unfold eccFound
  rw [hj]
  exact if_neg hp

theorem eccFound_wrong_corrected {cipher : BitVec 512} (hp : ¬ s.mem.poison.contains l = true)
    (hj : judgeEcc (tabGet 0 s.mem.errs l) s = (.wrong cipher true, u)) :
    eccFound l byScrub s = corrected l (xtsDecrypt u.fuses.memKey (memTweak u l) (bvBytes cipher)) u := by
  unfold eccFound
  rw [hj]
  exact if_neg hp

theorem eccFound_uncorrectable (hp : ¬ s.mem.poison.contains l = true) (hj : judgeEcc (tabGet 0 s.mem.errs l) s = (.uncorrectable, u)) :
    eccFound l byScrub s = devFault0 0x81 sevError (lineChan l) (lineLocal l) (poisonFound l byScrub (storedWord (bvBytes (freeCipher u)) true) u) := by
  unfold eccFound
  rw [hj]
  exact if_neg hp

end

theorem eccFound_countIn (i l : Nat) (byScrub : Bool) (s : State) : eccFound l byScrub (countIn i s) = countIn i (eccFound l byScrub s) := by
  by_cases hp : s.mem.poison.contains l = true
  · rw [eccFound_poisoned hp, eccFound_poisoned (s := countIn i s) hp]
  · have hj' := judgeEcc_countIn i (tabGet 0 s.mem.errs l) s
    rcases hj : judgeEcc (tabGet 0 s.mem.errs l) s with ⟨o, u⟩
    rw [hj] at hj'
    cases o with
    | good => rw [eccFound_good hp hj, eccFound_good (s := countIn i s) hp hj']
    | correctable =>
      rw [eccFound_correctable hp hj, eccFound_correctable (s := countIn i s) hp hj']
      exact corrected_countIn ..
    | wrong cipher c =>
      cases c with
      | false =>
        rw [eccFound_wrong hp hj, eccFound_wrong (s := countIn i s) hp hj']
        rfl
      | true =>
        rw [eccFound_wrong_corrected hp hj, eccFound_wrong_corrected (s := countIn i s) hp hj']
        exact corrected_countIn ..
    | uncorrectable =>
      have hword : freeCipher (countIn i u) = freeCipher u := by
        unfold freeCipher
        rfl
      rw [eccFound_uncorrectable hp hj, eccFound_uncorrectable (s := countIn i s) hp hj']
      dsimp only
      rw [hword, poisonFound_countIn, devFault0_countIn]

theorem lineNow_countIn (i l : Nat) (s : State) : lineNow (countIn i s) l = lineNow s l := rfl

theorem lineLoad_countIn (i l : Nat) (s : State) : lineLoad l (countIn i s) = ((lineLoad l s).1, countIn i (lineLoad l s).2) := by
  unfold lineLoad
  rw [show chanOf (countIn i s) = chanOf s from rfl]
  dsimp only
  cases combFind (chanOf s (lineChan l)) l with
  | some e =>
    dsimp only
    rw [combPlace_countIn]
  | none =>
    dsimp only
    rw [eccFound_countIn, lineNow_countIn]

theorem lineStore_countIn (i l : Nat) (whole : Bool) (f : List Byte → List Byte) (s : State) :
    lineStore l whole f (countIn i s) = ((lineStore l whole f s).1, countIn i (lineStore l whole f s).2) := by
  unfold lineStore
  rw [lineLoad_countIn]
  dsimp only
  rw [combPlace_countIn, combPlace_countIn, show chanOf (countIn i (lineLoad l s).2) = chanOf (lineLoad l s).2 from rfl]
  split <;> rfl

theorem memRead_countIn (i : Nat) (ls : List Nat) (off len : Nat) (s : State) :
    memRead ls off len (countIn i s) = ((memRead ls off len s).1, countIn i (memRead ls off len s).2) := by
  induction ls generalizing s with
  | nil => rfl
  | cons l ls ih =>
    unfold memRead
    rw [lineLoad_countIn]
    dsimp only
    rw [ih]

theorem memWrite_countIn (i : Nat) (ls : List Nat) (off len : Nat) (data : List Byte) (isStore : Bool) (g : List Byte → List Byte → List Byte) (s : State) :
    memWrite ls off len data isStore g (countIn i s)
      = ((memWrite ls off len data isStore g s).1, countIn i (memWrite ls off len data isStore g s).2) := by
  induction ls generalizing s with
  | nil => rfl
  | cons l ls ih =>
    unfold memWrite
    dsimp only
    rw [lineStore_countIn]
    dsimp only
    rw [ih]

theorem notePoisonIn_countIn (i : Nat) (ls : List Nat) (s : State) : notePoisonIn ls (countIn i s) = countIn i (notePoisonIn ls s) := by
  unfold notePoisonIn
  rw [show lineNow (countIn i s) = lineNow s from rfl]
  cases ls.find? fun l => (lineNow s l).2 with
  | none => rfl
  | some l =>
    dsimp only
    exact devFault0_countIn i 0x82 sevWarn (lineChan l) (lineLocal l) (setRepro 0 s)

/-! ## What an access leaves alone -/

/-- `t` is `s` but for memory, and for what faults leave. -/
def MemOnly (s t : State) : Prop := FaultOnly { s with mem := t.mem } t

theorem MemOnly.refl (s : State) : MemOnly s s := FaultOnly.refl s

theorem MemOnly.trans {s t u : State} (h : MemOnly s t) (k : MemOnly t u) : MemOnly s u := by
  unfold MemOnly FaultOnly at *
  rw [k, h]

theorem FaultOnly.memOnly {s t : State} (h : FaultOnly s t) : MemOnly s t := by
  unfold MemOnly FaultOnly at *
  rw [h]

theorem writeBack_memOnly (e : CombEntry) (s : State) : MemOnly s (writeBack e s) := by
  unfold writeBack
  split
  · exact FaultOnly.refl _
  · exact MemOnly.refl s

theorem modChan_memOnly (c : Nat) (f : Channel → Channel) (s : State) : MemOnly s (modChan c f s) := FaultOnly.refl (modChan c f s)

theorem combPlace_memOnly (c : Nat) (e : CombEntry) (s : State) : MemOnly s (combPlace c e s) := by
  unfold combPlace
  dsimp only
  split
  · exact modChan_memOnly ..
  · split
    · exact (writeBack_memOnly _ s).trans (modChan_memOnly ..)
    · exact modChan_memOnly ..

theorem corrected_memOnly (l : Nat) (data : List Byte) (s : State) : MemOnly s (corrected l data s) :=
  (modChan_memOnly ..).trans ((devFault0_only ..).memOnly.trans (combPlace_memOnly ..))

theorem judgeEcc_memOnly (n : Nat) (s : State) : MemOnly s (judgeEcc n s).2 := by
  unfold judgeEcc
  split
  · exact MemOnly.refl s
  · exact FaultOnly.refl (takeFree s).2

theorem poisonFound_memOnly (l : Nat) (byScrub : Bool) (word : BitVec 576) (s : State) : MemOnly s (poisonFound l byScrub word s) := by
  unfold poisonFound
  dsimp only
  split <;> rfl

theorem eccFound_memOnly (l : Nat) (byScrub : Bool) (s : State) : MemOnly s (eccFound l byScrub s) := by
  by_cases hp : s.mem.poison.contains l = true
  · rw [eccFound_poisoned hp]
    exact MemOnly.refl s
  · have hjudge := judgeEcc_memOnly (tabGet 0 s.mem.errs l) s
    rcases hj : judgeEcc (tabGet 0 s.mem.errs l) s with ⟨o, u⟩
    rw [hj] at hjudge
    refine MemOnly.trans hjudge ?_
    cases o with
    | good =>
      rw [eccFound_good hp hj]
      exact MemOnly.refl u
    | correctable =>
      rw [eccFound_correctable hp hj]
      exact corrected_memOnly ..
    | wrong cipher c =>
      cases c with
      | false =>
        rw [eccFound_wrong hp hj]
        exact FaultOnly.refl (dramStore _ _ _ u)
      | true =>
        rw [eccFound_wrong_corrected hp hj]
        exact corrected_memOnly ..
    | uncorrectable =>
      rw [eccFound_uncorrectable hp hj]
      exact (poisonFound_memOnly ..).trans (devFault0_only ..).memOnly

theorem lineLoad_memOnly (l : Nat) (s : State) : MemOnly s (lineLoad l s).2 := by
  unfold lineLoad
  dsimp only
  split
  · exact combPlace_memOnly ..
  · exact eccFound_memOnly ..

theorem lineStore_memOnly (l : Nat) (whole : Bool) (f : List Byte → List Byte) (s : State) : MemOnly s (lineStore l whole f s).2 := by
  refine (lineLoad_memOnly l s).trans ?_
  unfold lineStore
  dsimp only
  split <;> exact combPlace_memOnly ..

theorem memRead_memOnly (ls : List Nat) (off len : Nat) (s : State) : MemOnly s (memRead ls off len s).2 := by
  induction ls generalizing s with
  | nil => exact MemOnly.refl s
  | cons l ls ih =>
    unfold memRead
    dsimp only
    exact (lineLoad_memOnly l s).trans (ih _)

theorem memWrite_memOnly (ls : List Nat) (off len : Nat) (data : List Byte) (isStore : Bool) (g : List Byte → List Byte → List Byte) (s : State) :
    MemOnly s (memWrite ls off len data isStore g s).2 := by
  induction ls generalizing s with
  | nil => exact MemOnly.refl s
  | cons l ls ih =>
    unfold memWrite
    dsimp only
    exact (lineStore_memOnly ..).trans (ih _)

theorem notePoisonIn_tickOnly (ls : List Nat) (s : State) : TickOnly s (notePoisonIn ls s) := by
  unfold notePoisonIn
  split
  · exact (setRepro_tickOnly 0 s).trans (devFault0_only ..).tickOnly
  · exact TickOnly.refl s

/-! ## Accesses of the module's own units -/

/-- `t` is `s` but for memory, the tick unit's records, and what faults leave. -/
def DieOnly (s t : State) : Prop := FaultOnly { s with mem := t.mem, tick := t.tick } t

theorem DieOnly.trans {s t u : State} (h : DieOnly s t) (k : DieOnly t u) : DieOnly s u := by
  unfold DieOnly FaultOnly at *
  rw [k, h]

theorem MemOnly.dieOnly {s t : State} (h : MemOnly s t) : DieOnly s t := by
  unfold DieOnly MemOnly FaultOnly at *
  rw [h]

theorem TickOnly.dieOnly {s t : State} (h : TickOnly s t) : DieOnly s t := by
  unfold DieOnly TickOnly FaultOnly at *
  rw [h]

theorem MemServes.wakeNode {s : State} (h : MemServes s) : Machine.wakeNode s = s := wakeNode_awake h.2.1

theorem MemServes.memClosed {s : State} (h : MemServes s) : Machine.memClosed s = false := by
  obtain ⟨-, hnode, hbusy⟩ := h
  unfold Machine.memClosed
  rw [hbusy, decide_eq_false (Nat.not_le.mpr hnode)]
  rfl

/-- A write of the module's own, while memory serves. -/
theorem dieWrite_serves {s : State} (h : MemServes s) (off : Nat) (data : List Byte) :
    dieWrite off data s =
      let r := memWrite (linesOf off data.length) off data.length data true (fun _ new => new) s
      (r.1, if r.1 then notePoisonIn (linesOf off data.length) r.2 else r.2) := by
  unfold dieWrite
  dsimp only
  rw [h.wakeNode, if_neg (by rw [h.memClosed]; decide)]

theorem dieRead_serves {s : State} (h : MemServes s) (off len : Nat) :
    dieRead off len s =
      let r := memRead (linesOf off len) off len s
      (r.1, if r.1.2 then notePoisonIn (linesOf off len) r.2 else r.2) := by
  unfold dieRead
  dsimp only
  rw [h.wakeNode, if_neg (by rw [h.memClosed]; decide)]

theorem dieWrite_dieOnly {s : State} (h : MemServes s) (off : Nat) (data : List Byte) : DieOnly s (dieWrite off data s).2 := by
  have hwrite := memWrite_memOnly (linesOf off data.length) off data.length data true (fun _ new => new) s
  rw [dieWrite_serves h]
  refine hwrite.dieOnly.trans ?_
  dsimp only
  split
  · exact (notePoisonIn_tickOnly ..).dieOnly
  · exact (MemOnly.refl _).dieOnly

theorem dieWrite_countIn {s : State} (h : MemServes s) (i off : Nat) (data : List Byte) :
    dieWrite off data (countIn i s) = ((dieWrite off data s).1, countIn i (dieWrite off data s).2) := by
  rw [dieWrite_serves h, dieWrite_serves (s := countIn i s) h, memWrite_countIn]
  dsimp only
  rw [notePoisonIn_countIn]
  split <;> rfl

theorem putOwn_dieOnly {s : State} (h : MemServes s) (off : Nat) (bs : List Byte) : DieOnly s (putOwn off bs s) := by
  unfold putOwn
  split
  · exact (MemOnly.refl s).dieOnly
  · exact dieWrite_dieOnly h ..

theorem putOwn_countIn {s : State} (h : MemServes s) (i off : Nat) (bs : List Byte) : putOwn off bs (countIn i s) = countIn i (putOwn off bs s) := by
  unfold putOwn
  rw [dieWrite_countIn h]
  split <;> rfl

end Sys2Proof.Machine
end

section
/-! SUPPORT. Firmware slots and trials (R476, R479). -/

namespace Sys2Proof.Machine

open Sys2Proof

theorem slotAt_modFw (b : Bool) (f : FwSlot → FwSlot) (s : State) : slotAt (modFw b f s) b = f (slotAt s b) := by
  cases b <;> rfl

theorem slotAt_modFw_other (b : Bool) (f : FwSlot → FwSlot) (s : State) : slotAt (modFw (!b) f s) b = slotAt s b := by
  cases b <;> rfl

theorem modFw_countIn (i : Nat) (b : Bool) (f : FwSlot → FwSlot) (s : State) : modFw b f (countIn i s) = countIn i (modFw b f s) := by
  cases b <;> rfl

theorem slotAt_congr {s t : State} (ha : t.mgt.slotA = s.mgt.slotA) (hb : t.mgt.slotB = s.mgt.slotB) (b : Bool) : slotAt t b = slotAt s b := by
  cases b
  · exact ha
  · exact hb

/-- Bytes written one by one from an address up stand where they belong, and nothing else changes. -/
theorem tabGet_written (off : Nat) (data : List Byte) (n : Nat) (t : Tab Byte) (a : Nat) :
    tabGet 0 ((List.range n).foldl (fun t k => tabSet 0 t (off + k) (data.getD k 0)) t) a
      = if off ≤ a ∧ a < off + n then data.getD (a - off) 0 else tabGet 0 t a := by
  induction n with
  | zero => exact (if_neg (by omega)).symm
  | succ n ih =>
    rw [List.range_succ, List.foldl_append]
    by_cases ha : a = off + n
    · subst ha
      rw [if_pos (by omega), Nat.add_sub_cancel_left]
      exact tabGet_set_same ..
    · refine (tabGet_set_other 0 _ _ ha).trans (ih.trans ?_)
      have hiff : (off ≤ a ∧ a < off + n) ↔ (off ≤ a ∧ a < off + (n + 1)) := by omega
      exact if_congr hiff rfl rfl

/-- A slot with bytes written into it. -/
def fwWritten (off : W32) (data : List Byte) (y : FwSlot) : FwSlot :=
  { state := slotWriting, confirmed := false
    image := (List.range data.length).foldl (fun t k => tabSet 0 t (off.toNat + k) (data.getD k 0)) y.image }

/-- An entry where the slot was not being written, and the reply. -/
def fwWriteAnswer (i : Nat) (x : Session) (fresh : Bool) (b : Bool) (s : State) : State :=
  reply i 0x14 resOk [] (if fresh then sessEntry 5 x resOk (fwFields s 1 b) s else s)

theorem fwWriteAnswer_answered (i : Nat) (x : Session) (fresh b : Bool) (u : State) :
    Answered u (fwWriteAnswer i x fresh b (countIn i u)) i ⟨i, 0x94, some resOk, []⟩ := by
  unfold fwWriteAnswer
  cases fresh with
  | false => exact reply_only ..
  | true => exact sessEntry_reply ..

/-- A command of a role in the field, which RECOVERY serves too. -/
theorem isField_of {r : Byte} (h : r = 1 ∨ r = 2) : isField r = true := by
  rcases h with rfl | rfl <;> rfl

theorem fwWrite_answered {s : State} {i : Nat} {x : Session} {off : W32} {len : BitVec 16} {data : List Byte} (ho : HasSession s i x)
    (hr : x.role = 1 ∨ x.role = 2) (h0 : len ≠ 0) (hl : len.toNat ≤ 1024) (hd : data.length = len.toNat) (hin : off.toNat + len.toNat ≤ 1572864) :
    Answered (modFw (!s.mgt.runB) (fwWritten off data) s) (fwWrite i off len data s) i ⟨i, 0x94, some resOk, []⟩ := by
  have hok : ¬ (len = 0 ∨ 1024 < len.toNat ∨ data.length ≠ len.toNat ∨ 1572864 < off.toNat + len.toNat) := by
    rintro (h | h | h | h)
    · exact h0 h
    · exact Nat.not_lt.mpr hl h
    · exact h hd
    · exact Nat.not_lt.mpr hin h
  have he : fwWrite i off len data s = fwWriteAnswer i x (decide ((slotAt s !s.mgt.runB).state ≠ slotWriting)) (!s.mgt.runB)
      (countIn i (modFw (!s.mgt.runB) (fwWritten off data) s)) := by
    unfold fwWrite
    rw [command_open ho (.inr rfl) (isField_of hr), if_neg hok, ← modFw_countIn]
    rfl
  rw [he]
  exact fwWriteAnswer_answered ..

theorem fwVerify_answered {s : State} {i : Nat} {x : Session} (sigOk : Bool) (ho : HasSession s i x) (hr : x.role = 1 ∨ x.role = 2) :
    let r := imgCheck s (slotAt s (!s.mgt.runB)) sigOk
    let st := if r = resOk then slotValid else slotInvalid
    Answered (modFw (!s.mgt.runB) (fun y => { y with state := st }) s) (fwVerify i sigOk s) i ⟨i, 0x95, some r, [st.zeroExtend 8]⟩ := by
  intro r st
  have he : fwVerify i sigOk s = reply i 0x15 r [((slotAt (modFw (!s.mgt.runB) (fun y => { y with state := st }) (countIn i s)) !s.mgt.runB).state.zeroExtend 8)]
      (sessEntry 5 x r (fwFields (modFw (!s.mgt.runB) (fun y => { y with state := st }) (countIn i s)) 2 !s.mgt.runB)
        (modFw (!s.mgt.runB) (fun y => { y with state := st }) (countIn i s))) :=
    command_open ho (.inr rfl) (isField_of hr)
  rw [he, slotAt_modFw, modFw_countIn]
  exact sessEntry_reply ..

theorem fwActivate_valid {s : State} {i : Nat} {x : Session} (ho : HasSession s i x) (hr : x.role = 2) (h : (slotAt s (!s.mgt.runB)).state = slotValid) :
    Answered (modMgt (fun m => { m with nextB := !m.runB }) s) (fwActivate i s) i ⟨i, 0x96, some resOk, []⟩ := by
  have he : fwActivate i s = reply i 0x16 resOk [] (sessEntry 5 x resOk (fwFields (countIn i s) 3 !s.mgt.runB)
      (countIn i (modMgt (fun m => { m with nextB := !m.runB }) s))) := by
    unfold fwActivate
    rw [command_open ho (.inr rfl) (by rw [hr]; rfl)]
    exact if_neg (not_not.mpr h)
  rw [he]
  exact sessEntry_reply ..

theorem fwActivate_invalid {s : State} {i : Nat} {x : Session} (ho : HasSession s i x) (hr : x.role = 2) (h : (slotAt s (!s.mgt.runB)).state ≠ slotValid) :
    Answered s (fwActivate i s) i ⟨i, 0x96, some resState, []⟩ := by
  have he : fwActivate i s = reply i 0x16 resState [] (countIn i s) := by
    unfold fwActivate
    rw [command_open ho (.inr rfl) (by rw [hr]; rfl)]
    exact if_pos h
  rw [he]
  exact reply_only ..

/-! ## The end of a trial -/

/-- Mahel's parts that session entries leave alone are those of the module before. -/
theorem burnSvn_frame (x : Session) (svn : Nat) (s : State) : ∃ q st h o n, burnSvn x svn s = { s with
    fuses := { s.fuses with svn := if min svn 63 ≤ s.fuses.svn.toNat then s.fuses.svn else BitVec.ofNat 6 (min svn 63) }
    mgt := { s.mgt with queue := q, store := st, headSeq := h, overwritten := o }, freeCount := n } := by
  unfold burnSvn
  dsimp only
  split
  · exact ⟨_, _, _, _, _, rfl⟩
  · obtain ⟨q, st, h, o, he⟩ := sessEntry_frame 12 x resOk (fuseFields (bitsOf (takeFree s).1 0 16) (min svn 63) (min svn 63))
      { (takeFree s).2 with fuses := { (takeFree s).2.fuses with svn := BitVec.ofNat 6 (min svn 63) } }
    rw [he]
    exact ⟨_, _, _, _, _, rfl⟩

/-- The trial's end by FW_CONFIRM, before the fuses. -/
def trialKept (s : State) : State :=
  modFw s.mgt.runB (fun y => { y with confirmed := true }) (modMgt (fun m => { m with trial := false, trialLeft := 0, earlierB := m.runB }) s)

theorem trialKept_parts (s : State) : ∃ a b, trialKept s = { s with mgt := { s.mgt with
    trial := false, trialLeft := 0, earlierB := s.mgt.runB, slotA := a, slotB := b } }
      ∧ imgSvn (slotAt (trialKept s) s.mgt.runB) = imgSvn (slotAt s s.mgt.runB) := by
  refine ⟨(trialKept s).mgt.slotA, (trialKept s).mgt.slotB, ?_, ?_⟩
  · unfold trialKept modFw modMgt
    dsimp only
    cases s.mgt.runB <;> rfl
  · unfold trialKept
    rw [slotAt_modFw]
    cases s.mgt.runB <;> rfl

theorem fwConfirm_eq {s : State} {i : Nat} {x : Session} (ho : HasSession s i x) (hr : x.role = 2) (h : s.mgt.trial = true) :
    let u := sessEntry 5 x resOk (fwFields (trialKept (countIn i s)) 4 s.mgt.runB) (trialKept (countIn i s))
    fwConfirm i s = reply i 0x17 resOk [] (burnSvn x (imgSvn (slotAt (trialKept (countIn i s)) s.mgt.runB)) u) := by
  unfold fwConfirm
  rw [command_open ho (.inr rfl) (by rw [hr]; rfl)]
  exact if_neg (by rw [show (countIn i s).mgt.trial = true from h]; decide)

theorem fwConfirm_parts {s : State} {i : Nat} {x : Session} (ho : HasSession s i x) (hr : x.role = 2) (h : s.mgt.trial = true) :
    let t := fwConfirm i s
    let v := min (imgSvn (slotAt s s.mgt.runB)) 63
    t.mgt.trial = false ∧ t.mgt.trialLeft = 0 ∧ t.mgt.earlierB = s.mgt.runB
      ∧ t.fuses = { s.fuses with svn := if v ≤ s.fuses.svn.toNat then s.fuses.svn else BitVec.ofNat 6 v }
      ∧ t.mgt.replies = s.mgt.replies ++ [⟨i, 0x97, some resOk, []⟩]
      ∧ t = { s with mgt := t.mgt, fuses := t.fuses, freeCount := t.freeCount } ∧ t.mgt.nv = s.mgt.nv := by
  obtain ⟨a, b, hk, hsvn⟩ := trialKept_parts (countIn i s)
  have he := fwConfirm_eq ho hr h
  dsimp only at he ⊢
  rw [show (countIn i s).mgt.runB = s.mgt.runB from rfl] at hsvn
  rw [he, hsvn]
  obtain ⟨q, st, h1, o, hent⟩ := sessEntry_frame 5 x resOk (fwFields (trialKept (countIn i s)) 4 s.mgt.runB) (trialKept (countIn i s))
  rw [hent]
  obtain ⟨q', st', h', o', n, hburn⟩ := burnSvn_frame x (imgSvn (slotAt (countIn i s) s.mgt.runB))
    { trialKept (countIn i s) with mgt := { (trialKept (countIn i s)).mgt with queue := q, store := st, headSeq := h1, overwritten := o }
                                   freeCount := (trialKept (countIn i s)).freeCount + 1 }
  rw [hburn, hk]
  exact ⟨rfl, rfl, rfl, rfl, rfl, rfl, rfl⟩

theorem trialExpiry_parts {s : State} (h : s.mgt.trial = true) :
    FaultOnly (modMgt (fun m => { m with trial := false, trialLeft := 0, nextB := m.earlierB }) s) (trialExpiry s)
      ∧ (s.glb.faults.length < 1024 → Recorded (trialExpiry s) 0xC3 sevError (if s.mgt.runB then 1 else 0)) := by
  have he : trialExpiry s = devFault0 0xC3 sevError (ofB s.mgt.runB) 0
      (ledgerDevice 5 0 (detailOf (fwFields (modMgt (fun m => { m with trial := false, trialLeft := 0, nextB := m.earlierB }) s) 5 s.mgt.runB))
        (modMgt (fun m => { m with trial := false, trialLeft := 0, nextB := m.earlierB }) s)) := if_neg (by rw [h]; decide)
  rw [he]
  refine ⟨(ledgerDevice_only ..).trans (devFault0_only ..), fun hroom => ?_⟩
  exact devFault0_recorded 0xC3 sevError (ofB s.mgt.runB) 0 _ (by rw [ledgerDevice_glb]; exact hroom)

/-! ## Service images -/

theorem fwImageCopy_copies {s : State} {i : Nat} {x : Session} {k : BitVec 16} {off : BitVec 64} (hs : Serving s) (ho : HasSession s i x)
    (hr : x.role = 1 ∨ x.role = 2) (hm : MemServes s) (ht : s.pwr.tripped = false) (hk : k.toNat < imgCount (slotAt s s.mgt.runB))
    (hin : off.toNat + serviceLen s k.toNat ≤ stackedSize) :
    fwImageCopy i k off s = reply i 0x18 resOk (leBytes 4 (serviceLen s k.toNat)) (countIn i (putOwn off.toNat (serviceImage s k.toNat) s)) := by
  unfold fwImageCopy
  rw [command_open ho (.inr rfl) (isField_of hr), ← putOwn_countIn hm]
  dsimp only
  rw [if_neg (by rw [show (countIn i s).mgt.recovery = false from hs.2, show (countIn i s).mem.tenantBusy = false from hm.2.2,
    show (countIn i s).pwr.tripped = false from ht]; decide)]
  exact if_neg (not_or.mpr ⟨Nat.not_le.mpr hk, Nat.not_lt.mpr hin⟩)

theorem fwImageCopy_closed {s : State} {i : Nat} {x : Session} (k : BitVec 16) (off : BitVec 64) (ho : HasSession s i x)
    (hr : x.role = 1 ∨ x.role = 2) (h : s.mem.tenantBusy = true ∨ s.pwr.tripped = true) :
    Answered s (fwImageCopy i k off s) i ⟨i, 0x98, some resState, []⟩ := by
  have he : fwImageCopy i k off s = reply i 0x18 resState [] (countIn i s) := by
    unfold fwImageCopy
    rw [command_open ho (.inr rfl) (isField_of hr)]
    refine if_pos ?_
    show (s.mgt.recovery || s.mem.tenantBusy || s.pwr.tripped) = true
    rcases h with h | h <;> rw [h] <;> simp
  rw [he]
  exact reply_only ..

/-- Settles O11: each command by what it answers, the trial's ends by what they leave. -/
theorem firmwareSlotsAndTrials : Obligations.FirmwareSlotsAndTrials := by
  refine ⟨fun s i x hp ho hr => ⟨fun off len data h0 hl hd hin => ?_, fun sigOk => ?_, fun hr h => ?_, fun hr h => ?_⟩,
    fun s i x hp ho hr h => ?_, fun s hp h => ?_, fun s i x k off hs ho hr => ⟨fun hm ht hk hin => ?_, fun h => ?_⟩⟩
  · obtain ⟨t, hex, ha⟩ := live_answered hp (fwWrite_answered ho hr h0 hl hd hin) rfl rfl rfl
    have hslot : ∀ b, slotAt t b = slotAt (modFw (!s.mgt.runB) (fwWritten off data) s) b := slotAt_congr (by rw [ha.mgt]) (by rw [ha.mgt])
    refine ⟨t, hex, ?_, ?_, fun a => ?_, ?_, ?_, ?_, ?_⟩
    · rw [hslot, slotAt_modFw]
      rfl
    · rw [hslot, slotAt_modFw_other]
    · rw [hslot, slotAt_modFw, ← hd]
      exact tabGet_written ..
    · rw [ha.mgt]
      exact congrArg (· ++ _) (by cases s.mgt.runB <;> rfl)
    · exact ha.frame
    · rw [ha.mgt]
      cases s.mgt.runB <;> rfl
    · rw [ha.mgt]
      cases s.mgt.runB <;> rfl
  · exact live_answered hp (fwVerify_answered sigOk ho hr) rfl rfl rfl
  · exact live_answered hp (fwActivate_valid ho hr h) rfl rfl rfl
  · exact live_answered hp (fwActivate_invalid ho hr h) rfl rfl rfl
  · obtain ⟨h1, h2, h3, h4, h5, h6, h7⟩ := fwConfirm_parts ho hr h
    refine ⟨fwConfirm i s, ?_, h1, h2, h3, h4, h5, h6, h7⟩
    show liveFuses s (fwConfirm i s) = _
    rw [liveFuses_next hp, h6]
    rfl
  · obtain ⟨honly, hrec⟩ := trialExpiry_parts h
    have hm := honly.mgt_parts
    refine ⟨trialExpiry s, honly.live_next hp rfl rfl rfl, ?_, ?_, ?_, hrec, honly⟩ <;> rw [hm] <;> rfl
  · have hput := putOwn_dieOnly hm off.toNat (serviceImage s k.toNat)
    have he := fwImageCopy_copies hs ho hr hm ht hk hin
    obtain ⟨t, hex, ha⟩ := live_answered (s := s) (i := i) hs.1 (reply_only i 0x18 resOk (leBytes 4 (serviceLen s k.toNat))
      (putOwn off.toNat (serviceImage s k.toNat) s)) (by rw [hput]) (by rw [hput]) (by rw [hput])
    rw [← he] at hex
    have hkept : (putOwn off.toNat (serviceImage s k.toNat) s).mgt.nv = s.mgt.nv ∧ (putOwn off.toNat (serviceImage s k.toNat) s).eps = s.eps
        ∧ (putOwn off.toNat (serviceImage s k.toNat) s).lanes = s.lanes ∧ (putOwn off.toNat (serviceImage s k.toNat) s).fuses = s.fuses
        ∧ (putOwn off.toNat (serviceImage s k.toNat) s).mgt.replies = s.mgt.replies := by
      rw [hput]
      exact ⟨rfl, rfl, rfl, rfl, rfl⟩
    generalize putOwn off.toNat (serviceImage s k.toNat) s = u at ha hkept ⊢
    obtain ⟨k1, k2, k3, k4, k5⟩ := hkept
    refine ⟨t, hex, ?_, ?_, ?_, ?_, ?_, ?_⟩
    · rw [ha.frame]
    · rw [ha.mgt]
      exact k1
    · rw [ha.frame]
      exact k2
    · rw [ha.frame]
      exact k3
    · rw [ha.frame]
      exact k4
    · rw [ha.mgt]
      exact congrArg (· ++ _) k5
  · exact live_answered hs.1 (fwImageCopy_closed k off ho hr h) rfl rfl rfl

end Sys2Proof.Machine
end

section
/-! SUPPORT. Fuses, TAP_UNLOCK and the test port (R480, R482). -/

namespace Sys2Proof.Machine

open Sys2Proof

theorem fuse_burns {s : State} {i : Nat} {x : Session} {id : BitVec 16} {item : FuseItem} {v w : W32} {f : Fuses} (hs : Serving s) (ho : HasSession s i x)
    (hr : x.role = 3) (hb : burn s.fuses item v = some (f, w)) :
    Answered { s with fuses := f } (fuse i id item v s) i ⟨i, 0x9B, some resOk, bvBytes w⟩ := by
  have he : fuse i id item v s = reply i 0x1B resOk (bvBytes w) (sessEntry 12 x resOk (fuseFields id v.toNat w.toNat) (countIn i { s with fuses := f })) := by
    unfold fuse
    rw [command_open ho (.inl hs.2) (by rw [hr]; rfl), show (countIn i s).fuses = s.fuses from rfl, hb]
    rfl
  rw [he]
  exact sessEntry_reply ..

theorem fuse_refused {s : State} {i : Nat} {x : Session} {id : BitVec 16} {item : FuseItem} {v : W32} (hs : Serving s) (ho : HasSession s i x)
    (hr : x.role = 3) (hb : burn s.fuses item v = none) : Answered s (fuse i id item v s) i ⟨i, 0x9B, some resFormat, []⟩ := by
  have he : fuse i id item v s = reply i 0x1B resFormat [] (countIn i s) := by
    unfold fuse
    rw [command_open ho (.inl hs.2) (by rw [hr]; rfl), show (countIn i s).fuses = s.fuses from rfl, hb]
  rw [he]
  exact reply_only ..

/-- The module scrubbed, and its test port open. -/
def tapOpened (s : State) : State := modMgt (fun m => { m with tapOpen := true }) (scrubEntry 3 (scrubAll s))

theorem tapOpened_countIn (i : Nat) (s : State) : tapOpened (countIn i s) = countIn i (tapOpened s) := by
  have h := ledgerDevice_countIn i 9 0 (detailOf [(0, 4, (scrubAll s).mem.gen.toNat), (4, 1, 3)]) (scrubAll s)
  exact congrArg (modMgt fun m => { m with tapOpen := true }) h

theorem ledgerDevice_frame (type result : Nat) (d : BitVec 352) (s : State) : ∃ q l w n, ledgerDevice type result d s =
    { s with mgt := { s.mgt with queue := q, lost := l, lostWaiting := w }, freeCount := n } := by
  unfold ledgerDevice
  split
  · exact ⟨_, _, _, _, rfl⟩
  · exact ⟨_, _, _, _, rfl⟩

theorem tapOpened_frame (s : State) : ∃ q l w n, tapOpened s =
    { scrubAll s with mgt := { s.mgt with tapOpen := true, queue := q, lost := l, lostWaiting := w }, freeCount := n } := by
  obtain ⟨q, l, w, n, h⟩ := ledgerDevice_frame 9 0 (detailOf [(0, 4, (scrubAll s).mem.gen.toNat), (4, 1, 3)]) (scrubAll s)
  exact ⟨q, l, w, n, congrArg (modMgt fun m => { m with tapOpen := true }) h⟩

theorem drained_countIn (i : Nat) (s : State) : drained (countIn i s) = drained s := rfl

theorem tapUnlock_opens {s : State} {i : Nat} {x : Session} (hs : Serving s) (ho : HasSession s i x) (hr : x.role = 3) (hd : drained s = true)
    (hg : s.mem.gen ≠ 0xFFFF_FFFF) : Answered (tapOpened s) (tapUnlock i s) i ⟨i, 0x9C, some resOk, []⟩ := by
  have hok : ¬ ((!drained (countIn i s)) = true ∨ (countIn i s).mem.gen = 0xFFFF_FFFF) := by
    rw [drained_countIn, hd]
    exact not_or.mpr ⟨Bool.false_ne_true, hg⟩
  have he : tapUnlock i s = reply i 0x1C resOk [] (sessEntry 13 x resOk [(0, 1, 1)] (countIn i (tapOpened s))) := by
    unfold tapUnlock
    rw [command_open ho (.inl hs.2) (by rw [hr]; rfl), if_neg hok, ← tapOpened_countIn]
    rfl
  rw [he]
  exact sessEntry_reply ..

theorem tapUnlock_refused {s : State} {i : Nat} {x : Session} (hs : Serving s) (ho : HasSession s i x) (hr : x.role = 3) (hd : drained s = false) :
    Answered s (tapUnlock i s) i ⟨i, 0x9C, some resState, []⟩ := by
  have he : tapUnlock i s = reply i 0x1C resState [] (countIn i s) := by
    unfold tapUnlock
    rw [command_open ho (.inl hs.2) (by rw [hr]; rfl), drained_countIn, hd]
    exact if_pos (.inl rfl)
  rw [he]
  exact reply_only ..

/-! ## The test port -/

theorem bypass_ne_idcode : (0x3FF : BitVec 10) ≠ Config.idcodeIr := by
  unfold Config.idcodeIr
  split
  · decide
  · next h => exact Ne.symm h

theorem test_idcode {s : State} (hp : s.pwr.powered = true) :
    exec (.testAccessInstruction Config.idcodeIr) s = .next (modMgt (fun m => { m with tapIr := Config.idcodeIr, tdo := m.tdo ++ [idcode] }) s) :=
  (if_pos rfl).trans (live_next hp)

/-- What acts as BYPASS: BYPASS itself, and any other instruction of a locked port. -/
theorem test_bypass {s : State} {ir : BitVec 10} (hp : s.pwr.powered = true) (hi : ir ≠ Config.idcodeIr)
    (h : ir = 0x3FF ∨ (s.fuses.testLock = true ∧ s.mgt.tapOpen = false)) :
    exec (.testAccessInstruction ir) s = .next (modMgt (fun m => { m with tapIr := 0x3FF }) s) := by
  have hlocked : ir = 0x3FF ∨ (s.fuses.testLock = true ∧ (!s.mgt.tapOpen) = true) ∨ (!s.pwr.powered) = true := by
    rcases h with h | ⟨hl, ho⟩
    · exact .inl h
    · exact .inr (.inl ⟨hl, by rw [ho]; rfl⟩)
  exact (if_neg hi).trans ((if_pos hlocked).trans (live_next hp))

theorem test_open {s : State} {ir : BitVec 10} (hp : s.pwr.powered = true) (hi : ir ≠ Config.idcodeIr) (hb : ir ≠ 0x3FF)
    (h : s.fuses.testLock = false ∨ s.mgt.tapOpen = true) : exec (.testAccessInstruction ir) s = .refused .testInstruction := by
  have hopen : ¬ (ir = 0x3FF ∨ (s.fuses.testLock = true ∧ (!s.mgt.tapOpen) = true) ∨ (!s.pwr.powered) = true) := by
    rintro (k | ⟨hl, ho⟩ | k)
    · exact hb k
    · rcases h with h | h
      · rw [h] at hl; cases hl
      · rw [h] at ho; cases ho
    · rw [hp] at k; cases k
  exact (if_neg hi).trans (if_neg hopen)

/-- Settles O12: the burn, the unlock and the instructions of the test port. -/
theorem fusesBurnAndTheTestPortOpens : Obligations.FusesBurnAndTheTestPortOpens := by
  refine ⟨fun s i x id item v hs ho hr => ⟨fun f w hb => ?_, fun hb => ?_⟩, fun s i x hs ho hr => ⟨fun hd hg => ?_, fun hd => ?_⟩,
    fun s ir hp => ⟨test_idcode hp, test_bypass hp bypass_ne_idcode (.inl rfl), fun hl ho hi => test_bypass hp hi (.inr ⟨hl, ho⟩),
      fun h hi hb => test_open hp hi hb h⟩⟩
  · have ha := fuse_burns (id := id) hs ho hr hb
    obtain ⟨h1, -, h3, -⟩ := ha.fixed
    refine ⟨fuse i id item v s, ?_, ha⟩
    show liveFuses s (fuse i id item v s) = _
    rw [liveFuses_next hs.1, ha.frame]
    rfl
  · have ha := fuse_refused (id := id) hs ho hr hb
    refine ⟨fuse i id item v s, ?_, ha⟩
    show liveFuses s (fuse i id item v s) = _
    rw [liveFuses_next hs.1, ha.frame]
    rfl
  · obtain ⟨q, l, w, n, hframe⟩ := tapOpened_frame s
    have hanswer := tapUnlock_opens hs ho hr hd hg
    rw [hframe] at hanswer
    obtain ⟨t, hex, ha⟩ := live_answered hs.1 hanswer rfl rfl rfl
    refine ⟨t, hex, ?_, ?_, ?_, ?_, ?_, ?_, ?_, ?_, ?_⟩
    · rw [ha.mgt]
    · rw [ha.frame]
      rfl
    · rw [ha.frame]
      rfl
    · rw [ha.frame]
      rfl
    · rw [ha.frame]
      rfl
    · rw [ha.mgt]
    · rw [ha.mgt]
    · rw [ha.frame]
      rfl
    · rw [ha.frame]
      rfl
  · exact live_answered hs.1 (tapUnlock_refused hs ho hr hd) rfl rfl rfl

end Sys2Proof.Machine
end

section
/-! SUPPORT. Power-up and full reset (R388, R413, R467, R469, R477, R480, R487). -/

namespace Sys2Proof.Machine

open Sys2Proof

/-! ## Mahel stops -/

/-- `t` is `s` but for sessions that ended and the ledger. -/
def SessOnly (s t : State) : Prop := ∃ l n q st h o c, t = { s with
  mgt := { s.mgt with sessions := l, net := n, queue := q, store := st, headSeq := h, overwritten := o }, freeCount := c }

theorem SessOnly.refl (s : State) : SessOnly s s := ⟨_, _, _, _, _, _, _, rfl⟩

theorem SessOnly.trans {s t u : State} (h : SessOnly s t) (k : SessOnly t u) : SessOnly s u := by
  obtain ⟨l, n, q, st, hs, o, c, rfl⟩ := h
  obtain ⟨l', n', q', st', hs', o', c', rfl⟩ := k
  exact ⟨l', n', q', st', hs', o', c', rfl⟩

theorem sessEntry_sessOnly (type : Nat) (x : Session) (result : Byte) (fields : List (Nat × Nat × Nat)) (s : State) :
    SessOnly s (sessEntry type x result fields s) := by
  obtain ⟨q, st, h, o, he⟩ := sessEntry_frame type x result fields s
  exact ⟨_, _, _, _, _, _, _, he⟩

theorem closeSess_sessOnly (i reason : Nat) (s : State) : SessOnly s (closeSess i reason s) := by
  have hdrop : ∀ u, SessOnly u (dropSession i u) := fun u => ⟨_, _, _, _, _, _, _, rfl⟩
  unfold closeSess
  split
  · exact SessOnly.refl s
  · split
    · exact (sessEntry_sessOnly ..).trans (hdrop _)
    · exact hdrop s

theorem ledgerStoreOne_sessOnly (s : State) : SessOnly s (ledgerStoreOne s) := by
  unfold ledgerStoreOne
  split
  · exact SessOnly.refl s
  · exact ⟨_, _, _, _, _, _, _, rfl⟩

theorem forEach_sessOnly {α : Type} {f : α → State → State} (h : ∀ a s, SessOnly s (f a s)) (l : List α) (s : State) : SessOnly s (forEach l f s) := by
  induction l generalizing s with
  | nil => exact SessOnly.refl s
  | cons a l ih => exact (h a s).trans (ih (f a s))

theorem stopMahel_sessOnly (s : State) : SessOnly s (stopMahel s) :=
  (forEach_sessOnly (fun i => closeSess_sessOnly i 3) _ s).trans (forEach_sessOnly (fun _ => ledgerStoreOne_sessOnly) _ _)

/-! ## What the boot leaves of the module as loaded -/

/-- `t` is `s` but for what a boot's later steps change: the FNID, STEP, the tick unit and records. -/
structure BootKeeps (s t : State) : Prop where
  frame : t = { s with glb := t.glb, tick := t.tick, tly := t.tly, freeCount := t.freeCount
                       mgt := { s.mgt with queue := t.mgt.queue, lost := t.mgt.lost, lostWaiting := t.mgt.lostWaiting } }
  locked : t.glb.locked = s.glb.locked
  step : s.glb.step.toNat ≤ t.glb.step.toNat

theorem BootKeeps.parts {s t : State} (h : BootKeeps s t) : ∃ g tk ty c q l w, t = { s with glb := g, tick := tk, tly := ty, freeCount := c, mgt := { s.mgt with queue := q, lost := l, lostWaiting := w } } :=
  ⟨_, _, _, _, _, _, _, h.frame⟩

theorem BootKeeps.trans {s t u : State} (h : BootKeeps s t) (k : BootKeeps t u) : BootKeeps s u := by
  refine ⟨?_, k.locked.trans h.locked, Nat.le_trans h.step k.step⟩
  rw [k.frame, h.frame]

theorem TickOnly.bootKeeps {s t : State} (h : TickOnly s t) : BootKeeps s t := by
  unfold TickOnly FaultOnly at h
  refine ⟨?_, ?_, ?_⟩
  · rw [h]
  · rw [h]
  · rw [h]

theorem FaultOnly.bootKeeps {s t : State} (h : FaultOnly s t) : BootKeeps s t := h.tickOnly.bootKeeps

theorem reachStep_bootKeeps (k : BitVec 4) (s : State) : BootKeeps s (reachStep k s) := by
  refine ⟨rfl, rfl, ?_⟩
  show s.glb.step.toNat ≤ (if s.glb.step < k then k else s.glb.step).toNat
  split
  · next h => exact Nat.le_of_lt h
  · exact Nat.le_refl _

theorem evalFnid_bootKeeps (s : State) : BootKeeps s (evalFnid s) := by
  have hglb : (evalFnid s).glb.locked = s.glb.locked ∧ (evalFnid s).glb.step = s.glb.step := by
    unfold evalFnid
    dsimp only
    split
    · exact ⟨rfl, rfl⟩
    · split <;> exact ⟨rfl, rfl⟩
    · exact ⟨rfl, rfl⟩
  refine ⟨?_, hglb.1, by rw [hglb.2]⟩
  have h := evalFnid_frame s
  generalize (evalFnid s).glb = g at h
  rw [h]

theorem bootFnid_bootKeeps (s : State) : BootKeeps s (bootFnid s) := by
  unfold bootFnid
  split
  · exact (reachStep_bootKeeps 6 s).trans (evalFnid_bootKeeps _)
  · exact evalFnid_bootKeeps s

theorem ledgerLost_only (s : State) : FaultOnly s (ledgerLost s) := by
  have hzero : FaultOnly s (modMgt (fun m => { m with lostWaiting := 0 }) s) := rfl
  unfold ledgerLost
  split
  · exact FaultOnly.refl s
  · exact (hzero.trans (ledgerDevice_only ..)).trans (devFault0_only ..)

/-! ## The scrub of the boot -/

theorem stacks_parts (l : List Nat) (x : StackState) (s : State) :
    ∃ st, forEach l (fun k => modStack k fun t => { t with state := x }) s = { s with mem := { s.mem with stackOf := st } } := by
  induction l generalizing s with
  | nil => exact ⟨_, rfl⟩
  | cons k l ih =>
    obtain ⟨st, h⟩ := ih (modStack k (fun t => { t with state := x }) s)
    exact ⟨st, h⟩

theorem allStacks_parts (x : StackState) (s : State) : ∃ st, allStacks x s = { s with mem := { s.mem with stackOf := st } } := stacks_parts _ x s

/-- The boot's scrub, where GEN can advance. -/
theorem bootScrubbed_keeps {s : State} (h : s.mem.gen ≠ 0xFFFF_FFFF) : ∃ st, BootKeeps (scrubAll { s with mem := { s.mem with stackOf := st } }) (bootScrubbed s)
    ∧ 5 ≤ (bootScrubbed s).glb.step.toNat := by
  obtain ⟨st, hst⟩ := allStacks_parts .active s
  have he : bootScrubbed s = reachStep 5 (scrubEntry 2 (scrubAll { s with mem := { s.mem with stackOf := st } })) := by
    unfold bootScrubbed bootScrub
    rw [hst, if_neg (show ¬ s.mem.gen = 0xFFFF_FFFF from h)]
    rfl
  rw [he]
  exact ⟨st, (ledgerDevice_only ..).bootKeeps.trans (reachStep_bootKeeps 5 _), reachStep_le 5 _⟩

/-! ## The boot -/

theorem imgCheck_congr {s t : State} (h : t.fuses = s.fuses) (x : FwSlot) (sigOk : Bool) : imgCheck t x sigOk = imgCheck s x sigOk := by
  unfold imgCheck
  rw [h]

/-- The module as the NEXT slot's image finds it. -/
def bootLoaded (s : State) : State :=
  let t := bootSlot s.mgt.nextB (modFw s.mgt.nextB (fun x => { x with state := slotValid }) (resetState s))
  modArr (fun a => { a with ucode := if t.mgt.recovery then 0 else imgUcode (slotAt t t.mgt.runB) }) t

theorem bootRun_loaded {s : State} {a b : Bool} (cause : Nat) (h : imgCheck s (slotAt s s.mgt.nextB) (if s.mgt.nextB then b else a) = resOk) :
    bootRun cause a b s = applyForce (bootFnid (noteTable (bootScrubbed (ledgerLost (bootEntry cause false (bootLoaded s)))))) := by
  have hslot : slotAt (resetState s) s.mgt.nextB = slotAt s s.mgt.nextB := slotAt_congr rfl rfl _
  have hcheck : imgCheck (resetState s) (slotAt (resetState s) s.mgt.nextB) (if s.mgt.nextB then b else a) = resOk := by
    rw [hslot, imgCheck_congr (s := s) (t := resetState s) rfl, h]
  have hboot : bootSlots a b (resetState s) = (false, bootSlot s.mgt.nextB (modFw s.mgt.nextB (fun x => { x with state := slotValid }) (resetState s))) := by
    unfold bootSlots verifySlot
    dsimp only
    rw [show (resetState s).mgt.nextB = s.mgt.nextB from rfl, hcheck]
    rfl
  unfold bootRun
  rw [hboot]
  rfl

/-- What the loaded image finds of the module before. -/
theorem bootLoaded_parts (s : State) : let t := bootLoaded s
    t.mgt.runB = s.mgt.nextB ∧ t.mgt.recovery = false ∧ t.mgt.nv = (newestBank s.mgt).elim {} (·.2) ∧ t.mgt.sessions = [] ∧ t.mgt.claimed = s.mgt.claimed
      ∧ t.mgt.incarn = satAdd s.mgt.incarn 1 ∧ t.mgt.replies = s.mgt.replies ∧ t.fuses = s.fuses ∧ t.arr.map = s.fuses.map ∧ t.mem.gen = s.mem.gen
      ∧ t.eps = [] ∧ t.glb.locked = false ∧ t.pwr.powered = true ∧ t.pending = s.pending ∧ t.attachBuf = s.attachBuf := by
  unfold bootLoaded bootSlot modFw
  cases s.mgt.nextB <;> exact ⟨rfl, rfl, rfl, rfl, rfl, rfl, rfl, rfl, rfl, rfl, rfl, rfl, rfl, rfl, rfl⟩

/-- What a boot of the NEXT slot's image leaves. -/
theorem bootRun_parts {s : State} {a b : Bool} (cause : Nat) (h : imgCheck s (slotAt s s.mgt.nextB) (if s.mgt.nextB then b else a) = resOk)
    (hg : s.mem.gen ≠ 0xFFFF_FFFF) : let t := bootRun cause a b s
    t.mgt.runB = s.mgt.nextB ∧ t.mgt.recovery = false ∧ t.mgt.nv = (newestBank s.mgt).elim {} (·.2) ∧ t.mgt.sessions = [] ∧ t.mgt.claimed = s.mgt.claimed
      ∧ t.fuses = s.fuses ∧ t.arr.map = s.fuses.map ∧ t.mem.cells = [] ∧ t.mem.gen = s.mem.gen + 1 ∧ t.eps = [] ∧ t.glb.locked = false
      ∧ t.pwr.powered = true ∧ t.pending = s.pending ∧ t.mgt.incarn = satAdd s.mgt.incarn 1 ∧ 5 ≤ t.glb.step.toNat
      ∧ t.mgt.replies = s.mgt.replies ∧ t.attachBuf = s.attachBuf := by
  obtain ⟨l1, l2, l3, l4, l5, l6, l7, l8, l9, l10, l11, l12, l13, l14, l15⟩ := bootLoaded_parts s
  rw [bootRun_loaded cause h]
  dsimp only
  generalize bootLoaded s = v at *
  have hentry : BootKeeps v (ledgerLost (bootEntry cause false v)) := ((ledgerDevice_only ..).trans (ledgerLost_only _)).bootKeeps
  generalize ledgerLost (bootEntry cause false v) = w at *
  obtain ⟨st, hscrub, h5⟩ := bootScrubbed_keeps (s := w) (by rw [hentry.frame]; exact l10 ▸ hg)
  have hrest : BootKeeps (bootScrubbed w) (applyForce (bootFnid (noteTable (bootScrubbed w)))) :=
    ((noteTable_only _).bootKeeps.trans (bootFnid_bootKeeps _)).trans (applyForce_tickOnly _).bootKeeps
  have hstep := Nat.le_trans h5 hrest.step
  have hall := hscrub.trans hrest
  generalize applyForce (bootFnid (noteTable (bootScrubbed w))) = t at *
  have hlocked : t.glb.locked = false := (hall.locked.trans hentry.locked).trans l12
  obtain ⟨gw, kw, yw, cw, qw, lw, ww, rfl⟩ := hentry.parts
  obtain ⟨gt, kt, yt, ct, qt, lt, wt, rfl⟩ := hall.parts
  exact ⟨l1, l2, l3, l4, l5, l8, l9, rfl, congrArg (· + 1) l10, l11, hlocked, l13, l14, l6, hstep, l7, l15⟩

/-- What a reset that boots the NEXT slot's image leaves of the module before. -/
def BootLeft (s t : State) : Prop := t.mgt.runB = s.mgt.nextB ∧ t.mgt.recovery = false ∧ t.mgt.nv = ((newestBank s.mgt).elim {} (·.2))
  ∧ t.mgt.sessions = [] ∧ t.mgt.claimed = s.mgt.claimed ∧ t.fuses = s.fuses ∧ t.arr.map = s.fuses.map ∧ t.mem.cells = []
  ∧ t.mem.gen = s.mem.gen + 1 ∧ t.eps = [] ∧ t.glb.locked = false ∧ t.pwr.powered = true ∧ t.pending = s.pending
  ∧ t.mgt.incarn = satAdd s.mgt.incarn 1 ∧ 5 ≤ t.glb.step.toNat

/-- A stop that leaves all that a boot finds. -/
structure SameBoot (s u : State) : Prop where
  next : u.mgt.nextB = s.mgt.nextB
  slotA : u.mgt.slotA = s.mgt.slotA
  slotB : u.mgt.slotB = s.mgt.slotB
  bank0 : u.mgt.bank0 = s.mgt.bank0
  bank1 : u.mgt.bank1 = s.mgt.bank1
  claimed : u.mgt.claimed = s.mgt.claimed
  incarn : u.mgt.incarn = s.mgt.incarn
  fuses : u.fuses = s.fuses
  gen : u.mem.gen = s.mem.gen
  pending : u.pending = s.pending

theorem SessOnly.sameBoot {s u : State} (h : SessOnly s u) : SameBoot s u := by
  obtain ⟨l, n, q, st, hs, o, c, rfl⟩ := h
  exact ⟨rfl, rfl, rfl, rfl, rfl, rfl, rfl, rfl, rfl, rfl⟩

theorem newestBank_congr {m n : Mgt} (h0 : n.bank0 = m.bank0) (h1 : n.bank1 = m.bank1) : newestBank n = newestBank m := by
  unfold newestBank
  rw [h0, h1]

/-- The boot of the NEXT slot's image after a stop, with the replies sent so far. -/
theorem bootRun_left {s u : State} {a b : Bool} (cause : Nat) (hu : SameBoot s u)
    (h : imgCheck s (slotAt s s.mgt.nextB) (if s.mgt.nextB then b else a) = resOk) (hg : s.mem.gen ≠ 0xFFFF_FFFF) :
    BootLeft s (keepFixed s (bootRun cause a b u)) ∧ (bootRun cause a b u).mgt.replies = u.mgt.replies := by
  have hslot : slotAt u s.mgt.nextB = slotAt s s.mgt.nextB := slotAt_congr hu.slotA hu.slotB _
  obtain ⟨h1, h2, h3, h4, h5, h6, h7, h8, h9, h10, h11, h12, h13, h14, h15, h16, -⟩ :=
    bootRun_parts (s := u) (a := a) (b := b) cause (by rw [hu.next, hslot, imgCheck_congr hu.fuses, h]) (by rw [hu.gen]; exact hg)
  generalize bootRun cause a b u = t at *
  exact ⟨⟨h1.trans hu.next, h2, h3.trans (by rw [newestBank_congr hu.bank0 hu.bank1]), h4, h5.trans hu.claimed, rfl, h7.trans (by rw [hu.fuses]), h8,
    h9.trans (by rw [hu.gen]), h10, h11, h12, rfl, h14.trans (by rw [hu.incarn]), h15⟩, h16⟩

/-- What the reply to FULL_RESET leaves of the module. -/
theorem reply_sameBoot (i : Nat) (mtype result : Byte) (body : List Byte) (s : State) : SameBoot s (reply i mtype result body (countIn i s)) :=
  ⟨rfl, rfl, rfl, rfl, rfl, rfl, rfl, rfl, rfl, rfl⟩

theorem SameBoot.trans {s t u : State} (h : SameBoot s t) (k : SameBoot t u) : SameBoot s u :=
  ⟨k.next.trans h.next, k.slotA.trans h.slotA, k.slotB.trans h.slotB, k.bank0.trans h.bank0, k.bank1.trans h.bank1, k.claimed.trans h.claimed,
    k.incarn.trans h.incarn, k.fuses.trans h.fuses, k.gen.trans h.gen, k.pending.trans h.pending⟩

theorem SessOnly.replies {s t : State} (h : SessOnly s t) : t.mgt.replies = s.mgt.replies := by
  obtain ⟨l, n, q, st, hs, o, c, rfl⟩ := h
  rfl

/-- A start is a boot of what its stop leaves. -/
theorem powerUp_next (a b : Bool) (s : State) : exec (.powerUp a b) s = .next (keepFixed s (bootRun 0 a b s)) := rfl

theorem resetN_next {s : State} (a b : Bool) (hp : s.pwr.powered = true) : exec (.resetN a b) s = .next (keepFixed s (bootRun 1 a b (stopMahel s))) :=
  live_next hp

theorem inputRestored_next {s : State} {mv : BitVec 16} (a b : Bool) (hp : s.pwr.powered = false) (hlo : 21000 ≤ mv.toNat) (hhi : mv.toNat ≤ 27000) :
    exec (.inputRestored mv (a, b)) s = .next (keepFixed s (modPwr (fun p => { p with vinMv := mv }) (bootRun 3 a b s))) := by
  show execInputRestored mv (a, b) s = _
  unfold execInputRestored vinOperates
  rw [if_neg (by rw [hp, decide_eq_true hlo, decide_eq_true hhi]; decide)]

theorem fullReset_next {s : State} {i : Nat} {x : Session} (a b : Bool) (hs : Serving s) (ho : HasSession s i x) (hr : x.role = 2) :
    exec (.fullReset i a b) s = .next (keepFixed s (bootRun 2 a b (stopMahel (reply i 0x1A resOk [] (countIn i s))))) := by
  have he : fullReset i a b s = bootRun 2 a b (stopMahel (reply i 0x1A resOk [] (countIn i s))) :=
    command_open ho (.inl hs.2) (by rw [hr]; rfl)
  show live s (fullReset i a b s) = _
  rw [live_next hs.1, he]

theorem BootLeft.vin {s t : State} (mv : BitVec 16) (h : BootLeft s (keepFixed s t)) : BootLeft s (keepFixed s (modPwr (fun p => { p with vinMv := mv }) t)) := h

/-- Settles O13: each start is a boot of what its stop leaves. -/
theorem resetBootsTheNextImage : Obligations.ResetBootsTheNextImage := by
  intro s a b h hg
  have hown := (SessOnly.refl s).sameBoot
  refine ⟨?_, fun hp => ?_, fun mv hp hlo hhi => ?_, fun i x hs ho hr => ?_⟩
  · exact ⟨_, powerUp_next a b s, (bootRun_left 0 hown h hg).1⟩
  · exact ⟨_, resetN_next a b hp, (bootRun_left 1 (stopMahel_sessOnly s).sameBoot h hg).1⟩
  · exact ⟨_, inputRestored_next a b hp hlo hhi, (bootRun_left 3 hown h hg).1.vin mv⟩
  · have hstop := stopMahel_sessOnly (reply i 0x1A resOk [] (countIn i s))
    obtain ⟨hleft, hreplies⟩ := bootRun_left 2 ((reply_sameBoot i 0x1A resOk [] s).trans hstop.sameBoot) h hg
    have hsent : (⟨i, 0x9A, some resOk, []⟩ : Reply) ∈ (keepFixed s (bootRun 2 a b (stopMahel (reply i 0x1A resOk [] (countIn i s))))).mgt.replies := by
      rw [keepFixed_mgt, hreplies, hstop.replies]
      exact List.mem_append_right _ (List.mem_singleton.mpr rfl)
    exact ⟨_, fullReset_next a b hs ho hr, hleft, hsent⟩

end Sys2Proof.Machine
end

section
/-! SUPPORT. Ports that stop, stacks that sleep, and the ledger's hold-up (R413, R420, R473). -/

namespace Sys2Proof.Machine

open Sys2Proof

theorem forEach_cons {α : Type} (a : α) (l : List α) (f : α → State → State) (s : State) : forEach (a :: l) f s = forEach l f (f a s) := rfl

/-! ## Ports that stop with nothing to leave -/

/-- A port with nothing to leave behind, where it carries traffic. -/
def LeavesNothing (s : State) (n : Nat) : Prop := (portOf s n).state = .traffic → PortFree s n

/-- `t` is `s` but for lanes and ports, what waits in the switch core, and the ports' power states; each egress queue reads as before. -/
structure StopsOnly (s t : State) : Prop where
  frame : ∃ l p w, t = { s with lanes := l, pwr := { s.pwr with portState := p }, swc := w }
  queues : ∀ p c, queueOf t p c = queueOf s p c

theorem StopsOnly.refl (s : State) : StopsOnly s s := ⟨⟨_, _, _, rfl⟩, fun _ _ => rfl⟩

theorem StopsOnly.trans {s t u : State} (h : StopsOnly s t) (k : StopsOnly t u) : StopsOnly s u := by
  obtain ⟨⟨l, p, w, rfl⟩, hq⟩ := h
  obtain ⟨⟨l', p', w', rfl⟩, hq'⟩ := k
  exact ⟨⟨l', p', w', rfl⟩, fun a c => (hq' a c).trans (hq a c)⟩

theorem PortFree.of_stops {s t : State} {n : Nat} (h : PortFree s n) (k : StopsOnly s t) : PortFree t n := by
  obtain ⟨⟨l, p, w, rfl⟩, hq⟩ := k
  exact ⟨h.1, fun c hc => (hq n c).trans (h.2 c hc)⟩

/-- Ports that quit traffic one by one, with nothing to leave behind. -/
theorem quitAll_stops (l : List Nat) {s : State} (h : ∀ n ∈ l, LeavesNothing s n) :
    StopsOnly s (forEach l quitTraffic s) ∧ ∀ m, portOf (forEach l quitTraffic s) m = portOf s m := by
  induction l generalizing s with
  | nil => exact ⟨StopsOnly.refl s, fun _ => rfl⟩
  | cons n l ih =>
    obtain ⟨b, a, e, w, q, r, hq, hk⟩ := quitTraffic_free (h n (List.mem_cons_self ..))
    have hfirst : StopsOnly s (quitTraffic n s) := ⟨⟨_, _, _, hq⟩, fun p c => by rw [hq]; exact hk p c⟩
    have hport : ∀ m, portOf (quitTraffic n s) m = portOf s m := fun m => by rw [hq]; rfl
    obtain ⟨hrest, hports⟩ := ih (s := quitTraffic n s) fun m hm htraffic =>
      (h m (List.mem_cons_of_mem n hm) (by rw [← hport m]; exact htraffic)).of_stops hfirst
    exact ⟨hfirst.trans hrest, fun m => (hports m).trans (hport m)⟩

theorem forgetAll_stops (l : List Nat) (st : Nat → PortState) (cause : Nat → Option (BitVec 4)) (s : State) :
    StopsOnly s (forEach l (fun n => forgetPort n (st n) (cause n)) s) := by
  induction l generalizing s with
  | nil => exact StopsOnly.refl s
  | cons n l ih =>
    obtain ⟨-, -, -, -, hf⟩ := forgetPort_all n (st n) (cause n) s
    have hfirst : StopsOnly s (forgetPort n (st n) (cause n) s) := by
      generalize forgetPort n (st n) (cause n) s = u at hf ⊢
      exact ⟨⟨_, _, _, hf⟩, fun p c => by rw [hf]; rfl⟩
    rw [forEach_cons]
    exact hfirst.trans (ih _)

theorem portsDown_stops {s : State} (h : ∀ n, n < 64 → LeavesNothing s n) : StopsOnly s (portsDown s) := by
  have hquit := (quitAll_stops (List.range 64) fun n hn => h n (List.mem_range.mp hn)).1
  exact hquit.trans (forgetAll_stops ..)

/-! ## Stacks -/

/-- Each of the stacks named takes the state; memory changes in them alone. -/
theorem stackOfN_stacks (l : List Nat) (x : StackState) (s : State) {k : Nat} (h : k ∈ l) :
    (stackOfN (forEach l (fun k => modStack k fun t => { t with state := x }) s) k).state = x := by
  induction l generalizing s with
  | nil => cases h
  | cons j l ih =>
    by_cases hk : k ∈ l
    · exact ih _ hk
    · have hj : k = j := (List.mem_cons.mp h).resolve_right hk
      have hother : ∀ (l : List Nat) (s : State), ¬ k ∈ l → stackOfN (forEach l (fun k => modStack k fun t => { t with state := x }) s) k = stackOfN s k := by
        intro l
        induction l with
        | nil => intros; rfl
        | cons m l ih =>
          intro s hm
          rw [List.mem_cons, not_or] at hm
          refine (ih _ hm.2).trans ?_
          unfold stackOfN modStack modMem
          dsimp only
          rw [tabGet_mod_other _ _ _ hm.1]
      show (stackOfN (forEach l _ (modStack j (fun t => { t with state := x }) s)) k).state = x
      rw [hother l _ hk, hj]
      unfold stackOfN modStack modMem
      dsimp only
      rw [tabGet_mod_same]

theorem allStacks_state (x : StackState) (s : State) {k : Nat} (h : k < 24) : (stackOfN (allStacks x s) k).state = x :=
  stackOfN_stacks _ x s (List.mem_range.mpr h)

/-- Stacks asleep: memory alone changes, with no line left in a combining buffer. -/
theorem stacksAsleep_all (s : State) : let t := stacksAsleep s
    (∀ k, k < 24 → (stackOfN t k).state = .selfRefresh) ∧ (∀ c, (chanOf t c).comb = []) ∧ t = { s with mem := t.mem } := by
  have hstate : ∀ k, k < 24 → (stackOfN (stacksAsleep s) k).state = .selfRefresh := fun k hk => allStacks_state _ _ hk
  have hcomb := allDrained_comb s
  obtain ⟨⟨cs, w, p, r, ch, hd⟩, -⟩ := drainChannels_all (s.mem.channels.map (·.1)) s
  obtain ⟨st, hst⟩ := allStacks_parts .selfRefresh (forEach (s.mem.channels.map (·.1)) drainChannel s)
  refine ⟨hstate, fun c => ?_, ?_⟩
  · show (chanOf (allStacks .selfRefresh (forEach (s.mem.channels.map (·.1)) drainChannel s)) c).comb = []
    rw [hst]
    exact hcomb c
  · show allStacks .selfRefresh (forEach (s.mem.channels.map (·.1)) drainChannel s) = { s with mem := (allStacks .selfRefresh (forEach (s.mem.channels.map (·.1)) drainChannel s)).mem }
    rw [hst, hd]

/-! ## Hold-up -/

/-- The entries of the ledger's queue are stored or lost, and nothing else changes. -/
theorem holdUp_parts (k : Nat) (s : State) : ∃ st h o, holdUp k s = { s with mgt := { s.mgt with
    queue := [], store := st, headSeq := h, overwritten := o, lostWaiting := s.mgt.lostWaiting + (s.mgt.queue.length - k) } } := by
  induction k generalizing s with
  | zero => exact ⟨_, _, _, rfl⟩
  | succ k ih =>
    obtain ⟨st, h, o, he⟩ := ih (ledgerStoreOne s)
    refine ⟨st, h, o, (he : holdUp (k + 1) s = _).trans ?_⟩
    unfold ledgerStoreOne
    cases hq : s.mgt.queue with
    | nil =>
      dsimp only
      rw [hq, List.length_nil, Nat.zero_sub, Nat.zero_sub]
    | cons e rest =>
      show _ = { s with mgt := { s.mgt with queue := [], store := st, headSeq := h, overwritten := o, lostWaiting := s.mgt.lostWaiting + ((e :: rest).length - (k + 1)) } }
      rw [List.length_cons, Nat.add_sub_add_right]
      rfl

/-- PREV of the next entry to be stored. -/
def nextPrev (m : Mgt) : List Byte :=
  match m.store.getLast? with
  | none => zeros 48
  | some b => if m.headSeq = 0 then zeros 48 else sha384 (bvBytes b)

/-- One entry waits and one is stored: the store ends with it. -/
theorem holdUp_one {s : State} {e : LedgerEntry} (hq : s.mgt.queue = [e]) :
    (holdUp 1 s).mgt.store.getLast? = some (BitVec.ofNat 1024 (leNat (ledgerHead (s.mgt.headSeq + 1).toNat e ++ nextPrev s.mgt))) := by
  unfold holdUp holdUp ledgerStoreOne
  rw [hq]
  exact List.getLast?_concat ..

end Sys2Proof.Machine
end

section
/-! SUPPORT. The input's warnings and shutdowns (R413). -/

namespace Sys2Proof.Machine

open Sys2Proof

theorem vinWarns_iff (above : Bool) (mv : BitVec 16) :
    vinWarns above mv = true ↔ if above then 27000 < mv.toNat ∧ mv.toNat ≤ 28500 else 19500 ≤ mv.toNat ∧ mv.toNat < 21000 := by
  unfold vinWarns
  cases above <;> simp

theorem vinShuts_iff (above : Bool) (mv : BitVec 16) : vinShuts above mv = true ↔ if above then 28500 < mv.toNat else mv.toNat < 19500 := by
  unfold vinShuts
  cases above <;> simp

/-- The entry of a power event. -/
def powerEvent (event cause value more : Nat) (s : State) : LedgerEntry :=
  { tick := s.tick.now, uptime := (takeFree s).1, type := 10, role := 0, result := 0, credId := 0
    detail := detailOf [(0, 1, event), (1, 1, cause), (2, 2, value), (4, 2, more)] }

theorem powerEntry_room {event cause value more : Nat} {s : State} (h : s.mgt.queue.length < 256) : powerEntry event cause value more s =
    { s with mgt := { s.mgt with queue := s.mgt.queue ++ [powerEvent event cause value more s] }, freeCount := s.freeCount + 1 } := by
  unfold powerEntry ledgerDevice
  rw [if_neg (Nat.not_le.mpr h)]
  rfl

theorem powerEntry_only (event cause value more : Nat) (s : State) : FaultOnly s (powerEntry event cause value more s) := ledgerDevice_only ..

/-- The module with its shutdown recorded, its ports stopped and its stacks asleep. -/
def shutDown (above : Bool) (mv : BitVec 16) (s : State) : State := stacksAsleep (portsDown (powerEntry 1 (ofB above) mv.toNat 0 s))

theorem inputShutdown_shuts {above : Bool} {mv : BitVec 16} (h : vinShuts above mv = true) (written : Nat) (s : State) :
    inputShutdown above mv written s = modPwr (fun p => { p with powered := false, vinMv := mv })
      (holdUp (min written (shutDown above mv s).mgt.queue.length) (shutDown above mv s)) := by
  unfold inputShutdown
  rw [if_neg (by rw [h]; decide)]
  rfl

theorem shutDown_parts (above : Bool) (mv : BitVec 16) (s : State) :
    ∃ m, shutDown above mv s = { portsDown (powerEntry 1 (ofB above) mv.toNat 0 s) with mem := m } := by
  unfold shutDown
  generalize portsDown (powerEntry 1 (ofB above) mv.toNat 0 s) = u
  exact ⟨_, (stacksAsleep_all u).2.2⟩

/-- Ports do not rest on memory. -/
theorem portOf_mem (m : Mem) (s : State) (n : Nat) : portOf { s with mem := m } n = portOf s n := rfl

/-- Each port of a module that shut down. -/
theorem shutDown_port (above : Bool) (mv : BitVec 16) (s : State) {n : Nat} (h : n < 64) :
    ∃ p, portOf (shutDown above mv s) n = forgotten (if (portOf s n).state = .disabled then .disabled else .reset) (some (portOf s n).cause) p := by
  obtain ⟨m, hasleep⟩ := shutDown_parts above mv s
  obtain ⟨p, hp⟩ := portsDown_port (powerEntry 1 (ofB above) mv.toNat 0 s) h
  have hlanes : (powerEntry 1 (ofB above) mv.toNat 0 s).lanes = s.lanes := (powerEntry_only 1 (ofB above) mv.toNat 0 s).fields.1
  have hport : portOf (powerEntry 1 (ofB above) mv.toNat 0 s) n = portOf s n := by
    unfold portOf
    rw [hlanes]
  rw [hport] at hp
  refine ⟨p, ?_⟩
  rw [hasleep, portOf_mem, hp]

/-- With ports that leave nothing behind, a shutdown's only entry is its own. -/
theorem shutDown_mgt {above : Bool} {mv : BitVec 16} {s : State} (h : ∀ n, n < 64 → LeavesNothing s n) :
    (shutDown above mv s).mgt = (powerEntry 1 (ofB above) mv.toNat 0 s).mgt := by
  have honly := powerEntry_only 1 (ofB above) mv.toNat 0 s
  have hfree : ∀ n, n < 64 → LeavesNothing (powerEntry 1 (ofB above) mv.toNat 0 s) n := by
    generalize powerEntry 1 (ofB above) mv.toNat 0 s = u at honly
    intro n hn htraffic
    rw [honly] at htraffic ⊢
    exact h n hn htraffic
  obtain ⟨⟨l, p, w, hdown⟩, -⟩ := portsDown_stops hfree
  obtain ⟨m, hasleep⟩ := shutDown_parts above mv s
  rw [hasleep, hdown]

/-- What the hold-up leaves of the ledger, where nothing else wrote to it. -/
theorem shutDown_ledger {above : Bool} {mv : BitVec 16} {s : State} (h : ∀ n, n < 64 → LeavesNothing s n) (written : Nat) :
    let t := holdUp (min written (shutDown above mv s).mgt.queue.length) (shutDown above mv s)
    t.mgt.nv = s.mgt.nv
      ∧ (s.mgt.queue.length < 256 → t.mgt.lostWaiting = s.mgt.lostWaiting + (s.mgt.queue.length + 1 - min written (s.mgt.queue.length + 1)))
      ∧ (s.mgt.queue = [] → 1 ≤ written → t.mgt.store.getLast?
        = some (BitVec.ofNat 1024 (leNat (ledgerHead (s.mgt.headSeq + 1).toNat (powerEvent 1 (ofB above) mv.toNat 0 s) ++ nextPrev s.mgt)))) := by
  have hmgt := shutDown_mgt (above := above) (mv := mv) h
  have hnv := (powerEntry_only 1 (ofB above) mv.toNat 0 s).mgt_parts
  have hroom := fun hq => congrArg State.mgt (powerEntry_room (event := 1) (cause := ofB above) (value := mv.toNat) (more := 0) (s := s) hq)
  generalize shutDown above mv s = v at hmgt ⊢
  rw [← hmgt] at hnv hroom
  refine ⟨?_, fun hq => ?_, fun hq hw => ?_⟩
  · obtain ⟨st, hs, o, hh⟩ := holdUp_parts (min written v.mgt.queue.length) v
    rw [hh]
    exact (congrArg Mgt.nv hnv :)
  · obtain ⟨st, hs, o, hh⟩ := holdUp_parts (min written v.mgt.queue.length) v
    rw [hh]
    dsimp only
    rw [hroom hq]
    dsimp only
    rw [List.length_append, List.length_singleton]
  · have hv := hroom (by rw [hq]; decide)
    have hone : v.mgt.queue = [powerEvent 1 (ofB above) mv.toNat 0 s] := by
      rw [hv, hq]
      rfl
    rw [hone, List.length_singleton, Nat.min_eq_right hw, holdUp_one hone, hv]
    rfl

/-- Settles O14: warnings and shutdowns by band, and what a module whose regulators are off does. -/
theorem inputWarnsAndShutsDown : Obligations.InputWarnsAndShutsDown := by
  refine ⟨fun s above mv hp => ⟨fun hb => ?_, fun hb => ?_, fun written hb => ?_, fun written hb => ?_⟩, fun s t c hp he => exec_unpowered hp he⟩
  · have he : vinWarn above mv s = devFault0 0xA0 sevWarn (ofB above) 0 (modPwr (fun p => { p with vinMv := mv }) s) := if_pos ((vinWarns_iff above mv).mpr hb)
    have honly := devFault0_only 0xA0 sevWarn (ofB above) 0 (modPwr (fun p => { p with vinMv := mv }) s)
    rw [← he] at honly
    exact ⟨vinWarn above mv s, honly.live_next hp rfl rfl rfl, honly, fun hl => by rw [he]; exact devFault0_recorded 0xA0 sevWarn (ofB above) 0 _ hl⟩
  · have he : vinWarn above mv s = s := if_neg (mt (vinWarns_iff above mv).mp hb)
    show live s (vinWarn above mv s) = _
    rw [live_next hp, he]
    rfl
  · have hports : ∀ n, n < 64 → _ := fun n hn => shutDown_port above mv s (n := n) hn
    have hledger := fun h => shutDown_ledger (above := above) (mv := mv) (s := s) h written
    obtain ⟨hstacks, hcomb, -⟩ := stacksAsleep_all (portsDown (powerEntry 1 (ofB above) mv.toNat 0 s))
    obtain ⟨st, hs, o, hh⟩ := holdUp_parts (min written (shutDown above mv s).mgt.queue.length) (shutDown above mv s)
    refine ⟨keepFixed s (inputShutdown above mv written s), live_next hp, ?_⟩
    rw [inputShutdown_shuts ((vinShuts_iff above mv).mpr hb)]
    change ∀ k, k < 24 → (stackOfN (shutDown above mv s) k).state = _ at hstacks
    change ∀ c, (chanOf (shutDown above mv s) c).comb = [] at hcomb
    generalize shutDown above mv s = v at *
    refine ⟨rfl, rfl, by rw [hh]; rfl, fun k hk => by rw [hh]; exact hstacks k hk, fun c => by rw [hh]; exact hcomb c, rfl, rfl, fun n hn => ?_, fun hfree => ?_⟩
    · obtain ⟨p, hport⟩ := hports n hn
      have hkept : portOf (keepFixed s (modPwr (fun p => { p with powered := false, vinMv := mv }) (holdUp (min written v.mgt.queue.length) v))) n
          = forgotten (if (portOf s n).state = .disabled then .disabled else .reset) (some (portOf s n).cause) p := by
        rw [hh]
        exact hport
      rw [hkept]
      exact ⟨rfl, rfl, rfl, rfl, rfl, rfl⟩
    · obtain ⟨h1, h2, h3⟩ := hledger hfree
      exact ⟨h1, h2, fun hq hw => ⟨(takeFree s).1, h3 hq hw⟩⟩
  · have he : inputShutdown above mv written s = s := if_pos (by rw [Bool.eq_false_iff.mpr (mt (vinShuts_iff above mv).mp hb)]; rfl)
    show live s (inputShutdown above mv written s) = _
    rw [live_next hp, he]
    rfl

end Sys2Proof.Machine
end

section
/-! SUPPORT. Roll call on the tray chain (R29-R32, R484-R486). -/

namespace Sys2Proof.Machine

open Sys2Proof

theorem FaultOnly.parts {s t : State} (h : FaultOnly s t) : ∃ g ty q l w c,
    t = { s with glb := g, tly := ty, mgt := { s.mgt with queue := q, lost := l, lostWaiting := w }, freeCount := c } := ⟨_, _, _, _, _, _, h⟩

/-- The module after a ROLL is passed on. -/
theorem rollSend_eq (addr rack : Nat) (s : State) :
    rollSend addr rack s = modMgt (fun m => { m with rollOut := m.rollOut ++ [(rollMsg addr rack, crc32c (bvBytes (rollMsg addr rack)))] }) s := rfl

/-- A ROLL message that a module takes: it is compared or adopted, and passed on. -/
theorem roll_taken {s : State} {msg : BitVec 128} {crc : W32} (h3 : 3 ≤ s.glb.step.toNat) (hc : crc = crc32c (bvBytes msg)) (hk : bitsOf msg 0 8 = (1 : Byte))
    (ha : (bitsOf msg 16 11 : BitVec 11).toNat < 0x7FE) :
    roll msg crc s = rollSend ((bitsOf msg 16 11 : BitVec 11).toNat + 1) (bitsOf msg 32 16 : BitVec 16).toNat
      (if s.mgt.head || s.mgt.rackSeen.isSome
        then rollCompare (bitsOf msg 16 11 : BitVec 11).toNat (bitsOf msg 32 16 : BitVec 16).toNat (modMgt (fun m => { m with inSig := true }) s)
        else rollAdopt (bitsOf msg 16 11 : BitVec 11).toNat (bitsOf msg 32 16 : BitVec 16).toNat (modMgt (fun m => { m with inSig := true }) s)) := by
  have hstep : ¬ s.glb.step < 3 := Nat.not_lt.mpr h3
  have hgood : ¬ (crc ≠ crc32c (bvBytes msg) ∨ bitsOf msg 0 8 ≠ (1 : Byte)) := not_or.mpr ⟨not_not.mpr hc, not_not.mpr hk⟩
  unfold roll
  rw [if_neg hstep, if_neg hgood, if_pos ha]
  rfl

/-- The address that a module adopts, before its FNID is evaluated. -/
def adopting (addr rack : Nat) (s : State) : State :=
  modMgt (fun m => { m with rackSeen := some (BitVec.ofNat 16 rack), adopted := true, addr := BitVec.ofNat 11 (addr + 1) }) (reachStep 6 s)

theorem rollAdopt_adopts {addr : Nat} (h : addr < 0x7FE) (rack : Nat) (s : State) :
    ∃ v, FaultOnly (adopting addr rack s) v ∧ v.glb = (adopting addr rack s).glb ∧ rollAdopt addr rack s = evalFnid v := by
  unfold rollAdopt
  dsimp only
  rw [if_pos h]
  split
  · exact ⟨_, ledgerDevice_only .., ledgerDevice_glb .., rfl⟩
  · exact ⟨_, FaultOnly.refl _, rfl, rfl⟩

/-- STEP does not fall as the FNID is evaluated. -/
theorem evalFnid_step (s : State) : (evalFnid s).glb.step = s.glb.step := by
  unfold evalFnid
  dsimp only
  split
  · rfl
  · split <;> rfl
  · rfl

/-- A later ROLL. -/
theorem rollCompare_same {addr rack : Nat} {s : State} (h : addr + 1 = s.mgt.addr.toNat) : rollCompare addr rack s = s := if_pos h

theorem rollCompare_differs {addr rack : Nat} {s : State} (h : addr + 1 ≠ s.mgt.addr.toNat) :
    FaultOnly (modMgt (fun m => { m with mismatch := satAdd m.mismatch 1 }) s) (rollCompare addr rack s)
      ∧ (s.glb.faults.length < 1024 → Recorded (rollCompare addr rack s) 0xC4 sevWarn 0) := by
  have hent := ledgerDevice_only 8 0 (detailOf [(0, 1, 1), (2, 2, addr), (4, 2, s.mgt.addr.toNat), (6, 2, rack)
    , (8, 2, (bitsOf s.mgt.nv.rackId 0 16).toNat)]) (modMgt (fun m => { m with mismatch := satAdd m.mismatch 1 }) s)
  have he : rollCompare addr rack s = devFault0 0xC4 sevWarn 0 0 (chainEntry 1 addr rack (modMgt (fun m => { m with mismatch := satAdd m.mismatch 1 }) s)) := if_neg h
  rw [he]
  exact ⟨hent.trans (devFault0_only ..), fun hl => devFault0_recorded 0xC4 sevWarn 0 0 _ (by unfold chainEntry; rw [ledgerDevice_glb]; exact hl)⟩

/-- Without an address and without a pin, a module past step 6 has ERR_CAUSE 6. -/
theorem fnidCause_uncalled {s : State} (ha : s.mgt.adopted = false) (hp : bitAt s.mgt.nv.fnidPin 31 = false) (hr : s.mgt.rackSeen = none)
    (h6 : 6 ≤ s.glb.step.toNat) : fnidCause s = some 6 := by
  unfold fnidCause
  dsimp only
  rw [ha, hp, hr]
  dsimp only
  rw [if_neg (by decide), if_neg (by decide), if_pos (by decide), if_pos h6]

theorem evalFnid_uncalled {s : State} (h : fnidCause s = some 6) :
    evalFnid s = modGlb (fun g => { g with fnidValid := false, fnidPinned := false, fnidErr := true, errCause := 6, fnid := 0xFFF }) s := by
  unfold evalFnid
  rw [h]
  rfl

/-- Settles O15: the first ROLL and a later one, the timeouts, and the head's ROLL. -/
theorem rollCallGivesAddresses : Obligations.RollCallGivesAddresses := by
  refine ⟨fun s msg crc hp h3 hc hk ha => ?_, fun s hp h3 => ⟨fun hsig hhead => ?_, fun hadopt hpin hrack => ?_⟩, fun s hp hhead => ?_⟩
  · have htaken := roll_taken h3 hc hk ha
    refine ⟨fun hhead hrack => ?_, fun hlater => ?_⟩
    · rw [hhead, hrack] at htaken
      obtain ⟨v, honly, hglb, he⟩ := rollAdopt_adopts ha (bitsOf msg 32 16 : BitVec 16).toNat (modMgt (fun m => { m with inSig := true }) s)
      replace htaken := htaken.trans (congrArg (rollSend _ _) ((if_neg (by decide)).trans he))
      obtain ⟨g, ty, q, l, w, c, hv⟩ := honly.parts
      have hframe := evalFnid_frame v
      have hrackNat : BitVec.ofNat 16 (bitsOf msg 32 16 : BitVec 16).toNat = bitsOf msg 32 16 := BitVec.ofNat_toNat ..
      have h6 : 6 ≤ (evalFnid v).glb.step.toNat := by
        rw [evalFnid_step, hglb]
        exact reachStep_le 6 _
      refine ⟨_, live_next hp, ?_⟩
      rw [htaken, rollSend_eq]
      generalize hE : (evalFnid v).glb = E at hframe h6
      rw [hframe, hv]
      refine ⟨rfl, rfl, rfl, congrArg some hrackNat, ?_, h6, rfl, rfl, rfl⟩
      exact evalFnid_fixed (y := v) hE.symm (by rw [hv]; rfl) (by rw [hv]; rfl) (by rw [hv]; rfl) (by rw [hv]; rfl)
    · have hcmp : (s.mgt.head || s.mgt.rackSeen.isSome) = true := by
        rw [Bool.or_eq_true, Option.isSome_iff_ne_none]
        exact hlater
      replace htaken := htaken.trans (congrArg (rollSend _ _) (if_pos hcmp))
      refine ⟨_, live_next hp, ?_⟩
      rw [htaken, rollSend_eq]
      by_cases hsame : (bitsOf msg 16 11 : BitVec 11).toNat + 1 = s.mgt.addr.toNat
      · rw [rollCompare_same (s := modMgt (fun m => { m with inSig := true }) s) hsame]
        exact ⟨rfl, rfl, fun _ => rfl, fun h => absurd hsame h⟩
      · obtain ⟨honly, hrec⟩ := rollCompare_differs (rack := (bitsOf msg 32 16 : BitVec 16).toNat) (s := modMgt (fun m => { m with inSig := true }) s) hsame
        obtain ⟨g, ty, q, l, w, c, hv⟩ := honly.parts
        generalize rollCompare _ _ _ = v at hv hrec ⊢
        refine ⟨by rw [hv]; rfl, by rw [hv]; rfl, fun h => absurd h hsame, fun _ => ⟨by rw [hv]; rfl, hrec⟩⟩
  · have hstep : ¬ (s.glb.step < 3 ∨ s.mgt.inSig = true ∨ s.mgt.head = true) := by
      rw [hsig, hhead]
      exact not_or.mpr ⟨Nat.not_lt.mpr h3, by decide⟩
    have he : chainHeadTimeout s = evalFnid (reachStep 6 (modMgt (fun m => { m with head := true, adopted := true, addr := 0 }) s)) := if_neg hstep
    have h6 : 6 ≤ (evalFnid (reachStep 6 (modMgt (fun m => { m with head := true, adopted := true, addr := 0 }) s))).glb.step.toNat := by
      rw [evalFnid_step]
      exact reachStep_le 6 _
    have hframe := evalFnid_frame (reachStep 6 (modMgt (fun m => { m with head := true, adopted := true, addr := 0 }) s))
    refine ⟨_, live_next hp, ?_⟩
    rw [he]
    generalize hE : (evalFnid (reachStep 6 (modMgt (fun m => { m with head := true, adopted := true, addr := 0 }) s))).glb = E at hframe h6
    rw [hframe]
    exact ⟨rfl, rfl, rfl, evalFnid_fixed (y := reachStep 6 (modMgt (fun m => { m with head := true, adopted := true, addr := 0 }) s)) hE.symm rfl rfl rfl rfl,
      h6, rfl, rfl⟩
  · have hstep : ¬ (s.glb.step < 3 ∨ s.mgt.adopted = true ∨ bitAt s.mgt.nv.fnidPin 31 = true) := by
      rw [hadopt, hpin]
      exact not_or.mpr ⟨Nat.not_lt.mpr h3, by decide⟩
    have he : rollCallTimeout s = evalFnid (reachStep 6 s) := if_neg hstep
    have hcause := fnidCause_uncalled (s := reachStep 6 s) hadopt hpin hrack (reachStep_le 6 s)
    refine ⟨_, live_next hp, ?_⟩
    rw [he, evalFnid_uncalled hcause]
    exact ⟨rfl, rfl, rfl, rfl⟩
  · show live s (if s.mgt.head then _ else s) = _
    rw [hhead, live_next hp]
    rfl

end Sys2Proof.Machine
end

section
/-! SUPPORT. Sleep and wakes of groups and the node (R415-R420). -/

namespace Sys2Proof.Machine

open Sys2Proof

/-- A table with every entry changed, by a change that leaves the default. -/
theorem tabGet_map {α : Type} {d : α} {f : α → α} (h : f d = d) (t : Tab α) (k : Nat) : tabGet d (t.map fun e => (e.1, f e.2)) k = f (tabGet d t k) := by
  induction t with
  | nil => exact h.symm
  | cons e t ih =>
    obtain ⟨i, v⟩ := e
    show (if k = i then f v else tabGet d (t.map fun e => (e.1, f e.2)) k) = f (if k = i then v else tabGet d t k)
    split
    · rfl
    · exact ih

/-- A stack that leaves self-refresh. -/
def stackUp (x : Stack) : Stack := if x.state = .selfRefresh then { x with state := .active } else x

theorem stackOfN_nodeUp (s : State) (k : Nat) : stackOfN (nodeUp s) k = stackUp (stackOfN s k) := tabGet_map (f := stackUp) rfl s.mem.stackOf k

/-- The node wakes out of P3 or below. -/
theorem wakeNode_up {s : State} (ht : s.pwr.tripped = false) (h : 3 ≤ s.pwr.node.toNat) : TickOnly (nodeUp s) (wakeNode s) := by
  by_cases h4 : s.pwr.node = 4
  · exact wakeNode_four_only ht h4
  · have he : wakeNode s = nodeUp s := by
      unfold wakeNode
      rw [if_neg (by rw [ht, not_or]; exact ⟨Nat.not_lt.mpr h, by decide⟩)]
      exact if_neg h4
    rw [he]
    exact TickOnly.refl _

theorem wakeNode_pwr {s : State} (ht : s.pwr.tripped = false) (h : 3 ≤ s.pwr.node.toNat) : (wakeNode s).pwr = { s.pwr with node := 0 } :=
  (wakeNode_up ht h).fields.2.1

/-! ## SYNC_LOSS and MASTER_FORCE -/

theorem bitAt_setRepro {i : Nat} (hi : i < 8) (s : State) : bitAt (setRepro i s).tick.repro i = true := by
  show (s.tick.repro ||| BitVec.ofNat 8 (2 ^ i)).getLsbD i = true
  have hbit : ∀ j : Fin 8, (BitVec.ofNat 8 (2 ^ j.val)).getLsbD j.val = true := by decide
  rw [BitVec.getLsbD_or, hbit ⟨i, hi⟩, Bool.or_true]

theorem enterSync_master_repro (promoted : Bool) (s : State) : (enterSync .master promoted s).tick.repro = s.tick.repro := by
  have hstart : (if (s.tick.state = .locked ∨ s.tick.state = .master) ∧ (SyncState.master = .holdover ∨ SyncState.master = .acquire) then setRepro 5 s else s) = s :=
    if_neg (by rintro ⟨-, h | h⟩ <;> cases h)
  unfold enterSync
  dsimp only
  rw [hstart]
  cases promoted with
  | false => rfl
  | true =>
    rw [if_pos rfl, devFault0_only]
    rfl

theorem applyForce_repro (s : State) : (applyForce s).tick.repro = s.tick.repro := by
  unfold applyForce
  dsimp only
  split
  · split
    · rfl
    · exact enterSync_master_repro false s
  · split <;> rfl

/-- The tick unit enters ACQUIRE. -/
theorem enterSync_acquire (s : State) : let t := enterSync .acquire false s
    t.tick.state = .acquire ∧ t.tick.upstream = 0xFF ∧ t.tick.stratum = 31 ∧ t.mgt.nv = s.mgt.nv := by
  have hstart : (if (s.tick.state = .locked ∨ s.tick.state = .master) ∧ (SyncState.acquire = .holdover ∨ SyncState.acquire = .acquire)
      then setRepro 5 s else s).mgt = s.mgt := by
    split <;> rfl
  unfold enterSync
  dsimp only
  generalize (if (s.tick.state = .locked ∨ s.tick.state = .master) ∧ (SyncState.acquire = .holdover ∨ SyncState.acquire = .acquire)
      then setRepro 5 s else s) = u at hstart ⊢
  refine ⟨by rw [devFault0_only]; rfl, by rw [devFault0_only]; rfl, by rw [devFault0_only]; rfl, ?_⟩
  rw [devFault0_only, ← hstart]
  rfl

/-- The node wakes out of P4. -/
theorem wakeNode_parked {s : State} (ht : s.pwr.tripped = false) (h : s.pwr.node = 4) : let t := wakeNode s
    bitAt t.tick.repro 5 = true ∧ (masterForce s = false → t.tick.state = .acquire ∧ t.tick.upstream = 0xFF ∧ t.tick.stratum = 31) := by
  obtain ⟨h1, h2, h3, h4⟩ := enterSync_acquire (nodeUp s)
  rw [wakeNode_four ht h]
  dsimp only at *
  generalize enterSync .acquire false (nodeUp s) = u at *
  refine ⟨?_, fun hforce => ?_⟩
  · rw [applyForce_repro]
    exact bitAt_setRepro (by decide) u
  · have hunforced : masterForce u = false := by
      unfold masterForce
      rw [h4]
      exact hforce
    rw [applyForce_unforced (s := setRepro 5 u) hunforced (by rw [show (setRepro 5 u).tick.state = u.tick.state from rfl, h1]; decide)]
    exact ⟨h1, h2, h3⟩

/-! ## Entries and wakes -/

theorem groupP2Entry_idle {g cyc : Nat} {s : State} (ht : exitP2 ≤ nodeTolerance s) (hm : groupMayGate s g cyc = true) :
    groupP2Entry g cyc s = modPwr (fun p => { p with gated := p.gated ||| BitVec.ofNat 12 (2 ^ g) }) s := if_pos ⟨ht, hm⟩

theorem nodeP3Entry_idle {s : State} (h0 : s.pwr.node = 0) (ht : exitP3 ≤ nodeTolerance s) (hm : nodeMaySleep s = true) :
    nodeP3Entry s = stacksAsleep (modPwr (fun p => { p with node := 3 }) s) := if_pos ⟨h0, ht, hm⟩

theorem nodeP4Entry_idle {s : State} (h3 : s.pwr.node = 3) (ht : exitP4 ≤ nodeTolerance s) (hedge : ∀ n, n < 64 → persOf s n = 1 → portPower s n = 3)
    (htrunk : ∀ n, n < 64 → persOf s n = 2 → (portOf s n).state ≠ .traffic) : nodeP4Entry s = modPwr (fun p => { p with node := 4 }) s := by
  refine if_pos ⟨h3, ht, List.all_eq_true.mpr fun n hn => ?_⟩
  have hn := List.mem_range.mp hn
  unfold isEdge isTrunk
  rw [decide_eq_true hn, Bool.true_and, Bool.true_and, Bool.and_eq_true]
  constructor
  · by_cases hp : persOf s n = 1
    · rw [decide_eq_true (hedge n hn hp), Bool.or_true]
    · rw [decide_eq_false hp]
      rfl
  · by_cases hp : persOf s n = 2
    · rw [decide_eq_false (htrunk n hn hp), Bool.and_false]
      rfl
    · rw [decide_eq_false hp]
      rfl

theorem wakeGroup_awake {s : State} (g : Nat) (ht : s.pwr.tripped = false) (h0 : s.pwr.node = 0) :
    wakeGroup g s = modPwr (fun p => { p with gated := p.gated &&& ~~~(BitVec.ofNat 12 (2 ^ g)) }) s := by
  unfold wakeGroup
  rw [if_neg (by rw [ht]; decide), wakeNode_awake (by rw [h0]; decide)]

/-- The first half of O21: entries and wakes. -/
theorem sleepAndWakes {s : State} (hp : s.pwr.powered = true) :
    (∀ g cyc : Nat, g < 12 → exitP2 ≤ nodeTolerance s → groupMayGate s g cyc = true → exec (.groupP2Entry g cyc) s
      = .next (modPwr (fun p => { p with gated := p.gated ||| BitVec.ofNat 12 (2 ^ g) }) s))
    ∧ (s.pwr.node = 0 → exitP3 ≤ nodeTolerance s → nodeMaySleep s = true → ∃ t, exec .nodeP3Entry s = .next t
      ∧ (∀ k, k < 24 → (stackOfN t k).state = .selfRefresh) ∧ (∀ c ∈ s.mem.channels.map (·.1), (chanOf t c).comb = [])
      ∧ t = { s with pwr := { s.pwr with node := 3 }, mem := t.mem }) := by
  refine ⟨fun g cyc hg ht hm => ?_, fun h0 ht hm => ?_⟩
  · show liveIf (decide (g < 12)) "array group" s (groupP2Entry g cyc s) = _
    rw [groupP2Entry_idle ht hm]
    exact port_next hp (decide_eq_true hg) rfl
  · obtain ⟨hstate, hcomb, hframe⟩ := stacksAsleep_all (modPwr (fun p => { p with node := 3 }) s)
    rw [← nodeP3Entry_idle h0 ht hm] at hstate hcomb hframe
    refine ⟨nodeP3Entry s, ?_, hstate, fun c _ => hcomb c, hframe⟩
    show live s (nodeP3Entry s) = _
    rw [live_next hp, hframe]
    rfl

end Sys2Proof.Machine
end

section
/-! SUPPORT. Latency tolerances (R416, R419). -/

namespace Sys2Proof.Machine

open Sys2Proof

/-- A port that takes a power state shows it. -/
theorem portPower_setPortPower (n : Nat) (p : BitVec 2) (s : State) : portPower (setPortPower n p s) n = p.toNat := by
  have hstate : tabGet 0 (setPortPower n p s).pwr.portState n = p := tabGet_set_same 0 p _ n
  have hrest : tabGet (0, 0) (setPortPower n p s).pwr.portRest n = portSent (setPortPower n p s) n := tabGet_set_same (0, 0) (portSent s n) _ n
  unfold portPower
  rw [hstate, hrest]
  exact if_neg fun h => h.2 rfl

theorem portPower_setPortPower_other {n m : Nat} (h : m ≠ n) (p : BitVec 2) (s : State) : portPower (setPortPower n p s) m = portPower s m := by
  have hstate : tabGet 0 (setPortPower n p s).pwr.portState m = tabGet 0 s.pwr.portState m := tabGet_set_other 0 p _ h
  have hrest : tabGet (0, 0) (setPortPower n p s).pwr.portRest m = tabGet (0, 0) s.pwr.portRest m := tabGet_set_other (0, 0) (portSent s n) _ h
  unfold portPower
  rw [hstate, hrest]
  rfl

/-- A port that no longer waits for quiet keeps its power state. -/
theorem portPower_unquieting (n m : Nat) (s : State) : portPower (modPort n (fun p => { p with quieting := false }) s) m = portPower s m := by
  have hline : (portOf (modPort n (fun p => { p with quieting := false }) s) m).line = (portOf s m).line := by
    by_cases h : m = n
    · rw [h, portOf_modPort]
    · rw [portOf_modPort_other _ s h]
  unfold portPower portSent
  rw [hline]
  rfl

/-- A port takes a tolerance. -/
def ltrPortSet (n : Nat) (v : W32) (s : State) : State := modPwr (fun p => { p with ltrPort := tabSet 0 p.ltrPort n (bitsOf v 0 24) }) s

theorem portTolerance_set (n : Nat) (v : W32) (s : State) : portTolerance (ltrPortSet n v s) n = (bitsOf v 0 24 : BitVec 24).toNat :=
  congrArg BitVec.toNat (tabGet_set_same 0 (bitsOf v 0 24 : BitVec 24) s.pwr.ltrPort n)

theorem portTolerance_set_other {n m : Nat} (h : m ≠ n) (v : W32) (s : State) : portTolerance (ltrPortSet n v s) m = portTolerance s m :=
  congrArg BitVec.toNat (tabGet_set_other 0 (bitsOf v 0 24 : BitVec 24) s.pwr.ltrPort h)

theorem portPower_ltrPortSet (n m : Nat) (v : W32) (s : State) : portPower (ltrPortSet n v s) m = portPower s m := rfl

/-- A port that stays in its state, or leaves P1 for P0. -/
def ltrStays (n : Nat) (v : W32) (s : State) : State :=
  let t : BitVec 24 := bitsOf v 0 24
  let u := if t.toNat < exitP3 then modPort n (fun p => { p with quieting := false }) { s with freeCount := s.freeCount + 1 } else { s with freeCount := s.freeCount + 1 }
  ltrPortSet n v (if portPower u n = 1 ∧ t.toNat < exitP1 then setPortPower n 0 u else u)

theorem ltrPortWrite_stays {n : Nat} {v : W32} {s : State} (h : portPower s n ≠ 3 ∨ exitP3 ≤ (bitsOf v 0 24 : BitVec 24).toNat) :
    (ltrPortWrite n v s).state = ltrStays n v s := by
  have hleaves : (decide (portPower s n = 3) && decide ((bitsOf v 0 24 : BitVec 24).toNat < exitP3)) = false := by
    rcases h with h | h
    · rw [decide_eq_false h, Bool.false_and]
    · rw [decide_eq_false (Nat.not_lt.mpr h), Bool.and_false]
  unfold ltrPortWrite
  dsimp only
  rw [hleaves]
  rfl

theorem restIf_ne (c : Prop) [Decidable c] : (if c then 1 else 0 : BitVec 2) ≠ 3 := by
  split <;> decide

theorem restIf_one {c : Prop} [Decidable c] (h : (if c then 1 else 0 : BitVec 2) = 1) : c := by
  by_contra hc
  rw [if_neg hc] at h
  exact absurd h (by decide)

/-- A port in P3 that may not stay there takes P0, or P1 where that is shallow enough. -/
theorem ltrPortWrite_leaves {n : Nat} {v : W32} {s : State} (h3 : portPower s n = 3) (ht : (bitsOf v 0 24 : BitVec 24).toNat < exitP3) :
    ∃ (p : BitVec 2) (u : State), p ≠ 3 ∧ (p = 1 → exitP1 ≤ (bitsOf v 0 24 : BitVec 24).toNat)
      ∧ (ltrPortWrite n v s).state = ltrPortSet n v (setPortPower n p u) := by
  have hleaves : (decide (portPower s n = 3) && decide ((bitsOf v 0 24 : BitVec 24).toNat < exitP3)) = true := by
    rw [decide_eq_true h3, decide_eq_true ht]
    rfl
  unfold ltrPortWrite
  dsimp only
  rw [hleaves, if_pos rfl]
  exact ⟨_, _, restIf_ne _, fun hp => (restIf_one hp).1, rfl⟩

/-- What a tolerance leaves: the port is in no state that is too deep, and where it need not leave P3 all but its own state stays. -/
theorem ltrPortWrite_all (n : Nat) (v : W32) (s : State) :
    let t := (bitsOf v 0 24 : BitVec 24).toNat
    let u := (ltrPortWrite n v s).state
    portTolerance u n = t ∧ (portPower u n = 3 → exitP3 ≤ t) ∧ (portPower u n = 1 → exitP1 ≤ t)
      ∧ ((portPower s n ≠ 3 ∨ exitP3 ≤ t) → (∀ m, m ≠ n → portTolerance u m = portTolerance s m ∧ portPower u m = portPower s m)
        ∧ u = { s with pwr := u.pwr, lanes := u.lanes, freeCount := u.freeCount }) := by
  intro t u
  by_cases hstay : portPower s n ≠ 3 ∨ exitP3 ≤ t
  · have he : u = ltrStays n v s := ltrPortWrite_stays hstay
    have hquiet : ∃ w, (if t < exitP3 then modPort n (fun p => { p with quieting := false }) { s with freeCount := s.freeCount + 1 } else { s with freeCount := s.freeCount + 1 }) = w
        ∧ (∀ m, portPower w m = portPower s m) ∧ w.pwr = s.pwr ∧ w = { s with lanes := w.lanes, freeCount := w.freeCount } := by
      refine ⟨_, rfl, ?_⟩
      split
      · exact ⟨fun m => portPower_unquieting n m _, rfl, rfl⟩
      · exact ⟨fun m => rfl, rfl, rfl⟩
    obtain ⟨w, hw, hpower, hpwr, hframe⟩ := hquiet
    have hu : u = ltrPortSet n v (if portPower w n = 1 ∧ t < exitP1 then setPortPower n 0 w else w) := by
      rw [he, ← hw]
      rfl
    rw [hu]
    refine ⟨portTolerance_set .., fun h3 => ?_, fun h1 => ?_, fun _ => ⟨fun m hm => ⟨(portTolerance_set_other hm ..).trans ?_, ?_⟩, ?_⟩⟩
    · rw [portPower_ltrPortSet] at h3
      split at h3
      · rw [portPower_setPortPower] at h3
        cases h3
      · rw [hpower] at h3
        exact hstay.resolve_left (not_not.mpr h3)
    · rw [portPower_ltrPortSet] at h1
      split at h1
      · rw [portPower_setPortPower] at h1
        cases h1
      · next hnot => exact Nat.not_lt.mp fun hlow => hnot ⟨h1, hlow⟩
    · unfold portTolerance
      split
      · rw [← hpwr]
        rfl
      · rw [hpwr]
    · rw [portPower_ltrPortSet]
      split
      · rw [portPower_setPortPower_other hm, hpower]
      · exact hpower m
    · rw [hframe]
      split <;> rfl
  · rw [not_or, not_not, Nat.not_le] at hstay
    obtain ⟨p, w, h3, h1, he⟩ := ltrPortWrite_leaves (v := v) hstay.1 hstay.2
    have hu : u = ltrPortSet n v (setPortPower n p w) := he
    rw [hu]
    refine ⟨portTolerance_set .., fun h => ?_, fun h => h1 ?_, fun h => absurd hstay (by rw [not_and_or, not_lt]; exact h)⟩
    · rw [portPower_ltrPortSet, portPower_setPortPower] at h
      exact absurd (BitVec.eq_of_toNat_eq h) h3
    · rw [portPower_ltrPortSet, portPower_setPortPower] at h
      exact BitVec.eq_of_toNat_eq h

/-! ## The node's tolerance -/

/-- `t` is `s` but for the node's power state, its groups', its stacks, the tick unit and records. -/
def NodeOnly (s t : State) : Prop := FaultOnly { s with pwr := t.pwr, mem := t.mem, tick := t.tick } t

theorem NodeOnly.refl (s : State) : NodeOnly s s := FaultOnly.refl s

theorem NodeOnly.trans {s t u : State} (h : NodeOnly s t) (k : NodeOnly t u) : NodeOnly s u := by
  unfold NodeOnly FaultOnly at *
  rw [k, h]

theorem wakeNode_nodeOnly {s : State} (ht : s.pwr.tripped = false) (h : 3 ≤ s.pwr.node.toNat) : NodeOnly s (wakeNode s) := by
  have hwake := wakeNode_up ht h
  unfold NodeOnly
  unfold TickOnly FaultOnly nodeUp at *
  rw [hwake]
  rfl

theorem stacksAsleep_nodeOnly (s : State) : NodeOnly s (stacksAsleep s) := by
  obtain ⟨-, -, hframe⟩ := stacksAsleep_all s
  unfold NodeOnly FaultOnly
  generalize stacksAsleep s = t at hframe ⊢
  rw [hframe]

theorem stacksAsleep_pwr (s : State) : (stacksAsleep s).pwr = s.pwr := by
  obtain ⟨-, -, hframe⟩ := stacksAsleep_all s
  generalize stacksAsleep s = t at hframe ⊢
  rw [hframe]

/-- The node out of a state that its tolerance `t` does not allow. -/
def ltrNodeMoves (t : Nat) (s : State) : State :=
  if s.pwr.node.toNat = 4 ∧ t < exitP4 then
    (if exitP3 ≤ t then stacksAsleep (modPwr (fun p => { p with node := 3 }) (wakeNode s)) else wakeNode s)
  else if s.pwr.node.toNat = 3 ∧ t < exitP3 then wakeNode s
  else s

theorem ltrNodeMoves_all {s : State} (t : Nat) (ht : s.pwr.tripped = false) : let u := ltrNodeMoves t s
    NodeOnly s u ∧ u.pwr = { s.pwr with node := u.pwr.node } ∧ (u.pwr.node = 4 → exitP4 ≤ t) ∧ (u.pwr.node = 3 → exitP3 ≤ t) := by
  unfold ltrNodeMoves
  by_cases h4 : s.pwr.node.toNat = 4 ∧ t < exitP4
  · have hup : 3 ≤ s.pwr.node.toNat := by rw [h4.1]; decide
    rw [if_pos h4]
    by_cases h3 : exitP3 ≤ t
    · have hpwr : (stacksAsleep (modPwr (fun p => { p with node := 3 }) (wakeNode s))).pwr = { s.pwr with node := 3 } := by
        rw [stacksAsleep_pwr, modPwr_pwr, wakeNode_pwr ht hup]
      have honly : NodeOnly (wakeNode s) (modPwr (fun p => { p with node := 3 }) (wakeNode s)) := FaultOnly.refl _
      rw [if_pos h3]
      refine ⟨((wakeNode_nodeOnly ht hup).trans honly).trans (stacksAsleep_nodeOnly _), by rw [hpwr], fun h => ?_, fun _ => h3⟩
      rw [hpwr] at h
      cases h
    · rw [if_neg h3]
      refine ⟨wakeNode_nodeOnly ht hup, by rw [wakeNode_pwr ht hup], fun h => ?_, fun h => ?_⟩ <;>
        · rw [wakeNode_pwr ht hup] at h
          cases h
  · rw [if_neg h4]
    by_cases h3 : s.pwr.node.toNat = 3 ∧ t < exitP3
    · have hup : 3 ≤ s.pwr.node.toNat := by rw [h3.1]
      rw [if_pos h3]
      refine ⟨wakeNode_nodeOnly ht hup, by rw [wakeNode_pwr ht hup], fun h => ?_, fun h => ?_⟩ <;>
        · rw [wakeNode_pwr ht hup] at h
          cases h
    · rw [if_neg h3]
      refine ⟨NodeOnly.refl s, rfl, fun h => Nat.not_lt.mp fun hlow => h4 ⟨?_, hlow⟩, fun h => Nat.not_lt.mp fun hlow => h3 ⟨?_, hlow⟩⟩
      · rw [h]
        rfl
      · rw [h]
        rfl

/-- The node takes a tolerance. -/
def ltrNodeSet (v : W32) (s : State) : State := modPwr (fun p => { p with ltrNode := bitsOf v 0 24 }) s

theorem ltrNodeWrite_tripped {v : W32} {s : State} (ht : s.pwr.tripped = true) : (ltrNodeWrite v s).state = ltrNodeSet v s := by
  unfold ltrNodeWrite
  dsimp only
  rw [if_pos (show (modPwr (fun p => { p with ltrNode := bitsOf v 0 24 }) s).pwr.tripped = true from ht)]
  rfl

theorem ltrNodeWrite_moves {v : W32} {s : State} (ht : s.pwr.tripped = false) : (ltrNodeWrite v s).state =
    if (bitsOf v 0 24 : BitVec 24).toNat < exitP2 then modPwr (fun p => { p with gated := 0 }) (ltrNodeMoves (bitsOf v 0 24 : BitVec 24).toNat (ltrNodeSet v s))
    else ltrNodeMoves (bitsOf v 0 24 : BitVec 24).toNat (ltrNodeSet v s) := by
  unfold ltrNodeWrite
  dsimp only
  rw [if_neg (by rw [show (modPwr (fun p => { p with ltrNode := bitsOf v 0 24 }) s).pwr.tripped = false from ht]; decide)]
  rfl

theorem ltrNodeWrite_all (v : W32) (s : State) : let u := (ltrNodeWrite v s).state
    u.pwr.ltrNode = bitsOf v 0 24 ∧ NodeOnly s u
      ∧ (s.pwr.tripped = false → (u.pwr.node = 4 → exitP4 ≤ nodeTolerance u) ∧ (u.pwr.node = 3 → exitP3 ≤ nodeTolerance u) ∧ (u.pwr.gated ≠ 0 → exitP2 ≤ nodeTolerance u)) := by
  have hset : NodeOnly s (ltrNodeSet v s) := FaultOnly.refl _
  cases ht : s.pwr.tripped with
  | true =>
    rw [ltrNodeWrite_tripped ht]
    exact ⟨rfl, hset, fun h => by cases h⟩
  | false =>
    obtain ⟨honly, hpwr, h4, h3⟩ := ltrNodeMoves_all (s := ltrNodeSet v s) (bitsOf v 0 24 : BitVec 24).toNat ht
    rw [ltrNodeWrite_moves ht]
    dsimp only at *
    generalize ltrNodeMoves (bitsOf v 0 24 : BitVec 24).toNat (ltrNodeSet v s) = w at *
    have htol : nodeTolerance w = (bitsOf v 0 24 : BitVec 24).toNat := by
      unfold nodeTolerance
      rw [hpwr]
      rfl
    have hgate : NodeOnly w (modPwr (fun p => { p with gated := 0 }) w) := FaultOnly.refl _
    have hltr : w.pwr.ltrNode = bitsOf v 0 24 := by
      rw [hpwr]
      rfl
    by_cases hlow : (bitsOf v 0 24 : BitVec 24).toNat < exitP2
    · rw [if_pos hlow]
      refine ⟨hltr, (hset.trans honly).trans hgate, fun _ => ⟨fun h => ?_, fun h => ?_, fun h => absurd rfl h⟩⟩
      · exact (h4 h).trans htol.ge
      · exact (h3 h).trans htol.ge
    · rw [if_neg hlow]
      exact ⟨hltr, hset.trans honly, fun _ => ⟨fun h => (h4 h).trans htol.ge, fun h => (h3 h).trans htol.ge, fun _ => (Nat.not_lt.mp hlow).trans htol.ge⟩⟩

/-- Settles O21: entries and wakes by the model's own step, and each tolerance by what it leaves of its part. -/
theorem sleepStatesAndTolerances : Obligations.SleepStatesAndTolerances := by
  refine ⟨fun s hp => ?_, fun s i n x v hs ho hn => ⟨fun hr => ?_, fun hr p hpt => ?_, fun hr => ?_⟩⟩
  · obtain ⟨hgroup, hsleep⟩ := sleepAndWakes hp
    refine ⟨hgroup, hsleep, fun h3 ht hedge htrunk => ?_, fun ht h3 => ?_, fun ht h4 => ?_, fun g hg ht h0 => ?_, fun e x he hk ht h0 => ?_,
      fun c h4 hc hwf => exec_parked h4 hc hwf⟩
    · show live s (nodeP4Entry s) = _
      rw [live_next hp, nodeP4Entry_idle h3 ht hedge htrunk]
      rfl
    · refine ⟨nodeUp s, ?_, rfl, fun k hk => ?_, rfl, rfl⟩
      · show live s (wakeNode s) = _
        rw [live_next hp, wakeNode_three ht h3]
        rfl
      · rw [stackOfN_nodeUp, stackUp, if_pos hk]
    · obtain ⟨hbit, hacquire⟩ := wakeNode_parked ht h4
      have hpwr := wakeNode_pwr ht (by rw [h4]; decide)
      refine ⟨_, live_next hp, ?_⟩
      generalize wakeNode s = t at *
      exact ⟨hpwr, hbit, hacquire⟩
    · show liveIf (decide (g < 12)) "array group" s (wakeGroup g s) = _
      rw [wakeGroup_awake g ht h0]
      exact port_next hp (decide_eq_true hg) rfl
    · have hwake : groupPrewake e s = wakeGroup (entArray x / 72) s := by
        unfold groupPrewake
        rw [he]
        exact if_pos hk
      show live s (groupPrewake e s) = _
      rw [live_next hp, hwake, wakeGroup_awake _ ht h0]
      rfl
  · obtain ⟨t, w, hex, hframe, hmgt, -⟩ := write_state (v := v) hs ho (regOf_ltrPort hn) (may_operator hr rfl)
    obtain ⟨htol, h3, h1, hstay⟩ := ltrPortWrite_all n v (countIn i s)
    change t = { keepFixed s (ltrPortWrite n v (countIn i s)).state with mgt := t.mgt, freeCount := t.freeCount } at hframe
    change t.mgt = { (ltrPortWrite n v (countIn i s)).state.mgt with
        sessions := t.mgt.sessions, replies := (ltrPortWrite n v (countIn i s)).state.mgt.replies ++ [⟨i, 0x91, some resOk, bvBytes w⟩]
        wire := t.mgt.wire, queue := t.mgt.queue, store := t.mgt.store, headSeq := t.mgt.headSeq, overwritten := t.mgt.overwritten } at hmgt
    generalize (ltrPortWrite n v (countIn i s)).state = u at *
    have htolT : ∀ m, portTolerance t m = portTolerance u m := fun m => by rw [hframe]; rfl
    have hpowerT : ∀ m, portPower t m = portPower u m := fun m => by rw [hframe]; rfl
    refine ⟨t, ?_, (htolT n).trans htol, fun h => ?_, fun h => ?_, fun h => ?_⟩
    · show unitWrite (decide (n < 64)) "port" i (offOf 0x0D000000 (4 * n)) v s = _
      rw [decide_eq_true hn]
      exact hex
    · rw [hpowerT] at h
      exact (h3 h).trans ((htolT n).trans htol).ge
    · rw [hpowerT] at h
      exact (h1 h).trans ((htolT n).trans htol).ge
    · rw [htolT n, htol] at h
      obtain ⟨hothers, hu⟩ := hstay h
      refine ⟨fun m hm => ⟨(htolT m).trans (hothers m hm).1, (hpowerT m).trans (hothers m hm).2⟩, ?_, ?_⟩
      · rw [hu] at hframe
        rw [hframe]
        rfl
      · rw [hmgt, hu]
        rfl
  · have hport : ∃ t, unitWrite (decide (n < 64)) "port" i (offOf 0x0D000000 (4 * n)) v s = .next t ∧ Answered s t i ⟨i, 0x91, some resDenied, zeros 4⟩ := by
      rw [decide_eq_true hn]
      exact denied_write hs ho (regOf_ltrPort hn) (may_not_operator hr rfl)
    rcases hpt with rfl | rfl
    · exact denied_write hs ho (r := .ltrNode) rfl (may_not_operator hr rfl)
    · exact hport
  · obtain ⟨t, w, hex, hframe, hmgt, -⟩ := write_state (r := .ltrNode) (off := 0x0D000100) (v := v) hs ho rfl (may_operator hr rfl)
    obtain ⟨hltr, honly, hdeep⟩ := ltrNodeWrite_all v (countIn i s)
    change t = { keepFixed s (ltrNodeWrite v (countIn i s)).state with mgt := t.mgt, freeCount := t.freeCount } at hframe
    change t.mgt = { (ltrNodeWrite v (countIn i s)).state.mgt with
        sessions := t.mgt.sessions, replies := (ltrNodeWrite v (countIn i s)).state.mgt.replies ++ [⟨i, 0x91, some resOk, bvBytes w⟩]
        wire := t.mgt.wire, queue := t.mgt.queue, store := t.mgt.store, headSeq := t.mgt.headSeq, overwritten := t.mgt.overwritten } at hmgt
    generalize (ltrNodeWrite v (countIn i s)).state = u at *
    have hpwr : t.pwr = u.pwr := by rw [hframe]; rfl
    have htol : nodeTolerance t = nodeTolerance u := by
      unfold nodeTolerance
      rw [hpwr]
    refine ⟨t, hex, ?_, fun ht => ?_, ?_, ?_, ?_⟩
    · rw [hpwr]
      exact hltr
    · rw [hpwr, htol]
      exact hdeep ht
    · rw [hframe, honly]
      rfl
    · rw [hframe, honly]
      rfl
    · rw [hmgt, honly]
      rfl

end Sys2Proof.Machine
end

section
/-! SUPPORT. The cap and the throttle (R423-R428). -/

namespace Sys2Proof.Machine

open Sys2Proof

/-! ## Runs that are cut -/

/-- An array with its run marked as cut. -/
def cutArr (x : Arr) : Arr := { x with run := x.run.map fun r => { r with cut := true } }

theorem arrOf_cutRuns (s : State) (a : Nat) : arrOf (cutRuns s) a = cutArr (arrOf s a) := tabGet_map (f := cutArr) rfl s.arr.arrays a

theorem RunsCut.of_arr {s t : State} (h : t.arr = s.arr) : RunsCut s t := by
  refine ⟨by rw [h], fun a => .inl ?_⟩
  unfold arrOf
  rw [h]

theorem cutRuns_cut (s : State) : RunsCut s (cutRuns s) := ⟨rfl, fun a => .inr (arrOf_cutRuns s a)⟩

theorem RunsCut.arr {s t u : State} (h : RunsCut s t) (k : u.arr = t.arr) : RunsCut s u := by
  refine ⟨by rw [k]; exact h.frame, fun a => ?_⟩
  have hu : arrOf u a = arrOf t a := by
    unfold arrOf
    rw [k]
  rw [hu]
  exact h.runs a

theorem RunsCut.since {s t u : State} (h : RunsCut t u) (k : t.arr = s.arr) : RunsCut s u := by
  have ht : ∀ a, arrOf t a = arrOf s a := fun a => by
    unfold arrOf
    rw [k]
  refine ⟨by rw [h.frame, k], fun a => ?_⟩
  rw [← ht]
  exact h.runs a

/-! ## The throttle -/

/-- `t` is `s` but for power, TICK_REPRO_STAT and what runs. -/
def ThrottleOnly (s t : State) : Prop := t = { s with pwr := t.pwr, tick := { s.tick with repro := t.tick.repro }, arr := t.arr }

/-- What a change of the power registers leaves: CLOCK_CUT where a level leaves 0, and its runs cut. -/
theorem throttle_all (f : Pwr → Pwr) (s : State) : let t := throttle f s
    t.pwr = f s.pwr ∧ RunsCut s t ∧ ThrottleOnly s t
      ∧ ((appliedLevel s = 0 ∧ 0 < appliedLevel (modPwr f s)) ∨ (s.pwr.level = 0 ∧ 0 < (f s.pwr).level) → bitAt t.tick.repro 1 = true) := by
  have hbit : ∀ u, bitAt (setRepro 1 u).tick.repro 1 = true := bitAt_setRepro (by decide)
  unfold throttle
  dsimp only
  by_cases ha : appliedLevel s = 0 ∧ 0 < appliedLevel (modPwr f s)
  · rw [if_pos ha]
    by_cases hl : s.pwr.level = 0 ∧ 0 < (f s.pwr).level
    · rw [if_pos (show s.pwr.level = 0 ∧ 0 < (setRepro 1 (cutRuns (modPwr f s))).pwr.level from hl)]
      exact ⟨rfl, (cutRuns_cut s).arr rfl, rfl, fun _ => hbit _⟩
    · rw [if_neg (show ¬ (s.pwr.level = 0 ∧ 0 < (setRepro 1 (cutRuns (modPwr f s))).pwr.level) from hl)]
      exact ⟨rfl, (cutRuns_cut s).arr rfl, rfl, fun _ => hbit _⟩
  · rw [if_neg ha]
    by_cases hl : s.pwr.level = 0 ∧ 0 < (f s.pwr).level
    · rw [if_pos (show s.pwr.level = 0 ∧ 0 < (modPwr f s).pwr.level from hl)]
      exact ⟨rfl, RunsCut.of_arr rfl, rfl, fun _ => hbit _⟩
    · rw [if_neg (show ¬ (s.pwr.level = 0 ∧ 0 < (modPwr f s).pwr.level) from hl)]
      exact ⟨rfl, RunsCut.of_arr rfl, rfl, fun h => absurd h (not_or.mpr ⟨ha, hl⟩)⟩

theorem ThrottleOnly.kept {s t : State} (h : ThrottleOnly s t) : keepFixed s t = t := by
  unfold ThrottleOnly at h
  rw [h]
  rfl

/-- A fast cut: what it does to the power registers. -/
def cutPwr (p : Pwr) : Pwr := { p with level := max p.level (max 1 p.cutLevel.toNat), excursion := some (p.excursion.getD (0, 0)) }

theorem cutPwr_level (p : Pwr) : 0 < (cutPwr p).level := lt_of_lt_of_le Nat.one_pos (le_trans (le_max_left 1 _) (le_max_right _ _))

theorem cutPwr_applied (s : State) : 0 < appliedLevel (modPwr cutPwr s) := lt_of_lt_of_le (cutPwr_level s.pwr) (le_max_left _ _)

theorem fastCut_all (s : State) : let t := fastCut s
    t.pwr = cutPwr s.pwr ∧ RunsCut s t ∧ ThrottleOnly s t ∧ (appliedLevel s = 0 ∨ s.pwr.level = 0 → bitAt t.tick.repro 1 = true) := by
  obtain ⟨h1, h2, h3, h4⟩ := throttle_all cutPwr s
  exact ⟨h1, h2, h3, fun h => h4 (h.imp (⟨·, cutPwr_applied s⟩) (⟨·, cutPwr_level s.pwr⟩))⟩

/-- A sample of the input's power: its voltage and its energy. -/
def sampled (mv : BitVec 16) (ma : Nat) (s : State) : State :=
  modPwr (fun p => { p with
    vinMv := mv, energy := p.energy + BitVec.ofNat 64 ((p.energyFrac + 5 * (mv.toNat * ma)) / 1000000000)
    energyFrac := (p.energyFrac + 5 * (mv.toNat * ma)) % 1000000000 }) s

theorem powerSample_eq (mv : BitVec 16) (ma : Nat) (s : State) : powerSample mv ma s =
    if (capW s + 5 * s.pwr.margin.toNat) * 1000000 < mv.toNat * ma then fastCut (sampled mv ma s) else sampled mv ma s := rfl

/-! ## Settle evaluations -/

/-- `t` is `s` but for the excursion and CAP_UNMET, and for records. -/
structure SettleOnly (s t : State) : Prop where
  frame : FaultOnly { s with pwr := t.pwr } t
  pwr : t.pwr = { s.pwr with excursion := t.pwr.excursion, peakW := t.pwr.peakW, dur := t.pwr.dur, excCnt := t.pwr.excCnt, topSettles := t.pwr.topSettles, capUnmet := t.pwr.capUnmet }

theorem SettleOnly.refl (s : State) : SettleOnly s s := ⟨FaultOnly.refl s, rfl⟩

theorem SettleOnly.trans {s t u : State} (h : SettleOnly s t) (k : SettleOnly t u) : SettleOnly s u := by
  constructor
  · have h1 := h.frame
    have k1 := k.frame
    unfold FaultOnly at *
    rw [k1, h1]
  · rw [k.pwr, h.pwr]

theorem FaultOnly.settleOnly {s t : State} (h : FaultOnly s t) : SettleOnly s t := by
  have hp : t.pwr = s.pwr := h.fields.2.1
  constructor
  · unfold FaultOnly at *
    rw [h]
  · rw [hp]

/-- CAP_UNMET after an evaluation: it clears where the draw is not above the cap. -/
theorem settleUnmet_all (mean : Nat) (s : State) : SettleOnly s (settleUnmet mean s) ∧ (settleUnmet mean s).pwr.excursion = s.pwr.excursion
    ∧ (mean ≤ capW s → (settleUnmet mean s).pwr.capUnmet = false) := by
  have hset : ∀ f : Pwr → Pwr, (∀ p, f p = { p with topSettles := (f p).topSettles, capUnmet := (f p).capUnmet }) → SettleOnly s (modPwr f s) := fun f hf =>
    ⟨FaultOnly.refl _, by rw [modPwr_pwr, hf]⟩
  have hn := hset (fun p => { p with topSettles := s.pwr.topSettles + 1 }) fun _ => rfl
  have hunmet : SettleOnly (modPwr (fun p => { p with topSettles := s.pwr.topSettles + 1 }) s)
      (modPwr (fun p => { p with capUnmet := true }) (modPwr (fun p => { p with topSettles := s.pwr.topSettles + 1 }) s)) := ⟨FaultOnly.refl _, rfl⟩
  unfold settleUnmet
  split
  · next h =>
    dsimp only
    split
    · have hfault := devFault0_only 0xA2 sevError 0 0
        (modPwr (fun p => { p with capUnmet := true }) (modPwr (fun p => { p with topSettles := s.pwr.topSettles + 1 }) s))
      exact ⟨(hn.trans hunmet).trans hfault.settleOnly, by rw [hfault.fields.2.1]; rfl, fun hle => absurd h.2 (Nat.not_lt.mpr hle)⟩
    · exact ⟨hn, rfl, fun hle => absurd h.2 (Nat.not_lt.mpr hle)⟩
  · exact ⟨hset _ fun _ => rfl, rfl, fun _ => rfl⟩

/-- The excursion after an evaluation: it runs while the draw is above the cap. -/
theorem settleExcursion_all (mean : Nat) (s : State) : SettleOnly s (settleExcursion mean s) ∧ (settleExcursion mean s).pwr.capUnmet = s.pwr.capUnmet
    ∧ ((settleExcursion mean s).pwr.excursion = none ↔ mean ≤ capW s) := by
  unfold settleExcursion
  dsimp only
  cases hx : s.pwr.excursion with
  | none =>
    dsimp only
    by_cases h : capW s < mean
    · rw [if_pos h]
      exact ⟨⟨FaultOnly.refl _, rfl⟩, rfl, iff_of_false (fun k => nomatch k) (Nat.not_le.mpr h)⟩
    · rw [if_neg h]
      exact ⟨SettleOnly.refl s, rfl, iff_of_true hx (Nat.not_lt.mp h)⟩
  | some x =>
    obtain ⟨peak, dur⟩ := x
    dsimp only
    by_cases h : capW s < mean
    · rw [if_pos h]
      exact ⟨⟨FaultOnly.refl _, rfl⟩, rfl, iff_of_false (fun k => nomatch k) (Nat.not_le.mpr h)⟩
    · rw [if_neg h]
      generalize hu : modPwr (fun p => { p with excursion := none, peakW := BitVec.ofNat 11 (min peak 2047), dur := BitVec.ofNat 13 (min (dur + 10) 8191), excCnt := satAdd p.excCnt 1 }) s = u
      have hended : SettleOnly s u ∧ u.pwr.capUnmet = s.pwr.capUnmet ∧ u.pwr.excursion = none := by
        rw [← hu]
        exact ⟨⟨FaultOnly.refl _, rfl⟩, rfl, rfl⟩
      have hrecord := (devFault0_only 0xA1 sevWarn 0 u.pwr.peakW.toNat u).trans
        (powerEntry_only 2 0 u.pwr.peakW.toNat u.pwr.dur.toNat (devFault0 0xA1 sevWarn 0 u.pwr.peakW.toNat u))
      obtain ⟨hsettle, hunmet, hnone⟩ := hended
      have hpwr := hrecord.fields.2.1
      exact ⟨hsettle.trans hrecord.settleOnly, by rw [hpwr]; exact hunmet, iff_of_true (by rw [hpwr]; exact hnone) (Nat.not_lt.mp h)⟩

/-- The evaluation of a settle period, before the level moves. -/
def settled (mean : Nat) (s : State) : State := settleExcursion mean (settleUnmet mean (modPwr (fun p => { p with pinW := BitVec.ofNat 16 (min mean 65535) }) s))

theorem capW_settle {s t : State} (h : SettleOnly s t) : capW t = capW s := by
  unfold capW
  rw [h.pwr]

theorem settled_all (mean : Nat) (s : State) : SettleOnly (modPwr (fun p => { p with pinW := BitVec.ofNat 16 (min mean 65535) }) s) (settled mean s)
    ∧ ((settled mean s).pwr.excursion = none ↔ mean ≤ capW s) ∧ (mean ≤ capW s → (settled mean s).pwr.capUnmet = false) := by
  obtain ⟨h1, -, h3⟩ := settleUnmet_all mean (modPwr (fun p => { p with pinW := BitVec.ofNat 16 (min mean 65535) }) s)
  have hcap := capW_settle h1
  unfold settled
  generalize settleUnmet mean (modPwr (fun p => { p with pinW := BitVec.ofNat 16 (min mean 65535) }) s) = u at *
  obtain ⟨k1, k2, k3⟩ := settleExcursion_all mean u
  rw [hcap] at k3
  exact ⟨h1.trans k1, k3, fun h => k2.trans (h3 h)⟩

/-- The level's move after the evaluation. -/
theorem powerSettle_eq (mean : Nat) (s : State) : powerSettle mean s =
    if capW s < mean then throttle (fun p => { p with level := min 19 (p.level + 1) }) (settled mean s)
    else if mean + 20 < capW s then modPwr (fun p => { p with level := p.level - 1 }) (settled mean s)
    else settled mean s := rfl

/-- The level after a settle period. -/
def settledLevel (mean : Nat) (s : State) : Nat :=
  if capW s < mean then min 19 (s.pwr.level + 1) else if mean + 20 < capW s then s.pwr.level - 1 else s.pwr.level

theorem powerSettle_all (mean : Nat) (s : State) : let t := powerSettle mean s
    t.pwr = { (settled mean s).pwr with level := settledLevel mean s } ∧ (s.pwr.level = 0 → capW s < mean → bitAt t.tick.repro 1 = true)
      ∧ RunsCut (settled mean s) t ∧ ThrottleOnly (settled mean s) t := by
  obtain ⟨hsettle, -, -⟩ := settled_all mean s
  have hlevel : (settled mean s).pwr.level = s.pwr.level := by rw [hsettle.pwr]; rfl
  rw [powerSettle_eq]
  unfold settledLevel
  generalize settled mean s = u at *
  by_cases hover : capW s < mean
  · obtain ⟨h1, h2, h3, h4⟩ := throttle_all (fun p => { p with level := min 19 (p.level + 1) }) u
    rw [if_pos hover, if_pos hover]
    refine ⟨?_, fun h0 _ => h4 (.inr ⟨hlevel.trans h0, ?_⟩), h2, h3⟩
    · rw [h1, hlevel]
    · exact lt_min (by decide) (Nat.succ_pos _)
  · rw [if_neg hover, if_neg hover]
    by_cases hunder : mean + 20 < capW s
    · rw [if_pos hunder, if_pos hunder]
      exact ⟨by rw [modPwr_pwr, hlevel], fun _ h => absurd h hover, RunsCut.of_arr rfl, rfl⟩
    · rw [if_neg hunder, if_neg hunder]
      exact ⟨by rw [← hlevel], fun _ h => absurd h hover, RunsCut.of_arr rfl, rfl⟩

/-- Settles O22: the cap's signals, the fast cut, and a settle period. -/
theorem capMovesTheThrottle : Obligations.CapMovesTheThrottle := by
  intro s hp cut
  refine ⟨fun high period h0 hle => ?_, live_next hp, fun halert => ?_, live_next hp, fun mv ma => ?_, fun mean => ?_⟩
  · show live s (capPwmPeriod high period s) = _
    rw [live_next hp, capPwmPeriod, if_neg (not_or.mpr ⟨h0, Nat.not_lt.mpr hle⟩)]
    rfl
  · obtain ⟨h1, h2, h3, h4⟩ := fastCut_all (modPwr (fun p => { p with alert := true }) s)
    have he : capAlertN s = fastCut (modPwr (fun p => { p with alert := true }) s) := if_neg (by rw [halert]; decide)
    rw [← he] at h1 h2 h3 h4
    refine ⟨capAlertN s, ?_, h1, h4, h2.since rfl, h3⟩
    show live s (capAlertN s) = _
    rw [live_next hp]
    exact congrArg _ h3.kept
  · obtain ⟨h1, h2, h3, -⟩ := fastCut_all (sampled mv ma s)
    refine ⟨powerSample mv ma s, ?_, ?_⟩
    · show live s (powerSample mv ma s) = _
      rw [live_next hp, powerSample_eq]
      split
      · exact congrArg _ h3.kept
      · rfl
    · rw [powerSample_eq]
      split
      · exact ⟨h1, h2.since rfl, h3⟩
      · exact ⟨rfl, RunsCut.of_arr rfl, rfl⟩
  · obtain ⟨hsettle, hexc, hunmet⟩ := settled_all mean s
    obtain ⟨h1, h2, h3, h4⟩ := powerSettle_all mean s
    have harr : (settled mean s).arr = s.arr := by rw [hsettle.frame]; rfl
    have honly : FaultOnly { s with pwr := (powerSettle mean s).pwr, tick := { s.tick with repro := (powerSettle mean s).tick.repro }, arr := (powerSettle mean s).arr } (powerSettle mean s) := by
      have hf := hsettle.frame
      generalize settled mean s = u at *
      generalize powerSettle mean s = t at *
      unfold FaultOnly ThrottleOnly at *
      rw [h4, hf]
      rfl
    refine ⟨powerSettle mean s, honly.live_next hp rfl rfl rfl, ?_, ?_, h2, ?_, fun h => ?_, ?_, honly⟩
    · rw [h1, hsettle.pwr]
      rfl
    · rw [h1]
      rfl
    · rw [h1]
      exact hexc
    · rw [h1]
      exact hunmet h
    · exact h3.since harr

end Sys2Proof.Machine
end

section
/-! SUPPORT. Temperatures (R383, R431, R432). -/

namespace Sys2Proof.Machine

open Sys2Proof

theorem forEach_only {α : Type} {f : α → State → State} (h : ∀ a s, FaultOnly s (f a s)) (l : List α) (s : State) : FaultOnly s (forEach l f s) := by
  induction l generalizing s with
  | nil => exact FaultOnly.refl s
  | cons a l ih => exact (h a s).trans (ih (f a s))

theorem thermRecords_only (temp : Byte) (rises : Bool) (s : State) : FaultOnly s (thermRecords temp rises s) := by
  have hfirst : ∀ sev, FaultOnly s (if 100 ≤ temp.toNat then devFault0 0xA3 sev 0xFFFF 0 s else s) := fun sev => by
    split
    · exact devFault0_only ..
    · exact FaultOnly.refl s
  unfold thermRecords
  dsimp only
  split
  · exact (hfirst _).trans (forEach_only (fun k u => devFault0_only ..) _ _)
  · exact hfirst _

/-- The die's temperature as a sample leaves it. -/
def dieSampled (temp : Byte) (s : State) : State :=
  modPwr (fun p => { p with dieTemp := temp, diePeak := if p.diePeak.toNat < temp.toNat then temp else p.diePeak
                            dieHot := if 115 ≤ temp.toNat then p.dieHot + 1 else 0 }) s

/-- The thermal level rises. -/
def thermRises (temp : Byte) (s : State) : Bool := (decide (105 ≤ temp.toNat) || !(hotStacks s).isEmpty) && decide (s.pwr.thermLevel.toNat < 19)

/-- The module is cool enough for the thermal level to fall. -/
def thermCools (temp : Byte) (s : State) : Bool := decide (temp.toNat < 102) && (hotStacks s).isEmpty

/-- The thermal level's move, on the state with its records. -/
def thermMoved (temp : Byte) (s : State) : State :=
  let u := thermRecords temp (thermRises temp s) (dieSampled temp s)
  if thermRises temp s then throttle (fun p => { p with thermLevel := p.thermLevel + 1 }) u
  else if thermCools temp s then modPwr (fun p => { p with thermLevel := p.thermLevel - BitVec.ofNat 5 (ofB (decide (p.thermLevel ≠ 0))) }) u
  else u

theorem dieTempSample_eq (temp : Byte) (s : State) :
    dieTempSample temp s = if 2 ≤ (thermMoved temp s).pwr.dieHot then thermalTrip none temp (thermMoved temp s) else thermMoved temp s := rfl

/-- The thermal level after a sample. -/
def thermLevelAfter (temp : Byte) (s : State) : BitVec 5 :=
  if thermRises temp s then s.pwr.thermLevel + 1
  else if thermCools temp s then s.pwr.thermLevel - BitVec.ofNat 5 (ofB (decide (s.pwr.thermLevel ≠ 0)))
  else s.pwr.thermLevel

/-- What a sample leaves before a trip. -/
theorem thermMoved_all (temp : Byte) (s : State) : let t := thermMoved temp s
    t.pwr = { (dieSampled temp s).pwr with thermLevel := thermLevelAfter temp s } ∧ RunsCut s t
      ∧ FaultOnly { s with pwr := t.pwr, tick := { s.tick with repro := t.tick.repro }, arr := t.arr } t := by
  have honly := thermRecords_only temp (thermRises temp s) (dieSampled temp s)
  unfold thermMoved thermLevelAfter
  dsimp only
  generalize thermRecords temp (thermRises temp s) (dieSampled temp s) = u at honly
  have hpwr : u.pwr = (dieSampled temp s).pwr := honly.fields.2.1
  have harr : u.arr = s.arr := by rw [honly]; rfl
  by_cases hrises : thermRises temp s = true
  · obtain ⟨h1, h2, h3, -⟩ := throttle_all (fun p => { p with thermLevel := p.thermLevel + 1 }) u
    rw [if_pos hrises, if_pos hrises]
    refine ⟨by rw [h1, hpwr]; rfl, h2.since harr, ?_⟩
    generalize throttle (fun p => { p with thermLevel := p.thermLevel + 1 }) u = t at *
    unfold FaultOnly ThrottleOnly at *
    rw [h3, honly]
    rfl
  · rw [if_neg hrises, if_neg hrises]
    by_cases hcools : thermCools temp s = true
    · rw [if_pos hcools, if_pos hcools]
      refine ⟨by rw [modPwr_pwr, hpwr]; rfl, RunsCut.of_arr harr, ?_⟩
      unfold FaultOnly at *
      rw [honly]
      rfl
    · rw [if_neg hcools, if_neg hcools]
      refine ⟨by rw [hpwr]; rfl, RunsCut.of_arr harr, ?_⟩
      unfold FaultOnly at *
      rw [honly]
      rfl

theorem hot_iff (temp : Byte) (s : State) : (decide (105 ≤ temp.toNat) || !(hotStacks s).isEmpty) = true ↔ 105 ≤ temp.toNat ∨ hotStacks s ≠ [] := by
  rw [Bool.or_eq_true, decide_eq_true_eq, Bool.not_eq_true', List.isEmpty_eq_false_iff]

theorem thermLevelAfter_hot {temp : Byte} {s : State} (h : 105 ≤ temp.toNat ∨ hotStacks s ≠ []) (hl : s.pwr.thermLevel.toNat < 19) :
    thermLevelAfter temp s = s.pwr.thermLevel + 1 := by
  refine if_pos ?_
  unfold thermRises
  rw [(hot_iff temp s).mpr h, decide_eq_true hl]
  rfl

theorem thermRises_cold {temp : Byte} {s : State} (h : ¬ (105 ≤ temp.toNat ∨ hotStacks s ≠ [])) : thermRises temp s = false := by
  unfold thermRises
  rw [Bool.eq_false_iff.mpr (mt (hot_iff temp s).mp h), Bool.false_and]

theorem thermLevelAfter_cool {temp : Byte} {s : State} (h : ¬ (105 ≤ temp.toNat ∨ hotStacks s ≠ [])) (hc : temp.toNat < 102) (hl : s.pwr.thermLevel ≠ 0) :
    thermLevelAfter temp s = s.pwr.thermLevel - 1 := by
  have hempty : hotStacks s = [] := not_not.mp fun k => h (.inr k)
  unfold thermLevelAfter thermCools
  rw [thermRises_cold h, if_neg (by decide), hempty, decide_eq_true hc, if_pos (by rfl), decide_eq_true hl]
  rfl

theorem thermLevelAfter_warm {temp : Byte} {s : State} (h : ¬ (105 ≤ temp.toNat ∨ hotStacks s ≠ [])) (hc : 102 ≤ temp.toNat) :
    thermLevelAfter temp s = s.pwr.thermLevel := by
  unfold thermLevelAfter thermCools
  rw [thermRises_cold h, if_neg (by decide), decide_eq_false (Nat.not_lt.mpr hc), Bool.false_and, if_neg (by decide)]

/-! ## Trips -/

/-- A trip parks the module. -/
theorem thermalTrip_parks {stack : Option Nat} {temp : Byte} {s : State} (h : s.pwr.tripped = false) :
    (thermalTrip stack temp s).pwr.node = 4 ∧ (thermalTrip stack temp s).pwr.gated = 0xFFF := by
  unfold thermalTrip
  rw [if_neg (by rw [h]; decide)]
  exact ⟨rfl, rfl⟩

/-! ## Stacks -/

theorem modStack_congr {k : Nat} {f g : Stack → Stack} {s : State} (h : f (stackOfN s k) = g (stackOfN s k)) : modStack k f s = modStack k g s := by
  unfold modStack modMem tabMod
  exact congrArg (fun x => { s with mem := { s.mem with stackOf := tabSet {} s.mem.stackOf k x } }) h

/-- A stack as a sample leaves it. -/
def stackSampled (temp : Byte) (x : Stack) : Stack :=
  { x with
    temp := temp, peak := if x.peak.toNat < temp.toNat then temp else x.peak
    classNeed := BitVec.ofNat 2 (nextClassNeed x.classNeed.toNat temp.toNat)
    hotSamples := if 115 ≤ temp.toNat then x.hotSamples + 1 else 0 }

/-- A sample of a stack, with its record, before a trip. -/
theorem stackTempSample_sampled (k : Nat) (temp : Byte) (s : State) : ∃ u, FaultOnly (modStack k (stackSampled temp) s) u
    ∧ stackTempSample k temp s = if 2 ≤ (stackOfN u k).hotSamples then thermalTrip (some k) temp u else u := by
  have hs : modStack k (stackSampled temp) s = modStack k (fun x => { x with
      temp := temp, peak := if x.peak.toNat < temp.toNat then temp else x.peak
      classNeed := BitVec.ofNat 2 (nextClassNeed (stackOfN s k).classNeed.toNat temp.toNat)
      hotSamples := if 115 ≤ temp.toNat then x.hotSamples + 1 else 0 }) s := modStack_congr rfl
  unfold stackTempSample
  dsimp only
  rw [← hs]
  refine ⟨_, ?_, rfl⟩
  split
  · exact devFault0_only ..
  · exact FaultOnly.refl _

theorem stackOfN_sampled {k : Nat} {temp : Byte} {s u : State} (h : FaultOnly (modStack k (stackSampled temp) s) u) :
    stackOfN u k = stackSampled temp (stackOfN s k) ∧ u.pwr = s.pwr := by
  obtain ⟨-, hpwr, -, -, -, hmem, -⟩ := h.fields
  refine ⟨?_, hpwr⟩
  rw [← stackOfN_modStack k (stackSampled temp) s]
  unfold stackOfN
  rw [hmem]

/-- Settles O23: each sample by what it leaves before a trip, and a trip by the state that it parks the module in. -/
theorem temperaturesMoveLevelsAndPark : Obligations.TemperaturesMoveLevelsAndPark := by
  refine ⟨fun s temp hp => ⟨fun hlow => ?_, fun hhigh hhot ht => ?_⟩, fun s k temp hp hk => ⟨fun hlow => ?_, fun hhigh hhot ht => ?_⟩⟩
  · obtain ⟨hpwr, hcut, honly⟩ := thermMoved_all temp s
    have hcold : (thermMoved temp s).pwr.dieHot = 0 := by
      rw [hpwr]
      exact if_neg (Nat.not_le.mpr hlow)
    have he : dieTempSample temp s = thermMoved temp s := by
      rw [dieTempSample_eq, hcold]
      exact if_neg (by decide)
    refine ⟨thermMoved temp s, ?_, by rw [hpwr]; rfl, hcold, by rw [hpwr]; rfl, fun h hl => ?_, fun h hc hl => ?_, fun h hc => ?_, hcut, honly⟩
    · show live s (dieTempSample temp s) = _
      rw [he]
      exact honly.live_next hp rfl rfl rfl
    · rw [hpwr]
      exact thermLevelAfter_hot h hl
    · rw [hpwr]
      exact thermLevelAfter_cool h hc hl
    · rw [hpwr]
      exact thermLevelAfter_warm h hc
  · obtain ⟨hpwr, -, -⟩ := thermMoved_all temp s
    have hagain : 2 ≤ (thermMoved temp s).pwr.dieHot := by
      rw [hpwr]
      show 2 ≤ if 115 ≤ temp.toNat then s.pwr.dieHot + 1 else 0
      rw [if_pos hhigh]
      omega
    have hnot : (thermMoved temp s).pwr.tripped = false := by
      rw [hpwr]
      exact ht
    have hparks := thermalTrip_parks (stack := none) (temp := temp) hnot
    refine ⟨_, live_next hp, ?_⟩
    rw [dieTempSample_eq, if_pos hagain]
    generalize thermalTrip none temp (thermMoved temp s) = t at hparks
    exact hparks
  · obtain ⟨u, honly, he⟩ := stackTempSample_sampled k temp s
    obtain ⟨hstack, -⟩ := stackOfN_sampled honly
    have hcold : ¬ 2 ≤ (stackOfN u k).hotSamples := by
      rw [hstack]
      show ¬ 2 ≤ if 115 ≤ temp.toNat then _ else 0
      rw [if_neg (Nat.not_le.mpr hlow)]
      decide
    rw [if_neg hcold] at he
    have hzero : modStack k (stackSampled temp) s = modStack k (fun y => { y with
        temp := temp, peak := if y.peak.toNat < temp.toNat then temp else y.peak, hotSamples := 0
        classNeed := BitVec.ofNat 2 (nextClassNeed y.classNeed.toNat temp.toNat) }) s := by
      refine modStack_congr ?_
      unfold stackSampled
      rw [if_neg (Nat.not_le.mpr hlow)]
    refine ⟨u, ?_, by rw [← hzero]; exact honly⟩
    show liveIf (decide (k < 24)) "stack" s (stackTempSample k temp s) = _
    rw [he]
    exact port_next hp (decide_eq_true hk) (honly.keepFixed rfl rfl rfl)
  · obtain ⟨u, honly, he⟩ := stackTempSample_sampled k temp s
    obtain ⟨hstack, hpwr⟩ := stackOfN_sampled honly
    have hagain : 2 ≤ (stackOfN u k).hotSamples := by
      rw [hstack]
      show 2 ≤ if 115 ≤ temp.toNat then _ else 0
      rw [if_pos hhigh]
      omega
    rw [if_pos hagain] at he
    have hparks := thermalTrip_parks (stack := some k) (temp := temp) (s := u) (by rw [hpwr]; exact ht)
    refine ⟨_, liveIf_next (decide_eq_true hk) hp, ?_⟩
    rw [he]
    generalize thermalTrip (some k) temp u = t at hparks
    exact hparks

end Sys2Proof.Machine
end

section
/-! SUPPORT. TICK_SYNC_CFG, and the operations of TICK_ITIN_CTL (R222, R225, R228). -/

namespace Sys2Proof.Machine

open Sys2Proof

/-! ## MASTER_FORCE -/

/-- The tick unit of a module that is master of a class. -/
def masterTick (cls : Nat) (t : TickUnit) : TickUnit :=
  { t with
    state := .master, goodSyncs := 0, takeFrom := none, carriers := t.carriers.map fun e => (e.1, { e.2 with higher := 0 })
    upstream := 0xFF, stratum := 0, mismatch := false, mclass := BitVec.ofNat 2 cls }

theorem enterSync_keeps_lock (new : SyncState) (h : new = .master ∨ new = .locked) (s : State) :
    (if (s.tick.state = .locked ∨ s.tick.state = .master) ∧ (new = .holdover ∨ new = .acquire) then setRepro 5 s else s) = s := by
  rcases h with rfl | rfl
  · exact if_neg (by rintro ⟨-, h | h⟩ <;> cases h)
  · exact if_neg (by rintro ⟨-, h | h⟩ <;> cases h)

/-- A module becomes master without a promotion: no record is made. -/
theorem becomeMaster_quiet (cls : Nat) (s : State) : becomeMaster cls false s = modTick (masterTick cls) s := by
  unfold becomeMaster enterSync
  dsimp only
  rw [enterSync_keeps_lock .master (.inl rfl)]
  rfl

theorem applyForce_set {s : State} (h : masterForce s = true) : (applyForce s).tick.state = .master ∧ (applyForce s).tick.mclass = 2
    ∧ applyForce s = modTick (fun _ => (applyForce s).tick) s := by
  unfold applyForce
  dsimp only
  rw [if_pos h]
  by_cases hf : (decide (s.tick.state = .master) && decide (s.tick.mclass = 2)) = true
  · rw [if_pos hf]
    rw [Bool.and_eq_true, decide_eq_true_iff, decide_eq_true_iff] at hf
    exact ⟨hf.1, hf.2, rfl⟩
  · rw [if_neg hf, becomeMaster_quiet]
    exact ⟨rfl, rfl, rfl⟩

theorem applyForce_cleared {s : State} (h : masterForce s = false) : applyForce s =
    if s.tick.state = .master ∧ s.tick.mclass = 2 then modTick (fun t => { t with mclass := if s.mgt.adopted = true ∧ s.mgt.addr = 0 then 1 else 0 }) s else s := by
  unfold applyForce
  dsimp only
  rw [if_neg (by rw [h]; decide)]
  exact if_congr (by rw [Bool.and_eq_true, decide_eq_true_iff, decide_eq_true_iff]) rfl rfl

/-- A write of TICK_SYNC_CFG: what becomes of the tick unit. -/
theorem syncCfgWrite_all (v : W32) (s : State) : let u := (syncCfgWrite v s).state
    (bitAt v 31 = false → ¬ (s.tick.state = .master ∧ s.tick.mclass = 2) → u.tick = s.tick)
    ∧ (bitAt v 31 = false → s.tick.state = .master → s.tick.mclass = 2 → u.tick = { s.tick with mclass := if s.mgt.adopted = true ∧ s.mgt.addr = 0 then 1 else 0 })
    ∧ (bitAt v 31 = true → u.tick.state = .master ∧ u.tick.mclass = 2)
    ∧ u = modTick (fun _ => u.tick) (nvMod (fun n => { n with syncCfg := v &&& 0xC000FFFF }) s) := by
  have hforce : masterForce (nvMod (fun n => { n with syncCfg := v &&& 0xC000FFFF }) s) = bitAt v 31 := by
    show (v &&& 0xC000FFFF).getLsbD 31 = v.getLsbD 31
    rw [BitVec.getLsbD_and]
    exact Bool.and_true _
  have hwrite : (syncCfgWrite v s).state = applyForce (nvMod (fun n => { n with syncCfg := v &&& 0xC000FFFF }) s) := rfl
  dsimp only
  rw [hwrite]
  cases hbit : bitAt v 31 with
  | true =>
    obtain ⟨hstate, hclass, hframe⟩ := applyForce_set (hforce.trans hbit)
    exact ⟨fun h => absurd h (by decide), fun h => absurd h (by decide), fun _ => ⟨hstate, hclass⟩, hframe⟩
  | false =>
    rw [applyForce_cleared (hforce.trans hbit), nvMod_tick]
    by_cases hm : s.tick.state = .master ∧ s.tick.mclass = 2
    · rw [if_pos hm]
      exact ⟨fun _ h => absurd hm h, fun _ _ _ => rfl, fun h => absurd h (by decide), rfl⟩
    · rw [if_neg hm]
      exact ⟨fun _ _ => rfl, fun _ h1 h2 => absurd ⟨h1, h2⟩ hm, fun h => absurd h (by decide), rfl⟩

/-! ## TICK_ITIN_CTL -/

/-- The word of an operation on entry `k`. -/
theorem itinWord_eq (op : Nat) (k : BitVec 16) : BitVec.ofNat 32 (op * 2 ^ 24 + k.toNat) = pack [(24, op), (0, k.toNat)] :=
  BitVec.eq_of_toNat_eq (by rw [toNat_pack_op (k.isLt.trans (by decide)), BitVec.toNat_ofNat])

theorem itinWord_flag {op j : Nat} (k : BitVec 16) (h16 : 16 ≤ j) (h24 : j < 24) : bitAt (BitVec.ofNat 32 (op * 2 ^ 24 + k.toNat)) j = false := by
  unfold bitAt
  rw [BitVec.getLsbD_ofNat, Nat.mul_comm, Nat.testBit_two_pow_mul_add _ (k.isLt.trans (by decide)), if_pos h24,
    Nat.testBit_lt_two_pow (k.isLt.trans_le (Nat.pow_le_pow_right (by decide) h16)), Bool.and_false]

/-- A write that names an operation, with no flag. -/
theorem itinCtlWrite_op {op : Nat} (k : BitVec 16) (s : State) (hop : op < 4) (h0 : op ≠ 0) :
    itinCtlWrite (BitVec.ofNat 32 (op * 2 ^ 24 + k.toNat)) s
      = started (modTick (fun y => itinOp op k.toNat { y with loadStep := false, index := k }) s) := by
  have hopv : (bitsOf (BitVec.ofNat 32 (op * 2 ^ 24 + k.toNat)) 24 2).toNat = op := by
    rw [itinWord_eq, pack_op (k := k.toNat) (k.isLt.trans (by decide)) (by omega) (by decide)]
  have hk : (bitsOf (BitVec.ofNat 32 (op * 2 ^ 24 + k.toNat)) 0 16 : BitVec 16) = k := by
    rw [itinWord_eq, pack_index k (by decide) (by decide)]
  have hflag : ∀ j, 16 ≤ j → j < 24 → bitAt (BitVec.ofNat 32 (op * 2 ^ 24 + k.toNat)) j = false := fun j => itinWord_flag k
  generalize BitVec.ofNat 32 (op * 2 ^ 24 + k.toNat) = v at *
  unfold itinCtlWrite
  dsimp only
  rw [hopv, hk, hflag 21 (by decide) (by decide), hflag 22 (by decide) (by decide), hflag 23 (by decide) (by decide)]
  simp only [Bool.not_false, Bool.and_true, Bool.false_and, Bool.false_eq_true, false_or, if_false, if_pos h0, modTick_modTick]

/-- The words of ARM and CANCEL: their fields. -/
theorem armWord_fields (b : Bool) : let v := BitVec.ofNat 32 (2 ^ 23 + ofB b * 2 ^ 21)
    (bitsOf v 24 2).toNat = 0 ∧ (bitsOf v 0 16 : BitVec 16) = 0 ∧ bitAt v 21 = b ∧ bitAt v 22 = false ∧ bitAt v 23 = true := by
  revert b; decide

theorem cancelWord_fields (b : Bool) : let v := BitVec.ofNat 32 (2 ^ 22 + ofB b * 2 ^ 23)
    (bitsOf v 24 2).toNat = 0 ∧ (bitsOf v 0 16 : BitVec 16) = 0 ∧ bitAt v 21 = false ∧ bitAt v 22 = true := by
  revert b; decide

theorem itinCtlWrite_arm {s : State} (b : Bool) (hc : s.tick.checking = false) (hp : s.tick.pending = false) :
    itinCtlWrite (BitVec.ofNat 32 (2 ^ 23 + ofB b * 2 ^ 21)) s = started (modTick (fun y => { y with
      loadStep := b, index := 0, checking := true, latchedTick := y.commit, latchedStep := y.stepSet, latchedLoad := b }) s) := by
  obtain ⟨hop, hk, hl, hcancel, harm⟩ := armWord_fields b
  generalize BitVec.ofNat 32 (2 ^ 23 + ofB b * 2 ^ 21) = v at *
  unfold itinCtlWrite
  dsimp only
  rw [hop, hk, hl, hcancel, harm]
  simp only [Bool.not_false, Bool.and_true, itinOp, modTick_modTick, modTick_tick, hc, hp, if_true, true_or]

theorem itinCtlWrite_armed {s : State} (b : Bool) (h : s.tick.checking = true ∨ s.tick.pending = true) :
    itinCtlWrite (BitVec.ofNat 32 (2 ^ 23 + ofB b * 2 ^ 21)) s = wrote (modTick (fun y => { y with loadStep := b, index := 0 }) s) := by
  obtain ⟨hop, hk, hl, hcancel, harm⟩ := armWord_fields b
  have hbusy : (!s.tick.pending && !s.tick.checking) = false := by
    rcases h with h | h
    · rw [h]; exact Bool.and_false _
    · rw [h]; rfl
  generalize BitVec.ofNat 32 (2 ^ 23 + ofB b * 2 ^ 21) = v at *
  unfold itinCtlWrite
  dsimp only
  rw [hop, hk, hl, hcancel, harm]
  simp only [Bool.not_false, Bool.and_true, Bool.true_and, itinOp, modTick_modTick, modTick_tick, hbusy, Bool.false_eq_true, false_or, ne_eq, not_true_eq_false,
    if_false]

theorem itinCtlWrite_cancel (b : Bool) (s : State) : itinCtlWrite (BitVec.ofNat 32 (2 ^ 22 + ofB b * 2 ^ 23)) s
    = wrote (modTick (fun y => { y with loadStep := false, index := 0, pending := false }) s) := by
  obtain ⟨hop, hk, hl, hcancel⟩ := cancelWord_fields b
  generalize BitVec.ofNat 32 (2 ^ 22 + ofB b * 2 ^ 23) = v at *
  unfold itinCtlWrite
  dsimp only
  rw [hop, hk, hl, hcancel]
  simp only [Bool.not_true, Bool.and_false, Bool.false_and, itinOp, modTick_modTick, Bool.false_eq_true, false_or, ne_eq, not_true_eq_false, if_false]

/-- A write to the stage, which BUSY and PENDING ignore. -/
theorem itinOp_write (k : BitVec 16) (t : TickUnit) : itinOp 1 k.toNat { t with loadStep := false, index := k } = { t with
    loadStep := false, index := k, stage := if t.checking ∨ t.pending then t.stage else tabSet 0 t.stage k.toNat t.data } := by
  show (if t.checking ∨ t.pending then _ else _) = _
  by_cases h : t.checking = true ∨ t.pending = true
  · rw [if_pos h, if_pos h]
  · rw [if_neg h, if_neg h]

/-! ## The end of the check -/

theorem itinCheckDone_passed {s : State} (hc : s.tick.checking = true) (h : (itinCheck s).1 = 0) :
    itinCheckDone s = modTick (fun y => { y with checking := false, pending := true, status := 0 }) s := by
  unfold itinCheckDone
  rw [if_neg (by rw [hc]; decide)]
  exact if_pos h

theorem itinCheckDone_refused {s : State} (hc : s.tick.checking = true) (h : (itinCheck s).1 ≠ 0) :
    itinCheckDone s = ledgerDevice 3 0 (detailOf []) (devFault0 0x44 sevWarn (itinCheck s).1 0
      (modTick (fun y => { y with checking := false, status := BitVec.ofNat 4 (itinCheck s).1, failIdx := BitVec.ofNat 16 (itinCheck s).2 }) s)) := by
  unfold itinCheckDone
  rw [if_neg (by rw [hc]; decide)]
  exact if_neg h

/-- Settles O24: TICK_SYNC_CFG by what it leaves of the tick unit, the operations by their answers, the check's end by its two outcomes. -/
theorem tickSettingsAndItineraryStage : Obligations.TickSettingsAndItineraryStage := by
  refine ⟨fun s i x v hs ho hr => ?_, fun s i x k b hs ho hr => ?_, fun s hp hc => ⟨fun h => ?_, fun h => ?_⟩⟩
  · obtain ⟨t, w, hex, hframe, hmgt, -⟩ := write_state (r := .syncCfg) (off := 0x0A000010) (v := v) hs ho rfl (may_installer hr rfl)
    obtain ⟨hkeeps, hclears, hsets, honly⟩ := syncCfgWrite_all v (countIn i s)
    change t = { keepFixed s (syncCfgWrite v (countIn i s)).state with mgt := t.mgt, freeCount := t.freeCount } at hframe
    change t.mgt = { (syncCfgWrite v (countIn i s)).state.mgt with
        sessions := t.mgt.sessions, replies := (syncCfgWrite v (countIn i s)).state.mgt.replies ++ [⟨i, 0x91, some resOk, bvBytes w⟩]
        wire := t.mgt.wire, queue := t.mgt.queue, store := t.mgt.store, headSeq := t.mgt.headSeq, overwritten := t.mgt.overwritten } at hmgt
    generalize (syncCfgWrite v (countIn i s)).state = u at *
    have htick : t.tick = u.tick := by rw [hframe]; rfl
    rw [← htick] at hkeeps hclears hsets
    refine ⟨t, hex, ?_, hkeeps, hclears, hsets, ?_⟩
    · rw [hmgt, honly]
      rfl
    · rw [hframe, honly]
      rfl
  · have hmay : mayWrite x.role .itinCtl = true := may_both hr rfl
    refine ⟨?_, ?_, ?_, fun hc hp => ?_, fun h => ?_, ?_⟩
    · exact live_write hs ho (v := BitVec.ofNat 32 (1 * 2 ^ 24 + k.toNat)) rfl hmay
        ((itinCtlWrite_op k (countIn i s) (by decide) (by decide)).trans (congrArg (fun f => started (modTick f (countIn i s))) (funext (itinOp_write k))))
    · exact live_write hs ho rfl hmay (itinCtlWrite_op (op := 2) k (countIn i s) (by decide) (by decide))
    · exact live_write hs ho rfl hmay (itinCtlWrite_op (op := 3) k (countIn i s) (by decide) (by decide))
    · exact live_write hs ho rfl hmay (itinCtlWrite_arm (s := countIn i s) b hc hp)
    · exact live_write hs ho rfl hmay (itinCtlWrite_armed (s := countIn i s) b h)
    · exact live_write hs ho rfl hmay (itinCtlWrite_cancel b (countIn i s))
  · show live s (itinCheckDone s) = _
    rw [live_next hp, itinCheckDone_passed hc h]
    rfl
  · have honly := (devFault0_only 0x44 sevWarn (itinCheck s).1 0
      (modTick (fun y => { y with checking := false, status := BitVec.ofNat 4 (itinCheck s).1, failIdx := BitVec.ofNat 16 (itinCheck s).2 }) s)).trans
      (ledgerDevice_only 3 0 (detailOf []) _)
    refine ⟨_, ?_, honly, fun hlen => ?_⟩
    · show live s (itinCheckDone s) = _
      rw [itinCheckDone_refused hc h]
      exact honly.live_next hp rfl rfl rfl
    · unfold Recorded
      rw [ledgerDevice_glb]
      exact devFault0_recorded 0x44 sevWarn (itinCheck s).1 0 _ hlen

end Sys2Proof.Machine
end

section
/-! SUPPORT. A quiet tick boundary (R227, R228, R232, R238). -/

namespace Sys2Proof.Machine

open Sys2Proof

theorem forEach_fixed {α : Type} {l : List α} {f : α → State → State} {s : State} (h : ∀ a ∈ l, f a s = s) : forEach l f s = s := by
  induction l with
  | nil => rfl
  | cons a l ih => rw [forEach_cons, h a (List.mem_cons_self), ih fun b hb => h b (List.mem_cons_of_mem _ hb)]

theorem satAdd_zero {w : Nat} (x : BitVec w) : satAdd x 0 = x := by
  have hlt := x.isLt
  unfold satAdd
  rw [Nat.add_zero, Nat.min_eq_left (by omega), BitVec.ofNat_toNat, BitVec.setWidth_eq]

theorem flushed_zero (s : State) : flushed 0 s = s := by
  have h : satAdd s.tick.flushCnt 0 = s.tick.flushCnt := satAdd_zero _
  show { s with tick := { s.tick with flushCnt := satAdd s.tick.flushCnt 0 } } = s
  rw [h]

/-! ## What the boundary ends -/

theorem entryNow_mem {s : State} {e : Nat} {x : BitVec 128} (h : entryNow s e = some x) : x ∈ s.tick.active := by
  unfold entryNow at h
  split at h
  · next y hy =>
    split at h
    · obtain rfl := Option.some.inj h
      exact List.mem_of_getElem? hy
    · cases h
  · cases h

theorem dropDescs_none {s : State} {n : Nat} (h : ∀ d ∈ (epOf s n).descs, ∀ y, d.2 = some y → descLate s n y = false) : dropDescs n s = s := by
  refine if_pos (List.isEmpty_iff.mpr (List.filterMap_eq_nil_iff.mpr fun d hd => ?_))
  cases hy : d.2 with
  | none => rfl
  | some y => exact if_neg (by rw [h d hd y hy]; decide)

theorem lateSched_none {s : State} (h : ∀ p ∈ allPoints s, ∀ e ∈ (relOf s p).ctxs, ctxOpen e.2 = true → ctxSeries e.2 % 2 = 0) : lateSched s = s := by
  refine forEach_fixed fun p hp => ?_
  have hnone : ((relOf s p).ctxs.filter fun e => ctxOpen e.2 && decide (ctxSeries e.2 % 2 = 1)) = [] := by
    refine List.filter_eq_nil_iff.mpr fun e he hsel => ?_
    rw [Bool.and_eq_true, decide_eq_true_iff] at hsel
    have := h p hp e he hsel.1
    omega
  rw [hnone]
  rfl

theorem colMissed_none {s : State} (h : ∀ x ∈ s.tick.active, entKind x ≠ kindCol) (e : Nat) : colMissed s e = false := by
  unfold colMissed
  split
  · next x hx =>
    dsimp only
    rw [decide_eq_false (h x (entryNow_mem hx))]
    rfl
  · rfl

theorem colBoundary_none {s : State} (hcol : ∀ x ∈ s.tick.active, entKind x ≠ kindCol) (hslots : ∀ x ∈ s.col.slots, (slotOf s x.1).state ≠ .live)
    (hctx : ∀ p ∈ allPoints s, ∀ e ∈ (relOf s p).ctxs, ctxOpen e.2 = true → ctxSeries e.2 % 2 = 0) : colBoundary s = s := by
  have hmissed : (entriesNow s).filter (colMissed s) = [] :=
    List.filter_eq_nil_iff.mpr fun e _ he => absurd he (by rw [colMissed_none hcol]; decide)
  have hslot : forEach (s.col.slots.map (·.1)) slotBoundary s = s := by
    refine forEach_fixed fun k hk => ?_
    obtain ⟨x, hx, rfl⟩ := List.mem_map.mp hk
    exact if_pos (hslots x hx)
  unfold colBoundary
  rw [hmissed, hslot]
  exact lateSched_none hctx

theorem runHalt_none {s : State} {a : Nat} (h : (arrOf s a).run = none) : runHalt a s = s := by
  unfold runHalt
  rw [h]

theorem arrBoundary_none {s : State} (harr : ∀ x ∈ s.tick.active, entKind x ≠ kindArray) (hruns : ∀ a ∈ s.arr.arrays, (arrOf s a.1).run = none) :
    arrBoundary s = s := by
  have hhalt : forEach (s.arr.arrays.map (·.1)) runHalt s = s := by
    refine forEach_fixed fun a ha => ?_
    obtain ⟨y, hy, rfl⟩ := List.mem_map.mp ha
    exact runHalt_none (hruns y hy)
  unfold arrBoundary
  rw [hhalt]
  refine (congrArg (fun l => forEach l _ s) (List.filterMap_eq_nil_iff.mpr fun e _ => ?_)).trans rfl
  split
  · next x hx => exact if_neg fun h => harr x (entryNow_mem hx) h.1
  · rfl

/-! ## What the boundary flushes -/

/-- Empty queues of SCHED frames are flushed to empty queues, and nothing else changes. -/
theorem flushQueues_empty (l : List Nat) (s : State) (h : ∀ p ∈ l, queueOf s p 1 = []) :
    ∃ q, forEach l (fun p s => flushed (queueOf s p 1).length (dropQueue p 1 s)) s = modSwc (fun w => { w with queues := q }) s := by
  induction l generalizing s with
  | nil => exact ⟨s.swc.queues, rfl⟩
  | cons p l ih =>
    have hp := h p List.mem_cons_self
    rw [forEach_cons, hp, List.length_nil, flushed_zero]
    obtain ⟨hdrop, hqueues⟩ := dropQueue_empty hp
    obtain ⟨q, hq⟩ := ih (dropQueue p 1 s) fun r hr => (hqueues r 1).trans (h r (List.mem_cons_of_mem _ hr))
    rw [hq, hdrop]
    exact ⟨q, rfl⟩

theorem flushSched_none {s : State} (hin : s.swc.inbound = []) (hq : ∀ p, p < 128 → queueOf s p 1 = []) :
    ∃ q, flushSched s = modSwc (fun w => { w with queues := q }) s := by
  obtain ⟨q, h⟩ := flushQueues_empty (List.range 128) s fun p hp => hq p (List.mem_range.mp hp)
  have hin' : (modSwc (fun w => { w with queues := q }) s).swc.inbound = [] := hin
  have hflushed : flushSched s = modSwc (fun w => { w with queues := q, inbound := [] }) s := by
    unfold flushSched
    dsimp only
    rw [h, hin']
    exact flushed_zero _
  rw [hflushed]
  refine ⟨q, ?_⟩
  unfold modSwc
  rw [← hin]

theorem flushNodes_none {s : State} (h : s.swc.nodeIn = []) : flushNodes s = s := by
  have hsame : modSwc (fun w => { w with nodeIn := [] }) s = s := by
    unfold modSwc
    rw [← h]
  unfold flushNodes
  dsimp only
  rw [h]
  exact (congrArg (flushed 0) hsame).trans (flushed_zero s)

theorem flushDlvs_none {s : State} (h : ∀ e ∈ s.eps, (epOf s e.1).dlvQueue.filterMap schedDlv = []) : flushDlvs s = s := by
  refine forEach_fixed fun n hn => ?_
  obtain ⟨e, he, rfl⟩ := List.mem_map.mp hn
  exact if_pos (List.isEmpty_iff.mpr (h e he))

/-! ## What the boundary begins -/

theorem FaultOnly.modTick {s t : State} (h : FaultOnly s t) (f : TickUnit → TickUnit) : FaultOnly (modTick f s) (modTick f t) := by
  unfold FaultOnly at *
  rw [h]
  rfl

/-- The period's mismatch is noted, with its record, and no more. -/
theorem noteMismatch_only (s : State) : ∃ b, FaultOnly (modTick (fun t => { t with mismatch := b }) s) (noteMismatch s) := by
  unfold noteMismatch
  dsimp only
  split
  · exact ⟨s.tick.mismatch, FaultOnly.refl s⟩
  · next b _ =>
    have hrecord : ∀ c : Bool, FaultOnly s (if c then devFault0 0x45 sevError 0 0 s else s) := by
      intro c
      cases c with
      | false => exact FaultOnly.refl s
      | true => exact devFault0_only _ _ _ _ _
    exact ⟨_, (hrecord _).modTick _⟩

/-- The staged itinerary is the active one, counted from this tick. -/
def committedTick (s : State) : State := setRepro 2 (modTick (fun t => { t with
  pending := false, active := staged s, activeAll := t.stage, act0 := t.cfg0, act1 := t.cfg1, tc := t.now }) s)

theorem itinCommit_due {s : State} (hp : s.tick.pending = true) (h : s.tick.latchedTick ≤ s.tick.now) : itinCommit s = (true, committedTick s) := by
  unfold itinCommit
  exact if_neg (by rw [hp, decide_eq_false (BitVec.not_lt.mpr h)]; decide)

theorem itinCommit_none {s : State} (h : ¬ (s.tick.pending = true ∧ s.tick.latchedTick ≤ s.tick.now)) : itinCommit s = (false, s) := by
  unfold itinCommit
  refine if_pos ?_
  cases hp : s.tick.pending with
  | false => rfl
  | true =>
    rw [decide_eq_true (BitVec.not_le.mp fun hle => h ⟨hp, hle⟩)]
    rfl

theorem openTick_none {s : State} (h : ∀ x ∈ s.tick.active, entKind x ≠ kindCol) :
    openTick s = modArr boundarySlots (modTick (fun t => { t with started := [], finished := [] }) s) := by
  refine forEach_fixed fun e _ => ?_
  split
  · next x hx => exact if_neg (h x (entryNow_mem (s := modArr boundarySlots (modTick (fun t => { t with started := [], finished := [] }) s)) hx))
  · rfl

/-- The step counter, after the commit. -/
def stepAfter (committed : Bool) (s : State) : BitVec 64 :=
  if committed && s.tick.latchedLoad then s.tick.latchedStep else if tickIndex s = 0 then satAdd s.tick.step 1 else s.tick.step

theorem stepAdvance_eq (committed : Bool) (s : State) : stepAdvance committed s = modTick (fun t => { t with step := stepAfter committed s }) s := by
  unfold stepAdvance stepAfter
  split
  · rfl
  · split <;> rfl

/-- The state in which a boundary counts its new tick. -/
def countTick (s : State) : State := modTick (fun t => { t with now := satAdd (t.takeFrom.getD t.now) 1, takeFrom := none }) s

/-- The last actions of a boundary, where no plane map waits. -/
theorem boundaryEnds {committed : Bool} {s : State} (hplane : s.rte.planePending = false) (hcol : ∀ x ∈ s.tick.active, entKind x ≠ kindCol) :
    openTick (stepAdvance committed (planeCommit s))
      = modArr boundarySlots (modTick (fun t => { t with step := stepAfter committed s, started := [], finished := [] }) s) := by
  have hcommit : planeCommit s = s := if_pos (by rw [hplane]; rfl)
  have hstep := stepAdvance_eq committed s
  rw [hcommit, hstep]
  exact openTick_none (s := modTick (fun t => { t with step := stepAfter committed s }) s) hcol

/-- A boundary with nothing to drop: its flushes, its count and its commit come first. -/
theorem tickBoundary_quiet {s u v : State} {committed : Bool} (hact : arrBoundary (colBoundary (forEach (s.eps.map (·.1)) dropDescs s)) = s)
    (hflush : flushDlvs (flushNodes (flushSched s)) = u) (hcommit : itinCommit (countTick u) = (committed, v)) :
    tickBoundary s = openTick (stepAdvance committed (planeCommit (if committed then noteMismatch v else v))) := by
  unfold countTick at hcommit
  unfold tickBoundary
  dsimp only
  rw [hact, hflush, hcommit]

/-- Settles O25: the boundary drops and flushes nothing, so that its count, its commit and its new tick are left. -/
theorem tickBoundaryAdvancesAndCommits : Obligations.TickBoundaryAdvancesAndCommits := by
  intro s hp hdescs hslots hruns hnode hin hqueues hkinds hplane hdlvs hctx now due
  have hactive : ∀ x ∈ s.tick.active, entKind x ≠ kindCol ∧ entKind x ≠ kindArray := fun x hx => hkinds x (List.mem_append_left _ hx)
  have hact : arrBoundary (colBoundary (forEach (s.eps.map (·.1)) dropDescs s)) = s := by
    have hd : forEach (s.eps.map (·.1)) dropDescs s = s := by
      refine forEach_fixed fun n hn => ?_
      obtain ⟨e, he, rfl⟩ := List.mem_map.mp hn
      exact dropDescs_none (hdescs e he)
    rw [hd, colBoundary_none (fun x hx => (hactive x hx).1) hslots hctx, arrBoundary_none (fun x hx => (hactive x hx).2) hruns]
  obtain ⟨q, hq⟩ := flushSched_none hin hqueues
  have hflush : flushDlvs (flushNodes (flushSched s)) = modSwc (fun w => { w with queues := q }) s := by
    rw [hq, flushNodes_none (s := modSwc (fun w => { w with queues := q }) s) hnode, flushDlvs_none (s := modSwc (fun w => { w with queues := q }) s) hdlvs]
  show ∃ t, live s (tickBoundary s) = .next t ∧ _
  rw [live_next hp]
  by_cases hdue : due
  · have hcommit : itinCommit (countTick (modSwc (fun w => { w with queues := q }) s)) = (true, committedTick (countTick (modSwc (fun w => { w with queues := q }) s))) :=
      itinCommit_due hdue.1 hdue.2
    rw [tickBoundary_quiet hact hflush hcommit, if_pos rfl]
    obtain ⟨b, hnote⟩ := noteMismatch_only (committedTick (countTick (modSwc (fun w => { w with queues := q }) s)))
    generalize noteMismatch (committedTick (countTick (modSwc (fun w => { w with queues := q }) s))) = w at *
    obtain ⟨_, _, _, _, _, _, rfl⟩ := hnote.parts
    have hcol : ∀ x ∈ staged s, entKind x ≠ kindCol := fun x hx => (hkinds x (List.mem_append_right _ hx)).1
    rw [boundaryEnds (by exact hplane) hcol]
    refine ⟨_, rfl, rfl, rfl, rfl, rfl, fun _ => ⟨rfl, rfl, rfl, rfl, rfl, rfl, ?_⟩, fun h => absurd hdue h, fun _ hload => ?_, fun h => ?_, rfl, rfl, rfl, rfl⟩
    · exact bitAt_setRepro (by decide) _
    · exact if_pos hload
    · have hload := h.resolve_left fun h => h hdue
      exact if_neg (by rw [Bool.true_and]; exact fun h => absurd (hload.symm.trans h) (by decide))
  · rw [tickBoundary_quiet hact hflush (itinCommit_none hdue), if_neg (by decide),
      boundaryEnds (s := countTick (modSwc (fun w => { w with queues := q }) s)) hplane fun x hx => (hactive x hx).1]
    exact ⟨_, rfl, rfl, rfl, rfl, rfl, fun h => absurd h hdue, fun _ => ⟨rfl, rfl, rfl, rfl, rfl⟩, fun h => absurd h hdue, fun _ => rfl, rfl, rfl, rfl, rfl⟩

end Sys2Proof.Machine
end

section
/-! SUPPORT. The itinerary's entries and refreshes (R229, R231). -/

namespace Sys2Proof.Machine

open Sys2Proof

/-- An entry of this tick that may start runs, and is started. -/
theorem startEntry_starts {e kind : Nat} {x : BitVec 128} {s : State} (f : BitVec 128 → State → State) (hx : entryNow s e = some x) (hk : entKind x = kind)
    (hs : ¬ e ∈ s.tick.started) (hm : mayStart s = true) : startEntry e kind f s = f x (modTick (fun t => { t with started := t.started ++ [e] }) s) := by
  unfold startEntry
  rw [hx]
  refine if_neg ?_
  rintro (h | h | h)
  · exact h hk
  · exact hs (List.contains_iff_mem.mp h)
  · rw [hm] at h
    cases h

theorem xferEnd_ends {e : Nat} {x : BitVec 128} {s : State} (hx : entryNow s e = some x) (hf : ¬ e ∈ s.tick.finished) (hk : entKind x = kindXfer) :
    xferEnd e s = modEp (entPort x) (fun p => { p with
      descs := p.descs.map fun d => (d.1, d.2.map fun y => if y.sched = .released e then { y with sched := .ended } else y) })
      (modTick (fun t => { t with finished := t.finished ++ [e] }) s) := by
  unfold xferEnd
  rw [hx]
  dsimp only
  rw [if_neg (by
    rintro (h | h)
    · exact h.1 hk
    · exact hf (List.contains_iff_mem.mp h)), if_neg (by rw [hk]; decide)]

/-! ## Refreshes -/

/-- Channels that are each named once have refreshes taken off what they have pending, and no other changes. -/
theorem grantRefresh_all (n : Nat) {l : List Nat} (hl : l.Nodup) (s : State) : let t := grantRefresh n l s
    (∀ c, chanOf t c = if c ∈ l then { chanOf s c with pendingRefresh := (chanOf s c).pendingRefresh - n } else chanOf s c)
    ∧ t = { s with mem := { s.mem with channels := t.mem.channels } } := by
  induction l generalizing s with
  | nil => exact ⟨fun c => (if_neg List.not_mem_nil).symm, rfl⟩
  | cons a l ih =>
    obtain ⟨ha, hl⟩ := List.nodup_cons.mp hl
    obtain ⟨hchans, hframe⟩ := ih hl (modChan a (fun ch => { ch with pendingRefresh := ch.pendingRefresh - n }) s)
    have hcons : grantRefresh n (a :: l) s = grantRefresh n l (modChan a (fun ch => { ch with pendingRefresh := ch.pendingRefresh - n }) s) := rfl
    rw [hcons]
    generalize grantRefresh n l (modChan a (fun ch => { ch with pendingRefresh := ch.pendingRefresh - n }) s) = t at *
    refine ⟨fun c => (hchans c).trans ?_, hframe⟩
    by_cases hc : c = a
    · subst hc
      rw [if_neg ha, if_pos List.mem_cons_self, chanOf_modChan]
    · rw [chanOf_modChan_other _ s hc]
      exact if_congr (by rw [List.mem_cons, or_iff_right hc]) rfl rfl

theorem chansOf_nodup (p : Nat → Bool) (k : Nat) : (((List.range 16).filter p).map (· + 16 * k)).Nodup :=
  (List.nodup_range.filter p).map fun _ _ h => Nat.add_right_cancel h

theorem mem_chansOf {p : Nat → Bool} {k c : Nat} : c ∈ ((List.range 16).filter p).map (· + 16 * k) ↔ c / 16 = k ∧ p (c % 16) = true := by
  rw [List.mem_map]
  constructor
  · rintro ⟨j, hj, rfl⟩
    obtain ⟨hj, hp⟩ := List.mem_filter.mp hj
    have hj := List.mem_range.mp hj
    have hdiv : (j + 16 * k) / 16 = k := by omega
    have hmod : (j + 16 * k) % 16 = j := by omega
    exact ⟨hdiv, by rw [hmod]; exact hp⟩
  · rintro ⟨hk, hp⟩
    exact ⟨c % 16, List.mem_filter.mpr ⟨List.mem_range.mpr (Nat.mod_lt _ (by decide)), hp⟩, by omega⟩

theorem mem_stackChans {k c : Nat} : c ∈ stackChans k ↔ c / 16 = k := by
  have h := mem_chansOf (p := fun _ => true) (k := k) (c := c)
  rw [List.filter_true] at h
  exact h.trans (and_iff_left rfl)

theorem stackChans_nodup (k : Nat) : (stackChans k).Nodup := by
  have h := chansOf_nodup (fun _ => true) k
  rw [List.filter_true] at h
  exact h

/-! ## A forced refresh -/

/-- No access has reserved slots of a channel. -/
theorem displaced_none {s : State} {c mask : Nat} (hruns : ∀ a ∈ s.arr.arrays, a.2.run = none) (hw : tabGet [] s.arr.writeSlots c = []) :
    displaced s c mask = [] := by
  unfold displaced
  dsimp only
  rw [hw]
  refine (congrArg (fun l : List Displaced => List.foldl (fun l x => displacedIn x l) [] (l ++ [])) (List.flatMap_eq_nil_iff.mpr fun a ha => ?_)).trans rfl
  rw [hruns a ha]

theorem core_next {s t : State} {ok : Bool} {unit : String} (h : Clocked s) (hok : ok = true) : coreIf ok unit s t = .next (keepFixed s t) := by
  have hruns : coreRuns s = true := by
    unfold coreRuns
    rw [h.1, decide_eq_true h.2]
    rfl
  unfold coreIf coreLive
  rw [if_pos hok, if_pos hruns]

/-- The slots of a forced refresh are taken from cycle `at_` of the tick on. -/
def refreshSlots (c at_ : Nat) (s : State) : State := modArr (fun u => { u with
  slotsTaken := tabMod 0 u.slotsTaken c (· ||| slotMask at_ (min (at_ + 448) (actPeriod s)))
  forcedOver := tabSet 0 u.forcedOver c (at_ + 448 - min (at_ + 448) (actPeriod s)) }) s

theorem refreshSlots_only {s u : State} (c at_ : Nat) (h : FaultOnly s u) : let t := refreshSlots c at_ u
    FaultOnly { s with arr := { s.arr with slotsTaken := t.arr.slotsTaken, forcedOver := t.arr.forcedOver } } t := by
  unfold FaultOnly at *
  dsimp only
  rw [h]
  rfl

/-- A forced refresh that displaces no access. -/
theorem forcedRefresh_all {c : Nat} {s : State} (hruns : ∀ a ∈ s.arr.arrays, a.2.run = none) (hw : tabGet [] s.arr.writeSlots c = []) :
    ∃ at_ u, at_ < max 1 (actPeriod s) ∧ FaultOnly (setRepro 4 (modChan c (fun ch => { ch with pendingRefresh := 7 }) s)) u
      ∧ (s.glb.faults.length < 1024 → Recorded u 0x46 sevWarn (c / 16)) ∧ forcedRefresh c s = refreshSlots c at_ u := by
  have honly := devFault0_only 0x46 sevWarn (c / 16) 0 (setRepro 4 (modChan c (fun ch => { ch with pendingRefresh := 7 }) (takeFree s).2))
  have hrec := devFault0_recorded 0x46 sevWarn (c / 16) 0 (setRepro 4 (modChan c (fun ch => { ch with pendingRefresh := 7 }) (takeFree s).2))
  have hunfold : forcedRefresh c s =
      let at_ := (takeFree s).1.toNat % max 1 (actPeriod s)
      let u := devFault0 0x46 sevWarn (c / 16) 0 (setRepro 4 (modChan c (fun ch => { ch with pendingRefresh := 7 }) (takeFree s).2))
      let end_ := min (at_ + 448) (actPeriod s)
      refreshTakes c (slotMask at_ end_) ((3 * end_ + 3) / 4) (modArr (fun y => { y with
        slotsTaken := tabMod 0 y.slotsTaken c (· ||| slotMask at_ end_), forcedOver := tabSet 0 y.forcedOver c (at_ + 448 - end_) }) u) := rfl
  refine ⟨(takeFree s).1.toNat % max 1 (actPeriod s), _, Nat.mod_lt _ (by omega), honly, hrec, ?_⟩
  rw [hunfold]
  dsimp only
  generalize devFault0 0x46 sevWarn (c / 16) 0 (setRepro 4 (modChan c (fun ch => { ch with pendingRefresh := 7 }) (takeFree s).2)) = u at honly ⊢
  have hperiod : actPeriod u = actPeriod s := by rw [honly]; rfl
  have harr : u.arr = s.arr := by rw [honly]; rfl
  have hnone : ∀ f mask, (f u.arr).arrays = s.arr.arrays → (f u.arr).writeSlots = s.arr.writeSlots → displaced (modArr f u) c mask = [] := fun f mask ha hws =>
    displaced_none (s := modArr f u) (by rw [modArr_arr, ha]; exact hruns) (by rw [modArr_arr, hws]; exact hw)
  unfold refreshTakes
  rw [hnone _ _ (by rw [harr]) (by rw [harr]), ← hperiod]
  rfl

/-- Settles O26: entries by what they start and end, refreshes by what the channels have pending. -/
theorem entriesReleaseEndAndRefresh : Obligations.EntriesReleaseEndAndRefresh := by
  intro s hp
  refine ⟨fun e x hx hs hm => ⟨fun hk => ?_, fun hk => ?_⟩, fun e x hx hf hk => ?_, fun c hclock hc hruns hw => ?_, fun k hk hauto hstate => ?_⟩
  · show live s (startEntry _ _ _ _) = _
    rw [live_next hp, startEntry_starts _ hx hk hs hm]
  · show ∃ t, live s (startEntry _ _ _ _) = .next t ∧ _
    rw [live_next hp, startEntry_starts _ hx hk hs hm]
    obtain ⟨hchans, hframe⟩ := grantRefresh_all ((entEnd x - entStart x) / 448) (chansOf_nodup (fun j => bitAt (entChans x) j) (entStack x))
      (modTick (fun t => { t with started := t.started ++ [e] }) s)
    generalize grantRefresh _ _ _ = t at *
    refine ⟨t, ?_, ?_, fun c _ => (hchans c).trans (if_congr mem_chansOf rfl rfl), ?_⟩
    · rw [hframe]; rfl
    · rw [hframe]; rfl
    · rw [hframe]; rfl
  · show live s (xferEnd e s) = _
    rw [live_next hp, xferEnd_ends hx hf hk]
    rfl
  · obtain ⟨at_, u, hat, honly, hrec, hu⟩ := forcedRefresh_all (c := c) hruns hw
    have harr : u.arr = s.arr := by rw [honly]; rfl
    have hperiod : actPeriod u = actPeriod s := by rw [honly]; rfl
    refine ⟨refreshSlots c at_ u, at_, ?_, hat, ?_, fun d hd => ?_, ?_, fun h => hrec h⟩
    · show coreIf (decide (c < 384)) "channel" s (forcedRefresh c s) = _
      rw [core_next hclock (decide_eq_true hc), hu, honly]
      rfl
    · show tabGet 0 (tabMod 0 u.arr.slotsTaken c (· ||| slotMask at_ (min (at_ + 448) (actPeriod u)))) c = _
      rw [tabGet_mod_same, harr, hperiod]
    · show tabGet 0 (tabMod 0 u.arr.slotsTaken c (· ||| slotMask at_ (min (at_ + 448) (actPeriod u)))) d = _
      rw [tabGet_mod_other _ _ _ hd, harr]
    · exact refreshSlots_only c at_ honly
  · obtain ⟨hchans, hframe⟩ := grantRefresh_all 8 (stackChans_nodup k) (setRepro 3 s)
    have hrefresh : autoRefresh k s = grantRefresh 8 (stackChans k) (setRepro 3 s) := by
      unfold autoRefresh
      rw [if_pos (by rw [hauto, decide_eq_true hstate]; rfl)]
    show ∃ t, liveIf (decide (k < 24)) "stack" s (autoRefresh k s) = .next t ∧ _
    rw [liveIf_next (decide_eq_true hk) hp, hrefresh]
    generalize grantRefresh _ _ _ = t at *
    refine ⟨t, ?_, ?_, fun c hc => ?_, fun c hc => ?_, ?_⟩
    · rw [hframe]; rfl
    · rw [hframe]; exact bitAt_setRepro (by decide) s
    · rw [hchans, if_pos (mem_stackChans.mpr hc)]
      rfl
    · rw [hchans, if_neg fun h => hc (mem_stackChans.mp h)]
      rfl
    · rw [hframe]; rfl

end Sys2Proof.Machine
end

section
/-! SUPPORT. The changes of the sync state, as far as beacons and timeouts make them (R218, R220, R230). -/

namespace Sys2Proof.Machine

open Sys2Proof

/-! ## Carriers -/

theorem carrierOf_modCarrier (k : Nat) (f : Carrier → Carrier) (s : State) : carrierOf (modCarrier k f s) k = f (carrierOf s k) := tabGet_mod_same _ _ _ _

theorem carrierOf_modCarrier_other {k m : Nat} (f : Carrier → Carrier) (s : State) (h : m ≠ k) : carrierOf (modCarrier k f s) m = carrierOf s m :=
  tabGet_mod_other _ _ _ h

theorem modCarrier_modCarrier (k : Nat) (f g : Carrier → Carrier) (s : State) : modCarrier k g (modCarrier k f s) = modCarrier k (fun c => g (f c)) s := by
  unfold modCarrier
  rw [modTick_modTick]
  exact congrArg (fun h => modTick h s) (funext fun t => by rw [tabMod_mod])

/-- `t` is `s` after changes of the sync state: of the carriers, what counts higher classes alone differs. -/
structure SyncMoves (s t : State) : Prop where
  only : TickOnly s t
  period : t.tick.act0 = s.tick.act0
  carriers : ∀ m, carrierOf t m = { carrierOf s m with higher := (carrierOf t m).higher }

theorem SyncMoves.refl (s : State) : SyncMoves s s := ⟨TickOnly.refl s, rfl, fun _ => rfl⟩

theorem SyncMoves.trans {s t u : State} (h : SyncMoves s t) (k : SyncMoves t u) : SyncMoves s u :=
  ⟨h.only.trans k.only, k.period.trans h.period, fun m => by rw [k.carriers m, h.carriers m]⟩

theorem SyncMoves.either {s t u : State} (c : Prop) [Decidable c] (h : SyncMoves s t) (k : SyncMoves s u) : SyncMoves s (if c then t else u) := by
  split
  · exact h
  · exact k

theorem FaultOnly.syncMoves {s t : State} (h : FaultOnly s t) : SyncMoves s t := by
  have htick : t.tick = s.tick := by rw [h]
  refine ⟨h.tickOnly, congrArg _ htick, fun m => ?_⟩
  unfold carrierOf
  rw [htick]

/-- A change of the tick unit that leaves its period and its carriers. -/
theorem modTick_syncMoves {f : TickUnit → TickUnit} {s : State} (ha : (f s.tick).act0 = s.tick.act0) (hc : (f s.tick).carriers = s.tick.carriers) :
    SyncMoves s (modTick f s) := by
  have hcarrier : ∀ m, carrierOf (modTick f s) m = carrierOf s m := fun m => congrArg (fun c => tabGet ({} : Carrier) c m) hc
  exact ⟨modTick_tickOnly f s, ha, fun m => by rw [hcarrier m]⟩

theorem modHigher_syncMoves (k : Nat) (f : Nat → Nat) (s : State) : SyncMoves s (modCarrier k (fun c => { c with higher := f c.higher }) s) := by
  refine ⟨modTick_tickOnly _ s, rfl, fun m => ?_⟩
  by_cases hm : m = k
  · rw [hm, carrierOf_modCarrier]
  · rw [carrierOf_modCarrier_other _ s hm]

/-- What every change of the sync state begins with. -/
def syncEntered (new : SyncState) (s : State) : State :=
  modTick (fun t => { t with
    state := new, goodSyncs := 0, takeFrom := if new = .acquire ∨ new = .master then none else t.takeFrom
    carriers := t.carriers.map fun e => (e.1, { e.2 with higher := 0 }) })
    (if (s.tick.state = .locked ∨ s.tick.state = .master) ∧ (new = .holdover ∨ new = .acquire) then setRepro 5 s else s)

theorem modState_syncMoves (new : SyncState) (take : Option (BitVec 64)) (s : State) : SyncMoves s (modTick (fun t => { t with
    state := new, goodSyncs := 0, takeFrom := take, carriers := t.carriers.map fun e => (e.1, { e.2 with higher := 0 }) }) s) := by
  have hmap : ∀ m, tabGet ({} : Carrier) (s.tick.carriers.map fun e => (e.1, { e.2 with higher := 0 })) m = { carrierOf s m with higher := 0 } :=
    tabGet_map (f := fun c : Carrier => { c with higher := 0 }) rfl _
  refine ⟨modTick_tickOnly _ _, rfl, fun m => (hmap m).trans ?_⟩
  exact congrArg (fun n => { carrierOf s m with higher := n }) (congrArg Carrier.higher (hmap m)).symm

theorem syncEntered_all (new : SyncState) (s : State) : (syncEntered new s).tick.state = new ∧ (syncEntered new s).tick.upstream = s.tick.upstream
    ∧ (syncEntered new s).tick.err = s.tick.err ∧ (syncEntered new s).glb = s.glb ∧ (syncEntered new s).tick.act0 = s.tick.act0 := by
  unfold syncEntered
  by_cases h : (s.tick.state = .locked ∨ s.tick.state = .master) ∧ (new = .holdover ∨ new = .acquire)
  · rw [if_pos h]
    exact ⟨rfl, rfl, rfl, rfl, rfl⟩
  · rw [if_neg h]
    exact ⟨rfl, rfl, rfl, rfl, rfl⟩

theorem syncEntered_syncMoves (new : SyncState) (s : State) : SyncMoves s (syncEntered new s) := by
  unfold syncEntered
  by_cases h : (s.tick.state = .locked ∨ s.tick.state = .master) ∧ (new = .holdover ∨ new = .acquire)
  · rw [if_pos h]
    exact (modTick_syncMoves (f := fun t => { t with repro := t.repro ||| BitVec.ofNat 8 (2 ^ 5) }) rfl rfl).trans (modState_syncMoves new _ _)
  · rw [if_neg h]
    exact modState_syncMoves new _ s

theorem enterSync_acquire_eq (promoted : Bool) (s : State) : enterSync .acquire promoted s = devFault0 0x41 sevError s.tick.upstream.toNat 0
    (modTick (fun t => { t with upstream := 0xFF, stratum := 31, mclass := 0, forcedSeen := false }) (syncEntered .acquire s)) := rfl

theorem enterSync_holdover_eq (promoted : Bool) (s : State) : enterSync .holdover promoted s = devFault0 0x40 sevWarn s.tick.upstream.toNat 0 (syncEntered .holdover s) := rfl

theorem enterSync_locked_eq (promoted : Bool) (s : State) : enterSync .locked promoted s = syncEntered .locked s := rfl

theorem enterSync_promoted_eq (s : State) : enterSync .master true s = devFault0 0x42 sevWarn 0 0
    (modTick (fun t => { t with upstream := 0xFF, stratum := 0, mismatch := false }) (syncEntered .master s)) := rfl

theorem enterSync_acquire_moves (promoted : Bool) (s : State) : SyncMoves s (enterSync .acquire promoted s) := by
  rw [enterSync_acquire_eq]
  exact ((syncEntered_syncMoves _ s).trans (modTick_syncMoves rfl rfl)).trans (devFault0_only _ _ _ _ _).syncMoves

theorem enterSync_holdover_moves (promoted : Bool) (s : State) : SyncMoves s (enterSync .holdover promoted s) := by
  rw [enterSync_holdover_eq]
  exact (syncEntered_syncMoves _ s).trans (devFault0_only _ _ _ _ _).syncMoves

theorem enterSync_acquire_err (promoted : Bool) (s : State) : (enterSync .acquire promoted s).tick.err = s.tick.err := by
  rw [enterSync_acquire_eq, devFault0_only]
  exact (syncEntered_all .acquire s).2.2.1

/-! ## Upstreams -/

theorem takeUpstream_moves (k : Nat) (s : State) : SyncMoves s (takeUpstream k s) := by
  unfold takeUpstream
  split
  · exact modTick_syncMoves rfl rfl
  · exact modTick_syncMoves rfl rfl

/-- What a module takes as upstream that has it as upstream. -/
theorem takeUpstream_same {k : Nat} {s : State} (h : s.tick.upstream.toNat = k) :
    takeUpstream k s = modTick (fun t => { t with stratum := BitVec.ofNat 5 (min 31 (shownStratum s k + 1)) }) s := if_pos h

theorem lockTo_moves (k : Nat) (s : State) : SyncMoves s (lockTo k s) := by
  have hstart := (SyncMoves.refl s).either (s.tick.state = .locked) (syncEntered_syncMoves .locked s)
  unfold lockTo
  dsimp only
  exact (hstart.trans (takeUpstream_moves k _)).trans (modTick_syncMoves rfl rfl)

theorem reselect_moves (s : State) : SyncMoves s (reselect s) := by
  unfold reselect
  cases s.tick.state with
  | acquire =>
    cases bestSource s with
    | none => exact modTick_syncMoves rfl rfl
    | some k => exact takeUpstream_moves k s
  | locked =>
    cases bestSource s with
    | none => exact enterSync_holdover_moves false s
    | some k =>
      exact (enterSync_acquire_moves false s).either _ (lockTo_moves k s)
  | holdover => exact SyncMoves.refl s
  | master => exact SyncMoves.refl s

theorem noteMismatch_moves (s : State) : SyncMoves s (noteMismatch s) := by
  obtain ⟨b, h⟩ := noteMismatch_only s
  exact (modTick_syncMoves (f := fun t => { t with mismatch := b }) rfl rfl).trans h.syncMoves

/-! ## A SYNC -/

theorem correct_keeps (e : Int) (t : TickUnit) : (correct e t).act0 = t.act0 ∧ (correct e t).carriers = t.carriers ∧ (correct e t).state = t.state
    ∧ (correct e t).err = errField e ∧ (correct e t).upstream = t.upstream := by
  unfold correct
  split <;> exact ⟨rfl, rfl, rfl, rfl, rfl⟩

theorem correct_moves (e : Int) (s : State) : SyncMoves s (modTick (correct e) s) :=
  modTick_syncMoves (correct_keeps e _).1 (correct_keeps e _).2.1

theorem acquireSync_moves (k : Nat) (b : BitVec 256) (own : Nat) (s : State) : SyncMoves s (acquireSync k b own s) := by
  obtain ⟨hact, hcarriers, -⟩ := correct_keeps (errOf s k b own) s.tick
  unfold acquireSync
  dsimp only
  refine SyncMoves.either _ (SyncMoves.trans ?_ ((lockTo_moves k _).trans (modTick_syncMoves ?_ ?_))) ?_
  · exact modTick_syncMoves hact hcarriers
  · rfl
  · rfl
  · exact modTick_syncMoves hact hcarriers

theorem lockedSync_moves (k : Nat) (b : BitVec 256) (own : Nat) (s : State) : SyncMoves s (lockedSync k b own s) := by
  have hcorrect := correct_moves (errOf s k b own) s
  unfold lockedSync
  dsimp only
  split
  · exact hcorrect.trans (enterSync_acquire_moves false _)
  · split
    · exact hcorrect.trans (devFault0_only _ _ _ _ _).syncMoves
    · exact hcorrect

theorem holdoverSync_moves (k : Nat) (b : BitVec 256) (own : Nat) (s : State) : SyncMoves s (holdoverSync k b own s) := by
  have hcorrect := correct_moves (errOf s k b own) s
  unfold holdoverSync
  dsimp only
  split
  · exact hcorrect.trans (lockTo_moves k _)
  · exact hcorrect.trans (enterSync_acquire_moves false _)

theorem masterSync_moves (k : Nat) (s : State) : SyncMoves s (masterSync k s) := by
  have hhigher := modHigher_syncMoves k (· + 1) s
  unfold masterSync
  dsimp only
  split
  · split
    · exact hhigher.trans (enterSync_acquire_moves false _)
    · exact hhigher
  · exact modHigher_syncMoves k (fun _ => 0) s

theorem noteForced_moves (k : Nat) (s : State) : SyncMoves s (noteForced k s) := by
  unfold noteForced
  split
  · exact modTick_syncMoves rfl rfl
  · exact SyncMoves.refl s

/-- What a SYNC does once it is noted. -/
def syncTaken (k : Nat) (b : BitVec 256) (own : Nat) (s : State) : State :=
  match s.tick.state with
  | .master => masterSync k s
  | .holdover => noteMismatch (if qualifies s k && decide (k ≠ chainOut) then holdoverSync k b own s else s)
  | _ =>
    let s := reselect s
    let mine := decide (s.tick.upstream.toNat = k)
    noteMismatch (match s.tick.state with
      | .acquire => if mine then acquireSync k b own s else s
      | .locked => if mine then lockedSync k b own s else s
      | _ => s)

theorem syncBeacon_taken {k own : Nat} {f : Frame} {b : BitVec 256} {s : State} (hb : beaconIn s k 0 f = some b) (hi : ignoresBeacons s = false) :
    syncBeacon k f own s = syncTaken k b own (noteForced k (modCarrier k (fun c => { c with heard := true, sync := some b, src := wbSrc f.wb }) s)) := by
  unfold syncBeacon
  rw [hb]
  exact if_neg (by rw [hi]; decide)

/-- What a SYNC does in ACQUIRE and LOCKED, after the upstream is chosen again. -/
def syncFollowed (k : Nat) (b : BitVec 256) (own : Nat) (s : State) : State :=
  match s.tick.state with
  | .acquire => if s.tick.upstream.toNat = k then acquireSync k b own s else s
  | .locked => if s.tick.upstream.toNat = k then lockedSync k b own s else s
  | _ => s

theorem syncFollowed_moves (k : Nat) (b : BitVec 256) (own : Nat) (s : State) : SyncMoves s (syncFollowed k b own s) := by
  unfold syncFollowed
  cases s.tick.state with
  | acquire =>
    dsimp only
    split
    · exact acquireSync_moves k b own s
    · exact SyncMoves.refl s
  | locked =>
    dsimp only
    split
    · exact lockedSync_moves k b own s
    · exact SyncMoves.refl s
  | holdover => exact SyncMoves.refl s
  | master => exact SyncMoves.refl s

theorem syncTaken_follows {k own : Nat} {b : BitVec 256} {s : State} (h : s.tick.state = .acquire ∨ s.tick.state = .locked) :
    syncTaken k b own s = noteMismatch (syncFollowed k b own (reselect s)) := by
  have hsame : ∀ u : State, (match u.tick.state with
      | .acquire => if decide (u.tick.upstream.toNat = k) then acquireSync k b own u else u
      | .locked => if decide (u.tick.upstream.toNat = k) then lockedSync k b own u else u
      | _ => u) = syncFollowed k b own u := by
    intro u
    unfold syncFollowed
    cases u.tick.state <;> simp only [decide_eq_true_eq]
  unfold syncTaken
  rcases h with h | h
  · rw [h]
    exact congrArg noteMismatch (hsame (reselect s))
  · rw [h]
    exact congrArg noteMismatch (hsame (reselect s))

theorem syncTaken_moves (k : Nat) (b : BitVec 256) (own : Nat) (s : State) : SyncMoves s (syncTaken k b own s) := by
  have hfollows : s.tick.state = .acquire ∨ s.tick.state = .locked → SyncMoves s (syncTaken k b own s) := by
    intro h
    rw [syncTaken_follows h]
    exact ((reselect_moves s).trans (syncFollowed_moves k b own _)).trans (noteMismatch_moves _)
  cases hst : s.tick.state with
  | acquire => exact hfollows (.inl hst)
  | locked => exact hfollows (.inr hst)
  | holdover =>
    unfold syncTaken
    rw [hst]
    dsimp only
    split
    · exact (holdoverSync_moves k b own s).trans (noteMismatch_moves _)
    · exact noteMismatch_moves _
  | master =>
    unfold syncTaken
    rw [hst]
    exact masterSync_moves k s

end Sys2Proof.Machine
end

section
/-! SUPPORT. Beacons out and in, and the timeouts of the sync states (R216-R218, R220). -/

namespace Sys2Proof.Machine

open Sys2Proof

/-! ## A SYNC from the upstream -/

theorem foldl_picks {α : Type} {f : Option α → α → Option α} (hf : ∀ b a, f b a = some a ∨ f b a = b) {l : List α} {b : Option α} {k : α}
    (h : l.foldl f b = some k) : k ∈ l ∨ b = some k := by
  induction l generalizing b with
  | nil => exact .inr h
  | cons a l ih =>
    rcases ih h with hk | hk
    · exact .inl (List.mem_cons_of_mem _ hk)
    · rcases hf b a with hp | hp
      · exact .inl (by rw [hp] at hk; rw [Option.some.inj hk]; exact List.mem_cons_self)
      · exact .inr (hp.symm.trans hk)

theorem bestSource_qualifies {s : State} {k : Nat} (h : bestSource s = some k) : qualifies s k = true := by
  refine (List.mem_filter.mp ((foldl_picks (fun b a => ?_) h).resolve_right (by simp))).2
  cases b with
  | none => exact .inl rfl
  | some b =>
    dsimp only
    split
    · exact .inl rfl
    · exact .inr rfl

theorem bestSource_none {s : State} (h : ∀ k, k ≤ chainIn → qualifies s k = false) : bestSource s = none := by
  have hnone : upstreamOrder.filter (qualifies s) = [] := by
    refine List.filter_eq_nil_iff.mpr fun k hk => ?_
    have hle : k ≤ chainIn := by
      rcases List.mem_cons.mp hk with rfl | hk
      · exact le_rfl
      · exact (List.mem_range.mp hk).le
    rw [h k hle]
    decide
  unfold bestSource
  rw [hnone]
  rfl

theorem noteMismatch_tick (s : State) : ∃ b, (noteMismatch s).tick = { s.tick with mismatch := b } := by
  obtain ⟨b, h⟩ := noteMismatch_only s
  exact ⟨b, by rw [h]; rfl⟩

theorem upstreamTick_congr {s t : State} {k : Nat} (hp : t.tick.act0 = s.tick.act0) (hc : carrierOf t k = carrierOf s k) (b : BitVec 256) (own : Nat) :
    upstreamTick t k b own = upstreamTick s k b own := by
  unfold upstreamTick errOf actPeriod
  rw [hp, hc]

/-- A SYNC in ACQUIRE: the corrections, and how many good ones have come in a row. -/
def syncCounted (e : Int) (good : Bool) (s : State) : State := modTick (fun t => { correct e t with goodSyncs := if good then t.goodSyncs + 1 else 0 }) s

theorem syncCounted_keeps (e : Int) (good : Bool) (s : State) : (syncCounted e good s).tick.act0 = s.tick.act0 ∧ ∀ k, carrierOf (syncCounted e good s) k = carrierOf s k :=
  ⟨(correct_keeps e s.tick).1, fun k => congrArg (fun c => tabGet ({} : Carrier) c k) (correct_keeps e s.tick).2.1⟩

theorem acquireSync_eq (k : Nat) (b : BitVec 256) (own : Nat) (s : State) : acquireSync k b own s =
    let u := syncCounted (errOf s k b own) (decide (-lim2ns ≤ errOf s k b own) && decide (errOf s k b own ≤ lim2ns)) s
    if 16 ≤ u.tick.goodSyncs ∧ 16 ≤ (carrierOf u k).samples.length then
      modTick (fun t => { t with takeFrom := some (upstreamTick u k b own) }) (lockTo k u)
    else u := rfl

theorem lockTo_state (k : Nat) (s : State) : (lockTo k s).tick.state = .locked := by
  have htake : ∀ u : State, (takeUpstream k u).tick.state = u.tick.state := by
    intro u
    unfold takeUpstream
    split <;> rfl
  refine (htake _).trans ?_
  split
  · assumption
  · exact (syncEntered_all .locked s).1

/-- A module that is locked to its sender corrects by a SYNC, and loses lock beyond 64 ns. -/
theorem syncTaken_locked {k own : Nat} {b : BitVec 256} {s : State} (hst : s.tick.state = .locked) (hup : s.tick.upstream.toNat = k) (hbest : bestSource s = some k) :
    (syncTaken k b own s).tick.err = errField (errOf s k b own)
    ∧ (syncTaken k b own s).tick.state = if lim64ns < errOf s k b own ∨ errOf s k b own < -lim64ns then .acquire else .locked := by
  have hlock : lockTo k s = modTick (fun t => { t with stratum := BitVec.ofNat 5 (min 31 (shownStratum s k + 1)), mclass := BitVec.ofNat 2 (shownClass s k) }) s := by
    unfold lockTo
    dsimp only
    rw [if_pos hst, takeUpstream_same hup]
    rfl
  have hsel : reselect s = lockTo k s := by
    unfold reselect
    rw [hst, hbest]
    exact if_neg (by rw [hup, if_pos (bestSource_qualifies hbest)]; exact lt_irrefl _)
  have hfollow : ∀ u : State, u.tick.state = .locked → u.tick.upstream.toNat = k → errOf u k b own = errOf s k b own → 
      (syncFollowed k b own u).tick.err = errField (errOf s k b own)
      ∧ (syncFollowed k b own u).tick.state = if lim64ns < errOf s k b own ∨ errOf s k b own < -lim64ns then .acquire else .locked := by
    intro u hu hk he
    obtain ⟨-, -, hstate, herr, -⟩ := correct_keeps (errOf s k b own) u.tick
    have htaken : syncFollowed k b own u = lockedSync k b own u := by
      unfold syncFollowed
      rw [hu]
      exact if_pos hk
    rw [htaken]
    unfold lockedSync
    dsimp only
    rw [he]
    by_cases hfar : lim64ns < errOf s k b own ∨ errOf s k b own < -lim64ns
    · rw [if_pos hfar, if_pos hfar]
      exact ⟨(enterSync_acquire_err false _).trans herr, (enterSync_acquire _).1⟩
    · rw [if_neg hfar, if_neg hfar]
      by_cases hnear : lim4ns < errOf s k b own ∨ errOf s k b own < -lim4ns
      · rw [if_pos hnear, devFault0_only]
        exact ⟨herr, hstate.trans hu⟩
      · rw [if_neg hnear]
        exact ⟨herr, hstate.trans hu⟩
  obtain ⟨m, hnote⟩ := noteMismatch_tick (syncFollowed k b own (reselect s))
  rw [syncTaken_follows (.inr hst), hnote, hsel, hlock]
  exact hfollow _ hst hup rfl

/-- A module in ACQUIRE locks at the 16th good SYNC of its upstream, and takes its count. -/
theorem syncTaken_locks {k own : Nat} {b : BitVec 256} {s : State} (hst : s.tick.state = .acquire) (hup : s.tick.upstream.toNat = k) (hbest : bestSource s = some k)
    (hgood : 15 ≤ s.tick.goodSyncs) (hsamples : 16 ≤ (carrierOf s k).samples.length) (hlo : -lim2ns ≤ errOf s k b own) (hhi : errOf s k b own ≤ lim2ns) :
    (syncTaken k b own s).tick.state = .locked ∧ (syncTaken k b own s).tick.takeFrom = some (upstreamTick s k b own) := by
  have hsel : reselect s = modTick (fun t => { t with stratum := BitVec.ofNat 5 (min 31 (shownStratum s k + 1)) }) s := by
    unfold reselect
    rw [hst, hbest]
    exact takeUpstream_same hup
  have hfollow : ∀ u : State, u.tick.state = .acquire → u.tick.upstream.toNat = k → u.tick.act0 = s.tick.act0 → carrierOf u k = carrierOf s k →
      u.tick.goodSyncs = s.tick.goodSyncs →
      (syncFollowed k b own u).tick.state = .locked ∧ (syncFollowed k b own u).tick.takeFrom = some (upstreamTick s k b own) := by
    intro u hu hk hact hcarrier hsyncs
    have he : errOf u k b own = errOf s k b own := by
      unfold errOf actPeriod
      rw [hact, hcarrier]
    have htaken : syncFollowed k b own u = acquireSync k b own u := by
      unfold syncFollowed
      rw [hu]
      exact if_pos hk
    rw [htaken, acquireSync_eq, he, decide_eq_true hlo, decide_eq_true hhi]
    have hcounted : (syncCounted (errOf s k b own) (true && true) u).tick.goodSyncs = u.tick.goodSyncs + 1 := rfl
    have hcarrierC : carrierOf (syncCounted (errOf s k b own) (true && true) u) k = carrierOf s k := (syncCounted_keeps _ _ u).2 k |>.trans hcarrier
    have hactC : (syncCounted (errOf s k b own) (true && true) u).tick.act0 = s.tick.act0 := (syncCounted_keeps _ _ u).1.trans hact
    generalize syncCounted (errOf s k b own) (true && true) u = v at *
    rw [if_pos ⟨by omega, by rw [hcarrierC]; exact hsamples⟩, upstreamTick_congr hactC hcarrierC]
    exact ⟨lockTo_state k v, rfl⟩
  obtain ⟨m, hnote⟩ := noteMismatch_tick (syncFollowed k b own (reselect s))
  rw [syncTaken_follows (.inl hst), hnote, hsel]
  exact hfollow _ hst hup rfl rfl rfl

/-! ## Beacons out -/

theorem cmapMod_parts (n : Nat) (f : CmapPort → CmapPort) (s : State) :
    ∃ c, cmapMod n f s = modRte (fun r => { r with cmapPorts := c }) s ∧ (s.rte.cmapEn = false → c = s.rte.cmapPorts) := by
  unfold cmapMod
  cases h : s.rte.cmapEn with
  | true => exact ⟨_, rfl, fun h => absurd h (by decide)⟩
  | false => exact ⟨s.rte.cmapPorts, rfl, fun _ => rfl⟩

/-- `t` is `s` but for the beacon `f` that has left on carrier `k`: on a TRUNK port in its cells. -/
structure BeaconLeft (s t : State) (k : Nat) (f : Frame) : Prop where
  out : t.tick.beaconsOut = s.tick.beaconsOut ++ [(k, f)]
  chain : 64 ≤ k → t.lanes = s.lanes ∧ t.rte = s.rte
  trunk : k < 64 → portOf t k = { portOf s k with line := lineWith s k ((frameLine f (mkHop 1 (xoffBits s k) (queueCells s k 3 / 256) 0)).map .cell) }
    ∧ t.lanes = { s.lanes with ports := t.lanes.ports } ∧ t.rte = { s.rte with cmapPorts := t.rte.cmapPorts } ∧ (s.rte.cmapEn = false → t.rte = s.rte)
  others : ∀ m, m ≠ k → portOf t m = portOf s m

theorem sendBeacon_all {k : Nat} {s : State} (kind phase turn : Nat) (hup : carrierUp s k = true) :
    ∃ f, f.payload = beaconPayload s kind phase turn ∧ BeaconLeft s (sendBeacon k kind phase turn s) k f
      ∧ sendBeacon k kind phase turn s = { s with
        tick := { s.tick with beaconsOut := (sendBeacon k kind phase turn s).tick.beaconsOut }
        lanes := (sendBeacon k kind phase turn s).lanes, rte := (sendBeacon k kind phase turn s).rte } := by
  unfold sendBeacon
  rw [if_neg (by rw [hup]; decide)]
  dsimp only
  generalize hf : mkFrame _ _ = f
  have hpayload : f.payload = beaconPayload s kind phase turn := by rw [← hf]; rfl
  refine ⟨f, hpayload, ?_⟩
  by_cases hk : k < 64
  · rw [if_pos hk]
    obtain ⟨c, hcmap, hoff⟩ := cmapMod_parts k (fun p => { p with cellsOut := p.cellsOut + frameCells f })
      (putLine k (frameLine f (mkHop 1 (xoffBits s k) (queueCells s k 3 / 256) 0)) s)
    have hline : putLine k (frameLine f (mkHop 1 (xoffBits s k) (queueCells s k 3 / 256) 0)) s
        = modPort k (fun p => { p with line := lineWith s k ((frameLine f (mkHop 1 (xoffBits s k) (queueCells s k 3 / 256) 0)).map .cell) }) s :=
      putItems_line k _ s
    unfold cellsLeave
    rw [hcmap]
    rw [hline]
    refine ⟨⟨rfl, fun h => absurd h (Nat.not_le.mpr hk), fun _ => ⟨portOf_modPort k _ s, rfl, rfl, fun h => congrArg (fun c => { s.rte with cmapPorts := c }) (hoff h)⟩,
      fun m hm => portOf_modPort_other _ s hm⟩, rfl⟩
  · rw [if_neg hk]
    exact ⟨⟨rfl, fun _ => ⟨rfl, rfl⟩, fun h => absurd h hk, fun _ _ => rfl⟩, rfl⟩

theorem beaconIn_up {s : State} {k kind : Nat} {f : Frame} {b : BitVec 256} (h : beaconIn s k kind f = some b) : carrierUp s k = true := by
  by_contra hup
  unfold beaconIn at h
  rw [Bool.not_eq_true _ |>.mp hup] at h
  cases h

/-- What the module sends does not depend on what it has heard on a carrier. -/
theorem beaconPayload_heard (k kind phase turn : Nat) (s : State) :
    beaconPayload (modCarrier k (fun c => { c with heard := true }) (noteSignal k s)) kind phase turn = beaconPayload s kind phase turn := by
  have hsrc : ∀ m, (carrierOf (modCarrier k (fun c => { c with heard := true }) (noteSignal k s)) m).src = (carrierOf s m).src := by
    intro m
    by_cases hm : m = k
    · rw [hm, carrierOf_modCarrier]
      rfl
    · rw [carrierOf_modCarrier_other _ _ hm]
      rfl
  unfold beaconPayload ownParent
  rw [hsrc]
  rfl

theorem delayReqSend_up {k t1 : Nat} {s : State} (hup : carrierUp s k = true) (hreq : (carrierOf s k).reqOut = none) :
    delayReqSend k t1 s = modCarrier k (fun c => { c with reqOut := some t1 })
      (sendBeacon k 1 ((takeFree s).1.toNat % 2 ^ 32) 0 (takeFree s).2) := if_pos (by rw [hup, hreq]; rfl)

theorem delayReq_heard {k : Nat} {f : Frame} {b : BitVec 256} {turn : Nat} {s : State} (hb : beaconIn s k 1 f = some b) :
    delayReq k f turn (noteSignal k s) = sendBeacon k 2 ((takeFree s).1.toNat % 2 ^ 32) turn
      (takeFree (modCarrier k (fun c => { c with heard := true }) (noteSignal k s))).2 := by
  have hb' : beaconIn (noteSignal k s) k 1 f = some b := hb
  unfold delayReq
  rw [hb']
  rfl

/-! ## A delay sample -/

theorem delayRsp_sample {k t4 t1 : Nat} {f : Frame} {b : BitVec 256} {s : State} (hb : beaconIn s k 2 f = some b) (hreq : (carrierOf s k).reqOut = some t1) :
    delayRsp k f t4 s = modCarrier k (fun c => { c with
      heard := true, reqOut := none
      samples := (c.samples ++ [t4 - t1 - bcTurn b]).drop ((c.samples ++ [t4 - t1 - bcTurn b]).length - 16) }) s := by
  unfold delayRsp
  rw [hb]
  dsimp only
  rw [carrierOf_modCarrier, hreq]
  exact modCarrier_modCarrier k _ _ s

theorem delayRsp_unasked {k t4 : Nat} {f : Frame} {b : BitVec 256} {s : State} (hb : beaconIn s k 2 f = some b) (hreq : (carrierOf s k).reqOut = none) :
    delayRsp k f t4 s = modCarrier k (fun c => { c with heard := true }) s := by
  unfold delayRsp
  rw [hb]
  dsimp only
  rw [carrierOf_modCarrier, hreq]

/-! ## Silent carriers -/

/-- Carriers take a change that is made to each carrier of a list. -/
theorem forEach_modCarrier (l : List Nat) (f : Carrier → Carrier) (s : State) : ∃ c, forEach l (fun k => modCarrier k f) s = modTick (fun t => { t with carriers := c }) s := by
  induction l generalizing s with
  | nil => exact ⟨s.tick.carriers, rfl⟩
  | cons a l ih =>
    obtain ⟨c, hc⟩ := ih (modCarrier a f s)
    exact ⟨c, hc⟩

/-- A carrier that no SYNC has come on has no SYNC, and the others keep theirs. -/
theorem forEach_silent {l : List Nat} {f : Carrier → Carrier} (hf : ∀ c, (f c).sync = none) (s : State) (k : Nat) :
    (k ∈ l → (carrierOf (forEach l (fun k => modCarrier k f) s) k).sync = none)
    ∧ (k ∉ l → carrierOf (forEach l (fun k => modCarrier k f) s) k = carrierOf s k) := by
  have hnone : ∀ (l : List Nat) (s : State), (carrierOf s k).sync = none → (carrierOf (forEach l (fun k => modCarrier k f) s) k).sync = none := by
    intro l
    induction l with
    | nil => exact fun _ h => h
    | cons a l ih =>
      refine fun s h => ih _ ?_
      by_cases ha : k = a
      · rw [ha, carrierOf_modCarrier]
        exact hf _
      · rw [carrierOf_modCarrier_other f s ha]
        exact h
  induction l generalizing s with
  | nil => exact ⟨fun h => absurd h List.not_mem_nil, fun _ => rfl⟩
  | cons a l ih =>
    obtain ⟨hin, hout⟩ := ih (modCarrier a f s)
    refine ⟨fun h => ?_, fun h => ?_⟩
    · by_cases ha : k = a
      · exact hnone l _ (by rw [ha, carrierOf_modCarrier]; exact hf _)
      · exact hin ((List.mem_cons.mp h).resolve_left ha)
    · obtain ⟨ha, hl⟩ := not_or.mp (mt List.mem_cons.mpr h)
      exact (hout hl).trans (carrierOf_modCarrier_other f s ha)

theorem noteMismatch_recorded {s : State} {kind : Byte} {sev : BitVec 2} {key : Nat} (hr : Recorded s kind sev key) (h : s.glb.faults.length < 1024) :
    Recorded (noteMismatch s) kind sev key := by
  have hrecord : ∀ c : Bool, Recorded (if c then devFault0 0x45 sevError 0 0 s else s) kind sev key := by
    intro c
    cases c with
    | false => exact hr
    | true => exact Recorded.after hr _ h
  unfold noteMismatch
  dsimp only
  split
  · exact hr
  · exact hrecord _

/-- A LOCKED module that no source is left to enters HOLDOVER. -/
theorem upstreamTimeout_all {silent : List Nat} {s : State} (hst : s.tick.state = .locked) (hsilent : ∀ k, k ≤ chainIn → qualifies s k = true → k ∈ silent) :
    let t := upstreamTimeout silent s
    t.tick.state = .holdover ∧ bitAt t.tick.repro 5 = true ∧ (s.glb.faults.length < 1023 → Recorded t 0x40 sevWarn s.tick.upstream.toNat)
    ∧ t.tick.upstream = s.tick.upstream ∧ TickOnly s t := by
  have hnone : bestSource (forEach silent (fun k => modCarrier k (fun c => { c with sync := none, higher := 0 })) s) = none := by
    obtain ⟨c, hc⟩ := forEach_modCarrier silent (fun c => { c with sync := none, higher := 0 }) s
    refine bestSource_none fun k hk => ?_
    obtain ⟨hin, hout⟩ := forEach_silent (l := silent) (f := fun c => { c with sync := none, higher := 0 }) (fun _ => rfl) s k
    by_cases hmem : k ∈ silent
    · unfold qualifies
      rw [hin hmem]
    · have hsame : qualifies (forEach silent (fun k => modCarrier k (fun c => { c with sync := none, higher := 0 })) s) k = qualifies s k := by
        have hcarrier := hout hmem
        rw [hc] at hcarrier ⊢
        unfold qualifies
        rw [hcarrier]
        rfl
      rw [hsame]
      exact Bool.eq_false_iff.mpr fun hq => hmem (hsilent k hk hq)
  obtain ⟨c, hc⟩ := forEach_modCarrier silent (fun c => { c with sync := none, higher := 0 }) s
  have hsel : reselect (modTick (fun t => { t with carriers := c }) s) = devFault0 0x40 sevWarn s.tick.upstream.toNat 0 (syncEntered .holdover (modTick (fun t => { t with carriers := c }) s)) := by
    rw [hc] at hnone
    have hst' : (modTick (fun t => { t with carriers := c }) s).tick.state = .locked := hst
    unfold reselect
    rw [hst', hnone]
    rfl
  obtain ⟨hstate, hup, -, hglb, -⟩ := syncEntered_all .holdover (modTick (fun t => { t with carriers := c }) s)
  have honly := (modTick_tickOnly (fun t => { t with carriers := c }) s).trans (syncEntered_syncMoves .holdover _).only
  have hrepro : bitAt (syncEntered .holdover (modTick (fun t => { t with carriers := c }) s)).tick.repro 5 = true := by
    unfold syncEntered
    rw [if_pos ⟨.inl hst, .inl rfl⟩]
    exact bitAt_setRepro (by decide) s
  have hentered : upstreamTimeout silent s = noteMismatch (devFault0 0x40 sevWarn s.tick.upstream.toNat 0 (syncEntered .holdover (modTick (fun t => { t with carriers := c }) s))) := by
    unfold upstreamTimeout
    rw [hc, hsel]
  generalize syncEntered .holdover (modTick (fun t => { t with carriers := c }) s) = u at *
  have hfault := devFault0_only 0x40 sevWarn s.tick.upstream.toNat 0 u
  obtain ⟨m, hm⟩ := noteMismatch_tick (devFault0 0x40 sevWarn s.tick.upstream.toNat 0 u)
  have htick : (devFault0 0x40 sevWarn s.tick.upstream.toNat 0 u).tick = u.tick := by rw [hfault]
  dsimp only
  rw [hentered, hm, htick]
  refine ⟨hstate, hrepro, fun h => ?_, hup, (honly.trans hfault.tickOnly).trans (noteMismatch_moves _).only⟩
  have hlen : u.glb.faults.length < 1023 := by rw [hglb]; exact h
  exact noteMismatch_recorded (devFault0_recorded 0x40 sevWarn s.tick.upstream.toNat 0 u (by omega)) (lt_of_le_of_lt (devRecord_length (s := u) (by omega)) (by omega))

/-- HOLDOVER ends in a promotion of class 0. -/
theorem holdoverExpiry_promoted {silent : List Nat} {s : State} (hst : s.tick.state = .holdover) (hup : s.tick.upstream.toNat = chainIn)
    (hcfg : bitAt s.mgt.nv.syncCfg 30 = true) (hin : chainIn ∈ silent) : let t := holdoverExpiry silent s
    t.tick.state = .master ∧ t.tick.mclass = 0 ∧ (s.glb.faults.length < 1024 → Recorded t 0x42 sevWarn 0) ∧ TickOnly s t := by
  obtain ⟨c, hc⟩ := forEach_modCarrier silent (fun c => { c with heard := false, sync := none }) s
  have hends : holdoverExpiry silent s = becomeMaster 0 true (modTick (fun t => { t with carriers := c }) s) := by
    unfold holdoverExpiry
    dsimp only
    rw [if_neg (not_not.mpr hst), hc]
    exact if_pos ⟨hup, hcfg, List.contains_iff_mem.mpr hin⟩
  obtain ⟨hstate, -, -, hglb, -⟩ := syncEntered_all .master (modTick (fun t => { t with carriers := c }) s)
  dsimp only
  rw [hends]
  refine ⟨?_, rfl, fun h => ?_, (modTick_tickOnly _ s).trans (becomeMaster_tickOnly 0 true _)⟩
  · unfold becomeMaster
    rw [enterSync_promoted_eq, devFault0_only]
    exact hstate
  · exact devFault0_recorded 0x42 sevWarn 0 0 (modTick (fun t => { t with upstream := 0xFF, stratum := 0, mismatch := false })
      (syncEntered .master (modTick (fun t => { t with carriers := c }) s))) (by rw [modTick_glb, hglb]; exact h)

theorem enterSync_acquire_recorded {s : State} (h : s.glb.faults.length < 1024) : Recorded (enterSync .acquire false s) 0x41 sevError s.tick.upstream.toNat := by
  rw [enterSync_acquire_eq]
  exact devFault0_recorded 0x41 sevError s.tick.upstream.toNat 0 _ (by rw [modTick_glb, (syncEntered_all .acquire s).2.2.2.1]; exact h)

/-- HOLDOVER ends in ACQUIRE, its upstream silent. -/
theorem holdoverExpiry_acquires {silent : List Nat} {s : State} (hst : s.tick.state = .holdover) (hup : s.tick.upstream.toNat ≠ chainIn)
    (hin : s.tick.upstream.toNat ∈ silent) :
    ∃ c, holdoverExpiry silent s = enterSync .acquire false (modTick (fun t => { t with carriers := c }) s) := by
  obtain ⟨c, hc⟩ := forEach_modCarrier silent (fun c => { c with heard := false, sync := none }) s
  refine ⟨c, ?_⟩
  unfold holdoverExpiry
  dsimp only
  rw [if_neg (not_not.mpr hst), hc, if_neg fun h => hup h.1]
  exact if_neg (by rw [List.contains_iff_mem.mpr hin, Bool.not_true, Bool.false_and]; decide)

theorem noteForced_eq (k : Nat) (s : State) : ∃ b, noteForced k s = modTick (fun t => { t with forcedSeen := b }) s := by
  unfold noteForced
  split
  · exact ⟨true, rfl⟩
  · exact ⟨s.tick.forcedSeen, rfl⟩

/-- Settles O27: beacons out by what their carrier shows, SYNCs in by the corrections of the module's state, timeouts by the state they lead to. -/
theorem beaconsAndSyncStates : Obligations.BeaconsAndSyncStates := by
  refine ⟨fun s k hp hk => ?_, fun s hp => ⟨fun silent hst hsilent => ?_, fun hst hadopted haddr hforce hseen => ?_,
    fun silent hst => ⟨fun hup hcfg hin => ?_, fun hup hin => ?_⟩, fun hst => ?_⟩⟩
  · have hok : decide (k ≤ chainOut) = true := decide_eq_true hk
    refine ⟨⟨fun phase hup => ?_, fun t1 hup hreq => ?_, fun fr b turn hb => ?_⟩, fun fr b t4 hb => ⟨fun t1 hreq => ?_, fun hreq => ?_⟩, ?_,
      fun fr b own hb hi => ?_⟩
    · obtain ⟨f, hpay, ⟨hout, hchain, htrunk, hothers⟩, hframe⟩ := sendBeacon_all 0 phase.toNat 0 hup
      refine ⟨_, f, port_next hp hok (by rw [hframe]; rfl), hpay, ⟨hout, hchain, htrunk, hothers⟩, hframe⟩
    · obtain ⟨f, hpay, ⟨hout, hchain, htrunk, hothers⟩, hframe⟩ := sendBeacon_all (s := (takeFree s).2) 1 ((takeFree s).1.toNat % 2 ^ 32) 0 hup
      refine ⟨delayReqSend k t1 s, f, _, port_next hp hok ?_, hpay, ?_⟩
      · rw [delayReqSend_up hup hreq, hframe]
        rfl
      rw [delayReqSend_up hup hreq]
      generalize sendBeacon k 1 ((takeFree s).1.toNat % 2 ^ 32) 0 (takeFree s).2 = t at *
      refine ⟨⟨hout, hchain, htrunk, hothers⟩, (carrierOf_modCarrier k _ t).trans ?_, ?_⟩
      · rw [hframe]
        rfl
      · rw [hframe]
        rfl
    · obtain ⟨f, hpay, ⟨hout, hchain, htrunk, hothers⟩, hframe⟩ := sendBeacon_all
        (s := (takeFree (modCarrier k (fun c => { c with heard := true }) (noteSignal k s))).2) 2 ((takeFree s).1.toNat % 2 ^ 32) turn.toNat (beaconIn_up hb)
      refine ⟨delayReq k fr turn.toNat (noteSignal k s), f, _, port_next hp hok ?_, hpay.trans (beaconPayload_heard k 2 _ turn.toNat s), ?_⟩
      · rw [delayReq_heard hb, hframe]
        rfl
      rw [delayReq_heard hb]
      generalize sendBeacon k 2 ((takeFree s).1.toNat % 2 ^ 32) turn.toNat _ = t at *
      refine ⟨⟨hout, hchain, htrunk, hothers⟩, ?_, ?_⟩
      · rw [hframe]
        exact carrierOf_modCarrier k (fun c => { c with heard := true }) (noteSignal k s)
      · rw [hframe]
        rfl
    · show liveIf _ _ s (delayRsp k fr t4 (noteSignal k s)) = _
      rw [delayRsp_sample (s := noteSignal k s) hb hreq]
      exact port_next hp hok rfl
    · show liveIf _ _ s (delayRsp k fr t4 (noteSignal k s)) = _
      rw [delayRsp_unasked (s := noteSignal k s) hb hreq]
      exact port_next hp hok rfl
    · exact port_next hp hok rfl
    · intro u e
      have htaken : syncBeacon k fr own.toNat (noteSignal k s) = syncTaken k b own.toNat (noteForced k u) := syncBeacon_taken hb hi
      obtain ⟨c, hforced⟩ := noteForced_eq k u
      have hmoves := syncTaken_moves k b own.toNat (noteForced k u)
      have hheard : carrierOf u k = { carrierOf s k with heard := true, sync := some b, src := wbSrc fr.wb } := carrierOf_modCarrier k _ (noteSignal k s)
      have honly : FaultOnly { s with tick := (syncTaken k b own.toNat (noteForced k u)).tick, mgt := (noteSignal k s).mgt } (syncTaken k b own.toNat (noteForced k u)) :=
        ((modTick_tickOnly _ (noteSignal k s)).trans (noteForced_moves k u).only).trans hmoves.only
      refine ⟨_, port_next hp hok ?_, ?_⟩
      · rw [htaken]
        exact honly.keepFixed rfl rfl rfl
      rw [htaken]
      refine ⟨?_, honly, fun hst hup hbest => ?_, fun hst hup hbest hgood hsamples hlo hhi => ?_⟩
      · rw [hmoves.carriers, (noteForced_moves k u).carriers, hheard]
      · rw [hforced]
        exact syncTaken_locked hst hup hbest
      · rw [hforced]
        have hs16 : 16 ≤ (carrierOf u k).samples.length := by rw [hheard]; exact hsamples
        exact syncTaken_locks hst hup hbest hgood hs16 hlo hhi
  · obtain ⟨hstate, hrepro, hrec, hup, honly⟩ := upstreamTimeout_all hst hsilent
    exact ⟨_, FaultOnly.live_next honly hp rfl rfl rfl, hstate, hrepro, hrec, hup, honly⟩
  · have hmaster : acquireMasterTimeout s = modTick (masterTick 1) s := by
      unfold acquireMasterTimeout
      rw [if_pos ⟨hst, hadopted, haddr, by rw [hforce]; rfl, by rw [hseen]; rfl⟩]
      exact becomeMaster_quiet 1 s
    refine ⟨modTick (masterTick 1) s, ?_, rfl, rfl, rfl, rfl, rfl, rfl⟩
    show live s (acquireMasterTimeout s) = _
    rw [live_next hp, hmaster]
    rfl
  · obtain ⟨hstate, hclass, hrec, honly⟩ := holdoverExpiry_promoted hst hup hcfg hin
    exact ⟨_, FaultOnly.live_next honly hp rfl rfl rfl, hstate, hclass, hrec, honly⟩
  · obtain ⟨c, hc⟩ := holdoverExpiry_acquires hst hup hin
    have honly : TickOnly s (holdoverExpiry silent s) := by
      rw [hc]
      exact (modTick_tickOnly _ s).trans (enterSync_tickOnly _ _ _)
    refine ⟨_, FaultOnly.live_next honly hp rfl rfl rfl, ?_, fun h => ?_, honly⟩
    · rw [hc]
      exact (enterSync_acquire _).1
    · rw [hc]
      exact enterSync_acquire_recorded (s := modTick (fun t => { t with carriers := c }) s) h
  · have honly : TickOnly s (enterSync .acquire false s) := enterSync_tickOnly _ _ _
    have hlimit : holdoverLimitExpiry s = enterSync .acquire false s := if_pos hst
    refine ⟨_, FaultOnly.live_next honly hp rfl rfl rfl |> fun h => ?_, (enterSync_acquire s).1, (enterSync_acquire s).2.1, fun h => enterSync_acquire_recorded h, honly⟩
    show live s (holdoverLimitExpiry s) = _
    rw [hlimit]
    exact h

end Sys2Proof.Machine
end

section
/-! SUPPORT. Register writes by what they leave, and the reads of units that may wake the node (R418). -/

namespace Sys2Proof.Machine

open Sys2Proof

/-- An answered WRITE, by the state that the register's write gives. -/
theorem write_leaves {s u : State} {i : Nat} {x : Session} {r : Reg} {off v : W32} (hs : Serving s) (ho : HasSession s i x)
    (hr : regOf off.toNat = some r) (hm : mayWrite x.role r = true) (hw : (writeReg x.role r v (countIn i s)).state = u) :
    ∃ t, live s (mahelWrite i off v s) = .next t ∧ t = { keepFixed s u with mgt := t.mgt, freeCount := t.freeCount } ∧ t.mgt.nv = u.mgt.nv := by
  obtain ⟨t, w, hex, hframe, hmgt, -⟩ := write_state (v := v) hs ho hr hm
  rw [hw] at hframe hmgt
  exact ⟨t, hex, hframe, by rw [hmgt]⟩

theorem DieOnly.nodeOnly {s t : State} (h : DieOnly s t) : NodeOnly s t := by
  unfold DieOnly NodeOnly FaultOnly at *
  rw [h]

theorem wakeNode_only (s : State) : NodeOnly s (wakeNode s) := by
  by_cases h : s.pwr.node.toNat < 3 ∨ s.pwr.tripped = true
  · have hsame : wakeNode s = s := if_pos h
    rw [hsame]
    exact NodeOnly.refl s
  · obtain ⟨hn, ht⟩ := not_or.mp h
    exact wakeNode_nodeOnly (Bool.not_eq_true _ |>.mp ht) (Nat.not_lt.mp hn)

theorem dieRead_only (off len : Nat) (s : State) : NodeOnly s (dieRead off len s).2 := by
  have hwake := wakeNode_only s
  unfold dieRead
  dsimp only
  generalize wakeNode s = u at *
  split
  · exact hwake
  · have hread := (memRead_memOnly (linesOf off len) off len u).dieOnly.nodeOnly
    dsimp only
    split
    · exact (hwake.trans hread).trans (notePoisonIn_tickOnly _ _).dieOnly.nodeOnly
    · exact hwake.trans hread

/-! ## Image checks -/

theorem loadCheckHdr_lt (s : State) (a off : Nat) (h : BitVec 512) : loadCheckHdr s a off h < 16 := by
  unfold loadCheckHdr
  repeat' split
  all_goals decide

theorem loadCheckImage_lt (s : State) (a : Nat) (m : Image) (ok : Bool) : loadCheckImage s a m ok < 16 := by
  unfold loadCheckImage
  dsimp only
  repeat' split
  all_goals decide

/-- What the check of an image answers and leaves. -/
theorem checkImage_all (a off : Nat) (s : State) : (checkImage a off s).1 < 16 ∧ NodeOnly s (checkImage a off s).2.2 := by
  unfold checkImage
  dsimp only
  by_cases h1 : (!arrayEnabled s a) = true
  · rw [if_pos h1]
    exact ⟨show 1 < 16 by decide, NodeOnly.refl s⟩
  rw [if_neg h1]
  by_cases h2 : groupGated s (a / 72) = true
  · rw [if_pos h2]
    exact ⟨show 2 < 16 by decide, NodeOnly.refl s⟩
  rw [if_neg h2]
  by_cases h3 : off % 4096 ≠ 0 ∨ stackedSize < off + 64
  · rw [if_pos h3]
    exact ⟨show 3 < 16 by decide, NodeOnly.refl s⟩
  rw [if_neg h3]
  have hread := dieRead_only off 64 s
  generalize dieRead off 64 s = r at *
  obtain ⟨⟨hb, hp⟩, u⟩ := r
  dsimp only at *
  have hlt := loadCheckHdr_lt u a off (BitVec.ofNat 512 (leNat hb))
  split
  · exact ⟨hlt, hread⟩
  · have hrest := dieRead_only (off + 64) (imageRest (BitVec.ofNat 512 (leNat hb))) u
    generalize dieRead (off + 64) (imageRest (BitVec.ofNat 512 (leNat hb))) u = q at *
    obtain ⟨⟨bs, bp⟩, w⟩ := q
    exact ⟨loadCheckImage_lt _ _ _ _, hread.trans hrest⟩

end Sys2Proof.Machine
end

section
/-! SUPPORT. Array loads and binding entries (R331-R333, R339). -/

namespace Sys2Proof.Machine

open Sys2Proof

theorem arrOf_modArray_other {a b : Nat} (f : Arr → Arr) (s : State) (h : b ≠ a) : arrOf (modArray a f s) b = arrOf s b := tabGet_mod_other _ _ _ h

/-! ## LOAD -/

/-- LOAD, behind the check of its image. -/
def loadChecked (array : Nat) (r : Nat × Image × State) : State :=
  let s := modArr (fun u => { u with loadStatus := BitVec.ofNat 4 r.1 }) r.2.2
  if r.1 ≠ 0 then arrLoadFault array s
  else modArr (fun u => { u with loadBusy := some (array, progOf r.2.1, packSlots r.2.1.slots ++ r.2.1.pre) }) s

theorem arrLoad_eq (array : Nat) (s : State) : arrLoad array s = loadChecked array (checkImage array s.arr.loadAddr.toNat s) := rfl

theorem ofNat_status {c : Nat} (h : c < 16) : BitVec.ofNat 4 c = 0 ↔ c = 0 := by
  constructor
  · intro h0
    have := congrArg BitVec.toNat h0
    rw [BitVec.toNat_ofNat, Nat.mod_eq_of_lt h] at this
    exact this
  · rintro rfl
    rfl

/-- What a LOAD leaves of the arrays and of their loads. -/
theorem arrLoad_arr (array : Nat) (s : State) : let t := arrLoad array s
    t.arr.loadArray = s.arr.loadArray ∧ t.arr.arrays = s.arr.arrays ∧ (t.arr.loadStatus = 0 → ∃ p bs, t.arr.loadBusy = some (array, p, bs))
    ∧ (t.arr.loadStatus ≠ 0 → t.arr.loadBusy = s.arr.loadBusy) := by
  dsimp only
  rw [arrLoad_eq]
  obtain ⟨hlt, honly⟩ := checkImage_all array s.arr.loadAddr.toNat s
  generalize checkImage array s.arr.loadAddr.toNat s = r at *
  obtain ⟨c, m, u⟩ := r
  have harr : u.arr = s.arr := by
    change NodeOnly s u at honly
    rw [honly]
  have hid : u.arr.loadArray = s.arr.loadArray := by rw [harr]
  have harrays : u.arr.arrays = s.arr.arrays := by rw [harr]
  have hbusy : u.arr.loadBusy = s.arr.loadBusy := by rw [harr]
  have hzero := ofNat_status hlt
  unfold loadChecked
  dsimp only at *
  by_cases hc : c = 0
  · rw [if_neg (not_not.mpr hc)]
    refine ⟨hid, harrays, fun _ => ⟨_, _, rfl⟩, fun h => absurd (hzero.mpr hc) h⟩
  · rw [if_pos hc]
    unfold arrLoadFault
    rw [devFault0_only]
    exact ⟨hid, harrays, fun h => absurd (hzero.mp h) hc, fun _ => hbusy⟩

/-- A LOAD that is refused before its image is read. -/
theorem arrLoad_refused {array c : Nat} {s : State} (h : (c = 1 ∧ arrayEnabled s array = false) ∨ (c = 2 ∧ arrayEnabled s array = true ∧ groupGated s (array / 72) = true)) :
    arrLoad array s = devFault0 0x60 sevWarn array 0 (modArr (fun u => { u with loadStatus := BitVec.ofNat 4 c }) s) := by
  rw [arrLoad_eq]
  rcases h with ⟨rfl, he⟩ | ⟨rfl, he, hg⟩
  · have hcheck : ∃ m, checkImage array s.arr.loadAddr.toNat s = (1, m, s) := ⟨_, if_pos (by rw [he]; rfl)⟩
    obtain ⟨m, hm⟩ := hcheck
    rw [hm]
    rfl
  · have hcheck : ∃ m, checkImage array s.arr.loadAddr.toNat s = (2, m, s) := ⟨_, (if_neg (by rw [he]; decide)).trans (if_pos hg)⟩
    obtain ⟨m, hm⟩ := hcheck
    rw [hm]
    rfl

theorem arrLoadCtlWrite_load {a : BitVec 10} {s : State} (hb : s.arr.loadBusy = none) :
    arrLoadCtlWrite (pack [(25, 1), (0, a.toNat)]) s = started (arrLoad a.toNat (modArr (fun u => { u with loadArray := a }) s)) := by
  unfold arrLoadCtlWrite
  rw [pack_index a (by decide) (by decide), pack_op (k := a.toNat) (by omega) (by decide) (by decide), hb]
  rfl

/-! ## The end of a load -/

theorem coreLive_next {s t : State} (h : Clocked s) : coreLive s t = .next (keepFixed s t) := core_next (ok := true) (unit := "") h rfl


theorem loadDone_arr {ok : Bool} {a : Nat} {p : Prog} {bs : List Byte} {s : State} (hb : s.arr.loadBusy = some (a, p, bs)) (hl : s.svc.loading = none)
    (hsvc : (arrLoadDone ok s).svc = s.svc) : loadDone ok s = arrLoadDone ok s := by
  unfold loadDone
  rw [hb]
  dsimp only
  split
  · rfl
  · unfold svcLoaded
    rw [hsvc, hl]

/-- The array with the image's bytes written into it. -/
def imageWritten (p : Prog) (slots : List (BitVec 64)) (pre : List Byte) (a : Arr) : Arr :=
  let lo := hdSlotLo p.hdr
  let n := hdSlotN p.hdr
  let a := { a with slots := (slots.zipIdx).foldl (fun t x => tabSet 0 t (x.2 / max 1 n * 64 + lo + x.2 % max 1 n) x.1) a.slots }
  ((chunks 128 4096 pre).zipIdx).foldl (fun a x => putRow (hdPreRow p.hdr + x.2) (BitVec.ofNat 1024 (leNat x.1)) [] a) a

/-- The state in which a load's bytes are in their array. -/
def loadWritten (ok : Bool) (a : Nat) (p : Prog) (bs : List Byte) (s : State) : State :=
  modArray a (imageWritten p ((wordsAt 8 bs 0 (1024 * hdSlotN p.hdr)).map (BitVec.ofNat 64)) (bs.drop (8192 * hdSlotN p.hdr)))
    (modArr (fun u => { u with loadBusy := none, loadStatus := if ok then 0 else 7 }) s)

theorem arrLoadDone_eq {ok : Bool} {a : Nat} {p : Prog} {bs : List Byte} {s : State} (hb : s.arr.loadBusy = some (a, p, bs)) (hr : (arrOf s a).run = none) :
    arrLoadDone ok s = if ok then makeResident a p (loadWritten ok a p bs s)
      else devFault0 0x60 sevWarn a 0 (dropResident a (hdProg p.hdr) (loadWritten ok a p bs s)) := by
  unfold arrLoadDone
  rw [hb]
  dsimp only
  rw [hr]
  rfl

theorem residentProg_made {a : Arr} {p : Prog} {l : List Prog} (h : a.dir = (l.filter fun q => decide (hdProg q.hdr ≠ hdProg p.hdr)) ++ [p]) :
    residentProg a (hdProg p.hdr) = some p := by
  unfold residentProg
  rw [h, List.find?_append, List.find?_eq_none.mpr fun q hq => by
    have := (List.mem_filter.mp hq).2
    rw [decide_eq_true_iff] at this
    rw [decide_eq_true_iff]
    exact this]
  simp

theorem residentProg_dropped {a : Arr} {prog : BitVec 16} {l : List Prog} (h : a.dir = l.filter fun q => decide (hdProg q.hdr ≠ prog)) : residentProg a prog = none := by
  unfold residentProg
  rw [h]
  refine List.find?_eq_none.mpr fun q hq => ?_
  have := (List.mem_filter.mp hq).2
  rw [decide_eq_true_iff] at this
  rw [decide_eq_true_iff]
  exact this

/-- What a load's end leaves: its array, in which the program is resident or not. -/
theorem arrLoadDone_ok {a : Nat} {p : Prog} {bs : List Byte} {s : State} (hb : s.arr.loadBusy = some (a, p, bs)) (hr : (arrOf s a).run = none) :
    let t := arrLoadDone true s
    t.arr.loadBusy = none ∧ t.arr.loadStatus = 0 ∧ (arrOf t a).failed = false ∧ residentProg (arrOf t a) (hdProg p.hdr) = some p
    ∧ (∀ b, b ≠ a → arrOf t b = arrOf s b) ∧ t = { s with arr := t.arr } := by
  dsimp only
  rw [arrLoadDone_eq hb hr, if_pos rfl]
  unfold makeResident loadWritten
  refine ⟨rfl, rfl, ?_, ?_, fun b hne => ?_, rfl⟩
  · rw [arrOf_modArray]
  · rw [arrOf_modArray]
    exact residentProg_made rfl
  · rw [arrOf_modArray_other _ _ hne, arrOf_modArray_other _ _ hne]
    rfl

theorem arrLoadDone_failed {a : Nat} {p : Prog} {bs : List Byte} {s : State} (hb : s.arr.loadBusy = some (a, p, bs)) (hr : (arrOf s a).run = none) :
    let t := arrLoadDone false s
    t.arr.loadBusy = none ∧ t.arr.loadStatus = 7 ∧ residentProg (arrOf t a) (hdProg p.hdr) = none
    ∧ (∀ b, b ≠ a → arrOf t b = arrOf s b) ∧ (s.glb.faults.length < 1024 → Recorded t 0x60 sevWarn a) ∧ FaultOnly { s with arr := t.arr } t := by
  dsimp only
  rw [arrLoadDone_eq hb hr, if_neg (by decide)]
  have hrec := devFault0_recorded 0x60 sevWarn a 0 (dropResident a (hdProg p.hdr) (loadWritten false a p bs s))
  have honly := devFault0_only 0x60 sevWarn a 0 (dropResident a (hdProg p.hdr) (loadWritten false a p bs s))
  have hbase : FaultOnly { s with arr := (dropResident a (hdProg p.hdr) (loadWritten false a p bs s)).arr } (devFault0 0x60 sevWarn a 0 (dropResident a (hdProg p.hdr) (loadWritten false a p bs s))) :=
    honly
  have harr : (devFault0 0x60 sevWarn a 0 (dropResident a (hdProg p.hdr) (loadWritten false a p bs s))).arr = (dropResident a (hdProg p.hdr) (loadWritten false a p bs s)).arr := by
    rw [honly]
  have hof : ∀ b, arrOf (devFault0 0x60 sevWarn a 0 (dropResident a (hdProg p.hdr) (loadWritten false a p bs s))) b = arrOf (dropResident a (hdProg p.hdr) (loadWritten false a p bs s)) b :=
    fun b => congrArg (fun u : ArrUnit => tabGet ({} : Arr) u.arrays b) harr
  rw [harr, hof]
  refine ⟨rfl, rfl, ?_, fun b hne => ?_, hrec, hbase⟩
  · unfold dropResident
    rw [arrOf_modArray]
    exact residentProg_dropped rfl
  · rw [hof]
    unfold dropResident loadWritten
    rw [arrOf_modArray_other _ _ hne, arrOf_modArray_other _ _ hne]
    rfl

/-! ## Binding entries -/

theorem cbCtl_write (b e : BitVec 4) :
    (bitsOf (pack [(26, 1), (4, b.toNat), (0, e.toNat)]) 26 2).toNat = 1 ∧ (bitsOf (pack [(26, 1), (4, b.toNat), (0, e.toNat)]) 4 4 : BitVec 4) = b
      ∧ (bitsOf (pack [(26, 1), (4, b.toNat), (0, e.toNat)]) 0 4 : BitVec 4) = e := by
  revert b e; decide

theorem arrCbCtlWrite_write (b e : BitVec 4) (s : State) : arrCbCtlWrite (pack [(26, 1), (4, b.toNat), (0, e.toNat)]) s
    = started (cbWrite b.toNat e.toNat (modArr (fun u => { u with cbGroup := b, cbEntry := e }) s)) := by
  obtain ⟨hop, hb, he⟩ := cbCtl_write b e
  unfold arrCbCtlWrite
  rw [hop, hb, he]
  rfl

/-- A member that meets no collective in its slot is held. -/
theorem offerMember_free {m : Member} {s : State} (h : (slotOf s (colSlotOf (cColId m.raw))).state = .free) :
    offerMember m s = modCol (fun c => { c with held := c.held ++ [m] }) s := by
  unfold offerMember
  dsimp only
  rw [if_neg (by unfold slotHolds; rw [h]; simp), if_neg (by rw [h]; exact fun hne => hne.1 rfl)]

section Post
variable {g e r : Nat} {s : State} (hg : g < 12) (hf : colFormatOk s s.arr.cbData stackedSize true = true) (hd : dField s.arr.cbData 0 1 = 0x10)
  (hr : colRank s s.arr.cbData (myFnid s) (g + 1) = some r)
include hg hf hd hr

/-- A binding entry behind the checks of its form and rank. -/
theorem cbPost_checked : cbPost g e s.arr.cbData s = if tabGet 0 s.col.cb (cbKey g e) ≠ 0 then (3, s)
    else (0, offerMember { binder := .cb g e, rank := r, raw := s.arr.cbData } (modCol (fun c => { c with cb := tabSet 0 c.cb (cbKey g e) s.arr.cbData }) s)) := by
  unfold cbPost
  rw [if_neg (by
    rintro (h | h | h)
    · omega
    · rw [hf] at h
      cases h
    · exact h hd), hr]

theorem cbWrite_held (hcb : tabGet 0 s.col.cb (cbKey g e) = 0) (hslot : (slotOf s (colSlotOf (cColId s.arr.cbData))).state = .free) :
    cbWrite g e s = modArr (fun u => { u with cbStatus := 0 }) (modCol (fun c => { c with
      cb := tabSet 0 c.cb (cbKey g e) s.arr.cbData, held := c.held ++ [{ binder := .cb g e, rank := r, raw := s.arr.cbData }] }) s) := by
  unfold cbWrite
  rw [cbPost_checked hg hf hd hr, if_neg (not_not.mpr hcb)]
  dsimp only
  rw [if_pos rfl, offerMember_free hslot]
  rfl

theorem cbWrite_taken (hcb : tabGet 0 s.col.cb (cbKey g e) ≠ 0) :
    cbWrite g e s = devFault0 0x65 sevWarn g 0 (modArr (fun u => { u with cbStatus := 3 }) s) := by
  unfold cbWrite
  rw [cbPost_checked hg hf hd hr, if_pos hcb]
  rfl

end Post

/-- Settles O28: a LOAD by what its checks give, its end by the directory of its array, a binding entry by its STATUS. -/
theorem loadsBeginAndEndAndBindingsWait : Obligations.LoadsBeginAndEndAndBindingsWait := by
  refine ⟨fun s i x a hs ho hr hb => ⟨?_, fun c hc => ?_⟩, fun s a p bs hclock hb hrun hl => ⟨?_, ?_⟩, ?_⟩
  · obtain ⟨t, hex, hframe, -⟩ := write_leaves (r := .loadCtl) (off := 0x0900008C) (v := pack [(25, 1), (0, a.toNat)]) hs ho rfl (may_both hr rfl)
      (congrArg Wrote.state (arrLoadCtlWrite_load (a := a) (s := countIn i s) hb))
    obtain ⟨hid, harrays, hok, hbad⟩ := arrLoad_arr a.toNat (modArr (fun u => { u with loadArray := a }) (countIn i s))
    change t = { keepFixed s (arrLoad a.toNat (modArr (fun u => { u with loadArray := a }) (countIn i s))) with mgt := t.mgt, freeCount := t.freeCount } at hframe
    have harr : t.arr = (arrLoad a.toNat (modArr (fun u => { u with loadArray := a }) (countIn i s))).arr := by rw [hframe]; rfl
    refine ⟨t, hex, ?_, ?_, ?_, ?_⟩
    · rw [harr]; exact hid
    · rw [harr]; exact harrays
    · rw [harr]; exact hok
    · rw [harr]; exact fun h => (hbad h).trans hb
  · have hrefused := arrLoad_refused (array := a.toNat) (c := c.toNat) (s := modArr (fun u => { u with loadArray := a }) (countIn i s))
      (by rcases hc with ⟨rfl, h⟩ | ⟨rfl, h⟩
          · exact .inl ⟨rfl, h⟩
          · exact .inr ⟨rfl, h⟩)
    obtain ⟨t, hex, hframe, -⟩ := write_leaves (r := .loadCtl) (off := 0x0900008C) (v := pack [(25, 1), (0, a.toNat)]) hs ho rfl (may_both hr rfl)
      ((congrArg Wrote.state (arrLoadCtlWrite_load (a := a) (s := countIn i s) hb)).trans hrefused)
    rw [BitVec.ofNat_toNat, BitVec.setWidth_eq] at hframe
    have honly := devFault0_only 0x60 sevWarn a.toNat 0 (modArr (fun u => { u with loadStatus := c }) (modArr (fun u => { u with loadArray := a }) (countIn i s)))
    have hrec := devFault0_recorded 0x60 sevWarn a.toNat 0 (modArr (fun u => { u with loadStatus := c }) (modArr (fun u => { u with loadArray := a }) (countIn i s)))
    generalize devFault0 0x60 sevWarn a.toNat 0 _ = w at *
    refine ⟨t, hex, ?_, ?_, fun h => ?_⟩
    · rw [hframe, honly]; rfl
    · rw [hframe, honly]; rfl
    · rw [hframe]; exact hrec h
  · obtain ⟨hbusy, hstatus, hfailed, hres, hothers, hframe⟩ := arrLoadDone_ok hb hrun
    have hdone := loadDone_arr (ok := true) hb hl (by rw [hframe])
    refine ⟨arrLoadDone true s, ?_, hbusy, hstatus, hfailed, hres, hothers, hframe⟩
    show coreLive s (loadDone true s) = _
    rw [hdone, coreLive_next hclock, hframe]
    rfl
  · obtain ⟨hbusy, hstatus, hres, hothers, hrec, honly⟩ := arrLoadDone_failed hb hrun
    have hdone := loadDone_arr (ok := false) hb hl (by rw [honly])
    refine ⟨arrLoadDone false s, ?_, hbusy, hstatus, hres, hothers, hrec, honly⟩
    show coreLive s (loadDone false s) = _
    have hkeep : keepFixed s (arrLoadDone false s) = arrLoadDone false s := honly.keepFixed rfl rfl rfl
    rw [hdone, coreLive_next hclock, hkeep]
  · intro s i x g e r hs ho hr hg hf hd hrank key y
    refine ⟨fun hcb hslot => ?_, fun hcb => ?_⟩
    · exact live_write hs ho rfl (may_both hr rfl) ((arrCbCtlWrite_write g e (countIn i s)).trans (congrArg started
        (cbWrite_held (s := modArr (fun u => { u with cbGroup := g, cbEntry := e }) (countIn i s)) hg hf hd hrank hcb hslot)))
    · obtain ⟨t, hex, hframe, -⟩ := write_leaves (r := .cbCtl) (off := 0x090000A0) (v := pack [(26, 1), (4, g.toNat), (0, e.toNat)]) hs ho rfl (may_both hr rfl)
        ((congrArg Wrote.state (arrCbCtlWrite_write g e (countIn i s))).trans
          (cbWrite_taken (s := modArr (fun u => { u with cbGroup := g, cbEntry := e }) (countIn i s)) hg hf hd hrank hcb))
      have honly := devFault0_only 0x65 sevWarn g.toNat 0 (modArr (fun u => { u with cbStatus := 3 }) (modArr (fun u => { u with cbGroup := g, cbEntry := e }) (countIn i s)))
      have hrec := devFault0_recorded 0x65 sevWarn g.toNat 0 (modArr (fun u => { u with cbStatus := 3 }) (modArr (fun u => { u with cbGroup := g, cbEntry := e }) (countIn i s)))
      generalize devFault0 0x65 sevWarn g.toNat 0 _ = w at *
      refine ⟨t, hex, ?_, ?_, fun h => ?_⟩
      · rw [hframe, honly]; rfl
      · rw [hframe, honly]; rfl
      · rw [hframe]; exact hrec h

end Sys2Proof.Machine
end

section
/-! SUPPORT. The tenant scrub (R386, R387, R389). -/

namespace Sys2Proof.Machine

open Sys2Proof

/-- What the default and every entry of a table have, a lookup has. -/
theorem tabGet_of_all {α : Type} {P : α → Prop} {d : α} {t : Tab α} (hd : P d) (h : ∀ e ∈ t, P e.2) (k : Nat) : P (tabGet d t k) := by
  induction t with
  | nil => exact hd
  | cons e t ih =>
    obtain ⟨i, v⟩ := e
    show P (if k = i then v else tabGet d t k)
    split
    · exact h (i, v) List.mem_cons_self
    · exact ih fun x hx => h x (List.mem_cons_of_mem _ hx)

/-- Entries that a change has given a property keep it where the default ones among them are left out. -/
theorem tabGet_changed {α : Type} [DecidableEq α] {P : α → Prop} {d : α} {f : α → α} (hd : P d) (hf : ∀ x, P (f x)) (t : Tab α) (k : Nat) :
    P (tabGet d ((t.map fun e => (e.1, f e.2)).filter fun e => decide (e.2 ≠ d)) k) := by
  refine tabGet_of_all hd (fun e he => ?_) k
  obtain ⟨x, -, rfl⟩ := List.mem_map.mp (List.mem_filter.mp he).1
  exact hf x.2

/-- Steps 1 to 4 of a scrub. -/
theorem scrubAll_all (s : State) : let t := scrubAll s
    t.mem.gen = s.mem.gen + 1 ∧ t.mem.cells = [] ∧ t.mem.poison = [] ∧ t.mem.tenantBusy = s.mem.tenantBusy ∧ t.mem.tenantStatus = s.mem.tenantStatus
    ∧ (∀ c, (chanOf t c).comb = []) ∧ t.tly.tallies = [] ∧ (∀ a, (arrOf t a).store = [] ∧ (arrOf t a).dir = [])
    ∧ t = { s with mem := t.mem, tly := { s.tly with tallies := [] }, col := t.col, svc := t.svc, arr := t.arr } :=
  ⟨rfl, rfl, rfl, rfl, rfl, tabGet_changed (P := fun c : Channel => c.comb = []) (d := {}) (f := fun c => { c with comb := [] }) rfl (fun _ => rfl) s.mem.channels, rfl,
    tabGet_changed (P := fun a : Arr => a.store = [] ∧ a.dir = []) (d := {}) (f := fun a => { a with store := [], badWords := [], dir := [] }) ⟨rfl, rfl⟩ (fun _ => ⟨rfl, rfl⟩) s.arr.arrays, rfl⟩

/-- What SCRUB does once it has begun in a module that is not tripped. -/
def scrubBegun (s : State) : State := allStacks .scrub (scrubAll (modMem (fun m => { m with tenantBusy := true }) (wakeNode s)))

theorem scrubBegun_all (s : State) : let t := scrubBegun s
    t.mem.gen = s.mem.gen + 1 ∧ t.mem.cells = [] ∧ t.mem.poison = [] ∧ t.mem.tenantBusy = true ∧ t.mem.tenantStatus = s.mem.tenantStatus
    ∧ (∀ k, k < 24 → (stackOfN t k).state = .scrub) ∧ (∀ c, (chanOf t c).comb = []) ∧ t.tly.tallies = [] ∧ (∀ a, (arrOf t a).store = [] ∧ (arrOf t a).dir = [])
    ∧ (s.pwr.node.toNat < 3 → t = { s with mem := t.mem, tly := { s.tly with tallies := [] }, col := t.col, svc := t.svc, arr := t.arr })
    ∧ t.mgt.nv = s.mgt.nv := by
  have hmem : (wakeNode s).mem.gen = s.mem.gen ∧ (wakeNode s).mem.tenantStatus = s.mem.tenantStatus := by
    by_cases h : s.pwr.node.toNat < 3 ∨ s.pwr.tripped = true
    · have hsame : wakeNode s = s := if_pos h
      rw [hsame]
      exact ⟨rfl, rfl⟩
    · obtain ⟨hn, ht⟩ := not_or.mp h
      rw [(wakeNode_up (Bool.not_eq_true _ |>.mp ht) (Nat.not_lt.mp hn)).fields.2.2.2.2.2.1]
      exact ⟨rfl, rfl⟩
  have hnode := wakeNode_only s
  have hawake : s.pwr.node.toNat < 3 → wakeNode s = s := wakeNode_awake
  have hstate : ∀ k, k < 24 → (stackOfN (scrubBegun s) k).state = .scrub := fun k hk => allStacks_state .scrub _ hk
  dsimp only
  unfold scrubBegun at hstate ⊢
  generalize wakeNode s = w at *
  obtain ⟨hgen, hcells, hpoison, hbusy, hstatus, hcomb, htly, harr, hframe⟩ := scrubAll_all (modMem (fun m => { m with tenantBusy := true }) w)
  obtain ⟨st, hst⟩ := allStacks_parts .scrub (scrubAll (modMem (fun m => { m with tenantBusy := true }) w))
  generalize scrubAll (modMem (fun m => { m with tenantBusy := true }) w) = u at *
  rw [hst] at hstate ⊢
  refine ⟨?_, hcells, hpoison, hbusy, hstatus.trans hmem.2, hstate, hcomb, htly, harr, fun h => ?_, ?_⟩
  · exact hgen.trans (congrArg (· + 1) hmem.1)
  · rw [hawake h] at hframe
    rw [hframe]
    rfl
  · show u.mgt.nv = _
    rw [hframe, hnode]
    rfl

/-! ## MEM_TENANT_CTL -/

section Scrub
variable {s : State} (hb : s.mem.tenantBusy = false)
include hb

theorem tenantCtlWrite_unmet (hc : tenantCheck s ≠ 0) :
    tenantCtlWrite 0x08000000 s = refused (modMem (fun m => { m with tenantStatus := BitVec.ofNat 3 (tenantCheck s) }) s) := by
  unfold tenantCtlWrite
  rw [if_neg (by rw [hb]; decide)]
  exact if_pos hc

theorem tenantCtlWrite_tripped (hc : tenantCheck s = 0) (ht : s.pwr.tripped = true) :
    tenantCtlWrite 0x08000000 s = started (modMem (fun m => { m with tenantStatus := 0, gen := m.gen + 1, tenantBusy := true }) s) := by
  unfold tenantCtlWrite
  rw [if_neg (by rw [hb]; decide)]
  dsimp only
  rw [if_neg (not_not.mpr hc), modMem_pwr, if_pos ht, hc]
  rfl

theorem tenantCtlWrite_begins (hc : tenantCheck s = 0) (ht : s.pwr.tripped = false) :
    tenantCtlWrite 0x08000000 s = started (scrubBegun (modMem (fun m => { m with tenantStatus := 0 }) s)) := by
  unfold tenantCtlWrite
  rw [if_neg (by rw [hb]; decide)]
  dsimp only
  rw [if_neg (not_not.mpr hc), if_neg (by rw [modMem_pwr, ht]; decide), hc]
  rfl

end Scrub

/-- An entry of the device joins the ledger's queue, where there is room. -/
theorem ledgerDevice_room {type result : Nat} {d : BitVec 352} {s : State} (h : s.mgt.queue.length < 256) :
    ∃ e, (ledgerDevice type result d s).mgt.queue = s.mgt.queue ++ [e] ∧ e.type = BitVec.ofNat 8 type := by
  unfold ledgerDevice
  rw [if_neg (Nat.not_le.mpr h)]
  exact ⟨_, rfl, rfl⟩

/-- Settles O29: the STATUS of a scrub that may not begin, what one clears that may, and its end. -/
theorem tenantScrubClearsTheModule : Obligations.TenantScrubClearsTheModule := by
  refine ⟨fun s i x hs ho hr hb => ⟨fun hc => ?_, fun hc ht => ?_, fun hc ht => ?_⟩, fun s hclock hb => ?_⟩
  · exact live_write hs ho rfl (may_both hr rfl) (tenantCtlWrite_unmet (s := countIn i s) hb hc)
  · exact live_write hs ho rfl (may_both hr rfl) (tenantCtlWrite_tripped (s := countIn i s) hb hc ht)
  · obtain ⟨t, hex, hframe, hnv⟩ := write_leaves (r := .tenantCtl) (off := 0x0B000010) (v := 0x08000000) hs ho rfl (may_both hr rfl)
      (congrArg Wrote.state (tenantCtlWrite_begins (s := countIn i s) hb hc ht))
    obtain ⟨hgen, hcells, hpoison, hbusy, hstatus, hstacks, hcomb, htly, harr, honly, hset⟩ := scrubBegun_all (modMem (fun m => { m with tenantStatus := 0 }) (countIn i s))
    change t = { keepFixed s (scrubBegun (modMem (fun m => { m with tenantStatus := 0 }) (countIn i s))) with mgt := t.mgt, freeCount := t.freeCount } at hframe
    change t.mgt.nv = (scrubBegun (modMem (fun m => { m with tenantStatus := 0 }) (countIn i s))).mgt.nv at hnv
    generalize scrubBegun (modMem (fun m => { m with tenantStatus := 0 }) (countIn i s)) = u at *
    have hmem : t.mem = u.mem := by rw [hframe]; rfl
    have htlys : t.tly = u.tly := by rw [hframe]; rfl
    have harrs : t.arr = u.arr := by rw [hframe]; rfl
    have hstack : ∀ k, stackOfN t k = stackOfN u k := fun k => congrArg (fun m : Mem => tabGet ({} : Stack) m.stackOf k) hmem
    have hchan : ∀ c, chanOf t c = chanOf u c := fun c => congrArg (fun m : Mem => tabGet ({} : Channel) m.channels c) hmem
    have harrOf : ∀ a, arrOf t a = arrOf u a := fun a => congrArg (fun w : ArrUnit => tabGet ({} : Arr) w.arrays a) harrs
    refine ⟨t, hex, ?_, ?_, ?_, ?_, ?_, fun k hk => ?_, fun c => ?_, ?_, fun a => ?_, fun h => ?_, hnv.trans hset⟩
    · rw [hmem]; exact hgen
    · rw [hmem]; exact hcells
    · rw [hmem]; exact hpoison
    · rw [hmem]; exact hbusy
    · rw [hmem]; exact hstatus
    · rw [hstack]; exact hstacks k hk
    · rw [hchan]; exact hcomb c
    · rw [htlys]; exact htly
    · rw [harrOf]; exact harr a
    · rw [honly h] at hframe
      rw [hframe]
      rfl
  · have hdone : tenantScrubDone s = scrubEntry 1 (allStacks .active (modMem (fun m => { m with tenantBusy := false }) s)) := if_pos hb
    have hstate : ∀ k, k < 24 → (stackOfN (allStacks .active (modMem (fun m => { m with tenantBusy := false }) s)) k).state = .active :=
      fun k hk => allStacks_state .active _ hk
    obtain ⟨st, hst⟩ := allStacks_parts .active (modMem (fun m => { m with tenantBusy := false }) s)
    have honly := ledgerDevice_only 9 0 (detailOf [(0, 4, s.mem.gen.toNat), (4, 1, 1)]) { s with mem := { s.mem with tenantBusy := false, stackOf := st } }
    have hroom := ledgerDevice_room (type := 9) (result := 0) (d := detailOf [(0, 4, s.mem.gen.toNat), (4, 1, 1)]) (s := { s with mem := { s.mem with tenantBusy := false, stackOf := st } })
    have hentry : tenantScrubDone s = ledgerDevice 9 0 (detailOf [(0, 4, s.mem.gen.toNat), (4, 1, 1)]) { s with mem := { s.mem with tenantBusy := false, stackOf := st } } := by
      rw [hdone, hst]
      rfl
    rw [hst] at hstate
    generalize ledgerDevice 9 0 (detailOf [(0, 4, s.mem.gen.toNat), (4, 1, 1)]) { s with mem := { s.mem with tenantBusy := false, stackOf := st } } = t at *
    have hmem : t.mem = { s.mem with tenantBusy := false, stackOf := st } := by rw [honly]
    have hkeep : keepFixed s t = t := honly.keepFixed rfl rfl rfl
    refine ⟨t, ?_, by rw [hmem], fun k hk => ?_, by rw [hmem], by rw [hmem], fun h => hroom h, ?_⟩
    · show coreLive s (tenantScrubDone s) = _
      rw [coreLive_next hclock, hentry, hkeep]
    · have hstack : stackOfN t k = stackOfN { s with mem := { s.mem with tenantBusy := false, stackOf := st } } k := congrArg (fun m : Mem => tabGet ({} : Stack) m.stackOf k) hmem
      rw [hstack]
      exact hstate k hk
    · rw [hmem]
      exact honly

end Sys2Proof.Machine
end

section
/-! SUPPORT. The block's own host accesses, where the controller takes one at once (R70, R82, R418). -/

namespace Sys2Proof.Machine

open Sys2Proof

theorem epOf_unrest (n m : Nat) (s : State) : epOf (unrest n s) m = epOf s m := by
  unfold unrest
  split <;> rfl

theorem unrest_frame (n : Nat) (s : State) : unrest n s = { s with pwr := (unrest n s).pwr } := by
  unfold unrest
  split <;> rfl

theorem unrest_modEp (n m : Nat) (f : Ep → Ep) (s : State) : unrest n (modEp m f s) = { s with eps := (modEp m f s).eps, pwr := (unrest n s).pwr } := by
  unfold unrest
  show (if tabGet 0 s.pwr.portState n = 1 then _ else _) = _
  split <;> rfl

theorem unrest_pwr {s t : State} (n : Nat) (h : t.pwr = s.pwr) : (unrest n t).pwr = (unrest n s).pwr := by
  unfold unrest
  rw [h]
  split
  · exact congrArg (fun p => { p with portState := tabSet 0 p.portState n 0 }) h
  · exact h

theorem modEp_congr {n : Nat} {f g : Ep → Ep} {s : State} (h : f (epOf s n) = g (epOf s n)) : modEp n f s = modEp n g s := by
  unfold modEp tabMod
  show { s with eps := tabSet {} s.eps n (f (epOf s n)) } = { s with eps := tabSet {} s.eps n (g (epOf s n)) }
  rw [h]

/-- A message of a block that is attached, over a port that is not quiet. -/
theorem epSend_awake {n : Nat} {m : AttachMsg} {s : State} (ha : (epOf s n).attach ≠ .down) (hq : (portOf s n).quiet = false) :
    epSend n m s = unrest n (modEp n (fun e => { e with sent := e.sent ++ [m] }) s) := by
  unfold epSend
  rw [if_neg ha, if_neg (by rw [hq]; decide)]

/-- The block with a delivery in a slot and its message sent. -/
def handedOver (k : Nat) (d : Delivery) (m : AttachMsg) (e : Ep) : Ep :=
  { e with dlvQueue := [], dlvSlots := tabSet {} e.dlvSlots k ⟨(tabGet {} e.dlvSlots k).gen, some d⟩, sent := e.sent ++ [m] }

theorem nextDlv_one {s : State} {n : Nat} {d : Delivery} (hq : (epOf s n).dlvQueue = [d]) (hroom : dlvRoom (epOf s n) (dlvIsHost d) = true) (hc : dlvChunk d = none) :
    nextDlv s n = some 0 := by
  have hpos : findPos (fun d => dlvRoom (epOf s n) (dlvIsHost d)) [d] = some 0 := by
    unfold findPos
    rw [List.findIdx?_cons, if_pos hroom]
  unfold nextDlv
  dsimp only
  rw [hq, hpos]
  dsimp only
  rw [List.getElem?_cons_zero, Option.bind_some, hc]

/-- A host access that the controller has room for goes out at once. -/
theorem pumpDlv_room {s : State} {n k : Nat} {d : Delivery} (h : DlvRoom s n k) (hhost : dlvIsHost d = true) (hc : dlvChunk d = none) :
    pumpDlv n (modEp n (fun e => { e with dlvQueue := e.dlvQueue ++ [d] }) s) = unrest n (modEp n (handedOver k d (dlvIn s n k d)) s) := by
  obtain ⟨hready, hquiet, hoff, hempty, hout, hslot⟩ := h
  have hep : epOf (modEp n (fun e => { e with dlvQueue := e.dlvQueue ++ [d] }) s) n = { epOf s n with dlvQueue := [d] } := by
    rw [epOf_modEp, hempty]
    rfl
  have hsend : ∀ u : State, epOf u n = { epOf s n with dlvQueue := [d] } → (portOf u n).quiet = false →
      pumpDlvOne n u = unrest n (modEp n (fun e => { e with sent := e.sent ++ [dlvIn s n k d] })
        (modEp n (fun e => { e with dlvQueue := nthDel e.dlvQueue 0, dlvSlots := tabSet {} e.dlvSlots k ⟨(tabGet {} (epOf s n).dlvSlots k).gen, some d⟩ }) u)) := by
    intro u hu hq
    have hnext : nextDlv u n = some 0 := nextDlv_one (by rw [hu]) (by
      rw [hu, hhost]
      exact decide_eq_true hout) hc
    have hfree : freeSlot { epOf s n with dlvQueue := [d] } = some k := hslot
    unfold pumpDlvOne
    dsimp only
    rw [hnext, hu]
    rw [if_neg (by rintro (h | h); exacts [h hready, by rw [hoff] at h; cases h])]
    dsimp only
    rw [hfree]
    refine epSend_awake ?_ hq
    rw [epOf_modEp, hu]
    show (epOf s n).attach ≠ .down
    rw [hready]
    decide
  have hone : pumpDlv n (modEp n (fun e => { e with dlvQueue := e.dlvQueue ++ [d] }) s) = pumpDlvOne n (modEp n (fun e => { e with dlvQueue := e.dlvQueue ++ [d] }) s) := by
    unfold pumpDlv
    rw [hep]
    rfl
  rw [hone, hsend _ hep hquiet, modEp_modEp, modEp_modEp]
  refine congrArg (unrest n) (modEp_congr ?_)
  unfold handedOver nthDel
  rw [hempty]
  rfl

end Sys2Proof.Machine
end

section
/-! SUPPORT. Shard-group operations (R401, R405-R407). -/

namespace Sys2Proof.Machine

open Sys2Proof

/-! ## Stripes -/

theorem nextPart_spec (p : Nat → Bool) (n i : Nat) : nextPart p n i = n ∨ (nextPart p n i < n ∧ p (nextPart p n i) = true) := by
  unfold nextPart
  cases hf : (List.range 10).find? fun d => decide (i + d < n) && p (i + d) with
  | none => exact .inl rfl
  | some d =>
    have hd := List.find?_some hf
    rw [Bool.and_eq_true, decide_eq_true_iff] at hd
    exact .inr hd

/-- An operation in progress takes a change, and shows how far it has come. -/
theorem modEc_some {f : EcOp → EcOp} {o : EcOp} {s : State} (h : s.mem.ecOp = some o) :
    modEc f s = modMem (fun m => { m with ecOp := some (f o), stripesDone := BitVec.ofNat 25 (min (f o).sendAt (f o).written) }) s := by
  have hmap : modMem (fun m => { m with ecOp := m.ecOp.map f }) s = modMem (fun m => { m with ecOp := some (f o) }) s := by
    show { s with mem := { s.mem with ecOp := s.mem.ecOp.map f } } = { s with mem := { s.mem with ecOp := some (f o) } }
    rw [h]
    rfl
  unfold modEc
  rw [hmap]
  rfl

/-- The stripe of which this rank next sends its strip, and of which it next writes one. -/
def sendFrom (s : State) (o : EcOp) : Nat := nextPart (fun i => !(stripReceivers s o i).isEmpty) (ecStripes (ecEntryOf s o.entry)) o.sendAt
def writeFrom (s : State) (o : EcOp) : Nat := nextPart (fun i => !(stripSenders s o i).isEmpty) (ecStripes (ecEntryOf s o.entry)) o.written

section Pump
variable {s : State} {o : EcOp} (h : s.mem.ecOp = some o) (hout : o.sendOut = 0) (hto : o.sendTo = [])
include h hout hto

/-- A rank with no strip to send. -/
theorem ecPump_none (hn : sendFrom s o = ecStripes (ecEntryOf s o.entry)) : ecPump s = modEc (fun x => { x with sendAt := sendFrom s o, sendTo := [] }) s := by
  have hat : nextPart (fun i => !(stripReceivers s o i).isEmpty) (ecStripes (ecEntryOf s o.entry)) o.sendAt = sendFrom s o := rfl
  unfold ecPump
  rw [h]
  dsimp only
  rw [if_neg (by rw [hout]; decide), hto, hat, if_neg (by rw [hn]; exact lt_irrefl _)]

/-- A rank whose first strip has a receiver. -/
theorem ecPump_sends {r : Nat} {rest : List Nat} (hn : sendFrom s o < ecStripes (ecEntryOf s o.entry)) (hr : stripReceivers s o (sendFrom s o) = r :: rest) :
    ecPump s = sendStrip r { o with sendAt := sendFrom s o, sendTo := r :: rest } (modEc (fun x => { x with sendAt := sendFrom s o, sendTo := r :: rest }) s) := by
  have hat : nextPart (fun i => !(stripReceivers s o i).isEmpty) (ecStripes (ecEntryOf s o.entry)) o.sendAt = sendFrom s o := rfl
  have hop : (modEc (fun x => { x with sendAt := sendFrom s o, sendTo := r :: rest }) s).mem.ecOp = some { o with sendAt := sendFrom s o, sendTo := r :: rest } := by
    rw [modEc_some h]
    rfl
  unfold ecPump
  rw [h]
  dsimp only
  rw [if_neg (by rw [hout]; decide), hto, hat, if_pos hn, hr, hop]

end Pump

/-- A rank that no strip has come in for writes none yet. -/
theorem writeStrips_waits {s : State} {o : EcOp} (h : s.mem.ecOp = some o) (hin : s.mem.ecIn = []) :
    writeStrips false 1 s = modEc (fun x => { x with written := writeFrom s o }) s := by
  have hat : nextPart (fun i => !(stripSenders s o i).isEmpty) (ecStripes (ecEntryOf s o.entry)) o.written = writeFrom s o := rfl
  have hwaits : ∀ u : State, u.mem.ecIn = [] → u.mem.ecEntries = s.mem.ecEntries → planeIdx u = planeIdx s → u.glb.viewWords = s.glb.viewWords →
      ¬ (writeFrom s o < ecStripes (ecEntryOf s o.entry) ∧ relayIn u o (writeFrom s o) = true
        ∧ (false = true ∨ ((stripSenders u o (writeFrom s o)).all fun r => !ecOnPlane u (ecEntryOf s o.entry) r) = true)) := by
    rintro u huin hue hplane hviews ⟨hlt, hrelay, hall⟩
    have hpart := ((nextPart_spec (fun i => !(stripSenders s o i).isEmpty) (ecStripes (ecEntryOf s o.entry)) o.written).resolve_left (ne_of_lt hlt)).2
    have hentry : ecEntryOf u o.entry = ecEntryOf s o.entry := by unfold ecEntryOf; rw [hue]
    have hsenders : stripSenders u o (writeFrom s o) = stripSenders s o (writeFrom s o) := by
      unfold stripSenders rebuildSenders viewOf
      rw [hentry, hviews]
    have hsome : (!(stripSenders s o (writeFrom s o)).isEmpty) = true := hpart
    have hall := hall.resolve_left (by decide)
    unfold relayIn at hrelay
    rw [hentry] at hrelay
    rw [hsenders] at hrelay hall
    cases hl : stripSenders s o (writeFrom s o) with
    | nil =>
      rw [hl] at hsome
      cases hsome
    | cons r l =>
      rw [hl] at hrelay hall
      have hon := List.all_eq_true.mp hrelay r List.mem_cons_self
      have hoff := List.all_eq_true.mp hall r List.mem_cons_self
      have hnone : stripIn u (writeFrom s o) r = none := by
        unfold stripIn
        rw [huin]
        rfl
      rw [hnone, Option.isSome_none, Bool.or_false] at hon
      rw [hon] at hoff
      cases hoff
  unfold writeStrips
  rw [h]
  dsimp only
  rw [hat]
  refine if_neg (hwaits _ ?_ ?_ ?_ ?_)
  all_goals rw [modEc_some h]
  · exact hin
  all_goals rfl


/-! ## An operation begins -/

/-- The operation that a write begins, and the module that has begun it with so much sent. -/
def newEcOp (rebuild : Bool) (k r : Nat) (s : State) : EcOp :=
  { rebuild := rebuild, entry := k, rank := r, vepoch := vwEpoch (viewOf s (ecGid (ecEntryOf s k))), num := s.mem.ecCount + 1 }
def ecBegun (o : EcOp) (s : State) : State := modMem (fun m => { m with
  ecStatus := 0, ecIn := [], ecCount := m.ecCount + 1, ecOp := some o, stripesDone := BitVec.ofNat 25 (min o.sendAt o.written) }) s

theorem modEc_begun (f : EcOp → EcOp) (o : EcOp) (s : State) : modEc f (ecBegun o s) = ecBegun (f o) s := modEc_some rfl

/-- The delivery that claims slot 0 of a receiver's mailbox. -/
def claimDlv (e : BitVec 384) (num r at_ : Nat) : Delivery :=
  { use := .host (.relayClaim num 0), opcode := 0x43, addr := BitVec.ofNat 52 (mailbox e r), len := 8, subop := 0x87, dtype := 2
    payload := leBytes 8 (slotWordOf 1 (ecMyRank e) at_) ++ leBytes 8 0, ring := 64 }

/-- A strip that goes through the relay claims a slot of the receiver's mailbox. -/
theorem sendStrip_claims {r slot : Nat} {o x : EcOp} {e : BitVec 384} {u : State} (hop : u.mem.ecOp = some x) (he : ecEntryOf u o.entry = e)
    (hplane : ecOnPlane u e r = false) (hrelay : ecRelay e = true) (hroom : DlvRoom u (ecRelayPort e) slot) :
    sendStrip r o u = unrest (ecRelayPort e) (modEp (ecRelayPort e)
      (handedOver slot (claimDlv e o.num r o.sendAt) (dlvIn u (ecRelayPort e) slot (claimDlv e o.num r o.sendAt))) (modEc (fun o => { o with sendOut := 1 }) u)) := by
  unfold sendStrip
  dsimp only
  rw [he, if_neg (by rw [hplane]; decide), if_neg (by rw [hrelay, hroom.1]; decide), modEc_some hop]
  unfold claimSlot
  dsimp only
  have hentry : ecEntryOf (modMem (fun m => { m with
      ecOp := some { x with sendOut := 1 }, stripesDone := BitVec.ofNat 25 (min x.sendAt x.written) }) u) o.entry = e := he
  rw [hentry]
  exact pumpDlv_room (s := modMem (fun m => { m with
      ecOp := some { x with sendOut := 1 }, stripesDone := BitVec.ofNat 25 (min x.sendAt x.written) }) u) hroom rfl rfl

section Begin
variable {rebuild : Bool} {k r : Nat} {s : State} (h : ecStart s rebuild r (ecEntryOf s k) = 0)
include h

theorem ecBegin_begins : ecBegin rebuild k r s = writeStrips false 1 (ecPump (ecBegun (newEcOp rebuild k r s) s)) := by
  unfold ecBegin
  dsimp only
  rw [if_neg (not_not.mpr h)]
  rfl

/-- A rank with no strip to send waits for those it needs. -/
theorem ecBegin_waits (hn : sendFrom s (newEcOp rebuild k r s) = ecStripes (ecEntryOf s k)) : ecBegin rebuild k r s
    = ecBegun { newEcOp rebuild k r s with sendAt := sendFrom s (newEcOp rebuild k r s), written := writeFrom s (newEcOp rebuild k r s) } s := by
  have hpump : ecPump (ecBegun (newEcOp rebuild k r s) s) = ecBegun { newEcOp rebuild k r s with sendAt := sendFrom s (newEcOp rebuild k r s) } s :=
    (ecPump_none (s := ecBegun (newEcOp rebuild k r s) s) rfl rfl rfl hn).trans (modEc_begun _ _ s)
  rw [ecBegin_begins h, hpump, writeStrips_waits rfl rfl, modEc_begun]
  rfl

/-- A rank whose first strip goes through the relay claims a slot of the receiver's mailbox. -/
theorem ecBegin_claims {r0 slot : Nat} {rest : List Nat} (hn : sendFrom s (newEcOp rebuild k r s) < ecStripes (ecEntryOf s k))
    (hr : stripReceivers s (newEcOp rebuild k r s) (sendFrom s (newEcOp rebuild k r s)) = r0 :: rest) (hplane : ecOnPlane s (ecEntryOf s k) r0 = false)
    (hrelay : ecRelay (ecEntryOf s k) = true) (hroom : DlvRoom s (ecRelayPort (ecEntryOf s k)) slot) :
    let n := ecRelayPort (ecEntryOf s k)
    let d := claimDlv (ecEntryOf s k) (s.mem.ecCount + 1) r0 (sendFrom s (newEcOp rebuild k r s))
    ecBegin rebuild k r s = { s with
      mem := (ecBegun { newEcOp rebuild k r s with
        sendAt := sendFrom s (newEcOp rebuild k r s), written := writeFrom s (newEcOp rebuild k r s), sendTo := r0 :: rest, sendOut := 1 } s).mem
      eps := (modEp n (handedOver slot d (dlvIn s n slot d)) s).eps, pwr := (unrest n s).pwr } := by
  have hpump := (ecPump_sends (s := ecBegun (newEcOp rebuild k r s) s) rfl rfl rfl hn hr).trans (congrArg _ (modEc_begun _ _ s))
  have hclaim := sendStrip_claims (r := r0) (slot := slot) (o := { newEcOp rebuild k r s with sendAt := sendFrom s (newEcOp rebuild k r s), sendTo := r0 :: rest }) (e := ecEntryOf s k)
    (u := ecBegun { newEcOp rebuild k r s with sendAt := sendFrom s (newEcOp rebuild k r s), sendTo := r0 :: rest } s) rfl rfl hplane hrelay hroom
  have hpwr : (unrest (ecRelayPort (ecEntryOf s k)) (ecBegun { newEcOp rebuild k r s with
      sendAt := sendFrom s (newEcOp rebuild k r s), sendTo := r0 :: rest, sendOut := 1 } s)).pwr = (unrest (ecRelayPort (ecEntryOf s k)) s).pwr := unrest_pwr _ rfl
  rw [modEc_begun, unrest_modEp, hpwr] at hclaim
  rw [ecBegin_begins h, hpump]
  refine (congrArg (writeStrips false 1) hclaim).trans ((writeStrips_waits rfl rfl).trans ((modEc_some rfl).trans ?_))
  rfl

end Begin

/-- An operation that may not begin has its STATUS and a record. -/
theorem ecBegin_refused {rebuild : Bool} {k r : Nat} {s : State} (h : ecStart s rebuild r (ecEntryOf s k) ≠ 0) : ecBegin rebuild k r s
    = devFault0 0x94 sevError k 0 (modMem (fun m => { m with ecStatus := BitVec.ofNat 3 (ecStart s rebuild r (ecEntryOf s k)) }) s) := by
  unfold ecBegin
  exact if_pos h

/-- The end of an operation: memory and its record, and a tally where the entry names one. -/
theorem endEc_all {o : EcOp} {s : State} (h : s.mem.ecOp = some o) : let t := endEc 5 s
    t.mem = { s.mem with ecOp := none, ecIn := [], ecStatus := 5 } ∧ (s.glb.faults.length < 1024 → Recorded t 0x94 sevError o.entry)
    ∧ FaultOnly { s with mem := t.mem } t := by
  have honly := devFault0_only 0x94 sevError o.entry 0 (modMem (fun m => { m with ecOp := none, ecIn := [], ecStatus := 5 }) s)
  have hrec := devFault0_recorded 0x94 sevError o.entry 0 (modMem (fun m => { m with ecOp := none, ecIn := [], ecStatus := 5 }) s)
  have hend : endEc 5 s = if ecTallyEn (ecEntryOf s o.entry)
      then tallyInc (ecTally (ecEntryOf s o.entry)) (devFault0 0x94 sevError o.entry 0 (modMem (fun m => { m with ecOp := none, ecIn := [], ecStatus := 5 }) s))
      else devFault0 0x94 sevError o.entry 0 (modMem (fun m => { m with ecOp := none, ecIn := [], ecStatus := 5 }) s) := by
    unfold endEc
    rw [h]
    rfl
  dsimp only
  rw [hend]
  generalize devFault0 0x94 sevError o.entry 0 (modMem (fun m => { m with ecOp := none, ecIn := [], ecStatus := 5 }) s) = u at *
  have hmem : u.mem = { s.mem with ecOp := none, ecIn := [], ecStatus := 5 } := by rw [honly]; rfl
  by_cases ht : ecTallyEn (ecEntryOf s o.entry) = true
  · rw [if_pos ht]
    have hfault : FaultOnly { s with mem := { s.mem with ecOp := none, ecIn := [], ecStatus := 5 } } (tallyInc (ecTally (ecEntryOf s o.entry)) u) := by
      rw [tallyInc_tly]
      unfold FaultOnly at *
      rw [honly]
      rfl
    refine ⟨hmem, fun hl => hrec hl, ?_⟩
    have hmem2 : (tallyInc (ecTally (ecEntryOf s o.entry)) u).mem = { s.mem with ecOp := none, ecIn := [], ecStatus := 5 } := hmem
    rw [hmem2]
    exact hfault
  · rw [if_neg ht]
    refine ⟨hmem, fun hl => hrec hl, ?_⟩
    rw [hmem]
    exact honly

/-! ## MEM_EC_CTL -/

theorem rebuildWord_fields (r : BitVec 4) (k : BitVec 3) : let v := pack [(26, 3), (8, r.toNat), (0, k.toNat)]
    (bitsOf v 26 2).toNat = 3 ∧ (bitsOf v 8 4 : BitVec 4) = r ∧ (bitsOf v 0 3 : BitVec 3) = k := by
  revert r k; decide

theorem encodeWord_fields (op : BitVec 2) (k : BitVec 3) : let v := pack [(26, op.toNat), (0, k.toNat)]
    (bitsOf v 26 2).toNat = op.toNat ∧ (bitsOf v 8 4 : BitVec 4) = 0 ∧ (bitsOf v 0 3 : BitVec 3) = k := by
  revert op k; decide

theorem ecCtlWrite_op {v : W32} {r : BitVec 4} {k : BitVec 3} {s : State} (hb : s.mem.ecOp = none) (hr : (bitsOf v 8 4 : BitVec 4) = r) (hk : (bitsOf v 0 3 : BitVec 3) = k) :
    let u := modMem (fun m => { m with ecRank := r, ecEntry := k }) s
    ((bitsOf v 26 2).toNat = 1 → ecCtlWrite v s = started (ecWriteEntry k.toNat u)) ∧ ((bitsOf v 26 2).toNat = 2 → ecCtlWrite v s = started (ecBegin false k.toNat r.toNat u))
    ∧ ((bitsOf v 26 2).toNat = 3 → ecCtlWrite v s = started (ecBegin true k.toNat r.toNat u)) := by
  unfold ecCtlWrite
  rw [hb, hr, hk]
  dsimp only
  refine ⟨fun h => ?_, fun h => ?_, fun h => ?_⟩ <;> (rw [h]; rfl)

/-- ENCODE and REBUILD, as one operation that begins. -/
theorem ecCtlWrite_begins (rebuild : Bool) (r : BitVec 4) (k : BitVec 3) {s : State} (hb : s.mem.ecOp = none) :
    let rank : BitVec 4 := if rebuild then r else 0
    ecCtlWrite (if rebuild then pack [(26, 3), (8, r.toNat), (0, k.toNat)] else pack [(26, 2), (0, k.toNat)]) s
      = started (ecBegin rebuild k.toNat rank.toNat (modMem (fun m => { m with ecRank := rank, ecEntry := k }) s)) := by
  cases rebuild with
  | true =>
    obtain ⟨hop, hr, hk⟩ := rebuildWord_fields r k
    exact (ecCtlWrite_op hb hr hk).2.2 hop
  | false =>
    obtain ⟨hop, hr, hk⟩ := encodeWord_fields 2 k
    exact (ecCtlWrite_op hb hr hk).2.1 hop

theorem ecWriteEntry_eq (k : Nat) (s : State) : let ok := (!ecValid s.mem.ecData || ecEntryOk s s.mem.ecData) && ecKeepsLive s (ecEntryOf s k) s.mem.ecData
    ecWriteEntry k s = modMem (fun m => { m with ecStatus := if ok then 0 else 1, ecEntries := if ok then tabSet 0 m.ecEntries k m.ecData else m.ecEntries }) s := by
  unfold ecWriteEntry
  dsimp only
  split <;> rfl

theorem ecCtlWrite_abort {o : EcOp} {s : State} (h : s.mem.ecOp = some o) : (ecCtlWrite (pack [(25, 1)]) s).state = endEc 5 s := by
  unfold ecCtlWrite
  rw [h]
  rfl

/-- A module whose memory alone has taken an operation's rank, entry and STATUS, and its record. -/
theorem ecCtlWrite_refused {rebuild : Bool} {r : BitVec 4} {k : BitVec 3} {s : State} (hb : s.mem.ecOp = none) :
    let rank : BitVec 4 := if rebuild then r else 0
    ecStart s rebuild rank.toNat (ecEntryOf s k.toNat) ≠ 0 →
      (ecCtlWrite (if rebuild then pack [(26, 3), (8, r.toNat), (0, k.toNat)] else pack [(26, 2), (0, k.toNat)]) s).state
        = devFault0 0x94 sevError k.toNat 0 (modMem (fun m => { m with
          ecRank := rank, ecEntry := k, ecStatus := BitVec.ofNat 3 (ecStart s rebuild rank.toNat (ecEntryOf s k.toNat)) }) s) := by
  intro rank h
  rw [ecCtlWrite_begins rebuild r k hb]
  exact ecBegin_refused (s := modMem (fun m => { m with ecRank := rank, ecEntry := k }) s) h

/-- Settles O30: WRITE by its answer, ENCODE and REBUILD by the operation that begins or by its refusal, ABORT by the operation's end. -/
theorem shardOperationsStartAndAbort : Obligations.ShardOperationsStartAndAbort := by
  intro s i x k r hs ho hr
  have hmay : mayWrite x.role .ecCtl = true := may_both hr rfl
  refine ⟨fun hb => ⟨?_, fun rebuild => ?_⟩, fun o ho' => ?_⟩
  · obtain ⟨hop, hrk, hk⟩ := encodeWord_fields 1 k
    exact live_write hs ho rfl hmay (((ecCtlWrite_op (s := countIn i s) hb hrk hk).1 hop).trans (congrArg started (ecWriteEntry_eq k.toNat _)))
  · intro c rank e
    have hexec : exec c s = live s (mahelWrite i 0x0B000020 (if rebuild then pack [(26, 3), (8, r.toNat), (0, k.toNat)] else pack [(26, 2), (0, k.toNat)]) s) := by
      cases rebuild <;> rfl
    have hbegins : ecCtlWrite (if rebuild then pack [(26, 3), (8, r.toNat), (0, k.toNat)] else pack [(26, 2), (0, k.toNat)]) (countIn i s)
        = started (ecBegin rebuild k.toNat rank.toNat (modMem (fun m => { m with ecRank := rank, ecEntry := k }) (countIn i s))) := ecCtlWrite_begins rebuild r k hb
    rw [hexec]
    refine ⟨fun hstart => ?_, fun hstart => ?_⟩
    · intro o sendAt written begun
      refine ⟨fun hn => ?_, fun r0 rest slot hlt hrec hplane hrelay hquiet hroom => ?_⟩
      · exact live_write hs ho rfl hmay (hbegins.trans (congrArg started
          (ecBegin_waits (s := modMem (fun m => { m with ecRank := rank, ecEntry := k }) (countIn i s)) hstart hn)))
      · obtain ⟨t, hex, hframe, hnv⟩ := write_leaves (r := .ecCtl) (off := 0x0B000020) hs ho rfl hmay ((congrArg Wrote.state hbegins).trans
          (ecBegin_claims (s := modMem (fun m => { m with ecRank := rank, ecEntry := k }) (countIn i s)) hstart hlt hrec hplane hrelay hroom))
        refine ⟨t, hex, ?_, ?_, fun m hm => ?_, ?_, hnv⟩
        · rw [hframe]
          rfl
        · rw [hframe]
          exact congrArg Ep.sent (epOf_modEp (ecRelayPort e) _ (countIn i s))
        · rw [hframe]
          exact epOf_modEp_other _ (countIn i s) hm
        · rw [hframe, unrest_pwr (s := s) (t := modMem (fun m => { m with ecRank := rank, ecEntry := k }) (countIn i s)) _ rfl]
          rfl
    · obtain ⟨t, hex, hframe, hnv⟩ := write_leaves (r := .ecCtl) (off := 0x0B000020) hs ho rfl hmay (ecCtlWrite_refused (s := countIn i s) hb hstart)
      have honly := devFault0_only 0x94 sevError k.toNat 0 (modMem (fun m => { m with
        ecRank := rank, ecEntry := k, ecStatus := BitVec.ofNat 3 (ecStart s rebuild rank.toNat (ecEntryOf s k.toNat)) }) (countIn i s))
      have hrecord := devFault0_recorded 0x94 sevError k.toNat 0 (modMem (fun m => { m with
        ecRank := rank, ecEntry := k, ecStatus := BitVec.ofNat 3 (ecStart s rebuild rank.toNat (ecEntryOf s k.toNat)) }) (countIn i s))
      change t = { keepFixed s (devFault0 0x94 sevError k.toNat 0 (modMem (fun m => { m with
        ecRank := rank, ecEntry := k, ecStatus := BitVec.ofNat 3 (ecStart s rebuild rank.toNat (ecEntryOf s k.toNat)) }) (countIn i s))) with mgt := t.mgt, freeCount := t.freeCount } at hframe
      change t.mgt.nv = (devFault0 0x94 sevError k.toNat 0 (modMem (fun m => { m with
        ecRank := rank, ecEntry := k, ecStatus := BitVec.ofNat 3 (ecStart s rebuild rank.toNat (ecEntryOf s k.toNat)) }) (countIn i s))).mgt.nv at hnv
      generalize devFault0 0x94 sevError k.toNat 0 _ = u at *
      refine ⟨t, hex, ?_, fun hl => ?_, ?_, ?_⟩
      · rw [hframe, honly]
        rfl
      · rw [hframe]
        exact hrecord hl
      · rw [hframe, honly]
        rfl
      · rw [hnv, honly]
        rfl
  · obtain ⟨t, hex, hframe, hnv⟩ := write_leaves (r := .ecCtl) (off := 0x0B000020) hs ho rfl hmay (ecCtlWrite_abort (s := countIn i s) ho')
    obtain ⟨hmem, hrecord, honly⟩ := endEc_all (s := countIn i s) ho'
    generalize endEc 5 (countIn i s) = u at *
    refine ⟨t, hex, ?_, fun hl => ?_, ?_, ?_⟩
    · rw [hframe]
      exact hmem
    · rw [hframe]
      exact hrecord hl
    · rw [hframe, honly]
      rfl
    · rw [hnv, honly]
      rfl

end Sys2Proof.Machine
end

section
/-! SUPPORT. The service table (R345, R346, R361). -/

namespace Sys2Proof.Machine

open Sys2Proof

theorem svcOf_modSvcN_other {k m : Nat} (f : Svc → Svc) (s : State) (h : m ≠ k) : svcOf (modSvcN k f s) m = svcOf s m := tabGet_mod_other _ _ _ h

/-! ## The checks of a WRITE that reads no image -/

/-- The arrays of an entry hold its program, which may run as a service. -/
def arraysResident (s : State) (e : BitVec 512) : Bool :=
  (entryArrays s e).all fun a => (residentProg (arrOf s a) (eProg e)).any fun p => hdServiceOk p.hdr

theorem imageCheck_resident {e : BitVec 512} (hi : eImage e = 0) (l : List Nat) (s : State) :
    imageCheck e l s = (l.all fun a => (residentProg (arrOf s a) (eProg e)).any fun p => hdServiceOk p.hdr, s) := by
  induction l with
  | nil => rfl
  | cons a l ih =>
    unfold imageCheck
    rw [if_pos hi, List.all_cons]
    cases residentProg (arrOf s a) (eProg e) with
    | none => rfl
    | some p =>
      dsimp only
      rw [ih, Option.any_some]
      cases hdServiceOk p.hdr <;> rfl

/-- The STATUS of the checks behind RANGE. -/
def entryCode (k : Nat) (e : BitVec 512) (s : State) : Nat :=
  if entryOverlaps s k e then 3 else if svcLive s k then 4 else if !entryArraysOk s e then 5 else if !arraysResident s e then 6 else if keepOk s e then 0 else 7

theorem entryCheckRest_resident {e : BitVec 512} (hi : eImage e = 0) (k : Nat) (s : State) : entryCheckRest k e s = (entryCode k e s, s) := by
  unfold entryCheckRest entryCode arraysResident
  rw [imageCheck_resident hi]
  dsimp only
  split
  · rfl
  · split
    · rfl
    · split
      · rfl
      · split
        · rfl
        · split <;> rfl

theorem imageInRegion_resident {e : BitVec 512} (hi : eImage e = 0) (s : State) : imageInRegion e s = (true, s) := if_pos hi

theorem entryCheck_resident {e : BitVec 512} (hk : eKind e ≠ 0) (hi : eImage e = 0) (k : Nat) (s : State) :
    entryCheck k e s = (if !entryFormatOk e then 1 else if !entryRangeOk e then 2 else entryCode k e s, s) := by
  unfold entryCheck
  rw [if_neg hk, imageInRegion_resident hi]
  dsimp only
  rw [if_pos rfl, entryCheckRest_resident hi]
  split
  · rfl
  · split <;> rfl

/-- The WRITEs that fail before an image is read. -/
theorem entryCheck_fails {k c : Nat} {e : BitVec 512} {s : State}
    (h : (c = 4 ∧ eKind e = 0 ∧ svcLive s k = true) ∨ (c = 1 ∧ eKind e ≠ 0 ∧ entryFormatOk e = false)
      ∨ (c = 2 ∧ eKind e ≠ 0 ∧ entryFormatOk e = true ∧ (entryRangeOk e = false ∨ stackedSize < eImage e + 64 ∧ eImage e ≠ 0))
      ∨ (c = 3 ∧ eKind e ≠ 0 ∧ entryFormatOk e = true ∧ entryRangeOk e = true ∧ eImage e = 0 ∧ entryOverlaps s k e = true)) :
    entryCheck k e s = (c, s) ∧ c ≠ 0 := by
  rcases h with ⟨rfl, hk, hl⟩ | ⟨rfl, hk, hf⟩ | ⟨rfl, hk, hf, hr⟩ | ⟨rfl, hk, hf, hr, hi, hov⟩
  · unfold entryCheck
    rw [if_pos hk, if_pos hl]
    exact ⟨rfl, by decide⟩
  · unfold entryCheck
    rw [if_neg hk, hf]
    exact ⟨rfl, by decide⟩
  · unfold entryCheck
    rw [if_neg hk, hf]
    refine ⟨(if_neg (by decide)).trans ?_, by decide⟩
    cases hrange : entryRangeOk e with
    | false => rfl
    | true =>
      obtain ⟨hlt, hi⟩ := hr.resolve_left (by rw [hrange]; decide)
      have himage : imageInRegion e s = (false, s) := (if_neg hi).trans (if_pos hlt)
      rw [himage]
      rfl
  · rw [entryCheck_resident hk hi, hf, hr]
    unfold entryCode
    rw [if_pos hov]
    exact ⟨rfl, by decide⟩

/-! ## SVC_TAB_CTL -/

section Table
variable {k : BitVec 4} {s : State} (hb : s.svc.busy = false)
include hb

theorem svcTabCtlWrite_write : svcTabCtlWrite (pack [(26, 1), (0, k.toNat)]) s = svcTabWrite k.toNat (modSvc (fun u => { u with index := k }) s) := by
  unfold svcTabCtlWrite
  rw [if_neg (by rw [hb]; decide), pack_index k (by decide) (by decide), pack_op (k := k.toNat) (by omega) (by decide) (by decide)]
  rfl

theorem svcTabCtlWrite_read {d : BitVec 512} (hd : svcEntry s k.toNat = d) : svcTabCtlWrite (pack [(26, 2), (0, k.toNat)]) s
    = started (modSvc (fun u => { u with index := k, data := d, status := 0 }) s) := by
  subst hd
  unfold svcTabCtlWrite
  rw [if_neg (by rw [hb]; decide), pack_index k (by decide) (by decide), pack_op (k := k.toNat) (by omega) (by decide) (by decide)]
  rfl

theorem svcTabCtlWrite_drain (ha : (svcOf s k.toNat).state = .active) : svcTabCtlWrite (pack [(26, 3), (0, k.toNat)]) s
    = started (modSvcN k.toNat (fun v => { v with state := .draining }) (modSvc (fun u => { u with index := k, busy := true, status := 0 }) s)) := by
  unfold svcTabCtlWrite
  rw [if_neg (by rw [hb]; decide), pack_index k (by decide) (by decide), pack_op (k := k.toNat) (by omega) (by decide) (by decide)]
  exact if_pos ha

end Table

/-- What a removed service leaves: its counts. -/
def svcCleared (v : Svc) : Svc := { calls := v.calls, errs := v.errs, evict := v.evict }

/-- A service that starts on an entry, with its counts kept. -/
def svcStarted (e : BitVec 512) (slots : Tab PoolSlot) (v : Svc) : Svc :=
  { entry := e, state := .active, slots := slots, calls := v.calls, errs := v.errs, evict := v.evict }

/-- A WRITE that removes a service that is not live. -/
theorem svcTabWrite_removes {k : Nat} {e : BitVec 512} {s : State} (he : s.svc.data = e) (hk : eKind e = 0) (hl : svcLive s k = false) : svcTabWrite k s
    = started (modSvcN k svcCleared (modSvc (fun u => { u with status := 0 }) s)) := by
  have hcheck : entryCheck k e s = (0, s) := by
    unfold entryCheck
    rw [if_pos hk, hl]
    rfl
  unfold svcTabWrite
  dsimp only
  rw [he, hcheck]
  dsimp only
  rw [if_neg (not_not.mpr rfl), if_pos hk]
  rfl

theorem svcTabWrite_fails {k c : Nat} {e : BitVec 512} {s : State} (he : s.svc.data = e) (h : entryCheck k e s = (c, s)) (hc : c ≠ 0) :
    svcTabWrite k s = refused (devFault0 0x70 sevWarn k 0 (modSvc (fun u => { u with status := BitVec.ofNat 3 c }) s)) := by
  unfold svcTabWrite
  dsimp only
  rw [he, h]
  exact if_pos hc

/-- The slots that a tensor pool starts with. -/
def poolSlots (e : BitVec 512) (s : State) : Tab PoolSlot := (initState e s).1

/-- A WRITE that starts a tensor pool on resident programs. -/
theorem svcTabWrite_starts {k : Nat} {e : BitVec 512} {s : State} (he : s.svc.data = e) (hk : eKind e = 1) (hi : eImage e = 0) (hc : (entryCheck k e s).1 = 0) :
    svcTabWrite k s = started (modSvcN k (svcStarted e (poolSlots e s))
      (dropSaved e (modSvc (fun u => { u with status := 0 }) s))) := by
  have hcheck : entryCheck k e s = (0, s) := by
    rw [entryCheck_resident (by rw [hk]; decide) hi] at hc ⊢
    exact Prod.ext hc rfl
  have hinit : ∀ u : State, initState e u = ((initState e u).1, dropSaved e u) := by
    intro u
    unfold initState
    rw [if_pos hk]
  have hslots : (initState e (modSvc (fun u => { u with status := 0 }) s)).1 = poolSlots e s := by
    unfold poolSlots initState
    rw [if_pos hk, if_pos hk]
    rfl
  unfold svcTabWrite
  dsimp only
  rw [he, hcheck]
  dsimp only
  rw [if_neg (not_not.mpr rfl), if_neg (by rw [hk]; decide), if_pos hi]
  unfold svcActivate
  rw [show BitVec.ofNat 3 0 = 0 from rfl, hinit, hslots]
  rfl

theorem poolSlots_new {e : BitVec 512} {s : State} (hk : eKind e = 1) (hkeep : eKeep e = false) : poolSlots e s = [] := by
  unfold poolSlots initState
  rw [if_pos hk, hkeep]
  rfl

/-! ## DRAIN -/

/-- The end of a drain: the service is DISABLED with what its slots leave, and a pool's index is kept. -/
theorem svcDrainDone_all {k : Nat} {s : State} (hst : (svcOf s k).state = .draining) (hq : svcQuiet s k = true) : let t := svcDrainDone k s
    (svcOf t k).state = .disabled ∧ (svcOf t k).entry = (svcOf s k).entry ∧ t.svc.busy = false ∧ (∀ m, m ≠ k → svcOf t m = svcOf s m)
    ∧ (eKind (svcOf s k).entry = 1 → tabGet none t.svc.saved (eBase (svcOf s k).entry) = some
      ⟨BitVec.ofNat 8 (eBlkLog (svcOf s k).entry), BitVec.ofNat 8 (eRdtype (svcOf s k).entry), BitVec.ofNat 32 (eBlocks (svcOf s k).entry), (svcOf t k).slots⟩)
    ∧ t = { s with svc := t.svc } := by
  dsimp only
  unfold svcDrainDone
  dsimp only
  rw [if_neg (by rintro (h | h); exacts [h hst, by rw [hq] at h; cases h])]
  generalize (drainedSlots (svcOf s k).slots).filter (fun e => decide (e.2 ≠ {})) = slots
  have hself : svcOf (modSvcN k (fun v => { v with state := .disabled, slots := slots }) (modSvc (fun u => { u with busy := false }) s)) k
      = { svcOf s k with state := .disabled, slots := slots } := svcOf_modSvcN k _ _
  have hother : ∀ m, m ≠ k → svcOf (modSvcN k (fun v => { v with state := .disabled, slots := slots }) (modSvc (fun u => { u with busy := false }) s)) m = svcOf s m :=
    fun m hm => svcOf_modSvcN_other _ _ hm
  have hframe : modSvcN k (fun v => { v with state := .disabled, slots := slots }) (modSvc (fun u => { u with busy := false }) s)
      = { s with svc := (modSvcN k (fun v => { v with state := .disabled, slots := slots }) (modSvc (fun u => { u with busy := false }) s)).svc } := rfl
  have hbusy : (modSvcN k (fun v => { v with state := .disabled, slots := slots }) (modSvc (fun u => { u with busy := false }) s)).svc.busy = false := rfl
  generalize modSvcN k (fun v => { v with state := .disabled, slots := slots }) (modSvc (fun u => { u with busy := false }) s) = w at *
  have hsaved : ∀ f : SvcUnit → SvcUnit, (∀ u, (f u).svcs = u.svcs) → ∀ m, svcOf (modSvc f w) m = svcOf w m := fun f hf m =>
    congrArg (fun l => tabGet ({} : Svc) l m) (hf w.svc)
  by_cases hkind : eKind (svcOf s k).entry = 1
  · have hof := hsaved (fun u => { u with saved := tabSet none u.saved (eBase (svcOf s k).entry) (some
      ⟨BitVec.ofNat 8 (eBlkLog (svcOf s k).entry), BitVec.ofNat 8 (eRdtype (svcOf s k).entry), BitVec.ofNat 32 (eBlocks (svcOf s k).entry), slots⟩) }) fun _ => rfl
    rw [if_pos hkind, hof k, hself]
    refine ⟨rfl, rfl, hbusy, fun m hm => (hof m).trans (hother m hm), fun _ => ?_, ?_⟩
    · unfold modSvc
      dsimp only
      rw [tabGet_set_same]
    · rw [hframe]
      rfl
  · rw [if_neg hkind, hself]
    exact ⟨rfl, rfl, hbusy, hother, fun h => absurd h hkind, hframe⟩

theorem modSvcN_countIn (k i : Nat) (f : Svc → Svc) (s : State) : modSvcN k f (countIn i s) = countIn i (modSvcN k f s) := rfl

theorem modSvcN_pins (k : Nat) (f : Svc → Svc) (s : State) :
    (modSvcN k f s).pending = s.pending ∧ (modSvcN k f s).fuses = s.fuses ∧ (modSvcN k f s).attachBuf = s.attachBuf := ⟨rfl, rfl, rfl⟩

theorem modSvc_countIn (i : Nat) (f : SvcUnit → SvcUnit) (s : State) : modSvc f (countIn i s) = countIn i (modSvc f s) := rfl

theorem svcOf_countIn (i k : Nat) (s : State) : svcOf (countIn i s) k = svcOf s k := rfl

/-- Settles O31: table operations by their answers or by what they leave of the table, and a drain's end. -/
theorem serviceTableOperations : Obligations.ServiceTableOperations := by
  refine ⟨?_, fun s k hclock hk hst hq => ?_⟩
  · intro s i x k hs ho hr hb e
    have hmay : mayWrite x.role .svcTabCtl = true := may_both hr rfl
    refine ⟨?_, fun ha => ?_, fun hkind hlive => ?_, fun c hc => ?_, fun hkind himage hcheck => ?_⟩
    · exact live_write hs ho rfl hmay (svcTabCtlWrite_read (s := countIn i s) hb (d := svcEntry s k.toNat) (congrArg Svc.entry (svcOf_countIn i k.toNat s)))
    · exact live_write hs ho rfl hmay (svcTabCtlWrite_drain (s := countIn i s) hb ha)
    · have hwrite := (svcTabCtlWrite_write (k := k) (s := countIn i s) hb).trans
        (svcTabWrite_removes (k := k.toNat) (s := modSvc (fun u => { u with index := k }) (countIn i s)) (e := e) rfl hkind hlive)
      rw [modSvc_countIn, modSvc_countIn, modSvc_modSvc, modSvcN_countIn] at hwrite
      exact live_write hs ho rfl hmay hwrite (modSvcN_pins _ _ _)
    · obtain ⟨hcode, hne⟩ := entryCheck_fails (s := modSvc (fun u => { u with index := k }) (countIn i s)) hc
      obtain ⟨t, hex, hframe, hnv⟩ := write_leaves (r := .svcTabCtl) (off := 0x0C000000) hs ho rfl hmay (congrArg Wrote.state
        ((svcTabCtlWrite_write (k := k) (s := countIn i s) hb).trans (svcTabWrite_fails (s := modSvc (fun u => { u with index := k }) (countIn i s)) (e := e) rfl hcode hne)))
      have honly := devFault0_only 0x70 sevWarn k.toNat 0 (modSvc (fun u => { u with status := BitVec.ofNat 3 c }) (modSvc (fun u => { u with index := k }) (countIn i s)))
      have hrec := devFault0_recorded 0x70 sevWarn k.toNat 0 (modSvc (fun u => { u with status := BitVec.ofNat 3 c }) (modSvc (fun u => { u with index := k }) (countIn i s)))
      change t = { keepFixed s (devFault0 0x70 sevWarn k.toNat 0 (modSvc (fun u => { u with status := BitVec.ofNat 3 c }) (modSvc (fun u => { u with index := k }) (countIn i s))))
        with mgt := t.mgt, freeCount := t.freeCount } at hframe
      change t.mgt.nv = (devFault0 0x70 sevWarn k.toNat 0 (modSvc (fun u => { u with status := BitVec.ofNat 3 c }) (modSvc (fun u => { u with index := k }) (countIn i s)))).mgt.nv at hnv
      generalize devFault0 0x70 sevWarn k.toNat 0 _ = u at *
      refine ⟨t, hex, ?_, fun hl => ?_, ?_, ?_⟩
      · rw [hframe, honly]
        rfl
      · rw [hframe]
        exact hrec hl
      · rw [hframe, honly]
        rfl
      · rw [hnv, honly]
        rfl
    · have hcheck' : (entryCheck k.toNat e (modSvc (fun u => { u with index := k }) (countIn i s))).1 = 0 := by
        rw [entryCheck_resident (by rw [hkind]; decide) himage] at hcheck ⊢
        exact hcheck
      have hslots : eKeep e = false → poolSlots e (modSvc (fun u => { u with index := k }) (countIn i s)) = [] := poolSlots_new hkind
      have hwrite := (svcTabCtlWrite_write (k := k) (s := countIn i s) hb).trans
        (svcTabWrite_starts (s := modSvc (fun u => { u with index := k }) (countIn i s)) (e := e) rfl hkind himage hcheck')
      generalize poolSlots e (modSvc (fun u => { u with index := k }) (countIn i s)) = slots at hwrite hslots
      obtain ⟨t, hex, hframe, hnv⟩ := write_leaves (r := .svcTabCtl) (off := 0x0C000000) hs ho rfl hmay (congrArg Wrote.state hwrite)
      have hsvc : ∀ m, svcOf (dropSaved e (modSvc (fun u => { u with status := 0 }) (modSvc (fun u => { u with index := k }) (countIn i s)))) m = svcOf s m := fun _ => rfl
      have hdrop : dropSaved e (modSvc (fun u => { u with status := 0 }) (modSvc (fun u => { u with index := k }) (countIn i s)))
          = { countIn i s with svc := (dropSaved e (modSvc (fun u => { u with status := 0 }) (modSvc (fun u => { u with index := k }) (countIn i s)))).svc } := rfl
      change t = { keepFixed s (modSvcN k.toNat (svcStarted e slots) _) with mgt := t.mgt, freeCount := t.freeCount } at hframe
      change t.mgt.nv = (modSvcN k.toNat (svcStarted e slots) _).mgt.nv at hnv
      generalize dropSaved e (modSvc (fun u => { u with status := 0 }) (modSvc (fun u => { u with index := k }) (countIn i s))) = base at *
      have hof : ∀ m, svcOf t m = svcOf (modSvcN k.toNat (svcStarted e slots) base) m := by
        intro m
        rw [hframe]
        rfl
      have hself : svcOf t k.toNat = svcStarted e slots (svcOf base k.toNat) := (hof _).trans (svcOf_modSvcN _ _ _)
      refine ⟨t, hex, ?_, ?_, fun hkeep => ?_, fun m hm => ?_, ?_, ?_⟩
      · rw [hself]
        rfl
      · rw [hself]
        rfl
      · rw [hself]
        exact hslots hkeep
      · exact ((hof m).trans (svcOf_modSvcN_other _ _ hm)).trans (hsvc m)
      · rw [hframe, hdrop]
        rfl
      · rw [hnv, hdrop]
        rfl
  · obtain ⟨hstate, hentry, hbusy, hothers, hsaved, hframe⟩ := svcDrainDone_all hst hq
    refine ⟨svcDrainDone k s, ?_, hstate, hentry, hbusy, hothers, hsaved, hframe⟩
    show coreIf (decide (k < 16)) "service" s (svcDrainDone k s) = _
    rw [core_next hclock (decide_eq_true hk), hframe]
    rfl

end Sys2Proof.Machine
end

section
/-! SUPPORT. What an end-point block's operations leave as it was, and what they make of the block (R65-R82, R103-R105). -/

namespace Sys2Proof.Machine

open Sys2Proof

/-! ## A port that leaves P1 -/

theorem unrest_unrest (n : Nat) (s : State) : unrest n (unrest n s) = unrest n s := by
  by_cases h : tabGet 0 s.pwr.portState n = 1
  · have hstate : tabGet 0 (unrest n s).pwr.portState n = 0 := by
      unfold unrest
      rw [if_pos h]
      exact tabGet_set_same 0 0 s.pwr.portState n
    generalize unrest n s = u at *
    unfold unrest
    rw [if_neg (by rw [hstate]; decide)]
  · have hstay : unrest n s = s := if_neg h
    rw [hstay, hstay]

theorem unrest_awake {s : State} {n : Nat} (h : EpAwake s n) : unrest n s = s := if_neg h.2.2

theorem epOk_of_lt {n : Nat} (h : n < 64) : epOk n = true := decide_eq_true h

/-- A message at a block whose port is awake acts at once. -/
theorem portIf_awake {s : State} {n : Nat} (h : EpAwake s n) (hn : n < 64) (unit : String) (f : State → State) : portIf (epOk n) unit n f s = .next (keepFixed s (f s)) := by
  obtain ⟨⟨hp, hnode⟩, hquiet, _⟩ := id h
  unfold portIf portLive coreRuns
  rw [epOk_of_lt hn, unrest_awake h, hp, hquiet, decide_eq_true hnode]
  rfl

theorem receive_taken {s : State} {n : Nat} {m : AttachMsg} {states : List AttachState} (ok : State → State) (hd : (epOf s n).attach ≠ .down) (hc : msgCrcOk m = true)
    (hs : states.contains (epOf s n).attach = true) : receive n m states ok s = ok s := by
  unfold receive
  dsimp only
  rw [if_neg hd, hc, if_neg (by decide), if_pos hs]

/-! ## One block alone -/

/-- A second change, which leaves the port's power state to `unrest`, keeps what a first one may have woken. -/
theorem Woken.trans {u t v : State} {n : Nat} (g : State → State) (hg : ∀ x, unrest n (g x) = g (unrest n x)) (h : Woken u t n) (k : Woken (g t) v n) : Woken (g u) v n := by
  rcases h with rfl | rfl
  · exact k
  · refine Or.inr ?_
    rcases k with rfl | rfl
    · exact (hg u).symm
    · rw [← hg, unrest_unrest]

theorem unrest_eps (n : Nat) (e : Tab Ep) (s : State) : unrest n { s with eps := e } = { unrest n s with eps := e } := by
  unfold unrest
  show (if tabGet 0 s.pwr.portState n = 1 then _ else _) = _
  split <;> rfl

theorem EpOnly.refl (s : State) (n : Nat) : EpOnly s s n := ⟨fun _ _ => rfl, Or.inl rfl⟩

theorem EpOnly.trans {s t u : State} {n : Nat} (h : EpOnly s t n) (k : EpOnly t u n) : EpOnly s u n :=
  ⟨fun m hm => (k.1 m hm).trans (h.1 m hm), Woken.trans (u := { s with eps := t.eps }) (fun x => { x with eps := u.eps }) (unrest_eps n u.eps) h.2 k.2⟩

theorem modEp_epOnly (n : Nat) (f : Ep → Ep) (s : State) : EpOnly s (modEp n f s) n := ⟨fun _ hm => epOf_modEp_other f s hm, Or.inl rfl⟩

theorem unrest_epOnly (n : Nat) (s : State) : EpOnly s (unrest n s) n :=
  ⟨fun m _ => epOf_unrest n m s, Or.inr (by
    have h : (unrest n s).eps = s.eps := by rw [unrest_frame]
    rw [h])⟩

/-- What the frame of one block says of the rest of the module. -/
theorem EpOnly.parts {s t : State} {n : Nat} (h : EpOnly s t n) : t = { s with eps := t.eps, pwr := t.pwr } ∧ (t.pwr = s.pwr ∨ t.pwr = (unrest n s).pwr) := by
  obtain ⟨_, hwoken | hwoken⟩ := h
  · refine ⟨?_, Or.inl ?_⟩ <;> rw [hwoken]
  · rw [unrest_eps] at hwoken
    have hframe := unrest_frame n s
    generalize unrest n s = u at *
    refine ⟨?_, Or.inr ?_⟩
    · rw [hwoken, hframe]
    · rw [hwoken]

theorem EpOnly.kept {s t : State} {n : Nat} (h : EpOnly s t n) : keepFixed s t = t := by
  rw [h.parts.1]
  rfl

/-- A block whose port is awake stays so. -/
theorem EpOnly.awake {s t : State} {n : Nat} (h : EpOnly s t n) (ha : EpAwake s n) : EpAwake t n := by
  obtain ⟨hframe, hpwr⟩ := h.parts
  have hsame : t.pwr = s.pwr := by
    rw [unrest_awake ha] at hpwr
    exact hpwr.elim id id
  rw [hframe, hsame]
  exact ha

/-- A block whose port is awake changes alone. -/
theorem EpOnly.eps {s t : State} {n : Nat} (h : EpOnly s t n) (ha : EpAwake s n) : t = { s with eps := t.eps } := by
  obtain ⟨hframe, hpwr⟩ := h.parts
  rw [unrest_awake ha] at hpwr
  have hsame : t.pwr = s.pwr := hpwr.elim id id
  exact hframe.trans (by rw [hsame])

/-! ## Fault records of a block (R103-R105) -/

/-- The block's queue takes a record. -/
def noteRec (r : FaultRec) (e : Ep) : Ep :=
  match findPos (fun o => decide (o.kind = r.kind) && decide (o.key = r.key)) e.faults with
  | some i => { e with faults := nthMod e.faults i (mergeRec · r) }
  | none => if 64 ≤ e.faults.length then { e with faultOverflow := true, faultLost := satAdd e.faultLost 1 } else { e with faults := e.faults ++ [r] }

/-- The record that `epFault` writes. -/
def epRec (n : Nat) (kind : Byte) (sev : BitVec 2) (code : Byte) (key detail : Nat) (src : BitVec 12) (s : State) : FaultRec :=
  { kind := kind, severity := sev, code := code, port := BitVec.ofNat 8 n, key := BitVec.ofNat 16 key, tick := s.tick.now, detail := BitVec.ofNat 64 detail, src := src }

theorem epFault_eq (n : Nat) (kind : Byte) (sev : BitVec 2) (code : Byte) (key detail : Nat) (src : BitVec 12) (s : State) :
    epFault n kind sev code key detail src s = modEp n (noteRec (epRec n kind sev code key detail src s)) s := by
  unfold epFault
  dsimp only
  show _ = modEp n (noteRec _) s
  cases hpos : findPos (fun o => decide (o.kind = kind) && decide (o.key = BitVec.ofNat 16 key)) (epOf s n).faults with
  | some i =>
    refine modEp_congr ?_
    unfold noteRec epRec
    dsimp only
    rw [hpos]
  | none =>
    dsimp only
    split
    next hfull =>
      refine modEp_congr ?_
      unfold noteRec epRec
      dsimp only
      rw [hpos]
      exact (if_pos hfull).symm
    next hfull =>
      refine modEp_congr ?_
      unfold noteRec epRec
      dsimp only
      rw [hpos]
      exact (if_neg hfull).symm

theorem epFault_epOnly (n : Nat) (kind : Byte) (sev : BitVec 2) (code : Byte) (key detail : Nat) (src : BitVec 12) (s : State) :
    EpOnly s (epFault n kind sev code key detail src s) n := by
  rw [epFault_eq]
  exact modEp_epOnly _ _ _

theorem apply_mem_nthMod {α : Type} {l : List α} {i : Nat} {o : α} (f : α → α) (h : l[i]? = some o) : f o ∈ nthMod l i f := by
  induction l generalizing i with
  | nil => cases h
  | cons x l ih =>
    cases i with
    | zero =>
      cases h
      exact List.mem_cons_self
    | succ i => exact List.mem_cons_of_mem _ (ih h)

/-- A record changes the queue alone, and stands in it where there is room. -/
theorem noteRec_parts (r : FaultRec) (e : Ep) : ∃ f o l, noteRec r e = { e with faults := f, faultOverflow := o, faultLost := l }
    ∧ (e.faults.length < 64 → ∃ q ∈ f, q.kind = r.kind ∧ q.key = r.key) := by
  unfold noteRec
  cases hpos : findPos (fun o => decide (o.kind = r.kind) && decide (o.key = r.key)) e.faults with
  | some i =>
    refine ⟨_, _, _, rfl, fun _ => ?_⟩
    obtain ⟨hi, hq, _⟩ := List.findIdx?_eq_some_iff_getElem.mp hpos
    rw [Bool.and_eq_true, decide_eq_true_eq, decide_eq_true_eq] at hq
    have hget : e.faults[i]? = some e.faults[i] := List.getElem?_eq_getElem hi
    exact ⟨mergeRec e.faults[i] r, apply_mem_nthMod _ hget, hq⟩
  | none =>
    dsimp only
    split
    next hfull => exact ⟨_, _, _, rfl, fun h => absurd hfull (by omega)⟩
    next hfull => exact ⟨_, _, _, rfl, fun _ => ⟨r, List.mem_append_right _ (List.mem_singleton_self r), rfl, rfl⟩⟩

/-! ## Messages (R65-R67, R76) -/

/-- The block has sent a message. -/
def addSent (m : AttachMsg) (e : Ep) : Ep := { e with sent := e.sent ++ [m] }

theorem epSend_epOnly (n : Nat) (m : AttachMsg) (s : State) : EpOnly s (epSend n m s) n := by
  unfold epSend
  split
  · exact EpOnly.refl s n
  · split
    · exact modEp_epOnly _ _ _
    · exact (modEp_epOnly n (addSent m) s).trans (unrest_epOnly _ _)

theorem epOf_epSend {n : Nat} {m : AttachMsg} {s : State} (ha : (epOf s n).attach ≠ .down) (hq : (portOf s n).quiet = false) : epOf (epSend n m s) n = addSent m (epOf s n) := by
  rw [epSend_awake ha hq, epOf_unrest, epOf_modEp]
  rfl

/-- What flow control may change of a block: its OFF bits, and the FLOW messages sent (R67). -/
def flowed (q r : Bool) (l w : List AttachMsg) (e : Ep) : Ep := { e with offReqTx := q, offRspTx := r, sent := e.sent ++ l, sendWait := e.sendWait ++ w }

theorem flowCheck_epOnly (n : Nat) (s : State) : EpOnly s (flowCheck n s) n := by
  unfold flowCheck
  dsimp only
  split
  · exact EpOnly.refl s n
  · exact (modEp_epOnly _ _ _).trans (epSend_epOnly _ _ _)

theorem epOf_flowCheck (n : Nat) (s : State) : ∃ q r l w, epOf (flowCheck n s) n = flowed q r l w (epOf s n) := by
  have hstay : flowed (epOf s n).offReqTx (epOf s n).offRspTx [] [] (epOf s n) = epOf s n := by
    unfold flowed
    rw [List.append_nil, List.append_nil]
  have hsend : ∀ (m : AttachMsg) (u : State), ∃ l w, epOf (epSend n m u) n = { epOf u n with sent := (epOf u n).sent ++ l, sendWait := (epOf u n).sendWait ++ w } := by
    intro m u
    unfold epSend
    split
    · exact ⟨[], [], by rw [List.append_nil, List.append_nil]⟩
    · split
      · exact ⟨[], [m], by rw [epOf_modEp, List.append_nil]⟩
      · exact ⟨[m], [], by rw [epOf_unrest, epOf_modEp, List.append_nil]⟩
  unfold flowCheck
  dsimp only
  split
  · exact ⟨_, _, _, _, hstay.symm⟩
  · obtain ⟨l, w, h⟩ := hsend (ctlMsg 0x28 [(2, ofB (offNext s.attachBuf (aReqBytes (epOf s n)) (epOf s n).offReqTx)
      + 2 * ofB (offNext s.attachBuf (aRspBytes (epOf s n)) (epOf s n).offRspTx))])
      (modEp n (fun e => { e with offReqTx := offNext s.attachBuf (aReqBytes (epOf s n)) (epOf s n).offReqTx,
                                  offRspTx := offNext s.attachBuf (aRspBytes (epOf s n)) (epOf s n).offRspTx }) s)
    rw [epOf_modEp] at h
    exact ⟨_, _, l, w, h⟩

/-! ## Answers to the controller's requests (R71) -/

/-- The RSP of a refused request. -/
def refusal (m : AttachMsg) (status : Byte) : AttachMsg := mkMsg (mkHdr 0xC1 1 0 [(2, (msgTag m).toNat), (5, status.toNat)]) []

/-- A refusal is sent at once where the controller takes A-RSP and nothing waits. -/
theorem refuseDirect_sent {n : Nat} (m : AttachMsg) (status : Byte) {s : State} (hoff : (epOf s n).offRspRx = false) (hwait : (epOf s n).rspWait = []) :
    ∃ u, refuseDirect n m status s = epSend n (refusal m status) u ∧ EpOnly s u n ∧ epOf u n = epOf s n ∧ u.lanes = s.lanes := by
  refine ⟨modEp n (fun e => { e with rspWait := [] }) (modEp n (fun e => { e with rspWait := e.rspWait ++ [(refusal m status, none)] }) s), ?_,
    (modEp_epOnly _ _ _).trans (modEp_epOnly _ _ _), ?_, rfl⟩
  · unfold refuseDirect rspToCtl flushRsp
    dsimp only
    rw [epOf_modEp]
    dsimp only
    rw [hoff, if_neg (by decide), hwait]
    rfl
  · rw [epOf_modEp, epOf_modEp]
    dsimp only
    rw [← hwait]

/-! ## Frames that the block sends (R84, R85) -/

/-- `t` is `s` but for block `n`, the frames that wait at the ingresses, and the port, which may have left P1. -/
def EpIn (s t : State) (n : Nat) : Prop :=
  (∀ m, m ≠ n → epOf t m = epOf s m) ∧ Woken { s with eps := t.eps, swc := { s.swc with inbound := t.swc.inbound } } t n

theorem unrest_epsIn (n : Nat) (e : Tab Ep) (l : Tab (List (Frame × BitVec 64))) (s : State) :
    unrest n { s with eps := e, swc := { s.swc with inbound := l } } = { unrest n s with eps := e, swc := { (unrest n s).swc with inbound := l } } := by
  unfold unrest
  show (if tabGet 0 s.pwr.portState n = 1 then _ else _) = _
  split <;> rfl

theorem EpIn.trans {s t u : State} {n : Nat} (h : EpIn s t n) (k : EpIn t u n) : EpIn s u n :=
  ⟨fun m hm => (k.1 m hm).trans (h.1 m hm),
    Woken.trans (u := { s with eps := t.eps, swc := { s.swc with inbound := t.swc.inbound } }) (fun x => { x with eps := u.eps, swc := { x.swc with inbound := u.swc.inbound } })
      (unrest_epsIn n u.eps u.swc.inbound) h.2 k.2⟩

theorem EpOnly.epIn {s t : State} {n : Nat} (h : EpOnly s t n) : EpIn s t n := by
  have hswc : t.swc = s.swc := by rw [h.parts.1]
  refine ⟨h.1, ?_⟩
  rw [hswc]
  exact h.2

theorem EpIn.parts {s t : State} {n : Nat} (h : EpIn s t n) :
    t = { s with eps := t.eps, swc := { s.swc with inbound := t.swc.inbound }, pwr := t.pwr } ∧ (t.pwr = s.pwr ∨ t.pwr = (unrest n s).pwr) := by
  obtain ⟨_, hwoken | hwoken⟩ := h
  · refine ⟨?_, Or.inl ?_⟩ <;> rw [hwoken]
  · rw [unrest_epsIn] at hwoken
    have hframe := unrest_frame n s
    generalize unrest n s = u at *
    refine ⟨?_, Or.inr ?_⟩
    · rw [hwoken, hframe]
    · rw [hwoken]

theorem EpIn.kept {s t : State} {n : Nat} (h : EpIn s t n) : keepFixed s t = t := by
  rw [h.parts.1]
  rfl

theorem EpIn.frame {s t : State} {n : Nat} (h : EpIn s t n) (ha : EpAwake s n) : t = { s with eps := t.eps, swc := { s.swc with inbound := t.swc.inbound } } := by
  obtain ⟨hframe, hpwr⟩ := h.parts
  rw [unrest_awake ha] at hpwr
  have hsame : t.pwr = s.pwr := hpwr.elim id id
  exact hframe.trans (by rw [hsame])

/-- What a source needs to send a frame is its own state, the topology, and the pool. -/
theorem canSend_epOnly {s u : State} {n : Nat} (h : EpOnly s u n) (hrel : (epOf u n).rel = (epOf s n).rel) (f : NewFrame) : canSend u (.ep n) f = canSend s (.ep n) f := by
  have hsame : relOf u (.ep n) = relOf s (.ep n) := hrel
  obtain ⟨hframe, _⟩ := h.parts
  unfold canSend
  rw [hsame, hframe]
  rfl

theorem Issues.between {s s' t' t : State} {p : Point} {i : Nat} {f : NewFrame} (h : Issues s' t' p i f) (hrel : relOf s' p = relOf s p) (hin : s'.swc.inbound = s.swc.inbound)
    (hplane : planeIdx s' = planeIdx s) (hrel' : relOf t p = relOf t' p) (hin' : t.swc.inbound = t'.swc.inbound) : Issues s t p i f := by
  have hctx : ∀ j, ctxOf s' p j = ctxOf s p j := fun j => congrArg (fun r : Rel => tabGet ({} : Ctx) r.ctxs j) hrel
  have hctx' : ∀ j, ctxOf t p j = ctxOf t' p j := fun j => congrArg (fun r : Rel => tabGet ({} : Ctx) r.ctxs j) hrel'
  have hwb : ∀ q g, newWb s' f q g = newWb s f q g := by
    intro q g
    unfold newWb
    rw [hplane]
  obtain ⟨issued, sent, others⟩ := h
  rw [hctx, hrel, hwb] at issued
  refine ⟨?_, ?_, fun j hj => ?_⟩
  · rw [hctx']
    exact issued
  · rw [hctx', hin', ← hin]
    exact sent
  · rw [hctx', ← hctx]
    exact others j hj

theorem epOf_emitFrame (port : Nat) (f : Frame) (s : State) (n : Nat) : epOf (emitFrame port f s) n = epOf s n := rfl

theorem emitFrame_epIn (port : Nat) (f : Frame) (s : State) (n : Nat) : EpIn s (emitFrame port f s) n := ⟨fun _ _ => rfl, Or.inl rfl⟩

section Send
variable {s : State} {n i : Nat} (f : NewFrame) (hi : ctxHead (epOf s n).rel = some i)
include hi

theorem sendNew_ep : ∃ r m, sendNew (.ep n) f s = emitFrame f.port (newFrameIn s (.ep n) f i) (modEp n (fun e => { e with rel := r, minFree := m }) s) := by
  refine ⟨issueCtx (newKey f) i (newCtxIn s (.ep n) f i) (epOf s n).rel,
    BitVec.ofNat 13 (min (epOf s n).minFree.toNat (ctxsFree (issueCtx (newKey f) i (newCtxIn s (.ep n) f i) (epOf s n).rel))),
    (sendNew_of_ctxHead (p := .ep n) f hi).trans (congrArg (emitFrame f.port (newFrameIn s (.ep n) f i)) ?_)⟩
  unfold noteMinFree modRel
  dsimp only
  rw [modEp_modEp]
  exact modEp_congr rfl

theorem sendNew_epIn : EpIn s (sendNew (.ep n) f s) n := by
  obtain ⟨r, m, hsend⟩ := sendNew_ep f hi
  rw [hsend]
  exact (modEp_epOnly _ _ _).epIn.trans (emitFrame_epIn _ _ _ _)

theorem epOf_sendNew : ∃ r m, epOf (sendNew (.ep n) f s) n = { epOf s n with rel := r, minFree := m } := by
  obtain ⟨r, m, hsend⟩ := sendNew_ep f hi
  exact ⟨r, m, by rw [hsend, epOf_emitFrame, epOf_modEp]⟩

end Send

/-- A direct request that has a context is sent, and waits no longer. -/
theorem sendDirect_all {s : State} {n i : Nat} (r : DirectReq) (hi : ctxHead (epOf s n).rel = some i) : let t := sendDirect n r s
    Issues s t (.ep n) i (directFrame s n r) ∧ EpIn s t n ∧ (epOf t n).aReq = (epOf s n).aReq.filter (fun q => decide (q.ord ≠ r.ord))
    ∧ (epOf t n).reqCount = (epOf s n).reqCount ∧ (epOf t n).turn = (epOf s n).turn ∧ (epOf t n).descs = (epOf s n).descs ∧ (epOf t n).rings = (epOf s n).rings := by
  dsimp only
  unfold sendDirect
  dsimp only
  generalize directFrame s n r = f
  have hfirst : ∀ g : Ep → Ep, (g (epOf s n)).rel = (epOf s n).rel → Issues s (sendNew (.ep n) f (modEp n g s)) (.ep n) i f ∧ EpIn s (sendNew (.ep n) f (modEp n g s)) n
      ∧ ∃ r m, epOf (sendNew (.ep n) f (modEp n g s)) n = { g (epOf s n) with rel := r, minFree := m } := by
    intro g hg
    have hrel : relOf (modEp n g s) (.ep n) = relOf s (.ep n) := (congrArg Ep.rel (epOf_modEp n g s)).trans hg
    have hi' : ctxHead (epOf (modEp n g s) n).rel = some i := (congrArg ctxHead hrel).trans hi
    refine ⟨(sendNew_issues f (p := .ep n) hi').between hrel rfl rfl rfl rfl, (modEp_epOnly n g s).epIn.trans (sendNew_epIn f hi'), ?_⟩
    have hep := epOf_sendNew f hi'
    rw [epOf_modEp] at hep
    exact hep
  obtain ⟨hissue, honly, rel, m, hep⟩ := hfirst (fun e => { e with
    aReq := e.aReq.filter fun q => decide (q.ord ≠ r.ord)
    directSeries := if e.directSeries.any (fun x => decide (x.1 = seriesKey (addrFnid r.addr) 0)) then e.directSeries else e.directSeries ++ [(seriesKey (addrFnid r.addr) 0, r.ord)] }) rfl
  generalize sendNew (.ep n) f _ = u at *
  have hflow := flowCheck_epOnly n u
  obtain ⟨q, p, l, w, hepf⟩ := epOf_flowCheck n u
  rw [hep] at hepf
  have hin : (flowCheck n u).swc.inbound = u.swc.inbound := by rw [hflow.parts.1]
  have hrelf : relOf (flowCheck n u) (.ep n) = relOf u (.ep n) := (congrArg Ep.rel hepf).trans (congrArg Ep.rel hep).symm
  refine ⟨hissue.between rfl rfl rfl hrelf hin, honly.trans hflow.epIn, ?_, ?_, ?_, ?_, ?_⟩ <;> rw [hepf] <;> rfl

end Sys2Proof.Machine
end

section
/-! SUPPORT. Direct requests (R49, R75, R79, R80, R84, R85, R199). -/

namespace Sys2Proof.Machine

open Sys2Proof

/-- A direct request as its block first sees it. -/
def newReq (s : State) (n : Nat) (m : AttachMsg) : DirectReq :=
  { msg := m, addr := stampAddr (winOf s n (msgWindow m)) (msgOffset m), win := msgWindow m, ord := (epOf s n).reqCount, held := false }

section Direct
variable {s : State} {n : Nat} {m : AttachMsg}

theorem recvDirect_malformed (hf : reqFormatOk m = false) : recvDirect n m s = refuseDirect n m 0x10 (formatFault n 0xFFFF (msgTag m).toNat s) := by
  unfold recvDirect
  rw [hf]
  rfl

theorem recvDirect_tolled (hf : reqFormatOk m = true) (hc : tollDirect s n m ≠ 0) :
    recvDirect n m s = refuseTolled n (newReq s n m) (tollDirect s n m) (tollFailed n (msgWindow m) (tollDirect s n m) (msgOffset m) s) := by
  unfold recvDirect
  dsimp only
  rw [hf, if_neg (by decide), if_pos hc]
  rfl

/-- The number of the next request moves on before the request goes its way. -/
def counted (n : Nat) (s : State) : State := modEp n (fun e => { e with reqCount := (epOf s n).reqCount + 1 }) s

theorem recvDirect_passed (hf : reqFormatOk m = true) (hc : tollDirect s n m = 0) : recvDirect n m s =
    if reqFlagged m && !flagMayGo (counted n s) n (epOf s n).reqCount then flowCheck n (modEp n (fun e => { e with aReq := e.aReq ++ [{ newReq s n m with held := true }] }) (counted n s))
    else if ((epOf (counted n s) n).aReq.all fun q => q.held) && !lineHeld (epOf (counted n s) n) (newReq s n m)
      && canSend (counted n s) (.ep n) (directFrame (counted n s) n (newReq s n m)) then sendDirect n (newReq s n m) (counted n s)
    else flowCheck n (modEp n (fun e => { e with aReq := e.aReq ++ [newReq s n m] }) (counted n s)) := by
  unfold recvDirect
  dsimp only
  rw [hf, if_neg (by decide), if_neg (not_not.mpr hc)]
  rfl

theorem epOf_counted (n : Nat) (s : State) : epOf (counted n s) n = { epOf s n with reqCount := (epOf s n).reqCount + 1 } := epOf_modEp _ _ _

theorem flagMayGo_counted (n ord : Nat) (s : State) : flagMayGo (counted n s) n ord = flagMayGo s n ord := by
  unfold flagMayGo
  rw [epOf_counted]

theorem directFrame_counted (n : Nat) (r : DirectReq) (s : State) : directFrame (counted n s) n r = directFrame s n r := by
  unfold directFrame
  rw [epOf_counted]

theorem mayGo_counted (h : reqFlagged m = false ∨ flagMayGo s n (epOf s n).reqCount = true) :
    (reqFlagged m && !flagMayGo (counted n s) n (epOf s n).reqCount) = false := by
  rw [flagMayGo_counted]
  rcases h with h | h <;> rw [h]
  · rfl
  · exact Bool.and_false _

/-- What a refusal that the toll gives leaves of the block (R49, R51). -/
theorem tollFailed_parts (n : Nat) (win : BitVec 10) (code : Byte) (off : Nat) (s : State) : ∃ f o l,
    epOf (tollFailed n win code off s) n = { epOf s n with
      tollCode := bitsOf code 0 4, tollWin := win, tollFail := satAdd (epOf s n).tollFail 1, faults := f, faultOverflow := o, faultLost := l }
    ∧ ((epOf s n).faults.length < 64 → ∃ q ∈ f, q.kind = 0x01 ∧ q.key = BitVec.ofNat 16 win.toNat) := by
  unfold tollFailed
  dsimp only
  rw [epFault_eq, epOf_modEp, epOf_modEp]
  obtain ⟨f, o, l, hrec, hroom⟩ := noteRec_parts (epRec n 0x01 sevWarn code win.toNat off (epOf s n).srcFnid
    (modEp n (fun e => { e with tollCode := bitsOf code 0 4, tollWin := win, tollFail := satAdd e.tollFail 1 }) s))
    { epOf s n with tollCode := bitsOf code 0 4, tollWin := win, tollFail := satAdd (epOf s n).tollFail 1 }
  exact ⟨f, o, l, hrec, hroom⟩

theorem tollFailed_epOnly (n : Nat) (win : BitVec 10) (code : Byte) (off : Nat) (s : State) : EpOnly s (tollFailed n win code off s) n :=
  (modEp_epOnly _ _ _).trans (epFault_epOnly _ _ _ _ _ _ _ _)

theorem formatFault_parts (n key detail : Nat) (s : State) : ∃ f o l, epOf (formatFault n key detail s) n = { epOf s n with faults := f, faultOverflow := o, faultLost := l }
    ∧ ((epOf s n).faults.length < 64 → ∃ q ∈ f, q.kind = 0x02 ∧ q.key = BitVec.ofNat 16 key) := by
  unfold formatFault
  rw [epFault_eq, epOf_modEp]
  exact noteRec_parts _ _

theorem formatFault_epOnly (n key detail : Nat) (s : State) : EpOnly s (formatFault n key detail s) n := epFault_epOnly _ _ _ _ _ _ _ _

end Direct

/-- A refusal that the controller takes at once. -/
theorem refuseDirect_all {n : Nat} (m : AttachMsg) (status : Byte) {s : State} (ha : (epOf s n).attach = .ready) (hq : (portOf s n).quiet = false)
    (hoff : (epOf s n).offRspRx = false) (hwait : (epOf s n).rspWait = []) :
    EpOnly s (refuseDirect n m status s) n ∧ epOf (refuseDirect n m status s) n = addSent (refusal m status) (epOf s n) := by
  obtain ⟨u, hsend, honly, hep, hlanes⟩ := refuseDirect_sent m status hoff hwait
  have hquiet : (portOf u n).quiet = false := by
    unfold portOf
    rw [hlanes]
    exact hq
  rw [hsend, ← hep]
  exact ⟨honly.trans (epSend_epOnly _ _ _), epOf_epSend (by rw [hep, ha]; decide) hquiet⟩

theorem EpOnly.quiet {s t : State} {n : Nat} (h : EpOnly s t n) : (portOf t n).quiet = (portOf s n).quiet := by
  rw [h.parts.1]
  rfl

theorem EpRecorded.of {t : State} {n : Nat} {kind : Byte} {key : Nat} {f : List FaultRec} (hf : (epOf t n).faults = f)
    (h : ∃ q ∈ f, q.kind = kind ∧ q.key = BitVec.ofNat 16 key) : EpRecorded t n kind key := by
  unfold EpRecorded
  rw [hf]
  exact h

theorem refuseTolled_now {n : Nat} {r : DirectReq} {code : Byte} {s : State} (h : code ∈ [(0x8 : Byte), 0x1, 0x2] ∨ lineUnanswered (epOf s n) r = false) :
    refuseTolled n r code s = refuseDirect n r.msg code s := by
  refine if_neg ?_
  rintro ⟨h8, h1, h2, hline⟩
  simp only [List.mem_cons, List.not_mem_nil, or_false] at h
  rcases h with (h | h | h) | h
  · exact h8 h
  · exact h1 h
  · exact h2 h
  · rw [h] at hline
    cases hline

theorem refuseTolled_later {n : Nat} {r : DirectReq} {code : Byte} {s : State} (h : ¬ code ∈ [(0x8 : Byte), 0x1, 0x2]) (hline : lineUnanswered (epOf s n) r = true) :
    refuseTolled n r code s = modEp n (fun e => { e with reqCount := r.ord + 1, refusals := e.refusals ++ [(r, code)] }) s := by
  simp only [List.mem_cons, List.not_mem_nil, or_false, not_or] at h
  exact if_pos ⟨h.1, h.2.1, h.2.2, hline⟩

/-- A request that waits in the A-REQ buffer. -/
theorem queued_parts (n : Nat) (q : DirectReq) (s : State) : let t := flowCheck n (modEp n (fun e => { e with aReq := e.aReq ++ [q] }) (counted n s))
    EpOnly s t n ∧ (epOf t n).aReq = (epOf s n).aReq ++ [q] ∧ (epOf t n).rel = (epOf s n).rel ∧ (epOf t n).reqCount = (epOf s n).reqCount + 1 := by
  dsimp only
  have honly : EpOnly s (modEp n (fun e => { e with aReq := e.aReq ++ [q] }) (counted n s)) n := (modEp_epOnly _ _ _).trans (modEp_epOnly _ _ _)
  have hep : epOf (modEp n (fun e => { e with aReq := e.aReq ++ [q] }) (counted n s)) n = { epOf s n with reqCount := (epOf s n).reqCount + 1, aReq := (epOf s n).aReq ++ [q] } := by
    rw [epOf_modEp, epOf_counted]
  generalize modEp n _ (counted n s) = u at *
  obtain ⟨a, b, l, w, hflow⟩ := epOf_flowCheck n u
  rw [hep] at hflow
  refine ⟨honly.trans (flowCheck_epOnly _ _), ?_, ?_, ?_⟩ <;> rw [hflow] <;> rfl

/-- The five commands that bring a direct request. -/
theorem exec_direct {s : State} {n : Nat} {m : AttachMsg} {c : Instr} (h : EpAwake s n) (hn : n < 64) (ha : (epOf s n).attach = .ready) (hcrc : msgCrcOk m = true)
    (hc : c ∈ [Instr.load n m, .storeMsg n m, .atomic n m, .reduce n m, .svcCall n m]) : exec c s = .next (keepFixed s (recvDirect n m s)) := by
  have htaken : receive n m [.ready] (recvDirect n m) s = recvDirect n m s := receive_taken _ (by rw [ha]; decide) hcrc (by rw [ha]; decide)
  have hport := portIf_awake h hn "end-point block" (receive n m [.ready] (recvDirect n m))
  rw [htaken] at hport
  simp only [List.mem_cons, List.not_mem_nil, or_false] at hc
  rcases hc with rfl | rfl | rfl | rfl | rfl <;> exact hport

/-- Settles O32: what the block makes of a direct request by its format, its toll, and its flag. -/
theorem directRequestsAreRefusedOrSent : Obligations.DirectRequestsAreRefusedOrSent := by
  intro s n m c h hn hready hcrc hc
  dsimp only
  rw [exec_direct h hn hready hcrc hc]
  refine ⟨fun hf hoff hwait => ?_, fun code hf hcode hne hline hoff hwait => ?_, fun code hf hcode hne hnot hline => ?_, fun hf hcode hflag => ⟨fun i hreq hi hcan => ?_, fun hcan => ?_⟩, fun hf hcode hflag hgo => ?_⟩
  · rw [recvDirect_malformed hf]
    have hfault := formatFault_epOnly n 0xFFFF (msgTag m).toNat s
    obtain ⟨f, o, l, hep, hroom⟩ := formatFault_parts n 0xFFFF (msgTag m).toNat s
    generalize formatFault n 0xFFFF (msgTag m).toNat s = u at *
    obtain ⟨honly, hsent⟩ := refuseDirect_all (n := n) (s := u) m 0x10 (by rw [hep]; exact hready) (hfault.quiet.trans h.2.1) (by rw [hep]; exact hoff) (by rw [hep]; exact hwait)
    generalize refuseDirect n m 0x10 u = t at *
    rw [hep] at hsent
    refine ⟨t, congrArg Host.Outcome.next (hfault.trans honly).kept, hfault.trans honly, ?_, fun hl => EpRecorded.of (congrArg Ep.faults hsent) (hroom hl)⟩
    rw [hsent]
    rfl
  · subst hcode
    rw [recvDirect_tolled hf hne]
    have htoll := tollFailed_epOnly n (msgWindow m) (tollDirect s n m) (msgOffset m) s
    obtain ⟨f, o, l, hep, hroom⟩ := tollFailed_parts n (msgWindow m) (tollDirect s n m) (msgOffset m) s
    generalize tollFailed n (msgWindow m) (tollDirect s n m) (msgOffset m) s = u at *
    rw [refuseTolled_now (hline.imp id fun h => by rw [hep]; exact h)]
    obtain ⟨honly, hsent⟩ := refuseDirect_all (n := n) (s := u) m (tollDirect s n m) (by rw [hep]; exact hready) (htoll.quiet.trans h.2.1) (by rw [hep]; exact hoff) (by rw [hep]; exact hwait)
    change EpOnly u (refuseDirect n (newReq s n m).msg (tollDirect s n m) u) n at honly
    change epOf (refuseDirect n (newReq s n m).msg (tollDirect s n m) u) n = _ at hsent
    generalize refuseDirect n (newReq s n m).msg (tollDirect s n m) u = t at *
    rw [hep] at hsent
    refine ⟨t, congrArg Host.Outcome.next (htoll.trans honly).kept, htoll.trans honly, ?_, fun hl => EpRecorded.of (congrArg Ep.faults hsent) (hroom hl)⟩
    rw [hsent]
    rfl
  · subst hcode
    rw [recvDirect_tolled hf hne]
    have htoll := tollFailed_epOnly n (msgWindow m) (tollDirect s n m) (msgOffset m) s
    obtain ⟨f, o, l, hep, hroom⟩ := tollFailed_parts n (msgWindow m) (tollDirect s n m) (msgOffset m) s
    generalize tollFailed n (msgWindow m) (tollDirect s n m) (msgOffset m) s = u at *
    rw [refuseTolled_later hnot (by rw [hep]; exact hline)]
    have honly := modEp_epOnly n (fun e => { e with reqCount := (newReq s n m).ord + 1, refusals := e.refusals ++ [(newReq s n m, tollDirect s n m)] }) u
    have hlast := epOf_modEp n (fun e => { e with reqCount := (newReq s n m).ord + 1, refusals := e.refusals ++ [(newReq s n m, tollDirect s n m)] }) u
    generalize modEp n _ u = t at *
    rw [hep] at hlast
    refine ⟨t, congrArg Host.Outcome.next (htoll.trans honly).kept, htoll.trans honly, ?_, fun hl => EpRecorded.of (congrArg Ep.faults hlast) (hroom hl)⟩
    rw [hlast]
    rfl
  · have hcounted := modEp_epOnly n (fun e => { e with reqCount := (epOf s n).reqCount + 1 }) s
    have hgo := mayGo_counted hflag
    have hnone : (epOf (counted n s) n).aReq = [] := by
      rw [epOf_counted]
      exact hreq
    have hsend : canSend (counted n s) (.ep n) (directFrame (counted n s) n (newReq s n m)) = true := by
      rw [directFrame_counted]
      exact (canSend_epOnly hcounted (by rw [epOf_modEp]) _).trans hcan
    have hheld : lineHeld (epOf (counted n s) n) (newReq s n m) = false := by
      unfold lineHeld
      rw [hnone]
      rfl
    rw [recvDirect_passed hf hcode, hgo, if_neg (by decide), hsend, hheld, hnone, List.all_nil, if_pos (by decide)]
    have hrel : (epOf (counted n s) n).rel = (epOf s n).rel := by rw [epOf_counted]
    obtain ⟨hissue, honly, haReq, hcount, _⟩ := sendDirect_all (newReq s n m) (s := counted n s) (n := n) (i := i) (by rw [hrel]; exact hi)
    rw [directFrame_counted] at hissue
    generalize sendDirect n (newReq s n m) (counted n s) = t at *
    have hall := hcounted.epIn.trans honly
    refine ⟨t, congrArg Host.Outcome.next hall.kept, hissue.between hrel rfl rfl rfl rfl, ?_, ?_, hall.1, hall.frame h⟩
    · rw [haReq, hnone]
      rfl
    · rw [hcount, epOf_counted]
  · have hcounted := modEp_epOnly n (fun e => { e with reqCount := (epOf s n).reqCount + 1 }) s
    have hgo := mayGo_counted hflag
    have hsend : canSend (counted n s) (.ep n) (directFrame (counted n s) n (newReq s n m)) = false := by
      rw [directFrame_counted]
      exact (canSend_epOnly hcounted (by rw [epOf_modEp]) _).trans hcan
    rw [recvDirect_passed hf hcode, hgo, if_neg (by decide), hsend, Bool.and_false, if_neg (by decide)]
    obtain ⟨honly, haReq, hrel, hcount⟩ := queued_parts n (newReq s n m) s
    exact ⟨_, congrArg Host.Outcome.next honly.kept, honly, haReq, hrel, hcount⟩
  · have hwait : (reqFlagged m && !flagMayGo (counted n s) n (epOf s n).reqCount) = true := by
      rw [flagMayGo_counted, hflag]
      change flagMayGo s n (epOf s n).reqCount = false at hgo
      rw [hgo]
      rfl
    rw [recvDirect_passed hf hcode, hwait, if_pos rfl]
    obtain ⟨honly, haReq, hrel, _⟩ := queued_parts n { newReq s n m with held := true } s
    exact ⟨_, congrArg Host.Outcome.next honly.kept, honly, haReq, hrel⟩

end Sys2Proof.Machine
end

section
/-! SUPPORT. Deliveries that end, and flow control (R67, R71, R81, R82). -/

namespace Sys2Proof.Machine

open Sys2Proof

theorem keepFixed_modEp (n : Nat) (f : Ep → Ep) (s : State) : keepFixed s (modEp n f s) = modEp n f s := rfl

theorem pumpDlv_none {n : Nat} {s : State} (h : (epOf s n).dlvQueue = []) : pumpDlv n s = s := by
  unfold pumpDlv
  rw [h]
  rfl

theorem drainRsp_none {n : Nat} {s : State} (h : (epOf s n).aRsp = []) : drainRsp n s = s := by
  unfold drainRsp
  rw [h]
  rfl

/-! ## Answers of an end-point block (R172, R178) -/

/-- The response frame that a request gets. -/
def respFrame (wb : Header) (status : Byte) (data : Option (List Byte)) (dup : Bool) : Frame :=
  match data with
  | none => mkFrame (respWb wb 0x10 status (rflagsOf 0 false dup (wbKind wb)) 0) []
  | some d => mkFrame (respWb wb 0x11 status (rflagsOf 0 false dup (wbKind wb)) d.length) (pad32 d)

theorem respond_ep (n : Nat) (wb : Header) (status : Byte) (data : Option (List Byte)) (dup : Bool) (s : State) :
    respond (.ep n) wb status data dup s = emitFrame n (respFrame wb status data dup) s := by
  cases data <;> rfl

theorem inbound_emitFrame (port : Nat) (f : Frame) (s : State) : tabGet [] (emitFrame port f s).swc.inbound port = tabGet [] s.swc.inbound port ++ [(f, 0)] := by
  rw [emitFrame, modSwc, tabGet_mod_same]

theorem epOf_modRel (n : Nat) (f : Rel → Rel) (s : State) : epOf (modRel (.ep n) f s) n = { epOf s n with rel := f (epOf s n).rel } := epOf_modEp _ _ _

/-- A frame behind a change of one block's source. -/
theorem emitted_parts {s u : State} (n : Nat) (f : Frame) (hframe : u = { s with eps := u.eps }) (hothers : ∀ m, m ≠ n → epOf u m = epOf s m)
    (hep : ∃ r, epOf u n = { epOf s n with rel := r }) : emitFrame n f u = { s with eps := (emitFrame n f u).eps, swc := { s.swc with inbound := (emitFrame n f u).swc.inbound } }
    ∧ (∀ m, m ≠ n → epOf (emitFrame n f u) m = epOf s m) ∧ (∃ r, epOf (emitFrame n f u) n = { epOf s n with rel := r })
    ∧ tabGet [] (emitFrame n f u).swc.inbound n = tabGet [] s.swc.inbound n ++ [(f, 0)] := by
  have hswc : u.swc = s.swc := by rw [hframe]
  refine ⟨?_, hothers, hep, ?_⟩
  · unfold emitFrame modSwc
    dsimp only
    rw [hswc]
    exact congrArg (fun v : State => { v with swc := { s.swc with inbound := tabMod [] s.swc.inbound n (· ++ [(f, 0)]) } }) hframe
  · rw [inbound_emitFrame, hswc]

/-- An answer changes the source of its block, and a response enters at the block's port. -/
theorem answer_ep (n : Nat) (wb : Header) (dup : Bool) (status : Byte) (data : Option (List Byte)) (saved : List Byte) (s : State) :
    let t := answer (.request (.ep n) wb dup) status data saved s
    t = { s with eps := t.eps, swc := { s.swc with inbound := t.swc.inbound } } ∧ (∀ m, m ≠ n → epOf t m = epOf s m) ∧ (∃ r, epOf t n = { epOf s n with rel := r })
    ∧ tabGet [] t.swc.inbound n = tabGet [] s.swc.inbound n ++ [(respFrame wb status data dup, 0)] := by
  dsimp only
  unfold answer
  dsimp only
  rw [respond_ep]
  cases dup with
  | true => exact emitted_parts n _ rfl (fun _ _ => rfl) ⟨(epOf s n).rel, rfl⟩
  | false =>
    rw [if_neg (by decide)]
    refine emitted_parts n _ rfl (fun m hm => ?_) ⟨_, by rw [modRx, epOf_modRel, epOf_modRel]⟩
    exact (epOf_modEp_other _ _ hm).trans (epOf_modEp_other _ _ hm)

/-- The end of a delivery that serves a remote request, but for a variable result. -/
theorem deliveryDone_remote {n : Nat} {d : Delivery} {wb : Header} {dup : Bool} (hd : d.use = .remote wb dup) (hv : wbVary wb = false) (status : Byte) (data : List Byte) (timedOut : Bool)
    (s : State) : deliveryDone n d status data timedOut s = answer (.request (.ep n) wb dup) (mapStatus status)
      (if decide (mapStatus status = 0) && (decide (wbType wb = 0x01) || (decide (wbType wb = 0x03) && fetches (wbSubop wb))) then some (slice data 0 (wbLength wb)) else none)
      (if decide (wbType wb = 0x01) || (decide (wbType wb = 0x03) && fetches (wbSubop wb)) then slice data 0 8 else []) s := by
  unfold deliveryDone
  rw [hd]
  dsimp only
  have hquiet : noteVary (wbVary wb) s = s := by
    rw [hv]
    rfl
  rw [hquiet, ite_self]

theorem deliveryDone_failed {n : Nat} {d : Delivery} {wb : Header} {dup : Bool} (hd : d.use = .remote wb dup) (status : Byte) (hs : mapStatus status ≠ 0) (data : List Byte)
    (timedOut : Bool) (s : State) : deliveryDone n d status data timedOut s = answer (.request (.ep n) wb dup) (mapStatus status) none
      (if decide (wbType wb = 0x01) || (decide (wbType wb = 0x03) && fetches (wbSubop wb)) then slice data 0 8 else []) s := by
  unfold deliveryDone
  rw [hd]
  dsimp only
  rw [if_neg hs, decide_eq_false hs, Bool.false_and, if_neg (by decide)]

theorem rspMatch_some {s : State} {n : Nat} {m : AttachMsg} {d : Delivery} (hb : (tabGet {} (epOf s n).dlvSlots ((msgTag m).toNat % 4096)).busy = some d)
    (hg : (msgTag m).toNat / 2 ^ 18 = (tabGet {} (epOf s n).dlvSlots ((msgTag m).toNat % 4096)).gen.toNat) (hn : (msgTag m).toNat / 2 ^ 12 % 64 = n) : rspMatch s n m = some d :=
  (if_pos ⟨hg, hn⟩).trans hb

theorem rspMatch_none {s : State} {n : Nat} {m : AttachMsg} (h : (tabGet {} (epOf s n).dlvSlots ((msgTag m).toNat % 4096)).busy = none
    ∨ (msgTag m).toNat / 2 ^ 18 ≠ (tabGet {} (epOf s n).dlvSlots ((msgTag m).toNat % 4096)).gen.toNat ∨ (msgTag m).toNat / 2 ^ 12 % 64 ≠ n) : rspMatch s n m = none := by
  unfold rspMatch
  dsimp only
  split
  next hm => exact h.resolve_right (by rintro (h | h); exacts [h hm.1, h hm.2])
  · rfl

/-- A well-formed RSP at a block with no answer that waits. -/
theorem recvRsp_wellFormed {s : State} {n : Nat} {m : AttachMsg} (hop : msgOpcode m = 0x81) (hch : msgChan m = 1) (hb12 : bitsOf m.hdr 12 2 = (0 : BitVec 2))
    (hb48 : bitsOf m.hdr 48 208 = (0 : BitVec 208)) (hlen : m.payload.length = 32 * msgPlen m) (hw : (epOf s n).aRsp = []) :
    recvRsp n m s = if rspWaits s n m then flowCheck n (modEp n (fun e => { e with aRsp := e.aRsp ++ [m] }) s) else rspApply n m s := by
  unfold recvRsp
  dsimp only
  rw [drainRsp_none hw]
  exact if_neg (by rintro (h | h | h | h | h); exacts [h hop, h hch, h hb12, h hb48, h hlen])

theorem rspWaits_remote {s : State} {n : Nat} {m : AttachMsg} {d : Delivery} {wb : Header} {dup : Bool} (hm : rspMatch s n m = some d) (hd : d.use = .remote wb dup)
    (hw : (epOf s n).aRsp = []) : rspWaits s n m = ingressOff s n 2 := by
  have hremote : dlvIsRemote d = true := by
    unfold dlvIsRemote
    rw [hd]
  unfold rspWaits
  rw [hm]
  dsimp only
  rw [hremote, hw]
  cases ingressOff s n 2 <;> rfl

theorem freeDlvSlot_ep (n k : Nat) (s : State) : epOf (freeDlvSlot n k s) n = { epOf s n with dlvSlots := tabMod {} (epOf s n).dlvSlots k fun x => ⟨x.gen + 1, none⟩ } :=
  epOf_modEp _ _ _

/-- The slot of an ended delivery whose answer was the source's own. -/
theorem freed_slot {e : Ep} {k : Nat} {t : Ep} {r : Rel} (h : t = { e with dlvSlots := tabMod {} e.dlvSlots k (fun x => ⟨x.gen + 1, none⟩), rel := r }) :
    tabGet {} t.dlvSlots k = ⟨(tabGet {} e.dlvSlots k).gen + 1, none⟩ := by
  rw [h, tabGet_mod_same]

theorem recvFlow_noted {s : State} {n : Nat} {m : AttachMsg} (hok : ctlOk m 0x28 [(2, 1)] = true) (hlt : hdrField m.hdr 2 1 < 4) (hwait : (epOf s n).rspWait = [])
    (hqueue : (epOf s n).dlvQueue = []) :
    recvFlow n m s = modEp n (fun e => { e with offReqRx := decide (hdrField m.hdr 2 1 % 2 = 1), offRspRx := decide (2 ≤ hdrField m.hdr 2 1) }) s := by
  unfold recvFlow
  dsimp only
  rw [hok, if_neg (by rintro (h | h); exacts [absurd h (by decide), absurd h (by omega)]), pumpDlv_none (by rw [epOf_modEp]; exact hqueue)]
  unfold flushRsp
  rw [epOf_modEp]
  dsimp only
  split
  · rfl
  · rw [hwait, modEp_modEp]
    refine modEp_congr ?_
    rw [← hwait]

/-- Settles O33: an answer by what it matches, FLOW as the block notes it, and a delivery that no answer ends. -/
theorem deliveriesEndAndFlowIsNoted : Obligations.DeliveriesEndAndFlowIsNoted := by
  intro s n m hclock hn
  refine ⟨fun h hready hcrc hwait hop hch hb12 hb48 hlen => ?_, fun h hst hcrc hok hlt hwait hqueue => ?_, fun k d wb dup hk hb hd hqueue hno => ?_⟩
  · have hexec : exec (.rsp n m) s = .next (keepFixed s (recvRsp n m s)) :=
      (portIf_awake h hn _ _).trans (congrArg (fun t => Host.Outcome.next (keepFixed s t)) (receive_taken (recvRsp n m) (by rw [hready]; decide) hcrc (by rw [hready]; decide)))
    rw [hexec, recvRsp_wellFormed hop hch hb12 hb48 hlen hwait]
    refine ⟨fun hnone => ?_, fun d wb dup hb hd hg hnn hstatus hplen hqueue hv hoff => ?_, fun d wb dup hb hd hg hnn hoff => ?_⟩
    · have hmatch := rspMatch_none hnone
      have hstay : rspWaits s n m = false := by
        unfold rspWaits
        rw [hmatch]
      rw [hstay, if_neg (by decide)]
      unfold rspApply
      rw [hmatch]
      rfl
    · have hmatch := rspMatch_some hb hg hnn
      rw [rspWaits_remote hmatch hd hwait, hoff, if_neg (by decide)]
      have happly : rspApply n m s = pumpDlv n (deliveryDone n d 0 m.payload false (freeDlvSlot n ((msgTag m).toNat % 4096) s)) := by
        unfold rspApply
        rw [hmatch]
        dsimp only
        rw [hstatus, if_pos (Or.inl rfl), if_neg (not_not.mpr hplen)]
      have hdone := deliveryDone_remote (n := n) hd hv 0 m.payload false (freeDlvSlot n ((msgTag m).toNat % 4096) s)
      obtain ⟨hframe, hothers, ⟨r, hep⟩, hin⟩ := answer_ep n wb dup 0
        (if decide (wbType wb = 0x01) || (decide (wbType wb = 0x03) && fetches (wbSubop wb)) then some (slice m.payload 0 (wbLength wb)) else none)
        (if decide (wbType wb = 0x01) || (decide (wbType wb = 0x03) && fetches (wbSubop wb)) then slice m.payload 0 8 else []) (freeDlvSlot n ((msgTag m).toNat % 4096) s)
      rw [happly, hdone]
      change ∃ t, Host.Outcome.next (keepFixed s (pumpDlv n (answer (.request (.ep n) wb dup) 0
        (if decide (wbType wb = 0x01) || (decide (wbType wb = 0x03) && fetches (wbSubop wb)) then some (slice m.payload 0 (wbLength wb)) else none) _ _))) = .next t ∧ t = _ ∧ _
      generalize answer (.request (.ep n) wb dup) 0 _ _ (freeDlvSlot n ((msgTag m).toNat % 4096) s) = t at *
      rw [freeDlvSlot_ep] at hep
      rw [pumpDlv_none (by rw [hep]; exact hqueue)]
      refine ⟨t, congrArg Host.Outcome.next ?_, rfl, freed_slot hep, ?_, fun k hk => ?_, ?_⟩
      · rw [hframe]
        rfl
      · rw [hin]
        split
        · rfl
        · rfl
      · exact (hothers k hk).trans (epOf_modEp_other _ s hk)
      · exact hframe
    · have hmatch := rspMatch_some hb hg hnn
      rw [rspWaits_remote hmatch hd hwait, hoff, if_pos rfl]
      have honly := (modEp_epOnly n (fun e => { e with aRsp := e.aRsp ++ [m] }) s).trans (flowCheck_epOnly n _)
      obtain ⟨a, b, l, w, hflow⟩ := epOf_flowCheck n (modEp n (fun e => { e with aRsp := e.aRsp ++ [m] }) s)
      rw [epOf_modEp] at hflow
      refine ⟨_, congrArg Host.Outcome.next honly.kept, honly, ?_, ?_⟩ <;> rw [hflow]
      · show (epOf s n).aRsp ++ [m] = [m]
        rw [hwait]
        rfl
      · rfl
  · have hcontains : [AttachState.steering, .ready].contains (epOf s n).attach = true := by rcases hst with h | h <;> rw [h] <;> decide
    have hdown : (epOf s n).attach ≠ .down := by rcases hst with h | h <;> rw [h] <;> decide
    have hexec : exec (.flow n m) s = .next (keepFixed s (recvFlow n m s)) :=
      (portIf_awake h hn _ _).trans (congrArg (fun t => Host.Outcome.next (keepFixed s t)) (receive_taken (recvFlow n m) hdown hcrc hcontains))
    rw [hexec, recvFlow_noted hok hlt hwait hqueue]
    rfl
  · have hexec : exec (.dlvTimeout n k) s = .next (keepFixed s (pumpDlv n (dlvExpire n k s))) :=
      core_next hclock (by rw [epOk_of_lt hn, decide_eq_true hk]; rfl)
    rw [hexec]
    have hexpire : dlvExpire n k s = answer (.request (.ep n) wb dup) 0x14 none (if decide (wbType wb = 0x01) || (decide (wbType wb = 0x03) && fetches (wbSubop wb)) then slice [] 0 8 else [])
        (epFault n 0x05 sevError 0 k d.addr.toNat (dlvSrc d) (freeDlvSlot n k s)) := by
      unfold dlvExpire
      rw [hb]
      dsimp only
      rw [hno, if_neg (by decide)]
      exact deliveryDone_failed hd 0x14 (by decide) [] true _
    obtain ⟨hframe, hothers, ⟨r, hep⟩, hin⟩ := answer_ep n wb dup 0x14 none (if decide (wbType wb = 0x01) || (decide (wbType wb = 0x03) && fetches (wbSubop wb)) then slice [] 0 8 else [])
      (epFault n 0x05 sevError 0 k d.addr.toNat (dlvSrc d) (freeDlvSlot n k s))
    rw [hexpire]
    generalize answer (.request (.ep n) wb dup) 0x14 none _ _ = t at *
    have hfault := epFault_eq n 0x05 sevError 0 k d.addr.toNat (dlvSrc d) (freeDlvSlot n k s)
    obtain ⟨f, o, l, hrec, hroom⟩ := noteRec_parts (epRec n 0x05 sevError 0 k d.addr.toNat (dlvSrc d) (freeDlvSlot n k s))
      { epOf s n with dlvSlots := tabMod {} (epOf s n).dlvSlots k fun x => ⟨x.gen + 1, none⟩ }
    rw [hfault, epOf_modEp, freeDlvSlot_ep, hrec] at hep
    rw [hfault] at hframe hothers hin
    have hbase : modEp n (noteRec (epRec n 0x05 sevError 0 k d.addr.toNat (dlvSrc d) (freeDlvSlot n k s))) (freeDlvSlot n k s)
        = { s with eps := (modEp n (noteRec (epRec n 0x05 sevError 0 k d.addr.toNat (dlvSrc d) (freeDlvSlot n k s))) (freeDlvSlot n k s)).eps } := rfl
    have hbefore : ∀ k', k' ≠ n → epOf (modEp n (noteRec (epRec n 0x05 sevError 0 k d.addr.toNat (dlvSrc d) (freeDlvSlot n k s))) (freeDlvSlot n k s)) k' = epOf s k' :=
      fun k' hk => (epOf_modEp_other _ _ hk).trans (epOf_modEp_other _ s hk)
    have hswc : (modEp n (noteRec (epRec n 0x05 sevError 0 k d.addr.toNat (dlvSrc d) (freeDlvSlot n k s))) (freeDlvSlot n k s)).swc = s.swc := rfl
    generalize modEp n (noteRec _) (freeDlvSlot n k s) = u at *
    have hall : t = { s with eps := t.eps, swc := { s.swc with inbound := t.swc.inbound } } := hframe.trans (by rw [hbase])
    rw [hswc] at hin
    rw [pumpDlv_none (by rw [hep]; exact hqueue)]
    refine ⟨t, congrArg Host.Outcome.next ?_, ?_, hin, fun hl => EpRecorded.of (congrArg Ep.faults hep) (hroom hl), fun k' hk => (hothers k' hk).trans (hbefore k' hk), hall⟩
    · rw [hall]
      rfl
    · rw [hep, tabGet_mod_same]

end Sys2Proof.Machine
end

section
/-! SUPPORT. The attach handshake (R44, R76-R78, R418). -/

namespace Sys2Proof.Machine

open Sys2Proof

/-! ## A message at a port that sleeps (R418) -/

theorem coreRuns_unrest (n : Nat) (s : State) : coreRuns (unrest n s) = coreRuns s := by
  unfold unrest
  split <;> rfl

theorem portIf_quiet {s : State} {n : Nat} (hn : n < 64) (hq : (portOf s n).quiet = true) (unit : String) (f : State → State) : portIf (epOk n) unit n f s = .next s := by
  unfold portIf portLive
  rw [epOk_of_lt hn, hq, Bool.not_true, Bool.and_false]
  rfl

theorem keepFixed_unrest (n : Nat) (s t : State) : keepFixed (unrest n s) t = keepFixed s t := by
  unfold unrest
  split <;> rfl

theorem portIf_unrest {s : State} {n : Nat} (hn : n < 64) (hclock : Clocked s) (hq : (portOf s n).quiet = false) (unit : String) (f : State → State) :
    portIf (epOk n) unit n f s = portIf (epOk n) unit n f (unrest n s) := by
  have hruns : coreRuns s = true := by
    unfold coreRuns
    rw [hclock.1, decide_eq_true hclock.2]
    rfl
  unfold portIf portLive
  rw [epOk_of_lt hn, coreRuns_unrest, (unrest_epOnly n s).quiet, unrest_unrest, keepFixed_unrest, hruns, hq]
  rfl

/-! ## HELLO (R76) -/

section Hello
variable {s : State} {n : Nat} {m : AttachMsg} (hok : ctlOk m 0x20 [(2, 1), (4, 2)] = true)
include hok

/-- The version and the DLV_MAX that a HELLO offers are good. -/
def helloGood (m : AttachMsg) : Bool := decide (hdrField m.hdr 2 1 = 1) && decide (64 ≤ hdrField m.hdr 4 2) && decide (hdrField m.hdr 4 2 ≤ 4096)

theorem recvHello_fresh (hst : (epOf s n).attach ≠ .ready) (hg : helloGood m = true) : recvHello n m s = enterSteering n (hdrField m.hdr 4 2) s := by
  unfold recvHello
  dsimp only
  rw [hok, if_neg (by decide), if_neg hst]
  exact if_pos hg

theorem recvHello_again (hst : (epOf s n).attach = .ready) (hg : helloGood m = true) :
    recvHello n m s = enterSteering n (hdrField m.hdr 4 2) (attachReset n .waitHello s) := by
  unfold recvHello
  dsimp only
  rw [hok, if_neg (by decide), if_pos hst]
  exact if_pos hg

theorem recvHello_bad (hst : (epOf s n).attach ≠ .ready) (hg : helloGood m = false) :
    recvHello n m s = formatFault n 0xFFFF 0 (modEp n (fun e => { settleSteer e with attach := .waitHello }) s) := by
  unfold recvHello
  dsimp only
  rw [hok, if_neg (by decide), if_neg hst]
  exact if_neg (by rw [show (decide (hdrField m.hdr 2 1 = 1) && decide (64 ≤ hdrField m.hdr 4 2) && decide (hdrField m.hdr 4 2 ≤ 4096)) = false from hg]; decide)

end Hello

/-! ## STEER_ACK (R44, R78) -/

/-- What an acknowledgement up to SEQ `q` settles. -/
def acked (q : BitVec 16) (e : Ep) : Ep :=
  { e with
    steerPend := e.steerPend.filter fun x => match x.2 with | some u => !seqCovers q u | none => false
    winWait := if e.winWait.any (seqCovers q ·) then none else e.winWait
    mapWait := e.mapWait.filter fun u => !seqCovers q u
    winBusy := e.winBusy && !e.winWait.any (seqCovers q ·) }

/-- An acknowledgement of an update that has been sent. -/
theorem recvSteerAck_settles {s : State} {n : Nat} {m : AttachMsg} (hok : ctlOk m 0x27 [(2, 2)] = true) (hsent : (epOf s n).attach = .steering → (epOf s n).readySent = true)
    (hold : BitVec.ofNat 16 (hdrField m.hdr 2 2) - lastSteer (epOf s n) = 0 ∨ 2 ^ 15 ≤ (BitVec.ofNat 16 (hdrField m.hdr 2 2) - lastSteer (epOf s n)).toNat) :
    recvSteerAck n m s = if (epOf s n).attach = .steering ∧ BitVec.ofNat 16 (hdrField m.hdr 2 2) = lastSteer (epOf s n) then
      pumpDlv n (announce n true (modEp n (fun e => { e with attach := .ready, incarn := e.incarn + 1 }) (modEp n (acked (BitVec.ofNat 16 (hdrField m.hdr 2 2))) s)))
    else modEp n (acked (BitVec.ofNat 16 (hdrField m.hdr 2 2))) s := by
  unfold recvSteerAck
  dsimp only
  generalize BitVec.ofNat 16 (hdrField m.hdr 2 2) = q at *
  rw [hok, if_neg (by
    rintro (h | ⟨hst, h⟩)
    · exact absurd h (by decide)
    · rw [hsent hst] at h
      exact absurd h (by decide))]
  rw [if_neg (by
    rintro ⟨h1, h2⟩
    rcases hold with h | h
    · rw [h] at h1
      exact absurd h1 (by decide)
    · exact absurd h2 (by omega))]
  generalize hfirst : modEp n _ s = u
  have hacked : u = modEp n (acked q) s := by
    refine hfirst.symm.trans (modEp_congr ?_)
    unfold acked
    cases (epOf s n).winWait <;> rfl
  rw [hacked]

theorem seqCovers_last {e : Ep} : lastSteer e - lastSteer e = 0 := BitVec.sub_self _

/-! ## Steering (R76, R78) -/

/-- A block that has sent a message, and one that has sent an update. -/
theorem sendSteer_parts {n : Nat} {mk : Nat → AttachMsg} {s : State} (ha : (epOf s n).attach ≠ .down) (hq : (portOf s n).quiet = false) : EpOnly s (sendSteer n mk s) n
    ∧ epOf (sendSteer n mk s) n = { epOf s n with steerSeq := (epOf s n).steerSeq + 1, sent := (epOf s n).sent ++ [mk (epOf s n).steerSeq.toNat] } := by
  unfold sendSteer
  dsimp only
  refine ⟨(modEp_epOnly _ _ _).trans (epSend_epOnly _ _ _), ?_⟩
  refine (epOf_epSend (s := modEp n (fun e => { e with steerSeq := (epOf s n).steerSeq + 1 }) s) (by rw [epOf_modEp]; exact ha) hq).trans ?_
  rw [epOf_modEp]
  rfl

/-- The windows' updates go out one after another, with the next SEQs. -/
theorem sendWins_parts {n : Nat} (l : List (Nat × BitVec 128)) {s : State} (ha : (epOf s n).attach ≠ .down) (hq : (portOf s n).quiet = false) :
    let t := forEach l (fun w s => sendSteer n (steerWinMsg (BitVec.ofNat 10 w.1) w.2) s) s
    EpOnly s t n ∧ epOf t n = { epOf s n with
      steerSeq := (epOf s n).steerSeq + BitVec.ofNat 16 l.length
      sent := (epOf s n).sent ++ l.mapIdx fun k w => steerWinMsg (BitVec.ofNat 10 w.1) w.2 ((epOf s n).steerSeq + BitVec.ofNat 16 k).toNat } := by
  induction l generalizing s with
  | nil =>
    refine ⟨EpOnly.refl s n, ?_⟩
    show epOf s n = _
    rw [List.mapIdx_nil, List.append_nil]
    exact congrArg (fun q => { epOf s n with steerSeq := q }) (BitVec.add_zero _).symm
  | cons w l ih =>
    obtain ⟨honly, hep⟩ := sendSteer_parts (mk := steerWinMsg (BitVec.ofNat 10 w.1) w.2) ha hq
    have hrest := ih (s := sendSteer n (steerWinMsg (BitVec.ofNat 10 w.1) w.2) s) (by rw [hep]; exact ha) (honly.quiet.trans hq)
    dsimp only at hrest ⊢
    rw [forEach_cons]
    generalize sendSteer n (steerWinMsg (BitVec.ofNat 10 w.1) w.2) s = u at *
    obtain ⟨honly', hep'⟩ := hrest
    refine ⟨honly.trans honly', hep'.trans ?_⟩
    have hnext : ∀ k : Nat, (epOf s n).steerSeq + 1 + BitVec.ofNat 16 k = (epOf s n).steerSeq + BitVec.ofNat 16 (k + 1) := fun k => by bv_omega
    rw [hep]
    dsimp only
    have hmsgs : (fun (k : Nat) (w : Nat × BitVec 128) => steerWinMsg (BitVec.ofNat 10 w.1) w.2 ((epOf s n).steerSeq + 1 + BitVec.ofNat 16 k).toNat)
        = fun k w => steerWinMsg (BitVec.ofNat 10 w.1) w.2 ((epOf s n).steerSeq + BitVec.ofNat 16 (k + 1)).toNat := by
      funext k w
      rw [hnext]
    rw [List.mapIdx_cons, List.append_assoc, List.length_cons, hnext, hmsgs, show (epOf s n).steerSeq + BitVec.ofNat 16 0 = (epOf s n).steerSeq from BitVec.add_zero _]
    rfl

theorem steeringPass_parts {n : Nat} {s : State} (hst : (epOf s n).attach = .steering) (hr : (epOf s n).readySent = false) (hf : (epOf s n).srcFnid ≠ 0xFFF)
    (hq : (portOf s n).quiet = false) : EpOnly s (steeringPass n s) n ∧ epOf (steeringPass n s) n = { epOf s n with
      readySent := true
      steerSeq := (epOf s n).steerSeq + 1 + BitVec.ofNat 16 ((epOf s n).win.filter fun w => winValid w.2).length
      sent := (epOf s n).sent ++ [readyMsg s n, steerMapMsg s.rte.planeMap (epOf s n).steerSeq.toNat] ++ ((epOf s n).win.filter fun w => winValid w.2).mapIdx
        fun k w => steerWinMsg (BitVec.ofNat 10 w.1) w.2 ((epOf s n).steerSeq + 1 + BitVec.ofNat 16 k).toNat } := by
  have hdown : (epOf s n).attach ≠ .down := by rw [hst]; decide
  unfold steeringPass
  dsimp only
  rw [if_neg (by rintro (h | h | h); exacts [h hst, absurd (hr.symm.trans h) (by decide), hf h])]
  have hready := (epSend_epOnly n (readyMsg s n) s).trans (modEp_epOnly n (fun e => { e with readySent := true }) _)
  have hep : epOf (modEp n (fun e => { e with readySent := true }) (epSend n (readyMsg s n) s)) n = { epOf s n with readySent := true, sent := (epOf s n).sent ++ [readyMsg s n] } := by
    rw [epOf_modEp, epOf_epSend hdown hq]
    rfl
  have hmap : (modEp n (fun e => { e with readySent := true }) (epSend n (readyMsg s n) s)).rte = s.rte := by
    have hparts := hready.parts.1
    rw [hparts]
  rw [hmap]
  generalize modEp n _ (epSend n (readyMsg s n) s) = u at *
  obtain ⟨honly', hep'⟩ := sendSteer_parts (mk := steerMapMsg s.rte.planeMap) (s := u) (n := n) (by rw [hep]; exact hdown) (hready.quiet.trans hq)
  obtain ⟨honly'', hep''⟩ := sendWins_parts ((epOf s n).win.filter fun w => winValid w.2) (s := sendSteer n (steerMapMsg s.rte.planeMap) u) (n := n)
    (by rw [hep', hep]; exact hdown) (honly'.quiet.trans (hready.quiet.trans hq))
  refine ⟨(hready.trans honly').trans honly'', hep''.trans ?_⟩
  rw [hep', hep]
  dsimp only
  rw [List.append_assoc (epOf s n).sent]
  rfl

theorem EpOnly.next {s t : State} {n : Nat} (h : EpOnly s t n) : (Host.Outcome.next (keepFixed s t) : Out) = .next t := congrArg Host.Outcome.next h.kept

/-- A change of a block and a fault record behind it. -/
theorem faulted_parts (n : Nat) (f : Ep → Ep) (kind : Byte) (sev : BitVec 2) (code : Byte) (key detail : Nat) (src : BitVec 12) (s : State) :
    let t := epFault n kind sev code key detail src (modEp n f s)
    EpOnly s t n ∧ epOf t n = (f (epOf s n)).faultsOf (epOf t n) ∧ ((f (epOf s n)).faults.length < 64 → EpRecorded t n kind key) := by
  dsimp only
  obtain ⟨q, o, l, hrec, hroom⟩ := noteRec_parts (epRec n kind sev code key detail src (modEp n f s)) (f (epOf s n))
  have hep : epOf (epFault n kind sev code key detail src (modEp n f s)) n = { f (epOf s n) with faults := q, faultOverflow := o, faultLost := l } := by
    rw [epFault_eq, epOf_modEp, epOf_modEp]
    exact hrec
  refine ⟨(modEp_epOnly _ _ _).trans (epFault_epOnly _ _ _ _ _ _ _ _), ?_, fun hl => EpRecorded.of ?_ (hroom hl)⟩
  · rw [hep]
    rfl
  · rw [hep]

/-- Settles O34: a message at a port that sleeps, HELLO, STEER_ACK, and the pass and the timeouts of steering. -/
theorem attachHandshake : Obligations.AttachHandshake := by
  intro s n m hclock hn
  refine ⟨fun c hc => ?_, fun h hcrc => ⟨fun hok => ⟨fun hver hmin hmax => ⟨fun hst => ?_, fun hst => ?_⟩, fun hbad hst => ?_⟩, fun hok => ⟨fun hst hsent hq => ?_, fun hst hold => ?_⟩⟩,
    fun hst hr hf hq => ?_, fun hst hsent => ?_, fun u hw => ?_, fun u hw hmap => ?_⟩
  · simp only [List.mem_cons, List.not_mem_nil, or_false] at hc
    rcases hc with rfl | rfl | rfl | rfl | rfl | rfl | rfl | rfl | rfl | rfl | rfl | rfl | rfl | rfl <;>
      exact ⟨fun hq => portIf_quiet hn hq _ _, fun hq => portIf_unrest hn hclock hq _ _⟩
  · have hdown : (epOf s n).attach ≠ .down := by rcases hst with h | h <;> rw [h] <;> decide
    have hnot : (epOf s n).attach ≠ .ready := by rcases hst with h | h <;> rw [h] <;> decide
    have hin : [AttachState.waitHello, .steering, .ready].contains (epOf s n).attach = true := by rcases hst with h | h <;> rw [h] <;> decide
    have hgood : helloGood m = true := by
      unfold helloGood
      rw [decide_eq_true hver, decide_eq_true hmin, decide_eq_true hmax]
      rfl
    refine (portIf_awake h hn _ _).trans ?_
    rw [receive_taken _ hdown hcrc hin, recvHello_fresh hok hnot hgood]
    rfl
  · have hgood : helloGood m = true := by
      unfold helloGood
      rw [decide_eq_true hver, decide_eq_true hmin, decide_eq_true hmax]
      rfl
    refine (portIf_awake h hn _ _).trans ?_
    rw [receive_taken _ (by rw [hst]; decide) hcrc (by rw [hst]; decide), recvHello_again hok hst hgood]
    rfl
  · have hdown : (epOf s n).attach ≠ .down := by rcases hst with h | h <;> rw [h] <;> decide
    have hnot : (epOf s n).attach ≠ .ready := by rcases hst with h | h <;> rw [h] <;> decide
    have hin : [AttachState.waitHello, .steering, .ready].contains (epOf s n).attach = true := by rcases hst with h | h <;> rw [h] <;> decide
    have hgood : helloGood m = false := by
      unfold helloGood
      rcases hbad with h | h | h
      · rw [decide_eq_false h]
        rfl
      · rw [decide_eq_false (show ¬ 64 ≤ hdrField m.hdr 4 2 by omega), Bool.and_false]
        rfl
      · rw [decide_eq_false (show ¬ hdrField m.hdr 4 2 ≤ 4096 by omega), Bool.and_false]
    obtain ⟨honly, hep, hroom⟩ := faulted_parts n (fun e => { settleSteer e with attach := .waitHello }) 0x02 sevWarn 0x10 0xFFFF 0 (epOf s n).srcFnid s
    have hexec : exec (.hello n m) s = .next (keepFixed s (epFault n 0x02 sevWarn 0x10 0xFFFF 0 (epOf s n).srcFnid (modEp n (fun e => { settleSteer e with attach := .waitHello }) s))) := by
      refine (portIf_awake h hn _ _).trans ?_
      rw [receive_taken _ hdown hcrc hin, recvHello_bad hok hnot hgood]
      unfold formatFault
      rw [epOf_modEp]
      rfl
    rw [hexec, honly.kept]
    generalize epFault n 0x02 sevWarn 0x10 0xFFFF 0 _ _ = t at *
    refine ⟨t, rfl, honly, ?_, ?_, hroom⟩ <;> rw [hep] <;> rfl
  · refine (portIf_awake h hn _ _).trans ?_
    rw [receive_taken _ (by rw [hst]; decide) hcrc (by rw [hst]; decide), recvSteerAck_settles hok (fun _ => hsent) (Or.inl (by rw [hq]; exact seqCovers_last)), if_pos ⟨hst, hq⟩, modEp_modEp]
    rfl
  · refine (portIf_awake h hn _ _).trans ?_
    rw [receive_taken _ (by rw [hst]; decide) hcrc (by rw [hst]; decide), recvSteerAck_settles hok (fun hs => absurd (hst.symm.trans hs) (by decide)) hold,
      if_neg (fun hs => absurd (hst.symm.trans hs.1) (by decide))]
    rfl
  · obtain ⟨honly, hep⟩ := steeringPass_parts hst hr hf hq
    exact ⟨_, (core_next hclock (epOk_of_lt hn)).trans honly.next, honly, hep⟩
  · obtain ⟨honly, hep, hroom⟩ := faulted_parts n (fun e => { settleSteer e with attach := .waitHello }) 0x04 sevError 0 0xFFFF 0 (epOf s n).srcFnid s
    have hexec : exec (.steeringTimeout n) s = .next (keepFixed s (epFault n 0x04 sevError 0 0xFFFF 0 (epOf s n).srcFnid (modEp n (fun e => { settleSteer e with attach := .waitHello }) s))) := by
      refine (core_next hclock (epOk_of_lt hn)).trans ?_
      rw [if_pos ⟨hst, hsent⟩]
    rw [hexec, honly.kept]
    generalize epFault n 0x04 sevError 0 0xFFFF 0 _ _ = t at *
    refine ⟨t, rfl, honly, ?_, ?_, ?_, hroom⟩ <;> rw [hep] <;> rfl
  · obtain ⟨honly, hep, hroom⟩ := faulted_parts n (fun e => { e with
      steerTimeout := tabSet false e.steerTimeout (epOf s n).winIndex.toNat true, steerPend := tabSet none e.steerPend (epOf s n).winIndex.toNat (some u), winWait := none, winBusy := false })
      0x04 sevError 0 (epOf s n).winIndex.toNat 0 (epOf s n).srcFnid s
    have hexec : exec (.steerTimeout n) s = .next (keepFixed s (epFault n 0x04 sevError 0 (epOf s n).winIndex.toNat 0 (epOf s n).srcFnid (modEp n (fun e => { e with
      steerTimeout := tabSet false e.steerTimeout (epOf s n).winIndex.toNat true, steerPend := tabSet none e.steerPend (epOf s n).winIndex.toNat (some u)
      winWait := none, winBusy := false }) s))) := by
      refine (core_next hclock (epOk_of_lt hn)).trans ?_
      rw [hw]
    rw [hexec, honly.kept]
    generalize epFault n 0x04 sevError 0 (epOf s n).winIndex.toNat 0 _ _ = t at *
    refine ⟨t, rfl, honly, ?_, ?_, ?_, ?_, ?_, hroom⟩ <;> rw [hep]
    · exact tabGet_set_same false true (epOf s n).steerTimeout _
    · exact tabGet_set_same none (some u) (epOf s n).steerPend _
    · rfl
    · rfl
    · rfl
  · obtain ⟨honly, hep, hroom⟩ := faulted_parts n (fun e => { e with mapWait := none }) 0x04 sevError 0 0xFFFF 0 (epOf s n).srcFnid s
    have hexec : exec (.steerTimeout n) s = .next (keepFixed s (epFault n 0x04 sevError 0 0xFFFF 0 (epOf s n).srcFnid (modEp n (fun e => { e with mapWait := none }) s))) := by
      refine (core_next hclock (epOk_of_lt hn)).trans ?_
      rw [hw]
      dsimp only
      rw [hmap]
      rfl
    rw [hexec, honly.kept]
    generalize epFault n 0x04 sevError 0 0xFFFF 0 _ _ = t at *
    exact ⟨t, rfl, honly, hep, hroom⟩

end Sys2Proof.Machine
end

section
/-! SUPPORT. Doorbells and ring configuration (R88, R89, R91). -/

namespace Sys2Proof.Machine

open Sys2Proof

/-! ## One ring of a block -/

/-- The block with one ring changed. -/
def onRing (r : Nat) (f : Ring → Ring) (e : Ep) : Ep := { e with rings := tabMod {} e.rings r f }

theorem modRing_eq (n r : Nat) (f : Ring → Ring) (s : State) : modRing n r f s = modEp n (onRing r f) s := rfl

theorem epOf_modRing (n r : Nat) (f : Ring → Ring) (s : State) : epOf (modRing n r f s) n = onRing r f (epOf s n) := epOf_modEp _ _ _

theorem modRing_epOnly (n r : Nat) (f : Ring → Ring) (s : State) : EpOnly s (modRing n r f s) n := modEp_epOnly _ _ _

theorem keepFixed_modRing (n r : Nat) (f : Ring → Ring) (s : State) : keepFixed s (modRing n r f s) = modRing n r f s := rfl

theorem ring_onRing (r : Nat) (f : Ring → Ring) (e : Ep) : tabGet {} (onRing r f e).rings r = f (tabGet {} e.rings r) := tabGet_mod_same ({} : Ring) e.rings r f

theorem ring_onRing_other {r k : Nat} (f : Ring → Ring) (e : Ep) (h : k ≠ r) : tabGet {} (onRing r f e).rings k = tabGet {} e.rings k :=
  tabGet_mod_other ({} : Ring) e.rings f h

theorem ringOf_modRing (n r : Nat) (f : Ring → Ring) (s : State) : ringOf (modRing n r f s) n r = f (ringOf s n r) := by
  unfold ringOf
  rw [epOf_modRing, ring_onRing]

theorem ringOf_modRing_other {n r k : Nat} (f : Ring → Ring) (s : State) (h : k ≠ r) : ringOf (modRing n r f s) n k = ringOf s n k := by
  unfold ringOf
  rw [epOf_modRing, ring_onRing_other _ _ h]

theorem modRing_congr {n r : Nat} {f g : Ring → Ring} {s : State} (h : f (ringOf s n r) = g (ringOf s n r)) : modRing n r f s = modRing n r g s := by
  refine modEp_congr (congrArg (fun t => { epOf s n with rings := t }) ?_)
  unfold tabMod
  exact congrArg (tabSet {} (epOf s n).rings r) h

theorem modRing_modRing (n r : Nat) (f g : Ring → Ring) (s : State) : modRing n r f (modRing n r g s) = modRing n r (fun x => f (g x)) s := by
  rw [modRing_eq, modRing_eq, modEp_modEp]
  refine modEp_congr ?_
  unfold onRing
  rw [tabMod_mod]

/-! ## Doorbells (R89) -/

/-- An ACTIVE ring that halts, with its cause. -/
def haltedBy (cause : Nat) (g : Ring) : Ring := { g with state := .halted, cause := BitVec.ofNat 3 cause, cqStall := false }

theorem haltRing_active {n r cause : Nat} {s : State} (h : (ringOf s n r).state = .active) : haltRing n r cause s = modRing n r (haltedBy cause) s := if_pos h

/-- A doorbell that is out of range halts its ring and leaves a record. -/
theorem badDoorbell_parts {n r cause value : Nat} {s : State} (h : (ringOf s n r).state = .active) : EpOnly s (badDoorbell n r cause value s) n
    ∧ ringOf (badDoorbell n r cause value s) n r = haltedBy cause (ringOf s n r)
    ∧ ((epOf s n).faults.length < 64 → EpRecorded (badDoorbell n r cause value s) n 0x03 r) := by
  unfold badDoorbell
  rw [haltRing_active h, modRing_eq]
  obtain ⟨honly, hep, hroom⟩ := faulted_parts n (onRing r (haltedBy cause)) 0x03 sevError 0 r value (epOf s n).srcFnid s
  generalize epFault n 0x03 sevError 0 r value _ _ = t at *
  refine ⟨honly, ?_, hroom⟩
  unfold ringOf
  rw [hep]
  show tabGet {} (onRing r (haltedBy cause) (epOf s n)).rings r = _
  exact ring_onRing _ _ _

section Doorbell
variable {s : State} {n r : Nat} {m : AttachMsg} (hr : r < 64) (hring : hdrField m.hdr 2 1 = r) (hok : ctlOk m 0x22 [(2, 2), (4, 4)] = true) (hst : (ringOf s n r).state = .active)
include hr hring hok hst

theorem recvDoorbell_tail (hk : hdrField m.hdr 3 1 = 0) (hv : BitVec.ofNat 32 (hdrField m.hdr 4 4) ≠ (ringOf s n r).tail) : recvDoorbell n m s =
    if (BitVec.ofNat 32 (hdrField m.hdr 4 4) - (ringOf s n r).head).toNat ≤ 2 ^ (ringOf s n r).logSize.toNat ∧ (BitVec.ofNat 32 (hdrField m.hdr 4 4) - (ringOf s n r).tail).toNat < 2 ^ 31 then
      modRing n r (fun g => { g with tail := BitVec.ofNat 32 (hdrField m.hdr 4 4) }) s
    else badDoorbell n r 1 (BitVec.ofNat 32 (hdrField m.hdr 4 4)).toNat s := by
  unfold recvDoorbell
  dsimp only
  rw [hring, hok, hk, if_neg (by rintro (h | h | h); exacts [absurd h (by decide), absurd h (by omega), absurd h (by decide)]), if_neg (not_not.mpr hst), if_pos rfl, if_neg hv]

theorem recvDoorbell_head (hk : hdrField m.hdr 3 1 = 1) (hv : BitVec.ofNat 32 (hdrField m.hdr 4 4) ≠ (ringOf s n r).cqHead) : recvDoorbell n m s =
    if (BitVec.ofNat 32 (hdrField m.hdr 4 4) - (ringOf s n r).cqHead).toNat ≤ ((ringOf s n r).head - (ringOf s n r).cqHead).toNat then
      modRing n r (fun g => { g with cqHead := BitVec.ofNat 32 (hdrField m.hdr 4 4), cqStall := false }) s
    else badDoorbell n r 2 (BitVec.ofNat 32 (hdrField m.hdr 4 4)).toNat s := by
  unfold recvDoorbell
  dsimp only
  rw [hring, hok, hk, if_neg (by rintro (h | h | h); exacts [absurd h (by decide), absurd h (by omega), absurd h (by decide)]), if_neg (not_not.mpr hst), if_neg (by decide), if_neg hv]

end Doorbell

/-! ## RING_CFG (R88, R91) -/

/-- The RING_ACK of a ring. -/
def ackMsg (r result state : Nat) : AttachMsg := ctlMsg 0x24 [(2, r), (3, result), (4, state)]

theorem ringAck_sent {n r : Nat} (hr : r < 64) (result : Nat) (s : State) : ringAck n r result s = epSend n (ackMsg r result (ringCode (ringOf s n r).state)) s := by
  unfold ringAck
  dsimp only
  rw [if_pos hr]
  rfl

/-- A ring that closes once it is quiet, with no other change of it waiting. -/
theorem closeRing_quiet {n r : Nat} {b : Bool} {s : State} (hc : (ringOf s n r).closing = some b) (hnext : (ringOf s n r).closeNext = []) (hq : ringQuiet s n r = true) :
    closeRing n r s = ringAck n r 0 (modRing n r (closedRing b) s) := by
  unfold closeRing
  rw [hnext]
  show closeRingN n r 1 s = _
  unfold closeRingN
  rw [hc]
  dsimp only
  rw [hq]
  rfl

theorem closeRing_busy {n r : Nat} {s : State} (hq : ringQuiet s n r = false) : closeRing n r s = s := by
  unfold closeRing closeRingN
  cases (ringOf s n r).closing with
  | none => rfl
  | some b =>
    dsimp only
    rw [hq]
    rfl

section Config
variable {s : State} {n r : Nat} {m : AttachMsg} (hring : hdrField m.hdr 2 1 = r) (hok : ctlOk m 0x23 [(2, 3), (6, 2), (8, 16)] = true)
include hring hok

theorem recvRingCfg_bad (hcfg : ringCfgOk s m.hdr = false) : recvRingCfg n m s = ringAck n r 1 s := by
  unfold recvRingCfg
  dsimp only
  rw [hring, hok, if_neg (by decide), hcfg]
  rfl

theorem recvRingCfg_enable (hcfg : ringCfgOk s m.hdr = true) (ha : hdrField m.hdr 3 1 = 1) : recvRingCfg n m s =
    if (ringOf s n r).state ≠ .disabled then ringAck n r 2 s else ringAck n r 0 (modRing n r (fun _ => freshRing m.hdr) s) := by
  unfold recvRingCfg
  dsimp only
  rw [hring, hok, if_neg (by decide), hcfg, if_neg (by decide), if_pos ha]

theorem recvRingCfg_close (hcfg : ringCfgOk s m.hdr = true) (ha : hdrField m.hdr 3 1 ≠ 1) : recvRingCfg n m s =
    if (ringOf s n r).closing.isSome then modRing n r (fun g => { g with closeNext := g.closeNext ++ [(decide (hdrField m.hdr 3 1 = 2), m.hdr)] }) s
    else closeRing n r (modRing n r (fun g => { g with closing := some (decide (hdrField m.hdr 3 1 = 2)), closeMsg := m.hdr }) s) := by
  unfold recvRingCfg
  dsimp only
  rw [hring, hok, if_neg (by decide), hcfg, if_neg (by decide), if_neg ha]

end Config

/-- What a reset or a disable leaves of a ring with no other change waiting. -/
theorem closedRing_last {b : Bool} {g : Ring} (h : g.closeNext = []) : closedRing b g = if b then freshRing g.closeMsg
    else { logSize := g.logSize, planeSet := g.planeSet, sqBase := g.sqBase, cqBase := g.cqBase, head := g.head, tail := g.tail, cqHead := g.cqHead } := by
  unfold closedRing
  dsimp only
  rw [h]

/-- A change of a ring and its RING_ACK. -/
theorem ringAck_after {n r : Nat} (hr : r < 64) (result : Nat) (f : Ring → Ring) {s : State} (ha : (epOf s n).attach ≠ .down) (hq : (portOf s n).quiet = false) :
    let t := ringAck n r result (modRing n r f s)
    EpOnly s t n ∧ ringOf t n r = f (ringOf s n r) ∧ (∀ k, k ≠ r → ringOf t n k = ringOf s n k)
    ∧ (epOf t n).sent = (epOf s n).sent ++ [ackMsg r result (ringCode (f (ringOf s n r)).state)] := by
  dsimp only
  have hep : epOf (ringAck n r result (modRing n r f s)) n = addSent (ackMsg r result (ringCode (f (ringOf s n r)).state)) (onRing r f (epOf s n)) := by
    rw [ringAck_sent hr, epOf_epSend (s := modRing n r f s) (by rw [epOf_modRing]; exact ha) hq, epOf_modRing, ringOf_modRing]
  have honly : EpOnly s (ringAck n r result (modRing n r f s)) n := (modRing_epOnly n r f s).trans (epSend_epOnly _ _ _)
  generalize ringAck n r result (modRing n r f s) = t at *
  refine ⟨honly, ?_, fun k hk => ?_, ?_⟩
  · unfold ringOf
    rw [hep]
    exact ring_onRing r f (epOf s n)
  · unfold ringOf
    rw [hep]
    exact ring_onRing_other f (epOf s n) hk
  · rw [hep]
    rfl

theorem ringAck_refused {n r : Nat} (hr : r < 64) (result : Nat) {s : State} (ha : (epOf s n).attach ≠ .down) (hq : (portOf s n).quiet = false) :
    EpOnly s (ringAck n r result s) n ∧ epOf (ringAck n r result s) n = addSent (ackMsg r result (ringCode (ringOf s n r).state)) (epOf s n) := by
  rw [ringAck_sent hr]
  exact ⟨epSend_epOnly _ _ _, epOf_epSend ha hq⟩

theorem ringCode_closed (b : Bool) (h : Header) (g : Ring) : ringCode (if b then freshRing h
    else { logSize := g.logSize, planeSet := g.planeSet, sqBase := g.sqBase, cqBase := g.cqBase, head := g.head, tail := g.tail, cqHead := g.cqHead }).state = if b then 1 else 0 := by
  cases b <;> rfl

/-- Settles O35: a doorbell by its range, and RING_CFG by its action and by what is left of the ring. -/
theorem doorbellsAndRingConfiguration : Obligations.DoorbellsAndRingConfiguration := by
  intro s n r m h hn hr hready
  dsimp only
  have hdown : (epOf s n).attach ≠ .down := by rw [hready]; decide
  have hin : [AttachState.ready].contains (epOf s n).attach = true := by rw [hready]; decide
  refine ⟨fun hcrc hring => ⟨fun hok hst => ⟨fun hk hv => ⟨fun h1 h2 => ?_, fun hout => ?_⟩, fun hk hv => ⟨fun h1 => ?_, fun hout => ?_⟩⟩, fun hok c hc => ?_⟩, fun b hb hnext hquiet => ?_⟩
  · refine (portIf_awake h hn _ _).trans ?_
    rw [receive_taken _ hdown hcrc hin, recvDoorbell_tail hr hring hok hst hk hv, if_pos ⟨h1, h2⟩]
    rfl
  · obtain ⟨honly, hhalt, hroom⟩ := badDoorbell_parts (n := n) (r := r) (cause := 1) (value := (BitVec.ofNat 32 (hdrField m.hdr 4 4)).toNat) hst
    have hexec : exec (.doorbellSqTail n m) s = .next (keepFixed s (badDoorbell n r 1 (BitVec.ofNat 32 (hdrField m.hdr 4 4)).toNat s)) := by
      refine (portIf_awake h hn _ _).trans ?_
      rw [receive_taken _ hdown hcrc hin, recvDoorbell_tail hr hring hok hst hk hv, if_neg (by rintro ⟨ha, hb⟩; omega)]
    refine ⟨_, hexec.trans honly.next, honly, ?_, ?_, ?_, hroom⟩ <;> rw [hhalt] <;> rfl
  · refine (portIf_awake h hn _ _).trans ?_
    rw [receive_taken _ hdown hcrc hin, recvDoorbell_head hr hring hok hst hk hv, if_pos h1]
    rfl
  · obtain ⟨honly, hhalt, hroom⟩ := badDoorbell_parts (n := n) (r := r) (cause := 2) (value := (BitVec.ofNat 32 (hdrField m.hdr 4 4)).toNat) hst
    have hexec : exec (.doorbellCqHead n m) s = .next (keepFixed s (badDoorbell n r 2 (BitVec.ofNat 32 (hdrField m.hdr 4 4)).toNat s)) := by
      refine (portIf_awake h hn _ _).trans ?_
      rw [receive_taken _ hdown hcrc hin, recvDoorbell_head hr hring hok hst hk hv, if_neg (by omega)]
    refine ⟨_, hexec.trans honly.next, honly, ?_, ?_, ?_, hroom⟩ <;> rw [hhalt] <;> rfl
  · have hexec : exec c s = .next (keepFixed s (recvRingCfg n m s)) := by
      have hport := portIf_awake h hn "end-point block" (receive n m [.ready] (recvRingCfg n m))
      rw [receive_taken _ hdown hcrc hin] at hport
      simp only [List.mem_cons, List.not_mem_nil, or_false] at hc
      rcases hc with rfl | rfl | rfl <;> exact hport
    rw [hexec]
    refine ⟨fun hcfg => ?_, fun hcfg => ⟨fun ha hst => ?_, fun ha hst => ?_, fun ha hcl hnext hquiet => ?_, fun ha hcl hbusy => ?_, fun ha hcl => ?_⟩⟩
    · rw [recvRingCfg_bad hring hok hcfg]
      obtain ⟨honly, hep⟩ := ringAck_refused hr 1 hdown h.2.1
      exact ⟨_, honly.next, honly, hep⟩
    · rw [recvRingCfg_enable hring hok hcfg ha, if_pos hst]
      obtain ⟨honly, hep⟩ := ringAck_refused hr 2 hdown h.2.1
      exact ⟨_, honly.next, honly, hep⟩
    · rw [recvRingCfg_enable hring hok hcfg ha, if_neg (not_not.mpr hst)]
      obtain ⟨honly, hself, hothers, hsent⟩ := ringAck_after hr 0 (fun _ => freshRing m.hdr) hdown h.2.1
      exact ⟨_, honly.next, honly, hself, hothers, hsent⟩
    · rw [recvRingCfg_close hring hok hcfg ha, hcl, Option.isSome_none, if_neg (by decide)]
      have hq : ringQuiet (modRing n r (fun g => { g with closing := some (decide (hdrField m.hdr 3 1 = 2)), closeMsg := m.hdr }) s) n r = true := by
        unfold ringQuiet at hquiet ⊢
        rw [ringOf_modRing, epOf_modRing]
        exact hquiet
      rw [closeRing_quiet (by rw [ringOf_modRing]) (by rw [ringOf_modRing]; exact hnext) hq, modRing_modRing]
      obtain ⟨honly, hself, hothers, hsent⟩ := ringAck_after hr 0 (fun g => closedRing (decide (hdrField m.hdr 3 1 = 2)) { g with closing := some (decide (hdrField m.hdr 3 1 = 2)), closeMsg := m.hdr }) hdown h.2.1
      rw [closedRing_last (by exact hnext)] at hself hsent
      rw [ringCode_closed] at hsent
      refine ⟨_, honly.next, honly, hself.trans ?_, hothers, hsent.trans ?_⟩
      · by_cases h2 : hdrField m.hdr 3 1 = 2
        · rw [decide_eq_true h2, if_pos rfl, if_pos h2]
        · rw [decide_eq_false h2, if_neg (by decide), if_neg h2]
      · by_cases h2 : hdrField m.hdr 3 1 = 2
        · rw [decide_eq_true h2, if_pos rfl, if_pos h2]
          rfl
        · rw [decide_eq_false h2, if_neg (by decide), if_neg h2]
          rfl
    · rw [recvRingCfg_close hring hok hcfg ha, hcl, Option.isSome_none, if_neg (by decide), closeRing_busy]
      · rfl
      · unfold ringQuiet at hbusy ⊢
        rw [ringOf_modRing, epOf_modRing]
        exact hbusy
    · rw [recvRingCfg_close hring hok hcfg ha, if_pos (Option.isSome_iff_ne_none.mpr hcl)]
      rfl
  · have hexec : exec (.ringQuiesced n r) s = .next (keepFixed s (closeRing n r s)) := core_next h.1 (by rw [epOk_of_lt hn, decide_eq_true hr]; rfl)
    rw [hexec, closeRing_quiet hb hnext hquiet]
    obtain ⟨honly, hself, hothers, hsent⟩ := ringAck_after hr 0 (closedRing b) hdown h.2.1
    rw [closedRing_last hnext] at hself hsent
    rw [ringCode_closed] at hsent
    exact ⟨_, honly.next, honly, hself, hothers, hsent⟩

end Sys2Proof.Machine
end

section
/-! SUPPORT. Deliveries handed over, fetches, and contexts granted (R82, R84, R85, R90, R100). -/

namespace Sys2Proof.Machine

open Sys2Proof

/-! ## Deliveries to the controller (R70, R82) -/

/-- `t` is what handing deliveries over may make of block `n` in `s`. -/
def HandsOver (s t : State) (n : Nat) : Prop :=
  EpOnly s t n ∧ ∃ q sl l w, epOf t n = { epOf s n with dlvQueue := q, dlvSlots := sl, sent := l, sendWait := w }

theorem HandsOver.refl (s : State) (n : Nat) : HandsOver s s n := ⟨EpOnly.refl s n, _, _, _, _, rfl⟩

theorem HandsOver.trans {s t u : State} {n : Nat} (h : HandsOver s t n) (k : HandsOver t u n) : HandsOver s u n := by
  obtain ⟨h1, q, sl, l, w, h2⟩ := h
  obtain ⟨k1, q', sl', l', w', k2⟩ := k
  exact ⟨h1.trans k1, q', sl', l', w', by rw [k2, h2]⟩

theorem epSend_handsOver (n : Nat) (m : AttachMsg) (s : State) : HandsOver s (epSend n m s) n := by
  refine ⟨epSend_epOnly n m s, ?_⟩
  unfold epSend
  split
  · exact ⟨_, _, _, _, rfl⟩
  · split
    · exact ⟨_, _, _, _, epOf_modEp _ _ _⟩
    · exact ⟨_, _, _, _, by rw [epOf_unrest, epOf_modEp]⟩

theorem modHand_handsOver (n i k : Nat) (x : DlvSlot) (s : State) :
    HandsOver s (modEp n (fun e => { e with dlvQueue := nthDel e.dlvQueue i, dlvSlots := tabSet {} e.dlvSlots k x }) s) n :=
  ⟨modEp_epOnly _ _ _, _, _, _, _, epOf_modEp _ _ _⟩

theorem modQueue_handsOver (n : Nat) (l : List Delivery) (s : State) : HandsOver s (modEp n (fun e => { e with dlvQueue := e.dlvQueue ++ l }) s) n :=
  ⟨modEp_epOnly _ _ _, _, _, _, _, epOf_modEp _ _ _⟩

theorem pumpDlvOne_handsOver (n : Nat) (s : State) : HandsOver s (pumpDlvOne n s) n := by
  unfold pumpDlvOne
  dsimp only
  split
  · exact HandsOver.refl s n
  · cases nextDlv s n with
    | none => exact HandsOver.refl s n
    | some i =>
      dsimp only
      cases (epOf s n).dlvQueue[i]? with
      | none => exact HandsOver.refl s n
      | some d =>
        cases freeSlot (epOf s n) with
        | none => exact HandsOver.refl s n
        | some k => exact (modHand_handsOver n i k _ s).trans (epSend_handsOver _ _ _)

theorem pumpDlv_handsOver (n : Nat) (s : State) : HandsOver s (pumpDlv n s) n := by
  have hfuel : ∀ (k : Nat) (u : State), HandsOver u (pumpDlvN n k u) n := by
    intro k
    induction k with
    | zero => exact fun u => HandsOver.refl u n
    | succ k ih => exact fun u => (pumpDlvOne_handsOver n u).trans (ih _)
  exact hfuel _ s

theorem hostAccess_handsOver (n : Nat) (h : HostUse) (opcode : Byte) (addr len : Nat) (payload : List Byte) (s : State) : HandsOver s (hostAccess n h opcode addr len payload s) n := by
  unfold hostAccess
  exact (modQueue_handsOver n _ s).trans (pumpDlv_handsOver n _)

/-- A host access that the controller has room for is sent at once. -/
theorem hostAccess_sent {n k : Nat} {h : HostUse} {s : State} (hroom : DlvRoom s n k) (hc : ∀ d : Delivery, d.use = .host h → dlvChunk d = none) (opcode : Byte)
    (addr len : Nat) (payload : List Byte) : (epOf (hostAccess n h opcode addr len payload s) n).sent
      = (epOf s n).sent ++ [dlvIn s n k { use := .host h, opcode := opcode, addr := BitVec.ofNat 52 addr, len := len, payload := payload }] := by
  unfold hostAccess
  rw [pumpDlv_room hroom rfl (hc _ rfl), epOf_unrest, epOf_modEp]
  rfl

/-- Handing over leaves the rings and descriptors of the block. -/
theorem HandsOver.kept {s t : State} {n : Nat} (h : HandsOver s t n) : (epOf t n).rings = (epOf s n).rings ∧ (epOf t n).descs = (epOf s n).descs ∧ (epOf t n).rel = (epOf s n).rel
    ∧ (epOf t n).faults = (epOf s n).faults := by
  obtain ⟨_, q, sl, l, w, hep⟩ := h
  refine ⟨?_, ?_, ?_, ?_⟩ <;> rw [hep]

theorem HandsOver.ring {s t : State} {n : Nat} (h : HandsOver s t n) (r : Nat) : ringOf t n r = ringOf s n r := by
  unfold ringOf
  rw [h.kept.1]

/-! ## Fetches (R90, R100) -/

section Fetch
variable {s : State} {n r : Nat} (hst : (ringOf s n r).state = .active) (hf : (ringOf s n r).fetching = false) (hc : (ringOf s n r).closing = none) (hb : fetchBlocked s n r = false)
  (hnew : (ringOf s n r).tail ≠ (ringOf s n r).head) (hroom : ((epOf s n).descs.filter fun x => x.2.isSome).length + ((epOf s n).rings.filter fun x => x.2.fetching).length < 256)
include hst hf hc hb hnew hroom

theorem descriptorFetch_ready : descriptorFetch n r s =
    if 2 ^ (ringOf s n r).logSize.toNat ≤ ((ringOf s n r).head - (ringOf s n r).cqHead).toNat then modRing n r (fun g => { g with cqStall := true }) s
    else hostAccess n (.fetch r (ringOf s n r).head) 0x41 ((ringOf s n r).sqBase.toNat + ringIdx (ringOf s n r) (ringOf s n r).head * 64) 64 [] (modRing n r (fun g => { g with fetching := true }) s) := by
  unfold descriptorFetch
  dsimp only
  rw [if_neg]
  rw [hf, hc, hb]
  rintro (h | h | h | h | h | h)
  · exact h hst
  · cases h
  · cases h
  · cases h
  · exact hnew h
  · omega

end Fetch

/-! ## Contexts (R84, R85) -/

/-- A source's contexts and series are all that a sent frame depends on. -/
theorem Issues.of_source {s s' t : State} {p : Point} {i : Nat} {f : NewFrame} (h : Issues s' t p i f) (hctxs : (relOf s' p).ctxs = (relOf s p).ctxs)
    (hseries : (relOf s' p).series = (relOf s p).series) (hin : s'.swc.inbound = s.swc.inbound) (hplane : planeIdx s' = planeIdx s) : Issues s t p i f := by
  have hctx : ∀ j, ctxOf s' p j = ctxOf s p j := fun j => congrArg (fun r : Tab Ctx => tabGet ({} : Ctx) r j) hctxs
  have hwb : ∀ q g, newWb s' f q g = newWb s f q g := by
    intro q g
    unfold newWb
    rw [hplane]
  obtain ⟨issued, sent, others⟩ := h
  rw [hctx, hseries, hwb] at issued
  rw [hin] at sent
  exact ⟨issued, sent, fun j hj => (others j hj).trans (hctx j)⟩

/-- The frames that wait are all alive: none is dropped. -/
theorem filter_alive {s : State} {l : List NewFrame} (h : ∀ f ∈ l, frameAlive s f = true) : l.filter (frameAlive s) = l := List.filter_eq_self.mpr h

theorem nextDirect_epOnly {s u : State} {n : Nat} (h : EpOnly s u n) (hep : epOf u n = epOf s n) : nextDirect u n = nextDirect s n := by
  have hcan : ∀ r, canSend u (.ep n) (directFrame u n r) = canSend s (.ep n) (directFrame s n r) := by
    intro r
    have hframe : directFrame u n r = directFrame s n r := by
      unfold directFrame
      rw [hep]
    rw [hframe]
    exact canSend_epOnly h (by rw [hep]) _
  unfold nextDirect
  dsimp only
  rw [hep]
  cases (epOf s n).aReq.find? fun r => !r.held && !lineBlocked (epOf s n) r with
  | none => rfl
  | some r =>
    dsimp only
    rw [hcan]

theorem sendable_none {s : State} {n : Nat} (h : (epOf s n).descs = []) : sendable s n = [] := by
  unfold sendable
  rw [h]
  rfl

/-- The block's first turn serves the direct request that may go. -/
theorem grantEp_direct {s : State} {n i : Nat} {q : DirectReq} (hd : (epOf s n).descs = []) (hr : (epOf s n).rings = []) (ht : (epOf s n).turn = 0) (ha : (epOf s n).aRsp = [])
    (hq : nextDirect s n = some q) (hi : ctxHead (epOf s n).rel = some i) (halive : ∀ f ∈ (epOf s n).rel.waiting, frameAlive s f = true) :
    ∃ u, EpOnly s u n ∧ epOf u n = epOf s n ∧ grantEp n s = modEp n (fun e => { e with turn := 1 }) (sendDirect n q u) := by
  have hep : epOf (modRel (.ep n) (fun r => { r with waiting := r.waiting.filter (frameAlive s) }) s) n = epOf s n := by
    rw [epOf_modRel]
    dsimp only
    rw [filter_alive halive]
  have honly : EpOnly s (modRel (.ep n) (fun r => { r with waiting := r.waiting.filter (frameAlive s) }) s) n := modEp_epOnly _ _ _
  refine ⟨_, honly, hep, ?_⟩
  unfold grantEp
  dsimp only
  rw [drainRsp_none ha]
  generalize modRel (.ep n) _ s = u at *
  rw [sendable_none (by rw [hep]; exact hd), hep, ht]
  have hfirst : turnTake n 0 u = some (sendDirect n q u) := by
    unfold turnTake
    rw [if_pos rfl, nextDirect_epOnly honly hep, hq]
    rfl
  have hturns : ((List.range 66).map fun k => (0 + k) % 66).findSome? (fun t => (turnTake n t u).map fun s' => (t, s')) = some (0, sendDirect n q u) := by
    rw [show (List.range 66).map (fun k => (0 + k) % 66) = 0 :: ((List.range 65).map fun k => k + 1) by decide, List.findSome?_cons, hfirst]
    rfl
  rw [List.filter_nil]
  dsimp only [firstReleased]
  rw [hturns]
  have hi' : ctxHead (epOf u n).rel = some i := by rw [hep]; exact hi
  obtain ⟨_, _, _, _, _, hdescs, hrings⟩ := sendDirect_all q hi'
  refine epWork_idle ?_ ?_
  · rw [epOf_modEp]
    exact hdescs.trans (by rw [hep]; exact hd)
  · rw [epOf_modEp]
    exact hrings.trans (by rw [hep]; exact hr)

theorem EpIn.next {s t : State} {n : Nat} (h : EpIn s t n) : (Host.Outcome.next (keepFixed s t) : Out) = .next t := congrArg Host.Outcome.next h.kept

@[simp] theorem ctxPop_waiting (r : Rel) : (ctxPop r).waiting = r.waiting := by
  unfold ctxPop
  split <;> rfl

/-- The node requester sends the frame that waits at the head. -/
theorem sendWaiting_rte {s : State} {f : NewFrame} {i : Nat} (hi : ctxHead s.rte.rel = some i) : let t := sendWaiting .rte f s
    Issues s t .rte i f ∧ t.rte.rel.waiting = s.rte.rel.waiting.erase f ∧ t = { s with rte := { s.rte with rel := t.rte.rel }, swc := { s.swc with inbound := t.swc.inbound } } := by
  dsimp only
  have hi' : ctxHead (relOf (modRel .rte (fun r => { r with waiting := r.waiting.erase f }) s) .rte) = some i := hi
  have hissue := sendNew_issues f hi'
  have hsend := sendNew_of_ctxHead f hi'
  have hrel := relOf_sendNew f hi'
  unfold sendWaiting
  refine ⟨hissue.of_source rfl rfl rfl rfl, ?_, ?_⟩
  · refine (congrArg Rel.waiting hrel).trans ?_
    unfold issueCtx
    dsimp only
    rw [ctxPop_waiting]
    rfl
  · rw [hsend]
    rfl

/-- Settles O36: a fetch by the room in the completion queue, and the frame that a granted context serves. -/
theorem fetchesAndContextsAreGranted : Obligations.FetchesAndContextsAreGranted := by
  intro s n r hclock hn hr
  dsimp only
  refine ⟨fun hst hf hc hb hnew hroom => ?_, fun q i hd hrings ht ha hq hi halive => ?_, fun f i halive hnext hi => ?_⟩
  · have hexec : exec (.descriptorFetch n r) s = .next (keepFixed s (descriptorFetch n r s)) := core_next hclock (by rw [epOk_of_lt hn, decide_eq_true hr]; rfl)
    rw [hexec, descriptorFetch_ready hst hf hc hb hnew hroom]
    refine ⟨fun hfull => ?_, fun hlt => ?_⟩
    · rw [if_pos hfull]
      rfl
    · rw [if_neg (by omega)]
      have hover := hostAccess_handsOver n (.fetch r (ringOf s n r).head) 0x41 ((ringOf s n r).sqBase.toNat + ringIdx (ringOf s n r) (ringOf s n r).head * 64) 64 []
        (modRing n r (fun g => { g with fetching := true }) s)
      have hsent : ∀ k, DlvRoom s n k → (epOf (hostAccess n (.fetch r (ringOf s n r).head) 0x41 ((ringOf s n r).sqBase.toNat + ringIdx (ringOf s n r) (ringOf s n r).head * 64) 64 []
          (modRing n r (fun g => { g with fetching := true }) s)) n).sent = (epOf s n).sent ++ [dlvIn s n k { use := .host (.fetch r (ringOf s n r).head), opcode := 0x41
                                                                                                              addr := BitVec.ofNat 52 ((ringOf s n r).sqBase.toNat + ringIdx (ringOf s n r) (ringOf s n r).head * 64), len := 64 }] := by
        intro k hroomk
        have hroom' : DlvRoom (modRing n r (fun g => { g with fetching := true }) s) n k := by
          unfold DlvRoom at hroomk ⊢
          rw [epOf_modRing]
          exact hroomk
        rw [hostAccess_sent hroom' (fun d hd => by unfold dlvChunk; rw [hd]), epOf_modRing]
        unfold dlvIn
        rw [epOf_modRing]
        rfl
      have honly := (modRing_epOnly n r (fun g => { g with fetching := true }) s).trans hover.1
      have hring := hover.ring
      generalize hostAccess n _ _ _ _ _ _ = t at *
      refine ⟨t, honly.next, honly, ?_, fun k hk => ?_, hsent⟩
      · rw [hring, ringOf_modRing]
      · rw [hring, ringOf_modRing_other _ _ hk]
  · obtain ⟨u, honly, hep, hgrant⟩ := grantEp_direct hd hrings ht ha hq hi halive
    have hi' : ctxHead (epOf u n).rel = some i := by rw [hep]; exact hi
    obtain ⟨hissue, hin, haReq, _, _, _, _⟩ := sendDirect_all q hi'
    have hframe : directFrame u n q = directFrame s n q := by
      unfold directFrame
      rw [hep]
    rw [hframe] at hissue
    have hparts := honly.parts.1
    have hexec : exec (.contextGrant (.ep n)) s = .next (keepFixed s (grantEp n s)) := core_next hclock (epOk_of_lt hn)
    rw [hexec, hgrant]
    generalize sendDirect n q u = v at *
    have hall := (honly.epIn.trans hin).trans (modEp_epOnly n (fun e => { e with turn := 1 }) v).epIn
    refine ⟨_, hall.next, ?_, ?_, ?_, hall.1, hall.2⟩
    · exact hissue.between (congrArg Ep.rel hep) (by rw [hparts]) (by rw [hparts]; rfl) (by show (epOf (modEp n _ v) n).rel = (epOf v n).rel; rw [epOf_modEp]) rfl
    · rw [epOf_modEp, ← hep]
      exact haReq
    · rw [epOf_modEp]
  · have hkeep : modRel .rte (fun r => { r with waiting := r.waiting.filter (frameAlive s) }) s = s := by
      unfold modRel modRte
      dsimp only
      rw [filter_alive halive]
    obtain ⟨hissue, hwaiting, hframe⟩ := sendWaiting_rte (f := f) hi
    have hexec : exec (.contextGrant .rte) s = .next (keepFixed s (sendWaiting .rte f s)) := by
      have hruns : coreRuns s = true := by
        unfold coreRuns
        rw [hclock.1, decide_eq_true hclock.2]
        rfl
      show coreLive s _ = _
      unfold coreLive
      rw [hruns, if_pos rfl, hkeep]
      dsimp only
      rw [hnext]
    rw [hexec]
    generalize sendWaiting .rte f s = t at *
    refine ⟨t, congrArg Host.Outcome.next ?_, hissue, hwaiting, hframe⟩
    rw [hframe]
    rfl

end Sys2Proof.Machine
end

section
/-! SUPPORT. The work of a block that can do no more, and descriptors that end (R97-R100). -/

namespace Sys2Proof.Machine

open Sys2Proof

/-! ## Entries of a table -/

theorem mem_tabPut {α : Type} {t : Tab α} {k : Nat} {x : α} {e : Nat × α} (h : e ∈ tabPut t k x) : e ∈ t ∨ e = (k, x) := by
  induction t with
  | nil => exact Or.inr (List.mem_singleton.mp h)
  | cons y t ih =>
    obtain ⟨i, v⟩ := y
    unfold tabPut at h
    split at h
    · exact (List.mem_cons.mp h).elim Or.inr Or.inl
    · split at h
      · exact (List.mem_cons.mp h).elim Or.inr fun h => Or.inl (List.mem_cons_of_mem _ h)
      · rcases List.mem_cons.mp h with h | h
        · exact Or.inl (List.mem_cons.mpr (Or.inl h))
        · exact (ih h).imp (List.mem_cons_of_mem _) id

theorem mem_tabMod {α : Type} [DecidableEq α] {d : α} {t : Tab α} {k : Nat} {f : α → α} {e : Nat × α} (h : e ∈ tabMod d t k f) : e ∈ t ∨ e = (k, f (tabGet d t k)) := by
  unfold tabMod tabSet at h
  split at h
  · exact Or.inl (List.mem_filter.mp h).1
  · exact (mem_tabPut h).imp (fun h => (List.mem_filter.mp h).1) id

/-- No ring of the block waits to close. -/
def NoneCloses (e : Ep) : Prop := ∀ x ∈ e.rings, x.2.closing = none

theorem NoneCloses.ring {e : Ep} (h : NoneCloses e) (r : Nat) : (tabGet {} e.rings r).closing = none := tabGet_of_all (P := fun g : Ring => g.closing = none) rfl h r

theorem NoneCloses.onRing {e : Ep} (h : NoneCloses e) (r : Nat) {f : Ring → Ring} (hf : ∀ g, (f g).closing = g.closing) : NoneCloses (onRing r f e) := by
  intro x hx
  rcases mem_tabMod hx with hx | rfl
  · exact h x hx
  · exact (hf _).trans (h.ring r)

theorem NoneCloses.congr {e f : Ep} (h : NoneCloses e) (hr : f.rings = e.rings) : NoneCloses f := by
  unfold NoneCloses
  rw [hr]
  exact h

/-! ## The work of a block (R97, R98) -/

/-- Each descriptor of the block stands where it can go no further. -/
def Stands (s : State) (n : Nat) : Prop :=
  ∀ x ∈ (epOf s n).descs.map (·.1), checkDesc n x (startPieces n x 8 (tryStart n x s)) = s ∧ startOther n x s = s

theorem ringPasses_stand {s : State} {n : Nat} (h : Stands s n) (k : Nat) : ringPasses n k s = s := by
  have hpass : ringPass n s = s := forEach_fixed fun x hx => (h x hx).1
  induction k with
  | zero => rfl
  | succ k ih =>
    unfold ringPasses
    rw [hpass]
    exact ih

theorem workPasses_stand {s : State} {n : Nat} (h : Stands s n) (k : Nat) : workPasses n k s = s := by
  have hpass : workPass n s = s := by
    unfold workPass ringWork
    dsimp only
    rw [ringPasses_stand h]
    exact forEach_fixed fun x hx => (h x hx).2
  induction k with
  | zero => rfl
  | succ k ih =>
    unfold workPasses
    rw [hpass]
    exact ih

theorem epWork_stand {s : State} {n : Nat} (h : Stands s n) (hr : NoneCloses (epOf s n)) : epWork n s = s := by
  unfold epWork ringWork
  dsimp only
  rw [workPasses_stand h, ringPasses_stand h]
  refine forEach_fixed fun x hx => ?_
  obtain ⟨e, he, rfl⟩ := List.mem_map.mp hx
  obtain ⟨hmem, hsome⟩ := List.mem_filter.mp he
  rw [hr e hmem] at hsome
  cases hsome

theorem stands_none {s : State} {n : Nat} (h : (epOf s n).descs = []) : Stands s n := by
  intro x hx
  rw [h] at hx
  cases hx

/-! ## One host access and what follows it -/

/-- The block keeps what its deliveries depend on. -/
def DlvKept (e f : Ep) : Prop :=
  f.attach = e.attach ∧ f.offReqRx = e.offReqRx ∧ f.dlvQueue = e.dlvQueue ∧ f.dlvSlots = e.dlvSlots ∧ f.dlvMax = e.dlvMax ∧ f.sent = e.sent

/-- `e` with deliveries and messages as some handing over leaves them. -/
def withDlv (q : List Delivery) (sl : Tab DlvSlot) (l w : List AttachMsg) (e : Ep) : Ep := { e with dlvQueue := q, dlvSlots := sl, sent := l, sendWait := w }

/-- Block `n` changes by `f` and makes host access `d`, which is sent at once where the controller has room. -/
structure Sends (s t : State) (n : Nat) (f : Ep → Ep) (d : Delivery) : Prop where
  only : EpOnly s t n
  ep : ∃ q sl l w, epOf t n = withDlv q sl l w (f (epOf s n))
  sent : ∀ k, DlvRoom s n k → (epOf t n).sent = (epOf s n).sent ++ [dlvIn s n k d]

theorem hostAccess_sends {s : State} {n : Nat} {h : HostUse} {f : Ep → Ep} (hf : DlvKept (epOf s n) (f (epOf s n))) (hc : ∀ d : Delivery, d.use = .host h → dlvChunk d = none)
    (opcode : Byte) (addr len : Nat) (payload : List Byte) : Sends s (hostAccess n h opcode addr len payload (modEp n f s)) n f
      { use := .host h, opcode := opcode, addr := BitVec.ofNat 52 addr, len := len, payload := payload } := by
  have hover := hostAccess_handsOver n h opcode addr len payload (modEp n f s)
  refine ⟨(modEp_epOnly n f s).trans hover.1, ?_, fun k hroom => ?_⟩
  · obtain ⟨q, sl, l, w, hep⟩ := hover.2
    rw [epOf_modEp] at hep
    exact ⟨q, sl, l, w, hep⟩
  · obtain ⟨hattach, hoff, hqueue, hslots, hmax, hsent⟩ := hf
    have hroom' : DlvRoom (modEp n f s) n k := by
      unfold DlvRoom dlvOut freeSlot at hroom ⊢
      rw [epOf_modEp, hattach, hoff, hqueue, hslots, hmax]
      exact hroom
    rw [hostAccess_sent hroom' hc, epOf_modEp, hsent]
    unfold dlvIn
    rw [epOf_modEp, hslots]

/-- A further change of the block that leaves its deliveries alone. -/
theorem Sends.andThen {s t : State} {n : Nat} {f : Ep → Ep} {d : Delivery} (h : Sends s t n f d) (g : Ep → Ep) (hg : ∀ q sl l w e, g (withDlv q sl l w e) = withDlv q sl l w (g e)) :
    Sends s (modEp n g t) n (fun e => g (f e)) d := by
  obtain ⟨q, sl, l, w, hep⟩ := h.ep
  have hep' : epOf (modEp n g t) n = withDlv q sl l w (g (f (epOf s n))) := by rw [epOf_modEp, hep, hg]
  have hsent : (epOf (modEp n g t) n).sent = (epOf t n).sent := by
    rw [hep', hep]
    rfl
  exact ⟨h.only.trans (modEp_epOnly _ _ _), ⟨q, sl, l, w, hep'⟩, fun k hroom => hsent.trans (h.sent k hroom)⟩

theorem Sends.andRing {s t : State} {n : Nat} {f : Ep → Ep} {d : Delivery} (h : Sends s t n f d) (r : Nat) (g : Ring → Ring) :
    Sends s (modRing n r g t) n (fun e => onRing r g (f e)) d := h.andThen (onRing r g) fun _ _ _ _ _ => rfl

theorem noteRec_withDlv (r : FaultRec) (q : List Delivery) (sl : Tab DlvSlot) (l w : List AttachMsg) (e : Ep) : noteRec r (withDlv q sl l w e) = withDlv q sl l w (noteRec r e) := by
  unfold noteRec
  show _ = withDlv q sl l w _
  cases hpos : findPos (fun o => decide (o.kind = r.kind) && decide (o.key = r.key)) e.faults with
  | some i =>
    have hpos' : findPos (fun o => decide (o.kind = r.kind) && decide (o.key = r.key)) (withDlv q sl l w e).faults = some i := hpos
    rw [hpos']
    rfl
  | none =>
    have hpos' : findPos (fun o => decide (o.kind = r.kind) && decide (o.key = r.key)) (withDlv q sl l w e).faults = none := hpos
    rw [hpos']
    dsimp only
    by_cases hfull : 64 ≤ e.faults.length
    · rw [if_pos hfull]
      exact if_pos hfull
    · rw [if_neg hfull]
      exact if_neg hfull

theorem Sends.ring {s t : State} {n : Nat} {f : Ep → Ep} {d : Delivery} (h : Sends s t n f d) (r : Nat) : ringOf t n r = tabGet {} (f (epOf s n)).rings r := by
  obtain ⟨q, sl, l, w, hep⟩ := h.ep
  unfold ringOf
  rw [hep]
  rfl

theorem Sends.descs {s t : State} {n : Nat} {f : Ep → Ep} {d : Delivery} (h : Sends s t n f d) : (epOf t n).descs = (f (epOf s n)).descs ∧ (epOf t n).rings = (f (epOf s n)).rings
    ∧ (epOf t n).rel = (f (epOf s n)).rel ∧ (epOf t n).faults = (f (epOf s n)).faults := by
  obtain ⟨q, sl, l, w, hep⟩ := h.ep
  rw [hep]
  exact ⟨rfl, rfl, rfl, rfl⟩

/-! ## The end of a descriptor (R99, R100) -/

/-- The points of a ring that the descriptor in slot `i` formed keep no slot. -/
def dropSlot (i : Nat) (g : Ring) : Ring := { g with points := g.points.map fun p => if p.slot = some i then { p with slot := none } else p }

/-- The block once the descriptor in slot `i` of ring `r` has ended. -/
def endedDesc (i r : Nat) (e : Ep) : Ep := onRing r (dropSlot i) { e with descs := tabSet none e.descs i none }

/-- The completion of a descriptor with a status, as its block writes it. -/
def cplOf (s : State) (g : Ring) (d : Desc) (status : Byte) : Delivery :=
  { use := .host (.cpl d.ring d.index (dNotify d.raw)), opcode := 0x48, addr := BitVec.ofNat 52 (g.cqBase.toNat + ringIdx g d.index * 16), len := 16
    payload := cplPayload s status d.bytes d.index }

theorem finishDesc_eq {s : State} {n i : Nat} {d : Desc} (hd : descOf s n i = some d) : finishDesc n i s
    = hostAccess n (.cpl d.ring d.index (dNotify d.raw)) 0x48 ((ringOf s n d.ring).cqBase.toNat + ringIdx (ringOf s n d.ring) d.index * 16) 16
      (cplPayload s d.status d.bytes d.index) (modEp n (endedDesc i d.ring) s) := by
  have hmod : modRing n d.ring (fun g => { g with points := g.points.map fun p => if p.slot = some i then { p with slot := none } else p }) (setDesc n i none s)
      = modEp n (endedDesc i d.ring) s := modEp_modEp _ _ _ _
  have hring : ringOf (modEp n (endedDesc i d.ring) s) n d.ring = dropSlot i (ringOf s n d.ring) := by
    unfold ringOf endedDesc
    rw [epOf_modEp, ring_onRing]
  unfold finishDesc
  rw [hd]
  dsimp only
  rw [hmod]
  unfold sendCpl
  dsimp only
  rw [hring]
  rfl

/-- A descriptor that ends frees its slot, and its completion leaves. -/
theorem finishDesc_sends {s : State} {n i : Nat} {d : Desc} {f : Ep → Ep} (hd : descOf (modEp n f s) n i = some d) (hf : DlvKept (epOf s n) (f (epOf s n))) :
    Sends s (finishDesc n i (modEp n f s)) n (fun e => endedDesc i d.ring (f e)) (cplOf s (tabGet {} (f (epOf s n)).rings d.ring) d d.status) := by
  have hring : ringOf (modEp n f s) n d.ring = tabGet {} (f (epOf s n)).rings d.ring := by
    unfold ringOf
    rw [epOf_modEp]
  rw [finishDesc_eq hd, hring, modEp_modEp]
  exact hostAccess_sends (f := fun e => endedDesc i d.ring (f e)) hf (fun x hx => by unfold dlvChunk; rw [hx]) _ _ _ _

end Sys2Proof.Machine
end

section
/-! SUPPORT. The cairn and its waits (R102, R199, R202-R204). -/

namespace Sys2Proof.Machine

open Sys2Proof

/-! ## A block with one descriptor -/

section One
variable {s : State} {n i : Nat} {d : Desc} (hd : (epOf s n).descs = [(i, some d)])
include hd

theorem descOf_one : descOf s n i = some d := by
  unfold descOf
  rw [hd]
  exact if_pos rfl

theorem tryStart_started (hend : mayEnd d = true) : tryStart n i s = s := by
  have hst : d.started = true := (Bool.and_eq_true _ _ ▸ hend : d.started = true ∧ _).1
  unfold tryStart
  rw [descOf_one hd]
  dsimp only
  rw [hst]
  rfl

theorem startOther_started (hend : mayEnd d = true) : startOther n i s = s := by
  have hst : d.started = true := (Bool.and_eq_true _ _ ▸ hend : d.started = true ∧ _).1
  unfold startOther
  rw [descOf_one hd]
  dsimp only
  rw [hst]
  rfl

/-- A descriptor with no piece to start stays where it is. -/
theorem startPieces_none {p : CairnPoint} (hp : pointOf (ringOf s n d.ring) i = some p) (hnext : nextPiece s d p.confirmed = none) (k : Nat) : startPieces n i k s = s := by
  cases k with
  | zero => rfl
  | succ k =>
    unfold startPieces
    rw [descOf_one hd]
    dsimp only
    rw [hp]
    dsimp only
    rw [hnext, ite_self]

theorem stands_one {p : CairnPoint} (hend : mayEnd d = true) (hp : pointOf (ringOf s n d.ring) i = some p) (hnext : nextPiece s d p.confirmed = none) (hleft : nothingLeft s n i d = false) :
    Stands s n := by
  intro x hx
  rw [hd] at hx
  have hxi : x = i := List.mem_singleton.mp hx
  subst hxi
  refine ⟨?_, startOther_started hd hend⟩
  rw [tryStart_started hd hend, startPieces_none hd hp hnext]
  unfold checkDesc
  rw [descOf_one hd]
  dsimp only
  rw [hleft, Bool.and_false]
  rfl

/-- A descriptor of which nothing is left ends in the block's work. -/
theorem ringWork_ends {p : CairnPoint} (hend : mayEnd d = true) (hp : pointOf (ringOf s n d.ring) i = some p) (hnext : nextPiece s d p.confirmed = none) (hleft : nothingLeft s n i d = true)
    (hgone : (epOf (finishDesc n i s) n).descs = []) : ringWork n s = finishDesc n i s := by
  have hpass : ringPass n s = finishDesc n i s := by
    have hlist : (epOf s n).descs.map (fun e => e.1) = [i] := by rw [hd]; rfl
    unfold ringPass
    rw [hlist, forEach_cons]
    show checkDesc n i (startPieces n i 8 (tryStart n i s)) = _
    rw [tryStart_started hd hend, startPieces_none hd hp hnext]
    unfold checkDesc
    rw [descOf_one hd]
    dsimp only
    rw [hend, hleft]
    rfl
  unfold ringWork
  rw [hd]
  show ringPasses n 1 (ringPass n s) = _
  rw [hpass, ringPasses_idle hgone]

end One

/-- The lines of a plane depend on the plane map and the topology. -/
theorem ownLine_congr {s t : State} (hrte : t.rte = s.rte) (hmgt : t.mgt = s.mgt) (fnid : BitVec 12) : (∀ l e, ownLine t fnid l e = ownLine s fnid l e) ∧ ∀ k l, ownRun t fnid k l = ownRun s fnid k l := by
  have hplane : ∀ o, planeAt t fnid o = planeAt s fnid o := by
    intro o
    unfold planeAt
    rw [hrte]
  have hidx : planeIdx t = planeIdx s := by
    unfold planeIdx
    rw [hmgt]
  have hnext : ∀ k l, nextOwn t fnid k l = nextOwn s fnid k l := by
    intro k
    induction k with
    | zero => exact fun _ => rfl
    | succ k ih =>
      intro l
      unfold nextOwn
      rw [hplane, hidx, ih]
  refine ⟨fun l e => ?_, fun k => ?_⟩
  · unfold ownLine
    rw [hnext]
  · induction k with
    | zero => exact fun _ => rfl
    | succ k ih =>
      intro l
      unfold ownRun
      rw [hplane, hidx, ih]

theorem nextPiece_epOnly {s t : State} {n : Nat} (h : EpOnly s t n) (d : Desc) (b : Bool) : nextPiece t d b = nextPiece s d b := by
  have hpiece : ∀ c e, pieceAt t d c e = pieceAt s d c e := by
    intro c e
    obtain ⟨hline, hrun⟩ := ownLine_congr (s := s) (t := t) (by rw [h.parts.1]) (by rw [h.parts.1]) (addrFnid (descTarget d))
    unfold pieceAt
    simp only [hline, hrun]
  have howns : ownsFlagLine t d = ownsFlagLine s d := by
    rw [h.parts.1]
    rfl
  unfold nextPiece
  simp only [hpiece, howns]

/-- The descriptor's last entry goes. -/
theorem descs_ended {i : Nat} {d : Desc} : tabSet none [(i, some d)] i none = [] := by
  unfold tabSet tabDel
  rw [if_pos rfl, List.filter_cons_of_neg (by simp)]
  rfl

/-! ## Points (R202) -/

/-- A ring with one point changed, and one without the points that nothing waits on. -/
def repoint (k : Nat) (f : CairnPoint → CairnPoint) (g : Ring) : Ring := { g with points := g.points.map fun p => if p.num = k then f p else p }

def pruned (g : Ring) : Ring := { g with points := g.points.filter fun p => !(p.reported && p.slot.isNone) }

/-- A point keeps its place among the ring's points when its slot is kept. -/
theorem pointOf_repoint {g : Ring} {i k : Nat} {p : CairnPoint} (f : CairnPoint → CairnPoint) (hf : ∀ q, (f q).slot = q.slot) (hp : pointOf g i = some p) (hk : p.num = k) :
    pointOf (repoint k f g) i = some (f p) := by
  have hslot : ((fun q : CairnPoint => decide (q.slot = some i)) ∘ fun q => if q.num = k then f q else q) = fun q => decide (q.slot = some i) := by
    funext q
    dsimp only [Function.comp]
    split
    · rw [hf]
    · rfl
  unfold pointOf repoint at *
  dsimp only
  rw [List.find?_map, hslot, hp, Option.map_some, if_pos hk]

theorem pointOf_pruned (g : Ring) (i : Nat) : pointOf (pruned g) i = pointOf g i := by
  unfold pointOf pruned
  dsimp only
  rw [List.find?_filter]
  refine congrArg (fun P => List.find? P g.points) (funext fun q => ?_)
  cases hslot : q.slot with
  | none => simp
  | some j => simp

theorem dMoves_kernelStart {raw : BitVec 512} (h : isKernelStart raw = true) : dMoves raw = false := by
  have hop : dOpcode raw = 6 := of_decide_eq_true h
  unfold dMoves
  rw [hop]
  rfl

/-- What a KERNEL_START's point, or a flagged line's, leaves to do. -/
theorem nothingLeft_kernelStart {s : State} {n i : Nat} {d : Desc} {p : CairnPoint} (hk : isKernelStart d.raw = true) (hp : pointOf (ringOf s n d.ring) i = some p) :
    nothingLeft s n i d = p.confirmed := by
  unfold nothingLeft
  rw [dMoves_kernelStart hk, if_neg (by decide), if_pos hk, hp]

theorem nothingLeft_flagged {s : State} {n i : Nat} {d : Desc} {p : CairnPoint} (hm : dMoves d.raw = true) (hs : d.flagSent = false) (ho : p.ownsFlag = true)
    (hp : pointOf (ringOf s n d.ring) i = some p) : nothingLeft s n i d = false := by
  unfold nothingLeft descComplete
  dsimp only
  rw [if_pos hm, hp]
  dsimp only
  rw [if_pos ho, hs, Bool.and_false]

theorem nextPiece_kernelStart {s : State} {d : Desc} (hk : isKernelStart d.raw = true) (b : Bool) : nextPiece s d b = none := by
  unfold nextPiece
  rw [dMoves_kernelStart hk]
  rfl

/-- What a point that may be reported says of the descriptor that formed it. -/
theorem mayReport_piece {s : State} {n r i : Nat} {p : CairnPoint} {d : Desc} (h : mayReport s n r p = true) (hslot : p.slot = some i) (hd : descOf s n i = some d)
    (hk : p.kernelStart = false) : nextPiece s d false = none := by
  unfold mayReport at h
  dsimp only at h
  rw [hslot] at h
  dsimp only at h
  rw [hd] at h
  dsimp only at h
  simp only [Bool.and_eq_true] at h
  obtain ⟨⟨_, hframes⟩, _⟩ := h
  rw [hk, Bool.false_or] at hframes
  unfold framesDone at hframes
  simp only [Bool.and_eq_true] at hframes
  exact Option.isNone_iff_eq_none.mp hframes.1.1.1

/-! ## Reports (R202) -/

/-- The ring once a point has been reported: `f` marks it. -/
def reportedRing (k : Nat) (f : CairnPoint → CairnPoint) (g : Ring) : Ring := repoint k f { g with reportedTo := k }

/-- The write of DONE for a point. -/
def doneWrite (s : State) (n r : Nat) (p : CairnPoint) : Delivery :=
  { use := .host (.cairnWrite r p.num), opcode := 0x42, addr := BitVec.ofNat 52 (cairnAddr (ringOf s n r) + 4 * planeIdx s), len := 4
    payload := leBytes 4 (p.num % 2 ^ 31 + ofB (pointErr (ringOf s n r) p) * 2 ^ 31) }

theorem onRing_onRing (r : Nat) (f g : Ring → Ring) (e : Ep) : onRing r f (onRing r g e) = onRing r (fun x => f (g x)) e := by
  unfold onRing
  rw [tabMod_mod]

theorem reportPoint_sends (n r : Nat) (p : CairnPoint) (s : State) :
    Sends s (reportPoint n r p s) n (onRing r (reportedRing p.num fun q => { q with reported := true })) (doneWrite s n r p) := by
  have hmod : modPoint n r p.num (fun q => { q with reported := true }) (modRing n r (fun g => { g with reportedTo := p.num }) s)
      = modEp n (onRing r (reportedRing p.num fun q => { q with reported := true })) s := modRing_modRing _ _ _ _ _
  unfold reportPoint
  dsimp only
  rw [hmod]
  exact hostAccess_sends (f := onRing r (reportedRing p.num fun q => { q with reported := true })) ⟨rfl, rfl, rfl, rfl, rfl, rfl⟩ (fun x hx => by unfold dlvChunk; rw [hx]) _ _ _ _

theorem prunePoints_eq (n r : Nat) (s : State) : prunePoints n r s = modRing n r pruned s := rfl

/-- A report that leaves, where the block's work stands afterwards. -/
theorem reported_parts {s : State} {n r : Nat} {p : CairnPoint} (hidle : NoneCloses (epOf s n)) (hstand : Stands (prunePoints n r (reportPoint n r p s)) n) :
    let t := epWork n (prunePoints n r (reportPoint n r p s))
    EpOnly s t n ∧ (ringOf t n r).reportedTo = p.num ∧ (epOf t n).descs = (epOf s n).descs ∧ (∀ k, k ≠ r → ringOf t n k = ringOf s n k)
    ∧ (∀ k, DlvRoom s n k → (epOf t n).sent = (epOf s n).sent ++ [dlvIn s n k (doneWrite s n r p)]) := by
  have hsends := (reportPoint_sends n r p s).andRing r pruned
  rw [prunePoints_eq] at hstand ⊢
  generalize modRing n r pruned (reportPoint n r p s) = t at *
  have hrings : NoneCloses (epOf t n) := by
    unfold NoneCloses
    rw [hsends.descs.2.1]
    exact (hidle.onRing r (f := reportedRing p.num fun q => { q with reported := true }) fun _ => rfl).onRing r (f := pruned) fun _ => rfl
  rw [epWork_stand hstand hrings]
  refine ⟨hsends.only, ?_, hsends.descs.1, fun k hk => ?_, hsends.sent⟩
  · rw [hsends.ring, ring_onRing, ring_onRing]
    rfl
  · rw [hsends.ring, ring_onRing_other _ _ hk, ring_onRing_other _ _ hk]
    rfl

theorem cairnReport_reports {s : State} {n r : Nat} {p : CairnPoint} (hp : ((ringOf s n r).points.find? fun p => decide (p.num = (ringOf s n r).reportedTo + 1)) = some p)
    (hmay : mayReport s n r p = true) : cairnReport n r s = epWork n (prunePoints n r (if soloRing s (ringOf s n r) then soloPoint n r p s else reportPoint n r p s)) := by
  unfold cairnReport
  dsimp only
  rw [hp]
  dsimp only
  rw [hmay]
  rfl

/-! ## The end of a descriptor's wait (R203, R204) -/

/-- The descriptor in slot `i` changed. -/
def onDesc (i : Nat) (f : Desc → Desc) (e : Ep) : Ep := { e with descs := tabMod none e.descs i (Option.map f) }

/-- A flagged line withheld is counted. -/
def countWithheld (e : Ep) : Ep := { e with rel := { e.rel with flagWithheld := satAdd e.rel.flagWithheld 1 } }

theorem NoneCloses.onDesc {e : Ep} (h : NoneCloses e) (i : Nat) (f : Desc → Desc) : NoneCloses (onDesc i f e) := h.congr rfl

theorem NoneCloses.withheld {e : Ep} (h : NoneCloses e) : NoneCloses (countWithheld e) := h.congr rfl

theorem NoneCloses.ended {e : Ep} (h : NoneCloses e) (i r : Nat) : NoneCloses (endedDesc i r e) :=
  NoneCloses.onRing (f := dropSlot i) (e := { e with descs := tabSet none e.descs i none }) (h.congr rfl) r fun _ => rfl

theorem descs_onRing (r : Nat) (f : Ring → Ring) (e : Ep) : (onRing r f e).descs = e.descs := rfl

theorem ring_ended (i r : Nat) (e : Ep) : tabGet {} (endedDesc i r e).rings r = dropSlot i (tabGet {} e.rings r) := ring_onRing r (dropSlot i) { e with descs := tabSet none e.descs i none }

theorem rings_onDesc (i : Nat) (f : Desc → Desc) (e : Ep) : (onDesc i f e).rings = e.rings := rfl

theorem rings_withheld (e : Ep) : (countWithheld e).rings = e.rings := rfl

theorem faults_onRing (r : Nat) (f : Ring → Ring) (e : Ep) : (onRing r f e).faults = e.faults := rfl

theorem faults_ended (i r : Nat) (e : Ep) : (endedDesc i r e).faults = e.faults := rfl

theorem faults_onDesc (i : Nat) (f : Desc → Desc) (e : Ep) : (onDesc i f e).faults = e.faults := rfl

/-- A block whose last descriptor has ended has no more work. -/
theorem ended_parts {s u : State} {n i : Nat} {f : Ep → Ep} {c : Delivery} (hsends : Sends s u n f c) (hidle : NoneCloses (f (epOf s n))) (hdescs : (f (epOf s n)).descs = []) :
    epWork n u = u ∧ descOf u n i = none := by
  have hnone : (epOf u n).descs = [] := hsends.descs.1.trans hdescs
  refine ⟨epWork_stand (stands_none hnone) ?_, ?_⟩
  · unfold NoneCloses
    rw [hsends.descs.2.1]
    exact hidle
  · unfold descOf
    rw [hnone]
    rfl

/-- Marks of a point that its plane alone confirms. -/
def answeredPoint (q : CairnPoint) : CairnPoint := { q with reported := true, answered := true }

def confirmedPoint (q : CairnPoint) : CairnPoint := { q with confirmed := true }

def soloRingOf (k : Nat) (g : Ring) : Ring := repoint k confirmedPoint (reportedRing k answeredPoint g)

section Ends
variable {s : State} {n r i : Nat} {d : Desc} {p : CairnPoint}

/-- The descriptor's status, the withheld line's count, and what else the block changes by ahead of its end. -/
theorem finishDesc_status (hd : (epOf s n).descs = [(i, some d)]) (hr : d.ring = r) (st : Byte) {f : Ep → Ep} (hf : (f (epOf s n)).descs = (epOf s n).descs) (hkeep : DlvKept (epOf s n) (f (epOf s n))) :
    Sends s (finishDesc n i (modEp n (fun e => onDesc i (fun d => { d with status := st }) (f e)) s)) n (fun e => endedDesc i r (onDesc i (fun d => { d with status := st }) (f e)))
      (cplOf s (tabGet {} (f (epOf s n)).rings r) d st)
    ∧ (endedDesc i r (onDesc i (fun d => { d with status := st }) (f (epOf s n)))).descs = [] := by
  have hof : descOf (modEp n (fun e => onDesc i (fun d => { d with status := st }) (f e)) s) n i = some { d with status := st } := by
    unfold descOf onDesc
    rw [epOf_modEp]
    dsimp only
    rw [tabGet_mod_same, hf, hd]
    exact congrArg (Option.map _) (if_pos rfl)
  refine ⟨?_, ?_⟩
  · have hsends := finishDesc_sends (f := fun e => onDesc i (fun d => { d with status := st }) (f e)) hof hkeep
    rw [← hr]
    exact hsends
  · unfold endedDesc onDesc onRing
    dsimp only
    rw [hf, hd]
    show tabSet none (tabSet none [(i, some d)] i _) i none = []
    rw [tabSet_set, descs_ended]

theorem soloPoint_withholds (hslot : p.slot = some i) (hk : p.kernelStart = false) (ho : p.ownsFlag = true) (herr : pointErr (ringOf s n r) p = true) : soloPoint n r p s
    = finishDesc n i (modEp n (fun e => onDesc i (fun d => { d with status := 0x12 }) (countWithheld (onRing r (reportedRing p.num answeredPoint) e))) s) := by
  have hmod : modPoint n r p.num (fun q => { q with reported := true, answered := true }) (modRing n r (fun g => { g with reportedTo := p.num }) s)
      = modEp n (onRing r (reportedRing p.num answeredPoint)) s := modRing_modRing _ _ _ _ _
  unfold soloPoint
  dsimp only
  rw [hmod, hslot]
  dsimp only
  rw [hk, ho, herr]
  unfold withholdFlag
  dsimp only
  rw [modEp_modEp]
  exact congrArg (finishDesc n i) (modEp_modEp _ _ _ _)

theorem soloPoint_confirms (hd : (epOf s n).descs = [(i, some d)]) (hr : d.ring = r) (hslot : p.slot = some i) (hk : p.kernelStart = true) (hp : pointOf (ringOf s n r) i = some p) (hraw : isKernelStart d.raw = true) (hend : mayEnd d = true) : soloPoint n r p s
    = finishDesc n i (modEp n (onRing r (soloRingOf p.num)) s) := by
  have hmod : modPoint n r p.num (fun q => { q with reported := true, answered := true }) (modRing n r (fun g => { g with reportedTo := p.num }) s)
      = modRing n r (reportedRing p.num answeredPoint) s := modRing_modRing _ _ _ _ _
  have hconf : modPoint n r p.num (fun q => { q with confirmed := true }) (modRing n r (reportedRing p.num answeredPoint) s) = modEp n (onRing r (soloRingOf p.num)) s :=
    modRing_modRing _ _ _ _ _
  unfold soloPoint
  dsimp only
  rw [hmod, hslot]
  dsimp only
  rw [hk, Bool.not_true, Bool.false_and, Bool.false_and, if_neg (by decide)]
  unfold confirmPoint
  rw [hconf]
  have hds : (epOf (modEp n (onRing r (soloRingOf p.num)) s) n).descs = [(i, some d)] := by
    rw [epOf_modEp]
    exact hd
  have hpoint : pointOf (ringOf (modEp n (onRing r (soloRingOf p.num)) s) n d.ring) i = some (confirmedPoint (answeredPoint p)) := by
    unfold ringOf
    rw [epOf_modEp, hr, ring_onRing]
    exact pointOf_repoint confirmedPoint (fun _ => rfl) (pointOf_repoint (g := { ringOf s n r with reportedTo := p.num }) answeredPoint (fun _ => rfl) hp rfl) rfl
  refine ringWork_ends hds hend hpoint (nextPiece_kernelStart hraw _) (nothingLeft_kernelStart hraw hpoint) ?_
  have hsends := finishDesc_sends (f := onRing r (soloRingOf p.num)) (descOf_one hds) ⟨rfl, rfl, rfl, rfl, rfl, rfl⟩
  refine hsends.descs.1.trans ?_
  show tabSet none (epOf s n).descs i none = []
  rw [hd, descs_ended]

end Ends

/-- A solo ring's point, and what its completion leaves. -/
theorem soloEnded_parts {s : State} {n r i : Nat} {d : Desc} {st : Byte} {f : Ep → Ep} (hsends : Sends s (finishDesc n i (modEp n f s)) n (fun e => endedDesc i r (f e)) (cplOf s (ringOf s n r) d st))
    (hidle : NoneCloses (f (epOf s n))) (hgone : (endedDesc i r (f (epOf s n))).descs = []) :
    let t := epWork n (prunePoints n r (finishDesc n i (modEp n f s)))
    EpOnly s t n ∧ ringOf t n r = pruned (dropSlot i (tabGet {} (f (epOf s n)).rings r)) ∧ descOf t n i = none
    ∧ (∀ k, k ≠ r → ringOf t n k = tabGet {} (f (epOf s n)).rings k) ∧ (epOf t n).rel = (f (epOf s n)).rel
    ∧ (∀ k, DlvRoom s n k → (epOf t n).sent = (epOf s n).sent ++ [dlvIn s n k (cplOf s (ringOf s n r) d st)]) := by
  have hall := hsends.andRing r pruned
  rw [prunePoints_eq]
  obtain ⟨hwork, hnone⟩ := ended_parts (i := i) hall ((hidle.ended i r).onRing r (f := pruned) fun _ => rfl) hgone
  generalize modRing n r pruned (finishDesc n i (modEp n f s)) = t at *
  rw [hwork]
  refine ⟨hall.only, ?_, hnone, fun k hk => ?_, ?_, hall.sent⟩
  · rw [hall.ring, ring_onRing]
    unfold endedDesc
    rw [ring_onRing]
  · rw [hall.ring, ring_onRing_other _ _ hk]
    unfold endedDesc
    rw [ring_onRing_other _ _ hk]
  · rw [hall.descs.2.2.1]
    rfl

/-- What a point's timeout leaves once its descriptor has ended. -/
theorem waitEnded_parts {s u : State} {n r i : Nat} {f : Ep → Ep} {c : Delivery} (hsends : Sends s u n f c) (hidle : NoneCloses (f (epOf s n))) (hgone : (f (epOf s n)).descs = [])
    (hfaults : (f (epOf s n)).faults = (epOf s n).faults) : let t := epWork n (prunePoints n r (ksTimeout n r u))
    EpOnly s t n ∧ descOf t n i = none ∧ ((epOf s n).faults.length < 64 → EpRecorded t n 0x08 r) ∧ (∀ k, DlvRoom s n k → (epOf t n).sent = (epOf s n).sent ++ [dlvIn s n k c])
    ∧ ringOf t n r = pruned (tabGet {} (f (epOf s n)).rings r) ∧ (epOf t n).rel = (f (epOf s n)).rel := by
  dsimp only
  have hks : ksTimeout n r u = modEp n (noteRec (epRec n 0x08 sevError 0x12 r 0 (epOf u n).srcFnid u)) u := epFault_eq _ _ _ _ _ _ _ _
  obtain ⟨q, o, l, hrec, hroom⟩ := noteRec_parts (epRec n 0x08 sevError 0x12 r 0 (epOf u n).srcFnid u) (f (epOf s n))
  rw [hks, prunePoints_eq]
  have hall := (hsends.andThen (noteRec (epRec n 0x08 sevError 0x12 r 0 (epOf u n).srcFnid u)) (noteRec_withDlv _)).andRing r pruned
  generalize modRing n r pruned (modEp n (noteRec _) u) = t at *
  obtain ⟨hwork, hnone⟩ := ended_parts (i := i) hall (by rw [hrec]; exact NoneCloses.onRing (f := pruned) (e := { f (epOf s n) with faults := q, faultOverflow := o, faultLost := l }) hidle r (fun _ => rfl)) (by
      rw [hrec]
      exact hgone)
  have hring := hall.ring r
  have hsame := hall.descs
  rw [hrec] at hring hsame
  rw [hwork]
  refine ⟨hall.only, hnone, fun hl => EpRecorded.of hsame.2.2.2 (hroom (by rw [hfaults]; exact hl)), hall.sent, ?_, hsame.2.2.1⟩
  exact hring.trans (ring_onRing _ _ _)

theorem onDesc_status {s : State} {n i : Nat} {d : Desc} (hd : (epOf s n).descs = [(i, some d)]) (f : Desc → Desc) (st : Byte) (hf : f d = { d with status := st }) :
    modDesc n i f s = modEp n (onDesc i (fun d => { d with status := st })) s := by
  refine modEp_congr ?_
  have hget : tabGet none [(i, some d)] i = some d := if_pos rfl
  unfold onDesc tabMod
  rw [hd, hget, Option.map_some, Option.map_some, hf]

/-! ## Held requests (R199) -/

/-- The request as it passes the toll again. -/
def tolledAgain (s : State) (n : Nat) (q : DirectReq) : DirectReq := { q with held := false, addr := stampAddr (winOf s n (msgWindow q.msg)) (msgOffset q.msg) }

theorem ord_readdressed (q : DirectReq) (a : BitVec 64) : ({ q with held := false, addr := a } : DirectReq).ord = q.ord := rfl

theorem ord_tolledAgain (s : State) (n : Nat) (q : DirectReq) : (tolledAgain s n q).ord = q.ord := by
  unfold tolledAgain
  exact ord_readdressed _ _

/-- It takes its own place among those that wait. -/
def swapReq (o : Nat) (q : DirectReq) (e : Ep) : Ep := { e with aReq := e.aReq.map fun x => if x.ord = o then q else x }

theorem flagRelease_passed {s : State} {n : Nat} {q : DirectReq} (hq : ((epOf s n).aReq.find? fun x => x.held && flagMayGo s n x.ord) = some q) (htoll : tollDirect s n q.msg = 0)
    (hcan : canSend s (.ep n) (directFrame s n (tolledAgain s n q)) = true) : flagRelease n s = sendDirect n (tolledAgain s n q) (modEp n (swapReq q.ord (tolledAgain s n q)) s) := by
  have hframe : directFrame (modEp n (swapReq q.ord (tolledAgain s n q)) s) n (tolledAgain s n q) = directFrame s n (tolledAgain s n q) := by
    unfold directFrame
    rw [epOf_modEp]
    rfl
  have hsend : canSend (modEp n (swapReq q.ord (tolledAgain s n q)) s) (.ep n) (directFrame (modEp n (swapReq q.ord (tolledAgain s n q)) s) n (tolledAgain s n q)) = true := by
    rw [hframe, canSend_epOnly (modEp_epOnly n (swapReq q.ord (tolledAgain s n q)) s) (by rw [epOf_modEp]; rfl)]
    exact hcan
  unfold flagRelease
  rw [hq]
  dsimp only
  rw [if_neg (not_not.mpr htoll)]
  exact if_pos hsend

theorem flagRelease_refused {s : State} {n : Nat} {q : DirectReq} (hq : ((epOf s n).aReq.find? fun x => x.held && flagMayGo s n x.ord) = some q) (htoll : tollDirect s n q.msg ≠ 0) :
    flagRelease n s = flowCheck n (releaseHeld n (refuseDirect n q.msg (tollDirect s n q.msg) (tollFailed n (msgWindow q.msg) (tollDirect s n q.msg) (msgOffset q.msg)
      (modEp n (fun e => { e with aReq := e.aReq.filter fun x => decide (x.ord ≠ q.ord) }) s)))) := by
  unfold flagRelease
  rw [hq]
  dsimp only
  rw [if_pos htoll]

/-- A block in which nothing is held back has nothing to release. -/
theorem releaseHeld_none {s : State} {n : Nat} (hrefs : (epOf s n).refusals = []) (hctx : ∀ c ∈ (epOf s n).rel.ctxs, c.2.st ≠ .held) : releaseHeld n s = s := by
  have hfind : ((epOf s n).rel.ctxs.find? fun x => decide (x.2.st = .held) && releasable (epOf s n) x.2) = none := by
    refine List.find?_eq_none.mpr fun c hc => ?_
    rw [decide_eq_false (hctx c hc), Bool.false_and]
    decide
  have hfuel : ∀ k, releaseHeldN n (k + 1) s = s := by
    intro k
    unfold releaseHeldN
    dsimp only
    rw [hfind, hrefs]
    rfl
  exact hfuel _

/-- Empty buffers turn nothing off. -/
theorem flowCheck_empty {s : State} {n : Nat} (hreq : (epOf s n).aReq = []) (hrsp : (epOf s n).aRsp = []) (hoq : (epOf s n).offReqTx = false) (hor : (epOf s n).offRspTx = false)
    (hbuf : 0x10000 ≤ s.attachBuf) : flowCheck n s = s := by
  have hoff : offNext s.attachBuf 0 false = false := decide_eq_false (by omega)
  unfold flowCheck aReqBytes aRspBytes
  dsimp only
  rw [hreq, hrsp, hoq, hor]
  exact if_pos ⟨hoff, hoff⟩

theorem filter_ord_all (o : Nat) (l : List DirectReq) : (l.filter fun x => decide (x.ord ≠ o)).all (fun x => decide (x.ord ≠ o)) = true :=
  List.all_eq_true.mpr fun _ hx => (List.mem_filter.mp hx).2

/-- A held request that passes the toll again is sent. -/
theorem heldReleased_next {s : State} {n i : Nat} {q : DirectReq} (hclock : Clocked s) (hn : n < 64) (hq : ((epOf s n).aReq.find? fun x => x.held && flagMayGo s n x.ord) = some q)
    (htoll : tollDirect s n q.msg = 0) (hi : ctxHead (epOf s n).rel = some i) (hcan : canSend s (.ep n) (directFrame s n (tolledAgain s n q)) = true) :
    ∃ t, exec (.flagRelease n) s = .next t ∧ Issues s t (.ep n) i (directFrame s n (tolledAgain s n q)) ∧ (epOf t n).aReq.all (fun x => decide (x.ord ≠ q.ord)) = true
      ∧ (∀ k, k ≠ n → epOf t k = epOf s k) ∧ Woken { s with eps := t.eps, swc := { s.swc with inbound := t.swc.inbound } } t n := by
  have hexec : exec (.flagRelease n) s = .next (keepFixed s (flagRelease n s)) := core_next hclock (epOk_of_lt hn)
  rw [hexec, flagRelease_passed hq htoll hcan]
  have hmod := modEp_epOnly n (swapReq q.ord (tolledAgain s n q)) s
  have hep := epOf_modEp n (swapReq q.ord (tolledAgain s n q)) s
  have hplane : planeIdx (modEp n (swapReq q.ord (tolledAgain s n q)) s) = planeIdx s := rfl
  have hin : (modEp n (swapReq q.ord (tolledAgain s n q)) s).swc.inbound = s.swc.inbound := rfl
  generalize modEp n (swapReq q.ord (tolledAgain s n q)) s = u at *
  have hframe : directFrame u n (tolledAgain s n q) = directFrame s n (tolledAgain s n q) := by
    unfold directFrame
    rw [hep]
    rfl
  have hrel : (epOf u n).rel = (epOf s n).rel := by rw [hep]; rfl
  obtain ⟨hissue, honly, haReq, _⟩ := sendDirect_all (tolledAgain s n q) (s := u) (n := n) (i := i) (by rw [hrel]; exact hi)
  rw [hframe] at hissue
  generalize sendDirect n (tolledAgain s n q) u = t at *
  have hall := hmod.epIn.trans honly
  refine ⟨t, hall.next, hissue.between hrel hin hplane rfl rfl, ?_, hall.1, hall.2⟩
  rw [haReq, ord_tolledAgain]
  exact filter_ord_all _ _

/-- One that fails it is refused with its code. -/
theorem heldRefused_next {s : State} {n : Nat} {q : DirectReq} {code : Byte} (hclock : Clocked s) (hn : n < 64) (hreq : (epOf s n).aReq = [q]) (hheld : q.held = true)
    (hgo : flagMayGo s n q.ord = true) (hcode : tollDirect s n q.msg = code) (hne : code ≠ 0) (hready : (epOf s n).attach = .ready) (hquiet : (portOf s n).quiet = false)
    (hoff : (epOf s n).offRspRx = false) (hwait : (epOf s n).rspWait = []) (hrefs : (epOf s n).refusals = []) (hrsp : (epOf s n).aRsp = []) (hoq : (epOf s n).offReqTx = false)
    (hor : (epOf s n).offRspTx = false) (hbuf : 0x10000 ≤ s.attachBuf) (hctx : ∀ c ∈ (epOf s n).rel.ctxs, c.2.st ≠ .held) :
    ∃ t, exec (.flagRelease n) s = .next t ∧ EpOnly s t n
      ∧ epOf t n = { (epOf s n).faultsOf (epOf t n) with
          aReq := [], sent := (epOf s n).sent ++ [refusal q.msg code], tollCode := bitsOf code 0 4, tollWin := msgWindow q.msg, tollFail := satAdd (epOf s n).tollFail 1 }
      ∧ ((epOf s n).faults.length < 64 → EpRecorded t n 0x01 (msgWindow q.msg).toNat) := by
  subst hcode
  have hfind : ((epOf s n).aReq.find? fun x => x.held && flagMayGo s n x.ord) = some q := by
    rw [hreq]
    exact List.find?_cons_of_pos (by rw [hheld, hgo]; rfl)
  have hexec : exec (.flagRelease n) s = .next (keepFixed s (flagRelease n s)) := core_next hclock (epOk_of_lt hn)
  rw [hexec, flagRelease_refused hfind hne]
  have hmod := modEp_epOnly n (fun e => { e with aReq := e.aReq.filter fun x => decide (x.ord ≠ q.ord) }) s
  have hep : epOf (modEp n (fun e => { e with aReq := e.aReq.filter fun x => decide (x.ord ≠ q.ord) }) s) n = { epOf s n with aReq := [] } := by
    rw [epOf_modEp, hreq, List.filter_cons_of_neg (by simp)]
    rfl
  generalize modEp n _ s = u at *
  have htoll := tollFailed_epOnly n (msgWindow q.msg) (tollDirect s n q.msg) (msgOffset q.msg) u
  obtain ⟨f, o, l, hept, hroom⟩ := tollFailed_parts n (msgWindow q.msg) (tollDirect s n q.msg) (msgOffset q.msg) u
  rw [hep] at hept hroom
  generalize tollFailed n _ _ _ u = v at *
  obtain ⟨hlast, hsent⟩ := refuseDirect_all (n := n) (s := v) q.msg (tollDirect s n q.msg) (by rw [hept]; exact hready) ((hmod.trans htoll).quiet.trans hquiet) (by rw [hept]; exact hoff)
    (by rw [hept]; exact hwait)
  rw [hept] at hsent
  have hall := (hmod.trans htoll).trans hlast
  generalize refuseDirect n q.msg _ v = t at *
  have hbuf' : 0x10000 ≤ t.attachBuf := by
    rw [hall.parts.1]
    exact hbuf
  rw [releaseHeld_none (by rw [hsent]; exact hrefs) (by rw [hsent]; exact hctx), flowCheck_empty (by rw [hsent]; rfl) (by rw [hsent]; exact hrsp) (by rw [hsent]; exact hoq) (by rw [hsent]; exact hor) hbuf']
  refine ⟨t, hall.next, hall, ?_, fun hl => EpRecorded.of (congrArg Ep.faults hsent) (hroom hl)⟩
  rw [hsent]
  rfl

/-- Settles O37: a held request, a report with and without exchange, a poll, and the two waits that time out. -/
theorem cairnPointsAreReportedAndTimeOut : Obligations.CairnPointsAreReportedAndTimeOut := by
  intro s n r hclock hn hr
  have hok : (epOk n && decide (r < 64)) = true := by
    rw [epOk_of_lt hn, decide_eq_true hr]
    rfl
  refine ⟨fun q i hq htoll hi hcan => ?_, fun q code hreq hheld hgo hcode hne hready hquiet hoff hwait hrefs hrsp hoq hor hbuf hctx => ?_, fun p hp hmay hsolo hdescs hidle => ?_,
    fun p i d hp hmay hd hring hslot hpoint hconf hend hidle hkind => ⟨fun hsolo => ?_, fun hsolo herr => ?_⟩, fun p hp => ?_, fun p i d hd hring hslot hidle => ⟨fun hp hst => ?_, fun hp => ?_⟩⟩
  · exact heldReleased_next hclock hn hq htoll hi hcan
  · exact heldRefused_next hclock hn hreq hheld hgo hcode hne hready hquiet hoff hwait hrefs hrsp hoq hor hbuf hctx
  · have hexec : exec (.cairnReport n r) s = .next (keepFixed s (cairnReport n r s)) := core_next hclock hok
    rw [hexec, cairnReport_reports hp hmay, hsolo, if_neg (by decide)]
    have hstand : Stands (prunePoints n r (reportPoint n r p s)) n := stands_none (((reportPoint_sends n r p s).andRing r pruned).descs.1.trans hdescs)
    obtain ⟨honly, hto, _, hothers, hsent⟩ := reported_parts hidle hstand
    exact ⟨_, honly.next, honly, hto, hothers, hsent⟩
  · have hexec : exec (.cairnReport n r) s = .next (keepFixed s (cairnReport n r s)) := core_next hclock hok
    rw [hexec, cairnReport_reports hp hmay, hsolo, if_neg (by decide)]
    have hall := (reportPoint_sends n r p s).andRing r pruned
    have hstand : Stands (prunePoints n r (reportPoint n r p s)) n := by
      rw [prunePoints_eq]
      have hds := hall.descs.1.trans hd
      have hpt : pointOf (ringOf (modRing n r pruned (reportPoint n r p s)) n d.ring) i = some { p with reported := true } := by
        rw [hall.ring, hring, ring_onRing, ring_onRing, pointOf_pruned]
        exact pointOf_repoint (g := { ringOf s n r with reportedTo := p.num }) (fun q => { q with reported := true }) (fun _ => rfl) hpoint rfl
      have honly := hall.only
      generalize modRing n r pruned (reportPoint n r p s) = t at *
      rcases hkind with ⟨hk, hraw⟩ | ⟨hk, ho, hs, hm⟩
      · exact stands_one hds hend hpt (nextPiece_kernelStart hraw _) ((nothingLeft_kernelStart hraw hpt).trans hconf)
      · refine stands_one hds hend hpt ?_ (nothingLeft_flagged (p := { p with reported := true }) hm hs ho hpt)
        show nextPiece t d p.confirmed = none
        rw [hconf, nextPiece_epOnly honly]
        exact mayReport_piece hmay hslot (descOf_one hd) hk
    obtain ⟨honly, hto, hdescs, hothers, hsent⟩ := reported_parts hidle hstand
    exact ⟨_, honly.next, honly, hto, hdescs.trans hd, hothers, hsent⟩
  · have hexec : exec (.cairnReport n r) s = .next (keepFixed s (cairnReport n r s)) := core_next hclock hok
    rw [hexec, cairnReport_reports hp hmay, hsolo, if_pos rfl]
    rcases hkind with ⟨hk, hraw⟩ | ⟨hk, ho, hs, hm⟩
    · rw [soloPoint_confirms hd hring hslot hk hpoint hraw hend]
      have hds : (epOf (modEp n (onRing r (soloRingOf p.num)) s) n).descs = [(i, some d)] := by
        rw [epOf_modEp]
        exact hd
      have hsends := finishDesc_sends (f := onRing r (soloRingOf p.num)) (descOf_one hds) ⟨rfl, rfl, rfl, rfl, rfl, rfl⟩
      rw [hring, ring_onRing] at hsends
      obtain ⟨honly, hself, hnone, hothers, hrel, hsent⟩ := soloEnded_parts (st := d.status) (d := d) hsends (NoneCloses.onRing (e := epOf s n) hidle r (f := soloRingOf p.num) fun _ => rfl) (by
        show tabSet none (epOf s n).descs i none = []
        rw [hd, descs_ended])
      refine ⟨_, honly.next, honly, ?_, hnone, fun k hkr => (hothers k hkr).trans (ring_onRing_other _ _ hkr), ?_, ?_⟩
      · rw [hself, ring_onRing]
        rfl
      · rw [hrel, if_pos hk]
        rfl
      · rw [if_pos hk]
        unfold cplOf at hsent
        rw [hring] at hsent
        exact hsent
    · have herr' : pointErr (ringOf s n r) p = true := herr.resolve_left (by rw [hk]; decide)
      rw [soloPoint_withholds hslot hk ho herr']
      obtain ⟨hsends, hgone⟩ := finishDesc_status hd hring 0x12 (f := fun e => countWithheld (onRing r (reportedRing p.num answeredPoint) e)) rfl ⟨rfl, rfl, rfl, rfl, rfl, rfl⟩
      have hringf : tabGet {} (countWithheld (onRing r (reportedRing p.num answeredPoint) (epOf s n))).rings r = reportedRing p.num answeredPoint (ringOf s n r) := ring_onRing _ _ _
      rw [hringf] at hsends
      obtain ⟨honly, hself, hnone, hothers, hrel, hsent⟩ := soloEnded_parts (st := 0x12) (d := d)
        (f := fun e => onDesc i (fun d => { d with status := 0x12 }) (countWithheld (onRing r (reportedRing p.num answeredPoint) e))) hsends
        ((NoneCloses.onRing (e := epOf s n) hidle r (f := reportedRing p.num answeredPoint) fun _ => rfl).withheld.onDesc i _) hgone
      refine ⟨_, honly.next, honly, ?_, hnone, fun k hkr => (hothers k hkr).trans (ring_onRing_other (reportedRing p.num answeredPoint) (epOf s n) hkr), ?_, ?_⟩
      · rw [hself]
        show (pruned (dropSlot i (tabGet {} (countWithheld (onRing r (reportedRing p.num answeredPoint) (epOf s n))).rings r))).reportedTo = _
        rw [hringf]
        rfl
      · rw [hrel, if_neg (by rw [hk]; decide)]
        rfl
      · rw [if_neg (by rw [hk]; decide)]
        unfold cplOf at hsent
        rw [hring] at hsent
        exact hsent
  · have hexec : exec (.cairnPoll n r) s = .next (keepFixed s (cairnPoll n r s)) := core_next hclock hok
    have hrun : cairnPoll n r s = hostAccess n (.cairnRead r p.num) 0x41 (cairnAddr (ringOf s n r)) 64 [] (modEp n (onRing r fun g =>
        { g with points := g.points.map fun q => if pointWaits q && q.answered then { q with reading := true } else q }) s) := by
      unfold cairnPoll
      dsimp only
      rw [hp]
      rfl
    have hsends := hostAccess_sends (s := s) (n := n) (h := .cairnRead r p.num) (f := onRing r fun g =>
        { g with points := g.points.map fun q => if pointWaits q && q.answered then { q with reading := true } else q }) ⟨rfl, rfl, rfl, rfl, rfl, rfl⟩
      (fun x hx => by unfold dlvChunk; rw [hx]) 0x41 (cairnAddr (ringOf s n r)) 64 []
    rw [hexec, hrun]
    generalize hostAccess n _ _ _ _ _ _ = t at *
    exact ⟨t, hsends.only.next, hsends.only, (hsends.ring r).trans (ring_onRing _ _ _), hsends.sent⟩
  · have hexec : exec (.kernelStartTimeout n r) s = .next (keepFixed s (kernelStartTimeout n r s)) := core_next hclock hok
    obtain ⟨hsends, hgone⟩ := finishDesc_status hd hring (maxStatus d.status 0x12) (f := fun e => e) rfl ⟨rfl, rfl, rfl, rfl, rfl, rfl⟩
    have hrun : kernelStartTimeout n r s = epWork n (prunePoints n r (ksTimeout n r (haltRing n r 3 (finishDesc n i (modEp n (onDesc i (fun x => { x with status := maxStatus d.status 0x12 })) s))))) := by
      unfold kernelStartTimeout
      rw [hp]
      dsimp only
      rw [hslot]
      dsimp only
      rw [onDesc_status hd _ (maxStatus d.status 0x12) rfl]
    have hstate : (ringOf (finishDesc n i (modEp n (onDesc i (fun x => { x with status := maxStatus d.status 0x12 })) s)) n r).state = .active := by
      rw [hsends.ring, ring_ended, rings_onDesc]
      exact hst
    rw [hexec, hrun, haltRing_active hstate]
    have hhalted := hsends.andRing r (haltedBy 3)
    generalize finishDesc n i _ = u at *
    obtain ⟨honly, hnone, hroom, hsent, hself, _⟩ := waitEnded_parts (i := i) (r := r) hhalted
      (((NoneCloses.onDesc (e := epOf s n) hidle i _).ended i r).onRing r (f := haltedBy 3) fun _ => rfl) ((descs_onRing _ _ _).trans hgone)
      (((faults_onRing _ _ _).trans (faults_ended _ _ _)).trans (faults_onDesc _ _ _))
    refine ⟨_, honly.next, ⟨honly, hnone, hroom, ?_⟩, ?_, ?_⟩
    · unfold cplOf at hsent
      rw [hring] at hsent
      exact hsent
    · rw [hself, ring_onRing]
      rfl
    · rw [hself, ring_onRing]
      rfl
  · have hexec : exec (.cairnWaitTimeout n r) s = .next (keepFixed s (cairnWaitTimeout n r s)) := core_next hclock hok
    obtain ⟨hsends, hgone⟩ := finishDesc_status hd hring 0x12 (f := countWithheld) rfl ⟨rfl, rfl, rfl, rfl, rfl, rfl⟩
    have hrun : cairnWaitTimeout n r s = epWork n (prunePoints n r (ksTimeout n r (finishDesc n i (modEp n (fun e => onDesc i (fun d => { d with status := 0x12 }) (countWithheld e)) s)))) := by
      unfold cairnWaitTimeout
      rw [hp]
      dsimp only
      rw [hslot]
      dsimp only
      unfold withholdFlag
      exact congrArg (fun u => epWork n (prunePoints n r (ksTimeout n r (finishDesc n i u)))) (modEp_modEp _ _ _ _)
    rw [hexec, hrun]
    generalize finishDesc n i _ = u at *
    obtain ⟨honly, hnone, hroom, hsent, hself, hrel⟩ := waitEnded_parts (i := i) (r := r) hsends (((NoneCloses.withheld (e := epOf s n) hidle).onDesc i _).ended i r) hgone ((faults_ended _ _ _).trans (faults_onDesc _ _ _))
    refine ⟨_, honly.next, ⟨honly, hnone, hroom, ?_⟩, ?_, hrel⟩
    · unfold cplOf at hsent
      rw [hring] at hsent
      exact hsent
    · rw [hself]
      rw [ring_ended, rings_onDesc, rings_withheld]
      rfl

end Sys2Proof.Machine
end

section
/-! SUPPORT. Frames at an ingress (R117, R119, R122, R128): the checks, the cells that a frame takes, and its egress queue. -/

namespace Sys2Proof.Machine

open Sys2Proof

/-! ## Cells -/

/-- Cells are taken as the pool alone says, and nothing but the pool changes. -/
theorem takeCell_of_pool (port c : Nat) {s s' : State} (h : s'.pool = s.pool) :
    takeCell port c s' = ((takeCell port c s).1, { s' with pool := (takeCell port c s).2.pool }) := by
  have hf : classFree s' c = classFree s c := by unfold classFree poolSize poolCfg classHeld; rw [h]
  have hu : ∀ b, bankAlloc s' b = bankAlloc s b := fun b => by unfold bankAlloc; rw [h]
  have hb : nextBankOf s' = nextBankOf s := by unfold nextBankOf; rw [h]; simp only [hu]
  unfold takeCell
  rw [hf, hb]
  simp only [hu]
  by_cases h0 : classFree s c = 0
  · rw [if_pos h0, if_pos h0, ← h]
  · rw [if_neg h0, if_neg h0]
    cases nextBankOf s with
    | none => rw [← h]
    | some b =>
      unfold modPool
      rw [h]

theorem takeCells_of_pool (port c n : Nat) {s s' : State} (h : s'.pool = s.pool) :
    takeCells port c n s' = ((takeCells port c n s).1, { s' with pool := (takeCells port c n s).2.pool }) := by
  induction n generalizing s s' with
  | zero =>
    unfold takeCells
    rw [← h]
  | succ n ih =>
    have h1 := takeCell_of_pool port c h
    unfold takeCells
    rw [h1]
    obtain ⟨x, u⟩ := takeCell port c s
    cases x with
    | none => rfl
    | some x =>
      dsimp only
      rw [ih (s := u) (s' := { s' with pool := u.pool }) rfl]

theorem takeCells_frame {port c n : Nat} {s u : State} {cells : List Nat} (h : takeCells port c n s = (cells, u)) : u = { s with pool := u.pool } := by
  have hk := takeCells_of_pool port c n (rfl : s.pool = s.pool)
  rw [h] at hk
  exact congrArg Prod.snd hk

/-- A cell that is taken is ALLOC, and is charged to its port and class. -/
theorem takeCell_adds {port c : Nat} {s u : State} {x : Nat} (h : takeCell port c s = (some x, u)) :
    u.pool.alloc = s.pool.alloc ++ [x] ∧ portHeld u port c = portHeld s port c + 1 := by
  unfold takeCell at h
  by_cases h0 : classFree s c = 0
  · rw [if_pos h0] at h
    cases h
  · rw [if_neg h0] at h
    cases hb : nextBankOf s with
    | none =>
      rw [hb] at h
      cases h
    | some b =>
      rw [hb] at h
      cases h
      refine ⟨rfl, ?_⟩
      unfold portHeld
      exact tabGet_mod_same 0 s.pool.held (pcKey port c) (· + 1)

theorem takeCells_adds {port c n : Nat} {s u : State} {cells : List Nat} (h : takeCells port c n s = (cells, u)) :
    u.pool.alloc = s.pool.alloc ++ cells ∧ portHeld u port c = portHeld s port c + cells.length := by
  induction n generalizing s cells with
  | zero =>
    cases h
    exact ⟨(List.append_nil _).symm, rfl⟩
  | succ n ih =>
    unfold takeCells at h
    cases hx : takeCell port c s with
    | mk x v =>
      rw [hx] at h
      cases x with
      | none =>
        cases h
        have hv : u = s := by
          unfold takeCell at hx
          grind
        rw [hv]
        exact ⟨(List.append_nil _).symm, rfl⟩
      | some x =>
        dsimp only at h
        obtain ⟨ha, hh⟩ := takeCell_adds hx
        cases hr : takeCells port c n v with
        | mk xs w =>
          rw [hr] at h
          cases h
          obtain ⟨ia, ih⟩ := ih hr
          refine ⟨by rw [ia, ha, List.append_assoc, List.singleton_append], ?_⟩
          dsimp only at ih ⊢
          rw [ih, hh, List.length_cons]
          omega

/-- Where a frame of one cell or more has got any, its class has a free one. -/
theorem takeCells_free {port c n : Nat} {s u : State} {cells : List Nat} (h : takeCells port c n s = (cells, u)) (hc : cells ≠ []) : classFree s c ≠ 0 := by
  intro h0
  cases n with
  | zero => cases h; exact hc rfl
  | succ n =>
    unfold takeCells takeCell at h
    rw [if_pos h0] at h
    cases h
    exact hc rfl

theorem frameCells_pos (f : Frame) : 0 < frameCells f := by unfold frameCells; omega

/-! ## What neither the mirror nor the congestion map records -/

theorem mirror_unobserved {s : State} (h : Unobserved s) (ev port inPort outPort code cyc : Nat) (wb : Header) : mirror ev port inPort outPort code cyc wb s = s := by
  have hm : mirrorMatch s ev port wb = false := by
    unfold mirrorMatch
    dsimp only
    rw [h.1]
    rfl
  unfold mirror
  rw [hm]
  rfl

theorem cmapMod_unobserved {s : State} (h : Unobserved s) (port : Nat) (f : CmapPort → CmapPort) : cmapMod port f s = s := by
  unfold cmapMod
  rw [h.2]
  rfl

theorem discardTo_unobserved {s : State} (h : Unobserved s) (port out code cyc : Nat) (wb : Header) : discardTo port out code cyc wb s = s := by
  unfold discardTo
  rw [mirror_unobserved h, cmapMod_unobserved h]

theorem discardAt_unobserved {s : State} (h : Unobserved s) (port code cyc : Nat) (wb : Header) : discardAt port code cyc wb s = s :=
  discardTo_unobserved h _ _ _ _ _

theorem FaultOnly.unobserved {s t : State} (h : FaultOnly s t) (hs : Unobserved s) : Unobserved t := by
  unfold FaultOnly at h
  rw [h]
  exact hs

/-- A frame that is discarded with a record leaves the record alone. -/
theorem discarded_recorded {u : State} {port code cyc : Nat} {kind : Byte} {wb : Header} (hu : Unobserved u) :
    FaultOnly u (discardAt port code cyc wb (swcFault kind sevWarn port port wb u))
      ∧ (u.glb.faults.length < 1024 → Recorded (discardAt port code cyc wb (swcFault kind sevWarn port port wb u)) kind sevWarn port) := by
  have hf : FaultOnly u (swcFault kind sevWarn port port wb u) := devFault_only _ _ _ _ _ _ _ _
  rw [discardAt_unobserved (hf.unobserved hu)]
  exact ⟨hf, fun hroom => devFault_recorded _ _ _ _ _ _ _ _ hroom⟩

/-! ## The egress queue -/

theorem poolSettle_settled (port c : Nat) (s : State) : SettledOnly s (poolSettle port c s) := by
  refine noteFlow_settled ?_
  obtain ⟨o, ho, -⟩ := settlePort_eq c port (settleClass c s)
  rw [ho]
  exact (settleClass_settled c s).trans rfl

theorem SettledOnly.queueOf_eq {s t : State} (h : SettledOnly s t) (p c : Nat) : queueOf t p c = queueOf s p c := by
  unfold SettledOnly at h
  unfold queueOf
  rw [h]

theorem SettledOnly.unobserved {s t : State} (h : SettledOnly s t) (hs : Unobserved s) : Unobserved t := by
  unfold SettledOnly at h
  rw [h]
  exact hs

theorem SettledOnly.kept {s t : State} (h : SettledOnly s t) : keepFixed s t = t := by
  unfold SettledOnly at h
  rw [h]
  rfl

theorem pcKey_ne {p q c d : Nat} (hc : c < 4) (hd : d < 4) (h : q ≠ p ∨ d ≠ c) : pcKey q d ≠ pcKey p c := by
  unfold pcKey
  omega

theorem stompCode_good {f : Frame} (h : frameGood f = true) : stompCode f .clean false = 0 := by
  have hf : ¬ f.crc ≠ frameCrc f.wb f.payload := fun hc => by simp [frameGood, hc] at h
  unfold stompCode
  simp [hf]

/-- A frame joins an egress queue. -/
def joins (out c : Nat) (q : QFrame) (w : Swc) : Swc := { w with queues := tabMod [] w.queues (pcKey out c) (· ++ [q]) }

theorem queueOf_joins_same (out c : Nat) (q : QFrame) (s : State) : queueOf (modSwc (joins out c q) s) out c = queueOf s out c ++ [q] :=
  tabGet_mod_same [] s.swc.queues (pcKey out c) (· ++ [q])

theorem queueOf_joins_other {out c p d : Nat} (q : QFrame) (s : State) (hc : c < 4) (hd : d < 4) (h : p ≠ out ∨ d ≠ c) :
    queueOf (modSwc (joins out c q) s) p d = queueOf s p d := tabGet_mod_other [] s.swc.queues (· ++ [q]) (pcKey_ne hc hd h)

theorem enqueueAll_good {port out cyc : Nat} {f : Frame} {hop : Header} {s u : State} {cells : List Nat} (hu : Unobserved s) (hg : frameGood f = true)
    (ht : takeCells port (wbClass f.wb) (frameCells f) s = (cells, u)) (hl : cells.length = frameCells f) :
    enqueueAll port cyc (frameCells f) f hop .clean [out] s = poolSettle port (wbClass f.wb) (modSwc (joins out (wbClass f.wb) ⟨f, hop, port, cells⟩) u) := by
  have hns : tailStomped f = false := by
    cases h : tailStomped f with
    | false => rfl
    | true => simp [frameGood, h] at hg
  have hne : cells.isEmpty = false := by
    have hpos := frameCells_pos f
    cases cells with
    | nil => simp at hl; omega
    | cons _ _ => rfl
  have hun : Unobserved u := by
    rw [takeCells_frame ht]
    exact hu
  have he : enqueue port out cyc (frameCells f) f hop .clean s
      = (false, poolSettle port (wbClass f.wb) (modSwc (joins out (wbClass f.wb) ⟨f, hop, port, cells⟩) u)) := by
    unfold enqueue
    dsimp only
    rw [Nat.min_self, ht]
    dsimp only
    rw [hne, hl]
    simp only [Nat.lt_irrefl, decide_false, stompCode_good hg, if_true, if_false, Bool.false_eq_true]
    rw [cmapMod_unobserved, hns]
    · rfl
    · exact (poolSettle_settled _ _ _).unobserved hun
  unfold enqueueAll
  rw [List.foldl_cons, List.foldl_nil, he]
  rfl

/-- A good frame with one egress, and cells for all of it, joins its queue there. -/
theorem forward_good {port out cyc : Nat} {f : Frame} {s u : State} {cells : List Nat} (hu : Unobserved s) (hg : frameGood f = true) (hm : wbMcast f.wb = false)
    (hguard : wbClass f.wb = 1 → inGuard s cyc = false)
    (ht : takeCells port (wbClass f.wb) (frameCells f) s = (cells, u)) (hl : cells.length = frameCells f) :
    forward port cyc f 0 .clean [out] false s
      = poolSettle port (wbClass f.wb) (modSwc (joins out (wbClass f.wb) ⟨f, 0, port, cells⟩) { u with freeCount := u.freeCount + 1 }) := by
  have hns : tailStomped f = false := by
    cases h : tailStomped f with
    | false => rfl
    | true => simp [frameGood, h] at hg
  have hne : cells ≠ [] := by
    have hpos := frameCells_pos f
    intro h
    rw [h] at hl
    simp at hl
    omega
  have hfree := takeCells_free ht hne
  have hng : ¬ (wbClass f.wb = 1 ∧ inGuard s cyc = true) := fun ⟨h1, h2⟩ => by
    rw [hguard h1] at h2
    cases h2
  have hhops : hopsOk s (hopHops 0) [out] = true := rfl
  have hk := takeCells_of_pool port (wbClass f.wb) (frameCells f) (s := s) (s' := { s with freeCount := s.freeCount + 1 }) rfl
  rw [ht] at hk
  have hu0 := takeCells_frame ht
  have ht' : takeCells port (wbClass f.wb) (frameCells f) { s with freeCount := s.freeCount + 1 } = (cells, { u with freeCount := u.freeCount + 1 }) := by
    rw [hk]
    exact congrArg (Prod.mk cells) (by rw [hu0])
  unfold forward
  dsimp only
  rw [hhops]
  simp only [List.isEmpty_cons, Bool.false_and, Bool.not_true, Bool.or_self, Bool.false_eq_true, if_false, if_neg hng, if_neg hfree]
  rw [mirror_unobserved hu]
  unfold tailCycle takeFree
  dsimp only
  rw [hns, hm]
  simp only [Bool.false_and, Bool.false_eq_true, if_false]
  exact enqueueAll_good (s := { s with freeCount := s.freeCount + 1 }) hu hg ht' hl

/-! ## The checks -/

theorem spray_one (o key c : Nat) (s : State) : ∃ ptr, spray [o] key c s = (some o, modSwc (fun w => { w with ptr := ptr }) s) := by
  have h : ([o].filter fun p => tabGet 0 s.swc.ptr key ≤ p) ++ ([o].filter fun p => p < tabGet 0 s.swc.ptr key) = [o] := by
    by_cases h : tabGet 0 s.swc.ptr key ≤ o
    · simp [h]
    · simp [h, Nat.lt_of_not_le h]
  unfold spray
  dsimp only
  rw [h]
  exact ⟨_, rfl⟩

section Checks
variable {s : State} {port cyc : Nat} {f : Frame} {mask : BitVec 64}

theorem routeFrame_malformed (h : frameFormatOk f.wb = false) : routeFrame port cyc f 0 mask .clean s
    = discardAt port 3 cyc f.wb (swcFault 0x21 sevWarn port port f.wb (bumpErr port 16 s)) := by
  unfold routeFrame
  dsimp only
  rw [h]
  rfl

theorem routeFrame_foreign (h : frameFormatOk f.wb = true) (hp : partitionOk s f.wb = false) : routeFrame port cyc f 0 mask .clean s
    = discardAt port 4 cyc f.wb (swcFault 0x23 sevWarn port port f.wb (modRte (fun r => { r with partDrop := satAdd r.partDrop 1 }) s)) := by
  unfold routeFrame
  dsimp only
  rw [h, hp]
  rfl

section Passes
variable (h : frameFormatOk f.wb = true) (hp : partitionOk s f.wb = true) (hm : wbMcast f.wb = false)
include h hp hm

theorem routeFrame_local (hd : wbDst f.wb = myFnid s) : routeFrame port cyc f 0 mask .clean s = forward port cyc f 0 .clean [localPort f.wb] false s := by
  unfold routeFrame
  dsimp only
  rw [h, hp, hm, if_pos hd]
  rfl

theorem routeFrame_routed (hd : wbDst f.wb ≠ myFnid s) : routeFrame port cyc f 0 mask .clean s =
    forward port cyc f 0 .clean (spray (pathSet s (wbDst f.wb)).1 (pathSet s (wbDst f.wb)).2 (wbClass f.wb) s).1.toList false
      (spray (pathSet s (wbDst f.wb)).1 (pathSet s (wbDst f.wb)).2 (wbClass f.wb) s).2 := by
  unfold routeFrame
  dsimp only
  rw [h, hp, hm, if_neg hd]
  rfl

end Passes
end Checks

/-- A frame arrives in the checks at a port that is no TRUNK and is not in P1. -/
theorem exec_frameIngress {s : State} {p cyc : Nat} {f : Frame} (hop : Header) (hc : Clocked s) (hp : p < 128) (ht : isTrunk s p = false) (hr : receives s p = true)
    (h1 : wbType f.wb ≠ 0x3F) (h2 : wbType f.wb ≠ 0x30) (hawake : tabGet 0 s.pwr.portState p ≠ 1) :
    exec (.frameIngress p (.given f) hop .clean cyc) s = .next (keepFixed s (routeFrame p cyc f 0 (hopMask hop) .clean s)) := by
  have hi : frameIngress p (.given f) hop .clean cyc s = routeFrame p cyc f 0 (hopMask hop) .clean s := by
    unfold frameIngress ingress
    dsimp only
    rw [if_pos hr, show unrest p s = s from if_neg hawake, ht, if_neg (show ¬ (wbType f.wb = 0x3F ∨ wbType f.wb = 0x30) from fun h => h.elim h1 h2)]
    rfl
  exact (core_next hc (decide_eq_true hp)).trans (by rw [hi])

theorem keepFixed_same {s t : State} (hp : t.pending = s.pending) (hf : t.fuses = s.fuses) (hb : t.attachBuf = s.attachBuf) : keepFixed s t = t := by
  unfold keepFixed
  rw [← hp, ← hf, ← hb]

theorem SettledOnly.fixed {u t : State} (h : SettledOnly u t) : t.pending = u.pending ∧ t.fuses = u.fuses ∧ t.attachBuf = u.attachBuf := by
  unfold SettledOnly at h
  rw [h]
  exact ⟨rfl, rfl, rfl⟩

/-- What settles a state with `s`'s queue, fuses and attach buffer keeps them. -/
theorem SettledOnly.next {s u t : State} (h : SettledOnly u t) (hp : u.pending = s.pending) (hf : u.fuses = s.fuses) (hb : u.attachBuf = s.attachBuf) :
    (Host.Outcome.next (keepFixed s t) : Out) = .next t := by
  obtain ⟨kp, kf, kb⟩ := h.fixed
  exact congrArg Host.Outcome.next (keepFixed_same (kp.trans hp) (kf.trans hf) (kb.trans hb))

theorem wbClass_lt (wb : Header) : wbClass wb < 4 := (bitsOf wb 14 2).isLt

theorem clocked_unrest {s : State} (h : Clocked s) (p : Nat) : Clocked (unrest p s) := by
  have hn : (unrest p s).pwr.powered = s.pwr.powered ∧ (unrest p s).pwr.node = s.pwr.node := by
    unfold unrest
    split <;> exact ⟨rfl, rfl⟩
  unfold Clocked
  rw [hn.1, hn.2]
  exact h

theorem receives_unrest (p n : Nat) (s : State) : receives (unrest p s) n = receives s n := by
  unfold unrest
  split <;> rfl

/-- An ingress leaves P1 before it takes the frame. -/
theorem frameIngress_unrest {p : Nat} {s : State} (h : receives s p = true) (cyc : Nat) (f : Frame) (hop : Header) (flaw : IngressFlaw) :
    frameIngress p (.given f) hop flaw cyc (unrest p s) = frameIngress p (.given f) hop flaw cyc s := by
  unfold frameIngress
  dsimp only
  rw [receives_unrest, if_pos h, if_pos h, unrest_unrest]

/-- Settles O38: an ingress in P1 leaves it first; then each check of R119 in its order. -/
theorem ingressChecksAndQueuesFrames : Obligations.IngressChecksAndQueuesFrames := by
  intro s p cyc f hop hcl hp ht hr hu h1 h2 hm c go
  refine ⟨?_, fun hawake => ?_⟩
  · exact (core_next hcl (decide_eq_true hp)).trans (((core_next (s := unrest p s) (clocked_unrest hcl p) (decide_eq_true hp)).trans (by
      rw [keepFixed_unrest, frameIngress_unrest hr])).symm)
  have hexec : exec go s = .next (keepFixed s (routeFrame p cyc f 0 (hopMask hop) .clean s)) := exec_frameIngress hop hcl hp ht hr h1 h2 hawake
  rw [hexec]
  refine ⟨fun hf => ?_, fun hf hpart => ?_, fun hf hpart hd hnone => ?_, fun o cells u hf hpart hout hguard hg htake hl => ?_⟩
  · obtain ⟨hfo, hrec⟩ := discarded_recorded (u := bumpErr p 16 s) (port := p) (code := 3) (cyc := cyc) (kind := 0x21) (wb := f.wb) hu
    rw [routeFrame_malformed hf]
    refine ⟨_, hfo.settled.next rfl rfl rfl, ?_⟩
    generalize discardAt _ _ _ _ _ = t at hfo hrec ⊢
    have hswc : t.swc = (bumpErr p 16 s).swc := hfo.fields.2.2.1
    refine ⟨?_, fun q hq => ?_, hrec, ?_⟩
    · rw [hswc]
      exact tabGet_mod_same 0 s.swc.portErr p (bumpField · 16 8)
    · rw [hswc]
      exact tabGet_mod_other 0 s.swc.portErr (bumpField · 16 8) hq
    · rw [hswc]
      exact hfo
  · obtain ⟨hfo, hrec⟩ := discarded_recorded (u := modRte (fun r => { r with partDrop := satAdd r.partDrop 1 }) s) (port := p) (code := 4) (cyc := cyc) (kind := 0x23) (wb := f.wb) hu
    rw [routeFrame_foreign hf hpart]
    exact ⟨_, hfo.settled.next rfl rfl rfl, hrec, hfo⟩
  · obtain ⟨hfo, hrec⟩ := discarded_recorded (u := modSwc (fun w => { w with noRoute := satAdd w.noRoute 1 }) s) (port := p) (code := 5) (cyc := cyc) (kind := 0x22) (wb := f.wb) hu
    rw [routeFrame_routed hf hpart hm hd, hnone]
    exact ⟨_, hfo.settled.next rfl rfl rfl, hrec, hfo⟩
  · have hus := takeCells_frame htake
    obtain ⟨ptr, hr⟩ : ∃ ptr, routeFrame p cyc f 0 (hopMask hop) .clean s
        = poolSettle p c (modSwc (joins o c ⟨f, 0, p, cells⟩) { modSwc (fun w => { w with ptr := ptr }) u with freeCount := u.freeCount + 1 }) := by
      rcases hout with ⟨hd, rfl⟩ | ⟨hd, hset⟩
      · refine ⟨s.swc.ptr, (routeFrame_local hf hpart hm hd).trans ((forward_good hu hg hm hguard htake hl).trans ?_)⟩
        rw [hus]
        rfl
      · obtain ⟨ptr, hs⟩ := spray_one o (pathSet s (wbDst f.wb)).2 c s
        have htake' := takeCells_of_pool p c (frameCells f) (s := s) (s' := modSwc (fun w => { w with ptr := ptr }) s) rfl
        rw [htake] at htake'
        refine ⟨ptr, ?_⟩
        rw [routeFrame_routed hf hpart hm hd, hset, hs]
        refine (forward_good (s := modSwc (fun w => { w with ptr := ptr }) s) hu hg hm hguard htake' hl).trans ?_
        rw [hus]
        rfl
    have hs := poolSettle_settled p c (modSwc (joins o c ⟨f, 0, p, cells⟩) { modSwc (fun w => { w with ptr := ptr }) u with freeCount := u.freeCount + 1 })
    obtain ⟨halloc, hheld⟩ := takeCells_adds htake
    rw [hr]
    refine ⟨_, hs.next (by rw [hus]; rfl) (by rw [hus]; rfl) (by rw [hus]; rfl), ?_⟩
    generalize poolSettle p c _ = t at hs ⊢
    have hq := hs.queueOf_eq
    have hq0 : ∀ q d, queueOf { modSwc (fun w => { w with ptr := ptr }) u with freeCount := u.freeCount + 1 } q d = queueOf s q d := fun q d => by
      rw [hus]
      rfl
    refine ⟨?_, fun q d hd hne => ?_, ?_, ?_, ?_⟩
    · rw [hq, queueOf_joins_same, hq0]
    · rw [hq, queueOf_joins_other _ _ (wbClass_lt f.wb) hd hne, hq0]
    · rw [hs.pool_eq]
      exact halloc
    · rw [hs.portHeld_eq]
      exact hheld.trans (by rw [hl])
    · unfold SettledOnly at hs ⊢
      rw [hs, hus]
      rfl

end Sys2Proof.Machine
end

section
/-! SUPPORT. Egress (R114, R117, R118, R128, R141): the class that is served, and what a frame that leaves does. -/

namespace Sys2Proof.Machine

open Sys2Proof

/-! ## Freeing cells (R128, R132, R133) -/

/-- `t` is `s` but for the pool's cells, and what its thresholds then leave. -/
def PoolOnly (s t : State) : Prop := SettledOnly { s with pool := t.pool } t

theorem PoolOnly.refl (s : State) : PoolOnly s s := SettledOnly.refl s

theorem PoolOnly.trans {s t u : State} (h : PoolOnly s t) (k : PoolOnly t u) : PoolOnly s u := by
  unfold PoolOnly SettledOnly at *
  rw [k, h]

theorem SettledOnly.poolOnly {s t : State} (h : SettledOnly s t) : PoolOnly s t := by
  unfold PoolOnly
  unfold SettledOnly at *
  rw [h]

theorem modPool_poolOnly (f : Pool → Pool) (s : State) : PoolOnly s (modPool f s) := SettledOnly.refl _

theorem freeCell_poolOnly (port c x : Nat) (s : State) : PoolOnly s (freeCell port c x s) := by
  unfold freeCell
  split
  · exact modPool_poolOnly _ s
  · exact (modPool_poolOnly _ s).trans (devFault_only _ _ _ _ _ _ _ _).settled.poolOnly

theorem forEach_poolOnly {α : Type} {f : α → State → State} (h : ∀ a s, PoolOnly s (f a s)) (l : List α) (s : State) : PoolOnly s (forEach l f s) := by
  induction l generalizing s with
  | nil => exact PoolOnly.refl s
  | cons a l ih => exact (h a s).trans (ih (f a s))

theorem freeCells_poolOnly (port c : Nat) (cells : List Nat) (s : State) : PoolOnly s (freeCells port c cells s) := by
  unfold freeCells
  split
  · exact PoolOnly.refl s
  · exact (forEach_poolOnly (freeCell_poolOnly port c) cells s).trans (poolSettle_settled _ _ _).poolOnly

theorem PoolOnly.queueOf_eq {s t : State} (h : PoolOnly s t) (p c : Nat) : queueOf t p c = queueOf s p c := SettledOnly.queueOf_eq h p c

theorem PoolOnly.relOf_eq {s t : State} (h : PoolOnly s t) (p : Point) : relOf t p = relOf s p := by
  unfold PoolOnly SettledOnly at h
  unfold relOf epOf
  rw [h]

/-! ## A port that leaves P1 -/

section Unrest
variable (n : Nat) (s : State)

theorem unrest_isTrunk (p : Nat) : isTrunk (unrest n s) p = isTrunk s p := by unfold unrest; split <;> rfl
theorem unrest_swc : (unrest n s).swc = s.swc := by unfold unrest; split <;> rfl
theorem unrest_pool : (unrest n s).pool = s.pool := by unfold unrest; split <;> rfl
theorem unrest_fixed : (unrest n s).pending = s.pending ∧ (unrest n s).fuses = s.fuses ∧ (unrest n s).attachBuf = s.attachBuf := by
  unfold unrest
  split <;> exact ⟨rfl, rfl, rfl⟩

theorem xoffBits_unrest (p : Nat) : xoffBits (unrest n s) p = xoffBits s p := by
  unfold xoffBits ingressOff
  rw [unrest_pool]

theorem unobserved_unrest {s : State} (h : Unobserved s) : Unobserved (unrest n s) := by
  unfold unrest
  split <;> exact h

end Unrest

/-! ## The class that is served -/

/-- The queue of class `c` at an egress has no frame to serve. -/
def Idle (s : State) (p c : Nat) : Prop := queueOf s p c = [] ∨ peerOff s p c = true

section Serves
variable {s : State} {p : Nat} {q : QFrame} {rest : List QFrame}

theorem idle_closed {c : Nat} (h : Idle s p c) : (!(queueOf s p c).isEmpty && !peerOff s p c) = false := by
  rcases h with h | h
  · rw [h]; rfl
  · rw [h]; exact Bool.and_false _

theorem nextClass_ctrl (h : queueOf s p 3 = q :: rest) (hon : peerOff s p 3 = false) : nextClass p s = (some 3, s) := by
  unfold nextClass
  rw [h, hon]
  rfl

theorem nextClass_sched (h3 : Idle s p 3) (h : queueOf s p 1 = q :: rest) (hon : peerOff s p 1 = false) : nextClass p s = (some 1, s) := by
  unfold nextClass
  rw [idle_closed h3, h, hon]
  rfl

/-- A turn of RSP with its quantum serves a frame of 6 cells or fewer. -/
theorem nextClass_rsp (h3 : Idle s p 3) (h1 : Idle s p 1) (hd : ∀ d, d < 4 → tabGet 0 s.swc.deficit (pcKey p d) = 0)
    (h : queueOf s p 2 = q :: rest) (hon : peerOff s p 2 = false) (hq : q.cells.length ≤ 6) :
    ∃ d, nextClass p s = (some 2, modSwc (fun w => { w with deficit := d }) s) := by
  have hquantum : tabGet 0 (tabSet 0 (tabMod 0 s.swc.deficit (pcKey p 2) (· + 6)) (pcKey p 3) 1) (pcKey p 2) = 6 := by
    rw [tabGet_set_other _ _ _ (pcKey_ne (by decide) (by decide) (.inr (by decide))), tabGet_mod_same, hd 2 (by decide)]
  unfold nextClass
  rw [idle_closed h3, idle_closed h1]
  unfold drr
  dsimp only
  rw [if_pos (hd 1 (by decide)), h]
  dsimp only
  rw [hon, if_pos (hd 3 (by decide)), hquantum, if_pos hq]
  exact ⟨_, rfl⟩

/-- The frame at the head of the class that is served leaves. -/
theorem frameEgress_serves {v : State} {c : Nat} (cyc : Nat) (hs : sends s p = true) (hf : (isTrunk s p && tabGet false s.swc.flowDue p) = false) (hu : Unobserved v)
    (hn : nextClass p s = (some c, v)) (hq : queueOf v p c = q :: rest) :
    frameEgress p cyc s = leave p q (modSwc (fun w => { w with queues := tabSet [] w.queues (pcKey p c) rest }) (unrest p v)) := by
  have huv := unobserved_unrest p hu
  unfold frameEgress
  rw [hs, hf, hn]
  dsimp only
  rw [hq]
  simp only [Bool.not_true, Bool.false_eq_true, if_false]
  rw [mirror_unobserved huv]
  unfold cellsLeave
  rw [cmapMod_unobserved]
  exact huv

end Serves

/-- A FLOW frame that is due goes first. -/
theorem frameEgress_flow {s : State} {p : Nat} (cyc : Nat) (hs : sends s p = true) (ht : isTrunk s p = true) (hdue : tabGet false s.swc.flowDue p = true)
    (hu : Unobserved s) : frameEgress p cyc s = putLine p (flowLine flowWb (mkHop 0 (xoffBits s p) 0 0)) (modSwc (fun w => { w with
      flowDue := tabSet false w.flowDue p false, flowOut := tabMod [] w.flowOut p (· ++ [(flowWb, mkHop 0 (xoffBits s p) 0 0)]) }) (unrest p s)) := by
  have huv := unobserved_unrest p hu
  unfold frameEgress
  dsimp only
  rw [hs, ht, hdue, mirror_unobserved huv, xoffBits_unrest]
  simp only [Bool.not_true, Bool.false_eq_true, if_false, Bool.and_self, if_true]
  unfold cellsLeave
  rw [cmapMod_unobserved]
  exact huv

/-! ## A frame that leaves -/

section Leaves
variable {p : Nat} {q : QFrame} {v : State}

theorem leave_trunk (ht : isTrunk v p = true) : leave p q v = freeCells q.inPort (wbClass q.frame.wb) q.cells
    (putLine p (frameLine q.frame (mkHop (hopHops q.hop + 1) (xoffBits v p) (queueCells v p (wbClass q.frame.wb) / 256) 0)) (modSwc (fun w => { w with
      trunkOut := tabMod [] w.trunkOut p (· ++ [(q.frame, mkHop (hopHops q.hop + 1) (xoffBits v p) (queueCells v p (wbClass q.frame.wb) / 256) 0)]) }) v)) := by
  unfold leave
  exact if_pos ht

variable (ht : isTrunk v p = false)
include ht

theorem leave_ctrl (hc : wbClass q.frame.wb = 3) : leave p q v = freeCells q.inPort 3 q.cells (modSwc (fun w => { w with
    nodeIn := tabMod [] w.nodeIn p (· ++ [(q.frame, q.inPort, [])]) }) v) := by
  unfold leave
  dsimp only
  rw [ht, hc]
  rfl

theorem leave_sched (hc : wbClass q.frame.wb = 1) (hm : wbMcast q.frame.wb = false) : leave p q v = modSwc (fun w => { w with
    nodeIn := tabMod [] w.nodeIn p (· ++ [(q.frame, q.inPort, q.cells)]) }) v := by
  unfold leave
  dsimp only
  rw [ht, hc, hm]
  rfl

theorem leave_rsp (hc : wbClass q.frame.wb = 2) : leave p q v = freeCells q.inPort 2 q.cells
    (modRel (if p < 64 then .ep p else .rte) (fun r => { r with answersIn := r.answersIn ++ [q.frame] }) v) := by
  unfold leave
  dsimp only
  rw [ht, hc]
  rfl

end Leaves

/-- Settles O39: the class that is served first, and then what its frame does where it leaves. -/
theorem egressServesTheClasses : Obligations.EgressServesTheClasses := by
  intro s p cyc q rest hcl hp hs hu w first none3 u h0 h
  have hexec : exec (.frameEgress p cyc) s = .next (keepFixed s (frameEgress p cyc s)) := core_next hcl (decide_eq_true hp)
  rw [hexec]
  have hqr : ∀ c, queueCells (u c) p c = (rest.map fun x => x.cells.length).sum := fun c => by
    show ((tabGet [] (tabSet [] w.swc.queues (pcKey p c) rest) (pcKey p c)).map fun q => q.cells.length).sum = _
    rw [tabGet_set_same]
  have hxoff : ∀ c, xoffBits (u c) p = xoffBits s p := fun c => xoffBits_unrest p s p
  have htrunk : ∀ c, isTrunk (u c) p = isTrunk s p := fun c => unrest_isTrunk p s p
  obtain ⟨hfp, hff, hfb⟩ := unrest_fixed p s
  refine ⟨fun ht hdue => ?_, fun c hcls hf ht hdue => ?_, fun ht => ?_⟩
  · rw [frameEgress_flow cyc hs ht hdue hu]
    exact congrArg Host.Outcome.next (keepFixed_same hfp hff hfb)
  · obtain ⟨hq, hon, hwc⟩ := hf
    have hn : nextClass p s = (some c, s) := by
      rcases hcls with rfl | ⟨rfl, h3⟩
      · exact nextClass_ctrl hq hon
      · exact nextClass_sched h3 hq hon
    rw [frameEgress_serves cyc hs (by rw [hdue]; exact Bool.and_false _) hu hn hq, leave_trunk ((htrunk c).trans ht), hwc, hqr, hxoff]
  have hnot : (isTrunk s p && tabGet false s.swc.flowDue p) = false := by rw [ht]; rfl
  refine ⟨fun ⟨hq, hon, hwc⟩ => ?_, fun ⟨hq, hon, hwc⟩ h3 hm => ?_, fun ⟨hq, hon, hwc⟩ h3 h1 hd hlen => ?_⟩
  · rw [frameEgress_serves cyc hs hnot hu (nextClass_ctrl hq hon) hq, leave_ctrl ((htrunk 3).trans ht) hwc]
  · rw [frameEgress_serves cyc hs hnot hu (nextClass_sched h3 hq hon) hq, leave_sched ((htrunk 1).trans ht) hwc hm]
    exact congrArg Host.Outcome.next (keepFixed_same hfp hff hfb)
  · obtain ⟨d, hn⟩ := nextClass_rsp h3 h1 hd hq hon hlen
    rw [frameEgress_serves (v := modSwc (fun w => { w with deficit := d }) s) cyc hs hnot hu hn hq]
    have hv : ∀ r c, c < 4 → queueOf (modSwc (fun w => { w with queues := tabSet [] w.queues (pcKey p 2) rest }) (unrest p (modSwc (fun w => { w with deficit := d }) s))) r c
        = if r = p ∧ c = 2 then rest else queueOf s r c := fun r c hc => by
      unfold queueOf modSwc
      dsimp only
      rw [unrest_swc]
      split
      case isTrue he => rw [he.1, he.2, tabGet_set_same]
      case isFalse he => exact tabGet_set_other _ _ _ (pcKey_ne (by decide) hc (by omega))
    have hrel : ∀ x, relOf (modSwc (fun w => { w with queues := tabSet [] w.queues (pcKey p 2) rest }) (unrest p (modSwc (fun w => { w with deficit := d }) s))) x
        = relOf s x := fun x => by
      unfold unrest
      split <;> rfl
    have htv : isTrunk (modSwc (fun w => { w with queues := tabSet [] w.queues (pcKey p 2) rest }) (unrest p (modSwc (fun w => { w with deficit := d }) s))) p = false :=
      (unrest_isTrunk p _ p).trans ht
    generalize modSwc (fun w => { w with queues := tabSet [] w.queues (pcKey p 2) rest }) (unrest p (modSwc (fun w => { w with deficit := d }) s)) = v at hv hrel htv ⊢
    rw [leave_rsp htv hwc]
    have hfree := freeCells_poolOnly q.inPort 2 q.cells (modRel (if p < 64 then .ep p else .rte) (fun r => { r with answersIn := r.answersIn ++ [q.frame] }) v)
    generalize freeCells _ _ _ _ = t at hfree ⊢
    have hqt : ∀ r c, queueOf (keepFixed s t) r c = queueOf v r c := fun r c => (hfree.queueOf_eq r c).trans (by unfold queueOf; rw [modRel_swc])
    refine ⟨_, rfl, ?_, fun r c hc hne => ?_, ?_⟩
    · rw [hqt, hv p 2 (by decide), if_pos ⟨rfl, rfl⟩]
    · rw [hqt, hv r c hc, if_neg (by omega)]
    · have hr : ∀ x, relOf (keepFixed s t) x = relOf t x := fun x => by cases x <;> rfl
      rw [hr, hfree.relOf_eq, relOf_modRel, hrel]

end Sys2Proof.Machine
end

section
/-! SUPPORT. Memory that is sound (R375-R378): the module's own writes change nothing but lines. -/

namespace Sys2Proof.Machine

open Sys2Proof

/-- No line is in error or poisoned, in DRAM or in a combining buffer. -/
def NoError (m : Mem) : Prop := (∀ l, tabGet 0 m.errs l = 0) ∧ m.poison = [] ∧ ∀ c, ∀ e ∈ (tabGet {} m.channels c).comb, e.poison = false

/-- `t` is `s` but for the lines of a memory without errors. -/
structure LinesOnly (s t : State) : Prop where
  frame : t = { s with mem := t.mem }
  clean : NoError t.mem
  busy : t.mem.tenantBusy = s.mem.tenantBusy

theorem LinesOnly.refl {s : State} (h : NoError s.mem) : LinesOnly s s := ⟨rfl, h, rfl⟩

theorem LinesOnly.trans {s t u : State} (h : LinesOnly s t) (k : LinesOnly t u) : LinesOnly s u :=
  ⟨by rw [k.frame, h.frame], k.clean, k.busy.trans h.busy⟩

theorem dramStore_lines {s : State} (h : NoError s.mem) (l : Nat) (data : List Byte) : LinesOnly s (dramStore l data false s) := by
  obtain ⟨herr, hpoison, hcomb⟩ := h
  refine ⟨rfl, ⟨fun k => ?_, ?_, hcomb⟩, rfl⟩
  · by_cases hk : k = l
    · rw [hk]
      exact tabGet_set_same 0 0 s.mem.errs l
    · exact (tabGet_set_other 0 0 s.mem.errs hk).trans (herr k)
  · show s.mem.poison.filter (· ≠ l) = []
    rw [hpoison]
    rfl

theorem writeBack_lines {s : State} (h : NoError s.mem) {e : CombEntry} (he : e.poison = false) : LinesOnly s (writeBack e s) := by
  unfold writeBack
  split
  · rw [he]
    exact dramStore_lines h _ _
  · exact LinesOnly.refl h

theorem modChan_lines {s : State} (h : NoError s.mem) (c : Nat) (f : Channel → Channel) (hf : ∀ e ∈ (f (chanOf s c)).comb, e.poison = false) :
    LinesOnly s (modChan c f s) := by
  obtain ⟨herr, hpoison, hcomb⟩ := h
  refine ⟨rfl, ⟨herr, hpoison, fun d => ?_⟩, rfl⟩
  by_cases hd : d = c
  · rw [hd]
    show ∀ e ∈ (chanOf (modChan c f s) c).comb, e.poison = false
    rw [chanOf_modChan]
    exact hf
  · show ∀ e ∈ (chanOf (modChan c f s) d).comb, e.poison = false
    rw [chanOf_modChan_other f s hd]
    exact hcomb d

theorem combPlace_lines {s : State} (h : NoError s.mem) (c : Nat) {e : CombEntry} (he : e.poison = false) : LinesOnly s (combPlace c e s) := by
  have hrest : ∀ x ∈ (chanOf s c).comb.filter fun x => decide (x.line ≠ e.line), x.poison = false := fun x hx => h.2.2 c x (List.mem_filter.mp hx).1
  unfold combPlace
  dsimp only
  generalize (chanOf s c).comb.filter (fun x => decide (x.line ≠ e.line)) = rest at hrest
  cases rest with
  | nil => exact modChan_lines h _ _ fun x hx => by rw [List.mem_singleton.mp hx]; exact he
  | cons old more =>
    dsimp only
    have hmore : ∀ l : List CombEntry, (∀ x ∈ l, x ∈ old :: more) → ∀ x ∈ l ++ [e], x.poison = false := fun l hl x hx => by
      rcases List.mem_append.mp hx with hx | hx
      · exact hrest x (hl x hx)
      · rw [List.mem_singleton.mp hx]
        exact he
    split
    · have hw := writeBack_lines h (hrest old List.mem_cons_self)
      exact hw.trans (modChan_lines hw.clean _ _ (hmore more fun x hx => List.mem_cons_of_mem _ hx))
    · exact modChan_lines h _ _ (hmore _ fun x hx => hx)

theorem eccFound_sound {s : State} (h : NoError s.mem) (l : Nat) (byScrub : Bool) : eccFound l byScrub s = s := by
  obtain ⟨herr, hpoison, -⟩ := h
  refine eccFound_good (u := s) (by rw [hpoison]; exact Bool.false_ne_true) ?_
  rw [herr l]
  rfl

theorem lineNow_unpoisoned {s : State} (h : NoError s.mem) (l : Nat) : (lineNow s l).2 = false := by
  obtain ⟨-, hpoison, hcomb⟩ := h
  unfold lineNow
  cases hf : combFind (chanOf s (lineChan l)) l with
  | some e => exact hcomb _ e (List.mem_of_find?_eq_some hf)
  | none =>
    dsimp only
    rw [hpoison]
    rfl

theorem lineLoad_sound {s : State} (h : NoError s.mem) (l : Nat) : (lineLoad l s).1.2 = false ∧ LinesOnly s (lineLoad l s).2 := by
  unfold lineLoad
  dsimp only
  cases hf : combFind (chanOf s (lineChan l)) l with
  | some e =>
    have he := h.2.2 _ e (List.mem_of_find?_eq_some hf)
    exact ⟨he, combPlace_lines h _ he⟩
  | none =>
    dsimp only
    rw [eccFound_sound h]
    exact ⟨lineNow_unpoisoned h l, LinesOnly.refl h⟩

theorem lineStore_sound {s : State} (h : NoError s.mem) (l : Nat) (whole : Bool) (f : List Byte → List Byte) :
    (lineStore l whole f s).1 = false ∧ LinesOnly s (lineStore l whole f s).2 := by
  obtain ⟨hp, hl⟩ := lineLoad_sound h l
  unfold lineStore
  dsimp only
  rw [hp]
  exact ⟨rfl, hl.trans (combPlace_lines hl.clean _ rfl)⟩

theorem memWrite_sound {s : State} (h : NoError s.mem) (ls : List Nat) (off len : Nat) (data : List Byte) (isStore : Bool) (g : List Byte → List Byte → List Byte) :
    (memWrite ls off len data isStore g s).1 = false ∧ LinesOnly s (memWrite ls off len data isStore g s).2 := by
  induction ls generalizing s with
  | nil => exact ⟨rfl, LinesOnly.refl h⟩
  | cons l ls ih =>
    unfold memWrite
    dsimp only
    obtain ⟨hp, hl⟩ := lineStore_sound h l (isStore && decide ((linePart off len l).2.2 = 64))
      (fun old => overlay old (linePart off len l).1 (g (slice old (linePart off len l).1 (linePart off len l).2.2) (slice data (linePart off len l).2.1 (linePart off len l).2.2)))
    obtain ⟨hq, hr⟩ := ih hl.clean
    rw [hp, hq]
    exact ⟨rfl, hl.trans hr⟩

theorem dieWrite_sound {s : State} (h : MemSound s) (off : Nat) (data : List Byte) : (dieWrite off data s).1 = false ∧ LinesOnly s (dieWrite off data s).2 := by
  obtain ⟨hserves, hclean⟩ := h
  obtain ⟨hp, hl⟩ := memWrite_sound (s := s) hclean (linesOf off data.length) off data.length data true (fun _ new => new)
  rw [dieWrite_serves hserves]
  dsimp only
  rw [hp]
  exact ⟨rfl, hl⟩

theorem LinesOnly.memSound {s t : State} (h : LinesOnly s t) (hs : MemSound s) : MemSound t := by
  obtain ⟨⟨hp, hn, hb⟩, -⟩ := hs
  refine ⟨⟨?_, ?_, h.busy.trans hb⟩, h.clean⟩
  · rw [h.frame]; exact hp
  · rw [h.frame]; exact hn

/-! ## A write of the module's own, whether memory serves it or not -/

/-- `t` is as `s` where a write of the module's own does not look: the switch core, the RTE, the end points and the tick. -/
structure AwayKept (s t : State) : Prop where
  swc : t.swc = s.swc
  eps : t.eps = s.eps
  rte : t.rte = s.rte
  now : t.tick.now = s.tick.now
  node : s.pwr.node ≠ 4 → t.pwr.node ≠ 4

theorem AwayKept.trans {s t u : State} (h : AwayKept s t) (k : AwayKept t u) : AwayKept s u :=
  ⟨k.swc.trans h.swc, k.eps.trans h.eps, k.rte.trans h.rte, k.now.trans h.now, fun hs => k.node (h.node hs)⟩

theorem FaultOnly.awayKept {s t : State} (h : FaultOnly s t) : AwayKept s t := by
  unfold FaultOnly at h
  rw [h]
  exact ⟨rfl, rfl, rfl, rfl, id⟩

theorem MemOnly.awayKept {s t : State} (h : MemOnly s t) : AwayKept s t := by
  have hk := FaultOnly.awayKept h
  exact ⟨hk.swc, hk.eps, hk.rte, hk.now, hk.node⟩

theorem notePoisonIn_awayKept (ls : List Nat) (s : State) : AwayKept s (notePoisonIn ls s) := by
  unfold notePoisonIn
  split
  case h_1 l _ =>
    have hk := (devFault0_only 0x82 sevWarn (lineChan l) (lineLocal l) (setRepro 0 s)).awayKept
    exact ⟨hk.swc, hk.eps, hk.rte, hk.now, hk.node⟩
  case h_2 => exact ⟨rfl, rfl, rfl, rfl, id⟩

theorem wakeNode_awayKept {s : State} (h : s.pwr.node ≠ 4) : AwayKept s (wakeNode s) := by
  unfold wakeNode
  split
  · exact ⟨rfl, rfl, rfl, rfl, id⟩
  · dsimp only
    rw [if_neg h]
    exact ⟨rfl, rfl, rfl, rfl, fun _ => (by decide : (0 : BitVec 3) ≠ 4)⟩

theorem dieWrite_awayKept {s : State} (h : s.pwr.node ≠ 4) (off : Nat) (data : List Byte) : AwayKept s (dieWrite off data s).2 := by
  refine (wakeNode_awayKept h).trans ?_
  unfold dieWrite
  dsimp only
  split
  · exact ⟨rfl, rfl, rfl, rfl, id⟩
  · refine (memWrite_memOnly (linesOf off data.length) off data.length data true (fun _ new => new) (wakeNode s)).awayKept.trans ?_
    dsimp only
    split
    · exact notePoisonIn_awayKept ..
    · exact ⟨rfl, rfl, rfl, rfl, id⟩

end Sys2Proof.Machine
end

section
/-! SUPPORT. Flow control, the auditor and the congestion map (R137-R141, R185). -/

namespace Sys2Proof.Machine

open Sys2Proof

/-! ## Flow control (R141) -/

/-- A hop record at a port sets the four classes of its peer there, and no other. -/
theorem peerOff_fold (p : Nat) (x : Byte) (cs : List Nat) (t : Tab Bool) :
    (∀ c ∈ cs, tabGet false (cs.foldl (fun t c => tabSet false t (pcKey p c) (bitAt x c)) t) (pcKey p c) = bitAt x c)
      ∧ ∀ k, (∀ c ∈ cs, k ≠ pcKey p c) → tabGet false (cs.foldl (fun t c => tabSet false t (pcKey p c) (bitAt x c)) t) k = tabGet false t k := by
  induction cs generalizing t with
  | nil => exact ⟨fun _ h => (List.not_mem_nil h).elim, fun _ _ => rfl⟩
  | cons d cs ih =>
    obtain ⟨hin, hout⟩ := ih (tabSet false t (pcKey p d) (bitAt x d))
    rw [List.foldl_cons]
    refine ⟨fun c hc => ?_, fun k hk => ?_⟩
    · by_cases hcs : c ∈ cs
      · exact hin c hcs
      · obtain rfl : c = d := (List.mem_cons.mp hc).resolve_right hcs
        rw [hout _ fun e he h => hcs (by unfold pcKey at h; rwa [show c = e by omega]), tabGet_set_same]
    · rw [hout k fun c hc => hk c (List.mem_cons_of_mem _ hc), tabGet_set_other _ _ _ (hk d List.mem_cons_self)]

/-- What a hop record leaves. -/
theorem setPeerOff_all (p : Nat) (x : Byte) (s : State) : let t := setPeerOff p x s
    (∀ c, c < 4 → peerOff t p c = bitAt x c) ∧ (∀ q c, q ≠ p → c < 4 → peerOff t q c = peerOff s q c) ∧ (s.rte.cmapEn = false → t.rte = s.rte)
      ∧ t = { s with swc := { s.swc with peerOff := t.swc.peerOff }, rte := { s.rte with cmapPorts := t.rte.cmapPorts } } := by
  obtain ⟨hin, hout⟩ := peerOff_fold p x (List.range 4) s.swc.peerOff
  have hsw : (setPeerOff p x s).swc
      = { s.swc with peerOff := (List.range 4).foldl (fun t c => tabSet false t (pcKey p c) (bitAt x c)) s.swc.peerOff } := by
    unfold setPeerOff cmapMod
    dsimp only
    split <;> rfl
  refine ⟨fun c hc => ?_, fun q c hq hc => ?_, fun hen => ?_, ?_⟩
  · unfold peerOff
    rw [hsw]
    exact hin c (List.mem_range.mpr hc)
  · unfold peerOff
    rw [hsw]
    refine hout _ fun d hd h => hq ?_
    have hd4 := List.mem_range.mp hd
    unfold pcKey at h
    omega
  · unfold setPeerOff cmapMod
    dsimp only
    rw [if_neg (by rw [show (modSwc _ s).rte = s.rte from rfl, hen]; exact Bool.false_ne_true)]
    rfl
  · unfold setPeerOff cmapMod
    dsimp only
    split <;> rfl

theorem setPeerOff_unobserved {s : State} (h : Unobserved s) (p : Nat) (x : Byte) : Unobserved (setPeerOff p x s) := by
  obtain ⟨-, -, -, hframe⟩ := setPeerOff_all p x s
  rw [hframe]
  exact h

section Flow
variable {s : State} {p : Nat} {hop : Header} (ht : isTrunk s p = true) (hr : receives s p = true)
include ht hr

theorem flowFrame_hop (hg : hopGood hop = true) : flowFrame p none hop s = setPeerOff p (hopXoff hop) s := by
  unfold flowFrame
  rw [ht, hr]
  exact if_pos hg

theorem flowFrame_bad (hg : hopGood hop = false) : flowFrame p none hop s = s := by
  unfold flowFrame
  rw [ht, hr]
  dsimp only
  rw [hg]
  rfl

/-- A whole FLOW frame with a good hop record and HCHK: the peer's state is set, and then its other fields are checked. -/
theorem flowFrame_whole {wb : Header} (hg : hopGood hop = true) (hh : wbHchk wb = hdrCheck wb) : ∃ cyc,
    flowFrame p (some wb) hop s = flowIn p cyc wb (setPeerOff p (hopXoff hop) { unrest p s with freeCount := s.freeCount + 1 }) := by
  have hfree : (unrest p s).freeCount = s.freeCount := by unfold unrest; split <;> rfl
  unfold flowFrame takeFree
  rw [ht, hr]
  dsimp only
  rw [hg, hfree, Bool.and_self, Bool.not_true, if_neg Bool.false_ne_true, if_neg Bool.false_ne_true, if_neg (fun h => h hh)]
  exact ⟨_, rfl⟩

end Flow

theorem flowIn_good {p cyc : Nat} {wb : Header} {s : State} (hu : Unobserved s) (h : bitsOf wb 0 224 = 0xC03F) : flowIn p cyc wb s = s := by
  unfold flowIn
  rw [if_neg (fun hn => hn h), mirror_unobserved hu]

/-- A FLOW frame with another field that is not 0 is discarded by check 3. -/
theorem flowIn_bad {p cyc : Nat} {wb : Header} {s : State} (hu : Unobserved s) (h : bitsOf wb 0 224 ≠ 0xC03F) :
    FaultOnly (bumpErr p 16 s) (flowIn p cyc wb s) ∧ (s.glb.faults.length < 1024 → Recorded (flowIn p cyc wb s) 0x21 sevWarn p) := by
  unfold flowIn
  rw [if_pos h]
  exact discarded_recorded (u := bumpErr p 16 s) hu

/-! ## The auditor (R137-R139) -/

theorem freeCell_leak (port c x : Nat) (s : State) : (freeCell port c x s).pool.leak = s.pool.leak := by
  unfold freeCell
  split
  · rfl
  · have hf := devFault_only 0x27 sevError 0 0xFF (x / 65536) x 0xFFF (modPool (fun p => { p with
      dfree := true, lastCell := BitVec.ofNat 22 x, dfreeCnt := satAdd p.dfreeCnt 1 }) s)
    rw [hf.fields.2.2.2.2.1]
    rfl

theorem freeCells_one_leak (port c x : Nat) (s : State) : (freeCells port c [x] s).pool.leak = s.pool.leak := by
  unfold freeCells
  exact (congrArg Pool.leak (poolSettle_settled port c (freeCell port c x s)).pool_eq).trans (freeCell_leak port c x s)

/-- A cell that has leaked sets LEAK. -/
theorem leakCell_leak (x : Nat) (s : State) : (leakCell x s).pool.leak = true := by
  have hf := devFault0_only 0x28 sevError (x / 65536) x
    (modPool (fun p => { p with leak := true, lastCell := BitVec.ofNat 22 x, leakCnt := satAdd p.leakCnt 1 }) s)
  unfold leakCell
  dsimp only
  generalize devFault0 _ _ _ _ _ = u at hf ⊢
  have hu : u.pool.leak = true := congrArg Pool.leak hf.fields.2.2.2.2.1
  split
  · split
    · exact hu
    · exact (freeCells_one_leak ..).trans hu
  · exact hu

theorem leakCells_leak (l : List Nat) (s : State) (h : s.pool.leak = true ∨ l ≠ []) : (forEach l leakCell s).pool.leak = true := by
  induction l generalizing s with
  | nil => exact h.resolve_right fun hn => hn rfl
  | cons x l ih => exact ih _ (.inl (leakCell_leak x s))

/-- A pass starts: the checks of every bank, then those of the cells that no frame owns, and BANK. -/
theorem auditPass_starts {s : State} (hen : s.pool.auditEn = true) (ha : s.pool.auditActive = false) :
    auditPass s = modPool (fun p => { p with
      auditActive := true
      auditBank := BitVec.ofNat 6 ((Config.freeBits (forEach (s.pool.alloc.filter fun x => !(ownedCells s).contains x) leakCell (forEach (List.range 48) countCheck s)).freeCount).toNat % 48) })
      { forEach (s.pool.alloc.filter fun x => !(ownedCells s).contains x) leakCell (forEach (List.range 48) countCheck s) with
        freeCount := (forEach (s.pool.alloc.filter fun x => !(ownedCells s).contains x) leakCell (forEach (List.range 48) countCheck s)).freeCount + 1 } := by
  unfold auditPass takeFree
  rw [hen, ha]
  rfl

/-- A pass over a buffer whose cells are owned and counted. -/
theorem auditPass_sound {s : State} (hen : s.pool.auditEn = true) (ha : s.pool.auditActive = false) (howned : ∀ x ∈ s.pool.alloc, x ∈ ownedCells s)
    (hcount : ∀ b, b < 48 → 65536 - (bankAlloc s b).length = tabGet 65536 s.pool.freeLen b) :
    auditPass s = modPool (fun p => { p with auditActive := true, auditBank := BitVec.ofNat 6 ((Config.freeBits s.freeCount).toNat % 48) })
      { s with freeCount := s.freeCount + 1 } := by
  have hnone : (s.pool.alloc.filter fun x => !(ownedCells s).contains x) = [] := by
    rw [List.filter_eq_nil_iff]
    intro x hx
    simp [howned x hx]
  have hchecks : forEach (List.range 48) countCheck s = s := forEach_fixed fun b hb => if_pos (hcount b (List.mem_range.mp hb))
  rw [auditPass_starts hen ha, hnone, hchecks]
  rfl

theorem auditPass_leak {s : State} (hen : s.pool.auditEn = true) (ha : s.pool.auditActive = false) {x : Nat} (hx : x ∈ s.pool.alloc) (hno : ¬ x ∈ ownedCells s) :
    (auditPass s).pool.leak = true ∧ (auditPass s).pool.auditActive = true := by
  have hsome : (s.pool.alloc.filter fun x => !(ownedCells s).contains x) ≠ [] :=
    List.ne_nil_of_mem (List.mem_filter.mpr ⟨hx, by simp [hno]⟩)
  rw [auditPass_starts hen ha]
  exact ⟨leakCells_leak _ _ (.inr hsome), rfl⟩

/-! ## The congestion map (R185) -/

/-- A map's end: its three writes, and the counts start again. -/
theorem cmapPeriod_written {s : State} (hen : s.rte.cmapEn = true) (h4 : s.pwr.node ≠ 4) : ∃ u, AwayKept s u
    ∧ (MemSound s → LinesOnly s u)
    ∧ cmapPeriod true s = modRte (fun r => { r with
        cmapCount := s.rte.cmapCount + 1, cmapPorts := cmapFresh u, cmapStart := u.tick.now, cmapRetx := 0, cmapTimeout := 0, cmapPeriods := 0 })
        { u with freeCount := u.freeCount + 512 } := by
  have hk1 := dieWrite_awayKept h4 (s.rte.cmapBase.toNat + (s.rte.cmapCount + 1).toNat % 2 * 0x2000) (zeros 8)
  have hl1 := fun hs : MemSound s => (dieWrite_sound hs (s.rte.cmapBase.toNat + (s.rte.cmapCount + 1).toNat % 2 * 0x2000) (zeros 8)).2
  unfold cmapPeriod
  rw [hen]
  dsimp only
  generalize (dieWrite _ (zeros 8) s).2 = a at hk1 hl1 ⊢
  have hk2 := dieWrite_awayKept (hk1.node h4) (s.rte.cmapBase.toNat + (s.rte.cmapCount + 1).toNat % 2 * 0x2000 + 8) (cmapBody s)
  have hl2 := fun hs : MemSound a => (dieWrite_sound hs (s.rte.cmapBase.toNat + (s.rte.cmapCount + 1).toNat % 2 * 0x2000 + 8) (cmapBody s)).2
  generalize (dieWrite _ (cmapBody s) a).2 = b at hk2 hl2 ⊢
  have hk3 := dieWrite_awayKept (hk2.node (hk1.node h4)) (s.rte.cmapBase.toNat + (s.rte.cmapCount + 1).toNat % 2 * 0x2000) (bvBytes (s.rte.cmapCount + 1))
  have hl3 := fun hs : MemSound b => (dieWrite_sound hs (s.rte.cmapBase.toNat + (s.rte.cmapCount + 1).toNat % 2 * 0x2000) (bvBytes (s.rte.cmapCount + 1))).2
  generalize (dieWrite _ (bvBytes (s.rte.cmapCount + 1)) b).2 = u at hk3 hl3 ⊢
  refine ⟨u, hk1.trans (hk2.trans hk3), fun hs => ?_, rfl⟩
  have h1 := hl1 hs
  have h2 := hl2 (h1.memSound hs)
  exact h1.trans (h2.trans (hl3 (h2.memSound (h1.memSound hs))))

/-- Settles O40: the hop record and the FLOW frame, then the auditor's passes, then the map's periods. -/
theorem flowAuditAndCongestionMaps : Obligations.FlowAuditAndCongestionMaps := by
  refine ⟨fun s p hop hcl hp ht hr => ?_, fun s hcl => ⟨fun hen ha => ⟨fun howned hcount => ?_, fun x hx hno => ?_⟩, fun ha => ?_, fun hen => ⟨?_, ?_⟩⟩⟩
  · have hexec : ∀ m, exec (.flowFrame p m hop) s = .next (keepFixed s (flowFrame p m hop s)) := fun m => core_next hcl (decide_eq_true hp)
    have hswc : (unrest p s).swc = s.swc := unrest_swc p s
    have hparts : unrest p s = { s with pwr := (unrest p s).pwr } := by unfold unrest; split <;> rfl
    refine ⟨fun hg => ?_, fun hg => ?_, fun wb hg hh hz hu => ?_, fun wb hg hh hnz hu => ?_, ?_⟩
    · obtain ⟨hown, hothers, hrte, hframe⟩ := setPeerOff_all p (hopXoff hop) s
      have hkeep : keepFixed s (setPeerOff p (hopXoff hop) s) = setPeerOff p (hopXoff hop) s := by
        rw [hframe]
        rfl
      rw [hexec, flowFrame_hop ht hr hg, hkeep]
      exact ⟨_, rfl, hown, hothers, hrte, hframe⟩
    · rw [hexec, flowFrame_bad ht hr hg]
      rfl
    · obtain ⟨cyc, hw⟩ := flowFrame_whole ht hr hg hh
      have hun : Unobserved { unrest p s with freeCount := s.freeCount + 1 } := unobserved_unrest p hu
      obtain ⟨hown, hothers, hrte, hframe⟩ := setPeerOff_all p (hopXoff hop) { unrest p s with freeCount := s.freeCount + 1 }
      rw [flowIn_good (setPeerOff_unobserved hun p _) hz] at hw
      have hrte := hrte hun.2
      rw [hexec, hw]
      generalize setPeerOff p (hopXoff hop) { unrest p s with freeCount := s.freeCount + 1 } = t at hown hothers hrte hframe ⊢
      have hall : t = { s with swc := { s.swc with peerOff := t.swc.peerOff }, pwr := (unrest p s).pwr, freeCount := s.freeCount + 1 } := by
        refine hframe.trans ?_
        rw [hrte, ← hswc]
        generalize unrest p s = w at hparts ⊢
        rw [hparts]
      have hkeep : keepFixed s t = t := by rw [hall]; rfl
      rw [hkeep]
      refine ⟨_, rfl, hown, fun q c hq hc => (hothers q c hq hc).trans ?_, hall⟩
      unfold peerOff
      rw [← hswc]
    · obtain ⟨cyc, hw⟩ := flowFrame_whole ht hr hg hh
      have hun : Unobserved { unrest p s with freeCount := s.freeCount + 1 } := unobserved_unrest p hu
      obtain ⟨-, -, -, hframe⟩ := setPeerOff_all p (hopXoff hop) { unrest p s with freeCount := s.freeCount + 1 }
      obtain ⟨hfo, hrec⟩ := flowIn_bad (p := p) (cyc := cyc) (setPeerOff_unobserved hun p (hopXoff hop)) hnz
      refine ⟨_, hexec _, ?_⟩
      rw [hw]
      generalize setPeerOff p (hopXoff hop) { unrest p s with freeCount := s.freeCount + 1 } = v at hframe hfo hrec ⊢
      have hglb : v.glb = s.glb := by rw [hframe, hparts]
      have herr : v.swc.portErr = s.swc.portErr := by rw [hframe, ← hswc]
      refine ⟨?_, fun hroom => hrec (by rw [hglb]; exact hroom)⟩
      rw [← herr]
      exact (congrArg (fun w : Swc => tabGet 0 w.portErr p) hfo.fields.2.2.1).trans (tabGet_mod_same 0 v.swc.portErr p (bumpField · 16 8))
    · refine (core_next hcl (decide_eq_true hp)).trans ?_
      unfold flowRepeat
      rw [ht, hr]
      rfl
  · refine ⟨_, coreLive_next hcl, ?_⟩
    rw [auditPass_sound hen ha howned hcount]
    refine ⟨rfl, ?_, rfl⟩
    show (BitVec.ofNat 6 ((Config.freeBits s.freeCount).toNat % 48)).toNat < 48
    rw [BitVec.toNat_ofNat]
    omega
  · exact ⟨_, coreLive_next hcl, auditPass_leak hen ha hx hno⟩
  · refine (coreLive_next hcl).trans ?_
    unfold auditPassEnd
    rw [ha]
    rfl
  · refine (coreLive_next hcl).trans ?_
    unfold cmapPeriod
    rw [hen]
    rfl
  · obtain ⟨u, hk, hl, hu⟩ := cmapPeriod_written hen hcl.2
    have hfresh : cmapFresh u = cmapFresh s := by unfold cmapFresh; rw [hk.swc]
    refine ⟨_, coreLive_next hcl, ?_⟩
    rw [hu, hfresh, hk.now]
    refine ⟨?_, hk.swc, hk.eps, fun hs => ?_⟩
    · unfold modRte keepFixed
      dsimp only
      rw [hk.rte]
    · have hf := (hl hs).frame
      rw [hf]
      exact ⟨rfl, rfl⟩

end Sys2Proof.Machine
end

section
/-! SUPPORT. Admission points (R166-R172): held frames, what a frame's place in its series leads to, and the fields of an answer. -/

namespace Sys2Proof.Machine

open Sys2Proof

/-! ## The fields of a response (R172) -/

/-- A field that is written whole reads as written. -/
theorem bitsOf_hdrPut_same (h : Header) {off n : Nat} (x : Nat) (hle : off + n ≤ 32) : bitsOf (hdrPut h off n x) (8 * off) (8 * n) = BitVec.ofNat (8 * n) x := by
  ext i hi
  have hmask : (BitVec.ofNat 256 ((2 ^ (8 * n) - 1) * 2 ^ (8 * off))).getLsbD (8 * off + i) = true := by
    rw [BitVec.getLsbD_ofNat, Nat.testBit_mul_two_pow, decide_eq_true (by omega : 8 * off + i < 256), decide_eq_true (by omega : 8 * off ≤ 8 * off + i),
      Nat.add_sub_cancel_left, Nat.testBit_two_pow_sub_one, decide_eq_true hi]
    rfl
  have hval : (BitVec.ofNat 256 ((x % 2 ^ (8 * n)) * 2 ^ (8 * off))).getLsbD (8 * off + i) = x.testBit i := by
    rw [BitVec.getLsbD_ofNat, Nat.testBit_mul_two_pow, decide_eq_true (by omega : 8 * off + i < 256), decide_eq_true (by omega : 8 * off ≤ 8 * off + i),
      Nat.add_sub_cancel_left, Nat.testBit_mod_two_pow, decide_eq_true hi]
    rfl
  rw [bitsOf, BitVec.getElem_extractLsb', hdrPut, BitVec.getLsbD_or, BitVec.getLsbD_and, BitVec.getLsbD_not, hmask, hval, ← BitVec.getLsbD_eq_getElem hi, BitVec.getLsbD_ofNat, decide_eq_true hi]
  simp

theorem bitsOf_hdrPut_below (h : Header) {off n x lo k : Nat} (hle : lo + k ≤ 8 * off) : bitsOf (hdrPut h off n x) lo k = bitsOf h lo k := by
  ext i hi
  rw [bitsOf, bitsOf, BitVec.getElem_extractLsb', BitVec.getElem_extractLsb', getLsbD_hdrPut_below h (by omega)]

section Response
variable (req : Header) {type : Byte} (status : Byte) {rflags : Nat} (ht : type ≠ 0x11) (hr : rflags < 256)
include ht hr

/-- The fields of a response without data, as one number below HCHK. -/
theorem toNat_respWb {lo n : Nat} (hle : lo + n ≤ 224) : (bitsOf (respWb req type status rflags 0) lo n).toNat =
    (type.toNat + 128 * 2 ^ 8 + (wbPlane req).toNat * 2 ^ 24 + (wbDst req).toNat * 2 ^ 32 + (wbSrc req).toNat * 2 ^ 48
      + (status.toNat + rflags * 2 ^ 8) * 2 ^ 64 + (wbSeq req).toNat * 2 ^ 128 + (wbTag req).toNat * 2 ^ 152) / 2 ^ lo % 2 ^ n := by
  have htype := type.isLt
  have hplane := (wbPlane req).isLt
  have hdst := (wbDst req).isLt
  have hsrc := (wbSrc req).isLt
  have hstatus := status.isLt
  have hseq := (wbSeq req).isLt
  have htag := (wbTag req).isLt
  unfold respWb mkWb
  rw [bitsOf_sealHdr _ hle, if_neg ht, bitsOf, BitVec.extractLsb'_toNat, BitVec.toNat_ofNat, Nat.shiftRight_eq_div_pow]
  have hcode : classCode .rsp = 2 := rfl
  refine congrArg (fun x => x / 2 ^ lo % 2 ^ n) ?_
  dsimp only
  rw [hcode]
  omega

theorem wbType_respWb : wbType (respWb req type status rflags 0) = type := by
  apply BitVec.eq_of_toNat_eq
  have htype := type.isLt
  rw [wbType, toNat_respWb req status ht hr (by decide)]
  omega

theorem wbDst_respWb : wbDst (respWb req type status rflags 0) = wbSrc req := by
  apply BitVec.eq_of_toNat_eq
  have htype := type.isLt
  have hplane := (wbPlane req).isLt
  have hdst := (wbDst req).isLt
  have hsrc := (wbSrc req).isLt
  rw [wbDst, toNat_respWb req status ht hr (by decide)]
  omega

theorem wbSeq_respWb : wbSeq (respWb req type status rflags 0) = wbSeq req := by
  apply BitVec.eq_of_toNat_eq
  have htype := type.isLt
  have hplane := (wbPlane req).isLt
  have hdst := (wbDst req).isLt
  have hsrc := (wbSrc req).isLt
  have hstatus := status.isLt
  have hseq := (wbSeq req).isLt
  rw [wbSeq, toNat_respWb req status ht hr (by decide)]
  omega

theorem wbTag_respWb : wbTag (respWb req type status rflags 0) = wbTag req := by
  apply BitVec.eq_of_toNat_eq
  have htype := type.isLt
  have hplane := (wbPlane req).isLt
  have hdst := (wbDst req).isLt
  have hsrc := (wbSrc req).isLt
  have hstatus := status.isLt
  have hseq := (wbSeq req).isLt
  have htag := (wbTag req).isLt
  rw [wbTag, toNat_respWb req status ht hr (by decide)]
  omega

theorem rspReason_respWb : rspReason (respWb req type status rflags 0) = rflags % 16 := by
  have htype := type.isLt
  have hplane := (wbPlane req).isLt
  have hdst := (wbDst req).isLt
  have hsrc := (wbSrc req).isLt
  have hstatus := status.isLt
  rw [rspReason, toNat_respWb req status ht hr (by decide)]
  omega

theorem rspBySeq_respWb : rspBySeq (respWb req type status rflags 0) = decide (rflags / 16 % 2 = 1) := by
  have htype := type.isLt
  have hplane := (wbPlane req).isLt
  have hdst := (wbDst req).isLt
  have hsrc := (wbSrc req).isLt
  have hstatus := status.isLt
  have hbit : rspBySeq (respWb req type status rflags 0) = decide ((bitsOf (respWb req type status rflags 0) 76 1).toNat = 1) := by
    rw [rspBySeq, bitAt, bitsOf, BitVec.extractLsb'_toNat, Nat.shiftRight_eq_div_pow, ← BitVec.testBit_toNat, Nat.testBit_eq_decide_div_mod_eq]
  rw [hbit, toNat_respWb req status ht hr (by decide)]
  refine decide_eq_decide.mpr ?_
  omega

end Response

/-! ## Frames held for reorder (R167) -/

section Held
variable {s : State} {p : Point}

theorem nothingHeld_rxOf (h : NothingHeld s p) (key : Nat) : (rxOf s p key).held = [] := tabGet_of_all (P := fun x : RxState => x.held = []) rfl h key

theorem rxOf_modRx_same (key : Nat) (f : RxState → RxState) : rxOf (modRx p key f s) p key = f (rxOf s p key) := by
  unfold rxOf modRx
  rw [relOf_modRel]
  exact tabGet_mod_same _ _ _ _

theorem rxOf_modRx_other {key k : Nat} (f : RxState → RxState) (h : k ≠ key) : rxOf (modRx p key f s) p k = rxOf s p k := by
  unfold rxOf modRx
  rw [relOf_modRel]
  exact tabGet_mod_other _ _ _ h

/-- No held frame is the one that is due in its series. -/
def NoneDue (s : State) (p : Point) : Prop := ∀ e ∈ (relOf s p).rx, ∀ q ∈ e.2.held, seqCount (wbSeq q.frame.wb) ≠ e.2.e

theorem NothingHeld.noneDue (h : NothingHeld s p) : NoneDue s p := fun e he q hq => by
  rw [h e he] at hq
  exact (List.not_mem_nil hq).elim

theorem NoneDue.modRx (h : NoneDue s p) {key : Nat} {f : RxState → RxState} (hf : ∀ q ∈ (f (rxOf s p key)).held, seqCount (wbSeq q.frame.wb) ≠ (f (rxOf s p key)).e) :
    NoneDue (modRx p key f s) p := fun e he => by
  unfold Machine.modRx at he
  rw [relOf_modRel] at he
  rcases mem_tabMod he with he | rfl
  · exact h e he
  · exact hf

theorem retryHeld_none (h : NoneDue s p) : retryHeld p s = s := by
  refine forEach_fixed fun e he => ?_
  have hnone : (e.2.held.find? fun q => decide (seqCount (wbSeq q.frame.wb) = e.2.e)) = none :=
    List.find?_eq_none.mpr fun q hq hd => h e he q hq (of_decide_eq_true hd)
  rw [hnone]

theorem heldCount_none (h : NothingHeld s p) : heldCount s p = 0 := by
  unfold heldCount
  refine List.sum_eq_zero fun n hn => ?_
  obtain ⟨e, he, rfl⟩ := List.mem_map.mp hn
  rw [h e he]
  rfl

end Held

theorem NoneDue.congr {s t : State} {p : Point} (h : NoneDue s p) (hr : (relOf t p).rx = (relOf s p).rx) : NoneDue t p := by
  unfold NoneDue
  rw [hr]
  exact h

theorem rxSettle_parts (x : RxState) : ∃ d, rxSettle x = { x with d := d } := by
  unfold rxSettle
  split <;> exact ⟨_, rfl⟩

end Sys2Proof.Machine
end

section
/-! SUPPORT. FRAME_ADMIT and GAP_NACK (R119, R166-R170, R172, R233). -/

namespace Sys2Proof.Machine

open Sys2Proof

/-! ## What a point's own steps keep -/

theorem keepFixed_modRel (p : Point) (f : Rel → Rel) (s : State) : keepFixed s (modRel p f s) = modRel p f s := by cases p <;> rfl

theorem keepFixed_sent (port : Nat) (fr : Frame) (p : Point) (f : Rel → Rel) (s : State) :
    keepFixed s (emitFrame port fr (modRel p f s)) = emitFrame port fr (modRel p f s) := by cases p <;> rfl

theorem enters_emitFrame (port : Nat) (fr : Frame) (p : Point) (f : Rel → Rel) (s : State) : Enters s (emitFrame port fr (modRel p f s)) port fr := by
  unfold Enters
  rw [inbound_emitFrame, modRel_swc]

/-- A NACK is sent and counted. -/
theorem sendNack_eq (p : Point) (wb : Header) (reason : Nat) (status : Byte) (dup : Bool) (s : State) (h : reason ≠ 2 ∧ reason ≠ 4) :
    sendNack p wb reason status dup s = emitFrame (answerPort p wb) (mkFrame (respWb wb 0x12 status (rflagsOf reason false dup (wbKind wb)) 0) [])
      (modRel p (fun r => { r with nackTx := satAdd r.nackTx 1 }) s) := by
  have hz : ∀ r : Rel, satAdd r.fullNack (ofB (decide (reason = 2) || decide (reason = 4))) = r.fullNack := fun r => by
    rw [decide_eq_false h.1, decide_eq_false h.2]
    exact satAdd_zero _
  unfold sendNack sendLoose
  simp only [hz]

/-! ## FRAME_ADMIT -/

theorem wbKind_ordered {wb : Header} (h : wbClass wb = 0) : wbKind wb = 0 := by
  unfold wbKind
  rw [if_neg (by omega)]

theorem genOlder_self (g : BitVec 4) : genOlder g g = false := by
  rw [genOlder, BitVec.sub_self]
  rfl

theorem genNewer_self (g : BitVec 4) : genNewer g g = false := by
  rw [genNewer, BitVec.sub_self]
  rfl

section Admission
variable {s : State} {port : Nat} {f : Frame}

theorem frameAdmit_awake (hc : wbClass f.wb ≤ 1) (hq : svcQueueFull s port f.wb = false) (ha : portAsleep s port = false) (b : Bool) :
    frameAdmit port (.given f) b s = admission (pointAt port) port ⟨f, port, []⟩ b s := by
  unfold frameAdmit
  dsimp only
  rw [hq, if_neg (fun h => h.elim (fun h => absurd h (by omega)) Bool.false_ne_true), ha]
  rfl

variable {p : Point} (hchk : wbHchk f.wb = hdrCheck f.wb)
include hchk

theorem admission_straddles (hc : wbClass f.wb = 1) : admission p port ⟨f, port, []⟩ true s = flushed 1 s := by
  unfold admission discardHeld freeCells
  dsimp only
  rw [if_neg (fun h => h hchk), hc]
  rfl

theorem admission_damaged (hg : frameGood f = false) : admission p port ⟨f, port, []⟩ false s = sendNack p f.wb 1 0 false s := by
  unfold admission discardHeld freeCells
  dsimp only
  rw [if_neg (fun h => h hchk), Bool.and_false, hg]
  rfl

theorem admission_older (hg : frameGood f = true) (ho : genOlder (seqGen (wbSeq f.wb)) (rxOf s p (seriesKey (wbSrc f.wb) (wbKind f.wb))).g = true) :
    admission p port ⟨f, port, []⟩ false s = lateDisc p s := by
  unfold admission discardHeld freeCells
  dsimp only
  rw [if_neg (fun h => h hchk), Bool.and_false, hg, ho]
  rfl

/-- An ordered frame of the current generation goes by its COUNT. -/
theorem admission_ordered (hg : frameGood f = true) (he : seqGen (wbSeq f.wb) = (rxOf s p (seriesKey (wbSrc f.wb) (wbKind f.wb))).g) (hc : wbClass f.wb = 0) :
    admission p port ⟨f, port, []⟩ false s = retryHeld p (admitOrdered p port ⟨f, port, []⟩ s) := by
  have hc1 : ¬ wbClass f.wb = 1 := by omega
  unfold admission
  dsimp only
  rw [if_neg (fun h => h hchk), Bool.and_false, hg, he, genOlder_self, genNewer_self, if_neg hc1]
  rfl

end Admission

/-! ## Places in the series (R167) -/

/-- A frame of the series leaves it: E advances, and no frame of its COUNT stays held. -/
def passed (c : BitVec 20) (x : RxState) : RxState := { x with e := x.e + 1, held := x.held.filter fun q => decide (seqCount (wbSeq q.frame.wb) ≠ c) }

/-- A frame waits for its answer. -/
def owed (q : BitVec 24) (x : RxState) : RxState := rxSettle { x with unanswered := x.unanswered ++ [q] }

theorem owed_parts (q : BitVec 24) (x : RxState) : ∃ d, owed q x = { x with unanswered := x.unanswered ++ [q], d := d } :=
  rxSettle_parts { x with unanswered := x.unanswered ++ [q] }

theorem rxOf_ageDedup (p : Point) (key k : Nat) (c : BitVec 20) (s : State) : rxOf (ageDedup p key c s) p k = rxOf s p k := by
  unfold rxOf ageDedup
  rw [relOf_modRel]

section Ordered
variable {s : State} {p : Point} {port : Nat} {h : HeldFrame}

theorem admitOrdered_due (hn : NothingHeld s p) (hroom : dedupRoom s p h.frame.wb = true)
    (hc : seqCount (wbSeq h.frame.wb) = (rxOf s p (seriesKey (wbSrc h.frame.wb) 0)).e) :
    admitOrdered p port h s = admitFrame p port h (modRx p (seriesKey (wbSrc h.frame.wb) 0) (passed (seqCount (wbSeq h.frame.wb))) s) := by
  unfold admitOrdered
  dsimp only
  rw [if_pos hc, hroom, nothingHeld_rxOf hn]
  rfl

theorem admitOrdered_ahead (hn : NothingHeld s p) (hne : seqCount (wbSeq h.frame.wb) ≠ (rxOf s p (seriesKey (wbSrc h.frame.wb) 0)).e)
    (hp : countPrecedes (rxOf s p (seriesKey (wbSrc h.frame.wb) 0)).e (seqCount (wbSeq h.frame.wb)) = true)
    (hw : (seqCount (wbSeq h.frame.wb) - (rxOf s p (seriesKey (wbSrc h.frame.wb) 0)).e).toNat < 2048) :
    admitOrdered p port h s = modRx p (seriesKey (wbSrc h.frame.wb) 0) (fun x => { x with held := x.held ++ [h] }) s := by
  have hmax : ¬ heldMax p ≤ heldCount s p := by
    rw [heldCount_none hn]
    cases p with
    | ep n => exact (by decide : ¬ 2048 ≤ 0)
    | rte => exact (by decide : ¬ 16384 ≤ 0)
  unfold admitOrdered
  dsimp only
  rw [if_neg hne, hp, decide_eq_true hw, nothingHeld_rxOf hn, if_neg hmax]
  rfl

theorem admitOrdered_behind (hne : seqCount (wbSeq h.frame.wb) ≠ (rxOf s p (seriesKey (wbSrc h.frame.wb) 0)).e)
    (hp : countPrecedes (rxOf s p (seriesKey (wbSrc h.frame.wb) 0)).e (seqCount (wbSeq h.frame.wb)) = false)
    (hb : countPrecedes (seqCount (wbSeq h.frame.wb)) (rxOf s p (seriesKey (wbSrc h.frame.wb) 0)).e = true) :
    admitOrdered p port h s = answerDuplicate p port h.frame (discardHeld h s) := by
  unfold admitOrdered
  dsimp only
  rw [if_neg hne, hp, hb]
  rfl

end Ordered

/-- A STORE needs no dedup entry. -/
theorem needsDedup_store {wb : Header} (h : wbType wb = 0x02) : needsDedup wb = false := by
  unfold needsDedup
  rw [h]
  decide

/-- A STORE to stacked memory joins its channel's queue. -/
theorem admitFrame_store {s : State} {port : Nat} {f : Frame} (ht : wbType f.wb = 0x02) (hr : regionOf (addrOff (wbAddr f.wb)) = .stacked) :
    admitFrame .rte port ⟨f, port, []⟩ s = modChan (channelOf (addrOff (wbAddr f.wb))) (fun c => { c with queue := c.queue ++
        [{ op := .store, off := BitVec.ofNat 52 (addrOff (wbAddr f.wb)), len := wbLength f.wb, subop := wbSubop f.wb, dtype := wbDtype f.wb
           data := f.payload.take (wbLength f.wb), sched := false, poison := f.poison, back := .request .rte f.wb false }] })
      (modRx .rte (seriesKey (wbSrc f.wb) (wbKind f.wb)) (owed (wbSeq f.wb)) (ageDedup .rte (seriesKey (wbSrc f.wb) (wbKind f.wb)) (seqCount (wbSeq f.wb)) s)) := by
  unfold admitFrame consume consumeNode
  dsimp only
  rw [needsDedup_store ht, hr, ht]
  rfl

/-- A duplicate of a STORE that its consumer has answered is answered again. -/
theorem answerDuplicate_store {s : State} {p : Point} {port : Nat} {f : Frame} (ht : wbType f.wb = 0x02)
    (hd : countPrecedes (seqCount (wbSeq f.wb)) (rxOf s p (seriesKey (wbSrc f.wb) (wbKind f.wb))).d = true) :
    answerDuplicate p port f s = emitFrame (answerPort p f.wb) (mkFrame (respWb f.wb 0x10 0 (rflagsOf 0 false true (wbKind f.wb)) 0) [])
      (modRel p (fun r => { r with dupRx := satAdd r.dupRx 1 }) s) := by
  unfold answerDuplicate
  dsimp only
  rw [ht, hd]
  rfl

/-- What the due STORE leaves. -/
theorem admission_due {s : State} {f : Frame} (hchk : wbHchk f.wb = hdrCheck f.wb) (hg : frameGood f = true)
    (he : seqGen (wbSeq f.wb) = (rxOf s .rte (seriesKey (wbSrc f.wb) (wbKind f.wb))).g) (hc : wbClass f.wb = 0) (hn : NothingHeld s .rte)
    (hdue : seqCount (wbSeq f.wb) = (rxOf s .rte (seriesKey (wbSrc f.wb) (wbKind f.wb))).e) (ht : wbType f.wb = 0x02)
    (hr : regionOf (addrOff (wbAddr f.wb)) = .stacked) (port : Nat) : let key := seriesKey (wbSrc f.wb) (wbKind f.wb)
    admission .rte port ⟨f, port, []⟩ false s = modChan (channelOf (addrOff (wbAddr f.wb))) (fun c => { c with queue := c.queue ++
        [{ op := .store, off := BitVec.ofNat 52 (addrOff (wbAddr f.wb)), len := wbLength f.wb, subop := wbSubop f.wb, dtype := wbDtype f.wb
           data := f.payload.take (wbLength f.wb), sched := false, poison := f.poison, back := .request .rte f.wb false }] })
      (modRx .rte key (owed (wbSeq f.wb)) (ageDedup .rte key (seqCount (wbSeq f.wb)) (modRx .rte key (passed (seqCount (wbSeq f.wb))) s))) := by
  have hk := wbKind_ordered hc
  have hroom : dedupRoom s .rte f.wb = true := by
    unfold dedupRoom
    rw [needsDedup_store ht]
    rfl
  have hheld : ∀ key, ((passed (seqCount (wbSeq f.wb)) (rxOf s .rte key))).held = [] := fun key => by
    unfold passed
    rw [nothingHeld_rxOf hn]
    rfl
  dsimp only
  rw [admission_ordered hchk hg he hc, admitOrdered_due (h := ⟨f, port, []⟩) hn hroom (by rw [← hk]; exact hdue), admitFrame_store ht hr, hk]
  refine retryHeld_none ?_
  have h1 : NoneDue (modRx .rte (seriesKey (wbSrc f.wb) 0) (passed (seqCount (wbSeq f.wb))) s) .rte := hn.noneDue.modRx fun q hq => by
    rw [hheld] at hq
    exact (List.not_mem_nil hq).elim
  have h2 : NoneDue (ageDedup .rte (seriesKey (wbSrc f.wb) 0) (seqCount (wbSeq f.wb)) (modRx .rte (seriesKey (wbSrc f.wb) 0) (passed (seqCount (wbSeq f.wb))) s)) .rte := h1.congr rfl
  have h3 := h2.modRx (key := seriesKey (wbSrc f.wb) 0) (f := owed (wbSeq f.wb)) fun q hq => by
    obtain ⟨d, hd⟩ := owed_parts (wbSeq f.wb) (passed (seqCount (wbSeq f.wb)) (rxOf s .rte (seriesKey (wbSrc f.wb) 0)))
    have hx : rxOf (ageDedup .rte (seriesKey (wbSrc f.wb) 0) (seqCount (wbSeq f.wb)) (modRx .rte (seriesKey (wbSrc f.wb) 0) (passed (seqCount (wbSeq f.wb))) s)) .rte
        (seriesKey (wbSrc f.wb) 0) = passed (seqCount (wbSeq f.wb)) (rxOf s .rte (seriesKey (wbSrc f.wb) 0)) :=
      (rxOf_ageDedup ..).trans (rxOf_modRx_same _ _)
    rw [hx, hd] at hq
    dsimp only at hq
    rw [hheld] at hq
    exact (List.not_mem_nil hq).elim
  exact h3.congr rfl

theorem modRel_rte (f : Rel → Rel) (s : State) : modRel .rte f s = { s with rte := { s.rte with rel := f s.rte.rel } } := rfl

/-- The state that admits a frame into channel `ch`, for any changes of its receive state and of the channel. -/
theorem queued_all (ch key : Nat) (c : BitVec 20) (g : Channel → Channel) (f1 f2 : RxState → RxState) (s : State) :
    let t := modChan ch g (modRx .rte key f2 (ageDedup .rte key c (modRx .rte key f1 s)))
    keepFixed s t = t ∧ rxOf t .rte key = f2 (f1 (rxOf s .rte key)) ∧ chanOf t ch = g (chanOf s ch) ∧ t.mem.cells = s.mem.cells ∧ t.swc = s.swc ∧ t.eps = s.eps := by
  have hrx : rxOf (modRx .rte key f2 (ageDedup .rte key c (modRx .rte key f1 s))) .rte key = f2 (f1 (rxOf s .rte key)) := by
    rw [rxOf_modRx_same, rxOf_ageDedup, rxOf_modRx_same]
  obtain ⟨r, hr⟩ : ∃ r, modRx .rte key f2 (ageDedup .rte key c (modRx .rte key f1 s)) = { s with rte := r } := by
    unfold modRx ageDedup
    simp only [modRel_rte]
    exact ⟨_, rfl⟩
  dsimp only
  rw [hr] at hrx ⊢
  exact ⟨rfl, hrx, chanOf_modChan ch g _, rfl, rfl, rfl⟩

/-- The waybill of the frame that is due in a gap, as its NACK answers it (R169). -/
def gapWb (wb : Header) (due : BitVec 24) : Header := hdrPut (hdrPut wb 16 3 due.toNat) 19 3 0

theorem wbSeq_gapWb (wb : Header) (due : BitVec 24) : wbSeq (gapWb wb due) = due :=
  (bitsOf_hdrPut_below _ (by decide)).trans ((bitsOf_hdrPut_same wb due.toNat (off := 16) (n := 3) (by decide)).trans
    ((BitVec.ofNat_toNat 24 due).trans (BitVec.setWidth_eq due)))

theorem wbTag_gapWb (wb : Header) (due : BitVec 24) : wbTag (gapWb wb due) = 0 := bitsOf_hdrPut_same _ 0 (off := 19) (n := 3) (by decide)

theorem wbSrc_gapWb (wb : Header) (due : BitVec 24) : wbSrc (gapWb wb due) = wbSrc wb :=
  (bitsOf_hdrPut_below _ (by decide)).trans (bitsOf_hdrPut_below _ (by decide))

theorem gapNack_held {s : State} {p : Point} {src : BitVec 12} {h : HeldFrame} {rest : List HeldFrame} (hx : (rxOf s p (seriesKey src 0)).held = h :: rest) :
    gapNack p src s = emitFrame (answerPort p h.frame.wb)
      (mkFrame (respWb (gapWb h.frame.wb (mkSeq (rxOf s p (seriesKey src 0)).g (rxOf s p (seriesKey src 0)).e)) 0x12 0 (rflagsOf 3 true false 0) 0) [])
      (modRel p (fun r => { r with nackTx := satAdd r.nackTx 1 }) s) := by
  unfold gapNack
  dsimp only
  rw [hx]
  rfl

/-- Settles O41: the checks of admission in their order, then the frame's place in its series; and the NACK of a gap. -/
theorem admissionFollowsTheSequence : Obligations.AdmissionFollowsTheSequence := by
  refine ⟨fun s port f hcl hport hcls hq => ⟨fun ha b => ?_, fun ha hchk => ?_⟩, fun s p src h rest hcl hp hx => ?_⟩
  · refine (core_next hcl (decide_eq_true hport)).trans ?_
    unfold frameAdmit
    dsimp only
    rw [hq, if_neg (fun h => h.elim (fun h => absurd h (by omega)) Bool.false_ne_true), ha]
    rfl
  · intro p key x c nack go
    have hexec : ∀ b, exec (.frameAdmit port (.given f) b) s = .next (keepFixed s (admission p port ⟨f, port, []⟩ b s)) := fun b =>
      (core_next hcl (decide_eq_true hport)).trans (by rw [frameAdmit_awake hcls hq ha])
    refine ⟨fun hc => ?_, fun hg => ?_, fun hg ho => ?_, fun hg he hc hn => ⟨fun hdue h64 ht hr => ?_, fun hpre hw hne => ?_, fun hne hpre hbeh ht hd => ?_⟩⟩
    · rw [hexec, admission_straddles hchk hc]
      rfl
    · rw [hexec, admission_damaged hchk hg, sendNack_eq _ _ _ _ _ _ (by decide), keepFixed_sent]
      exact ⟨_, rfl, enters_emitFrame _ _ _ _ _, by rw [relOf_emitFrame, relOf_modRel]⟩
    · show exec (.frameAdmit port (.given f) false) s = _
      rw [hexec, admission_older hchk hg ho]
      exact congrArg Host.Outcome.next (keepFixed_modRel _ _ _)
    · subst h64
      intro ch off
      have hadm := admission_due hchk hg he hc hn hdue ht hr 64
      obtain ⟨d, hd⟩ := owed_parts (wbSeq f.wb) (passed c x)
      obtain ⟨hkeep, hrx, hch, hmem, hswc, heps⟩ := queued_all ch key c (fun k => { k with queue := k.queue ++
        [{ op := .store, off := BitVec.ofNat 52 off, len := wbLength f.wb, subop := wbSubop f.wb, dtype := wbDtype f.wb
           data := f.payload.take (wbLength f.wb), sched := false, poison := f.poison, back := .request .rte f.wb false }] }) (passed c) (owed (wbSeq f.wb)) s
      refine ⟨_, (hexec false).trans (congrArg Host.Outcome.next ((congrArg (keepFixed s) hadm).trans hkeep)), ?_, ?_, hch, hmem, hswc, heps⟩
      · exact (congrArg RxState.e (hrx.trans hd)).trans rfl
      · exact (congrArg RxState.unanswered (hrx.trans hd)).trans rfl
    · have hk : key = seriesKey (wbSrc f.wb) 0 := congrArg _ (wbKind_ordered hc)
      have hpre' : countPrecedes (rxOf s p (seriesKey (wbSrc f.wb) 0)).e c = true := hk ▸ hpre
      have hadm : admission p port ⟨f, port, []⟩ false s = modRx p key (fun x => { x with held := x.held ++ [⟨f, port, []⟩] }) s := by
        rw [admission_ordered hchk hg he hc, admitOrdered_ahead (h := ⟨f, port, []⟩) hn (hk ▸ hne) hpre' (hk ▸ hw), hk]
        refine retryHeld_none (hn.noneDue.modRx fun q hq => ?_)
        rw [nothingHeld_rxOf hn] at hq
        rw [List.mem_singleton.mp hq]
        exact hk ▸ hne
      refine ⟨_, hexec false, ?_⟩
      rw [hadm]
      refine ⟨(rxOf_modRx_same key _).trans ?_, fun k hkey => rxOf_modRx_other _ hkey, ?_, ?_⟩
      · rw [nothingHeld_rxOf hn]
        rfl
      · exact modRel_mem p _ s
      · exact modRel_swc p _ s
    · have hk0 := wbKind_ordered hc
      have hk : key = seriesKey (wbSrc f.wb) 0 := congrArg _ hk0
      have hadm : admission p port ⟨f, port, []⟩ false s = emitFrame (answerPort p f.wb) (mkFrame (respWb f.wb 0x10 0 (rflagsOf 0 false true 0) 0) [])
          (modRel p (fun r => { r with dupRx := satAdd r.dupRx 1 }) s) := by
        rw [admission_ordered hchk hg he hc, admitOrdered_behind (h := ⟨f, port, []⟩) (hk ▸ hne) (hk ▸ hpre) (hk ▸ hbeh)]
        refine (congrArg (retryHeld p) (answerDuplicate_store ht hd)).trans ?_
        rw [hk0]
        exact retryHeld_none (hn.noneDue.congr (by rw [relOf_emitFrame, relOf_modRel]))
      rw [hexec, hadm, keepFixed_sent]
      exact ⟨_, rfl, by rw [relOf_emitFrame, relOf_modRel], enters_emitFrame _ _ _ _ _, modRel_mem p _ s⟩
  · intro x due
    refine ⟨_, _, (core_next hcl hp).trans (congrArg Host.Outcome.next ((congrArg (keepFixed s) (gapNack_held hx)).trans (keepFixed_sent _ _ _ _ _))),
      enters_emitFrame _ _ _ _ _, rfl, ?_, ?_, ?_, ?_, ?_, ?_, ?_, fun k => ?_⟩
    · exact wbType_respWb _ _ (by decide) (by decide)
    · exact rspReason_respWb _ _ (by decide) (by decide)
    · exact rspBySeq_respWb _ _ (by decide) (by decide)
    · exact (wbSeq_respWb _ _ (by decide) (by decide)).trans (wbSeq_gapWb _ _)
    · exact (wbTag_respWb _ _ (by decide) (by decide)).trans (wbTag_gapWb _ _)
    · exact (wbDst_respWb _ _ (by decide) (by decide)).trans (wbSrc_gapWb _ _)
    · rw [relOf_emitFrame, relOf_modRel]
    · unfold rxOf
      rw [relOf_emitFrame, relOf_modRel]

end Sys2Proof.Machine
end

section
/-! SUPPORT. Responses at a source (R84, R158, R173, R174, R193): a context that is resent, and a direct request that ends. -/

namespace Sys2Proof.Machine

open Sys2Proof

/-! ## Resending (R174) -/

theorem ctxOf_modCtx (p : Point) (i : Nat) (f : Ctx → Ctx) (s : State) : ctxOf (modCtx p i f s) p i = f (ctxOf s p i) := by
  unfold ctxOf modCtx
  rw [relOf_modRel]
  exact tabGet_mod_same _ _ _ _

theorem ctxOf_modCtx_other (p : Point) {i j : Nat} (f : Ctx → Ctx) (s : State) (h : j ≠ i) : ctxOf (modCtx p i f s) p j = ctxOf s p j := by
  unfold ctxOf modCtx
  rw [relOf_modRel]
  exact tabGet_mod_other _ _ _ h

/-- What the congestion map counts is no part of a point. -/
theorem relOf_cmapRetx (p : Point) (n : Nat) (s : State) : relOf (modRte (fun r => { r with cmapRetx := n }) s) p = relOf s p := by
  cases p <;> rfl

/-- What a resent frame leaves. -/
theorem resendCtx_all (p : Point) (i a : Nat) (s : State) : let t := resendCtx p i a s
    ctxOf t p i = { ctxOf s p i with attempt := a, atExpiry := false } ∧ (relOf t p).retx = satAdd (relOf s p).retx 1
      ∧ Enters s t (ctxOf s p i).port (resendOf (ctxOf s p i).frame) ∧ keepFixed s t = t := by
  have hrel : relOf (resendCtx p i a s) p = { relOf s p with ctxs := tabMod {} (relOf s p).ctxs i (fun c => { c with attempt := a, atExpiry := false })
                                                             retx := satAdd (relOf s p).retx 1 } := by
    unfold resendCtx modCtx
    dsimp only
    rw [relOf_emitFrame]
    refine (relOf_cmapRetx p _ _).trans ?_
    rw [relOf_modRel, relOf_modRel]
  refine ⟨?_, ?_, ?_, ?_⟩
  · unfold ctxOf
    rw [hrel]
    exact tabGet_mod_same ({} : Ctx) (relOf s p).ctxs i (fun c => { c with attempt := a, atExpiry := false })
  · rw [hrel]
  · unfold Enters resendCtx modCtx
    dsimp only
    rw [inbound_emitFrame]
    refine congrArg (· ++ _) (congrArg (fun w : Swc => tabGet [] w.inbound _) ?_)
    show (modRel p _ (modRel p _ s)).swc = s.swc
    rw [modRel_swc, modRel_swc]
  · cases p <;> rfl

/-! ## Responses that are taken (R158, R173) -/

section Taken
variable {s : State} {p : Point} {f : Frame} {type : Byte}

theorem takeAnswer_good (hg : frameGood f = true) (ht : wbType f.wb = type) (g : Frame → State → State) : takeAnswer p type (.given f) g s = g f s := by
  unfold takeAnswer
  dsimp only
  rw [if_pos ht, if_pos hg]

theorem takeResponse_late (hm : matchTag s p f.wb = none) (data : Header → List Byte → List Byte) : takeResponse p data f s = lateDisc p s := by
  unfold takeResponse
  rw [hm]

theorem takeResponse_ends {i : Nat} (hm : matchTag s p f.wb = some i) (hi : (ctxOf s p i).st = .issued) (data : Header → List Byte → List Byte) :
    takeResponse p data f s = completeCtx p i (rspStatus f.wb) (data f.wb f.payload) s := by
  unfold takeResponse
  rw [hm]
  exact if_pos hi

theorem takeNack_late (hb : rspBySeq f.wb = false) (hm : matchTag s p f.wb = none) : takeNack p f s = lateDisc p s := by
  unfold takeNack
  dsimp only
  rw [hb, if_neg Bool.false_ne_true, hm]

theorem takeNack_matched {i : Nat} (hb : rspBySeq f.wb = false) (hm : matchTag s p f.wb = some i) (hi : (ctxOf s p i).st = .issued) :
    takeNack p f s = if rspReason f.wb = 5 then completeCtx p i 0x14 [] s
      else if rspReason f.wb = 2 ∨ rspReason f.wb = 4 then modCtx p i (fun c => { c with atExpiry := true }) s
      else nextAttempt p i s := by
  unfold takeNack
  dsimp only
  rw [hb, if_neg Bool.false_ne_true, hm]
  exact if_neg fun h => h hi

end Taken

/-! ## A direct request that ends (R84, R193) -/

/-- A context returns to FREE, at the tail of the list. -/
def freedRel (i : Nat) (r : Rel) : Rel := { r with ctxs := tabMod {} r.ctxs i (fun c => { gen := c.gen + 1 }), freedCtx := r.freedCtx ++ [i] }

/-- The block once a direct request has its RSP. -/
def directEnded (i : Nat) (m : AttachMsg) (e : Ep) : Ep := { e with rel := freedRel i e.rel, sent := e.sent ++ [m] }

/-- The RSP that answers a direct request. -/
def directRsp (tag : BitVec 24) (status : Byte) (d : List Byte) : AttachMsg :=
  mkMsg (mkHdr 0xC1 1 ((pad32 d).length / 32) [(2, tag.toNat), (5, status.toNat)]) (pad32 d)

theorem modRel_ep (n : Nat) (f : Rel → Rel) (s : State) : modRel (.ep n) f s = modEp n (fun e => { e with rel := f e.rel }) s := rfl

/-- An RSP leaves at once where the controller takes A-RSP, and its context is free. -/
theorem rspToCtl_now {n : Nat} (tag : BitVec 24) (status : Byte) (d : List Byte) (i : Nat) {s : State} (hoff : (epOf s n).offRspRx = false)
    (hwait : (epOf s n).rspWait = []) (ha : (epOf s n).attach ≠ .down) (hq : (portOf s n).quiet = false) :
    EpOnly s (rspToCtl n tag status d (some i) s) n ∧ epOf (rspToCtl n tag status d (some i) s) n = directEnded i (directRsp tag status d) (epOf s n) := by
  have he : rspToCtl n tag status d (some i) s = freeCtx (.ep n) i (epSend n (directRsp tag status d)
      (modEp n (fun e => { e with rspWait := [] }) (modEp n (fun e => { e with rspWait := e.rspWait ++ [(directRsp tag status d, some i)] }) s))) := by
    unfold rspToCtl flushRsp
    dsimp only
    rw [epOf_modEp]
    dsimp only
    rw [hoff, if_neg (by decide), hwait]
    rfl
  obtain ⟨u, hu, honly, hep, hlanes⟩ : ∃ u, rspToCtl n tag status d (some i) s = freeCtx (.ep n) i (epSend n (directRsp tag status d) u) ∧ EpOnly s u n
      ∧ epOf u n = epOf s n ∧ u.lanes = s.lanes := by
    refine ⟨_, he, (modEp_epOnly _ _ _).trans (modEp_epOnly _ _ _), ?_, rfl⟩
    rw [epOf_modEp, epOf_modEp]
    dsimp only
    rw [← hwait]
  have hquiet : (portOf u n).quiet = false := by
    unfold portOf
    rw [hlanes]
    exact hq
  rw [hu]
  unfold freeCtx
  rw [modRel_ep]
  refine ⟨honly.trans ((epSend_epOnly _ _ _).trans (modEp_epOnly _ _ _)), ?_⟩
  rw [epOf_modEp, epOf_epSend (by rw [hep]; exact ha) hquiet, hep]
  rfl

/-- Nothing held and no refusal waits: nothing is released. -/
theorem releaseHeldN_none {n : Nat} {s : State} (hheld : ∀ e ∈ (epOf s n).rel.ctxs, e.2.st ≠ .held) (href : (epOf s n).refusals = []) (k : Nat) :
    releaseHeldN n k s = s := by
  have hnone : ((epOf s n).rel.ctxs.find? fun x => decide (x.2.st = .held) && releasable (epOf s n) x.2) = none :=
    List.find?_eq_none.mpr fun e he h => hheld e he (of_decide_eq_true (Bool.and_eq_true_iff.mp h).1)
  cases k with
  | zero => rfl
  | succ k =>
    unfold releaseHeldN
    dsimp only
    rw [hnone, href]
    rfl

theorem mem_tabMod_ne {α : Type} [DecidableEq α] {d : α} {t : Tab α} {k : Nat} {f : α → α} {e : Nat × α} (h : e ∈ tabMod d t k f) :
    (e ∈ t ∧ e.1 ≠ k) ∨ e = (k, f (tabGet d t k)) := by
  unfold tabMod tabSet tabDel at h
  split at h
  · obtain ⟨hm, hne⟩ := List.mem_filter.mp h
    exact .inl ⟨hm, of_decide_eq_true hne⟩
  · refine (mem_tabPut h).imp (fun h => ?_) id
    obtain ⟨hm, hne⟩ := List.mem_filter.mp h
    exact ⟨hm, of_decide_eq_true hne⟩

theorem mem_tabPut_self {α : Type} (t : Tab α) (k : Nat) (x : α) : (k, x) ∈ tabPut t k x := by
  induction t with
  | nil => exact List.mem_singleton.mpr rfl
  | cons e t ih =>
    obtain ⟨i, v⟩ := e
    unfold tabPut
    split
    · exact List.mem_cons_self
    · split
      · exact List.mem_cons_self
      · exact List.mem_cons_of_mem _ ih

theorem mem_tabMod_self {α : Type} [DecidableEq α] {d : α} {t : Tab α} {k : Nat} {f : α → α} (h : f (tabGet d t k) ≠ d) : (k, f (tabGet d t k)) ∈ tabMod d t k f := by
  unfold tabMod tabSet
  rw [if_neg h]
  exact mem_tabPut_self _ _ _

/-- A context whose response has come, as it waits to be answered. -/
def heldCtx (status : Byte) (d : List Byte) (c : Ctx) : Ctx := { c with st := .held, status := status, data := d }

/-- The one HELD direct context of a block is answered, and the block holds none. -/
theorem releaseHeldN_one {n i : Nat} {s : State} {tag : BitVec 24} {ord : Nat} {op : Byte} {win : BitVec 10}
    (hheld : (ctxOf s (.ep n) i).st = .held) (how : (ctxOf s (.ep n) i).owner = .direct tag ord op win) (hsil : (ctxOf s (.ep n) i).silent = false)
    (hmem : (i, ctxOf s (.ep n) i) ∈ (epOf s n).rel.ctxs)
    (hothers : ∀ e ∈ (epOf s n).rel.ctxs, e.1 ≠ i → e.2.st ≠ .held ∧ (ctxOpen e.2 = true → ctxDirect e.2 = none))
    (honly : ∀ e ∈ (epOf s n).rel.ctxs, e.1 = i → e.2 = ctxOf s (.ep n) i)
    (hoff : (epOf s n).offRspRx = false) (hwait : (epOf s n).rspWait = []) (href : (epOf s n).refusals = [])
    (ha : (epOf s n).attach ≠ .down) (hq : (portOf s n).quiet = false) (k : Nat) :
    EpOnly s (releaseHeldN n (k + 1) s) n
      ∧ epOf (releaseHeldN n (k + 1) s) n = directEnded i (directRsp tag (ctxOf s (.ep n) i).status (ctxOf s (.ep n) i).data) (epOf s n) := by
  have hdir : ctxDirect (ctxOf s (.ep n) i) = some ord := by
    unfold ctxDirect
    rw [how]
  have hrel : releasable (epOf s n) (ctxOf s (.ep n) i) = true := by
    unfold releasable
    rw [hdir, href]
    refine Bool.and_eq_true_iff.mpr ⟨List.all_eq_true.mpr fun x hx => ?_, rfl⟩
    cases hd : ctxDirect x.2 with
    | none => rfl
    | some q =>
      by_cases hxi : x.1 = i
      · have hqo : q = ord := by
          rw [honly x hx hxi, hdir] at hd
          exact (Option.some.inj hd).symm
        simp [hqo]
      · have hclosed : ctxOpen x.2 = false := by
          cases ho : ctxOpen x.2 with
          | false => rfl
          | true =>
            rw [(hothers x hx hxi).2 ho] at hd
            cases hd
        simp [hclosed]
  have hfind : ((epOf s n).rel.ctxs.find? fun x => decide (x.2.st = .held) && releasable (epOf s n) x.2) = some (i, ctxOf s (.ep n) i) := by
    cases hf : (epOf s n).rel.ctxs.find? fun x => decide (x.2.st = .held) && releasable (epOf s n) x.2 with
    | none =>
      have hno := List.find?_eq_none.mp hf _ hmem
      rw [decide_eq_true hheld, hrel] at hno
      exact (hno rfl).elim
    | some e =>
      have hmem := List.mem_of_find?_eq_some hf
      have hpred : (decide (e.2.st = .held) && releasable (epOf s n) e.2) = true := List.find?_some (p := fun x : Nat × Ctx => decide (x.2.st = .held) && releasable (epOf s n) x.2) hf
      have hh : e.2.st = .held := of_decide_eq_true (Bool.and_eq_true_iff.mp hpred).1
      have hei : e.1 = i := Classical.byContradiction fun hne => (hothers e hmem hne).1 hh
      rw [← honly e hmem hei, ← hei]
  have hstep : releaseHeldN n (k + 1) s = releaseHeldN n k (rspToCtl n tag (ctxOf s (.ep n) i).status (ctxOf s (.ep n) i).data (some i)
      (modCtx (.ep n) i (fun c => { c with st := .done }) s)) := by
    conv_lhs => unfold releaseHeldN
    dsimp only
    rw [hfind]
    dsimp only
    rw [how]
    dsimp only
    rw [hsil]
    rfl
  have hdone : epOf (modCtx (.ep n) i (fun c => { c with st := .done }) s) n
      = { epOf s n with rel := { (epOf s n).rel with ctxs := tabMod {} (epOf s n).rel.ctxs i fun c => { c with st := .done } } } := epOf_modRel ..
  obtain ⟨h1, h2⟩ := rspToCtl_now tag (ctxOf s (.ep n) i).status (ctxOf s (.ep n) i).data i (s := modCtx (.ep n) i (fun c => { c with st := .done }) s)
    (by rw [hdone]; exact hoff) (by rw [hdone]; exact hwait) (by rw [hdone]; exact ha) hq
  have hend : ∀ m, directEnded i m (epOf (modCtx (.ep n) i (fun c => { c with st := .done }) s) n) = directEnded i m (epOf s n) := fun m => by
    rw [hdone]
    unfold directEnded freedRel
    simp only [tabMod_mod]
  rw [hend] at h2
  have h1' : EpOnly s (rspToCtl n tag (ctxOf s (.ep n) i).status (ctxOf s (.ep n) i).data (some i) (modCtx (.ep n) i (fun c => { c with st := .done }) s)) n :=
    (modEp_epOnly n _ s).trans h1
  rw [hstep]
  generalize rspToCtl _ _ _ _ _ _ = v at h1' h2 ⊢
  rw [releaseHeldN_none _ (by rw [h2]; exact href)]
  · exact ⟨h1', h2⟩
  · intro e he
    rw [h2] at he
    have hmod : e ∈ tabMod {} (epOf s n).rel.ctxs i (fun c => { gen := c.gen + 1 }) := he
    rcases mem_tabMod_ne hmod with ⟨hm, hne⟩ | rfl
    · exact (hothers e hm hne).1
    · exact fun h => by cases h

/-- A response to a direct request ends it at once where nothing of its block waits. -/
theorem completeCtx_direct {n i : Nat} {s : State} {tag : BitVec 24} {ord : Nat} {op : Byte} {win : BitVec 10} (status : Byte) (d : List Byte)
    (hi : (ctxOf s (.ep n) i).st = .issued) (how : (ctxOf s (.ep n) i).owner = .direct tag ord op win) (hsil : (ctxOf s (.ep n) i).silent = false)
    (hothers : ∀ e ∈ (epOf s n).rel.ctxs, e.1 ≠ i → e.2.st ≠ .held ∧ (ctxOpen e.2 = true → ctxDirect e.2 = none))
    (hoff : (epOf s n).offRspRx = false) (hwait : (epOf s n).rspWait = []) (href : (epOf s n).refusals = [])
    (ha : (epOf s n).attach ≠ .down) (hq : (portOf s n).quiet = false) :
    EpOnly s (completeCtx (.ep n) i status d s) n ∧ epOf (completeCtx (.ep n) i status d s) n = directEnded i (directRsp tag status d) (epOf s n) := by
  have hopen : ctxOpen (ctxOf s (.ep n) i) = true := by
    unfold ctxOpen
    rw [hi]
    rfl
  have hc : completeCtx (.ep n) i status d s = releaseHeld n (modCtx (.ep n) i (heldCtx status d) s) := by
    unfold completeCtx
    dsimp only
    rw [hopen, how]
    rfl
  have hep : epOf (modCtx (.ep n) i (heldCtx status d) s) n
      = { epOf s n with rel := { (epOf s n).rel with ctxs := tabMod {} (epOf s n).rel.ctxs i (heldCtx status d) } } := epOf_modRel ..
  have hctx := ctxOf_modCtx (.ep n) i (heldCtx status d) s
  have hin : ∀ e ∈ (epOf (modCtx (.ep n) i (heldCtx status d) s) n).rel.ctxs,
      (e ∈ (epOf s n).rel.ctxs ∧ e.1 ≠ i) ∨ e = (i, ctxOf (modCtx (.ep n) i (heldCtx status d) s) (.ep n) i) := fun e he => by
    rw [hep] at he
    rw [hctx]
    exact mem_tabMod_ne he
  have hone := releaseHeldN_one (s := modCtx (.ep n) i (heldCtx status d) s) (tag := tag) (ord := ord) (op := op) (win := win)
    (by rw [hctx]; rfl) (by rw [hctx]; exact how) (by rw [hctx]; exact hsil)
    (by
      rw [hctx, hep]
      exact mem_tabMod_self fun h => by
        have hst : CtxState.held = .free := congrArg Ctx.st h
        cases hst)
    (fun e he hne => (hin e he).elim (fun h => hothers e h.1 hne) fun h => absurd (congrArg Prod.fst h) hne)
    (fun e he hei => (hin e he).elim (fun h => absurd hei h.2) fun h => congrArg Prod.snd h)
    (by rw [hep]; exact hoff) (by rw [hep]; exact hwait) (by rw [hep]; exact href) (by rw [hep]; exact ha) hq
  rw [hctx, hep] at hone
  obtain ⟨h1, h2⟩ := hone ((epOf (modCtx (.ep n) i (heldCtx status d) s) n).rel.ctxs.length + (epOf (modCtx (.ep n) i (heldCtx status d) s) n).refusals.length)
  rw [hc]
  refine ⟨(modEp_epOnly n _ s).trans h1, h2.trans ?_⟩
  unfold directEnded freedRel heldCtx
  simp only [tabMod_mod]

/-- Settles O42: a response that matches no context, then one that ends a direct request, then the NACKs by their REASON. -/
theorem responsesCompleteContexts : Obligations.ResponsesCompleteContexts := by
  intro s p f hcl hp hg
  have hack : exec (.rspAck p (.given f)) s = .next (keepFixed s (takeAnswer p 0x10 (.given f) (takeResponse p fun _ _ => []) s)) := core_next hcl hp
  have hdata : exec (.rspData p (.given f)) s = .next (keepFixed s (takeAnswer p 0x11 (.given f) (takeResponse p fun wb pl => pl.take (wbLength wb)) s)) := core_next hcl hp
  have hnack : exec (.rspNack p (.given f)) s = .next (keepFixed s (takeAnswer p 0x12 (.given f) (takeNack p) s)) := core_next hcl hp
  have hlate : keepFixed s (lateDisc p s) = lateDisc p s := keepFixed_modRel _ _ _
  refine ⟨fun c hc hm => ?_, fun i n tag ord op win hpn hm hi how hsil hothers hoff hwait href ha hq c d hc => ?_, fun i hm hi ht hb => ?_⟩
  · rcases hc with ⟨rfl, ht⟩ | ⟨rfl, ht⟩ | ⟨rfl, ht, hb⟩
    · rw [hack, takeAnswer_good hg ht, takeResponse_late hm, hlate]
      rfl
    · rw [hdata, takeAnswer_good hg ht, takeResponse_late hm, hlate]
      rfl
    · rw [hnack, takeAnswer_good hg ht, takeNack_late hb hm, hlate]
      rfl
  · subst hpn
    obtain ⟨honly, hep⟩ := completeCtx_direct (rspStatus f.wb) d hi how hsil hothers hoff hwait href ha hq
    have hexec : exec c s = .next (completeCtx (.ep n) i (rspStatus f.wb) d s) := by
      rcases hc with ⟨rfl, ht, rfl⟩ | ⟨rfl, ht, rfl⟩
      · rw [hack, takeAnswer_good hg ht, takeResponse_ends hm hi, honly.kept]
      · rw [hdata, takeAnswer_good hg ht, takeResponse_ends hm hi, honly.kept]
    have hctx : ∀ j, ctxOf (completeCtx (.ep n) i (rspStatus f.wb) d s) (.ep n) j = tabGet {} (freedRel i (epOf s n).rel).ctxs j := fun j =>
      congrArg (fun e : Ep => tabGet ({} : Ctx) e.rel.ctxs j) hep
    refine ⟨_, hexec, honly, ?_, congrArg (fun e : Ep => e.rel.freedCtx) hep, fun j hj => ?_, congrArg Ep.sent hep⟩
    · rw [hctx]
      exact tabGet_mod_same ({} : Ctx) (epOf s n).rel.ctxs i (fun c => { gen := c.gen + 1 })
    · rw [hctx]
      exact tabGet_mod_other ({} : Ctx) (epOf s n).rel.ctxs (fun c => { gen := c.gen + 1 }) hj
  · rw [hnack, takeAnswer_good hg ht, takeNack_matched hb hm hi]
    refine ⟨fun h5 => by rw [if_pos h5], fun h24 => ?_, fun h1 hk => ?_⟩
    · rw [if_neg (by omega), if_pos h24]
      exact congrArg Host.Outcome.next (keepFixed_modRel _ _ _)
    · obtain ⟨hctx, hretx, hin, hkeep⟩ := resendCtx_all p i ((ctxOf s p i).attempt + 1) s
      rw [if_neg (by omega), if_neg (by omega)]
      unfold nextAttempt
      dsimp only
      rw [if_pos hk, hkeep]
      exact ⟨_, rfl, hctx, hretx, hin⟩

end Sys2Proof.Machine
end

section
/-! SUPPORT. A state that lists one context twice: a flush of its series then counts two timeouts (R175, R182). -/

namespace Sys2Proof.Machine

open Sys2Proof

/-- A context that has used up its attempts. -/
def spentCtx : Ctx := { st := .issued, attempt := 15 }

/-- The state after reset, but with context 0 of the node requester listed twice in its table. Obligations.TimersAndSealsResendAndEnd speaks of
every state, and asks the entries of the OTHER contexts alone to be of another series. -/
def listedTwice : State := modRte (fun r => { r with rel := { r.rel with ctxs := [(0, spentCtx), (0, spentCtx)] } }) State.reset

/-- The count of timeouts of the node requester that a command leaves. -/
def timeoutsAfter (o : Out) : Option Nat := match o with | .next t => some (relOf t .rte).timeout.toNat | _ => none

/-- The timer's flush takes the context once for each entry. -/
theorem timeoutsAfter_listedTwice : timeoutsAfter (exec (.retxTimer .rte 0) listedTwice) = some 2 := by decide

/-- Refutes O43: where the table lists the expired context twice, its series' flush counts TIMEOUT twice, and the statement asks for one. -/
theorem not_timersAndSealsResendAndEnd : ¬ Obligations.TimersAndSealsResendAndEnd := by
  intro h
  have hothers : ∀ e ∈ (relOf listedTwice .rte).ctxs, e.1 ≠ 0 → ¬ (e.2.st = .issued ∧ ctxSeries e.2 = ctxSeries (ctxOf listedTwice .rte 0)) := by
    intro e he hne
    rcases List.mem_cons.mp he with rfl | he
    · exact absurd rfl hne
    · exact absurd (congrArg Prod.fst (List.mem_singleton.mp he)) hne
  obtain ⟨-, hends, -⟩ := h.1 listedTwice .rte 0 0 .ordered 0 ⟨rfl, by decide⟩ rfl (by decide)
  obtain ⟨t, hexec, -, htimeout, -⟩ := hends (.retxTimer .rte 0) List.mem_cons_self rfl rfl (by decide) rfl hothers
  have hone : timeoutsAfter (.next t) = some 1 := by
    show some (relOf t .rte).timeout.toNat = some 1
    rw [htimeout]
    decide
  rw [← hexec, timeoutsAfter_listedTwice] at hone
  exact absurd hone (by decide)

end Sys2Proof.Machine
end

section
/-! SUPPORT. Tally accesses (R269-R273). -/

namespace Sys2Proof.Machine

open Sys2Proof

/-! ## Answers keep the queue, the fuses and the attach buffer -/

/-- `t` has the queue, the fuses and the attach buffer of `s`. -/
def SameFixed (s t : State) : Prop := t.pending = s.pending ∧ t.fuses = s.fuses ∧ t.attachBuf = s.attachBuf

theorem SameFixed.refl (s : State) : SameFixed s s := ⟨rfl, rfl, rfl⟩

theorem SameFixed.trans {s t u : State} (h : SameFixed s t) (k : SameFixed t u) : SameFixed s u :=
  ⟨k.1.trans h.1, k.2.1.trans h.2.1, k.2.2.trans h.2.2⟩

theorem SameFixed.kept {s t : State} (h : SameFixed s t) : keepFixed s t = t := keepFixed_same h.1 h.2.1 h.2.2

theorem FaultOnly.sameFixed {s t : State} (h : FaultOnly s t) : SameFixed s t := h.settled.fixed

theorem modRel_sameFixed (p : Point) (f : Rel → Rel) (s : State) : SameFixed s (modRel p f s) :=
  ⟨modRel_pending p f s, modRel_fuses p f s, modRel_attachBuf p f s⟩

theorem notifyFailed_sameFixed (t : Nat) (s : State) : SameFixed s (notifyFailed t s) :=
  (SameFixed.refl s).trans (FaultOnly.sameFixed (devFault0_only 0x58 sevWarn t 0 (modTly (fun u => { u with
    notifyErrCnt := satAdd u.notifyErrCnt 1, tallies := tabMod {} u.tallies t (fun y => { y with ctl := putBits y.ctl 27 1 1 }) }) s)))

theorem respond_sameFixed (p : Point) (wb : Header) (status : Byte) (data : Option (List Byte)) (dup : Bool) (s : State) :
    SameFixed s (respond p wb status data dup s) := by
  cases data <;> exact ⟨rfl, rfl, rfl⟩

theorem answer_sameFixed (b : Back) (status : Byte) (data : Option (List Byte)) (saved : List Byte) (s : State) : SameFixed s (answer b status data saved s) := by
  cases b with
  | nowhere => exact SameFixed.refl s
  | notify t =>
    unfold answer
    dsimp only
    split
    · exact SameFixed.refl s
    · exact notifyFailed_sameFixed t s
  | request p wb dup =>
    cases dup with
    | true => exact respond_sameFixed ..
    | false =>
      unfold answer
      dsimp only
      rw [if_neg Bool.false_ne_true]
      exact ((modRel_sameFixed p _ s).trans (modRel_sameFixed p _ _)).trans (respond_sameFixed p wb status data false _)

/-- The answer of an access that changes nothing else of `s` than `u` says. -/
theorem next_answer {s u : State} (h : SameFixed s u) (b : Back) (status : Byte) (data : Option (List Byte)) (saved : List Byte) :
    (Host.Outcome.next (keepFixed s (answer b status data saved u)) : Out) = .next (answer b status data saved u) :=
  congrArg Host.Outcome.next (h.trans (answer_sameFixed ..)).kept

/-! ## One tally -/

section Access
variable {a : TlyAcc} {s : State}

theorem applyTally_closed (h : s.mem.tenantBusy = true ∨ 32 ≤ a.off.toNat % 256) : applyTally a s = answer a.back 0x13 none [] s := if_pos h

theorem applyTally_wrong (hb : s.mem.tenantBusy = false) (ho : a.off.toNat % 256 < 32) (hok : tallyAccOk a = false) :
    applyTally a s = answer a.back 0x10 none [] s := by
  unfold applyTally
  dsimp only
  rw [hb, if_neg (fun h => h.elim Bool.false_ne_true (by omega)), hok]
  rfl

variable (hb : s.mem.tenantBusy = false) (ho : a.off.toNat % 256 < 32) (hok : tallyAccOk a = true)
include hb ho hok

theorem applyTally_load (hl : a.op = .load) : applyTally a s
    = answer a.back 0 (some (slice (tallyBytes (tabGet {} s.tly.tallies (a.off.toNat / 256))) (a.off.toNat % 256) a.len)) [] s := by
  unfold applyTally
  dsimp only
  rw [hb, if_neg (fun h => h.elim Bool.false_ne_true (by omega)), hok, hl]
  rfl

/-- An access that writes updates its tally, and an ATOMIC alone answers and keeps the bytes that stood there. -/
theorem applyTally_update (hl : a.op ≠ .load) : applyTally a s
    = answer a.back 0 (if a.op = .atomic ∧ fetches a.subop = true
        then some (slice (tallyBytes (tabGet {} s.tly.tallies (a.off.toNat / 256))) (a.off.toNat % 256) a.len) else none)
      (if a.op = .atomic then slice (tallyBytes (tabGet {} s.tly.tallies (a.off.toNat / 256))) (a.off.toNat % 256) a.len else [])
      (tallyUpdate (a.off.toNat / 256) (tallyWrite a) s) := by
  unfold applyTally
  dsimp only
  rw [hb, if_neg (fun h => h.elim Bool.false_ne_true (by omega)), hok]
  cases hop : a.op with
  | load => exact absurd hop hl
  | store => rfl
  | reduce => rfl
  | atomic =>
    simp only [true_and, if_true]
    rfl

end Access

/-- A tally below its threshold has not fired. -/
theorem tallySettle_below {t : Tally} (h : t.count < t.thresh) : tallySettle t = ({ t with ctl := putBits t.ctl 28 1 0 }, false) := if_pos h

theorem tlyFired_cleared (t : Tally) : tlyFired { t with ctl := putBits t.ctl 28 1 0 } = false := by
  unfold tlyFired bitAt
  rw [getLsbD_putBits]
  simp

/-- Settles O46: an access that is refused, a load, and one that updates its tally. -/
theorem tallyAccessesUpdateOneTally : Obligations.TallyAccessesUpdateOneTally := by
  intro s a hcl hq i o y old go
  have hexec : exec go s = .next (keepFixed s (applyTally a s)) := by
    refine (coreLive_next hcl).trans ?_
    dsimp only
    rw [hq]
    rfl
  refine ⟨fun h => ?_, fun hb ho hok => ?_, fun hb ho hok => ⟨fun hl => ?_, fun hl => ?_⟩⟩
  · rw [hexec, applyTally_closed h, next_answer (SameFixed.refl s)]
  · rw [hexec, applyTally_wrong hb ho hok, next_answer (SameFixed.refl s)]
  · rw [hexec, applyTally_load hb ho hok hl, next_answer (SameFixed.refl s)]
  · have hfix : SameFixed s (tallyUpdate i (tallyWrite a) s) := ⟨rfl, rfl, rfl⟩
    rw [hexec, applyTally_update hb ho hok hl, next_answer hfix]
    refine ⟨_, rfl, tabGet_set_same _ _ _ _, fun k hk => tabGet_set_other _ _ _ hk, rfl, rfl, fun hlt => ⟨?_, ?_⟩⟩
    · have hset : tabGet {} (tallyUpdate i (tallyWrite a) s).tly.tallies i = (tallySettle (tallyWrite a y)).1 := tabGet_set_same _ _ _ _
      rw [hset, tallySettle_below hlt]
      exact tlyFired_cleared _
    · have hcnt : (tallyUpdate i (tallyWrite a) s).tly.fireCnt = satAdd s.tly.fireCnt (ofB (tallySettle (tallyWrite a y)).2) := rfl
      rw [hcnt, tallySettle_below hlt]
      exact satAdd_zero _

end Sys2Proof.Machine
end

section
/-! SUPPORT. Lines of memory (R211, R212, R372): a line's word and its bytes, DRAM, and what a combining buffer shows of a line. -/

namespace Sys2Proof.Machine

open Sys2Proof

/-! ## Bytes and words -/

theorem length_leBytes (n x : Nat) : (leBytes n x).length = n := by
  induction n generalizing x with
  | zero => rfl
  | succ n ih => exact congrArg (· + 1) (ih (x / 256))

theorem leBytes_leNat (bs : List Byte) : leBytes bs.length (leNat bs) = bs := by
  induction bs with
  | nil => rfl
  | cons b bs ih =>
    have hb := b.isLt
    have hhead : BitVec.ofNat 8 (b.toNat + 256 * leNat bs) = b := by
      apply BitVec.eq_of_toNat_eq
      rw [BitVec.toNat_ofNat]
      omega
    have htail : (b.toNat + 256 * leNat bs) / 256 = leNat bs := by omega
    show BitVec.ofNat 8 (b.toNat + 256 * leNat bs) :: leBytes bs.length ((b.toNat + 256 * leNat bs) / 256) = b :: bs
    rw [hhead, htail, ih]

theorem leNat_lt (bs : List Byte) : leNat bs < 256 ^ bs.length := by
  induction bs with
  | nil => exact Nat.one_pos
  | cons b bs ih =>
    have hb := b.isLt
    show b.toNat + 256 * leNat bs < 256 ^ (bs.length + 1)
    rw [Nat.pow_succ]
    omega

theorem leNat_leBytes (n x : Nat) : leNat (leBytes n x) = x % 256 ^ n := by
  induction n generalizing x with
  | zero => exact (Nat.mod_one x).symm
  | succ n ih =>
    have hb : (BitVec.ofNat 8 x).toNat = x % 256 := BitVec.toNat_ofNat x 8
    show (BitVec.ofNat 8 x).toNat + 256 * leNat (leBytes n (x / 256)) = _
    rw [ih, hb, Nat.pow_succ', Nat.mod_mul]

theorem length_bvBytes_line (x : BitVec 512) : (bvBytes x).length = 64 := length_leBytes _ _

theorem toNat_ofNat_fits {w k x : Nat} (h : x < 2 ^ k) (hk : k ≤ w) : (BitVec.ofNat w x).toNat = x := by
  rw [BitVec.toNat_ofNat]
  exact Nat.mod_eq_of_lt (h.trans_le (Nat.pow_le_pow_right (by decide) hk))

/-- The number that 64 bytes spell fits a line's word. -/
theorem leNat_line {bs : List Byte} (h : bs.length = 64) : leNat bs < 2 ^ (8 * 64) := by
  have hlt := leNat_lt bs
  rwa [h, show (256 : Nat) = 2 ^ 8 from rfl, ← Nat.pow_mul] at hlt

/-- A line of 64 bytes is its word. -/
theorem bvBytes_lineWord {bs : List Byte} (h : bs.length = 64) : bvBytes (lineWord bs) = bs := by
  have hw : (lineWord bs).toNat = leNat bs := toNat_ofNat_fits (leNat_line h) (by decide)
  show leBytes 64 (lineWord bs).toNat = bs
  rw [hw, ← h]
  exact leBytes_leNat bs

theorem toNat_lt_bytes {w n : Nat} (x : BitVec w) (h : w ≤ 8 * n) : x.toNat < 256 ^ n := by
  rw [show (256 : Nat) = 2 ^ 8 from rfl, ← Nat.pow_mul]
  exact x.isLt.trans_le (Nat.pow_le_pow_right (by decide) h)

theorem lineWord_bvBytes (x : BitVec 512) : lineWord (bvBytes x) = x := by
  have hb : leNat (bvBytes x) = x.toNat := by
    exact (leNat_leBytes 64 x.toNat).trans (Nat.mod_eq_of_lt (toNat_lt_bytes x (by decide)))
  unfold lineWord
  rw [hb, BitVec.ofNat_toNat, BitVec.setWidth_eq]

/-! ## DRAM -/

theorem length_dramLine (m : Mem) (l : Nat) : (dramLine m l).length = 64 := by
  unfold dramLine
  rw [List.length_map, List.length_range]

/-- A line that is stored is what DRAM holds, and every other stands. -/
theorem dramLine_put_same {m n : Mem} {l : Nat} {bs : List Byte} (hc : n.cells = cellsPut m.cells (l * 64) bs) (h : bs.length = 64) : dramLine n l = bs := by
  refine List.ext_getElem (by rw [length_dramLine, h]) fun i h1 h2 => ?_
  have hi : (dramLine n l)[i] = tabGet 0 n.cells (l * 64 + i) := by simp [dramLine]
  rw [hi, hc, cellsPut_inside bs _ _ _ h2]
  simp [List.getD, h2]

theorem dramLine_put_other {m n : Mem} {l k : Nat} {bs : List Byte} (hc : n.cells = cellsPut m.cells (l * 64) bs) (h : bs.length = 64) (hk : k ≠ l) :
    dramLine n k = dramLine m k := by
  unfold dramLine
  rw [hc]
  refine List.map_congr_left fun i hi => cellsPut_outside bs _ _ _ ?_
  have hi := List.mem_range.mp hi
  omega

theorem dramStore_poison_other {l k : Nat} (data : List Byte) (poison : Bool) (s : State) (hk : k ≠ l) :
    (dramStore l data poison s).mem.poison.contains k = s.mem.poison.contains k := by
  unfold dramStore modMem
  dsimp only
  split
  · split
    · rfl
    · simp [hk]
  · rw [Bool.eq_iff_iff, List.contains_iff_mem, List.contains_iff_mem, List.mem_filter, and_iff_left (decide_eq_true hk)]

/-! ## Combining buffers -/

section Find
variable {comb : List CombEntry} {l k : Nat}

/-- What a buffer's entries show of a line. -/
def entryOf (comb : List CombEntry) (l : Nat) : Option CombEntry := comb.find? fun e => decide (e.line = l)

theorem entryOf_line {e : CombEntry} (h : entryOf comb l = some e) : e.line = l :=
  of_decide_eq_true (List.find?_some (p := fun e : CombEntry => decide (e.line = l)) h)

theorem entryOf_map (g : CombEntry → CombEntry) (hg : ∀ e, (g e).line = e.line) : entryOf (comb.map g) l = (entryOf comb l).map g := by
  unfold entryOf
  rw [List.find?_map]
  refine congrArg (Option.map g) (congrArg (fun p => comb.find? p) (funext fun e => ?_))
  show decide ((g e).line = l) = _
  rw [hg]

theorem entryOf_without (h : k ≠ l) : entryOf (comb.filter fun x => decide (x.line ≠ l)) k = entryOf comb k := by
  unfold entryOf
  rw [List.find?_filter]
  refine congrArg (fun p => comb.find? p) (funext fun e => ?_)
  by_cases he : e.line = k
  · simp [he, h]
  · simp [he]

theorem entryOf_without_self : entryOf (comb.filter fun x => decide (x.line ≠ l)) l = none := by
  refine List.find?_eq_none.mpr fun e he hl => ?_
  exact of_decide_eq_true (List.mem_filter.mp he).2 (of_decide_eq_true hl)

theorem entryOf_append (e : CombEntry) : entryOf (comb ++ [e]) k = (entryOf comb k).or (if e.line = k then some e else none) := by
  unfold entryOf
  rw [List.find?_append]
  by_cases he : e.line = k
  · simp [he]
  · simp [he]

theorem length_without_found (h : (entryOf comb l).isSome = true) : (comb.filter fun x => decide (x.line ≠ l)).length < comb.length := by
  obtain ⟨e, he⟩ := Option.isSome_iff_exists.mp h
  refine List.length_filter_lt_length_iff_exists.mpr ⟨e, List.mem_of_find?_eq_some he, ?_⟩
  rw [entryOf_line he]
  simp

end Find

/-! ## What an access sees (R211, R212) -/

section Now
variable {s t : State} {l k : Nat}

theorem lineNow_found {e : CombEntry} (h : combFind (chanOf s (lineChan l)) l = some e) : lineNow s l = (bvBytes e.data, e.poison) := by
  unfold lineNow
  rw [h]

theorem lineNow_dram (h : combFind (chanOf s (lineChan l)) l = none) : lineNow s l = (dramLine s.mem l, s.mem.poison.contains l) := by
  unfold lineNow
  rw [h]

/-- What a line shows follows its entry's data and poison, and DRAM where it has none. -/
theorem lineNow_congr (he : (combFind (chanOf t (lineChan l)) l).map (fun e => (e.data, e.poison)) = (combFind (chanOf s (lineChan l)) l).map fun e => (e.data, e.poison))
    (hd : combFind (chanOf s (lineChan l)) l = none → dramLine t.mem l = dramLine s.mem l ∧ t.mem.poison.contains l = s.mem.poison.contains l) :
    lineNow t l = lineNow s l := by
  cases hs : combFind (chanOf s (lineChan l)) l with
  | none =>
    rw [hs] at he
    obtain ⟨h1, h2⟩ := hd hs
    rw [lineNow_dram (Option.map_eq_none_iff.mp he), lineNow_dram hs, h1, h2]
  | some e =>
    rw [hs] at he
    obtain ⟨x, hx, hxe⟩ := Option.map_eq_some_iff.mp he
    rw [lineNow_found hx, lineNow_found hs]
    exact congrArg (fun y : BitVec 512 × Bool => (bvBytes y.1, y.2)) hxe

end Now

/-! ## An entry that is placed (R212) -/

/-- The entry takes the most recent place, and any earlier one of its line is gone. -/
def placed (e : CombEntry) (ch : Channel) : Channel := { ch with comb := (ch.comb.filter fun x => decide (x.line ≠ e.line)) ++ [e] }

section Placed
variable (e : CombEntry) (ch : Channel)

theorem combFind_placed_same : combFind (placed e ch) e.line = some e := by
  refine (entryOf_append e).trans ?_
  rw [entryOf_without_self, if_pos rfl]
  rfl

theorem combFind_placed_other {k : Nat} (h : k ≠ e.line) : combFind (placed e ch) k = combFind ch k := by
  refine (entryOf_append e).trans ?_
  rw [entryOf_without h, if_neg fun hk => h hk.symm, Option.or_none]
  rfl

theorem length_placed : (placed e ch).comb.length ≤ ch.comb.length + 1 := by
  unfold placed
  rw [List.length_append]
  exact Nat.add_le_add_right (List.length_filter_le _ _) 1

theorem length_placed_found (h : (combFind ch e.line).isSome = true) : (placed e ch).comb.length ≤ ch.comb.length := by
  unfold placed
  rw [List.length_append]
  exact length_without_found h

end Placed

theorem modChan_congr {c : Nat} {f g : Channel → Channel} {s : State} (h : f (chanOf s c) = g (chanOf s c)) : modChan c f s = modChan c g s := by
  show modMem (fun m => { m with channels := tabSet {} s.mem.channels c (f (chanOf s c)) }) s
    = modMem (fun m => { m with channels := tabSet {} s.mem.channels c (g (chanOf s c)) }) s
  rw [h]

/-- Where the buffer has room, nothing is evicted. -/
theorem combPlace_room {s : State} {c : Nat} {e : CombEntry} (h : ((chanOf s c).comb.filter fun x => decide (x.line ≠ e.line)).length < 32) :
    combPlace c e s = modChan c (placed e) s := by
  unfold combPlace
  dsimp only
  cases hr : (chanOf s c).comb.filter fun x => decide (x.line ≠ e.line) with
  | nil =>
    refine modChan_congr ?_
    unfold placed
    rw [hr]
    rfl
  | cons old more =>
    rw [hr] at h
    dsimp only
    rw [if_neg (Nat.not_le.mpr h)]
    refine modChan_congr ?_
    unfold placed
    rw [hr]

theorem combPlace_less {s : State} {c : Nat} (e : CombEntry) (h : (chanOf s c).comb.length < 32) : combPlace c e s = modChan c (placed e) s :=
  combPlace_room (Nat.lt_of_le_of_lt (List.length_filter_le _ _) h)

/-- A line that is placed shows its entry, and every other line what it showed. -/
theorem lineNow_placed {s : State} {c : Nat} {e : CombEntry} (hc : lineChan e.line = c) (k : Nat) :
    lineNow (modChan c (placed e) s) k = if k = e.line then (bvBytes e.data, e.poison) else lineNow s k := by
  split
  case isTrue hk =>
    subst hk
    refine lineNow_found ?_
    rw [hc, chanOf_modChan]
    exact combFind_placed_same e _
  case isFalse hk =>
    have hf : combFind (chanOf (modChan c (placed e) s) (lineChan k)) k = combFind (chanOf s (lineChan k)) k := by
      by_cases hck : lineChan k = c
      · rw [hck, chanOf_modChan]
        exact combFind_placed_other e _ hk
      · rw [chanOf_modChan_other _ _ hck]
    exact lineNow_congr (by rw [hf]) fun _ => ⟨rfl, rfl⟩

end Sys2Proof.Machine
end

section
/-! SUPPORT. Write-backs and the patrol scrub (R212, R372, R376, R377, R381). -/

namespace Sys2Proof.Machine

open Sys2Proof

/-! ## Write-backs -/

/-- An entry that has been written back. -/
def cleaned (line : Nat) (x : CombEntry) : CombEntry := if x.line = line then { x with dirty := false } else x

theorem cleaned_line (line : Nat) (x : CombEntry) : (cleaned line x).line = x.line := by
  unfold cleaned
  split <;> rfl

theorem cleaned_shows (line : Nat) (x : CombEntry) : ((cleaned line x).data, (cleaned line x).poison) = (x.data, x.poison) := by
  unfold cleaned
  split <;> rfl

/-- What a write-back of a dirty entry leaves. -/
theorem combineWriteback_all {s : State} {c l : Nat} {e : CombEntry} (hc : lineChan l = c) (hf : combFind (chanOf s c) l = some e) (hd : e.dirty = true) :
    let t := combineWriteback c l s
    t = modChan c (fun ch => { ch with comb := ch.comb.map (cleaned l) }) (dramStore l (bvBytes e.data) e.poison s) ∧ (∀ k, lineNow t k = lineNow s k)
      ∧ (combFind (chanOf t c) l).map (·.dirty) = some false := by
  have hl : e.line = l := entryOf_line hf
  have ht : combineWriteback c l s = modChan c (fun ch => { ch with comb := ch.comb.map (cleaned l) }) (dramStore l (bvBytes e.data) e.poison s) := by
    unfold combineWriteback writeBack
    rw [hf]
    dsimp only
    rw [if_pos hd, hl]
    rfl
  have hfind : ∀ k, combFind (chanOf (combineWriteback c l s) c) k = (combFind (chanOf s c) k).map (cleaned l) := fun k => by
    rw [ht, chanOf_modChan]
    exact entryOf_map (cleaned l) (cleaned_line l)
  refine ⟨ht, fun k => ?_, ?_⟩
  · refine lineNow_congr ?_ fun hnone => ?_
    · by_cases hck : lineChan k = c
      · rw [hck, hfind, Option.map_map]
        exact congrArg (fun g => Option.map g (combFind (chanOf s c) k)) (funext (cleaned_shows l))
      · rw [ht, chanOf_modChan_other _ _ hck]
        rfl
    · have hk : k ≠ l := fun hk => by
        rw [hk, hc, hf] at hnone
        cases hnone
      rw [ht]
      refine ⟨dramLine_put_other (m := s.mem) (l := l) rfl (length_bvBytes_line e.data) hk, ?_⟩
      exact dramStore_poison_other (bvBytes e.data) e.poison s hk
  · rw [hfind, hf]
    refine congrArg some ?_
    show (cleaned l e).dirty = false
    unfold cleaned
    rw [if_pos hl]

/-! ## Errors that a read finds (R375-R377) -/

theorem lineNow_of_mem {s t : State} (h : t.mem = s.mem) (k : Nat) : lineNow t k = lineNow s k := by
  unfold lineNow chanOf
  rw [h]

theorem FaultOnly.mem {s t : State} (h : FaultOnly s t) : t.mem = s.mem := h.fields.2.2.2.2.2.1

theorem lineNow_modChan {s : State} {c : Nat} {f : Channel → Channel} (hf : (f (chanOf s c)).comb = (chanOf s c).comb) (k : Nat) :
    lineNow (modChan c f s) k = lineNow s k := by
  refine lineNow_congr (congrArg _ ?_) fun _ => ⟨rfl, rfl⟩
  by_cases hk : lineChan k = c
  · rw [hk, chanOf_modChan]
    unfold combFind
    rw [hf]
  · rw [chanOf_modChan_other f s hk]

theorem judgeEcc_correctable {n : Nat} (h1 : 1 ≤ n) (h2 : n ≤ 2) (s : State) : judgeEcc n s = (.correctable, s) := by
  unfold judgeEcc rsFinding
  rw [if_neg (by omega), if_pos h2]

theorem judgeEcc_uncorrectable {n : Nat} (h1 : 3 ≤ n) (h2 : n ≤ 6) (s : State) : judgeEcc n s = (.uncorrectable, s) := by
  unfold judgeEcc rsFinding
  rw [if_neg (by omega), if_neg (by omega), if_pos h2]

section Found
variable {s : State} {l c : Nat} (hc : lineChan l = c) (hf : combFind (chanOf s c) l = none)
include hc hf

/-- A line that is corrected goes to the combining buffer as DRAM holds it, and is counted and recorded. -/
theorem corrected_all (hroom : (chanOf s c).comb.length < 32) : let t := corrected l (dramLine s.mem l) s
    chanOf t c = placed ⟨l, lineWord (dramLine s.mem l), true, false⟩ { chanOf s c with corr := satAdd (chanOf s c).corr 1 }
      ∧ t.mem.poison = s.mem.poison ∧ t.mem.cells = s.mem.cells ∧ (s.mem.poison.contains l = false → ∀ k, lineNow t k = lineNow s k)
      ∧ (s.glb.faults.length < 1024 → Recorded t 0x80 sevInfo c) := by
  have hfo := devFault0_only 0x80 sevInfo c (lineLocal l) (modChan c (fun ch => { ch with corr := satAdd ch.corr 1 }) s)
  have hrec := devFault0_recorded 0x80 sevInfo c (lineLocal l) (modChan c (fun ch => { ch with corr := satAdd ch.corr 1 }) s)
  unfold corrected
  dsimp only
  rw [hc]
  generalize devFault0 _ _ _ _ _ = u at hfo hrec ⊢
  have hmem := hfo.mem
  have hchan : chanOf u c = { chanOf s c with corr := satAdd (chanOf s c).corr 1 } := by
    refine Eq.trans ?_ (chanOf_modChan c (fun ch => { ch with corr := satAdd ch.corr 1 }) s)
    unfold chanOf
    rw [hmem]
  rw [combPlace_less _ (by rw [hchan]; exact hroom)]
  have hpoison : u.mem.poison = s.mem.poison := by rw [hmem]; rfl
  have hcells : u.mem.cells = s.mem.cells := by rw [hmem]; rfl
  refine ⟨?_, hpoison, hcells, fun hp k => ?_, hrec⟩
  · rw [chanOf_modChan, hchan]
  · rw [lineNow_placed (e := ⟨l, lineWord (dramLine s.mem l), true, false⟩) hc k]
    split
    case isTrue hk =>
      subst hk
      rw [lineNow_dram (by rw [hc]; exact hf), hp]
      exact congrArg (·, false) (bvBytes_lineWord (length_dramLine _ _))
    case isFalse =>
      rw [lineNow_of_mem hmem]
      exact lineNow_modChan rfl k

/-- A line that is found uncorrectable is poisoned, counted and recorded, and every other line stands. -/
theorem uncorrectable_all (byScrub : Bool) (word : BitVec 576) :
    let t := devFault0 0x81 sevError (lineChan l) (lineLocal l) (poisonFound l byScrub word s)
    chanOf t c = { chanOf s c with uncorr := satAdd (chanOf s c).uncorr 1 } ∧ t.mem.poison = s.mem.poison ++ [l] ∧ t.mem.cells = s.mem.cells
      ∧ (lineNow t l).2 = true ∧ (∀ k, k ≠ l → lineNow t k = lineNow s k) ∧ (s.glb.faults.length < 1024 → Recorded t 0x81 sevError c) := by
  have hv : ∃ v, poisonFound l byScrub word s = v ∧ chanOf v c = { chanOf s c with uncorr := satAdd (chanOf s c).uncorr 1 } ∧ v.mem.poison = s.mem.poison ++ [l]
      ∧ v.mem.cells = s.mem.cells ∧ (∀ d, (chanOf v d).comb = (chanOf s d).comb) ∧ v.glb = s.glb := by
    refine ⟨_, rfl, ?_⟩
    have hcomb : ∀ d, (chanOf (modChan (lineChan l) (fun ch => { ch with uncorr := satAdd ch.uncorr 1 }) s) d).comb = (chanOf s d).comb := fun d => by
      by_cases hd : d = lineChan l
      · rw [hd, chanOf_modChan]
      · rw [chanOf_modChan_other _ s hd]
    have hown := chanOf_modChan (lineChan l) (fun ch => { ch with uncorr := satAdd ch.uncorr 1 }) s
    rw [hc] at hown hcomb
    unfold poisonFound
    dsimp only
    rw [hc]
    split <;> exact ⟨hown, rfl, rfl, hcomb, rfl⟩
  obtain ⟨v, hv, hchan, hpoison, hcells, hcomb, hglb⟩ := hv
  have hfo := devFault0_only 0x81 sevError (lineChan l) (lineLocal l) v
  have hrec := devFault0_recorded 0x81 sevError (lineChan l) (lineLocal l) v
  dsimp only
  rw [hv]
  generalize devFault0 _ _ _ _ v = t at hfo hrec ⊢
  have hmem := hfo.mem
  have hch : ∀ d, chanOf t d = chanOf v d := fun d => by unfold chanOf; rw [hmem]
  have hfind : ∀ k, combFind (chanOf t (lineChan k)) k = combFind (chanOf s (lineChan k)) k := fun k => by
    unfold combFind
    rw [hch, hcomb]
  refine ⟨(hch c).trans hchan, by rw [hmem, hpoison], by rw [hmem, hcells], ?_, fun k hk => ?_, fun hroom => ?_⟩
  · have hnone : combFind (chanOf t (lineChan l)) l = none := (hfind l).trans (by rw [hc]; exact hf)
    rw [lineNow_dram hnone, hmem, hpoison]
    simp
  · refine lineNow_congr (by rw [hfind]) fun _ => ⟨?_, ?_⟩
    · unfold dramLine
      rw [hmem, hcells]
    · rw [hmem, hpoison]
      simp [hk]
  · rw [← hc]
    exact hrec (by rw [hglb]; exact hroom)

end Found

/-! ## The patrol scrub -/

/-- Symbols that go wrong in one line. -/
def erred (l n : Nat) (s : State) : State := modMem (fun m => { m with errs := tabMod 0 m.errs l (max n) }) s

theorem tabGet_erred_same (l n : Nat) (s : State) : tabGet 0 (erred l n s).mem.errs l = max n (tabGet 0 s.mem.errs l) := tabGet_mod_same 0 s.mem.errs l (max n)

theorem tabGet_erred_other {l k : Nat} (n : Nat) (s : State) (h : k ≠ l) : tabGet 0 (erred l n s).mem.errs k = tabGet 0 s.mem.errs k :=
  tabGet_mod_other 0 s.mem.errs (max n) h

theorem lineNow_erred (l n k : Nat) (s : State) : lineNow (erred l n s) k = lineNow s k :=
  lineNow_congr (s := s) (t := erred l n s) rfl fun _ => ⟨rfl, rfl⟩

/-- The scrub pointer moves on, where the pass goes on. -/
def scrubbed (c p : Nat) (s : State) : State := modChan c (fun ch => { ch with scrubPtr := BitVec.ofNat 25 p }) s

theorem scrubAdvance_within {s : State} {c : Nat} (h : (chanOf s c).scrubPtr.toNat + 1 < channelLines) :
    scrubAdvance c s = scrubbed c ((chanOf s c).scrubPtr.toNat + 1) s := by
  unfold scrubAdvance
  dsimp only
  rw [if_pos h]
  rfl

section Scrub
variable {s : State} {c : Nat} (hen : s.mem.scrubEn = true) (hasleep : chanAsleep s c = false) (n : Nat)
include hen hasleep

/-- The line that the scrub is at is skipped where the combining buffer holds it. -/
theorem patrolScrubRead_held (hf : (combFind (chanOf s c) (offOfLocal c ((chanOf s c).scrubPtr.toNat * 64) / 64)).isSome = true) :
    patrolScrubRead c n s = scrubAdvance c (erred (offOfLocal c ((chanOf s c).scrubPtr.toNat * 64) / 64) n s) := by
  unfold patrolScrubRead
  dsimp only
  rw [hen, hasleep]
  exact congrArg (scrubAdvance c) (if_pos hf)

theorem patrolScrubRead_reads (hf : combFind (chanOf s c) (offOfLocal c ((chanOf s c).scrubPtr.toNat * 64) / 64) = none) :
    patrolScrubRead c n s = scrubAdvance c (eccFound (offOfLocal c ((chanOf s c).scrubPtr.toNat * 64) / 64) true
      (erred (offOfLocal c ((chanOf s c).scrubPtr.toNat * 64) / 64) n s)) := by
  unfold patrolScrubRead
  dsimp only
  rw [hen, hasleep]
  exact congrArg (scrubAdvance c) (if_neg (by
    show ¬ (combFind (chanOf s c) _).isSome = true
    rw [hf]
    exact Bool.false_ne_true))

end Scrub

/-- Settles O45: the write-back of a dirty entry, the scrub's findings, and its lag. -/
theorem writebacksAndScrubKeepWhatIsRead : Obligations.WritebacksAndScrubKeepWhatIsRead := by
  intro s c hcl hc
  refine ⟨fun l e hlc hf hd => ?_, fun hen hasleep hptr => ?_, ?_⟩
  · obtain ⟨ht, hnow, hdirty⟩ := combineWriteback_all hlc hf hd
    have hlen := length_bvBytes_line e.data
    have hkeep : keepFixed s (combineWriteback c l s) = combineWriteback c l s := by rw [ht]; rfl
    refine ⟨_, (core_next hcl (decide_eq_true hc)).trans (congrArg Host.Outcome.next hkeep), ?_, fun k hk => ?_, hnow, hdirty, ?_, ?_, ?_⟩
    · rw [ht]
      exact dramLine_put_same (m := s.mem) rfl hlen
    · rw [ht]
      exact dramLine_put_other (m := s.mem) (l := l) rfl hlen hk
    · rw [ht]
      exact tabGet_set_same 0 0 s.mem.errs l
    · rw [ht]
      exact tabGet_set_same none (some (storedWord (xtsEncrypt s.fuses.memKey (memTweak s l) (bvBytes e.data)) e.poison)) s.mem.words l
    · rw [ht]
      rfl
  · intro l
    have hexec : ∀ n, exec (.patrolScrubRead c n) s = .next (keepFixed s (patrolScrubRead c n s)) := fun n => core_next hcl (decide_eq_true hc)
    have hadv : ∀ n, scrubAdvance c (erred l n s) = scrubbed c ((chanOf s c).scrubPtr.toNat + 1) (erred l n s) := fun n => scrubAdvance_within hptr
    refine ⟨fun hskip => ?_, fun hlc hf hp herr => ⟨fun e h1 h2 hroom => ?_, fun e h3 h6 => ?_⟩⟩
    · have hread : patrolScrubRead c 0 s = scrubbed c ((chanOf s c).scrubPtr.toNat + 1) (erred l 0 s) := by
        cases hf : combFind (chanOf s c) l with
        | some e => rw [patrolScrubRead_held hen hasleep 0 (by rw [hf]; rfl), hadv]
        | none =>
          have hsound : eccFound l true (erred l 0 s) = erred l 0 s := by
            by_cases hp : s.mem.poison.contains l = true
            · exact eccFound_poisoned hp
            · refine eccFound_good (u := erred l 0 s) hp ?_
              have herr : tabGet 0 s.mem.errs l = 0 := by
                rcases hskip with h | h | h
                · rw [hf] at h
                  cases h
                · exact absurd h hp
                · exact h
              rw [tabGet_erred_same, herr]
              rfl
          rw [patrolScrubRead_reads hen hasleep 0 hf, hsound, hadv]
      refine ⟨_, hexec 0, ?_⟩
      rw [hread]
      refine ⟨modChan_congr (s := erred l 0 s) rfl, fun k => ?_⟩
      by_cases hk : k = l
      · rw [hk]
        exact (tabGet_erred_same l 0 s).trans (Nat.zero_max _)
      · exact tabGet_erred_other 0 s hk
    · have hecc : eccFound l true (erred l e s) = corrected l (dramLine (erred l e s).mem l) (erred l e s) := by
        refine eccFound_correctable (u := erred l e s) (fun h => by rw [show (erred l e s).mem.poison = s.mem.poison from rfl, hp] at h; cases h) ?_
        rw [tabGet_erred_same, herr, Nat.max_zero]
        exact judgeEcc_correctable h1 h2 _
      obtain ⟨hch, hpoison, hcells, hnow, hrec⟩ := corrected_all (s := erred l e s) hlc hf hroom
      refine ⟨_, hexec e, ?_⟩
      rw [patrolScrubRead_reads hen hasleep e hf, hecc]
      generalize corrected l _ _ = u at hch hpoison hcells hnow hrec ⊢
      have hptr' : (chanOf u c).scrubPtr = (chanOf s c).scrubPtr := by rw [hch]; rfl
      rw [scrubAdvance_within (by rw [hptr']; exact hptr), hptr']
      have hown : chanOf (keepFixed s (scrubbed c ((chanOf s c).scrubPtr.toNat + 1) u)) c = { chanOf u c with scrubPtr := BitVec.ofNat 25 ((chanOf s c).scrubPtr.toNat + 1) } :=
        chanOf_modChan c _ u
      refine ⟨?_, hpoison, hcells, ⟨⟨l, lineWord (dramLine s.mem l), true, false⟩, ?_, rfl⟩, fun k => ?_, ?_, hrec⟩
      · rw [hown, hch]
        rfl
      · rw [hown, hch]
        exact combFind_placed_same ⟨l, lineWord (dramLine s.mem l), true, false⟩ _
      · refine (lineNow_of_mem (s := scrubbed c ((chanOf s c).scrubPtr.toNat + 1) u) rfl k).trans ?_
        exact (lineNow_modChan (s := u) rfl k).trans ((hnow hp k).trans (lineNow_erred l e k s))
      · rw [hown]
    · have hecc : eccFound l true (erred l e s) = devFault0 0x81 sevError (lineChan l) (lineLocal l)
          (poisonFound l true (storedWord (bvBytes (freeCipher (erred l e s))) true) (erred l e s)) := by
        refine eccFound_uncorrectable (u := erred l e s) (fun h => by rw [show (erred l e s).mem.poison = s.mem.poison from rfl, hp] at h; cases h) ?_
        rw [tabGet_erred_same, herr, Nat.max_zero]
        exact judgeEcc_uncorrectable h3 h6 _
      obtain ⟨hch, hpoison, hcells, -, -, hrec⟩ := uncorrectable_all (s := erred l e s) hlc hf true (storedWord (bvBytes (freeCipher (erred l e s))) true)
      refine ⟨_, hexec e, ?_⟩
      rw [patrolScrubRead_reads hen hasleep e hf, hecc]
      generalize devFault0 _ _ _ _ _ = u at hch hpoison hcells hrec ⊢
      have hptr' : (chanOf u c).scrubPtr = (chanOf s c).scrubPtr := by rw [hch]; rfl
      rw [scrubAdvance_within (by rw [hptr']; exact hptr), hptr']
      have hown : chanOf (keepFixed s (scrubbed c ((chanOf s c).scrubPtr.toNat + 1) u)) c = { chanOf u c with scrubPtr := BitVec.ofNat 25 ((chanOf s c).scrubPtr.toNat + 1) } :=
        chanOf_modChan c _ u
      refine ⟨?_, hpoison, hcells, ?_, hrec⟩
      · rw [hown, hch]
        rfl
      · rw [hown]
  · have hfo := devFault0_only 0x84 sevInfo c 0 (modMem (fun m => { m with lag := satAdd m.lag 1 }) s)
    refine ⟨_, (core_next hcl (decide_eq_true hc)).trans (hfo.settled.next rfl rfl rfl), hfo, fun hroom => devFault0_recorded _ _ _ _ _ hroom⟩

end Sys2Proof.Machine
end

section
/-! SUPPORT. Accesses to lines whose codewords are sound (R195, R211, R212, R376-R378): what they answer, what they write, and that they change
combining buffers alone. -/

namespace Sys2Proof.Machine

open Sys2Proof

/-! ## Combining buffers that change -/

/-- `u` is `s` but for combining buffers; the one of channel `c` has at most `n` lines more, and none fewer. -/
structure BufferOnly (s u : State) (c n : Nat) : Prop where
  frame : u = { s with mem := { s.mem with channels := u.mem.channels } }
  grows : (chanOf u c).comb.length ≤ (chanOf s c).comb.length + n
  found : ∀ k, (combFind (chanOf s c) k).isSome = true → (combFind (chanOf u c) k).isSome = true

theorem BufferOnly.refl (s : State) (c : Nat) : BufferOnly s s c 0 := ⟨rfl, Nat.le_refl _, fun _ h => h⟩

theorem BufferOnly.trans {s t u : State} {c n m : Nat} (h : BufferOnly s t c n) (k : BufferOnly t u c m) : BufferOnly s u c (n + m) :=
  ⟨by rw [k.frame, h.frame], by have := h.grows; have := k.grows; omega, fun l hl => k.found l (h.found l hl)⟩

theorem placed_found (e : CombEntry) (ch : Channel) (k : Nat) (h : (combFind ch k).isSome = true) : (combFind (placed e ch) k).isSome = true := by
  by_cases hk : k = e.line
  · rw [hk, combFind_placed_same]
    rfl
  · rw [combFind_placed_other e ch hk]
    exact h

theorem placed_bufferOnly (e : CombEntry) (c : Nat) (s : State) : BufferOnly s (modChan c (placed e) s) c 1 := by
  refine ⟨rfl, ?_, fun k h => ?_⟩
  · rw [chanOf_modChan]
    exact length_placed e _
  · rw [chanOf_modChan]
    exact placed_found e _ k h

theorem placed_again {e : CombEntry} {c : Nat} {s : State} (hf : (combFind (chanOf s c) e.line).isSome = true) : BufferOnly s (modChan c (placed e) s) c 0 := by
  refine ⟨rfl, ?_, (placed_bufferOnly e c s).found⟩
  rw [chanOf_modChan]
  exact length_placed_found e _ hf

theorem combPlace_again {e : CombEntry} {c : Nat} {s : State} (hf : (combFind (chanOf s c) e.line).isSome = true) (h32 : (chanOf s c).comb.length ≤ 32) :
    combPlace c e s = modChan c (placed e) s :=
  combPlace_room (Nat.lt_of_lt_of_le (length_without_found hf) h32)

theorem length_lineNow (s : State) (l : Nat) : (lineNow s l).1.length = 64 := by
  cases hf : combFind (chanOf s (lineChan l)) l with
  | some e =>
    rw [lineNow_found hf]
    exact length_bvBytes_line _
  | none =>
    rw [lineNow_dram hf]
    exact length_dramLine _ _

/-! ## One line -/

/-- A DRAM read of the line finds nothing new. -/
def Readable (s : State) (l : Nat) : Prop := s.mem.poison.contains l = true ∨ tabGet 0 s.mem.errs l = 0

theorem BufferOnly.readable {s u : State} {c n : Nat} (h : BufferOnly s u c n) {l : Nat} (hr : Readable s l) : Readable u l := by
  unfold Readable
  rw [h.frame]
  exact hr

theorem eccFound_readable {s : State} {l : Nat} (h : Readable s l) (byScrub : Bool) : eccFound l byScrub s = s := by
  by_cases hp : s.mem.poison.contains l = true
  · exact eccFound_poisoned hp
  · refine eccFound_good (u := s) hp ?_
    rw [h.resolve_left hp]
    rfl

section Line
variable {s : State} {c l : Nat} (hc : lineChan l = c) (hr : Readable s l)
include hc hr

theorem lineLoad_readable (h32 : (chanOf s c).comb.length ≤ 32) :
    (lineLoad l s).1 = lineNow s l ∧ BufferOnly s (lineLoad l s).2 c 0 ∧ ∀ k, lineNow (lineLoad l s).2 k = lineNow s k := by
  unfold lineLoad
  dsimp only
  rw [hc]
  cases hf : combFind (chanOf s c) l with
  | some e =>
    have hl : e.line = l := entryOf_line hf
    have hsome : (combFind (chanOf s c) e.line).isSome = true := by rw [hl, hf]; rfl
    have hnow : lineNow s l = (bvBytes e.data, e.poison) := lineNow_found (by rw [hc]; exact hf)
    dsimp only
    rw [combPlace_again hsome h32]
    refine ⟨hnow.symm, placed_again hsome, fun k => ?_⟩
    rw [lineNow_placed (e := e) (by rw [hl]; exact hc) k, hl]
    split
    case isTrue hk => rw [hk, hnow]
    case isFalse => rfl
  | none =>
    dsimp only
    rw [eccFound_readable hr]
    exact ⟨rfl, BufferOnly.refl s c, fun _ => rfl⟩

theorem lineStore_readable (hp : (lineNow s l).2 = false) (hroom : (chanOf s c).comb.length < 32) (whole : Bool) (f : List Byte → List Byte) :
    let r := lineStore l whole f s
    r.1 = false ∧ BufferOnly s r.2 c 1 ∧ (combFind (chanOf r.2 c) l).isSome = true
      ∧ ∀ k, lineNow r.2 k = if k = l then (bvBytes (lineWord (f (lineNow s l).1)), false) else lineNow s k := by
  obtain ⟨hval, hbuf, hnow⟩ := lineLoad_readable hc hr (Nat.le_of_lt hroom)
  rcases hload : lineLoad l s with ⟨⟨d, p⟩, v⟩
  rw [hload] at hval hbuf hnow
  have hd : d = (lineNow s l).1 := congrArg Prod.fst hval
  have hpv : p = false := (congrArg Prod.snd hval).trans hp
  unfold lineStore
  dsimp only
  rw [hload, hc]
  dsimp only
  rw [hd, hpv]
  have hv : (chanOf v c).comb.length < 32 := Nat.lt_of_le_of_lt hbuf.grows hroom
  simp only [Bool.false_and, Bool.false_eq_true, if_false]
  rw [combPlace_less _ hv]
  refine ⟨trivial, ?_, ?_, fun k => ?_⟩
  · have h := hbuf.trans (placed_bufferOnly ⟨l, lineWord (f (lineNow s l).1), true, false⟩ c v)
    exact h
  · rw [chanOf_modChan, combFind_placed_same ⟨l, lineWord (f (lineNow s l).1), true, false⟩]
    rfl
  · rw [lineNow_placed (e := ⟨l, lineWord (f (lineNow s l).1), true, false⟩) hc k, hnow]

end Line

/-! ## Extents -/

/-- The parts of lines, as accesses see them. -/
def partsOf (s : State) (off len : Nat) (ls : List Nat) : List Byte :=
  ls.flatMap fun l => slice (lineNow s l).1 (linePart off len l).1 (linePart off len l).2.2

theorem memRead_readable {s : State} {c : Nat} (ls : List Nat) (off len : Nat) (hc : ∀ l ∈ ls, lineChan l = c) (hr : ∀ l ∈ ls, Readable s l)
    (h32 : (chanOf s c).comb.length ≤ 32) : let r := memRead ls off len s
    r.1 = (partsOf s off len ls, ls.any fun l => (lineNow s l).2) ∧ BufferOnly s r.2 c 0 ∧ ∀ k, lineNow r.2 k = lineNow s k := by
  induction ls generalizing s with
  | nil => exact ⟨rfl, BufferOnly.refl s c, fun _ => rfl⟩
  | cons l ls ih =>
    obtain ⟨hval, hbuf, hnow⟩ := lineLoad_readable (hc l List.mem_cons_self) (hr l List.mem_cons_self) h32
    rcases hload : lineLoad l s with ⟨⟨d, p⟩, v⟩
    rw [hload] at hval hbuf hnow
    obtain ⟨hval', hbuf', hnow'⟩ := ih (s := v) (fun k hk => hc k (List.mem_cons_of_mem _ hk))
      (fun k hk => hbuf.readable (hr k (List.mem_cons_of_mem _ hk))) (Nat.le_trans hbuf.grows h32)
    rcases hrest : memRead ls off len v with ⟨⟨ds, q⟩, w⟩
    rw [hrest] at hval' hbuf' hnow'
    have hd : d = (lineNow s l).1 := congrArg Prod.fst hval
    have hp : p = (lineNow s l).2 := congrArg Prod.snd hval
    have hds : ds = partsOf v off len ls := congrArg Prod.fst hval'
    have hq : q = ls.any fun l => (lineNow v l).2 := congrArg Prod.snd hval'
    unfold memRead
    rw [hload]
    dsimp only
    rw [hrest]
    dsimp only
    refine ⟨?_, hbuf.trans hbuf', fun k => (hnow' k).trans (hnow k)⟩
    rw [hd, hp, hds, hq]
    unfold partsOf
    rw [List.flatMap_cons, List.any_cons]
    simp only [hnow]

/-- The part of a line that a write makes. -/
def newPart (s : State) (off len : Nat) (data : List Byte) (g : List Byte → List Byte → List Byte) (l : Nat) : List Byte :=
  g (slice (lineNow s l).1 (linePart off len l).1 (linePart off len l).2.2) (slice data (linePart off len l).2.1 (linePart off len l).2.2)

theorem memWrite_readable {s : State} {c : Nat} (ls : List Nat) (off len : Nat) (data : List Byte) (isStore : Bool) (g : List Byte → List Byte → List Byte)
    (hc : ∀ l ∈ ls, lineChan l = c) (hr : ∀ l ∈ ls, Readable s l) (hp : ∀ l ∈ ls, (lineNow s l).2 = false) (hnodup : ls.Nodup)
    (hroom : (chanOf s c).comb.length + ls.length ≤ 32) : let r := memWrite ls off len data isStore g s
    r.1 = false ∧ BufferOnly s r.2 c ls.length ∧ (∀ l ∈ ls, (combFind (chanOf r.2 c) l).isSome = true)
      ∧ (∀ l ∈ ls, lineNow r.2 l = (bvBytes (lineWord (overlay (lineNow s l).1 (linePart off len l).1 (newPart s off len data g l))), false))
      ∧ ∀ l, ¬ l ∈ ls → lineNow r.2 l = lineNow s l := by
  induction ls generalizing s with
  | nil => exact ⟨rfl, BufferOnly.refl s c, fun _ h => (List.not_mem_nil h).elim, fun _ h => (List.not_mem_nil h).elim, fun _ _ => rfl⟩
  | cons l ls ih =>
    rw [List.length_cons] at hroom
    obtain ⟨hne, hnodup⟩ := List.nodup_cons.mp hnodup
    obtain ⟨hval, hbuf, hfound, hnow⟩ := lineStore_readable (hc l List.mem_cons_self) (hr l List.mem_cons_self) (hp l List.mem_cons_self) (by omega)
      (isStore && decide ((linePart off len l).2.2 = 64)) fun old => overlay old (linePart off len l).1
        (g (slice old (linePart off len l).1 (linePart off len l).2.2) (slice data (linePart off len l).2.1 (linePart off len l).2.2))
    unfold memWrite
    dsimp only
    rw [hval]
    generalize (lineStore l _ _ s).2 = v at hbuf hfound hnow ⊢
    have hother : ∀ k, k ≠ l → lineNow v k = lineNow s k := fun k hk => (hnow k).trans (if_neg hk)
    have hkl : ∀ k ∈ ls, k ≠ l := fun k hk h => hne (h ▸ hk)
    have hgrows := hbuf.grows
    obtain ⟨hval', hbuf', hfound', hin, hout⟩ := ih (s := v) (fun k hk => hc k (List.mem_cons_of_mem _ hk))
      (fun k hk => hbuf.readable (hr k (List.mem_cons_of_mem _ hk)))
      (fun k hk => by rw [hother k (hkl k hk)]; exact hp k (List.mem_cons_of_mem _ hk)) hnodup (by omega)
    rw [hval']
    refine ⟨rfl, ?_, fun k hk => ?_, fun k hk => ?_, fun k hk => ?_⟩
    · rw [List.length_cons, Nat.add_comm]
      exact hbuf.trans hbuf'
    · rcases List.mem_cons.mp hk with rfl | hk
      · exact hbuf'.found k hfound
      · exact hfound' k hk
    · rcases List.mem_cons.mp hk with rfl | hk
      · rw [hout k hne, hnow k, if_pos rfl]
        rfl
      · have hpart : newPart v off len data g k = newPart s off len data g k := by
          unfold newPart
          rw [hother k (hkl k hk)]
        rw [hin k hk, hpart, hother k (hkl k hk)]
    · rw [hout k fun h => hk (List.mem_cons_of_mem _ h), hother k fun h => hk (h ▸ List.mem_cons_self)]

/-- Lines of the buffer that are poisoned keep their bytes. -/
theorem linesPoisoned_all {s : State} {c : Nat} (first : Nat) (ks : List Nat) (hc : ∀ k ∈ ks, lineChan (first + k) = c)
    (hf : ∀ k ∈ ks, (combFind (chanOf s c) (first + k)).isSome = true) (h32 : (chanOf s c).comb.length ≤ 32) :
    let u := forEach ks (fun k s => linePoisoned (first + k) (lineNow s (first + k)).1 s) s
    BufferOnly s u c 0 ∧ ∀ l, lineNow u l = ((lineNow s l).1, (lineNow s l).2 || ks.any fun k => decide (first + k = l)) := by
  induction ks generalizing s with
  | nil => exact ⟨BufferOnly.refl s c, fun l => by rw [List.any_nil, Bool.or_false]; rfl⟩
  | cons k ks ih =>
    have hfk := hf k List.mem_cons_self
    have hstep : linePoisoned (first + k) (lineNow s (first + k)).1 s = modChan c (placed ⟨first + k, lineWord (lineNow s (first + k)).1, true, true⟩) s := by
      unfold linePoisoned
      rw [hc k List.mem_cons_self]
      exact combPlace_again hfk h32
    have hbuf : BufferOnly s (modChan c (placed ⟨first + k, lineWord (lineNow s (first + k)).1, true, true⟩) s) c 0 := placed_again hfk
    have hnow := fun l => lineNow_placed (s := s) (e := ⟨first + k, lineWord (lineNow s (first + k)).1, true, true⟩) (hc k List.mem_cons_self) l
    dsimp only at hnow ⊢
    rw [forEach_cons, hstep]
    generalize modChan c (placed ⟨first + k, lineWord (lineNow s (first + k)).1, true, true⟩) s = v at hbuf hnow ⊢
    obtain ⟨hbuf', hnow'⟩ := ih (s := v) (fun j hj => hc j (List.mem_cons_of_mem _ hj)) (fun j hj => hbuf.found _ (hf j (List.mem_cons_of_mem _ hj)))
      (Nat.le_trans hbuf.grows h32)
    refine ⟨hbuf.trans hbuf', fun l => ?_⟩
    rw [hnow' l, hnow l, List.any_cons]
    by_cases hl : l = first + k
    · subst hl
      rw [if_pos rfl, bvBytes_lineWord (length_lineNow _ _)]
      simp
    · rw [if_neg hl]
      simp [Ne.symm hl]

end Sys2Proof.Machine
end

section
/-! SUPPORT. CHANNEL_ACCESS (R188, R195, R211, R376-R378, R387, R418). -/

namespace Sys2Proof.Machine

open Sys2Proof

/-! ## The lines of an access -/

section Extent
variable {off len : Nat} (h1 : 1 ≤ len) (hg : off / 256 = (off + len - 1) / 256)
include h1 hg

theorem linesOf_place {l : Nat} (hl : l ∈ linesOf off len) : off / 64 ≤ l ∧ l * 64 / 256 = off / 256 := by
  unfold linesOf at hl
  rw [if_neg (by omega)] at hl
  obtain ⟨j, hj, rfl⟩ := List.mem_map.mp hl
  have hj := List.mem_range.mp hj
  omega

theorem linesOf_chan {l : Nat} (hl : l ∈ linesOf off len) : lineChan l = channelOf off := by
  unfold lineChan
  rw [channelOf_eq, channelOf_eq, (linesOf_place h1 hg hl).2]

theorem length_linesOf : (linesOf off len).length ≤ 4 := by
  unfold linesOf
  rw [if_neg (by omega), List.length_map, List.length_range]
  omega

end Extent

theorem linesOf_nodup (off len : Nat) : (linesOf off len).Nodup := by
  unfold linesOf
  split
  · exact List.nodup_nil
  · exact List.nodup_range.map fun i j h => Nat.add_right_cancel h

/-! ## What an access does (R188, R378) -/

section Access
variable {a : MemAcc} {s u : State}

theorem applyAccess_scrub (hb : s.mem.tenantBusy = true) : applyAccess a s = answer a.back 0x13 none [] s := by
  unfold applyAccess
  exact if_pos hb

theorem applyAccess_wrong (hb : s.mem.tenantBusy = false) (hok : accOk a = false) : applyAccess a s = answer a.back 0x10 none [] s := by
  unfold applyAccess
  dsimp only
  rw [hb, hok]
  rfl

variable (hb : s.mem.tenantBusy = false) (hok : accOk a = true)
include hb hok

theorem applyAccess_load {d : List Byte} {p : Bool} (hop : a.op = .load) (h : memRead (linesOf a.off.toNat a.len) a.off.toNat a.len s = ((d, p), u)) :
    applyAccess a s = if p then answer a.back 0x15 none [] (notePoisonIn (linesOf a.off.toNat a.len) u) else answer a.back 0 (some d) [] u := by
  unfold applyAccess
  dsimp only
  rw [hb, hok, hop]
  dsimp only
  rw [h]
  rfl

theorem applyAccess_store (hop : a.op = .store)
    (h : memWrite (linesOf a.off.toNat a.len) a.off.toNat a.len a.data true (fun _ new => new) s = (false, u)) :
    applyAccess a s = answer a.back 0 none [] (forEach a.poison (fun k s => linePoisoned (a.off.toNat / 64 + k) (lineNow s (a.off.toNat / 64 + k)).1 s) u) := by
  unfold applyAccess
  dsimp only
  rw [hb, hok, hop]
  dsimp only
  rw [h]
  rfl

theorem applyAccess_reduce (hop : a.op = .reduce) (hv : backVary a.back = false)
    (h : memWrite (linesOf a.off.toNat a.len) a.off.toNat a.len a.data false (reducePart a.subop a.dtype) s = (false, u)) :
    applyAccess a s = answer a.back 0 none [] u := by
  unfold applyAccess
  dsimp only
  rw [hb, hok, hop]
  dsimp only
  rw [h, hv]
  rfl

/-- The value that an ATOMIC writes. -/
def atomicNew (a : MemAcc) (old : List Byte) : List Byte :=
  leBytes a.len (elemOp (a.subop &&& 0x7F).toNat a.dtype.toNat (leNat old) (fieldNat a.data 0 a.len) (fieldNat a.data 8 a.len))

theorem applyAccess_atomic {old : List Byte} {v : State} (hop : a.op = .atomic) (hv : backVary a.back = false)
    (hr : memRead (linesOf a.off.toNat a.len) a.off.toNat a.len s = ((old, false), v))
    (h : memWrite (linesOf a.off.toNat a.len) a.off.toNat a.len (atomicNew a old) false (fun _ n => n) v = (false, u)) :
    applyAccess a s = answer a.back 0 (if fetches a.subop then some old else none) old u := by
  unfold applyAccess
  dsimp only
  rw [hb, hok, hop]
  dsimp only
  rw [hr]
  dsimp only
  unfold atomicNew at h
  rw [h, hv]
  rfl

end Access

/-! ## The access that is taken (R211) -/

/-- The channel's queue, once an access has joined it and been taken. -/
def joinedTaken (c : Nat) (a : MemAcc) (s : State) : State :=
  modChan c (fun ch => { ch with queue := [] }) (modChan c (fun ch => { ch with queue := ch.queue ++ [a] }) s)

theorem noteErrs_none (ls : List Nat) (s : State) : noteErrs ls [] s = s := by
  unfold noteErrs
  rw [List.zip_nil_right]
  rfl

theorem takeAccess_asleep {s : State} {c : Nat} (h : chanAsleep s c = true) (ecc : List Nat) : takeAccess c ecc s = s := by
  unfold takeAccess
  cases (chanOf s c).queue with
  | nil => rfl
  | cons a rest => exact if_pos h

theorem takeAccess_oldest {s : State} {c : Nat} {b : MemAcc} {rest : List MemAcc} (hq : (chanOf s c).queue = b :: rest) (hs : chanAsleep s c = false) :
    takeAccess c [] s = applyAccess b (modChan c (fun ch => { ch with queue := rest }) s) := by
  unfold takeAccess
  rw [hq, hs]
  dsimp only
  rw [noteErrs_none]
  rfl

theorem channelAccess_given {s : State} {c : Nat} {a : MemAcc} (h : accAt a c = true) (ecc : List Nat) :
    channelAccess c (.given a) ecc s = takeAccess c ecc (modChan c (fun ch => { ch with queue := ch.queue ++ [a] }) s) := by
  unfold channelAccess
  dsimp only
  rw [h]
  rfl

section Taken
variable {s : State} {c : Nat} {a : MemAcc}

theorem joinedTaken_same (h : (chanOf s c).queue = []) : joinedTaken c a s = { s with mem := { s.mem with channels := (joinedTaken c a s).mem.channels } }
    ∧ ∀ k, chanOf (joinedTaken c a s) k = chanOf s k := by
  refine ⟨rfl, fun k => ?_⟩
  by_cases hk : k = c
  · rw [hk]
    unfold joinedTaken
    rw [chanOf_modChan, chanOf_modChan, ← h]
  · unfold joinedTaken
    rw [chanOf_modChan_other _ _ hk, chanOf_modChan_other _ _ hk]

theorem exec_channelAccess_first (hcl : Clocked s) (hc : c < 384) (ha : accAt a c = true) (hq : (chanOf s c).queue = []) (hs : chanAsleep s c = false) (ecc : List Nat) :
    exec (.channelAccess c (.given a) ecc) s = .next (keepFixed s (applyAccess a (noteErrs (linesOf a.off.toNat a.len) ecc (joinedTaken c a s)))) := by
  refine (core_next hcl (decide_eq_true hc)).trans (congrArg (fun t => Host.Outcome.next (keepFixed s t)) ?_)
  have hs' : chanAsleep (modChan c (fun ch => { ch with queue := ch.queue ++ [a] }) s) c = false := hs
  unfold channelAccess takeAccess
  dsimp only
  rw [ha, chanOf_modChan, hq, hs']
  rfl

end Taken

/-! ## POISON answers (R378, R390) -/

/-- A POISON answer is recorded of the channel of the extent's first poisoned line. -/
theorem notePoisonIn_some {s : State} {c : Nat} {ls : List Nat} (hc : ∀ l ∈ ls, lineChan l = c) (h : ∃ l ∈ ls, (lineNow s l).2 = true) :
    ∃ loc, notePoisonIn ls s = devFault0 0x82 sevWarn c loc (setRepro 0 s) := by
  unfold notePoisonIn
  cases hf : ls.find? fun l => (lineNow s l).2 with
  | none =>
    obtain ⟨l, hl, hp⟩ := h
    exact absurd hp (List.find?_eq_none.mp hf l hl)
  | some l => exact ⟨lineLocal l, congrArg (fun c => devFault0 0x82 sevWarn c (lineLocal l) (setRepro 0 s)) (hc l (List.mem_of_find?_eq_some hf))⟩

/-- What its record leaves. -/
theorem poisonNoted_all (c loc : Nat) (s : State) : let u := devFault0 0x82 sevWarn c loc (setRepro 0 s)
    u.mem = s.mem ∧ bitAt u.tick.repro 0 = true ∧ SameFixed s u ∧ (s.glb.faults.length < 1024 → Recorded u 0x82 sevWarn c) := by
  have hfo := devFault0_only 0x82 sevWarn c loc (setRepro 0 s)
  refine ⟨hfo.mem, ?_, (show SameFixed s (setRepro 0 s) from ⟨rfl, rfl, rfl⟩).trans hfo.sameFixed, fun h => devFault0_recorded 0x82 sevWarn c loc (setRepro 0 s) h⟩
  have ht := hfo.tickOnly
  have hbit := bitAt_setRepro (i := 0) (by decide) s
  unfold FaultOnly at hfo
  rw [hfo]
  exact hbit

/-! ## A line found in error (R376, R377) -/

/-- A read of one line that the buffer does not hold answers what DRAM's codeword gives. -/
theorem memRead_dram {s u : State} {l : Nat} (off len : Nat) (hf : combFind (chanOf s (lineChan l)) l = none) (hu : eccFound l false s = u) :
    memRead [l] off len s = ((slice (lineNow u l).1 (linePart off len l).1 (linePart off len l).2.2 ++ [], (lineNow u l).2 || false), u) := by
  have hload : lineLoad l s = (lineNow u l, u) := by
    unfold lineLoad
    dsimp only
    rw [hf, ← hu]
  unfold memRead
  rw [hload]
  rfl

theorem accOk_extent {a : MemAcc} (h : accOk a = true) : 1 ≤ a.len ∧ a.off.toNat / 256 = (a.off.toNat + a.len - 1) / 256 := by
  unfold accOk oneGranule at h
  simp only [Bool.and_eq_true, decide_eq_true_eq] at h
  omega

theorem poisonFound_glb (l : Nat) (byScrub : Bool) (word : BitVec 576) (s : State) : (poisonFound l byScrub word s).glb = s.glb := by
  unfold poisonFound
  dsimp only
  split <;> rfl

/-- An access whose channel's buffer alone differs from `s`, as the statement speaks of it. -/
theorem bufferOnly_frame {s s0 u : State} {c n : Nat} (h0 : s0 = { s with mem := { s.mem with channels := s0.mem.channels } }) (h : BufferOnly s0 u c n) :
    u = { s with mem := { s.mem with channels := u.mem.channels } } := by
  rw [h.frame, h0]

theorem BufferOnly.sameFixed {s s0 u : State} {c n : Nat} (h0 : s0 = { s with mem := { s.mem with channels := s0.mem.channels } }) (h : BufferOnly s0 u c n) :
    SameFixed s u := by
  rw [bufferOnly_frame h0 h]
  exact ⟨rfl, rfl, rfl⟩

/-! ## The operations -/

/-- `s0` is `s` once a well-formed access has been taken from the queue of its channel, whose lines' codewords are sound. -/
structure Taken (s s0 : State) (c : Nat) (a : MemAcc) : Prop where
  frame : s0 = { s with mem := { s.mem with channels := s0.mem.channels } }
  chans : ∀ k, chanOf s0 k = chanOf s k
  glb : s0.glb = s.glb
  ok : accOk a = true
  busy : s.mem.tenantBusy = false
  chan : channelOf a.off.toNat = c
  errs : ∀ l ∈ linesOf a.off.toNat a.len, tabGet 0 s.mem.errs l = 0
  room : (chanOf s0 c).comb.length ≤ 28

theorem unpoisoned {s : State} {ls : List Nat} (hp : ∀ l ∈ ls, (lineNow s l).2 = false) : (ls.any fun l => (lineNow s l).2) = false :=
  List.any_eq_false.mpr fun l hl => by rw [hp l hl]; exact Bool.false_ne_true

section Operations
variable {s s0 : State} {c : Nat} {a : MemAcc} (h : Taken s s0 c a)
include h

theorem Taken.now (l : Nat) : lineNow s0 l = lineNow s l :=
  lineNow_congr (by rw [h.chans]) fun _ => by rw [h.frame]; exact ⟨rfl, rfl⟩

theorem Taken.lines : ∀ l ∈ linesOf a.off.toNat a.len, lineChan l = c := fun l hl => by
  obtain ⟨h1, hg⟩ := accOk_extent h.ok
  exact (linesOf_chan h1 hg hl).trans h.chan

theorem Taken.readable : ∀ l ∈ linesOf a.off.toNat a.len, Readable s0 l := fun l hl => .inr (by rw [h.frame]; exact h.errs l hl)

theorem Taken.busy0 : s0.mem.tenantBusy = false := by rw [h.frame]; exact h.busy

theorem Taken.few : (linesOf a.off.toNat a.len).length ≤ 4 := by
  obtain ⟨h1, hg⟩ := accOk_extent h.ok
  exact length_linesOf h1 hg

/-- What a read of the extent gives. -/
theorem Taken.read : ∃ v, memRead (linesOf a.off.toNat a.len) a.off.toNat a.len s0
      = ((lineParts s a.off.toNat a.len, (linesOf a.off.toNat a.len).any fun l => (lineNow s l).2), v)
    ∧ BufferOnly s0 v c 0 ∧ ∀ k, lineNow v k = lineNow s k := by
  obtain ⟨hval, hbuf, hnow⟩ := memRead_readable (linesOf a.off.toNat a.len) a.off.toNat a.len h.lines h.readable (Nat.le_trans h.room (by decide))
  have hparts : partsOf s0 a.off.toNat a.len (linesOf a.off.toNat a.len) = lineParts s a.off.toNat a.len := by
    unfold partsOf lineParts
    simp only [h.now]
  simp only [h.now] at hval
  rw [hparts] at hval
  exact ⟨_, Prod.ext hval rfl, hbuf, fun k => (hnow k).trans (h.now k)⟩

variable (hp : ∀ l ∈ linesOf a.off.toNat a.len, (lineNow s l).2 = false)

section Sound
include hp

theorem Taken.load (hop : a.op = .load) : ∃ u, applyAccess a s0 = answer a.back 0 (some (lineParts s a.off.toNat a.len)) [] u ∧ SameFixed s u
    ∧ u = { s with mem := { s.mem with channels := u.mem.channels } } ∧ ∀ l, lineNow u l = lineNow s l := by
  obtain ⟨v, hr, hbuf, hnow⟩ := h.read
  rw [unpoisoned hp] at hr
  exact ⟨v, applyAccess_load h.busy0 h.ok hop hr, hbuf.sameFixed h.frame, bufferOnly_frame h.frame hbuf, hnow⟩

/-- What a write of the extent leaves, from a state that shows what `s` shows. -/
theorem Taken.write {v : State} (hbuf : BufferOnly s0 v c 0) (hnow : ∀ k, lineNow v k = lineNow s k) (data : List Byte) (isStore : Bool)
    (g : List Byte → List Byte → List Byte) : ∃ u, memWrite (linesOf a.off.toNat a.len) a.off.toNat a.len data isStore g v = (false, u)
      ∧ BufferOnly s0 u c 4 ∧ (∀ l ∈ linesOf a.off.toNat a.len, (combFind (chanOf u c) l).isSome = true)
      ∧ ExtentSet s u a.off.toNat a.len [] (newPart s a.off.toNat a.len data g) := by
  have hroom := h.room
  have hgrow := hbuf.grows
  have hfew := h.few
  obtain ⟨hval, hwrite, hfound, hin, hout⟩ := memWrite_readable (linesOf a.off.toNat a.len) a.off.toNat a.len data isStore g h.lines
    (fun l hl => hbuf.readable (h.readable l hl)) (fun l hl => by rw [hnow]; exact hp l hl) (linesOf_nodup _ _) (by omega)
  have hpart : ∀ l, newPart v a.off.toNat a.len data g l = newPart s a.off.toNat a.len data g l := fun l => by unfold newPart; rw [hnow]
  have hboth := hbuf.trans hwrite
  refine ⟨_, Prod.ext hval rfl, ⟨hboth.frame, Nat.le_trans hboth.grows (by omega), hboth.found⟩, hfound, bufferOnly_frame h.frame hboth, fun l hl => ?_, fun l hl => ?_⟩
  · rw [hin l hl, hpart, hnow]
    rfl
  · rw [hout l hl, hnow]

theorem Taken.reduce (hop : a.op = .reduce) (hv : backVary a.back = false) : ∃ u, applyAccess a s0 = answer a.back 0 none [] u ∧ SameFixed s u
    ∧ ExtentSet s u a.off.toNat a.len [] fun l => elemsOp a.subop.toNat a.dtype.toNat
      (slice (lineNow s l).1 (linePart a.off.toNat a.len l).1 (linePart a.off.toNat a.len l).2.2)
      (slice a.data (linePart a.off.toNat a.len l).2.1 (linePart a.off.toNat a.len l).2.2) := by
  obtain ⟨u, hw, hbuf, -, hset⟩ := h.write hp (BufferOnly.refl s0 c) h.now a.data false (reducePart a.subop a.dtype)
  exact ⟨u, applyAccess_reduce h.busy0 h.ok hop hv hw, hbuf.sameFixed h.frame, hset⟩

theorem Taken.atomic (hop : a.op = .atomic) (hv : backVary a.back = false) : ∃ u, applyAccess a s0 = answer a.back 0
      (if fetches a.subop then some (lineParts s a.off.toNat a.len) else none) (lineParts s a.off.toNat a.len) u ∧ SameFixed s u
    ∧ ExtentSet s u a.off.toNat a.len [] fun l => slice (atomicNew a (lineParts s a.off.toNat a.len)) (linePart a.off.toNat a.len l).2.1
      (linePart a.off.toNat a.len l).2.2 := by
  obtain ⟨v, hr, hrbuf, hnow⟩ := h.read
  rw [unpoisoned hp] at hr
  obtain ⟨u, hw, hbuf, -, hset⟩ := h.write hp hrbuf hnow (atomicNew a (lineParts s a.off.toNat a.len)) false fun _ n => n
  exact ⟨u, applyAccess_atomic h.busy0 h.ok hop hv hr hw, hbuf.sameFixed h.frame, hset⟩

theorem Taken.store (hop : a.op = .store) (hin : ∀ k ∈ a.poison, a.off.toNat / 64 + k ∈ linesOf a.off.toNat a.len) :
    ∃ u, applyAccess a s0 = answer a.back 0 none [] u ∧ SameFixed s u ∧ ExtentSet s u a.off.toNat a.len a.poison fun l =>
      slice a.data (linePart a.off.toNat a.len l).2.1 (linePart a.off.toNat a.len l).2.2 := by
  obtain ⟨w, hw, hbuf, hfound, hset⟩ := h.write hp (BufferOnly.refl s0 c) h.now a.data true fun _ new => new
  have hgrow := hbuf.grows
  have hroom := h.room
  obtain ⟨hpbuf, hpnow⟩ := linesPoisoned_all (a.off.toNat / 64) a.poison (fun k hk => h.lines _ (hin k hk)) (fun k hk => hfound _ (hin k hk)) (by omega)
  have hboth := hbuf.trans hpbuf
  obtain ⟨h1, hg⟩ := accOk_extent h.ok
  refine ⟨_, applyAccess_store h.busy0 h.ok hop hw, hboth.sameFixed h.frame, bufferOnly_frame h.frame hboth, fun l hl => ?_, fun l hl => ?_⟩
  · have hplace := (linesOf_place h1 hg hl).1
    have hany : (a.poison.any fun k => decide (a.off.toNat / 64 + k = l)) = a.poison.contains (l - a.off.toNat / 64) := by
      rw [Bool.eq_iff_iff, List.any_eq_true, List.contains_iff_mem]
      constructor
      · rintro ⟨k, hk, hd⟩
        have hkl := of_decide_eq_true hd
        rwa [show l - a.off.toNat / 64 = k by omega]
      · exact fun hm => ⟨_, hm, decide_eq_true (by omega)⟩
    rw [hpnow, hset.inside l hl, hany]
    rfl
  · have hnone : (a.poison.any fun k => decide (a.off.toNat / 64 + k = l)) = false :=
      List.any_eq_false.mpr fun k hk hd => hl (of_decide_eq_true hd ▸ hin k hk)
    rw [hpnow, hset.outside l hl, hnone, Bool.or_false]

end Sound

theorem Taken.loadPoisoned (hbad : ∃ l ∈ linesOf a.off.toNat a.len, (lineNow s l).2 = true) (hop : a.op = .load) :
    ∃ u, applyAccess a s0 = answer a.back 0x15 none [] u ∧ SameFixed s u ∧ (s.glb.faults.length < 1024 → Recorded u 0x82 sevWarn c)
      ∧ bitAt u.tick.repro 0 = true ∧ ∀ l, lineNow u l = lineNow s l := by
  obtain ⟨v, hr, hbuf, hnow⟩ := h.read
  have hany : ((linesOf a.off.toNat a.len).any fun l => (lineNow s l).2) = true := List.any_eq_true.mpr hbad
  rw [hany] at hr
  obtain ⟨loc, hnote⟩ := notePoisonIn_some (s := v) h.lines (by simp only [hnow]; exact hbad)
  obtain ⟨hmem, hbit, hfix, hrec⟩ := poisonNoted_all c loc v
  refine ⟨_, (applyAccess_load h.busy0 h.ok hop hr).trans (congrArg (answer a.back 0x15 none []) hnote), (hbuf.sameFixed h.frame).trans hfix, fun hroom => hrec ?_, hbit,
    fun l => (lineNow_of_mem hmem l).trans (hnow l)⟩
  rw [bufferOnly_frame h.frame hbuf]
  exact hroom

theorem Taken.erred_fixed {n : Nat} {l : Nat} {u : State} (hu : eccFound l false (erred l n s0) = u) : SameFixed s u := by
  have hkeep : SameFixed (erred l n s0) u := by
    rw [← hu]
    exact (show SameFixed (erred l n s0) { erred l n s0 with mem := (eccFound l false (erred l n s0)).mem } from ⟨rfl, rfl, rfl⟩).trans
      (FaultOnly.sameFixed (eccFound_memOnly l false (erred l n s0)))
  refine SameFixed.trans ?_ hkeep
  show SameFixed s (erred l n s0)
  rw [h.frame]
  exact ⟨rfl, rfl, rfl⟩

theorem Taken.erred_sound {l : Nat} (hnp : s.mem.poison.contains l = false) (n : Nat) : ¬ (erred l n s0).mem.poison.contains l = true := fun hp => by
  have hpoison : (erred l n s0).mem.poison = s.mem.poison := by rw [h.frame]; rfl
  rw [hpoison, hnp] at hp
  cases hp

section Error
variable {l n : Nat} (hop : a.op = .load) (hl : linesOf a.off.toNat a.len = [l]) (hf : combFind (chanOf s c) l = none) (hnp : s.mem.poison.contains l = false)
include hl

theorem Taken.oneChan : lineChan l = c := h.lines l (by rw [hl]; exact List.mem_cons_self)

/-- The errors that the decoder meets are those of the read. -/
theorem Taken.erred_errs (n : Nat) : tabGet 0 (erred l n s0).mem.errs l = n := by
  rw [tabGet_erred_same, h.frame]
  show max n (tabGet 0 s.mem.errs l) = n
  rw [h.errs l (by rw [hl]; exact List.mem_cons_self)]
  exact Nat.max_zero n

include hop hf

/-- The LOAD answers what DRAM's codeword gives. -/
theorem Taken.loadDram {u : State} (hu : eccFound l false (erred l n s0) = u) : applyAccess a (noteErrs [l] [n] s0)
    = if (lineNow u l).2 then answer a.back 0x15 none [] (notePoisonIn [l] u)
      else answer a.back 0 (some (slice (lineNow u l).1 (linePart a.off.toNat a.len l).1 (linePart a.off.toNat a.len l).2.2 ++ [])) [] u := by
  have hc := h.oneChan hl
  have hmem := memRead_dram (s := erred l n s0) a.off.toNat a.len (by
    show combFind (chanOf s0 (lineChan l)) l = none
    rw [h.chans, hc]
    exact hf) hu
  rw [Bool.or_false, ← hl] at hmem
  have happly := applyAccess_load (s := erred l n s0) h.busy0 h.ok hop hmem
  rw [hl] at happly
  exact happly

include hnp

theorem Taken.loadCorrected (hn1 : 1 ≤ n) (hn2 : n ≤ 2) : ∃ u, applyAccess a (noteErrs [l] [n] s0) = answer a.back 0 (some (lineParts s a.off.toNat a.len)) [] u
    ∧ SameFixed s u ∧ (chanOf u c).corr = satAdd (chanOf s c).corr 1 ∧ (s.glb.faults.length < 1024 → Recorded u 0x80 sevInfo c) ∧ ∀ k, lineNow u k = lineNow s k := by
  have hc := h.oneChan hl
  have hecc : eccFound l false (erred l n s0) = corrected l (dramLine (erred l n s0).mem l) (erred l n s0) :=
    eccFound_correctable (u := erred l n s0) (h.erred_sound hnp n) (by rw [h.erred_errs hl]; exact judgeEcc_correctable hn1 hn2 _)
  have hchan : chanOf (erred l n s0) c = chanOf s c := h.chans c
  obtain ⟨hch, -, -, hnow, hrec⟩ := corrected_all (s := erred l n s0) hc (by rw [hchan]; exact hf) (Nat.lt_of_le_of_lt (show (chanOf (erred l n s0) c).comb.length ≤ 28 from h.room) (by decide))
  have hnow := fun k => (hnow (Bool.eq_false_iff.mpr (h.erred_sound hnp n)) k).trans ((lineNow_erred l n k s0).trans (h.now k))
  have happly := h.loadDram hop hl hf hecc
  have hfix := h.erred_fixed hecc
  generalize corrected l _ _ = u at hch hnow hrec happly hfix
  have hpoison : (lineNow s l).2 = false := by rw [lineNow_dram (by rw [hc]; exact hf), hnp]
  have hparts : lineParts s a.off.toNat a.len = slice (lineNow s l).1 (linePart a.off.toNat a.len l).1 (linePart a.off.toNat a.len l).2.2 ++ [] := by
    unfold lineParts
    rw [hl]
    rfl
  rw [hnow, hpoison] at happly
  refine ⟨u, by rw [happly, hparts]; rfl, hfix, ?_, fun hroom => hrec (by rw [show (erred l n s0).glb = s.glb from h.glb]; exact hroom), hnow⟩
  rw [hch, hchan]
  rfl

theorem Taken.loadUncorrectable (hn3 : 3 ≤ n) (hn6 : n ≤ 6) : ∃ u, applyAccess a (noteErrs [l] [n] s0) = answer a.back 0x15 none [] u
    ∧ SameFixed s u ∧ (chanOf u c).uncorr = satAdd (chanOf s c).uncorr 1 ∧ (lineNow u l).2 = true ∧ (∀ k, k ≠ l → lineNow u k = lineNow s k)
      ∧ (s.glb.faults.length < 1023 → Recorded u 0x81 sevError c ∧ Recorded u 0x82 sevWarn c) := by
  have hc := h.oneChan hl
  have hecc := eccFound_uncorrectable (s := erred l n s0) (byScrub := false) (h.erred_sound hnp n) (by rw [h.erred_errs hl]; exact judgeEcc_uncorrectable hn3 hn6 _)
  have hchan : chanOf (erred l n s0) c = chanOf s c := h.chans c
  generalize hw : storedWord (bvBytes (freeCipher (erred l n s0))) true = word at hecc
  obtain ⟨hch, -, -, hbad, hnow, hrec⟩ := uncorrectable_all (s := erred l n s0) hc (by rw [hchan]; exact hf) false word
  have happly := h.loadDram hop hl hf hecc
  have hfix := h.erred_fixed hecc
  have hglb : (poisonFound l false word (erred l n s0)).glb = s.glb := (poisonFound_glb ..).trans h.glb
  have hlen : s.glb.faults.length < 1024 → (devFault0 0x81 sevError (lineChan l) (lineLocal l) (poisonFound l false word (erred l n s0))).glb.faults.length
      ≤ s.glb.faults.length + 1 := fun hroom => Nat.le_trans (devRecord_length (by rw [hglb]; exact hroom)) (by rw [hglb])
  generalize devFault0 _ _ _ _ _ = u at hch hbad hnow hrec happly hfix hlen
  have hone : ∀ k ∈ [l], lineChan k = c := fun k hk => by rw [List.mem_singleton.mp hk, hc]
  obtain ⟨loc, hnote⟩ := notePoisonIn_some (s := u) hone ⟨l, List.mem_cons_self, hbad⟩
  obtain ⟨hmem, -, hfix', hrec'⟩ := poisonNoted_all c loc u
  rw [hbad] at happly
  refine ⟨_, happly.trans (congrArg (answer a.back 0x15 none []) hnote), hfix.trans hfix', ?_, ?_, fun k hk => ?_, fun hroom => ⟨?_, hrec' (Nat.lt_of_le_of_lt (hlen (by omega)) (by omega))⟩⟩
  · unfold chanOf at hch hchan ⊢
    rw [hmem, hch, hchan]
  · rw [lineNow_of_mem hmem]
    exact hbad
  · exact (lineNow_of_mem hmem k).trans ((hnow k hk).trans ((lineNow_erred l n k s0).trans (h.now k)))
  · have hr : Recorded (setRepro 0 u) 0x81 sevError c := hrec (by rw [show (erred l n s0).glb = s.glb from h.glb]; omega)
    exact hr.after _ (Nat.lt_of_le_of_lt (hlen (by omega)) (by omega))

end Error
end Operations

/-- Settles O44: an access that waits or is refused, then the four operations on sound lines, a LOAD of a poisoned line, and the errors that a LOAD
finds. -/
theorem channelAccessesReadAndWriteLines : Obligations.ChannelAccessesReadAndWriteLines := by
  intro s c a hcl hc hat off go first same
  have hchan : channelOf off = c := by
    unfold accAt at hat
    exact of_decide_eq_true (Bool.and_eq_true_iff.mp hat).2
  refine ⟨fun hs => ?_, ?_, fun b rest hq hs => ?_, fun ⟨hq, hs⟩ hb => ?_, fun ⟨hq, hs⟩ hb hok => ?_, fun ⟨hq, hs⟩ hb hok hlen herr => ?_⟩
  · refine (core_next hcl (decide_eq_true hc)).trans ?_
    rw [channelAccess_given hat, takeAccess_asleep (s := modChan c (fun ch => { ch with queue := ch.queue ++ [a] }) s) hs]
    rfl
  · refine (core_next hcl (decide_eq_true hc)).trans
      ((core_next (s := modChan c (fun ch => { ch with queue := ch.queue ++ [a] }) s) hcl (decide_eq_true hc)).trans ?_).symm
    rw [channelAccess_given hat]
    rfl
  · refine (core_next hcl (decide_eq_true hc)).trans ?_
    exact congrArg (fun t => Host.Outcome.next (keepFixed s t)) (takeAccess_oldest hq hs)
  · obtain ⟨hframe, hsame⟩ := joinedTaken_same (a := a) hq
    refine ⟨_, (exec_channelAccess_first hcl hc hat hq hs []).trans ?_, hframe, hsame⟩
    rw [noteErrs_none, applyAccess_scrub (s := joinedTaken c a s) hb]
    exact next_answer (s := s) (u := joinedTaken c a s) ⟨rfl, rfl, rfl⟩ ..
  · obtain ⟨hframe, hsame⟩ := joinedTaken_same (a := a) hq
    refine ⟨_, (exec_channelAccess_first hcl hc hat hq hs []).trans ?_, hframe, hsame⟩
    rw [noteErrs_none, applyAccess_wrong (s := joinedTaken c a s) hb hok]
    exact next_answer (s := s) (u := joinedTaken c a s) ⟨rfl, rfl, rfl⟩ ..
  · obtain ⟨hframe, hsame⟩ := joinedTaken_same (a := a) hq
    have hexec := exec_channelAccess_first hcl hc hat hq hs
    have ht : Taken s (joinedTaken c a s) c a := {
      frame := hframe
      chans := hsame
      glb := rfl
      ok := hok
      busy := hb
      chan := hchan
      errs := herr
      room := by rw [hsame]; exact hlen }
    refine ⟨fun hp => ⟨fun hop => ?_, fun hop hin => ?_, fun hop hv => ?_, fun hop hv => ?_⟩, fun hbad hop => ?_, fun l n hop hl hf hnp => ⟨fun hn1 hn2 => ?_, fun hn3 hn6 => ?_⟩⟩
    · obtain ⟨u, hu, hfix, hfr, hnow⟩ := ht.load hp hop
      exact ⟨u, (hexec []).trans (by rw [noteErrs_none, hu, next_answer hfix]), hfr, hnow⟩
    · obtain ⟨u, hu, hfix, hset⟩ := ht.store hp hop hin
      exact ⟨u, (hexec []).trans (by rw [noteErrs_none, hu, next_answer hfix]), hset⟩
    · obtain ⟨u, hu, hfix, hset⟩ := ht.reduce hp hop hv
      exact ⟨u, (hexec []).trans (by rw [noteErrs_none, hu, next_answer hfix]), hset⟩
    · obtain ⟨u, hu, hfix, hset⟩ := ht.atomic hp hop hv
      exact ⟨u, (hexec []).trans (by rw [noteErrs_none, hu, next_answer hfix]), hset⟩
    · obtain ⟨u, hu, hfix, hrest⟩ := ht.loadPoisoned hbad hop
      exact ⟨u, (hexec []).trans (by rw [noteErrs_none, hu, next_answer hfix]), hrest⟩
    · obtain ⟨u, hu, hfix, hrest⟩ := ht.loadCorrected hop hl hf hnp hn1 hn2
      exact ⟨u, (hexec [n]).trans (by rw [hl, hu, next_answer hfix]), hrest⟩
    · obtain ⟨u, hu, hfix, hrest⟩ := ht.loadUncorrectable hop hl hf hnp hn3 hn6
      exact ⟨u, (hexec [n]).trans (by rw [hl, hu, next_answer hfix]), hrest⟩

end Sys2Proof.Machine
end

section
/-! SUPPORT. Dispatch and the optimizer's steps (R347, R348, R365, R366). -/

namespace Sys2Proof.Machine

open Sys2Proof

/-! ## The service unit stands -/

theorem NodeOnly.svc {s t : State} (h : NodeOnly s t) : t.svc = s.svc := by
  unfold NodeOnly FaultOnly at h
  rw [h]

theorem dieWrite_only (off : Nat) (data : List Byte) (s : State) : NodeOnly s (dieWrite off data s).2 := by
  have hwake := wakeNode_only s
  unfold dieWrite
  dsimp only
  generalize wakeNode s = u at *
  split
  · exact hwake
  · have hwrite := (memWrite_memOnly (linesOf off data.length) off data.length data true (fun _ new => new) u).dieOnly.nodeOnly
    dsimp only
    split
    · exact (hwake.trans hwrite).trans (notePoisonIn_tickOnly _ _).dieOnly.nodeOnly
    · exact hwake.trans hwrite

theorem putOwn_only (off : Nat) (bs : List Byte) (s : State) : NodeOnly s (putOwn off bs s) := by
  unfold putOwn
  split
  · exact NodeOnly.refl s
  · exact dieWrite_only off bs s

theorem storePoisoned_svc (array : Nat) (s : State) : (storePoisoned array s).svc = s.svc := by
  unfold storePoisoned
  cases (arrOf s array).run with
  | none => rfl
  | some r =>
    dsimp only
    split
    · rfl
    · exact (devFault0_only ..).tickOnly.dieOnly.nodeOnly.svc

theorem advanceRun_svc (array stop : Nat) (s : State) : (advanceRun array stop s).svc = s.svc := by
  unfold advanceRun
  cases (arrOf s array).run with
  | none => rfl
  | some r =>
    dsimp only
    cases residentProg (arrOf s array) r.prog with
    | none => rfl
    | some p =>
      dsimp only
      split
      · exact storePoisoned_svc ..
      · rfl

theorem postRun_svc (array : Nat) (p : Prog) (record amax : List Byte) (s : State) : (postRun array p record amax s).svc = s.svc := by
  have hrec := (putOwn_only (hdCplAddr p.hdr + 32 * (p.run.toNat % 2 ^ hdCplLog p.hdr)) record s).svc
  unfold postRun
  dsimp only
  generalize putOwn _ record s = u at hrec ⊢
  have hamax : (if hdAmaxAddr p.hdr = 0 then u else putOwn (hdAmaxAddr p.hdr) amax u).svc = s.svc := by
    split
    · exact hrec
    · exact (putOwn_only ..).svc.trans hrec
  split
  · exact hamax
  · exact hamax

theorem runExtra_svc (p : Prog) (r : Run) (s : State) : (runExtra p r s).2.svc = s.svc := by
  unfold runExtra
  split <;> rfl

theorem runStall_svc (r : Run) (s : State) : (runStall r s).2.svc = s.svc := by
  unfold runStall
  split <;> rfl

theorem noteVary_svc (vary : Bool) (s : State) : (noteVary vary s).svc = s.svc := by
  unfold noteVary
  split <;> rfl

theorem finishRun_svc (array base : Nat) (p : Prog) (r : Run) (s : State) : (finishRun array base p r s).svc = s.svc := by
  have hextra := runExtra_svc p r s
  unfold finishRun
  dsimp only
  generalize runExtra p r s = x at hextra ⊢
  have hstall := runStall_svc r x.2
  generalize runStall r x.2 = y at hstall ⊢
  rw [noteVary_svc, postRun_svc]
  exact hstall.trans hextra

theorem runOver_svc (array : Nat) (s : State) : (runOver array s).svc = s.svc := by
  unfold runOver
  cases (arrOf s array).run with
  | none => rfl
  | some r =>
    dsimp only
    cases residentProg (arrOf s array) r.prog with
    | none => rfl
    | some p =>
      dsimp only
      split
      · rfl
      · have hadv : (if r.halted then s else advanceRun array (runBase s p r) s).svc = s.svc := by
          split
          · rfl
          · exact advanceRun_svc ..
        generalize (if r.halted then s else advanceRun array (runBase s p r) s) = u at hadv ⊢
        cases (arrOf u array).run with
        | none => exact hadv
        | some q => exact (finishRun_svc ..).trans hadv

/-! ## Dispatch -/

section Dispatch
variable {s : State} {c : SvcCallIn} {a : Nat}

theorem lostCall_none (h : ∀ x ∈ s.svc.running, x.2.isSome = true) : lostCall s = none := by
  unfold lostCall
  refine List.findSome?_eq_none_iff.mpr fun x hx => ?_
  obtain ⟨b, hb⟩ := Option.isSome_iff_exists.mp (h x hx)
  rw [hb]
  rfl

/-- A call is refused for what its service's entry and state, and its own bytes, say. -/
theorem callRefused_none : callRefused c s = none ↔ eKind (svcEntry s c.svc) ≠ 0 ∧ (svcOf s c.svc).state ≠ .failed
    ∧ ¬ (c.payload.length < 32 ∨ callReserved c.payload = true) ∧ sopFor (eKind (svcEntry s c.svc)) (cSop c.payload) = true
    ∧ c.payload.length = 32 + inlineLen c.payload := by
  unfold callRefused svcEntry
  dsimp only
  split_ifs <;> simp_all

/-- The call at the front of the queue is the first that can start, where none waits before it. -/
theorem dispatchNext_front {rest : List SvcCallIn} (hq : s.svc.queue = c :: rest) (hrun : ∀ x ∈ s.svc.running, x.2.isSome = true)
    (hroom : s.svc.queue.length < 4096) (hok : callRefused c s = none) (hw : stepWaits s c.svc = false) (ha : freeArray s c.svc = some a) :
    dispatchNext s = svcRun c.svc a (modSvc (fun u => { u with queue := rest, running := u.running ++ [(c, some a)] }) s) := by
  have hseen : (s.svc.running.filter (·.2.isNone)) = [] := List.filter_eq_nil_iff.mpr fun x hx => by
    rw [Option.eq_some_of_isSome (hrun x hx)]
    exact Bool.false_ne_true
  have hfirst : dispatchable s s.svc.queue ((s.svc.running.filter (·.2.isNone)).map (·.1.svc)) = some c := by
    rw [hseen, hq]
    unfold dispatchable
    rw [ha]
    exact if_pos (by simp)
  unfold dispatchNext
  rw [hfirst]
  dsimp only
  have hrefused : callRefused c (modSvc (fun u => { u with queue := u.queue.erase c }) s) = none := callRefused_none.mpr (callRefused_none (s := s).mp hok)
  have hwait : stepWaits (modSvc (fun u => { u with queue := u.queue.erase c }) s) c.svc = false := hw
  have hfree : freeArray (modSvc (fun u => { u with queue := u.queue.erase c }) s) c.svc = some a := ha
  have herase : s.svc.queue.erase c = rest := by rw [hq, List.erase_cons_head]
  have hplace : ∀ t, queuePlace s.svc.queue.length t = t := fun t => if_neg (Nat.not_le.mpr hroom)
  rw [hplace, hrefused, hwait]
  dsimp only
  rw [if_neg Bool.false_ne_true, hfree]
  dsimp only
  show svcRun c.svc a (modSvc _ { s with svc := { s.svc with queue := s.svc.queue.erase c } }) = _
  rw [herase]
  rfl

end Dispatch

/-! ## Calls presented to a service -/

/-- What a call presented to an ACTIVE service does, by the meaning of its SOP. -/
theorem runCall_given {s u : State} {c : SvcCallIn} {sop : Nat} {f : Option Nat → Nat → List Byte → Back → State → Bool × State} {bad : Bool}
    (hok : callRefused c s = none) (hact : (svcOf s c.svc).state = .active) (hsop : cSop c.payload = sop) (hf : f none c.svc c.payload c.back s = (bad, u)) :
    runCall sop f (.given c) s = if bad then callPoison c.svc u else u := by
  unfold runCall
  dsimp only
  rw [hok, hact]
  dsimp only [stateScode]
  rw [if_neg (not_not_intro hsop), hf]

theorem runCall_good {s u : State} {c : SvcCallIn} {sop : Nat} {f : Option Nat → Nat → List Byte → Back → State → Bool × State}
    (hok : callRefused c s = none) (hact : (svcOf s c.svc).state = .active) (hsop : cSop c.payload = sop) (hf : f none c.svc c.payload c.back s = (false, u)) :
    runCall sop f (.given c) s = u := by
  rw [runCall_given hok hact hsop hf]
  exact if_neg Bool.false_ne_true

/-! ## Steps -/

section Steps
variable {s : State} {k : Nat} (at_ : Option Nat)

theorem stepAsked_idle (h : (svcOf s k).stepRunning = false) : stepAsked k at_ s = (true, stepBegin k at_ s) := by
  unfold stepAsked
  dsimp only
  rw [h]
  rfl

variable (hr : (svcOf s k).stepRunning = true)
include hr

theorem stepAsked_running (h : (svcOf s k).stepPending = false) : stepAsked k at_ s = (true, modSvcN k (fun v => { v with stepPending := true }) s) := by
  unfold stepAsked
  dsimp only
  rw [hr, h]
  rfl

theorem stepAsked_busy (h : (svcOf s k).stepPending = true) : stepAsked k at_ s = (false, s) := by
  unfold stepAsked
  dsimp only
  rw [hr, h]
  rfl

end Steps

/-- A STORE to a trigger that starts nothing has its record. -/
theorem optTrigger_refused {s : State} {k : Nat} (b : Back) (h : (if (svcOf s k).state = .active then stepAsked k none s else (false, s)) = (false, s)) :
    optTrigger k b s = answer b 0 none [] (devFault0 0x73 sevWarn k 0 s) := by
  unfold optTrigger
  rw [h]
  rfl

theorem optTrigger_asks {s u : State} {k : Nat} (b : Back) (hact : (svcOf s k).state = .active) (h : stepAsked k none s = (true, u)) :
    optTrigger k b s = answer b 0 none [] u := by
  unfold optTrigger
  rw [if_pos hact, h]
  rfl

/-- What an OPT_STEP answers, by what the step that it asks for does. -/
theorem optStep_taken {s u : State} {k : Nat} {p : List Byte} (b : Back) (hp : fieldsOk p = true) (h : stepAsked k none s = (true, u)) :
    optStep none k p b s = (false, replyCall k b 0 scOk 0 0 u) := by
  unfold optStep
  rw [hp, h]
  rfl

theorem optStep_busy {s u : State} {k : Nat} {p : List Byte} (b : Back) (hp : fieldsOk p = true) (h : stepAsked k none s = (false, u)) :
    optStep none k p b s = (false, replyCall k b 0 scBusy 0 0 u) := by
  unfold optStep
  rw [hp, h]
  rfl

/-- The state in which a step has ended, as R366 leaves it. -/
def stepEnded (k : Nat) (s : State) : State :=
  let u := modSvcN k (fun v => { v with stepRunning := false, stepBlock := [], stepBad := false, stepArray := none }) (stepRun k s)
  (svcOf s k).stepArray.elim u (runOver · u)

theorem stepEnded_stepRunning (k : Nat) (s : State) : (svcOf (stepEnded k s) k).stepRunning = false := by
  have hu := congrArg Svc.stepRunning (svcOf_modSvcN k (fun v => { v with stepRunning := false, stepBlock := [], stepBad := false, stepArray := none }) (stepRun k s))
  unfold stepEnded
  dsimp only
  generalize modSvcN k _ (stepRun k s) = u at hu ⊢
  cases (svcOf s k).stepArray with
  | none => exact hu
  | some a =>
    unfold svcOf at hu ⊢
    show (tabGet {} (runOver a u).svc.svcs k).stepRunning = false
    rw [runOver_svc]
    exact hu

theorem optStepDone_quiet {s : State} {k : Nat} (hr : (svcOf s k).stepRunning = true) (hq : ∀ a, (svcOf s k).stepArray = some a → stepRunQuiet s a = true) :
    optStepDone k s = if (svcOf (stepEnded k s) k).stepPending then stepBegin k none (modSvcN k (fun v => { v with stepPending := false }) (stepEnded k s))
      else stepEnded k s := by
  have hgo : ¬ (!(svcOf s k).stepRunning || !((svcOf s k).stepArray.elim true (stepRunQuiet s))) = true := by
    rw [hr]
    cases ha : (svcOf s k).stepArray with
    | none => exact Bool.false_ne_true
    | some a =>
      show ¬ (false || !stepRunQuiet s a) = true
      rw [hq a ha]
      exact Bool.false_ne_true
  unfold optStepDone stepEnded
  dsimp only
  cases ha : (svcOf s k).stepArray with
  | none =>
    rw [ha] at hgo
    exact if_neg hgo
  | some a =>
    rw [ha] at hgo
    exact if_neg hgo

/-- Settles O51: the dispatch of calls, then steps that are asked for, and the end of one. -/
theorem callsAreDispatchedAndStepsRun : Obligations.CallsAreDispatchedAndStepsRun := by
  refine ⟨fun s c rest a hcl hq hrun hroom hok hw ha => ?_, fun s c a hcl hlost => ?_, fun s k hcl hk hex => ?_, fun s c hcl hok hact hsop hp => ?_,
    fun s k b hcl hk hkind => ?_, fun s k hcl hk hr hquiet => ?_⟩
  · refine (coreLive_next hcl).trans ?_
    unfold svcDispatch
    rw [lostCall_none hrun, dispatchNext_front hq hrun hroom hok hw ha]
    rfl
  · refine (coreLive_next hcl).trans ?_
    unfold svcDispatch
    rw [hlost]
    rfl
  · have hfo := devFault0_only 0x71 sevWarn k 0 s
    obtain ⟨c, hc, hck⟩ := hex
    have hany : (s.svc.queue.any fun c => decide (c.svc = k)) = true := List.any_eq_true.mpr ⟨c, hc, decide_eq_true hck⟩
    refine ⟨_, ?_, hfo, fun hroom => devFault0_recorded _ _ _ _ _ hroom⟩
    refine (core_next hcl (decide_eq_true hk)).trans ?_
    unfold svcStarve
    rw [if_pos (by rw [hany]; rfl)]
    exact hfo.settled.next rfl rfl rfl
  · have hexec : ∀ u, optStep none c.svc c.payload c.back s = (false, u) → exec (.optStep (.given c)) s = .next (keepFixed s u) := fun u h =>
      (coreLive_next hcl).trans (congrArg (fun t => Host.Outcome.next (keepFixed s t)) (runCall_good hok hact hsop h))
    refine ⟨fun h => ?_, fun hr h => ?_, fun hr h => ?_⟩
    · exact hexec _ (optStep_taken c.back hp (stepAsked_idle none h))
    · exact hexec _ (optStep_taken c.back hp (stepAsked_running none hr h))
    · exact hexec _ (optStep_busy c.back hp (stepAsked_busy none hr h))
  · have hexec : exec (.optTrigger k (.given b)) s = .next (keepFixed s (optTrigger k b s)) := by
      refine (core_next hcl (decide_eq_true hk)).trans ?_
      rw [if_neg (not_not_intro hkind)]
    refine ⟨fun hact h => ?_, fun hact hr h => ?_, fun h => ?_⟩
    · rw [hexec, optTrigger_asks b hact (stepAsked_idle none h)]
    · rw [hexec, optTrigger_asks b hact (stepAsked_running none hr h)]
    · refine ⟨_, hexec.trans (congrArg (fun t => Host.Outcome.next (keepFixed s t)) (optTrigger_refused b ?_)), devFault0_only .., fun hroom => devFault0_recorded _ _ _ _ _ hroom⟩
      split
      case isTrue hact =>
        obtain ⟨hr, hpend⟩ := h.resolve_left (not_not_intro hact)
        exact stepAsked_busy none hr hpend
      case isFalse => rfl
  · have hexec : exec (.optStepDone k) s = .next (keepFixed s (optStepDone k s)) := core_next hcl (decide_eq_true hk)
    rw [optStepDone_quiet hr hquiet] at hexec
    have hstop := stepEnded_stepRunning k s
    intro u w
    have hw : w = stepEnded k s := by
      unfold w stepEnded
      cases (svcOf s k).stepArray <;> rfl
    rw [hw]
    refine ⟨fun h => ?_, fun h => ⟨?_, hstop⟩⟩
    · rw [if_pos h] at hexec
      exact hexec
    · rw [if_neg (by rw [h]; exact Bool.false_ne_true)] at hexec
      exact hexec

end Sys2Proof.Machine
end

section
/-! SUPPORT. The tensor pool's calls (R349-R361). -/

namespace Sys2Proof.Machine

open Sys2Proof

/-! ## Answers and the slots of a pool -/

theorem answer_keeps (b : Back) (status : Byte) (data : Option (List Byte)) (saved : List Byte) (s : State) :
    (answer b status data saved s).svc = s.svc ∧ (answer b status data saved s).mem = s.mem := by
  cases b with
  | nowhere => exact ⟨rfl, rfl⟩
  | notify t =>
    unfold answer
    dsimp only
    split
    · exact ⟨rfl, rfl⟩
    · have hfo := devFault0_only 0x58 sevWarn t 0 (modTly (fun u => { u with
        notifyErrCnt := satAdd u.notifyErrCnt 1, tallies := tabMod {} u.tallies t (fun y => { y with ctl := putBits y.ctl 27 1 1 }) }) s)
      exact ⟨hfo.tickOnly.dieOnly.nodeOnly.svc, hfo.mem⟩
  | request p wb dup =>
    have hrespond : ∀ u, (respond p wb status data dup u).svc = u.svc ∧ (respond p wb status data dup u).mem = u.mem := fun u => by
      cases data <;> exact ⟨rfl, rfl⟩
    cases dup with
    | true => exact hrespond s
    | false =>
      unfold answer
      dsimp only
      rw [if_neg Bool.false_ne_true]
      refine ⟨(hrespond _).1.trans ?_, (hrespond _).2.trans ?_⟩ <;> cases p <;> rfl

section Slots
variable {s : State} {k : Nat}

theorem svcOf_replyCall (b : Back) (st : Byte) (sc info h : Nat) (s : State) : svcOf (replyCall k b st sc info h s) k
    = { svcOf s k with calls := satAdd (svcOf s k).calls 1, errs := satAdd (svcOf s k).errs (ofB (decide (sc ≠ 0) || decide (st ≠ 0))) } := by
  unfold replyCall
  dsimp only
  refine Eq.trans ?_ (svcOf_modSvcN k (fun v => { v with
    calls := satAdd v.calls 1, errs := satAdd v.errs (ofB (decide (sc ≠ 0) || decide (st ≠ 0))) }) s)
  unfold svcOf
  rw [(answer_keeps ..).1]
  rfl

theorem poolSlot_replyCall (b : Back) (st : Byte) (sc info h : Nat) (s : State) (j : Nat) : poolSlot (replyCall k b st sc info h s) k j = poolSlot s k j := by
  unfold poolSlot
  rw [svcOf_replyCall]

theorem replyCall_mem (b : Back) (st : Byte) (sc info h : Nat) (s : State) : (replyCall k b st sc info h s).mem = s.mem := (answer_keeps ..).2

theorem poolSlot_modPoolSlot (i : Nat) (f : PoolSlot → PoolSlot) (s : State) : poolSlot (modPoolSlot k i f s) k i = f (poolSlot s k i) := by
  unfold poolSlot modPoolSlot
  rw [svcOf_modSvcN]
  exact tabGet_mod_same {} (svcOf s k).slots i f

theorem poolSlot_modPoolSlot_other {i j : Nat} (f : PoolSlot → PoolSlot) (s : State) (h : j ≠ i) : poolSlot (modPoolSlot k i f s) k j = poolSlot s k j := by
  unfold poolSlot modPoolSlot
  rw [svcOf_modSvcN]
  exact tabGet_mod_other {} (svcOf s k).slots f h

theorem NodeOnly.poolSlot {t : State} (h : NodeOnly s t) (j : Nat) : Machine.poolSlot t k j = Machine.poolSlot s k j := by
  unfold Machine.poolSlot svcOf
  rw [h.svc]

end Slots

/-! ## Reads across channels -/

/-- `u` is `s` but for the order of lines in combining buffers, so that accesses read what they read. -/
structure LoadsKept (s u : State) : Prop where
  frame : u = { s with mem := { s.mem with channels := u.mem.channels } }
  grows : ∀ c, (chanOf u c).comb.length ≤ (chanOf s c).comb.length
  now : ∀ k, lineNow u k = lineNow s k

theorem LoadsKept.refl (s : State) : LoadsKept s s := ⟨rfl, fun _ => Nat.le_refl _, fun _ => rfl⟩

theorem LoadsKept.trans {s t u : State} (h : LoadsKept s t) (k : LoadsKept t u) : LoadsKept s u :=
  ⟨by rw [k.frame, h.frame], fun c => Nat.le_trans (k.grows c) (h.grows c), fun l => (k.now l).trans (h.now l)⟩

theorem LoadsKept.readable {s u : State} (h : LoadsKept s u) {l : Nat} (hr : Readable s l) : Readable u l := by
  unfold Readable
  rw [h.frame]
  exact hr

theorem lineLoad_kept {s : State} {l : Nat} (hr : Readable s l) (h32 : (chanOf s (lineChan l)).comb.length ≤ 32) :
    (lineLoad l s).1 = lineNow s l ∧ LoadsKept s (lineLoad l s).2 := by
  obtain ⟨hval, hbuf, hnow⟩ := lineLoad_readable rfl hr h32
  refine ⟨hval, hbuf.frame, fun c => ?_, hnow⟩
  by_cases hc : c = lineChan l
  · rw [hc]
    exact hbuf.grows
  · have hsame : chanOf (lineLoad l s).2 c = chanOf s c := by
      unfold lineLoad
      dsimp only
      cases hf : combFind (chanOf s (lineChan l)) l with
      | some e =>
        have hl : e.line = l := entryOf_line hf
        dsimp only
        rw [combPlace_again (by rw [hl, hf]; rfl) h32]
        exact chanOf_modChan_other _ s hc
      | none =>
        dsimp only
        rw [eccFound_readable hr]
    rw [hsame]

theorem memRead_kept {s : State} (ls : List Nat) (off len : Nat) (hr : ∀ l ∈ ls, Readable s l) (h32 : ∀ l ∈ ls, (chanOf s (lineChan l)).comb.length ≤ 32) :
    (memRead ls off len s).1 = (partsOf s off len ls, ls.any fun l => (lineNow s l).2) ∧ LoadsKept s (memRead ls off len s).2 := by
  induction ls generalizing s with
  | nil => exact ⟨rfl, LoadsKept.refl s⟩
  | cons l ls ih =>
    obtain ⟨hval, hkept⟩ := lineLoad_kept (hr l List.mem_cons_self) (h32 l List.mem_cons_self)
    rcases hload : lineLoad l s with ⟨⟨d, p⟩, v⟩
    rw [hload] at hval hkept
    obtain ⟨hval', hkept'⟩ := ih (s := v) (fun k hk => hkept.readable (hr k (List.mem_cons_of_mem _ hk)))
      (fun k hk => Nat.le_trans (hkept.grows _) (h32 k (List.mem_cons_of_mem _ hk)))
    rcases hrest : memRead ls off len v with ⟨⟨ds, q⟩, w⟩
    rw [hrest] at hval' hkept'
    have hd : d = (lineNow s l).1 := congrArg Prod.fst hval
    have hp : p = (lineNow s l).2 := congrArg Prod.snd hval
    have hds : ds = partsOf v off len ls := congrArg Prod.fst hval'
    have hq : q = ls.any fun l => (lineNow v l).2 := congrArg Prod.snd hval'
    unfold memRead
    rw [hload]
    dsimp only
    rw [hrest]
    dsimp only
    refine ⟨?_, hkept.trans hkept'⟩
    rw [hd, hp, hds, hq]
    unfold partsOf
    rw [List.flatMap_cons, List.any_cons]
    simp only [hkept.now]

/-- A read of the module's own of sound lines gives their bytes. -/
theorem dieRead_sound {s : State} {off len : Nat} (hm : MemServes s)
    (h : ∀ l ∈ linesOf off len, (lineNow s l).2 = false ∧ tabGet 0 s.mem.errs l = 0 ∧ (chanOf s (lineChan l)).comb.length ≤ 27) :
    ∃ u, dieRead off len s = ((lineParts s off len, false), u) ∧ LoadsKept s u := by
  obtain ⟨hval, hkept⟩ := memRead_kept (linesOf off len) off len (fun l hl => .inr (h l hl).2.1) (fun l hl => Nat.le_trans (h l hl).2.2 (by decide))
  rw [unpoisoned fun l hl => (h l hl).1] at hval
  rw [dieRead_serves hm]
  rcases hread : memRead (linesOf off len) off len s with ⟨⟨d, p⟩, u⟩
  rw [hread] at hval hkept
  obtain ⟨rfl, rfl⟩ := Prod.mk.inj hval
  exact ⟨u, rfl, hkept⟩

/-! ## The operations (R358, R359) -/

section Operations
variable {s : State} {k : Nat} {p : List Byte} (b : Back)

/-- A call that names a key, and no ODTYPE. -/
theorem named (hk : cKey p ≠ 0) (hp : fieldsOk p = true) : ¬ (cKey p = 0 ∨ (!fieldsOk p) = true) :=
  not_or.mpr ⟨hk, by rw [hp]; exact Bool.false_ne_true⟩

theorem poolLookup_missing (hk : cKey p ≠ 0) (hp : fieldsOk p = true) (h : keySlot s k (cKey p) = none) :
    poolLookup k p b s = wordReply k b scMiss 0 s := by
  unfold poolLookup
  rw [h, if_neg (named hk hp)]

theorem poolLookup_found {i : Nat} (hk : cKey p ≠ 0) (hp : fieldsOk p = true) (h : keySlot s k (cKey p) = some i) :
    poolLookup k p b s = wordReply k b scOk (poolHandle s k i) (modPoolSlot k i (fun x => { x with ref := true }) s) := by
  unfold poolLookup
  rw [h, if_neg (named hk hp)]

theorem poolRead_stale (hr : readFields p = true) (hp : fieldsOk p = true) (h : handleSlot s k (cHandle p) = none) :
    poolRead k p b s = wordReply k b scStale 0 s := by
  unfold poolRead
  rw [h, hr, hp]
  rfl

theorem poolRead_committed {i : Nat} {d : List Byte} {u : State} (hr : readFields p = true) (hp : fieldsOk p = true) (h : handleSlot s k (cHandle p) = some i)
    (hc : (poolSlot s k i).state = .committed) (hb : cBoff p + cDlen p ≤ blockSize s k) (hd : dieRead (slotAddr s k i + cBoff p) (cDlen p) s = ((d, false), u)) :
    poolRead k p b s = (false, answer b 0 (some d) [] (countCall k false u)) := by
  unfold poolRead
  rw [h, hr, hp]
  dsimp only
  rw [if_neg (not_not_intro hc), if_neg (Nat.not_lt.mpr hb), hd]
  rfl

theorem poolBegin_taken (hk : cKey p ≠ 0) (hp : fieldsOk p = true) (h : (keySlot s k (cKey p)).isSome = true) (hf : cFlags p / 2 % 2 = 0) :
    poolBegin k p b s = wordReply k b scExists 0 s := by
  unfold poolBegin
  dsimp only
  rw [h, hf, if_neg (named hk hp)]
  rfl

theorem takeSlot_free {i : Nat} (h : firstFreeSlot (svcOf s k).slots (eBlocks (svcEntry s k)) 0 = some i) : takeSlot k s = (some i, s) := by
  unfold takeSlot
  unfold svcEntry at h
  dsimp only
  rw [h]

/-- The slot that a PUT_BEGIN opens. -/
def opened (p : List Byte) (x : PoolSlot) : PoolSlot :=
  { x with state := .openPut, pin := decide (cFlags p % 2 = 1), ref := false, replace := decide (cFlags p / 2 % 2 = 1), key := cKey p, sawCommit := false }

theorem poolBegin_opens {i : Nat} (hk : cKey p ≠ 0) (hp : fieldsOk p = true) (h : keySlot s k (cKey p) = none ∨ cFlags p / 2 % 2 = 1)
    (hf : firstFreeSlot (svcOf s k).slots (eBlocks (svcEntry s k)) 0 = some i) : ∃ handle, poolBegin k p b s
      = wordReply k b scOk handle (modPoolSlot k i (opened p) (dieWrite (slotAddr s k i) (zeros (blockSize s k)) s).2) := by
  have hgo : ¬ ((keySlot s k (cKey p)).isSome && !decide (cFlags p / 2 % 2 = 1)) = true := by
    rcases h with h | h
    · rw [h]
      exact Bool.false_ne_true
    · rw [h]
      simp
  refine ⟨poolHandle (modPoolSlot k i (opened p) (dieWrite (slotAddr s k i) (zeros (blockSize s k)) s).2) k i, ?_⟩
  unfold poolBegin
  dsimp only
  rw [if_neg (named hk hp), if_neg hgo, takeSlot_free hf]
  rfl

/-- An operation on an open slot, once its fields are right. -/
theorem poolData_open {i : Nat} {bad : Bool} {u : State} (h0 : 0 < cDlen p) (h224 : cDlen p ≤ 224) (hb : cBoff p % 32 = 0) (hp : fieldsOk p = true)
    (h : openSlot s k p = .inl i) (hbs : cBoff p + cDlen p ≤ blockSize s k) (hw : dieWrite (slotAddr s k i + cBoff p) ((cInline p).take (cDlen p)) s = (bad, u)) :
    poolData k p b s = (bad, replyCall k b (if bad then 0x15 else 0) scOk 0 0 u) := by
  unfold poolData
  rw [h, hp, if_neg (by simp [hb]; omega)]
  dsimp only
  rw [if_neg (Nat.not_lt.mpr hbs), hw]

theorem poolAbort_open {i : Nat} (hp : fieldsOk p = true) (h : openSlot s k p = .inl i) : poolAbort k p b s = wordReply k b scOk 0 (releaseSlot k i s) := by
  unfold poolAbort
  rw [h, hp]
  rfl

theorem poolDelete_found {i : Nat} (hk : cKey p ≠ 0) (hp : fieldsOk p = true) (h : keySlot s k (cKey p) = some i) :
    poolDelete k p b s = wordReply k b scOk 0 (releaseSlot k i s) := by
  unfold poolDelete
  rw [h, if_neg (named hk hp)]

theorem poolDelete_missing (hk : cKey p ≠ 0) (hp : fieldsOk p = true) (h : keySlot s k (cKey p) = none) :
    poolDelete k p b s = wordReply k b scMiss 0 s := by
  unfold poolDelete
  rw [h, if_neg (named hk hp)]

/-! ## PUT_COMMIT -/

/-- An open slot of a key of which a commit has been seen. -/
def commitSeen (key : BitVec 64) (x : PoolSlot) : PoolSlot := if x.state = .openPut ∧ x.key = key then { x with sawCommit := true } else x

theorem commitSeen_key (key : BitVec 64) (x : PoolSlot) : (commitSeen key x).key = x.key := by
  unfold commitSeen
  split <;> rfl

/-- What a commit of slot `i` leaves, once an earlier slot of its key is free. -/
def committed (k i : Nat) (key : BitVec 64) (s : State) : State :=
  modPoolSlot k i (fun x => { x with state := .committed, sawCommit := false })
    (modSvcN k (fun v => { v with slots := v.slots.map fun e => (e.1, commitSeen key e.2) }) s)

theorem poolSlot_commitSeen (key : BitVec 64) (s : State) (j : Nat) :
    poolSlot (modSvcN k (fun v => { v with slots := v.slots.map fun e => (e.1, commitSeen key e.2) }) s) k j = commitSeen key (poolSlot s k j) := by
  unfold poolSlot
  rw [svcOf_modSvcN]
  exact tabGet_map rfl (svcOf s k).slots j

theorem poolSlot_committed (i : Nat) (key : BitVec 64) (s : State) :
    (poolSlot (committed k i key s) k i).state = .committed ∧ (poolSlot (committed k i key s) k i).key = (poolSlot s k i).key := by
  unfold committed
  rw [poolSlot_modPoolSlot, poolSlot_commitSeen]
  exact ⟨rfl, commitSeen_key key _⟩

theorem poolSlot_committed_other {i j : Nat} (key : BitVec 64) (s : State) (h : j ≠ i) :
    poolSlot (committed k i key s) k j = commitSeen key (poolSlot s k j) := by
  unfold committed
  rw [poolSlot_modPoolSlot_other _ _ h, poolSlot_commitSeen]

theorem poolCommit_open {i : Nat} (hp : fieldsOk p = true) (h : openSlot s k p = .inl i) (hgo : (poolSlot s k i).replace = true ∨ (poolSlot s k i).sawCommit = false) :
    poolCommit k p b s
      = wordReply k b scOk 0 (committed k i (poolSlot s k i).key ((keySlot s k (poolSlot s k i).key).elim s (releaseSlot k · s))) := by
  have hno : ¬ (!(poolSlot s k i).replace && (poolSlot s k i).sawCommit) = true := by
    rcases hgo with h | h <;> rw [h] <;> simp
  unfold poolCommit
  rw [h, hp]
  dsimp only
  refine (if_neg Bool.false_ne_true).trans ((if_neg hno).trans ?_)
  cases keySlot s k (poolSlot s k i).key <;> rfl

/-! ## POOLED -/

section Pooled
variable (hr : readFields p = true) (ho : cOdtype p = 4 ∨ cOdtype p = 5)
include hr ho

theorem poolPooled_missing (h : 0 < ((pooledList p).filter fun e => (keySlot s k e.1).isNone).length) :
    poolPooled k p b s = (false, replyCall k b 0 scMiss ((pooledList p).filter fun e => (keySlot s k e.1).isNone).length 0 s) := by
  unfold poolPooled
  dsimp only
  rw [hr, if_neg (by simp; omega), if_pos h]

theorem poolPooled_all {ds : List (List Byte × W32)} {u : State} (h : ((pooledList p).filter fun e => (keySlot s k e.1).isNone).length = 0)
    (hb : cBoff p / elemSize (cOdtype p) + cDlen p / elemSize (cOdtype p) ≤ blockSize s k / elemSize (eRdtype (svcEntry s k)))
    (hrows : pooledRows k (cBoff p / elemSize (cOdtype p) * elemSize (eRdtype (svcEntry s k))) (cDlen p / elemSize (cOdtype p) * elemSize (eRdtype (svcEntry s k)))
      ((pooledList p).filterMap fun e => (keySlot s k e.1).map fun i => (i, e.2)) s = ((ds, false), u)) :
    poolPooled k p b s = (false, answer b 0 (some ((List.range (cDlen p / elemSize (cOdtype p))).flatMap
      (pooledElem (eRdtype (svcEntry s k)) (cOdtype p) ds))) [] (countCall k false u)) := by
  unfold poolPooled
  dsimp only
  rw [hr, if_neg (by simp; omega), if_neg (by omega), if_neg (Nat.not_lt.mpr hb), hrows]
  rfl

end Pooled
end Operations

/-- Settles O50: each operation at an ACTIVE service, and the timeout of an open slot. -/
theorem tensorPoolCallsDoAsTheySay : Obligations.TensorPoolCallsDoAsTheySay := by
  refine ⟨fun s c hcl hok hact => ?_, fun s k i hcl hk hkind hopen => ?_⟩
  · intro k p say
    have hgood : ∀ {sop : Nat} {f : Option Nat → Nat → List Byte → Back → State → Bool × State} {u : State}, cSop p = sop → f none c.svc c.payload c.back s = (false, u) →
        coreLive s (runCall sop f (.given c) s) = .next (keepFixed s u) := fun hsop hf =>
      (coreLive_next hcl).trans (congrArg (fun t => Host.Outcome.next (keepFixed s t)) (runCall_good hok hact hsop hf))
    refine ⟨fun hsop hkey hp => ⟨fun h => ?_, fun i h => ?_⟩, fun hsop hr hp => ⟨fun h => ?_, fun i h hc hb hm hl => ?_⟩,
      fun hsop hkey hp => ⟨fun h hf => ?_, fun i h hf => ?_⟩, fun hsop h0 h224 hb hp i hopen hbs bad u hw => ?_, fun hsop hp i hopen hgo hne => ?_,
      fun hp i hopen hsop => ?_, fun hsop hkey hp => ⟨fun i h => ?_, fun h => ?_⟩, fun hsop hr ho => ?_⟩
    · exact hgood hsop (poolLookup_missing c.back hkey hp h)
    · exact hgood hsop (poolLookup_found c.back hkey hp h)
    · exact hgood hsop (poolRead_stale c.back hr hp h)
    · obtain ⟨u, hread, hkept⟩ := dieRead_sound hm hl
      refine ⟨u, (hgood hsop (poolRead_committed c.back hr hp h hc hb hread)).trans ?_, hkept.frame, hkept.now⟩
      refine next_answer ?_ ..
      rw [hkept.frame]
      exact ⟨rfl, rfl, rfl⟩
    · exact hgood hsop (poolBegin_taken c.back hkey hp h hf)
    · obtain ⟨handle, hbegin⟩ := poolBegin_opens c.back hkey hp h hf
      have hwrite := dieWrite_only (slotAddr s k i) (zeros (blockSize s k)) s
      have hexec := hgood (f := fun _ => poolBegin) (u := replyCall k c.back 0 scOk 0 handle (modPoolSlot k i (opened p) (dieWrite (slotAddr s k i) (zeros (blockSize s k)) s).2)) hsop hbegin
      generalize (dieWrite (slotAddr s k i) (zeros (blockSize s k)) s).2 = w at hwrite hexec ⊢
      refine ⟨_, hexec, ?_, fun j hj => ?_, ?_⟩
      · refine (poolSlot_replyCall c.back 0 scOk 0 handle (modPoolSlot k i (opened p) w) i).trans ?_
        rw [poolSlot_modPoolSlot, hwrite.poolSlot]
        rfl
      · refine (poolSlot_replyCall c.back 0 scOk 0 handle (modPoolSlot k i (opened p) w) j).trans ?_
        rw [poolSlot_modPoolSlot_other _ _ hj, hwrite.poolSlot]
      · exact replyCall_mem (k := k) c.back 0 scOk 0 handle (modPoolSlot k i (opened p) w)
    · refine (coreLive_next hcl).trans ?_
      rw [runCall_given hok hact hsop (poolData_open c.back h0 h224 hb hp hopen hbs hw)]
      cases bad <;> rfl
    · have hexec := hgood (f := fun _ => poolCommit) hsop (poolCommit_open c.back hp hopen hgo)
      have hown : poolSlot ((keySlot s k (poolSlot s k i).key).elim s (releaseSlot k · s)) k i = poolSlot s k i := by
        cases hj : keySlot s k (poolSlot s k i).key with
        | none => rfl
        | some j => exact poolSlot_modPoolSlot_other slotFreed s fun h => hne (by rw [hj, h])
      have hfree : ∀ j, keySlot s k (poolSlot s k i).key = some j
          → poolSlot ((keySlot s k (poolSlot s k i).key).elim s (releaseSlot k · s)) k j = { gen := (poolSlot s k j).gen + 1 } := fun j hj => by
        rw [hj]
        exact poolSlot_modPoolSlot j slotFreed s
      have hmem : ((keySlot s k (poolSlot s k i).key).elim s (releaseSlot k · s)).mem = s.mem := by
        cases keySlot s k (poolSlot s k i).key <;> rfl
      generalize (keySlot s k (poolSlot s k i).key).elim s (releaseSlot k · s) = w at hexec hown hfree hmem
      obtain ⟨hstate, hkey⟩ := poolSlot_committed (k := k) i (poolSlot s k i).key w
      have hreply := poolSlot_replyCall (k := k) c.back 0 scOk 0 0 (committed k i (poolSlot s k i).key w)
      refine ⟨_, hexec, ?_, ?_, fun j hj => ?_, ?_⟩
      · exact (congrArg PoolSlot.state (hreply i)).trans hstate
      · exact (congrArg PoolSlot.key (hreply i)).trans (hkey.trans (congrArg PoolSlot.key hown))
      · refine (hreply j).trans ?_
        rw [poolSlot_committed_other _ _ fun h => hne (by rw [hj, h]), hfree j hj]
        rfl
      · exact (replyCall_mem (k := k) c.back 0 scOk 0 0 (committed k i (poolSlot s k i).key w)).trans hmem
    · exact hgood hsop (poolAbort_open c.back hp hopen)
    · exact hgood hsop (poolDelete_found c.back hkey hp h)
    · exact hgood hsop (poolDelete_missing c.back hkey hp h)
    · intro missing
      refine ⟨fun h => hgood hsop (poolPooled_missing c.back hr ho h), fun h => ?_⟩
      intro o rd hb ds u hrows
      exact hgood hsop (poolPooled_all c.back hr ho h hb hrows)
  · refine (core_next hcl (decide_eq_true hk)).trans ?_
    unfold putTimeout
    rw [if_pos ⟨hkind, hopen⟩]
    rfl

end Sys2Proof.Machine
end

section
/-! SUPPORT. A state that holds a frame under the series of another source: the frame is admitted behind the reset of its own (R167, R176). -/

namespace Sys2Proof.Machine

open Sys2Proof

/-- A STORE of FNID 2 to stacked memory, the first of its series. -/
def strayFrame : Frame := ⟨BitVec.ofNat 256 (0x02 + 2 * 2 ^ 32 + 32 * 2 ^ 176), [], 0, 0, []⟩

/-- The state after reset, but with a frame of FNID 2 held for reorder under the series of FNID 1. Obligations.MembersAnnounceAndOperationsEnd speaks
of every state. -/
def heldAstray : State := modRte (fun r => { r with rel := { r.rel with rx := [(seriesKey 1 0, { held := [⟨strayFrame, 0, []⟩] })] } }) State.reset

/-- An ATTACH of FNID 2. -/
def attachOfTwo : Frame := mkFrame (BitVec.ofNat 256 (0x31 + mkAttach * 2 ^ 64 + 2 * 2 ^ 80)) []

theorem frameGood_mkFrame (wb : Header) (payload : List Byte) : frameGood (mkFrame wb payload) = true := by
  have htail : tailStomped (mkFrame wb payload) = false := (by decide : bitAt (0 : W32) 31 = false)
  unfold frameGood
  rw [htail]
  exact decide_eq_true rfl

/-- The frames of FNID 2 that the node's point has not answered, once a command has run. -/
def unansweredAfter (o : Out) : Option Nat := match o with | .next t => some (rxOf t .rte (seriesKey 2 0)).unanswered.length | _ => none

theorem unansweredAfter_heldAstray : unansweredAfter (exec (.attach 0 (.given attachOfTwo)) heldAstray) = some 1 := by decide +kernel

/-- Refutes O47: the reset of FNID 2 lets in the frame held under another series, so that a receive state of FNID 2 is not empty behind it. -/
theorem not_membersAnnounceAndOperationsEnd : ¬ Obligations.MembersAnnounceAndOperationsEnd := by
  intro h
  obtain ⟨-, -, -, hattach, -⟩ := h.1 heldAstray 0 attachOfTwo ⟨rfl, by decide⟩ (by decide) (by decide) (frameGood_mkFrame _ _)
  obtain ⟨t, hexec, -, -, hforget, -⟩ := hattach (by decide) (by decide)
  have hnone : unansweredAfter (.next t) = some 0 := by
    show some (rxOf t .rte (seriesKey (mbSubject attachOfTwo.wb) 0)).unanswered.length = some 0
    rw [hforget (.inl (by decide)) .rte rfl 0 (by decide)]
    rfl
  rw [← hexec, unansweredAfter_heldAstray] at hnone
  exact absurd hnone (by decide)

end Sys2Proof.Machine
end

section
/-! SUPPORT. What a run's program cycles keep, and how many fault records accesses of the module's own may add (R336, R340). -/

namespace Sys2Proof.Machine

open Sys2Proof

/-! ## Program cycles -/

/-- A fold keeps what each of its steps keeps. -/
theorem foldl_keeps {α β γ : Type} {f : α → β → α} {g : α → γ} (h : ∀ a x, g (f a x) = g a) (l : List β) (a : α) : g (l.foldl f a) = g a := by
  induction l generalizing a with
  | nil => rfl
  | cons x l ih => exact (ih _).trans (h a x)

theorem issueCell_prog (p : Prog) (t k n : Nat) (sl : BitVec 64) (c : Cell) (i : Ins) (r : Run) : (issueCell p t k n sl c i r).prog = r.prog := by
  unfold issueCell
  dsimp only
  split <;> rfl

theorem issueAll_prog (p : Prog) (a : Arr) (t k slot : Nat) (r : Run) (ins : Nat → Ins) : (issueAll p a t k slot r ins).1.prog = r.prog := by
  unfold issueAll
  generalize List.range 1024 = cells
  refine foldl_keeps (g := fun x : Run × Bool => x.1.prog) (fun x n => ?_) cells (r, false)
  dsimp only
  split
  · exact issueCell_prog ..
  · exact issueCell_prog ..

theorem busWrites_dir (a0 : Arr) (k slot : Nat) (r : Run) (ins : Nat → Ins) (a : Arr) : (busWrites a0 k slot r ins a).dir = a.dir := by
  unfold busWrites
  generalize List.range 1024 = cells
  refine foldl_keeps (g := Arr.dir) (fun x n => ?_) cells a
  dsimp only
  split <;> rfl

theorem convertRow_prog (p : Prog) (j w : Nat) (words : List W32) (old : BitVec 1024) (r : Run) : (convertRow p j w words old r).2.prog = r.prog := by
  unfold convertRow
  dsimp only
  split
  · refine foldl_keeps (g := fun x : List Byte × Run => x.2.prog) (fun x q => ?_) (words.map dec32).zipIdx ([], r)
    rfl
  · refine foldl_keeps (g := fun x : List Byte × Run => x.2.prog) (fun x q => ?_) (words.map dec32).zipIdx ([], r)
    rfl

theorem putRow_dir (r : Nat) (v : BitVec 1024) (bad : List Nat) (a : Arr) : (putRow r v bad a).dir = a.dir := rfl

theorem collect_keeps (p : Prog) (a0 : Arr) (south : Bool) (e : W32) (t : Nat) (cells : Tab Cell) (c : Cyc) :
    (collect p a0 south e t cells c).arr.dir = c.arr.dir ∧ (collect p a0 south e t cells c).run.prog = c.run.prog := by
  unfold collect
  dsimp only
  split
  · exact ⟨rfl, rfl⟩
  · split
    · exact ⟨putRow_dir _ _ _ _, convertRow_prog ..⟩
    · exact ⟨putRow_dir _ _ _ _, rfl⟩

theorem landFills_keeps (t : Nat) (c : Cyc) : (landFills t c).arr.dir = c.arr.dir ∧ (landFills t c).run.prog = c.run.prog := by
  unfold landFills
  refine ⟨foldl_keeps (g := Arr.dir) (fun a f => ?_) c.run.fills c.arr, rfl⟩
  dsimp only
  split
  · exact putRow_dir ..
  · split
    · exact putRow_dir ..
    · rfl

theorem arrCycle_keeps (p : Prog) (c : Cyc) : (arrCycle p c).arr.dir = c.arr.dir ∧ (arrCycle p c).run.prog = c.run.prog := by
  unfold arrCycle
  dsimp only
  cases phaseAt p.phases c.run.cyc with
  | none => exact landFills_keeps ..
  | some x =>
    obtain ⟨ph, tp⟩ := x
    dsimp only
    rw [(landFills_keeps _ _).1, (landFills_keeps _ _).2]
    refine ⟨?_, ?_⟩
    · rw [(collect_keeps _ _ _ _ _ _ _).1, (collect_keeps _ _ _ _ _ _ _).1]
      dsimp only
      exact busWrites_dir _ _ _ _ _ _
    · unfold landWrites
      dsimp only
      rw [(collect_keeps _ _ _ _ _ _ _).2, (collect_keeps _ _ _ _ _ _ _).2]
      dsimp only
      exact issueAll_prog _ _ _ _ _ _ _

theorem arrRun_keeps (p : Prog) (fuel stop : Nat) (c : Cyc) : (arrRun p fuel stop c).arr.dir = c.arr.dir ∧ (arrRun p fuel stop c).run.prog = c.run.prog := by
  induction fuel generalizing c with
  | zero => exact ⟨rfl, rfl⟩
  | succ fuel ih =>
    unfold arrRun
    split
    · exact ⟨rfl, rfl⟩
    · obtain ⟨hd, hp⟩ := ih (arrCycle p c)
      obtain ⟨hd', hp'⟩ := arrCycle_keeps p c
      exact ⟨hd.trans hd', hp.trans hp'⟩

/-! ## Fault records that accesses add -/

/-- `t` has at most `n` fault records more than `s`, where the queue has room for them. -/
structure FaultsAdd (s t : State) (n : Nat) : Prop where
  few : s.glb.faults.length + n ≤ 1024 → t.glb.faults.length ≤ s.glb.faults.length + n

theorem FaultsAdd.same {s t : State} (h : t.glb = s.glb) (n : Nat) : FaultsAdd s t n := ⟨fun _ => by
  rw [h]
  exact Nat.le_add_right _ _⟩

theorem FaultsAdd.from {s t u : State} {n : Nat} (h : t.glb = s.glb) (k : FaultsAdd t u n) : FaultsAdd s u n :=
  ⟨by rw [← h]; exact k.few⟩

theorem FaultsAdd.to {s t u : State} {n : Nat} (k : FaultsAdd s t n) (h : u.glb = t.glb) : FaultsAdd s u n :=
  ⟨by rw [h]; exact k.few⟩

theorem FaultsAdd.trans {s t u : State} {n m : Nat} (h : FaultsAdd s t n) (k : FaultsAdd t u m) : FaultsAdd s u (n + m) := ⟨fun hroom => by
  have h1 := h.few (by omega)
  have h2 := k.few (by omega)
  omega⟩

theorem FaultsAdd.le {s t : State} {n m : Nat} (h : FaultsAdd s t n) (hnm : n ≤ m) : FaultsAdd s t m := ⟨fun hroom => by
  have h1 := h.few (by omega)
  omega⟩

theorem devFault0_adds (kind : Byte) (sev : BitVec 2) (key detail : Nat) (s : State) : FaultsAdd s (devFault0 kind sev key detail s) 1 :=
  ⟨fun hroom => devRecord_length (by omega)⟩

theorem combPlace_glb (c : Nat) (e : CombEntry) (s : State) : (combPlace c e s).glb = s.glb := by
  have hwb : ∀ x, (writeBack x s).glb = s.glb := fun x => by
    unfold writeBack
    split <;> rfl
  unfold combPlace
  dsimp only
  split
  · rfl
  · split
    · exact hwb _
    · rfl

theorem corrected_adds (l : Nat) (data : List Byte) (s : State) : FaultsAdd s (corrected l data s) 1 :=
  (FaultsAdd.from (s := s) (t := modChan (lineChan l) (fun ch => { ch with corr := satAdd ch.corr 1 }) s) rfl (devFault0_adds ..)).to (combPlace_glb ..)

theorem dramStore_glb (l : Nat) (data : List Byte) (poison : Bool) (s : State) : (dramStore l data poison s).glb = s.glb := rfl

theorem judgeEcc_glb (n : Nat) (s : State) : (judgeEcc n s).2.glb = s.glb := by
  unfold judgeEcc
  split <;> rfl

theorem eccFound_adds (l : Nat) (byScrub : Bool) (s : State) : FaultsAdd s (eccFound l byScrub s) 1 := by
  by_cases hp : s.mem.poison.contains l = true
  · rw [eccFound_poisoned hp]
    exact FaultsAdd.same rfl 1
  · have hjudge := judgeEcc_glb (tabGet 0 s.mem.errs l) s
    rcases hj : judgeEcc (tabGet 0 s.mem.errs l) s with ⟨o, u⟩
    rw [hj] at hjudge
    dsimp only at hjudge
    refine FaultsAdd.from hjudge ?_
    cases o with
    | good =>
      rw [eccFound_good hp hj]
      exact FaultsAdd.same rfl 1
    | correctable =>
      rw [eccFound_correctable hp hj]
      exact corrected_adds ..
    | wrong cipher c =>
      cases c with
      | false =>
        rw [eccFound_wrong hp hj]
        exact FaultsAdd.same (dramStore_glb ..) 1
      | true =>
        rw [eccFound_wrong_corrected hp hj]
        exact corrected_adds ..
    | uncorrectable =>
      rw [eccFound_uncorrectable hp hj]
      have hadds := devFault0_adds 0x81 sevError (lineChan l) (lineLocal l) (poisonFound l byScrub (storedWord (bvBytes (freeCipher u)) true) u)
      exact FaultsAdd.from (poisonFound_glb ..) hadds

theorem lineStore_adds (l : Nat) (whole : Bool) (f : List Byte → List Byte) (s : State) : FaultsAdd s (lineStore l whole f s).2 1 := by
  have hload : FaultsAdd s (lineLoad l s).2 1 := by
    unfold lineLoad
    dsimp only
    split
    · exact FaultsAdd.same (combPlace_glb ..) 1
    · exact eccFound_adds ..
  unfold lineStore
  dsimp only
  split <;> exact hload.to (combPlace_glb ..)

theorem memWrite_adds (ls : List Nat) (off len : Nat) (data : List Byte) (isStore : Bool) (g : List Byte → List Byte → List Byte) (s : State) :
    FaultsAdd s (memWrite ls off len data isStore g s).2 ls.length := by
  induction ls generalizing s with
  | nil => exact FaultsAdd.same rfl 0
  | cons l ls ih =>
    unfold memWrite
    dsimp only
    exact ((lineStore_adds ..).trans (ih _)).le (by rw [List.length_cons]; omega)

theorem notePoisonIn_adds (ls : List Nat) (s : State) : FaultsAdd s (notePoisonIn ls s) 1 := by
  unfold notePoisonIn
  split
  · exact FaultsAdd.from (t := setRepro 0 s) rfl (devFault0_adds ..)
  · exact FaultsAdd.same rfl 1

/-! ## Writes of the module's own, where the clock runs -/

/-- `t` is `s` but for power, memory, REPRO, and what faults leave, `n` records at most; the clock still runs. -/
structure OwnOnly (s t : State) (n : Nat) : Prop where
  frame : FaultOnly { s with pwr := t.pwr, mem := t.mem, tick := { s.tick with repro := t.tick.repro } } t
  adds : FaultsAdd s t n
  node : t.pwr.node ≠ 4

theorem OwnOnly.refl {s : State} (h : s.pwr.node ≠ 4) : OwnOnly s s 0 := ⟨FaultOnly.refl s, FaultsAdd.same rfl 0, h⟩

theorem OwnOnly.trans {s t u : State} {n m : Nat} (h : OwnOnly s t n) (k : OwnOnly t u m) : OwnOnly s u (n + m) := by
  refine ⟨?_, h.adds.trans k.adds, k.node⟩
  have h1 := h.frame
  have h2 := k.frame
  unfold FaultOnly at *
  rw [h2, h1]

theorem OwnOnly.le {s t : State} {n m : Nat} (h : OwnOnly s t n) (hnm : n ≤ m) : OwnOnly s t m := ⟨h.frame, h.adds.le hnm, h.node⟩

theorem OwnOnly.arr {s t : State} {n : Nat} (h : OwnOnly s t n) : t.arr = s.arr := by
  have hf := h.frame
  unfold FaultOnly at hf
  rw [hf]

theorem OwnOnly.late {s t : State} {n : Nat} (h : OwnOnly s t n) : t.tick = { s.tick with repro := t.tick.repro } := by
  have hf := h.frame
  unfold FaultOnly at hf
  rw [hf]

theorem wakeNode_own {s : State} (h : s.pwr.node ≠ 4) : OwnOnly s (wakeNode s) 0 := by
  unfold wakeNode
  split
  · exact OwnOnly.refl h
  · dsimp only
    rw [if_neg h]
    refine ⟨?_, FaultsAdd.same ?_ 0, (by decide : (0 : BitVec 3) ≠ 4)⟩ <;> rfl

theorem MemOnly.own {s t : State} {n : Nat} (h : MemOnly s t) (ha : FaultsAdd s t n) (hn : s.pwr.node ≠ 4) : OwnOnly s t n := by
  have hf := h
  unfold MemOnly FaultOnly at hf
  refine ⟨?_, ha, by rw [hf]; exact hn⟩
  unfold FaultOnly
  rw [hf]

theorem notePoisonIn_own {s : State} (h : s.pwr.node ≠ 4) (ls : List Nat) : OwnOnly s (notePoisonIn ls s) 1 := by
  have hadds := notePoisonIn_adds ls s
  unfold notePoisonIn at hadds ⊢
  cases hfind : ls.find? fun l => (lineNow s l).2 with
  | none => exact (OwnOnly.refl h).le (Nat.zero_le 1)
  | some l =>
    rw [hfind] at hadds
    have hf := devFault0_only 0x82 sevWarn (lineChan l) (lineLocal l) (setRepro 0 s)
    dsimp only [notePoison] at hadds ⊢
    generalize devFault0 _ _ _ _ _ = t at hadds hf ⊢
    unfold FaultOnly at hf
    refine ⟨?_, hadds, by rw [hf]; exact h⟩
    unfold FaultOnly
    rw [hf]
    rfl

theorem dieWrite_own {s : State} (h : s.pwr.node ≠ 4) (off : Nat) (data : List Byte) :
    OwnOnly s (dieWrite off data s).2 ((linesOf off data.length).length + 1) := by
  have hwake := wakeNode_own h
  unfold dieWrite
  dsimp only
  generalize wakeNode s = u at *
  split
  · exact hwake.le (Nat.zero_le _)
  · have hwrite := (memWrite_memOnly (linesOf off data.length) off data.length data true (fun _ new => new) u).own (memWrite_adds ..) hwake.node
    dsimp only
    split
    · exact ((hwake.trans hwrite).trans (notePoisonIn_own hwrite.node _)).le (by omega)
    · exact (hwake.trans hwrite).le (by omega)

theorem length_linesOf_le (off len : Nat) : (linesOf off len).length ≤ len + 1 := by
  unfold linesOf
  split
  · exact Nat.zero_le _
  · rw [List.length_map, List.length_range]
    omega

theorem putOwn_own {s : State} (h : s.pwr.node ≠ 4) (off : Nat) (bs : List Byte) : OwnOnly s (putOwn off bs s) (bs.length + 2) := by
  unfold putOwn
  split
  · exact (OwnOnly.refl h).le (Nat.zero_le _)
  · have hl := length_linesOf_le off bs.length
    exact (dieWrite_own h off bs).le (by omega)

end Sys2Proof.Machine
end

section
/-! SUPPORT. Runs of arrays, their ends and their stream accesses (R325-R329, R334-R336, R340). -/

namespace Sys2Proof.Machine

open Sys2Proof

/-! ## What a run's compute leaves alone -/

/-- `t` is `s` but for array `a`, the counts of the array unit, REPRO, and what faults leave. -/
structure RunOnly (s t : State) (a : Nat) : Prop where
  frame : FaultOnly { s with arr := t.arr, tick := { s.tick with repro := t.tick.repro } } t
  others : ∀ b, b ≠ a → arrOf t b = arrOf s b

theorem RunOnly.refl (s : State) (a : Nat) : RunOnly s s a := ⟨FaultOnly.refl s, fun _ _ => rfl⟩

theorem RunOnly.trans {s t u : State} {a : Nat} (h : RunOnly s t a) (k : RunOnly t u a) : RunOnly s u a := by
  refine ⟨?_, fun b hb => (k.others b hb).trans (h.others b hb)⟩
  have h1 := h.frame
  have h2 := k.frame
  unfold FaultOnly at *
  rw [h2, h1]

theorem RunOnly.kept {s t : State} {a : Nat} (h : RunOnly s t a) : t.pwr = s.pwr ∧ t.mem = s.mem ∧ t.tick = { s.tick with repro := t.tick.repro } := by
  have hf := h.frame
  unfold FaultOnly at hf
  rw [hf]
  exact ⟨rfl, rfl, rfl⟩

theorem RunOnly.fixed {s t : State} {a : Nat} (h : RunOnly s t a) : SameFixed s t :=
  (show SameFixed s { s with arr := t.arr, tick := { s.tick with repro := t.tick.repro } } from ⟨rfl, rfl, rfl⟩).trans (FaultOnly.sameFixed h.frame)

theorem FaultOnly.runOnly {s t : State} (h : FaultOnly s t) (a : Nat) : RunOnly s t a := by
  have harr : t.arr = s.arr := h.tickOnly.dieOnly.nodeOnly |> fun h => by
    unfold NodeOnly FaultOnly at h
    rw [h]
  refine ⟨?_, fun b _ => by unfold arrOf; rw [harr]⟩
  unfold FaultOnly at *
  rw [h]

theorem modArray_runOnly (a : Nat) (f : Arr → Arr) (s : State) : RunOnly s (modArray a f s) a :=
  ⟨FaultOnly.refl (modArray a f s), fun _ hb => arrOf_modArray_other f s hb⟩

theorem setRepro_runOnly (i : Nat) (s : State) (a : Nat) : RunOnly s (setRepro i s) a := ⟨FaultOnly.refl (setRepro i s), fun _ _ => rfl⟩

theorem FaultOnly.arrOf {s t : State} (h : FaultOnly s t) (b : Nat) : Machine.arrOf t b = Machine.arrOf s b := by
  unfold FaultOnly at h
  rw [h]
  rfl

section Poisoned
variable {s : State} {a : Nat} {r : Run} (hr : (arrOf s a).run = some r)
include hr

theorem storePoisoned_arr : ∃ q, arrOf (storePoisoned a s) a = { arrOf s a with run := some q } ∧ q.prog = r.prog := by
  have hmod : arrOf (setRepro 0 (modRun a (runStatus 0x15 6) s)) a = { arrOf s a with run := some (runStatus 0x15 6 r) } := by
    show arrOf (modArray a (fun x => { x with run := x.run.map (runStatus 0x15 6) }) s) a = _
    rw [arrOf_modArray, hr]
    rfl
  refine ⟨runStatus 0x15 6 r, ?_, ?_⟩
  · unfold storePoisoned
    rw [hr]
    dsimp only
    split
    · exact hmod
    · exact ((devFault0_only 0x62 sevError a 0 (modArr (fun u => { u with uncorr := satAdd u.uncorr 1 }) (setRepro 0 (modRun a (runStatus 0x15 6) s)))).arrOf a).trans hmod
  · unfold runStatus
    split <;> rfl

theorem storePoisoned_only : RunOnly s (storePoisoned a s) a ∧ FaultsAdd s (storePoisoned a s) 1 := by
  have hmod : RunOnly s (setRepro 0 (modRun a (runStatus 0x15 6) s)) a := (modArray_runOnly a _ s).trans (setRepro_runOnly ..)
  unfold storePoisoned
  rw [hr]
  dsimp only
  split
  · exact ⟨hmod, FaultsAdd.same (s := s) (t := setRepro 0 (modRun a (runStatus 0x15 6) s)) rfl 1⟩
  · refine ⟨hmod.trans ?_, FaultsAdd.from (s := s) (t := modArr (fun u => { u with uncorr := satAdd u.uncorr 1 }) (setRepro 0 (modRun a (runStatus 0x15 6) s))) rfl
      (devFault0_adds ..)⟩
    have hcount : RunOnly (setRepro 0 (modRun a (runStatus 0x15 6) s)) (modArr (fun u => { u with uncorr := satAdd u.uncorr 1 }) (setRepro 0 (modRun a (runStatus 0x15 6) s))) a :=
      ⟨FaultOnly.refl (modArr _ _), fun _ _ => rfl⟩
    exact hcount.trans ((devFault0_only ..).runOnly a)

end Poisoned

section Advance
variable {s : State} {a : Nat} {r : Run} {p : Prog} (hr : (arrOf s a).run = some r) (hp : residentProg (arrOf s a) r.prog = some p) (stop : Nat)
include hr hp

/-- What running an array's cycles leaves: the array alone, its run still there and its directory as it was. -/
theorem advanceRun_all : ∃ q, (arrOf (advanceRun a stop s) a).run = some q ∧ q.prog = r.prog ∧ (arrOf (advanceRun a stop s) a).dir = (arrOf s a).dir
    ∧ RunOnly s (advanceRun a stop s) a ∧ FaultsAdd s (advanceRun a stop s) 1 := by
  obtain ⟨hdir, hprog⟩ := arrRun_keeps p (stop - r.cyc) (stallAt r stop) ⟨arrOf s a, r, false⟩
  unfold advanceRun
  rw [hr]
  dsimp only
  rw [hp]
  dsimp only
  generalize arrRun p (stop - r.cyc) (stallAt r stop) ⟨arrOf s a, r, false⟩ = c at hdir hprog ⊢
  have hmod : arrOf (modArray a (fun _ => { c.arr with run := some c.run }) s) a = { c.arr with run := some c.run } := arrOf_modArray ..
  have honly := modArray_runOnly a (fun _ => { c.arr with run := some c.run }) s
  have hglb : (modArray a (fun _ => { c.arr with run := some c.run }) s).glb = s.glb := rfl
  generalize modArray a (fun _ => { c.arr with run := some c.run }) s = u at hmod honly hglb ⊢
  split
  · have hrun : (arrOf u a).run = some c.run := by rw [hmod]
    obtain ⟨q, harr, hq⟩ := storePoisoned_arr hrun
    obtain ⟨hpo, hadds⟩ := storePoisoned_only hrun
    refine ⟨q, by rw [harr], hq.trans hprog, by rw [harr, hmod]; exact hdir, honly.trans hpo, FaultsAdd.from hglb hadds⟩
  · exact ⟨c.run, by rw [hmod], hprog, by rw [hmod]; exact hdir, honly, FaultsAdd.same hglb 1⟩

end Advance

/-! ## The end of a run (R335, R336) -/

/-- The program of a run that has ended has one RUN more. -/
def ranOnce (p : Prog) (x : Arr) : Arr := { x with dir := x.dir.map fun q => if hdProg q.hdr = hdProg p.hdr then { q with run := q.run + 1 } else q }

theorem residentProg_ranOnce {x : Arr} {prog : BitVec 16} {p : Prog} (h : residentProg x prog = some p) :
    (residentProg (ranOnce p x) prog).map (·.run) = some (p.run + 1) := by
  have hfind : residentProg (ranOnce p x) prog = (residentProg x prog).map fun q => if hdProg q.hdr = hdProg p.hdr then { q with run := q.run + 1 } else q := by
    unfold residentProg ranOnce
    rw [List.find?_map]
    refine congrArg (fun g => Option.map _ (x.dir.find? g)) (funext fun q => ?_)
    show decide (hdProg (if hdProg q.hdr = hdProg p.hdr then { q with run := q.run + 1 } else q : Prog).hdr = prog) = _
    split <;> rfl
  rw [hfind, h]
  show some (if hdProg p.hdr = hdProg p.hdr then { p with run := p.run + 1 } else p : Prog).run = _
  rw [if_pos rfl]

theorem NodeOnly.arr {s t : State} (h : NodeOnly s t) : t.arr = s.arr := by
  unfold NodeOnly FaultOnly at h
  rw [h]

theorem modArray_arr {s t : State} (h : t.arr = s.arr) (a : Nat) (f : Arr → Arr) : (modArray a f t).arr = (modArray a f s).arr := by
  unfold modArray modArr
  dsimp only
  rw [h]

theorem postRun_arr (a : Nat) (p : Prog) (record amax : List Byte) (s : State) : (postRun a p record amax s).arr = (modArray a (ranOnce p) s).arr := by
  have hrec := (putOwn_only (hdCplAddr p.hdr + 32 * (p.run.toNat % 2 ^ hdCplLog p.hdr)) record s).arr
  unfold postRun
  dsimp only
  generalize putOwn _ record s = u at hrec ⊢
  have hamax : (if hdAmaxAddr p.hdr = 0 then u else putOwn (hdAmaxAddr p.hdr) amax u).arr = s.arr := by
    split
    · exact hrec
    · exact (putOwn_only ..).arr.trans hrec
  generalize (if hdAmaxAddr p.hdr = 0 then u else putOwn (hdAmaxAddr p.hdr) amax u) = v at hamax ⊢
  have htally : (if hdCplTallyEn p.hdr then tallyInc (hdCplTally p.hdr) v else v).arr = s.arr := by
    split <;> exact hamax
  generalize (if hdCplTallyEn p.hdr then tallyInc (hdCplTally p.hdr) v else v) = w at htally ⊢
  exact modArray_arr htally a (ranOnce p)

theorem noteVary_arr (vary : Bool) (s : State) : (noteVary vary s).arr = s.arr := by
  unfold noteVary
  split <;> rfl

theorem runExtra_arr (p : Prog) (r : Run) (s : State) : (runExtra p r s).2.arr = s.arr := by
  unfold runExtra
  split <;> rfl

theorem runStall_arr (r : Run) (s : State) : (runStall r s).2.arr = s.arr := by
  unfold runStall
  split <;> rfl

/-- What the end of a run leaves of its array and of the others. -/
theorem finishRun_all {s : State} {a : Nat} {r : Run} {p : Prog} (hp : residentProg (arrOf s a) r.prog = some p) (base : Nat) (p' : Prog) :
    let t := finishRun a base p' r s
    arrOf t a = ranOnce p { arrOf s a with run := none, lastProg := r.prog } ∧ ∀ b, b ≠ a → arrOf t b = arrOf s b := by
  have harr : (finishRun a base p' r s).arr = (modArray a (ranOnce p) (modArray a (fun x => { x with run := none, lastProg := r.prog }) s)).arr := by
    have hextra := runExtra_arr p' r s
    unfold finishRun
    dsimp only
    generalize runExtra p' r s = x at hextra ⊢
    have hstall := runStall_arr r x.2
    generalize runStall r x.2 = y at hstall ⊢
    have hy : y.2.arr = s.arr := hstall.trans hextra
    have hmod : (modArray a (fun x => { x with run := none, lastProg := r.prog }) y.2).arr = (modArray a (fun x => { x with run := none, lastProg := r.prog }) s).arr := modArray_arr hy ..
    have hres : residentProg (arrOf (modArray a (fun x => { x with run := none, lastProg := r.prog }) y.2) a) r.prog = some p := by
      rw [arrOf_modArray]
      unfold arrOf at hp ⊢
      rw [hy]
      exact hp
    rw [noteVary_arr, postRun_arr, hres]
    exact modArray_arr hmod ..
  have hof : ∀ b, arrOf (finishRun a base p' r s) b = arrOf (modArray a (ranOnce p) (modArray a (fun x => { x with run := none, lastProg := r.prog }) s)) b := fun b => by
    unfold arrOf
    rw [harr]
  refine ⟨?_, fun b hb => ?_⟩
  · rw [hof, arrOf_modArray, arrOf_modArray]
  · rw [hof, arrOf_modArray_other _ _ hb, arrOf_modArray_other _ _ hb]

end Sys2Proof.Machine
end

section
/-! SUPPORT. Entries that start runs, stream accesses, halts, and store errors. -/

namespace Sys2Proof.Machine

open Sys2Proof

/-! ## Stream accesses (R325-R329) -/

/-- The store rows of a WRITE, REDUCE or FPUT, read one cycle apart from state `v` on (R325): the state behind, the 256 bytes, and the marked
words. -/
def rowsRead (a cyc g : Nat) (v : State) : State × List Byte × List Nat :=
  let z := advanceRun a (cyc + 1) v
  let marked := ((granuleOf (arrOf v a) g).2.filter (· < 32)) ++ (granuleOf (arrOf z a) g).2.filter (32 ≤ ·)
  (if marked = [] then z else storePoisoned a z, (granuleOf (arrOf v a) g).1.take 128 ++ (granuleOf (arrOf z a) g).1.drop 128, marked)

theorem granuleOf_take (x : Arr) (g : Nat) : (granuleOf x g).1.take 128 = leBytes 128 (storeRow x (2 * g)).toNat := by
  unfold granuleOf
  exact List.take_left' (length_leBytes ..)

/-- The same, as the model's access has it. -/
theorem rowsRead_eq (a cyc g : Nat) (v : State) : rowsRead a cyc g v = (let z := advanceRun a (cyc + 1) v
    let marked := ((granuleOf (arrOf v a) g).2.filter (· < 32)) ++ (granuleOf (arrOf z a) g).2.filter (32 ≤ ·)
    (if marked.isEmpty then z else storePoisoned a z, leBytes 128 (storeRow (arrOf v a) (2 * g)).toNat ++ (granuleOf (arrOf z a) g).1.drop 128, marked)) := by
  unfold rowsRead
  dsimp only
  rw [granuleOf_take]
  simp only [List.isEmpty_iff]

section Access
variable {s u : State} {a k : Nat} {r : Run} {p : Prog} {ecc : List Nat} {o : Option Nat} (hr : (arrOf s a).run = some r)
  (hp : residentProg (arrOf s a) r.prog = some p) (hm : mayIssue s a k p r = true)

/-- A run's state once its compute has come to the issue of its next access of stream `k`. -/
def issued (a k : Nat) (r : Run) (p : Prog) (s : State) : State :=
  modRun a (fun q => { q with next := tabMod 0 q.next k (· + 1) }) (advanceRun a (stIssue (p.streams.getD k 0) (tabGet 0 r.next k)) s)

/-- The slots that the access takes, where the run is scheduled and not throttled. -/
def slotted (a k : Nat) (r : Run) (p : Prog) (s : State) : Option Nat × State :=
  if r.service = false ∧ appliedLevel s = 0 then
    takeSlots (channelOf (stTarget (p.streams.getD k 0) (tabGet 0 r.next k)).toNat) (r.startCyc + stIssue (p.streams.getD k 0) (tabGet 0 r.next k)) (issued a k r p s)
  else (none, issued a k r p s)

include hr hp

theorem appliedLevel_issued : appliedLevel (issued a k r p s) = appliedLevel s := by
  obtain ⟨-, -, -, -, honly, -⟩ := advanceRun_all hr hp (stIssue (p.streams.getD k 0) (tabGet 0 r.next k))
  unfold appliedLevel issued
  rw [← honly.kept.1]
  rfl

include hm

theorem streamAccess_read (hk : stKind (p.streams.getD k 0) = 1) : streamAccess a k ecc s
    = streamRead a (stIssue (p.streams.getD k 0) (tabGet 0 r.next k)) (stGranule (p.streams.getD k 0) (tabGet 0 r.next k))
      (stTarget (p.streams.getD k 0) (tabGet 0 r.next k)).toNat (slotted a k r p s).1
      (decide (r.service = false ∧ appliedLevel s = 0) && !((slotted a k r p s).1.any
        (slotsInTime r.startCyc (stIssue (p.streams.getD k 0) (tabGet 0 r.next k)))))
      (noteErrs (linesOf (stTarget (p.streams.getD k 0) (tabGet 0 r.next k)).toNat 256) ecc (slotted a k r p s).2) := by
  have hlevel := appliedLevel_issued (k := k) hr hp
  unfold streamAccess slotted
  rw [hr]
  dsimp only
  rw [hp]
  dsimp only
  rw [hm, hk]
  by_cases hs : r.service = false ∧ appliedLevel s = 0
  · have hc : 1 < 4 ∧ (!r.service) = true ∧ appliedLevel (issued a k r p s) = 0 := ⟨by decide, by rw [hs.1]; rfl, hlevel.trans hs.2⟩
    unfold issued at hc ⊢
    rw [if_pos hs, if_pos hc, decide_eq_true hs, decide_eq_true hc]
    generalize takeSlots _ _ _ = w
    obtain ⟨o, v⟩ := w
    cases o <;> rfl
  · have hc : ¬ (1 < 4 ∧ (!r.service) = true ∧ appliedLevel (issued a k r p s) = 0) := fun h => hs ⟨by simpa using h.2.1, hlevel.symm.trans h.2.2⟩
    unfold issued at hc ⊢
    rw [if_neg hs, if_neg hc, decide_eq_false hs, decide_eq_false hc]
    rfl

/-- The state that a WRITE or REDUCE reads its rows from, with the slots that it has taken. -/
def slotsNoted (off : Nat) (ecc : List Nat) (w : Option Nat × State) : State :=
  w.1.elim (noteErrs (linesOf off 256) ecc w.2) fun x =>
    modArr (fun u => { u with writeSlots := tabMod [] u.writeSlots (channelOf off) (· ++ [x]) }) (noteErrs (linesOf off 256) ecc w.2)

omit hr hp hm in
theorem noteErrs_memory (ls ecc : List Nat) (s : State) : noteErrs ls ecc s = { s with mem := (noteErrs ls ecc s).mem } := by
  unfold noteErrs
  generalize ls.zip ecc = l
  induction l generalizing s with
  | nil => rfl
  | cons x l ih => exact ih _

omit hr hp hm in
theorem slotsNoted_parts (off : Nat) (ecc : List Nat) (w : Option Nat × State) :
    slotsNoted off ecc w = { noteErrs (linesOf off 256) ecc w.2 with arr := (slotsNoted off ecc w).arr }
      ∧ (∀ x, w.1 = some x → (slotsNoted off ecc w).arr = { w.2.arr with writeSlots := tabMod [] w.2.arr.writeSlots (channelOf off) (· ++ [x]) })
      ∧ (w.1 = none → (slotsNoted off ecc w).arr = w.2.arr) := by
  have harr : (noteErrs (linesOf off 256) ecc w.2).arr = w.2.arr := by rw [noteErrs_memory]
  obtain ⟨o, v⟩ := w
  cases o with
  | none => exact ⟨rfl, fun x hx => (by cases hx), fun _ => harr⟩
  | some y =>
    refine ⟨rfl, fun x hx => ?_, fun hx => (by cases hx)⟩
    cases hx
    exact congrArg (fun u : ArrUnit => { u with writeSlots := tabMod [] u.writeSlots (channelOf off) (· ++ [y]) }) harr

theorem streamAccess_rows (hk : stKind (p.streams.getD k 0) = 2 ∨ stKind (p.streams.getD k 0) = 3) : streamAccess a k ecc s
    = (let y := p.streams.getD k 0
      let i := tabGet 0 r.next k
      let rows := rowsRead a (stIssue y i) (stGranule y i) (slotsNoted (stTarget y i).toNat ecc (slotted a k r p s))
      streamWrite y (stTarget y i).toNat rows.2.1 rows.2.2 rows.1) := by
  have hlevel := appliedLevel_issued (k := k) hr hp
  have hcond : (stKind (p.streams.getD k 0) < 4 ∧ (!r.service) = true ∧ appliedLevel (issued a k r p s) = 0) = (r.service = false ∧ appliedLevel s = 0) := by
    rw [hlevel, Bool.not_eq_true']
    rcases hk with hk | hk <;> rw [hk] <;> simp
  dsimp only
  rw [rowsRead_eq]
  unfold streamAccess
  rw [hr]
  dsimp only
  rw [hp]
  dsimp only
  rw [hm]
  unfold issued at hcond
  simp only [hcond]
  have hif : (if r.service = false ∧ appliedLevel s = 0 then takeSlots (channelOf (stTarget (p.streams.getD k 0) (tabGet 0 r.next k)).toNat)
      (r.startCyc + stIssue (p.streams.getD k 0) (tabGet 0 r.next k)) (issued a k r p s) else (none, issued a k r p s)) = slotted a k r p s := rfl
  unfold issued at hif
  rw [hif]
  generalize slotted a k r p s = w
  obtain ⟨o, v⟩ := w
  rcases hk with hk | hk <;> rw [hk] <;> cases o <;> rfl

theorem streamAccess_put (hk : stKind (p.streams.getD k 0) = 4) : streamAccess a k ecc s
    = (let y := p.streams.getD k 0
      let i := tabGet 0 r.next k
      let rows := rowsRead a (stIssue y i) (stGranule y i) (issued a k r p s)
      streamPut a k i y rows.2.1 rows.2.2 rows.1) := by
  dsimp only
  rw [rowsRead_eq]
  unfold streamAccess
  rw [hr]
  dsimp only
  rw [hp]
  dsimp only
  rw [hm, hk]
  rfl

theorem streamAccess_get (hk : stKind (p.streams.getD k 0) = 5) :
    streamAccess a k ecc s = streamGet a k (tabGet 0 r.next k) (p.streams.getD k 0) (issued a k r p s) := by
  unfold streamAccess
  rw [hr]
  dsimp only
  rw [hp]
  dsimp only
  rw [hm, hk]
  rfl

end Access

/-! ## Entries (R334, R336) -/

/-- What a dropped item leaves. -/
theorem dropItem_all (kind : Nat) (s : State) : let t := dropItem kind s
    t.tick = { s.tick with lateCnt := satAdd s.tick.lateCnt 1, repro := t.tick.repro } ∧ bitAt t.tick.repro 7 = true
      ∧ (s.glb.faults.length < 1024 → Recorded t 0x47 sevInfo kind) ∧ FaultOnly { s with tick := t.tick } t := by
  have hfo := devFault0_only 0x47 sevInfo kind 0 (setRepro 7 (modTick (fun t => { t with lateCnt := satAdd t.lateCnt 1 }) s))
  have hrec := devFault0_recorded 0x47 sevInfo kind 0 (setRepro 7 (modTick (fun t => { t with lateCnt := satAdd t.lateCnt 1 }) s))
  have hbit := bitAt_setRepro (i := 7) (by decide) (modTick (fun t => { t with lateCnt := satAdd t.lateCnt 1 }) s)
  unfold dropItem
  dsimp only
  generalize devFault0 _ _ _ _ _ = t at hfo hrec ⊢
  have htick : t.tick = (setRepro 7 (modTick (fun t => { t with lateCnt := satAdd t.lateCnt 1 }) s)).tick := by
    unfold FaultOnly at hfo
    rw [hfo]
  refine ⟨by rw [htick]; rfl, by rw [htick]; exact hbit, hrec, ?_⟩
  rw [htick]
  exact hfo

theorem length_runRecord (st cause flags : Byte) (vary service : Bool) (prog : BitVec 16) (array : Nat) (run cycles : W32) (tick : BitVec 64) (miss stall : W32) :
    (runRecord st cause flags vary service prog array run cycles tick miss stall).length = 32 := by
  unfold runRecord bvBytes
  simp only [List.length_append, List.length_cons, List.length_nil, length_leBytes]

theorem OwnOnly.withTly {s v : State} {n : Nat} (h : OwnOnly s v n) (x : Tly) : OwnOnly s { v with tly := x } n := by
  refine ⟨?_, h.adds.to rfl, h.node⟩
  have hf := h.frame
  unfold FaultOnly at hf ⊢
  exact congrArg (fun v : State => { v with tly := x }) hf

theorem postRun_own {s : State} (h : s.pwr.node ≠ 4) (a : Nat) (p : Prog) (record amax : List Byte) :
    ∃ w, postRun a p record amax s = modArray a (ranOnce p) w ∧ OwnOnly s w (record.length + 2 + (amax.length + 2)) := by
  have hrec := putOwn_own h (hdCplAddr p.hdr + 32 * (p.run.toNat % 2 ^ hdCplLog p.hdr)) record
  unfold postRun
  dsimp only
  generalize putOwn _ record s = u at hrec ⊢
  have hamax : OwnOnly s (if hdAmaxAddr p.hdr = 0 then u else putOwn (hdAmaxAddr p.hdr) amax u) (record.length + 2 + (amax.length + 2)) := by
    split
    · exact hrec.le (Nat.le_add_right _ _)
    · exact hrec.trans (putOwn_own hrec.node ..)
  generalize (if hdAmaxAddr p.hdr = 0 then u else putOwn (hdAmaxAddr p.hdr) amax u) = v at hamax ⊢
  refine ⟨_, rfl, ?_⟩
  split
  · exact hamax.withTly _
  · exact hamax

/-- An entry whose resident program does not start is dropped with its record. -/
theorem arrayDrop_resident {s : State} {a : Nat} {prog : BitVec 16} {p : Prog} (h : s.pwr.node ≠ 4) (hp : residentProg (arrOf s a) prog = some p) (cause : Nat) :
    let t := arrayDrop a prog cause s
    t.tick.lateCnt = satAdd s.tick.lateCnt 1 ∧ bitAt t.tick.repro 7 = true ∧ (s.glb.faults.length < 512 → Recorded t 0x47 sevInfo 3)
      ∧ (arrOf t a).run = (arrOf s a).run := by
  unfold arrayDrop
  rw [hp]
  dsimp only
  generalize hrec : runRecord _ _ _ _ _ _ _ _ _ _ _ _ = record
  have hlen : record.length = 32 := by rw [← hrec, length_runRecord]
  obtain ⟨w, hw, hown⟩ := postRun_own h a p record []
  obtain ⟨htick, hbit, hrec, hfo⟩ := dropItem_all 3 (modArray a (ranOnce p) w)
  rw [hw]
  refine ⟨?_, hbit, fun hroom => hrec ?_, ?_⟩
  · rw [htick]
    show satAdd w.tick.lateCnt 1 = _
    rw [hown.late]
  · have hfew := hown.adds.few
    rw [hlen] at hfew
    have hle := hfew (by simp; omega)
    exact Nat.lt_of_le_of_lt hle (by simp; omega)
  · have harr : (arrOf (dropItem 3 (modArray a (ranOnce p) w)) a) = arrOf (modArray a (ranOnce p) w) a := hfo.arrOf a
    rw [harr, arrOf_modArray]
    show (arrOf w a).run = _
    unfold arrOf
    rw [hown.arr]

/-! ## Ends (R320, R335) -/

theorem residentProg_congr {x y : Arr} (h : y.dir = x.dir) (prog : BitVec 16) : residentProg y prog = residentProg x prog := by
  unfold residentProg
  rw [h]

section Over
variable {s : State} {a : Nat} {r : Run} {p : Prog} (hr : (arrOf s a).run = some r) (hp : residentProg (arrOf s a) r.prog = some p) (hq : runQuiet p r = true)
include hr hp hq

/-- The end of a quiet run, as the statement speaks of it. -/
theorem runOver_all : let t := runOver a s
    (arrOf t a).run = none ∧ (arrOf t a).lastProg = r.prog ∧ (residentProg (arrOf t a) r.prog).map (·.run) = some (p.run + 1)
      ∧ (r.halted = true → (arrOf t a).store = (arrOf s a).store) ∧ ∀ b, b ≠ a → arrOf t b = arrOf s b := by
  have hends : ∀ (u : State) (q : Run), (arrOf u a).run = some q → q.prog = r.prog → (arrOf u a).dir = (arrOf s a).dir → (∀ b, b ≠ a → arrOf u b = arrOf s b) →
      let t := finishRun a (runBase s p r) p q u
      (arrOf t a).run = none ∧ (arrOf t a).lastProg = r.prog ∧ (residentProg (arrOf t a) r.prog).map (·.run) = some (p.run + 1)
        ∧ (arrOf t a).store = (arrOf u a).store ∧ ∀ b, b ≠ a → arrOf t b = arrOf s b := by
    intro u q hu hprog hdir hothers
    have hres : residentProg (arrOf u a) q.prog = some p := by rw [residentProg_congr hdir, hprog, hp]
    obtain ⟨harr, hb⟩ := finishRun_all hres (runBase s p r) p
    dsimp only
    rw [harr, ← hprog]
    exact ⟨rfl, rfl, residentProg_ranOnce (x := { arrOf u a with run := none, lastProg := q.prog }) hres, rfl, fun b hne => (hb b hne).trans (hothers b hne)⟩
  unfold runOver
  rw [hr]
  dsimp only
  rw [hp]
  dsimp only
  rw [hq]
  cases hh : r.halted with
  | true =>
    obtain ⟨hrun, hlast, hprog, hstore, hothers⟩ := hends s r hr rfl rfl fun _ _ => rfl
    simp only [Bool.not_true, Bool.false_eq_true, if_false, if_true]
    rw [hr]
    exact ⟨hrun, hlast, hprog, fun _ => hstore, hothers⟩
  | false =>
    obtain ⟨q, hrun, hprog, hdir, honly, -⟩ := advanceRun_all hr hp (runBase s p r)
    simp only [Bool.not_true, Bool.false_eq_true, if_false]
    rw [hrun]
    obtain ⟨hrun, hlast, hprog, -, hothers⟩ := hends _ q hrun hprog hdir honly.others
    exact ⟨hrun, hlast, hprog, fun h => h.elim, hothers⟩

end Over

theorem runEnd_over {s : State} {a : Nat} (hw : callWaits s a = false) (hs : stepOn s a = false) : runEnd a s = runOver a s := by
  unfold runEnd
  rw [hw, hs]
  rfl

/-! ## Halts -/

/-- A run that is halted. -/
def haltedRun (q : Run) : Run := runStatus 0x11 1 { q with halted := true, fills := [], open_ := q.open_ - q.flagged.length, flagged := [] }

/-- What the halt of a run leaves, from the state that its cycles have come to. -/
theorem haltDrop_all {s v : State} {a : Nat} {q : Run} {n : Nat} (hv : RunOnly s v a) (hadds : FaultsAdd s v n) (hq : (arrOf v a).run = some q) :
    let t := dropItem 3 (modRun a (fun r => haltedRun r) v)
    (arrOf t a).run = some (haltedRun q) ∧ (arrOf t a).store = (arrOf v a).store ∧ t.tick.lateCnt = satAdd s.tick.lateCnt 1 ∧ bitAt t.tick.repro 7 = true
      ∧ (s.glb.faults.length + n < 1024 → Recorded t 0x47 sevInfo 3) ∧ (∀ b, b ≠ a → arrOf t b = arrOf s b) ∧ t.mem = s.mem := by
  obtain ⟨htick, hbit, hrec, hfo⟩ := dropItem_all 3 (modRun a (fun r => haltedRun r) v)
  dsimp only
  generalize dropItem 3 (modRun a (fun r => haltedRun r) v) = t at htick hbit hrec hfo ⊢
  have harr : ∀ b, arrOf t b = arrOf (modRun a (fun r => haltedRun r) v) b := hfo.arrOf
  have hown : arrOf (modRun a (fun r => haltedRun r) v) a = { arrOf v a with run := some (haltedRun q) } := by
    unfold modRun
    rw [arrOf_modArray, hq]
    rfl
  obtain ⟨-, hmem, htick'⟩ := hv.kept
  refine ⟨by rw [harr, hown], by rw [harr, hown], ?_, hbit, fun hroom => hrec ?_, fun b hb => ?_, hfo.mem.trans hmem⟩
  · rw [htick]
    show satAdd v.tick.lateCnt 1 = _
    rw [htick']
  · have hle := hadds.few (by omega)
    exact Nat.lt_of_le_of_lt hle hroom
  · rw [harr]
    exact (arrOf_modArray_other _ v hb).trans (hv.others b hb)

section Halt
variable {s : State} {a : Nat} {r : Run} {p : Prog} (hr : (arrOf s a).run = some r) (hp : residentProg (arrOf s a) r.prog = some p)
  (hsv : r.service = false) (hh : r.halted = false)
include hr hp hsv hh

theorem runHalt_running (h : appliedLevel s = 0) : runHalt a s
    = dropItem 3 (modRun a (fun r => haltedRun r) (advanceRun a (min (entEnd (s.tick.active.getD r.entry 0) - r.startCyc) (runHorizon p r)) s)) := by
  unfold runHalt
  rw [hr]
  dsimp only
  rw [hp]
  dsimp only
  rw [hsv, hh, if_pos h]
  rfl

theorem runHalt_throttled (h : appliedLevel s ≠ 0) : runHalt a s = dropItem 3 (modRun a (fun r => haltedRun r) s) := by
  unfold runHalt
  rw [hr]
  dsimp only
  rw [hp]
  dsimp only
  rw [hsv, hh, if_neg h]
  rfl

end Halt

/-! ## Starts -/

section Start
variable {s : State} {e : Nat} {x : BitVec 128}

theorem arrayStart_starts (h : startCause s (entArray x) (BitVec.ofNat 16 (entProg x)) = 0) : arrayStart e x s = modArray (entArray x) (fun y => { y with
    run := some { prog := BitVec.ofNat 16 (entProg x), service := false, entry := e, startCyc := entStart x, tick := s.tick.now, step := s.tick.step,
                  cut := decide (0 < appliedLevel s) } }) s := by
  unfold arrayStart
  dsimp only
  rw [if_neg (not_not_intro h)]

theorem arrayStart_drops (h : startCause s (entArray x) (BitVec.ofNat 16 (entProg x)) ≠ 0) : arrayStart e x s
    = arrayDrop (entArray x) (BitVec.ofNat 16 (entProg x)) (startCause s (entArray x) (BitVec.ofNat 16 (entProg x))) s := by
  unfold arrayStart
  dsimp only
  rw [if_pos h]

theorem startCause_absent {a : Nat} {prog : BitVec 16} (h : residentProg (arrOf s a) prog = none) : startCause s a prog = 2 := by
  unfold startCause
  dsimp only
  rw [h]

theorem arrayDrop_absent {a : Nat} {prog : BitVec 16} (h : residentProg (arrOf s a) prog = none) (cause : Nat) : arrayDrop a prog cause s = dropItem 3 s := by
  unfold arrayDrop
  rw [h]

end Start

/-! ## Store errors (R340) -/

/-- One more uncorrectable store error leaves the arrays as they are. -/
theorem arrOf_modArr_uncorr (s : State) (b : Nat) : arrOf (modArr (fun u => { u with uncorr := satAdd u.uncorr 1 }) s) b = arrOf s b := rfl

/-- An array without a run whose slots fail. -/
theorem arraySlotEcc_idle {s : State} {a : Nat} (hr : (arrOf s a).run = none) (hrun : s.svc.running = []) (hk : ∀ k, k < 16 → eKind (svcEntry s k) = 0) :
    arraySlotEcc a s = devFault0 0x63 sevError a 0 (modArr (fun u => { u with uncorr := satAdd u.uncorr 1 })
      (modArray a (fun x => { x with failed := true, dir := [], run := none }) (modRun a (runStatus 0x15 7) s))) := by
  have hfails : arrayFails a s = devFault0 0x63 sevError a 0 (modArr (fun u => { u with uncorr := satAdd u.uncorr 1 })
      (modArray a (fun x => { x with failed := true, dir := [], run := none }) (modRun a (runStatus 0x15 7) s))) := by
    have hno : (arrOf (modRun a (runStatus 0x15 7) s) a).run = none := by
      unfold modRun
      rw [arrOf_modArray, hr]
      rfl
    unfold arrayFails
    dsimp only
    rw [hno]
  have hsvc : (arrayFails a s).svc = s.svc := by
    rw [hfails]
    exact (devFault0_only ..).tickOnly.dieOnly.nodeOnly.svc
  unfold arraySlotEcc
  rw [← hfails]
  generalize arrayFails a s = t at hsvc ⊢
  have hsame : modSvc (fun u => { u with running := u.running.map fun c => if c.2 = some a then (c.1, none) else c }) t = t := by
    have hno : t.svc.running = [] := by rw [hsvc, hrun]
    have hmap : (t.svc.running.map fun c => if c.2 = some a then (c.1, none) else c) = t.svc.running := by
      rw [hno]
      rfl
    exact congrArg (fun l => { t with svc := { t.svc with running := l } }) hmap
  unfold svcArrayLost
  dsimp only
  rw [hsame]
  refine forEach_fixed fun k hk16 => ?_
  have hkind : eKind (svcOf t k).entry = 0 := by
    have := hk k (List.mem_range.mp hk16)
    unfold svcEntry svcOf at this
    unfold svcOf
    rw [hsvc]
    exact this
  split
  · rfl
  · rw [if_pos (.inl hkind)]

/-- A store word that is found uncorrectable while the array runs. -/
theorem arrayStoreEcc_running {s : State} {a word : Nat} {r : Run} (hr : (arrOf s a).run = some r) :
    let u := modArr (fun u => { u with uncorr := satAdd u.uncorr 1 }) (modArray a (fun x => { x with badWords := x.badWords.filter (· ≠ word) ++ [word] }) s)
    arrayStoreEcc a (.uncorrectable word) s = setRepro 0 (modRun a (runStatus 0x15 6) (devFault0 0x62 sevError a 0 u)) := by
  have hrun : (arrOf (devFault0 0x62 sevError a 0 (modArr (fun u => { u with uncorr := satAdd u.uncorr 1 })
      (modArray a (fun x => { x with badWords := x.badWords.filter (· ≠ word) ++ [word] }) s))) a).run = some r := by
    rw [(devFault0_only ..).arrOf, arrOf_modArr_uncorr, arrOf_modArray]
    exact hr
  unfold arrayStoreEcc
  dsimp only
  rw [hrun]
  rfl

theorem arrayStoreEcc_idle {s : State} {a word : Nat} (hr : (arrOf s a).run = none) :
    arrayStoreEcc a (.uncorrectable word) s = devFault0 0x62 sevError a 0 (modArr (fun u => { u with uncorr := satAdd u.uncorr 1 })
      (modArray a (fun x => { x with badWords := x.badWords.filter (· ≠ word) ++ [word] }) s)) := by
  have hrun : (arrOf (devFault0 0x62 sevError a 0 (modArr (fun u => { u with uncorr := satAdd u.uncorr 1 })
      (modArray a (fun x => { x with badWords := x.badWords.filter (· ≠ word) ++ [word] }) s))) a).run = none := by
    rw [(devFault0_only ..).arrOf, arrOf_modArr_uncorr, arrOf_modArray]
    exact hr
  unfold arrayStoreEcc
  dsimp only
  rw [hrun]
  rfl

section Errors
variable {s : State} {a : Nat} (hcl : Clocked s) (ha : a < 864)
include hcl ha

theorem storeErrors (word : Nat) (hword : word < 131072) :
    let u := modArr (fun u => { u with uncorr := satAdd u.uncorr 1 }) (modArray a (fun x => { x with badWords := x.badWords.filter (· ≠ word) ++ [word] }) s)
    exec (.arrayStoreEcc a .corrected) s = .next (modArr (fun u => { u with corr := satAdd u.corr 1 }) s)
    ∧ ((arrOf s a).run = none → ∃ t, exec (.arrayStoreEcc a (.uncorrectable word)) s = .next t ∧ FaultOnly u t
      ∧ (s.glb.faults.length < 1024 → Recorded t 0x62 sevError a))
    ∧ (∀ r, (arrOf s a).run = some r → ∃ t, exec (.arrayStoreEcc a (.uncorrectable word)) s = .next t ∧ (arrOf t a).run = some (runStatus 0x15 6 r)
      ∧ word ∈ (arrOf t a).badWords ∧ bitAt t.tick.repro 0 = true ∧ (∀ b, b ≠ a → arrOf t b = arrOf s b)
      ∧ FaultOnly { u with arr := t.arr, tick := { s.tick with repro := t.tick.repro } } t
      ∧ (s.glb.faults.length < 1024 → Recorded t 0x62 sevError a)) := by
  have hok : (decide (a < 864) && storeEccWord (.uncorrectable word)) = true := by
    rw [decide_eq_true ha]
    exact decide_eq_true hword
  refine ⟨core_next hcl (by rw [decide_eq_true ha]; rfl), fun hr => ?_, fun r hr => ?_⟩
  · refine ⟨_, core_next hcl hok, ?_⟩
    have hfo := devFault0_only 0x62 sevError a 0 (modArr (fun u => { u with uncorr := satAdd u.uncorr 1 })
      (modArray a (fun x => { x with badWords := x.badWords.filter (· ≠ word) ++ [word] }) s))
    have hrec := devFault0_recorded 0x62 sevError a 0 (modArr (fun u => { u with uncorr := satAdd u.uncorr 1 })
      (modArray a (fun x => { x with badWords := x.badWords.filter (· ≠ word) ++ [word] }) s))
    rw [arrayStoreEcc_idle hr, hfo.keepFixed (s := s) rfl rfl rfl]
    exact ⟨hfo, hrec⟩
  · refine ⟨_, core_next hcl hok, ?_⟩
    rw [arrayStoreEcc_running hr]
    generalize hu : modArr (fun u => { u with uncorr := satAdd u.uncorr 1 })
      (modArray a (fun x => { x with badWords := x.badWords.filter (· ≠ word) ++ [word] }) s) = u
    have harr : arrOf u a = { arrOf s a with badWords := (arrOf s a).badWords.filter (· ≠ word) ++ [word] } := by
      rw [← hu, arrOf_modArr_uncorr, arrOf_modArray]
    have hothers : ∀ b, b ≠ a → arrOf u b = arrOf s b := fun b hb => by
      rw [← hu, arrOf_modArr_uncorr]
      exact arrOf_modArray_other _ s hb
    have htick : u.tick = s.tick := by rw [← hu]; rfl
    have hglb : u.glb = s.glb := by rw [← hu]; rfl
    have hfix : SameFixed s u := by rw [← hu]; exact ⟨rfl, rfl, rfl⟩
    have hfo := devFault0_only 0x62 sevError a 0 u
    have hrec := devFault0_recorded 0x62 sevError a 0 u
    generalize devFault0 0x62 sevError a 0 u = v at hfo hrec ⊢
    have hrun := (modArray_runOnly a (fun x => { x with run := x.run.map (runStatus 0x15 6) }) v).trans (setRepro_runOnly 0 _ a)
    have hown : arrOf (setRepro 0 (modRun a (runStatus 0x15 6) v)) a = { arrOf u a with run := some (runStatus 0x15 6 r) } := by
      show arrOf (modArray a (fun x => { x with run := x.run.map (runStatus 0x15 6) }) v) a = _
      rw [arrOf_modArray, hfo.arrOf, harr, hr]
      rfl
    have hall : RunOnly u (setRepro 0 (modRun a (runStatus 0x15 6) v)) a := (hfo.runOnly a).trans hrun
    have hkept : keepFixed s (setRepro 0 (modRun a (runStatus 0x15 6) v)) = setRepro 0 (modRun a (runStatus 0x15 6) v) := (hfix.trans hall.fixed).kept
    rw [hkept]
    refine ⟨by rw [hown], ?_, bitAt_setRepro (by decide) _, fun b hb => (hall.others b hb).trans (hothers b hb), ?_, fun h => hrec (by rw [hglb]; exact h)⟩
    · rw [hown, harr]
      exact List.mem_append_right _ (List.mem_singleton.mpr rfl)
    · rw [← htick]
      exact hall.frame

theorem slotErrors (hr : (arrOf s a).run = none) (hrun : s.svc.running = []) (hk : ∀ k, k < 16 → eKind (svcEntry s k) = 0) :
    ∃ t, exec (.arraySlotEcc a) s = .next t ∧ (arrOf t a).failed = true ∧ (arrOf t a).dir = []
      ∧ (arrOf t a).run = none ∧ (∀ b, b ≠ a → arrOf t b = arrOf s b) ∧ (s.glb.faults.length < 1024 → Recorded t 0x63 sevError a)
      ∧ FaultOnly { s with arr := t.arr } t := by
  refine ⟨_, core_next hcl (decide_eq_true ha), ?_⟩
  rw [arraySlotEcc_idle hr hrun hk]
  generalize hu : modArr (fun u => { u with uncorr := satAdd u.uncorr 1 })
      (modArray a (fun x => { x with failed := true, dir := [], run := none }) (modRun a (runStatus 0x15 7) s)) = u
  have harr : arrOf u a = { arrOf (modRun a (runStatus 0x15 7) s) a with failed := true, dir := [], run := none } := by
    rw [← hu, arrOf_modArr_uncorr, arrOf_modArray]
  have hothers : ∀ b, b ≠ a → arrOf u b = arrOf s b := fun b hb => by
    rw [← hu, arrOf_modArr_uncorr]
    exact (arrOf_modArray_other _ _ hb).trans (arrOf_modArray_other _ s hb)
  have hframe : u = { s with arr := u.arr } := by rw [← hu]; rfl
  have hfo := devFault0_only 0x63 sevError a 0 u
  have hrec := devFault0_recorded 0x63 sevError a 0 u
  have hsame : SameFixed s u := by rw [hframe]; exact ⟨rfl, rfl, rfl⟩
  have hglb : u.glb = s.glb := by rw [hframe]
  generalize devFault0 0x63 sevError a 0 u = t at hfo hrec ⊢
  have hkept : keepFixed s t = t := (hsame.trans hfo.sameFixed).kept
  have htarr : t.arr = u.arr := by
    unfold FaultOnly at hfo
    rw [hfo]
  rw [hkept]
  refine ⟨by rw [hfo.arrOf, harr], by rw [hfo.arrOf, harr], by rw [hfo.arrOf, harr], fun b hb => (hfo.arrOf b).trans (hothers b hb),
    fun h => hrec (by rw [hglb]; exact h), ?_⟩
  rw [htarr, ← hframe]
  exact hfo

end Errors

/-- Settles O49: the start of an entry, stream accesses, ends and halts of runs, and store errors. -/
theorem arrayRunsStartEndAndHalt : Obligations.ArrayRunsStartEndAndHalt := by
  refine ⟨fun s e x hcl hx hk hs hm => ?_, fun s a r p hcl ha hr hp => ⟨fun k ecc hk16 hmay => ?_, fun hw hstep hh hq => ?_, fun hw hstep hh hq => ?_,
    fun hsv hh hlev => ?_, fun hsv hh hlev => ?_⟩, fun s a hcl ha => ⟨fun word hword => ?_, fun hr hrun hk => ?_⟩⟩
  · intro a prog u
    have hexec : exec (.arrayEntryStart e) s = .next (keepFixed s (arrayStart e x u)) := by
      refine (coreLive_next hcl).trans ?_
      rw [startEntry_starts _ hx hk hs hm]
    refine ⟨fun h => ?_, fun h => ?_, fun h hres => ?_⟩
    · rw [hexec, arrayStart_starts (s := u) h]
      rfl
    · obtain ⟨htick, hbit, hrec, hfo⟩ := dropItem_all 3 u
      have hc : startCause u a prog ≠ 0 := by
        rw [startCause_absent (s := u) h]
        decide
      rw [hexec, arrayStart_drops (s := u) hc, arrayDrop_absent (s := u) h]
      refine ⟨_, rfl, ?_, hbit, hrec, ?_⟩
      · exact htick
      · rw [hfo.keepFixed (s := s) rfl rfl rfl]
        exact hfo
    · obtain ⟨q, hq⟩ := Option.ne_none_iff_exists'.mp hres
      obtain ⟨hlate, hbit, hrec, hrun⟩ := arrayDrop_resident (s := u) hcl.2 hq (startCause u a prog)
      rw [hexec, arrayStart_drops (s := u) h]
      exact ⟨_, rfl, hlate, hbit, hrec, hrun⟩
  · intro i y off scheduled u w inTime rows
    have hexec : exec (.arrayStreamAccess a k ecc) s = .next (keepFixed s (streamAccess a k ecc s)) :=
      core_next hcl (by rw [decide_eq_true ha, decide_eq_true hk16]; rfl)
    have hw : w = slotted a k r p s := by
      unfold w slotted scheduled
      simp only [decide_eq_true_eq]
      rfl
    rw [hexec]
    refine ⟨fun hk => ?_, fun hk => ?_, fun hk => ?_, fun hk => ?_⟩
    · rw [streamAccess_read hr hp hmay hk, ← hw]
      rfl
    · obtain ⟨hframe, hsome, hnone⟩ := slotsNoted_parts off ecc w
      refine ⟨slotsNoted off ecc w, hframe, hsome, hnone, ?_⟩
      rw [streamAccess_rows hr hp hmay hk, ← hw]
      rfl
    · rw [streamAccess_put hr hp hmay hk]
      rfl
    · rw [streamAccess_get hr hp hmay hk]
      rfl
  · obtain ⟨hrun, hlast, hprog, -, hothers⟩ := runOver_all hr hp hq
    rw [← runEnd_over hw hstep] at hrun hlast hprog hothers
    exact ⟨_, core_next hcl (decide_eq_true ha), hrun, hlast, hprog, hothers⟩
  · obtain ⟨hrun, hlast, hprog, hstore, hothers⟩ := runOver_all hr hp hq
    rw [← runEnd_over hw hstep] at hrun hlast hprog hstore hothers
    exact ⟨_, core_next hcl (decide_eq_true ha), hrun, hlast, hprog, hstore hh, hothers⟩
  · obtain ⟨q, hq, -, -, honly, hadds⟩ := advanceRun_all hr hp (min (entEnd (s.tick.active.getD r.entry 0) - r.startCyc) (runHorizon p r))
    obtain ⟨hrun, hstore, hlate, hbit, hrec, hothers, hmem⟩ := haltDrop_all honly hadds hq
    rw [← runHalt_running hr hp hsv hh hlev] at hrun hstore hlate hbit hrec hothers hmem
    exact ⟨_, q, hq, core_next hcl (decide_eq_true ha), hrun, hstore, hlate, hbit, fun h => hrec (by omega), hothers, hmem⟩
  · obtain ⟨hrun, -, hlate, hbit, hrec, hothers, hmem⟩ := haltDrop_all (RunOnly.refl s a) (FaultsAdd.same rfl 0) hr
    rw [← runHalt_throttled hr hp hsv hh hlev] at hrun hlate hbit hrec hothers hmem
    exact ⟨_, core_next hcl (decide_eq_true ha), hrun, hlate, hbit, hrec, hothers, hmem⟩
  · exact storeErrors hcl ha word hword
  · exact slotErrors hcl ha hr hrun hk

end Sys2Proof.Machine
end

section
/-! SUPPORT. What the collective engine's sendings, answers and ends leave of the slots (R289-R301). -/

namespace Sys2Proof.Machine

open Sys2Proof

/-! ## What leaves the collective unit alone -/

/-- `t` has the collective unit of `s`, and what no command but a burn changes. -/
structure OffCol (s t : State) : Prop where
  col : t.col = s.col
  fixed : SameFixed s t

theorem OffCol.refl (s : State) : OffCol s s := ⟨rfl, SameFixed.refl s⟩

theorem OffCol.trans {s t u : State} (h : OffCol s t) (k : OffCol t u) : OffCol s u := ⟨k.col.trans h.col, h.fixed.trans k.fixed⟩

theorem OffCol.slotOf {s t : State} (h : OffCol s t) (k : Nat) : Machine.slotOf t k = Machine.slotOf s k := by
  unfold Machine.slotOf
  rw [h.col]

theorem modRel_offCol (p : Point) (f : Rel → Rel) (s : State) : OffCol s (modRel p f s) := ⟨modRel_col p f s, modRel_sameFixed p f s⟩

theorem modEp_offCol (n : Nat) (f : Ep → Ep) (s : State) : OffCol s (modEp n f s) := ⟨rfl, rfl, rfl, rfl⟩

theorem emitFrame_offCol (port : Nat) (f : Frame) (s : State) : OffCol s (emitFrame port f s) := ⟨rfl, rfl, rfl, rfl⟩

theorem FaultOnly.offCol {s t : State} (h : FaultOnly s t) : OffCol s t := by
  refine ⟨?_, h.sameFixed⟩
  unfold FaultOnly at h
  rw [h]

theorem PoolOnly.offCol {s t : State} (h : PoolOnly s t) : OffCol s t := by
  unfold PoolOnly SettledOnly at h
  rw [h]
  exact ⟨rfl, rfl, rfl, rfl⟩

theorem forEach_offCol {α : Type} {f : α → State → State} (h : ∀ a s, OffCol s (f a s)) (l : List α) (s : State) : OffCol s (forEach l f s) := by
  induction l generalizing s with
  | nil => exact OffCol.refl s
  | cons a l ih => exact (h a s).trans (ih (f a s))

theorem noteMinFree_offCol (p : Point) (s : State) : OffCol s (noteMinFree p s) := by
  cases p with
  | ep n => exact modEp_offCol ..
  | rte => exact OffCol.refl s

theorem sendNew_offCol (p : Point) (f : NewFrame) (s : State) : OffCol s (sendNew p f s) := by
  unfold sendNew
  dsimp only
  cases ctxHead (relOf s p) with
  | none => exact OffCol.refl s
  | some i =>
    dsimp only
    exact ((modRel_offCol p _ s).trans (noteMinFree_offCol p _)).trans (emitFrame_offCol ..)

theorem sendOrWait_offCol (p : Point) (f : NewFrame) (s : State) : OffCol s (sendOrWait p f s) := by
  unfold sendOrWait
  split
  · exact sendNew_offCol ..
  · exact modRel_offCol ..

theorem engineSendFor_offCol (x : ColSlot) (k ck : Nat) (dst : BitVec 12) (j : Nat) (s : State) : OffCol s (engineSendFor x k ck dst j s) := sendOrWait_offCol ..

theorem engineSend_offCol (k ck : Nat) (dst : BitVec 12) (j : Nat) (s : State) : OffCol s (engineSend k ck dst j s) := engineSendFor_offCol ..

theorem answer_offCol (p : Point) (wb : Header) (status : Byte) (data : Option (List Byte)) (saved : List Byte) (s : State) :
    OffCol s (answer (.request p wb false) status data saved s) := by
  refine ⟨?_, answer_sameFixed ..⟩
  unfold answer respond
  dsimp only
  rw [if_neg Bool.false_ne_true]
  cases data <;> exact (modRel_col p _ _).trans (modRel_col p _ s)

theorem settleRequest_offCol (p : Point) (wb : Header) (s : State) : OffCol s (settleRequest p wb s) := by
  unfold settleRequest
  dsimp only
  split
  · exact (modRel_offCol p _ s).trans (modRel_offCol p _ _)
  · exact modRel_offCol p _ s

theorem settleRequest_swc_mem (p : Point) (wb : Header) (s : State) : (settleRequest p wb s).swc = s.swc ∧ (settleRequest p wb s).mem = s.mem := by
  unfold settleRequest
  dsimp only
  split
  · exact ⟨(modRel_swc p _ _).trans (modRel_swc p _ s), (modRel_mem p _ _).trans (modRel_mem p _ s)⟩
  · exact ⟨modRel_swc p _ s, modRel_mem p _ s⟩

theorem disownChunks_offCol (k : Nat) (s : State) : OffCol s (disownChunks k s) := forEach_offCol (fun p s => modRel_offCol p _ s) _ s

theorem dropDeliveries_offCol (k : Nat) (s : State) : OffCol s (dropDeliveries k s) :=
  forEach_offCol (fun n s => (modEp_offCol n _ s).trans (forEach_offCol (fun h s => settleRequest_offCol (.ep n) h s) _ _)) _ s

/-! ## The end of a collective by an abort (R301) -/

/-- Slot `k` of `t` is ABORTED and has no chunks, and `n` aborts have been counted. -/
structure Cleared (k : Nat) (n : BitVec 12) (s t : State) : Prop where
  state : (slotOf t k).state = .aborted
  chunks : (slotOf t k).chunks = []
  count : t.col.aborts = n
  fixed : SameFixed s t

theorem Cleared.then {k : Nat} {n : BitVec 12} {s t u : State} (h : Cleared k n s t) (hu : OffCol t u) : Cleared k n s u := by
  refine ⟨?_, ?_, ?_, h.fixed.trans hu.fixed⟩
  · rw [hu.slotOf, h.state]
  · rw [hu.slotOf, h.chunks]
  · rw [hu.col, h.count]

theorem dropInbox_slots (sel : Header → Bool) (s : State) :
    (∀ k, slotOf (dropInbox sel s) k = slotOf s k) ∧ (dropInbox sel s).col.aborts = s.col.aborts ∧ SameFixed s (dropInbox sel s) := by
  unfold dropInbox
  dsimp only
  generalize (s.col.inbox.flatMap fun e => (e.2.filter fun h => sel h.frame.wb).map fun h => (e.1, h)) = gone
  generalize hu : modCol (fun c => { c with inbox := (c.inbox.map fun e => (e.1, e.2.filter fun h => !sel h.frame.wb)).filter fun e => !e.2.isEmpty }) s = u
  have hslots : ∀ k, slotOf u k = slotOf s k := fun k => by rw [← hu]; rfl
  have haborts : u.col.aborts = s.col.aborts := by rw [← hu]; rfl
  have hfixed : SameFixed s u := by rw [← hu]; exact ⟨rfl, rfl, rfl⟩
  have hoff := forEach_offCol (f := fun (x : Nat × HeldFrame) s =>
    let s := freeCells x.2.inPort (wbClass x.2.frame.wb) x.2.cells s
    if wbMcast x.2.frame.wb then s else settleRequest (portPoint x.1) x.2.frame.wb s) (fun x s => by
      have hfree := (freeCells_poolOnly x.2.inPort (wbClass x.2.frame.wb) x.2.cells s).offCol
      dsimp only
      split
      · exact hfree
      · exact hfree.trans (settleRequest_offCol ..)) gone u
  exact ⟨fun k => (hoff.slotOf k).trans (hslots k), by rw [hoff.col, haborts], hfixed.trans hoff.fixed⟩

/-- A collective without members here is cleared. -/
theorem clearAborted_cleared {s : State} {k : Nat} (hb : (slotOf s k).bound = []) : Cleared k s.col.aborts s (clearAborted k s) := by
  have hmod : Cleared k s.col.aborts s (modSlot k (fun x => { x with state := .aborted, chunks := [], bound := [] }) s) :=
    ⟨by rw [slotOf_modSlot], by rw [slotOf_modSlot], rfl, rfl, rfl, rfl⟩
  have hgone := (hmod.then (disownChunks_offCol k _)).then (dropDeliveries_offCol k _)
  unfold clearAborted
  dsimp only
  rw [hb]
  generalize dropDeliveries k _ = u at hgone
  obtain ⟨hslots, haborts, hfixed⟩ := dropInbox_slots (fun h => ofInstance (slotOf s k) h && decide (fCkind h ≤ 4)) u
  exact ⟨by rw [← hgone.state, ← hslots]; rfl, by rw [← hgone.chunks, ← hslots]; rfl, by rw [← hgone.count, ← haborts]; rfl, hgone.fixed.trans hfixed⟩

theorem sendAbort_cleared {k : Nat} {n : BitVec 12} {s t : State} (h : Cleared k n s t) (peer : BitVec 12) : Cleared k n s (sendAbort k peer t) := by
  have hsend := h.then (engineSend_offCol k ckAbort peer 0 t)
  unfold sendAbort
  dsimp only
  generalize engineSend k ckAbort peer 0 t = u at hsend ⊢
  exact ⟨by rw [slotOf_modSlot]; exact hsend.state, by rw [slotOf_modSlot]; exact hsend.chunks, hsend.count, hsend.fixed⟩

theorem sendAborts_cleared {α : Type} {k : Nat} {n : BitVec 12} {s t : State} (g : State → α → BitVec 12) (h : Cleared k n s t) (l : List α) :
    Cleared k n s (forEach l (fun i s => sendAbort k (g s i) s) t) := by
  induction l generalizing t with
  | nil => exact h
  | cons a l ih => exact ih (sendAbort_cleared h (g t a))

/-- Level 3 aborts a collective without members of its own. -/
theorem abortSlot_cleared {s : State} {k : Nat} (hlive : (slotOf s k).state = .live) (hb : (slotOf s k).bound = []) (cause : Nat) :
    Cleared k (satAdd s.col.aborts 1) s (abortSlot k cause s) := by
  have hfo := (devFault0_only 0x53 sevError k cause (modCol (fun c => { c with aborts := satAdd c.aborts 1 }) s)).offCol
  unfold abortSlot
  rw [if_neg (not_not_intro hlive)]
  dsimp only
  generalize devFault0 _ _ _ _ _ = u at hfo ⊢
  have hbu : (slotOf u k).bound = [] := (congrArg ColSlot.bound (hfo.slotOf k)).trans hb
  obtain ⟨hstate, hchunks, hcount, hfixed⟩ := clearAborted_cleared hbu
  have hclear : Cleared k (satAdd s.col.aborts 1) s (clearAborted k u) := by
    refine ⟨hstate, hchunks, ?_, SameFixed.trans (t := u) hfo.fixed hfixed⟩
    rw [hcount, hfo.col]
    rfl
  split
  · exact hclear
  · exact sendAborts_cleared (fun s l => slotFnid s l) hclear _

end Sys2Proof.Machine
end

section
/-! SUPPORT. Frames that the collective engine takes at once (R285-R301). -/

namespace Sys2Proof.Machine

open Sys2Proof

/-! ## A frame that comes to the engine -/

/-- The frame as the engine takes it: it holds no cells of a queue. -/
def bare (port : Nat) (f : Frame) : HeldFrame := ⟨f, port, []⟩

/-- What a discarded frame leaves. -/
def discarded (port : Nat) (f : Frame) (s : State) : State :=
  let u := modRel (portPoint port) (fun r => { r with lateDisc := satAdd r.lateDisc 1 }) s
  if wbMcast f.wb then u else settleRequest (portPoint port) f.wb u

theorem colDiscard_bare (port : Nat) (f : Frame) (s : State) : colDiscard port (bare port f) s = discarded port f s := rfl

theorem discarded_fixed (port : Nat) (f : Frame) (s : State) : SameFixed s (discarded port f s) := by
  have hmod := modRel_sameFixed (portPoint port) (fun r => { r with lateDisc := satAdd r.lateDisc 1 }) s
  unfold discarded
  dsimp only
  split
  · exact hmod
  · exact hmod.trans (settleRequest_offCol ..).fixed

theorem colTaken_bare {port : Nat} {f : Frame} (hv : wbVary f.wb = false) (hm : wbMcast f.wb = false) (s : State) :
    colTaken port (bare port f) s = answer (.request (portPoint port) f.wb false) 0 none [] s := by
  unfold colTaken bare
  dsimp only
  rw [hv, hm]
  rfl

theorem takeCol_given {port ck : Nat} {f : Frame} {ready : State → Frame → Bool} {s : State} (hk : fCkind f.wb = ck) (hr : ready s f = true) (g : HeldFrame → State → State) :
    takeCol port ck ready g (.given f) s = g (bare port f) s := by
  unfold takeCol
  dsimp only
  rw [if_neg (not_not_intro hk), if_pos hr]
  rfl

/-! ## Frames whose collective is not held (R289) -/

section Late
variable {s : State} {port : Nat} {f : Frame} (h : frameHeld s f.wb = false)
include h

theorem upReady_late : upReady s f = true := by
  unfold upReady
  dsimp only
  rw [h]
  split <;> rfl

theorem partReady_late : partReady s f = true := by
  unfold partReady
  dsimp only
  rw [h]
  exact if_pos (.inl rfl)

theorem takeUp_late : takeUp port (bare port f) s = discarded port f s := by
  unfold takeUp bare
  dsimp only
  rw [h]
  split
  · exact if_neg fun hh => Bool.false_ne_true hh.1
  · rfl

theorem takePart_late : takePart port (bare port f) s = discarded port f s := by
  unfold takePart bare
  dsimp only
  rw [h]
  exact if_pos (.inl rfl)

theorem takeDown_late : takeDown port (bare port f) s = discarded port f s := by
  unfold takeDown bare
  dsimp only
  rw [h]
  rfl

theorem takeXchg_late : takeXchg port (bare port f) s = discarded port f s := by
  unfold takeXchg bare
  dsimp only
  rw [h]
  rfl

theorem takeAck_late : takeAck port (bare port f) s = discarded port f s := by
  unfold takeAck bare
  dsimp only
  rw [h]
  rfl

theorem takeFault_late : takeFault port (bare port f) s = discarded port f s := by
  unfold takeFault bare
  dsimp only
  rw [h]
  rfl

theorem takeAbort_late : takeAbort port (bare port f) s = discarded port f s := by
  unfold takeAbort bare
  dsimp only
  rw [h]
  rfl

theorem takeAbortAck_late : takeAbortAck port (bare port f) s = discarded port f s := by
  unfold takeAbortAck bare
  dsimp only
  rw [h]
  rfl

end Late

/-- The commands that bring a frame to the engine, and what each does with a frame that it takes. -/
theorem exec_colFrame {s : State} {port : Nat} {f : Frame} (hcl : Clocked s) (hp : port < 128) {ck : Nat} {ready : State → Frame → Bool} (hk : fCkind f.wb = ck)
    (hr : ready s f = true) (g : HeldFrame → State → State) :
    coreIf (colPortOk port) "port" s (takeCol port ck ready g (.given f) s) = .next (keepFixed s (g (bare port f) s)) := by
  rw [takeCol_given hk hr]
  exact core_next hcl (decide_eq_true hp)

theorem exec_late {s : State} {port : Nat} {f : Frame} (hcl : Clocked s) (hp : port < 128) (h : frameHeld s f.wb = false) {c : Instr} {ck : Nat}
    (hmem : (c, ck) ∈ [(Instr.up port (.given f), ckUp), (.part port (.given f), ckPart), (.down port (.given f), ckDown), (.xchg port (.given f), ckXchg),
      (.ack port (.given f), ckAck), (.colFault port (.given f), ckFault), (.abort port (.given f), ckAbort), (.abortAck port (.given f), ckAbortAck)])
    (hk : fCkind f.wb = ck) : exec c s = .next (discarded port f s) := by
  have hnext : ∀ t, t = discarded port f s → (Host.Outcome.next (keepFixed s t) : Out) = .next (discarded port f s) := fun t ht => by
    rw [ht, (discarded_fixed port f s).kept]
  simp only [List.mem_cons, Prod.mk.injEq, List.not_mem_nil, or_false] at hmem
  rcases hmem with ⟨rfl, rfl⟩ | ⟨rfl, rfl⟩ | ⟨rfl, rfl⟩ | ⟨rfl, rfl⟩ | ⟨rfl, rfl⟩ | ⟨rfl, rfl⟩ | ⟨rfl, rfl⟩ | ⟨rfl, rfl⟩
  · exact (exec_colFrame hcl hp hk (upReady_late h) _).trans (hnext _ (takeUp_late h))
  · exact (exec_colFrame hcl hp hk (partReady_late h) _).trans (hnext _ (takePart_late h))
  · exact (exec_colFrame hcl hp hk rfl _).trans (hnext _ (takeDown_late h))
  · exact (exec_colFrame hcl hp hk rfl _).trans (hnext _ (takeXchg_late h))
  · exact (exec_colFrame hcl hp hk rfl _).trans (hnext _ (takeAck_late h))
  · exact (exec_colFrame hcl hp hk rfl _).trans (hnext _ (takeFault_late h))
  · exact (exec_colFrame hcl hp hk rfl _).trans (hnext _ (takeAbort_late h))
  · exact (exec_colFrame hcl hp hk rfl _).trans (hnext _ (takeAbortAck_late h))

end Sys2Proof.Machine
end

section
/-! SUPPORT. Frames of a collective that its slot holds (R284-R301). -/

namespace Sys2Proof.Machine

open Sys2Proof

/-- The state once a unicast frame has been answered. -/
def took (port : Nat) (f : Frame) (s : State) : State := answer (.request (portPoint port) f.wb false) 0 none [] s

theorem took_offCol (port : Nat) (f : Frame) (s : State) : OffCol s (took port f s) := answer_offCol ..

theorem took_mem (port : Nat) (f : Frame) (s : State) : (took port f s).mem = s.mem := (answer_keeps ..).2

section Held
variable {s : State} {port : Nat} {f : Frame} (hh : frameHeld s f.wb = true) (hv : wbVary f.wb = false) (hm : wbMcast f.wb = false)

theorem took_bare {port : Nat} {f : Frame} (hv : wbVary f.wb = false) (hm : wbMcast f.wb = false) (s : State) : colTaken port (bare port f) s = took port f s := colTaken_bare hv hm s

/-! ## Contributions (R287 step 2) -/

theorem upReady_inTurn {c : Chunk} {r : Nat} (hc : chunkAt (slotOf s (colSlotOf (fColId f.wb))) (fOrd f.wb) = some c)
    (hr : upRank s (slotOf s (colSlotOf (fColId f.wb))) f.wb = some r) (ht : inTurn s (slotOf s (colSlotOf (fColId f.wb))) c r = true) : upReady s f = true := by
  unfold upReady frameSlot
  dsimp only
  rw [hc, hr]
  dsimp only
  rw [ht]
  exact Bool.or_true _

include hh hv hm

theorem takeUp_held {c : Chunk} {r : Nat} (hlive : (slotOf s (colSlotOf (fColId f.wb))).state = .live)
    (hc : chunkAt (slotOf s (colSlotOf (fColId f.wb))) (fOrd f.wb) = some c) (hr : upRank s (slotOf s (colSlotOf (fColId f.wb))) f.wb = some r) :
    takeUp port (bare port f) s = colWork (colSlotOf (fColId f.wb))
      (contribute (colSlotOf (fColId f.wb)) (fOrd f.wb) r (f.payload.take (wbLength f.wb)) (took port f s)) := by
  have htook := took_bare (port := port) hv hm s
  unfold bare at htook
  unfold takeUp bare
  dsimp only
  rw [hc, hr]
  dsimp only
  rw [if_pos ⟨hh, hlive⟩, htook]

/-! ## Partials (R287 step 3, R290) -/

/-- The chunk of a first PART. -/
def firstPart (f : Frame) (e : Nat) : Chunk :=
  { ordinal := fOrd f.wb, entry := e, hdr := some (partHdrOf f), redop := (wbSubop f.wb).toNat, dtype := (wbDtype f.wb).toNat
    parts := [(slotLeaf f.wb, fFrag f.wb, (f.payload.take (wbLength f.wb)).drop 32)] }

/-- A chunk with a PART more. -/
def withPart (f : Frame) (c : Chunk) : Chunk := { c with
  hdr := some (partHdrOf f), redop := (wbSubop f.wb).toNat, dtype := (wbDtype f.wb).toNat
  parts := c.parts ++ [(slotLeaf f.wb, fFrag f.wb, (f.payload.take (wbLength f.wb)).drop 32)] }

omit hh hv hm in
theorem proveDrops_none {k : Nat} (h : (slotOf s k).unproved = []) (group j : Nat) :
    proveDrops k group j s = modSlot k (fun y => { y with unproved := [] }) s := by
  unfold proveDrops
  dsimp only
  rw [h]
  rfl

omit hh hv hm in
/-- The chunks that a first PART opens: those before it that are rooted here, and its own. -/
theorem chunkAt_opened {x : ColSlot} {j : Nat} (h : chunkAt x j = none) (before : List Nat) (hb : ∀ i ∈ before, i < j) (g : Nat → Chunk) (hg : ∀ i, (g i).ordinal = i) :
    (x.chunks ++ (before ++ [j]).map g).find? (fun c => decide (c.ordinal = j)) = some (g j) := by
  unfold chunkAt at h
  have hbefore : (before.map g).find? (fun c => decide (c.ordinal = j)) = none := by
    rw [List.find?_eq_none]
    intro c hc
    obtain ⟨i, hi, rfl⟩ := List.mem_map.mp hc
    rw [hg, decide_eq_true_eq]
    exact Nat.ne_of_lt (hb i hi)
  rw [List.map_append, List.find?_append, List.find?_append, h, hbefore]
  exact List.find?_cons_of_pos (p := fun c : Chunk => decide (c.ordinal = j)) (decide_eq_true (hg j))

omit hh hv hm in
theorem find?_modified {j : Nat} {c : Chunk} (g : Chunk → Chunk) (hg : (g c).ordinal = j) (l : List Chunk) (h : l.find? (fun c => decide (c.ordinal = j)) = some c) :
    (l.map fun c => if c.ordinal = j then g c else c).find? (fun c => decide (c.ordinal = j)) = some (g c) := by
  induction l with
  | nil => cases h
  | cons a l ih =>
    rw [List.map_cons]
    by_cases ha : a.ordinal = j
    · rw [List.find?_cons_of_pos (p := fun c : Chunk => decide (c.ordinal = j)) (decide_eq_true ha)] at h
      cases h
      rw [if_pos ha]
      exact List.find?_cons_of_pos (p := fun c : Chunk => decide (c.ordinal = j)) (decide_eq_true hg)
    · have hno : ¬ decide (a.ordinal = j) = true := fun h => ha (of_decide_eq_true h)
      rw [List.find?_cons_of_neg (p := fun c : Chunk => decide (c.ordinal = j)) hno] at h
      rw [if_neg ha, List.find?_cons_of_neg (p := fun c : Chunk => decide (c.ordinal = j)) hno]
      exact ih h

omit hh hv hm in
theorem chunkAt_modChunk {k j : Nat} {c : Chunk} (h : chunkAt (slotOf s k) j = some c) (g : Chunk → Chunk) (hg : (g c).ordinal = j) :
    chunkAt (slotOf (modChunk k j g s) k) j = some (g c) := by
  unfold modChunk
  rw [slotOf_modSlot]
  exact find?_modified g hg _ h

omit hh hv hm in
theorem took_modSlot (k : Nat) (g : ColSlot → ColSlot) : took port f (modSlot k g s) = modSlot k g (took port f s) := by
  unfold took
  cases portPoint port <;> rfl

omit hh hv hm in
theorem openChunks_first {k j e : Nat} (hn : (slotOf s k).next ≤ j) (hc : chunkAt (slotOf s k) j = none) (he : ordEntry (slotOf s k) j = some e) (group : Nat) :
    ∃ g, takePart.openChunks k j group e s = modSlot k g s ∧ chunkAt (g (slotOf s k)) j = some { ordinal := j, entry := e } := by
  unfold takePart.openChunks
  dsimp only
  rw [if_neg (Nat.not_lt.mpr hn)]
  refine ⟨_, rfl, ?_⟩
  refine (chunkAt_opened hc _ ?_ (fun i => { ordinal := i, entry := (ordEntry (slotOf s k) i).getD e }) fun _ => rfl).trans ?_
  · intro i hi
    obtain ⟨hmem, -⟩ := List.mem_filter.mp hi
    obtain ⟨q, hq, rfl⟩ := List.mem_map.mp hmem
    have := List.mem_range.mp hq
    omega
  · rw [he]
    rfl

omit hh hv hm in
theorem leafIn_absent {c : Chunk} {l leaf frag n : Nat} {bs : List Byte} (hp : c.parts = [(leaf, frag, bs)]) (hl : l ≠ leaf) (hn : 0 < n) : leafIn c l n = false := by
  unfold leafIn
  rw [List.all_eq_false]
  refine ⟨0, List.mem_range.mpr hn, ?_⟩
  rw [hp, List.any_cons, List.any_nil, decide_eq_false (Ne.symm hl)]
  simp

omit hh hv hm in
theorem partIn_first {k : Nat} {e : Nat} (hc : chunkAt (slotOf s k) (fOrd f.wb) = some { ordinal := fOrd f.wb, entry := e })
    (hl : (partLeaves s (partHdrOf f) (slotLeaf f.wb)).any (fun l => decide (l ≠ slotLeaf f.wb)) = true) :
    ∃ g, takePart.partIn (bare port f) k (fOrd f.wb) (partHdrOf f) s = modSlot k g s ∧ chunkAt (g (slotOf s k)) (fOrd f.wb) = some (firstPart f e) := by
  have hnew := chunkAt_modChunk hc (withPart f) rfl
  refine ⟨fun x => { x with chunks := x.chunks.map fun c => if c.ordinal = fOrd f.wb then withPart f c else c }, ?_, ?_⟩
  · unfold takePart.partIn bare
    dsimp only
    unfold withPart at hnew
    rw [hnew]
    dsimp only
    obtain ⟨l, hmem, hne⟩ := List.any_eq_true.mp hl
    have hall : ((partLeaves s (partHdrOf f) (slotLeaf f.wb)).all fun l => leafIn (firstPart f e) l (partFrags (partHdrOf f) (wbSubop f.wb).toNat (wbDtype f.wb).toNat)) = false := by
      rw [List.all_eq_false]
      refine ⟨l, hmem, ?_⟩
      rw [leafIn_absent (c := firstPart f e) rfl (of_decide_eq_true hne) (by unfold partFrags; omega)]
      exact Bool.false_ne_true
    exact if_neg (fun hh => Bool.false_ne_true (hall.symm.trans hh))
  · have := hnew
    unfold modChunk at this
    rw [slotOf_modSlot] at this
    exact this

/-- The first PART of an ordinal whose other leaves have not sent theirs. -/
theorem takePart_first {e : Nat} (hlive : (slotOf s (colSlotOf (fColId f.wb))).state = .live) (hsp : isSpine s = true)
    (he : ordEntry (slotOf s (colSlotOf (fColId f.wb))) (fOrd f.wb) = some e) (hc : chunkAt (slotOf s (colSlotOf (fColId f.wb))) (fOrd f.wb) = none)
    (hn : (slotOf s (colSlotOf (fColId f.wb))).next ≤ fOrd f.wb) (hu : (slotOf s (colSlotOf (fColId f.wb))).unproved = [])
    (hl : (partLeaves s (partHdrOf f) (slotLeaf f.wb)).any (fun l => decide (l ≠ slotLeaf f.wb)) = true) :
    ∃ g, takePart port (bare port f) s = modSlot (colSlotOf (fColId f.wb)) g (took port f s)
      ∧ chunkAt (g (slotOf s (colSlotOf (fColId f.wb)))) (fOrd f.wb) = some (firstPart f e) := by
  have htook := took_bare (port := port) hv hm
  unfold takePart
  rw [show (bare port f).frame = f from rfl]
  dsimp only
  generalize colSlotOf (fColId f.wb) = k at *
  have hno : ¬ ((!frameHeld s f.wb) = true ∨ (slotOf s k).state ≠ .live ∨ (!isSpine s) = true) := by
    rw [hh, hsp, hlive]
    decide
  rw [if_neg hno, proveDrops_none hu, slotOf_modSlot, if_neg (not_not_intro hlive), he, decide_eq_true hn, Bool.or_true]
  dsimp only
  rw [htook, took_modSlot]
  have hslot : slotOf (modSlot k (fun y => { y with unproved := [] }) (took port f s)) k = { slotOf s k with unproved := [] } := by
    rw [slotOf_modSlot, (took_offCol port f s).slotOf]
  obtain ⟨g1, hopen, hchunk⟩ := openChunks_first (s := modSlot k (fun y => { y with unproved := [] }) (took port f s)) (k := k) (j := fOrd f.wb) (e := e) (by rw [hslot]; exact hn)
    (by rw [hslot]; exact hc) (by rw [hslot]; exact he) (phGroup (partHdrOf f))
  rw [hslot] at hchunk
  rw [hopen, modSlot_modSlot, modSlot_modSlot]
  generalize hw : modSlot k _ (took port f s) = w
  have hat : chunkAt (slotOf w k) (fOrd f.wb) = some { ordinal := fOrd f.wb, entry := e } := by
    rw [← hw, slotOf_modSlot, (took_offCol port f s).slotOf]
    exact hchunk
  have hleaves : partLeaves w (partHdrOf f) (slotLeaf f.wb) = partLeaves s (partHdrOf f) (slotLeaf f.wb) := by
    have hcol := (took_offCol port f s).col
    rw [← hw]
    unfold partLeaves memberLeaves
    rw [← hcol]
    rfl
  rw [hat]
  obtain ⟨g2, hpart, hfirst⟩ := partIn_first hat (by rw [hleaves]; exact hl)
  show ∃ g, takePart.partIn (bare port f) k (fOrd f.wb) (partHdrOf f) w = _ ∧ _
  rw [hpart, ← hw, modSlot_modSlot]
  refine ⟨_, rfl, ?_⟩
  rw [← hw, slotOf_modSlot, (took_offCol port f s).slotOf] at hfirst
  exact hfirst

end Held

end Sys2Proof.Machine
end

section
/-! SUPPORT. DOWN, XCHG, ACK, FAULT and ABORT of a collective that its slot holds (R287-R301). -/

namespace Sys2Proof.Machine

open Sys2Proof

theorem ordinal_of_chunkAt {x : ColSlot} {j : Nat} {c : Chunk} (h : chunkAt x j = some c) : c.ordinal = j := by
  have hfound := List.find?_some h
  exact of_decide_eq_true hfound

/-! ## Delivery of a fragment (R295) -/

section Deliver
variable {s : State} {k j r frag a i : Nat} {payload : List Byte} {h : Header} {c : Chunk} {m : Member} {d : BitVec 512}
  (hc : chunkAt (slotOf s k) j = some c) (hm : memberAt (slotOf s k) r = some m) (hd : (slotOf s k).first = some d) (hb : m.binder = .ep a i)
  (hgot : c.got.contains (r, frag) = false)

/-- The pieces of the fragment, cut at granules. -/
def fragCuts (s : State) (k j r frag : Nat) (m : Member) (d : BitVec 512) (payload : List Byte) : List (Nat × List Byte) :=
  granCuts (cRecv m.raw + recvOff d (grpSize (grpOf s (cGroup d))) r (chunkOfOrdinal (slotOf s k).map (planeIdx s) j) + frag * 256) 3 payload

/-- The chunk has the fragment. -/
def fragTaken (k j r frag : Nat) (s : State) : State := modChunk k j (fun c => { c with got := c.got ++ [(r, frag)] }) s

include hc hm hd hb hgot

theorem deliverFrag_ready (hcuts : fragCuts s k j r frag m d payload ≠ []) (hready : (epOf s a).attach = .ready) : deliverFrag k j r frag payload (some h) s
    = pumpDlv a (modEp a (fun e => { e with dlvQueue := e.dlvQueue ++ (fragCuts s k j r frag m d payload).map fun q =>
        { use := .chunk k j r frag (some h), opcode := 0x42, addr := BitVec.ofNat 52 q.1, len := q.2.length, payload := q.2
          ring := ((descOf s a i).map (·.ring)).getD 64 } })
      (modChunk k j (fun c => { c with outst := tabMod 0 c.outst r (· + (fragCuts s k j r frag m d payload).length) }) (fragTaken k j r frag s))) := by
  have hview : chunkView s (slotOf s k) j = some (d, grpOf s (cGroup d), grpSize (grpOf s (cGroup d)), chunkOfOrdinal (slotOf s k).map (planeIdx s) j) := by
    unfold chunkView
    rw [hd]
    rfl
  have hattach : (epOf (fragTaken k j r frag s) a).attach = .ready := hready
  have hne : (fragCuts s k j r frag m d payload).isEmpty = false := by
    rw [← Bool.not_eq_true, List.isEmpty_iff]
    exact hcuts
  unfold deliverFrag
  dsimp only
  rw [hc, hm, hview]
  dsimp only
  rw [hgot, hb]
  unfold fragCuts at hne ⊢
  unfold fragTaken at hattach ⊢
  dsimp only
  rw [hne, hattach]
  rfl

theorem deliverFrag_refused (hcuts : fragCuts s k j r frag m d payload ≠ []) (hready : (epOf s a).attach ≠ .ready) :
    ∃ u, deliverFrag k j r frag payload (some h) s = answer (.request (.ep a) h false) 0x14 none [] u
      ∧ (u = failRank k j r 0x14 (fragTaken k j r frag s) ∨ u = reportRank k j r (failRank k j r 0x14 (fragTaken k j r frag s))) := by
  have hview : chunkView s (slotOf s k) j = some (d, grpOf s (cGroup d), grpSize (grpOf s (cGroup d)), chunkOfOrdinal (slotOf s k).map (planeIdx s) j) := by
    unfold chunkView
    rw [hd]
    rfl
  have hattach : decide ((epOf (fragTaken k j r frag s) a).attach ≠ .ready) = true := decide_eq_true hready
  have hne : (fragCuts s k j r frag m d payload).isEmpty = false := by
    rw [← Bool.not_eq_true, List.isEmpty_iff]
    exact hcuts
  unfold deliverFrag
  dsimp only
  rw [hc, hm, hview]
  dsimp only
  rw [hgot, hb]
  unfold fragCuts at hne
  unfold fragTaken at hattach ⊢
  dsimp only
  rw [hne, hattach]
  simp only [Bool.not_false, Bool.and_true, Bool.or_true, if_true]
  generalize failRank k j r 0x14 _ = v
  refine ⟨_, rfl, ?_⟩
  split
  · exact Or.inr rfl
  · exact Or.inl rfl

end Deliver

/-! ## The frames -/

section Held
variable {s : State} {port : Nat} {f : Frame} {k : Nat} (hk : colSlotOf (fColId f.wb) = k) (hh : frameHeld s f.wb = true)
include hk hh

/-- A chunk that a leaf has reported for. -/
def withLeaf (leaf : Nat) (c : Chunk) : Chunk := { c with leaves := if c.leaves.contains leaf then c.leaves else c.leaves ++ [leaf] }

theorem takeDown_held (hv : wbVary f.wb = false) (hm : wbMcast f.wb = false) {c : Chunk} {r : Nat} (hp : port < 64)
    (hc : chunkAt (slotOf s k) (fOrd f.wb) = some c) (hr : epRank (slotOf s k) port = some r) :
    takeDown port (bare port f) s = colWork k (deliverFrag k (fOrd f.wb) r (fFrag f.wb) (f.payload.take (wbLength f.wb)) (some f.wb) s) := by
  unfold takeDown bare
  dsimp only
  rw [hk, hh, hc]
  dsimp only
  rw [if_pos hp, hr, hv, hm]
  rfl

section Xchg
variable {j : Nat} (hj : ordinalOfChunk (slotOf s k).map (planeIdx s) (fOrd f.wb) = j)
include hj

theorem takeXchg_over (hv : wbVary f.wb = false) (hm : wbMcast f.wb = false) (hc : chunkAt (slotOf s k) j = none) (hcur : j < (slotOf s k).cursor)
    (hst : (slotOf s k).state ≠ .aborted) : takeXchg port (bare port f) s = took port f s := by
  have htook := took_bare (port := port) hv hm s
  unfold bare at htook
  unfold takeXchg bare
  dsimp only
  rw [hk, hh, hj, hc]
  simp only [Bool.not_true, Bool.false_eq_true, if_false]
  rw [if_pos ⟨hcur, hst⟩, htook]

theorem takeXchg_held {c : Chunk} {d : BitVec 512} {m : Member} (hc : chunkAt (slotOf s k) j = some c) (hd : (slotOf s k).first = some d)
    (hm : memberAt (slotOf s k) ((receivers d (grpSize (grpOf s (cGroup d))) (fOrd f.wb)).headD 0) = some m)
    (hr : port < 64 → epRank (slotOf s k) port = some ((receivers d (grpSize (grpOf s (cGroup d))) (fOrd f.wb)).headD 0)) :
    takeXchg port (bare port f) s = colWork k (deliverFrag k j ((receivers d (grpSize (grpOf s (cGroup d))) (fOrd f.wb)).headD 0) 0
      (f.payload.take (wbLength f.wb)) (some f.wb) s) := by
  unfold takeXchg bare
  dsimp only
  rw [hk, hh, hj, hc, hd]
  simp only [Bool.not_true, Bool.false_eq_true, if_false]
  rw [if_pos ⟨by rw [hm]; rfl, hr⟩]
  rfl

end Xchg

theorem takeAck_ends (hv : wbVary f.wb = false) (hm : wbMcast f.wb = false) {c : Chunk} {hd : BitVec 256} (hc : chunkAt (slotOf s k) (fOrd f.wb) = some c) (hhd : c.hdr = some hd)
    (hdown : c.downSent = true) (hl : ∀ l ∈ memberLeaves s (phGroup hd), l ∈ c.leaves ∨ l = slotLeaf f.wb) :
    ∃ g, takeAck port (bare port f) s = modSlot k g (took port f s) ∧ chunkAt (g (slotOf s k)) (fOrd f.wb) = none
      ∧ (g (slotOf s k)).chunksDone = satAdd (slotOf s k).chunksDone 1 := by
  have htook := took_bare (port := port) hv hm s
  unfold takeAck
  rw [show (bare port f).frame = f from rfl]
  dsimp only
  rw [hk, hh, htook]
  have hc' : chunkAt (slotOf (took port f s) k) (fOrd f.wb) = some c := by rw [(took_offCol port f s).slotOf, hc]
  have hord := ordinal_of_chunkAt hc
  have hnew := chunkAt_modChunk hc' (withLeaf (slotLeaf f.wb)) hord
  have hleaves : ∀ g, memberLeaves (modChunk k (fOrd f.wb) g (took port f s)) (phGroup hd) = memberLeaves s (phGroup hd) := fun g => by
    unfold memberLeaves
    rw [← (took_offCol port f s).col]
    rfl
  have hall : ((memberLeaves s (phGroup hd)).all fun l => (withLeaf (slotLeaf f.wb) c).leaves.contains l) = true := by
    unfold withLeaf
    dsimp only
    rw [List.all_eq_true]
    intro l hmem
    rw [List.contains_iff_mem]
    split
    case isTrue hin =>
      rcases hl l hmem with h | rfl
      · exact h
      · exact List.contains_iff_mem.mp hin
    case isFalse =>
      rcases hl l hmem with h | rfl
      · exact List.mem_append_left _ h
      · exact List.mem_append_right _ (List.mem_singleton.mpr rfl)
  have hcond : ((withLeaf (slotLeaf f.wb) c).downSent && (memberLeaves (modChunk k (fOrd f.wb) (withLeaf (slotLeaf f.wb)) (took port f s)) (phGroup hd)).all fun l =>
      (withLeaf (slotLeaf f.wb) c).leaves.contains l) = true := by
    rw [hleaves, hall, Bool.and_true]
    exact hdown
  unfold withLeaf at hnew hcond
  rw [hnew]
  simp only [Bool.not_true, Bool.false_eq_true, if_false]
  rw [hhd]
  dsimp only
  rw [if_pos hcond]
  unfold endChunk modChunk
  rw [modSlot_modSlot]
  refine ⟨_, rfl, ?_, rfl⟩
  unfold chunkAt
  rw [List.find?_eq_none]
  intro x hx
  simpa using (List.mem_filter.mp hx).2

theorem takeFault_spine (hv : wbVary f.wb = false) (hm : wbMcast f.wb = false) (hlive : (slotOf s k).state = .live) (hb : (slotOf s k).bound = []) :
    Cleared k (satAdd s.col.aborts 1) s (takeFault port (bare port f) s) := by
  have htook := took_bare (port := port) hv hm s
  have hoff := took_offCol port f s
  unfold takeFault
  rw [show (bare port f).frame = f from rfl, hk, hh, htook]
  obtain ⟨hstate, hchunks, hcount, hfixed⟩ := abortSlot_cleared (s := took port f s) (k := k) (by rw [hoff.slotOf, hlive]) (by rw [hoff.slotOf, hb]) 3
  exact ⟨hstate, hchunks, by rw [← hoff.col]; exact hcount, SameFixed.trans (t := took port f s) hoff.fixed hfixed⟩

theorem takeAbort_again (hv : wbVary f.wb = false) (hm : wbMcast f.wb = false) (hst : (slotOf s k).state = .aborted) :
    takeAbort port (bare port f) s = engineSend k ckAbortAck (wbSrc f.wb) 0 (took port f s) := by
  have htook := took_bare (port := port) hv hm s
  unfold takeAbort
  rw [show (bare port f).frame = f from rfl]
  dsimp only
  rw [hk, hh, htook, hst]
  rfl

theorem takeAbort_first (hv : wbVary f.wb = false) (hm : wbMcast f.wb = false) (hst : (slotOf s k).state ≠ .aborted) (hb : (slotOf s k).bound = []) :
    Cleared k s.col.aborts s (takeAbort port (bare port f) s) := by
  have htook := took_bare (port := port) hv hm s
  have hoff := took_offCol port f s
  unfold takeAbort
  rw [show (bare port f).frame = f from rfl]
  dsimp only
  rw [hk, hh, htook, decide_eq_true hst]
  obtain ⟨hstate, hchunks, hcount, hfixed⟩ := clearAborted_cleared (s := took port f s) (k := k) (by rw [hoff.slotOf, hb])
  have hclear : Cleared k s.col.aborts s (clearAborted k (took port f s)) :=
    ⟨hstate, hchunks, by rw [← hoff.col]; exact hcount, SameFixed.trans (t := took port f s) hoff.fixed hfixed⟩
  have hsent := hclear.then (engineSend_offCol k ckAbortAck (wbSrc f.wb) 0 _)
  simp only [Bool.not_true, Bool.false_eq_true, if_false, if_true, Bool.true_and]
  split
  · exact sendAborts_cleared (fun s i => spineFnid s i) hsent _
  · exact hsent

theorem takeAbortAck_held (hv : wbVary f.wb = false) (hm : wbMcast f.wb = false) : takeAbortAck port (bare port f) s
    = modSlot k (fun x => { x with aborts := tabSet 0 x.aborts (wbSrc f.wb).toNat 0 }) (took port f s) := by
  have htook := took_bare (port := port) hv hm s
  unfold takeAbortAck
  rw [show (bare port f).frame = f from rfl]
  dsimp only
  rw [hk, hh, htook]
  rfl

end Held

end Sys2Proof.Machine
end

section
/-! SUPPORT. Resends, occurrences and timeouts of the collective engine (R284, R285, R291, R301). -/

namespace Sys2Proof.Machine

open Sys2Proof

/-! ## ABORT_RESEND (R301) -/

section Resend
variable {s : State} {k : Nat} {peer : BitVec 12}

theorem sendAbort_fixed : SameFixed s (sendAbort k peer s) := (engineSend_offCol k ckAbort peer 0 s).fixed

theorem abortResend_sends (ho : (s.col.oldAborts.filter fun o => decide (o.slot = k) && decide (o.peer = peer)) = [])
    (h0 : 0 < tabGet 0 (slotOf s k).aborts peer.toNat) (hn : tabGet 0 (slotOf s k).aborts peer.toNat ≤ retxMax s.rte.rel.retxCfg) :
    abortResend k peer s = sendAbort k peer s := by
  unfold abortResend
  dsimp only
  rw [ho]
  show (if tabGet 0 (slotOf s k).aborts peer.toNat = 0 then s else _) = _
  rw [if_neg (Nat.ne_of_gt h0)]
  exact if_pos hn

theorem abortResend_gives_up (ho : (s.col.oldAborts.filter fun o => decide (o.slot = k) && decide (o.peer = peer)) = [])
    (h0 : 0 < tabGet 0 (slotOf s k).aborts peer.toNat) (hn : retxMax s.rte.rel.retxCfg < tabGet 0 (slotOf s k).aborts peer.toNat) :
    abortResend k peer s = devFault0 0x54 sevError k peer.toNat (modSlot k (fun x => { x with aborts := tabSet 0 x.aborts peer.toNat 0 }) s) := by
  unfold abortResend
  dsimp only
  rw [ho]
  show (if tabGet 0 (slotOf s k).aborts peer.toNat = 0 then s else _) = _
  rw [if_neg (Nat.ne_of_gt h0)]
  exact if_neg (Nat.not_le.mpr hn)

/-- The list of old collectives with one entry replaced. -/
def oldPut (o : OldAbort) (l : List OldAbort) (s : State) : State :=
  modCol (fun c => { c with oldAborts := c.oldAborts.filter (fun y => !decide (y = o)) ++ l }) s

/-- The sending of an old collective's ABORT. -/
def oldSent (o : OldAbort) (s : State) : State :=
  engineSendFor { colId := o.colId, epoch := o.epoch, redop := o.redop, dtype := o.dtype } o.slot ckAbort o.peer 0 s

theorem oldResend_sends {o : OldAbort} (hn : o.sends ≤ retxMax s.rte.rel.retxCfg) : oldResend o s = oldPut o [{ o with sends := o.sends + 1 }] (oldSent o s) := if_pos hn

theorem oldResend_gives_up {o : OldAbort} (hn : retxMax s.rte.rel.retxCfg < o.sends) : oldResend o s = devFault0 0x54 sevError o.slot o.peer.toNat (oldPut o [] s) :=
  if_neg (Nat.not_le.mpr hn)

theorem oldResend_slots (o : OldAbort) (x : Nat) : slotOf (oldResend o s) x = slotOf s x := by
  rcases Nat.lt_or_ge (retxMax s.rte.rel.retxCfg) o.sends with hn | hn
  · rw [oldResend_gives_up hn]
    exact (devFault0_only ..).offCol.slotOf x
  · rw [oldResend_sends hn]
    exact (engineSendFor_offCol ..).slotOf x

theorem oldResend_fixed (o : OldAbort) : SameFixed s (oldResend o s) := by
  rcases Nat.lt_or_ge (retxMax s.rte.rel.retxCfg) o.sends with hn | hn
  · rw [oldResend_gives_up hn]
    exact (devFault0_only ..).offCol.fixed
  · rw [oldResend_sends hn]
    exact (engineSendFor_offCol ..).fixed

theorem oldResend_counted {o : OldAbort} (hn : o.sends ≤ retxMax s.rte.rel.retxCfg) : { o with sends := o.sends + 1 } ∈ (oldResend o s).col.oldAborts := by
  rw [oldResend_sends hn]
  exact List.mem_append_right _ (List.mem_singleton.mpr rfl)

/-- After the last send the entry is gone, with COL_ABANDON. -/
theorem oldResend_abandons {o : OldAbort} (hn : retxMax s.rte.rel.retxCfg < o.sends) : let t := oldResend o s
    ¬ o ∈ t.col.oldAborts ∧ (s.glb.faults.length < 1024 → Recorded t 0x54 sevError o.slot) ∧ FaultOnly { s with col := { s.col with oldAborts := t.col.oldAborts } } t := by
  have hfo := devFault0_only 0x54 sevError o.slot o.peer.toNat (oldPut o [] s)
  have hrec := devFault0_recorded 0x54 sevError o.slot o.peer.toNat (oldPut o [] s)
  rw [oldResend_gives_up hn]
  dsimp only
  generalize devFault0 _ _ _ _ _ = t at hfo hrec ⊢
  rw [hfo.offCol.col]
  refine ⟨?_, hrec, hfo⟩
  unfold oldPut
  show ¬ o ∈ s.col.oldAborts.filter (fun y => !decide (y = o)) ++ []
  simp

theorem abortResend_old {o : OldAbort} (ho : (s.col.oldAborts.filter fun o => decide (o.slot = k) && decide (o.peer = peer)) = [o])
    (h0 : tabGet 0 (slotOf s k).aborts peer.toNat = 0) : abortResend k peer s = oldResend o s := by
  unfold abortResend
  dsimp only
  rw [ho]
  show (if tabGet 0 (slotOf (oldResend o s) k).aborts peer.toNat = 0 then oldResend o s else _) = _
  rw [oldResend_slots]
  exact if_pos h0

end Resend

/-! ## DOWN_REPEAT (R291) -/

theorem chunks_one {bs : List Byte} (h0 : 0 < bs.length) (h : bs.length ≤ 256) : chunks 256 17 bs = [bs] := by
  have hne : bs.isEmpty = false := by
    cases bs with
    | nil => cases h0
    | cons a l => rfl
  unfold chunks
  rw [hne, List.take_of_length_le h, List.drop_of_length_le h]
  rfl

theorem downRepeat_once {s : State} {k j : Nat} {c : Chunk} {d : BitVec 512} (hc : chunkAt (slotOf s k) j = some c) (hdown : c.downSent = true) (hto : c.downTo = none)
    (hover : entryOver s c.entry = false) (hs : singleStage s = true) (hd : (slotOf s k).first = some d) (h0 : 0 < c.down.length) (hlen : c.down.length ≤ 256) :
    ∃ wb mask, downRepeat k j s = emitMcast (124 + j % 2) (mkFrame wb (pad32 c.down)) mask s := by
  unfold downRepeat
  dsimp only
  rw [hc]
  dsimp only
  rw [hdown, hto, hover, hs, hd, chunks_one h0 hlen]
  exact ⟨_, _, rfl⟩

/-! ## Occurrences (R285) -/

theorem modSlot_congr {s : State} {k : Nat} {f g : ColSlot → ColSlot} (h : f (slotOf s k) = g (slotOf s k)) : modSlot k f s = modSlot k g s := by
  unfold modSlot modCol tabMod
  unfold slotOf at h
  dsimp only
  rw [h]

theorem releaseChunks_spine {s : State} {k : Nat} (hsp : isSpine s = true) (hd : (slotOf s k).first = none) (e n : Nat) :
    releaseChunks e k n s = modSlot k (fun y => { y with cursor := y.cursor + n, released := y.released ++ [(e, y.cursor)] }) s := by
  have hcount : slotCount s (slotOf s k) = none := by
    unfold slotCount
    rw [hd]
    rfl
  unfold releaseChunks
  dsimp only
  rw [hsp, hcount]
  dsimp only
  unfold colWork
  refine Eq.trans ?_ (modSlot_congr (f := fun x => { x with cursor := (slotOf s k).cursor + n, chunks := x.chunks ++ [], released := x.released ++ [(e, (slotOf s k).cursor)] }) ?_)
  · exact if_pos hsp
  · rw [List.append_nil]

theorem occurrence_spine {s : State} {e : Nat} {x : BitVec 128} (hx : entryNow s e = some x) (hk : entKind x = kindCol) (hs : ¬ e ∈ s.tick.started) (hm : mayStart s = true)
    (hh : slotHolds (slotOf s (colSlotOf (entColId x))) (entColId x) (entEpoch x) = true) (hlive : (slotOf s (colSlotOf (entColId x))).state = .live)
    (hsp : isSpine s = true) (hd : (slotOf s (colSlotOf (entColId x))).first = none) :
    occurrence e s = modSlot (colSlotOf (entColId x)) (fun y => { y with cursor := y.cursor + entChunks x, released := y.released ++ [(e, y.cursor)] })
      (modTick (fun t => { t with started := t.started ++ [e] }) s) := by
  unfold occurrence
  rw [hx]
  dsimp only
  rw [hh, startEntry_starts _ hx hk hs hm, if_pos hlive]
  exact releaseChunks_spine (s := modTick (fun t => { t with started := t.started ++ [e] }) s) hsp hd e (entChunks x)

/-! ## COL_HOLD_TIMEOUT (R284) -/

/-- The descriptor of a member that ends with a status. -/
def memberDesc (m : Member) (status : Byte) (d : Desc) : Desc := { d with status := maxStatus d.status status, bytes := m.bytes }

theorem completeMember_ep {s : State} {n i : Nat} {m : Member} {d : Desc} (hb : m.binder = .ep n i) (hd : descOf s n i = some d) (status : Byte) :
    Sends s (completeMember m status s) n (fun e => endedDesc i d.ring (onDesc i (memberDesc m status) e)) (cplOf s (ringOf s n d.ring) (memberDesc m status d) (maxStatus d.status status)) := by
  have hof : descOf (modEp n (onDesc i (memberDesc m status)) s) n i = some (memberDesc m status d) := by
    unfold descOf at hd ⊢
    rw [epOf_modEp]
    exact (tabGet_mod_same none (epOf s n).descs i _).trans (congrArg (Option.map (memberDesc m status)) hd)
  unfold completeMember
  rw [hb]
  exact finishDesc_sends (f := onDesc i (memberDesc m status)) hof ⟨rfl, rfl, rfl, rfl, rfl, rfl⟩

theorem holdTimeout_member {s : State} {b : Binder} {m : Member} (h : (s.col.held.find? fun m => decide (m.binder = b)) = some m) :
    holdTimeout b s = completeMember m 0x11 (modCol (fun c => { c with held := c.held.filter fun m => decide (m.binder ≠ b) }) s) := by
  unfold holdTimeout
  rw [h]

end Sys2Proof.Machine
end

section
/-! PROOF. Collective frames, occurrences and aborts (R284, R285, R289, R291, R295, R298-R301). -/

namespace Sys2Proof.Machine

open Sys2Proof

/-- Settles O48: frames of instances, resends of aborts, repeats, occurrences and holds, each by the lemma of its command. -/
theorem collectiveFramesMoveInstances : Obligations.CollectiveFramesMoveInstances := by
  refine ⟨fun s port f hcl hp => ?_, fun s k j peer hcl hk => ?_, fun s e x hcl hx hkind hs hm => ?_, fun s n i m d hcl hfind hd => ?_⟩
  · intro wb k pt
    refine ⟨fun c ck hmem hck hlate => ?_, fun hh hv hm => ?_⟩
    · intro u
      have hcol := (settleRequest_offCol pt wb u).col
      obtain ⟨hswc, hmem'⟩ := settleRequest_swc_mem pt wb u
      exact ⟨exec_late hcl hp hlate hmem hck, modRel_col .., hcol.trans (modRel_col ..), hswc.trans (modRel_swc ..), hmem'.trans (modRel_mem ..)⟩
    · intro tk
      have hfixed : keepFixed s tk = tk := (took_offCol port f s).fixed.kept
      have hmem : tk.mem = s.mem := took_mem port f s
      have hslot : ∀ x, slotOf tk x = slotOf s x := (took_offCol port f s).slotOf
      refine ⟨fun c r hck hlive hc hr ht => ?_, fun e hck hlive hsp he hc hn hu hready hl => ?_, fun c d r hck hport hc hd hr => ?_, fun hck => ?_,
        fun c d m a i hck => ?_, fun c hd hck hc hhd hdown hl => ?_, fun hck hsp hlive hb => ?_, fun hck hst => ?_, fun hck hst hb => ?_, fun hck => ?_⟩
      · refine (exec_colFrame hcl hp hck (upReady_inTurn hc hr ht) _).trans ?_
        rw [takeUp_held hh hv hm hlive hc hr]
        rfl
      · obtain ⟨g, htake, hfirst⟩ := takePart_first (port := port) hh hv hm hlive hsp he hc hn hu hl
        have hsame : keepFixed s (modSlot k g tk) = modSlot k g tk := SameFixed.kept ((took_offCol port f s).fixed)
        refine ⟨modSlot k g tk, ((exec_colFrame hcl hp hck hready _).trans ?_), ?_, fun j hj => ?_, rfl, hmem⟩
        · rw [htake]
          exact congrArg Host.Outcome.next hsame
        · rw [slotOf_modSlot, hslot]
          exact hfirst
        · exact (slotOf_modSlot_other g tk hj).trans (hslot j)
      · refine (exec_colFrame hcl hp hck rfl _).trans ?_
        rw [takeDown_held rfl hh hv hm hport hc hr]
      · intro j hc hcur hst
        refine (exec_colFrame hcl hp hck rfl _).trans ?_
        rw [takeXchg_over rfl hh rfl hv hm hc hcur hst]
        exact congrArg Host.Outcome.next hfixed
      · intro x j kk n' dst cuts hc hd hmem hb hr hgot hcuts got
        have htake := takeXchg_held (port := port) rfl hh rfl hc hd hmem hr
        refine ⟨fun hready => ?_, fun hready => ?_⟩
        · refine (exec_colFrame hcl hp hck rfl _).trans ?_
          rw [htake, deliverFrag_ready hc hmem hd hb hgot hcuts hready]
          rfl
        · obtain ⟨u, hu, hor⟩ := deliverFrag_refused (h := f.wb) hc hmem hd hb hgot hcuts hready
          refine ⟨u, (exec_colFrame hcl hp hck rfl _).trans ?_, hor⟩
          rw [htake, hu]
      · obtain ⟨g, htake, hnone, hdone⟩ := takeAck_ends (port := port) rfl hh hv hm hc hhd hdown hl
        have hsame : keepFixed s (modSlot k g tk) = modSlot k g tk := SameFixed.kept ((took_offCol port f s).fixed)
        refine ⟨modSlot k g tk, ((exec_colFrame hcl hp hck rfl _).trans ?_), ?_, ?_, fun j hj => ?_, rfl⟩
        · rw [htake]
          exact congrArg Host.Outcome.next hsame
        · rw [slotOf_modSlot, hslot]
          exact hnone
        · rw [slotOf_modSlot, hslot]
          exact hdone
        · exact (slotOf_modSlot_other g tk hj).trans (hslot j)
      · obtain ⟨hstate, hchunks, hcount, hfix⟩ := takeFault_spine (port := port) (k := k) rfl hh hv hm hlive hb
        exact ⟨_, (exec_colFrame hcl hp hck rfl _).trans (congrArg Host.Outcome.next hfix.kept), hstate, hchunks, hcount⟩
      · refine (exec_colFrame hcl hp hck rfl _).trans ?_
        rw [takeAbort_again rfl hh hv hm hst]
        exact congrArg Host.Outcome.next (SameFixed.kept ((took_offCol port f s).fixed.trans (engineSend_offCol ..).fixed))
      · obtain ⟨hstate, hchunks, hcount, hfix⟩ := takeAbort_first (port := port) (k := k) rfl hh hv hm hst hb
        exact ⟨_, (exec_colFrame hcl hp hck rfl _).trans (congrArg Host.Outcome.next hfix.kept), hstate, hchunks⟩
      · refine (exec_colFrame hcl hp hck rfl _).trans ?_
        rw [takeAbortAck_held rfl hh hv hm]
        exact congrArg Host.Outcome.next (SameFixed.kept ((took_offCol port f s).fixed))
  · intro n old
    have hexec : exec (.abortResend k peer) s = .next (keepFixed s (abortResend k peer s)) := core_next hcl (decide_eq_true hk)
    refine ⟨fun ho h0 hn => ?_, fun o ho hn => ?_, fun ho h0 hn => ?_, fun c d hc hdown hto hover hs hd h0 hlen => ?_⟩
    · rw [hexec, abortResend_sends ho h0 hn, sendAbort_fixed.kept]
    · rw [hexec, abortResend_old ho hn]
      have hslot : o.slot = k := by
        have hmem : o ∈ old := by rw [ho]; exact List.mem_singleton.mpr rfl
        have hcond := (List.mem_filter.mp hmem).2
        rw [Bool.and_eq_true] at hcond
        exact of_decide_eq_true hcond.1
      refine ⟨oldResend o s, congrArg Host.Outcome.next (oldResend_fixed o).kept, oldResend_slots o, oldResend_counted, fun hsends => ?_⟩
      rw [← hslot]
      exact oldResend_abandons hsends
    · rw [hexec, abortResend_gives_up ho h0 hn]
      have hfo := devFault0_only 0x54 sevError k peer.toNat (modSlot k (fun x => { x with aborts := tabSet 0 x.aborts peer.toNat 0 }) s)
      have hrec := devFault0_recorded 0x54 sevError k peer.toNat (modSlot k (fun x => { x with aborts := tabSet 0 x.aborts peer.toNat 0 }) s)
      have hslot : slotOf (modSlot k (fun x => { x with aborts := tabSet 0 x.aborts peer.toNat 0 }) s) k = { slotOf s k with aborts := tabSet 0 (slotOf s k).aborts peer.toNat 0 } := slotOf_modSlot ..
      generalize devFault0 _ _ _ _ _ = t at *
      refine ⟨t, congrArg Host.Outcome.next (SameFixed.kept (hfo.offCol.fixed)), ?_, hrec, ?_⟩
      · rw [hfo.offCol.slotOf, hslot]
        exact tabGet_set_same 0 0 (slotOf s k).aborts peer.toNat
      · rw [hfo.offCol.col]
        exact hfo
    · obtain ⟨wb, mask, hrep⟩ := downRepeat_once hc hdown hto hover hs hd h0 hlen
      refine ⟨emitMcast (124 + j % 2) (mkFrame wb (pad32 c.down)) mask s, mkFrame wb (pad32 c.down), mask, ?_, rfl, tabGet_mod_same [] s.swc.inbound (124 + j % 2) (· ++ [(mkFrame wb (pad32 c.down), mask)]), rfl⟩
      refine (core_next hcl (decide_eq_true hk)).trans ?_
      rw [hrep]
      rfl
  · intro k hh hlive hsp hd
    refine (coreLive_next hcl).trans ?_
    rw [occurrence_spine hx hkind hs hm hh hlive hsp hd]
    rfl
  · have hb : m.binder = .ep n i := by
      have hfound := List.find?_some hfind
      exact of_decide_eq_true hfound
    have hsends := completeMember_ep (s := modCol (fun c => { c with held := c.held.filter fun m => decide (m.binder ≠ .ep n i) }) s) (status := 0x11) hb hd
    rw [← holdTimeout_member hfind] at hsends
    have hdescs := hsends.descs.1
    have hexec : exec (.colHoldTimeout (.ep n i)) s = .next (holdTimeout (.ep n i) s) := (coreLive_next hcl).trans (congrArg Host.Outcome.next (SameFixed.kept (by
      rw [hsends.only.parts.1]
      exact ⟨rfl, rfl, rfl⟩)))
    obtain ⟨honly, -, hsent⟩ := hsends
    generalize holdTimeout (.ep n i) s = t at *
    have hheld : t.col.held = s.col.held.filter fun m => decide (m.binder ≠ .ep n i) := by
      rw [honly.parts.1]
      rfl
    refine ⟨t, hexec, ?_, hheld, ?_, hsent⟩
    · unfold descOf
      rw [hdescs]
      exact tabGet_set_same none none _ i
    · rw [hheld]
      exact honly

end Sys2Proof.Machine
end
